-- ==== Sys2Proof/Word.lean ====
section
/-! DEFINITION. Widths, unit numbers and plain arithmetic of the Opjan OJQ8 / OJQ6 block. -/

namespace Sys2Proof

abbrev Byte := BitVec 8
abbrev Word := BitVec 32
abbrev Tick := BitVec 64

abbrev QuayId := Fin 8
abbrev BerthId := Fin 4
abbrev CellId := Fin 16
abbrev QueueId := Fin 256
abbrev CtxId := Fin 256
abbrev FlagId := Fin 1024
abbrev PortId := Fin 12
abbrev TrigId := Fin 12
abbrev SctxId := Fin 24
abbrev PipeId := Fin 4
abbrev SessId := Fin 32
abbrev UnitId := Fin 3
abbrev ChanId := Fin 32
abbrev BankId := Fin 16
abbrev SliceId := Fin 32
abbrev DeckId := Fin 8
abbrev HmCore := Fin 3
abbrev WinId := Fin 16

/-- Replace entry `i` of a bank of like registers by `f` of it. -/
def updAt {α : Type} {n : Nat} (v : Vector α n) (i : Fin n) (f : α → α) : Vector α n :=
  v.set i.val (f v[i])

/-- A counter that stays at its greatest value. -/
def satInc {w : Nat} (x : BitVec w) : BitVec w :=
  if x = BitVec.allOnes w then x else x + 1

/-- A counter that adds `k` and stays at its greatest value. -/
def satAdd {w : Nat} (x : BitVec w) (k : Nat) : BitVec w :=
  if x.toNat + k < 2 ^ w then BitVec.ofNat w (x.toNat + k) else BitVec.allOnes w

end Sys2Proof
end

