-- ==== Sys2Proof/Syntax.lean ====
section
/-! DEFINITION. The commands of the block: one constructor of `Instr` per row of the opcode table,
and the operand types they carry. The layouts of cargos, Manifests and control words are private
(R5): a command that meets one carries its decoded contents. What the world does (sensors, cameras, faults) comes as operands
too. -/

namespace Sys2Proof

/-- The three parts of R1. -/
inductive Part where
  | ojq8_32a | ojq8_32i | ojq6_16a
  deriving DecidableEq, Repr

/-- Severities of R489, in the encoding of R412. -/
inductive Severity where
  | information | corrected | contained | fatal
  deriving DecidableEq, Repr

/-- A location that a repair map marks bad (R63, R202, R498). -/
inductive RepairLoc where
  | column (q : QuayId) (b : BerthId) (c : CellId) (col : Fin 16)
  | cell (q : QuayId) (b : BerthId) (c : CellId)
  | holdRow (q : QuayId) (b : BerthId) (bank : Fin 8) (row : Fin 1024)
  | storeRow (q : QuayId) (bank : BankId) (row : Fin 6144)
  | harbourLine (slice : SliceId) (way : Fin 16) (set : Fin 512)
  | l2Line (line : Nat)
  | sfuLane (q : QuayId) (b : BerthId) (lane : Fin 32)
  | swellLane (q : QuayId) (b : BerthId) (lane : Fin 16)
  | transform (q : QuayId)
  | arbiter (q : QuayId)
  | berth (q : QuayId) (b : BerthId)
  deriving DecidableEq, Repr

/-- An item of the secure store that can be lost whole, in the order of the table of R83. -/
inductive StoreItem where
  | helper | rollback | minver | repairMap | certificate | counters
  deriving DecidableEq, Repr

/-- Copies of secure-store items whose tags a stage finds not to hold: which item, which of the two (R82). -/
abbrev BadCopies := List (StoreItem × Fin 2)

/-- What firmware writes to the secure store by itself (R82): one step of a monotonic counter, or bytes of
the sealed customer data, sealed under the sealing key of FK(version) (R84, R85). -/
inductive StoreWrite where
  | count (n : Fin 16) | seal (version offset : Nat) (data : List Byte)
  deriving DecidableEq, Repr

/-- Registers of configuration space that R101, R106, R110–R113 and R129–R132 speak of, by their names in the
PCIe Base specification. -/
inductive CfgReg where
  | vendorDevice | command | revisionClass | headerType | bar (n : Fin 6) | subsystem | interruptPin
  | powerCap | powerControl | expressCap | deviceCap | deviceControl | linkCap | linkControl | deviceCap2 | deviceControl2
  | msixControl | msixTable | msixPba | aerStatus | aerMask | aerSeverity | aerControl | headerLog (n : Fin 4)
  | substatesCap | substatesControl | serialLo | serialHi | rebarCap | rebarControl
  | ptmCap | ptmControl
  deriving DecidableEq, Repr

/-- Where a host write of a register goes: BAR0, BAR4 (R112), or configuration space. -/
inductive WriteTarget where
  | bar0 (offset : Nat) | bar4 (offset : Nat) | config (r : CfgReg)
  deriving DecidableEq, Repr

/-- The answer to an outbound read (R130). -/
inductive CplStatus where
  | data (bytes : List Byte) | poisoned | unsupported | abort
  deriving DecidableEq, Repr

/-- What an outbound read was made for. -/
inductive CplFor where
  | entry (q : QueueId) | command (q : QueueId) (idx : Word)
  deriving DecidableEq, Repr

/-- SFU mode a cargo states (R270). -/
inductive SfuNeed where
  | native | g1 | either
  deriving DecidableEq, Repr

/-- One tile of a cargo's cycle table (R178, R432). -/
structure TileInfo where
  cycles : Nat
  live : Nat
  deriving DecidableEq, Repr

/-- One entry of a cargo: what R425, R430 and R397 say Isian states for it. -/
structure CargoEntry where
  tiles : List TileInfo
  deckCores : Nat
  deckTicks : Nat
  restartable : Bool
  image : Nat
  argLen : Nat
  steps : Nat
  deriving DecidableEq, Repr

/-- Initial settings of an adaptive tensor compiled into a cargo (R265). -/
structure AdaptInit where
  tensor : BitVec 16
  expMin : Int
  expMax : Int
  lowSteps : Nat
  thresh : Nat
  deriving DecidableEq, Repr

/-- The decoded contents of a cargo image, and its length in bytes. -/
structure Cargo where
  length : Nat
  family : Nat
  sfu : SfuNeed
  shape : Nat
  quays : Nat
  arrays : Nat
  entries : List CargoEntry
  adaptive : List AdaptInit
  deriving DecidableEq, Repr

/-! ## Manifest -/

/-- The primitives of R369, in the table's order. -/
inductive Primitive where
  | black | defect | hdr | shading | demosaic | denoise | temporal | wb | tone | csc | mesh | scaler
  | stats
  deriving DecidableEq, Repr

/-- Output formats of R376. -/
inductive OutFormat where
  | c16 (channels : Nat) (signed : Bool) | c32 (channels : Nat) (signed : Bool) | nv12 | p010
  deriving DecidableEq, Repr

/-- Where a stream takes its frames (R358). -/
inductive StreamSource where
  | port (p : Nat) (vc : Nat) | host | branch (parent : Nat)
  deriving DecidableEq, Repr

/-- One stream definition of the device section (R167, R358, R369). -/
structure StreamDef where
  source : StreamSource
  pipe : Nat
  width : Nat
  height : Nat
  fps : Nat
  exposures : Nat
  bits : Nat
  hdrOffset : Nat
  meshReach : Nat
  dataType : Byte
  prims : List Primitive
  tables : List (Nat × List Byte) := []
  format : OutFormat
  outW : Nat
  outH : Nat
  deriving DecidableEq, Repr

/-- Trigger programming (R166). -/
structure Trigger where
  first : Nat
  period : Nat
  width : Nat
  deriving DecidableEq, Repr

/-- A locked region (R165): offset in the window, size, and its user as MEMCTL_LOCKUSER codes it. -/
structure LockedRegion where
  offset : Nat
  size : Nat
  user : Nat
  deriving DecidableEq, Repr

/-- A Quay section (R160): its Quay, the shape code and the partition it names, if any. -/
structure QuaySection where
  quay : Nat
  shape : Nat
  partition : Option Nat
  deriving DecidableEq, Repr

/-- Exclusive-or masks (R163): five channel masks, four bank masks. -/
structure Masks where
  ch : Vector (BitVec 36) 5
  bank : Vector (BitVec 36) 4
  deriving DecidableEq, Repr

/-- The device section. `partitions` lists the contexts each partition admits (R162). -/
structure DeviceSection where
  ident : BitVec 64
  partitions : List (List Nat)
  streams : List (Nat × StreamDef)
  masks : Masks
  triggers : List (Nat × Trigger)
  locked : List LockedRegion
  deriving DecidableEq, Repr

/-- The image read at MANIFEST_ADDR, decoded. `intact` is that it can be read intact and its tag
holds (check 1); `item` is Isian's number of the item a failing check names. -/
structure ManifestImage where
  intact : Bool
  family : Nat
  memGib : Nat
  length : Nat
  builtFor : BitVec 64
  device : Option DeviceSection
  quays : List QuaySection
  item : BitVec 16
  deriving DecidableEq, Repr

/-! ## Tiles -/

/-- Ports that read the Hold: the four streams whose elements carry tags (R194, R203), and the Quay DMA, whose
reads are compared with none (R192). -/
inductive TagPort where
  | activation | weight | partialSum | sfu | quayDma
  deriving DecidableEq, Repr

/-- What the ECC of a word read finds. -/
inductive EccResult where
  | ok | corrected | uncorrectable
  deriving DecidableEq, Repr

/-- Addresses of a Hold in units of 4 bits: 1 MiB (R308). -/
def holdUnits : Nat := 2 ^ 21

/-- Bank and row of a Hold address (R308): consecutive 128-byte rows lie in consecutive banks (log entry
106). -/
def holdBank (at_ : Nat) : Fin 8 := Fin.ofNat 8 (at_ / 256)
def holdRow (at_ : Nat) : Fin 1024 := Fin.ofNat 1024 (at_ / 2048)

/-- One read of a tile from a Hold: when, in which Berth, for which port and cell, at which address, the ordinal
that the schedule gives the element's vector in its stream, and the ECC result found. -/
structure HoldRead where
  cycle : Nat
  berth : BerthId
  port : TagPort
  cell : CellId
  at_ : Nat
  ordinal : Nat
  ecc : EccResult
  deriving DecidableEq, Repr

/-- One scheduled Hold write of a tile: the SFU's, or else the quantiser's (R192). It puts output `out` of operation
`op` at an address: a code of the quantiser, or an F32 result of the SFU (R268). `ordinal` is that of its vector in the
stream that will read it (log entry 121). -/
structure HoldWrite where
  cycle : Nat
  berth : BerthId
  at_ : Nat
  sfu : Bool
  op : Nat
  out : Nat
  ordinal : Nat
  deriving DecidableEq, Repr

/-- Where the Quay DMA writes one stream of an operation in a Hold (R181, R194): the ordinal of its first vector
in the port's stream, the address of its first element, and the pitch of vectors (words) and of elements. -/
structure HoldPlace where
  berth : BerthId
  port : TagPort
  op : Nat
  first : Nat
  base : Nat
  vecPitch : Nat
  elemPitch : Nat
  deriving DecidableEq, Repr

/-- A virtual range that the Quay DMA fetches, and where it lies in the Quay store. -/
structure TileSource where
  va : BitVec 64
  length : Nat
  at_ : Nat
  deriving DecidableEq, Repr

/-- Lane modes: multiply-accumulate (R190) and the seven of R205. -/
inductive LaneMode where
  | mac | l1 | l2 | ham | minPlus | maxPlus | csMin | csMax
  deriving DecidableEq, Repr

/-- Operand element types of the array, the quantiser and the SFU (R186, R189, R268). -/
inductive ElemType where
  | i4 | u4 | i8 | u8 | i16 | u16 | e4m3 | e5m2 | bf16 | f16 | f32
  deriving DecidableEq, Repr

/-- A rescale entry (R252). `bias` is the integer constant, or the binary32 bits for float inputs. -/
structure Rescale where
  mult : BitVec 31
  shift : BitVec 6
  zout : Int
  lo : Int
  hi : Int
  bias : Int
  zw : Int
  rmode : BitVec 2
  deriving DecidableEq, Repr

/-- Drain select (R210): minimum or maximum, whether the pass joins the running pairs of the passes before
it in the tile, whether its pairs run on into a later pass in place of being delivered, the logical output number
of each column, and the Hold addresses of the pairs that seed it and of those it leaves at the tile's end. -/
inductive Select where
  | off
  | on (isMax joins runsOn : Bool) (outIndex : List Nat) (seed keep : Option Nat)
  deriving DecidableEq, Repr

/-- Row statistics a cargo may write out (R286). -/
inductive Statistic where
  | mean | var | ms
  deriving DecidableEq, Repr

/-- Where element g of a tensor lies (R218, R219); `linear` is (n, c, h, w) order. -/
inductive Layout where
  | linear
  | blocked (block channels height width : Nat)
  | nhwc (channels height width : Nat)
  deriving DecidableEq, Repr

/-- Where the outputs of an operation lie in their tensor's (n, c, h, w) order (R255, R300): the global logical
index of the first, the steps from a channel to the next and from a row of the operation's own positions to the next,
and how many positions such a row has. -/
structure Region where
  gBase : Nat
  chanStride : Nat
  rowStride : Nat
  perRow : Nat
  deriving DecidableEq, Repr

/-- Where a use's outputs go and what they become: `region` gives their global logical indices,
`indexVa` takes the U32 indices of compare-select and drain select (R205, R210), `draw` and `drawsPerStep`
are d and D of R296, `step` is t, `mask` a threshold and draw index (R298). With `raw` the delivered I32 or
F32 values are written as they are. -/
structure OutSpec where
  va : BitVec 64
  layout : Layout
  indexVa : Option (BitVec 64)
  type : ElemType
  rescale : List Rescale
  tensor : BitVec 16
  adaptiveOut : Bool
  tensorIn : Option (BitVec 16)
  draw : Nat
  drawsPerStep : Nat
  step : Nat
  region : Region
  mask : Option (Nat × Nat)
  raw : Bool
  deriving DecidableEq, Repr

/-- Padding modes of R222. -/
inductive PadMode where
  | zero | constant | mirror | repeat
  deriving DecidableEq, Repr

/-- One spatial dimension of a window (R220). -/
structure WinDim where
  extent : Nat
  kernel : Nat
  stride : Nat
  dilation : Nat
  before : Nat
  after : Nat
  deriving DecidableEq, Repr

/-- A window over an input tensor given in (c, h, w) order (R216). -/
structure Window where
  input : List Int
  channels : Nat
  groups : Nat
  cOut : Nat
  dimH : WinDim
  dimW : WinDim
  mode : PadMode
  padCode : Int
  transposed : Bool
  deriving DecidableEq, Repr

/-- SFU functions of R271. -/
inductive SfuFn where
  | exp2 | exp | log2 | log | rcp | sqrt | rsqrt | tanh | sigmoid | geluErf | geluTanh | silu
  | softplus | erf | sin | cos
  deriving DecidableEq, Repr

/-- Gate activations of R280. -/
inductive GateAct where
  | silu | geluErf | geluTanh | sigmoid | relu
  deriving DecidableEq, Repr

/-- A complex bin in BF16 (R239) and a product bin in F32 (R241). -/
abbrev Bin16 := BitVec 16 × BitVec 16
abbrev Bin32 := Word × Word

/-- One operation of a tile, with the operand elements that its ports deliver.
Integer elements are codes; float elements are the bits of their format. A weight `none` is a null
slot (R225). -/
inductive TileOp where
  /-- A pass: `xs` are M activation vectors, `ws` C weight columns, `inject` per vector the C partial sums
  injected at the north edge, then the injected A (R251) or the C injected indices (R205), `indexBase` the
  logical index of row 0, `leaves` the numbered partial results that other passes, Berths and Quays deliver to the
  drain, per vector and column (R191, R208): a leaf sum with the A that it carries (R251), or a pair. -/
  | pass (mode : LaneMode) (xType wType : ElemType) (xs : List (List Int))
      (ws : List (List (Option Int))) (inject : List (List Int)) (indexBase : Nat)
      (leaves : List (Nat × List (List (Int × Int)))) (select : Select) (out : OutSpec)
  /-- A window operator run on the array (R216, R224–R229). -/
  | conv (mode : LaneMode) (xType wType : ElemType) (win : Window)
      (ws : List (List (Option Int))) (out : OutSpec)
  /-- Max or min pooling of a float tensor, in the SFU (R229, R281). -/
  | pool (isMax : Bool) (xType : ElemType) (win : Window) (out : OutSpec)
  /-- Average pooling (R230): `cn` are the constants c_n, one per output. -/
  | avgPool (xType : ElemType) (win : Window) (countPad : Bool) (zero : Int) (cn : List Word)
      (out : OutSpec)
  /-- Nearest and bilinear resize (R231, R232). -/
  | resize (xType : ElemType) (bilinear alignCorners : Bool) (input : List Int)
      (channels inH inW outH outW : Nat) (out : OutSpec)
  /-- Space-to-depth and depth-to-space (R233). -/
  | rearrange (toDepth : Bool) (block channels height width : Nat) (input : List Int)
      (out : OutSpec)
  /-- Forward transform of the N × N block of channel `chan` at tile (`ty`, `tx`) of a layer's padded input
  (R236, R239); `va` takes the half spectrum, and so does the Quay store at `store`, where that is given (R245). -/
  | forward (n : Nat) (xType : ElemType) (zero : Int) (win : Window) (chan ty tx : Nat) (va : BitVec 64)
      (store : Option Nat)
  /-- Products of bins (R241): per bin the C_g input bins of each tile, and the C_g filter bins of each output
  channel; a dense layer's run on the array. `va` and the Quay store take them as for a spectrum. -/
  | product (depthwise : Bool) (bins : List (List (List Bin16) × List (List Bin16))) (va : BitVec 64)
      (store : Option Nat)
  /-- Inverse transform of the product bins of tile (`ty`, `tx`) and its valid outputs (R236, R239). -/
  | inverse (n : Nat) (win : Window) (ty tx : Nat) (bins : List Bin32) (out : OutSpec)
  /-- A packed mask (R298). -/
  | mask (threshold count draw : Nat) (out : OutSpec)
  /-- An elementwise SFU function (R271). -/
  | sfu (f : SfuFn) (xType : ElemType) (xs : List Int) (out : OutSpec)
  /-- The fused gate (R280). -/
  | gate (act : GateAct) (a b : List Word) (out : OutSpec)
  /-- max, min (R281). -/
  | minMax (isMax : Bool) (xType : ElemType) (a b : List Int) (out : OutSpec)
  /-- clamp (R281). -/
  | clamp (xType : ElemType) (xs : List Int) (lo hi : Word) (out : OutSpec)
  /-- select (R281), its predicate a tensor or a mask (R298). -/
  | select (xType : ElemType) (p a b : List Int) (mask : Option (Nat × Nat)) (out : OutSpec)
  /-- Softmax of one row (R282). -/
  | softmax (xType : ElemType) (row : List Int) (out : OutSpec)
  /-- Layer norm or RMS norm of one row (R286). -/
  | norm (rms : Bool) (xType : ElemType) (row : List Int) (cn eps : Word) (gamma beta : Option (List Word))
      (out : OutSpec)
  /-- Row statistics (R285, R287). -/
  | stats (what : Statistic) (xType : ElemType) (row : List Int) (cn : Word) (out : OutSpec)
  deriving DecidableEq, Repr

/-- A lane of a Berth's logical array (R177). -/
structure LanePos where
  berth : BerthId
  row : Fin 64
  col : Fin 64
  deriving DecidableEq, Repr

/-- The cell of a lane (R177). -/
def LanePos.cell (l : LanePos) : CellId := Fin.ofNat 16 (4 * (l.row.val / 16) + l.col.val / 16)

/-- A fault that a run of a tile meets. `pass` is the pass (or SFU pass) of the tile in which it strikes, `op` the
operation, and `out` or `elem` the output it touches, in the operation's own order. Whether a check sees it follows
from R197, R198, R213, R214, R246, R289 and R304. -/
inductive TileFault where
  /-- The lane adds an error to the contribution of a tap: to the exact integer sum, or to the significand of the
  product in an F32 mode. -/
  | lane (at_ : LanePos) (pass op out tap : Nat) (error : Int)
  /-- A compare of a semiring mode goes wrong at a tap: the lane's own, or the duplicate of it. -/
  | compare (at_ : LanePos) (pass op out tap : Nat) (own : Bool)
  /-- A comparator of the drain select goes wrong: its own, or the duplicate. -/
  | select (at_ : LanePos) (pass op out : Nat) (own : Bool)
  /-- An SFU lane returns a value with bits flipped. -/
  | sfu (berth : BerthId) (lane : Fin 32) (pass op elem : Nat) (flip : Word)
  /-- An evaluation lane of the Swell unit flips bits of the evaluation of a group. -/
  | swell (berth : BerthId) (lane : Fin 16) (group : Nat) (flip : BitVec 128)
  /-- The transform engine flips bits of a value. -/
  | transform (op elem : Nat) (flip : Word)
  deriving DecidableEq, Repr

/-- A Quay store word that a read finds an error in (R313). -/
structure StoreWord where
  quay : QuayId
  bank : BankId
  row : Fin 6144
  ecc : EccResult
  deriving DecidableEq, Repr

/-- A Hold word that the Quay DMA finds an error in (R309, R310). -/
structure HoldWord where
  quay : QuayId
  berth : BerthId
  at_ : Nat
  ecc : EccResult
  deriving DecidableEq, Repr

/-- What a tile's sequencer is given: its stated length, how long it runs, its control words, the virtual
ranges that the Quay DMA fetches for it and the places it writes the operands to, its reads and scheduled writes of
the Hold, the words of the Quay store that are read for it (by its DMA, its Pilot, its transform engine and for the Harbour)
and found in error, the faults met before a stop (R200), its operations, the passes
and SFU passes that they make, the tensors whose step ends with it and that step's number in the command, the step
base (R261), whether it is its command's last, and the two handshakes of R178. -/
structure Tile where
  stated : Nat
  runs : Nat
  words : Nat
  sources : List TileSource
  places : List HoldPlace
  reads : List HoldRead
  holdWrites : List HoldWrite
  storeReads : List StoreWord
  early : List TileFault
  ops : List TileOp
  passes : Nat
  sfuPasses : Nat
  stepEnds : List (BitVec 16 × Nat)
  stepBase : Nat
  last : Bool
  dmaDone : Bool
  controlPlaced : Bool
  deriving DecidableEq, Repr

/-! ## Other operands -/

/-- Agents that reach memory through the Harbour cache (R314, R334). -/
inductive Agent where
  | berthDma (q : QuayId) (b : BerthId) | quayDma (q : QuayId) | pipe (p : PipeId) | encoder (u : Fin 2) | decoder | deck (n : DeckId)
  | pcie | harbourmaster
  deriving DecidableEq, Repr

/-- A request of the Harbour cache to the memory controller. -/
structure MemReq where
  agent : Agent
  addr : Nat
  write : Bool
  command : Option (QueueId × Word)
  prefetch : Bool := false
  deriving DecidableEq, Repr

/-- What the wires change of the phases of a request (R330): of its command phase the 48 bits and their CRC, and of its
data phase the 128 unit intervals, wire i in bit i, and their CRC. A bit that is set arrives inverted. And what the on-die
ECC finds in the burst of a read (R344). -/
structure DataPhase where
  command : BitVec 48
  commandCrc : BitVec 16
  intervals : List Byte
  crc : BitVec 16
  ecc : EccResult
  deriving DecidableEq, Repr

/-- What training sets for a wire of a channel (R340): the sampling phase, the reference voltage, the deskew and the
write timing, in the controller's own steps. -/
structure WireTraining where
  phase : Nat := 0
  reference : Nat := 0
  deskew : Nat := 0
  writeTiming : Nat := 0
  deriving DecidableEq, Repr

/-- What the alignment protocol measures at an island (R443): the round trip of its echo in ticks, and how far its copy is
from the second marker at its arrival. -/
structure IslandEcho where
  trip : Fin 1024 := 0
  off : Int := 0
  deriving DecidableEq, Repr

/-- What ends Slack water (R101). -/
inductive WakeCause where
  | inboundTlp | launchDue | clkreq
  deriving DecidableEq, Repr

/-- Rails whose sag is monitored (R480). -/
inductive Rail where
  | core | io
  deriving DecidableEq, Repr

/-- Islands with a droop detector (R19, R479). -/
inductive Island where
  | berth (q : QuayId) (b : BerthId) | quay (q : QuayId) | pipe (p : PipeId) | codec (u : UnitId)
  | deck | memory | harbourmaster | hostIf | lighthouse
  deriving DecidableEq, Repr

/-- AVSBus commands the device issues (R46): the slew is in µV per µs. -/
inductive AvsCmd where
  | voltageWrite (mv : Nat) | voltageRead | transRate (slew : Nat) | status
  deriving DecidableEq, Repr

/-- Answer of the regulator (R49): none, an acknowledgement, or a voltage read back in mV. -/
inductive AvsAnswer where
  | none | ack | voltage (mv : Nat)
  deriving DecidableEq, Repr

/-- The boundary-scan register: one cell per signal ball of R35 (log entry 97). -/
abbrev Boundary := BitVec 184

/-- What a scoped debug access reads (R81, R89): memory, or the keel ROM. -/
inductive DebugRead where
  | memory (addr length : Nat) | rom (addr length : Nat)
  deriving DecidableEq, Repr

/-- JTAG instructions of R50 and R89: `balls` are the levels that the cells capture, `cells` what is shifted in, if
anything is. -/
inductive JtagInstr where
  | bypass | idcode | samplePreload (balls cells : Boundary) | extest (balls : Boundary) (cells : Option Boundary)
  | debug (scopeBit : Fin 3) (read : Option DebugRead)
  deriving DecidableEq, Repr

/-- Which request a Quay arbitration fault names (R494). -/
inductive QuayArb where
  | storePort | tileHandshake (b : BerthId)
  deriving DecidableEq, Repr

/-- The counters a deck task may not read (R398). -/
inductive DeckCounter where
  | cycle | time | instret
  deriving DecidableEq, Repr

/-- Why a deck core traps (R398, R399): an access to a counter, or an exception of the RISC-V specification by its
code. -/
inductive DeckTrap where
  | counter (c : DeckCounter)
  | other (cause : Fin 24)
  deriving DecidableEq, Repr

/-- A trap of a deck core: its cause, the core's program counter and the Tide count at which it came (R399). -/
structure TrapSeen where
  core : DeckId
  why : DeckTrap
  pc : BitVec 64
  tide : Tick
  deriving DecidableEq, Repr

/-- A rounding mode of the deck cores. -/
inductive Rounding where
  | nearestEven | towardZero | down | up | nearestAway
  deriving DecidableEq, Repr

/-- Floating-point reductions of the deck cores (R396, R398): over binary32 or binary64 elements, or from binary32
elements into a binary64 sum. -/
inductive DeckSum where
  | f32 | f64 | widening
  deriving DecidableEq, Repr

/-- What a deck task stores (R397, R398): bytes that its program computes, or the result of a vector reduction, in the
ordered or the unordered form; `none` is an element that the mask leaves out. `mode` is the rounding mode when the
program has set one. -/
inductive DeckValue where
  | bytes (data : List Byte)
  | reduce (ordered : Bool) (sum : DeckSum) (mode : Option Rounding) (scalar : Nat) (elems : List (Option Nat))
  deriving DecidableEq, Repr

/-- One store of a deck task: which task of the part, the virtual address, and the value. -/
structure DeckStore where
  task : Nat
  va : BitVec 64
  value : DeckValue
  deriving DecidableEq, Repr

/-- What a codec unit finds when it starts a frame or access unit (R387, R390). -/
inductive CodecStart where
  | ready | bitstreamError | randomAccessPoint
  deriving DecidableEq, Repr

/-- The commands: one constructor per row of spec/opcode_table.json, in the table's order. -/
inductive Instr where
  | supplyPowerUp (testen : Bool)
  | supplyLoss
  | testenHigh
  | perstNAssert (hotReset : Bool)
  | perstNRelease (hottest : Int)
  | tideClockLock
  | pufDone (seed : Option (BitVec 256)) (bad : BadCopies)
  | bistDone (found : List RepairLoc) (bad : BadCopies)
  | trainingDone (failing : List ChanId) (values : Vector (Vector WireTraining 8) 32)
  | alignDone (islands : Vector IslandEcho 52)
  | customsStageTimeout
  | dbgtoken (token : List Byte)
  | bootRelease (value : Word)
  | bootHoldWrite (offset : Nat) (data : List Byte)
  | checkingDone (bad : BadCopies)
  | keysDone
  | bootMinverAdvance (value : Word)
  | functionLevelReset (passed : BitVec 3) (misread : List (Nat × Byte))
  | functionResetComplete
  | hostifDevReset (value : Word)
  | devResetComplete
  | quayReset (q : QuayId) (byFirmware : Bool)
  | quayResetComplete (q : QuayId)
  | d3hotEntry (bad : List Nat)
  | d0Return
  | l12Entry
  | l12Exit
  | refclkLoss
  | refclkReturn (ticks : Nat)
  | lightIdleEntry (q : QuayId)
  | berthPowerGate (q : QuayId) (b : BerthId)
  | berthWake (q : QuayId) (b : BerthId)
  | slackWaterEntry (bad : List Nat)
  | slackWaterExit (cause : WakeCause)
  | registerWrite (target : WriteTarget) (size : Nat) (value : BitVec 64) (enables : BitVec 8) (poisoned : Bool)
  | tideCountRead (wide : Bool)
  | bar2Read (offset length : Nat)
  | bar2Write (offset : Nat) (data : List Byte) (poisoned : Bool)
  | bar2Resize (log2 : Nat)
  | outboundCompletion (purpose : CplFor) (status : CplStatus)
  | outboundCompletionTimeout (purpose : CplFor)
  | haltAll
  | haltPreempt
  | haltRelease
  | queueSweep
  | queueEnable (q : QueueId)
  | queueDisable (q : QueueId)
  | queueRestart (q : QueueId)
  | commandEligible (q : QueueId)
  | nop (q : QueueId) (idx : Word)
  | dispatch (q : QueueId) (idx : Word) (cargo : Cargo) (fallback : Option Cargo)
  | dispatchAdmit
  | dispatchComplete (q : QueueId) (idx : Word)
  | copy (q : QueueId) (idx : Word)
  | copyDone (q : QueueId) (idx : Word)
  | peerCopy (q : QueueId) (idx : Word)
  | peerCopyDone (q : QueueId) (idx : Word)
  | flagSet (q : QueueId) (idx : Word)
  | flagAdd (q : QueueId) (idx : Word)
  | flagWait (q : QueueId) (idx : Word)
  | flagWaitTimeout (q : QueueId) (idx : Word)
  | streamBind (q : QueueId) (idx : Word)
  | tableLoad (q : QueueId) (idx : Word)
  | timestamp (q : QueueId) (idx : Word)
  | fence (q : QueueId) (idx : Word)
  | completionSlotFree (q : QueueId)
  | hostFlagWrite (f : FlagId) (value : Word)
  | hostFlagAdd (f : FlagId) (value : Word)
  | contextRegister (c : CtxId)
  | contextInvalidate (c : CtxId)
  | contextUnregister (c : CtxId)
  | tableWalkDone (c : CtxId)
  | acctClear (c : CtxId)
  | manifestEnable (perQuay drain : Bool) (quays : BitVec 8)
  | manifestCheck (image : ManifestImage)
  | manifestQuayApply (q : QuayId)
  | lockedRegionEffect (unit : Fin 64)
  | triggerFire (n : TrigId)
  | tileRun (q : QuayId) (b : BerthId) (tile : Tile)
  | tileEnd (q : QuayId) (b : BerthId) (faults : List TileFault)
  | tileRerunEnd (q : QuayId) (b : BerthId) (faults : List TileFault)
  | sequencerWatchdog (q : QuayId) (b : BerthId)
  | pilotWatchdog (q : QuayId)
  | pilotTrap (q : QuayId)
  | deckPartStart
  | deckPartEnd (q : QueueId) (idx : Word) (stores : List DeckStore) (words : List (Nat × EccResult))
  | deckTrap (traps : List TrapSeen)
  | deckWatchdog (q : QueueId) (idx : Word)
  | lighteringDone (q : QueueId) (idx : Word) (words : List StoreWord) (holds : List HoldWord)
  | restoreDone (q : QueueId) (idx : Word)
  | contextResident (c : CtxId)
  | deadlineEvaluation (q : QueueId) (idx : Word)
  | cycleCheck
  | fwifLoad
  | stage2LoadDone
  | stage2PageCheck (page : Nat)
  | negotiate
  | negotiateDone
  | sfuMode
  | report
  | commission
  | memtest (corrected uncorrectable : List Nat)
  | fwRequestDone
  | logRingEnable
  | traceRingEnable
  | faultRingEnable
  | heartbeat (seq : BitVec 16) (writes : List StoreWrite)
  | heartbeatWindowEnd
  | lockstepMismatch
  | relaunchSelfTestDone (passed : BitVec 3)
  | relaunchDigestDone (misread : List (Nat × Byte))
  | relaunchComplete
  | quayArbitrationFault (q : QuayId) (at_ : QuayArb) (cq : QueueId) (idx : Word)
  | deviceArbitrationFault
  | localisingTile (q : QuayId) (b : BerthId) (column : Fin 64) (mismatch : Option CellId)
  | repairApply (loc : RepairLoc)
  | repairQuietTimeout (loc : RepairLoc)
  | repairMapWriteDone
  | harbourAccess (agent : Agent) (addr : Nat) (write : Option (List Byte)) (victim : Fin 16)
      (ecc : EccResult) (command : Option (QueueId × Word))
  | harbourScrub (slice : SliceId) (way : Fin 16) (set : Fin 512) (ecc : EccResult)
  | memoryRequest (req : MemReq)
  | memoryDataPhase (ch : ChanId) (pick : Nat) (phase : DataPhase)
  | refreshWindow (ch : ChanId) (bank : BankId)
  | periodicRetrain (ch : ChanId)
  | periodicRetrainEnd (ch : ChanId) (found : Bool) (drift : BitVec 8) (points : Vector (Nat × Nat) 8)
  | fullFieldRetrainDone (ch : ChanId) (ok : Bool) (values : Vector WireTraining 8)
  | patrolScrub (addr : Nat) (result : EccResult)
  | hotSet (reading : Int)
  | hotClear (reading : Int)
  | strictRecoveryExit (ch : ChanId)
  | memctlStrictWrite (strict : Bool)
  | memctlHiddenWrite (hidden : Bool)
  | csiFrameStart (p : PortId) (vc : Fin 32) (frameNo : BitVec 16) (ecc : EccResult)
  | csiLongPacket (p : PortId) (vc : Fin 32) (dataType : Byte) (ecc : EccResult) (crcOk : Bool)
      (pixels : Nat) (line : List Byte) (fifoOverflow : Bool)
  | csiFrameEnd (p : PortId) (vc : Fin 32) (ecc : EccResult)
  | csiPhyError (p : PortId)
  | framePeriodExpiry (p : PortId)
  | csiDeclare (p : PortId) (lossFrames : Byte)
  | csiUndeclare (p : PortId) (lossFrames : Byte)
  | csiPortCfgWrite (p : PortId) (value : Word)
  | pipeFrameComplete (s : SctxId)
  | streamBlank (s : SctxId) (outLine : BitVec 16) (branchLines : List (SctxId × BitVec 16))
  | streamUnblank (s : SctxId)
  | feedGo (s : SctxId)
  | feedDone (s : SctxId)
  | codecSessionEnable (n : SessId)
  | codecSessionDisable (n : SessId)
  | forceKey (n : SessId)
  | codecFeedGo (n : SessId)
  | codecFrameStart (n : SessId) (found : CodecStart)
  | codecChunkDone (n : SessId)
  | syncInPulse
  | syncOutPulse
  | ptmMeasurement (masterNs : BitVec 64)
  | ptmLock (masterNs : BitVec 64)
  | recordEnable (ctrl : Word)
  | recordDisable
  | recordCheckpoint
  | checkpointStateWrite
  | replayEntryApply
  | powerEstimate (milliwatts : Nat)
  | budgetCompare
  | droopDetect (island : Island)
  | droopRelease (island : Island)
  | avsSetpointChange (mv : Nat)
  | avsStatusPoll
  | avsResponse (answer : AvsAnswer)
  | sagEstablished (rail : Rail) (mv : Nat)
  | shedStep
  | holdLimitFall (rail : Rail) (mv : Nat)
  | step6Timeout (elapsed : Bool) (mv : Nat)
  | sagRecovered (core io : Nat)
  | shedReturn
  | thermalTrip (reading : Int)
  | thermalHoldRelease (reading : Int)
  | pcieLinkUp
  | codecFeedDone (n : SessId)
  | journalSlotFree (q : QueueId)
  | csiUlpsEntry (p : PortId)
  | csiUlpsExit (p : PortId)
  | jtagInstruction (i : JtagInstr)
  deriving DecidableEq, Repr

end Sys2Proof
end

