-- ==== Sys2Proof/Decode.lean ====
section
/-! DEFINITION. The word-to-command map. No row of the opcode table gives bits: its commands come as
events, not as words. -/

namespace Sys2Proof

/-- The command a word spells: none, since no row has bits. -/
def decodeTableWord (_nbits _w : Nat) : Option Instr := none

end Sys2Proof
end

