-- ==== Sys2Proof/Config.lean ====
section
/-! DEFINITION. The values the spec leaves open: constants with no body, so that nothing can be
proved of a particular value. -/

namespace Sys2Proof

/-- The byte at an address whose contents the manual leaves undefined (R106, R164, R433, R495):
one value per seed and address. Log entry 3. -/
opaque Config.freeByte (seed addr : Nat) : Byte

/-- Whether a Falcon-1024 signature of a message verifies under a public key (R70): the Falcon specification is
outside the spec. Log entry 7. -/
opaque Config.falconVerify (key message signature : List Byte) : Bool

/-- The Falcon-1024 key pair (public, private) that generation yields when SHAKE256 of the argument is its
random source (R84). Log entry 7. -/
opaque Config.falconKeys (source : List Byte) : List Byte × List Byte

/-- A Falcon-1024 signature of a message, its first byte and the rest: it is never empty. The last argument
numbers the signatures made. Log entry 7. -/
opaque Config.falconSign (key message : List Byte) (n : Nat) : Byte × List Byte

/-- The vendor root key digest held in the keel ROM (R70). Log entry 7. -/
opaque Config.vendorRoot : BitVec 512

/-- A byte of the keel ROM (R81). Log entry 98. -/
opaque Config.romByte (addr : Nat) : Byte

/-- The cell of a trigger output in the boundary-scan register (R50). Log entry 97. -/
opaque Config.trigCell (n : TrigId) : Fin 184

/-- The header of the TLP that AER logs (R111, R130): the n-th such header. Log entry 12. -/
opaque Config.tlpHeader (n : Nat) : BitVec 128

/-- A segment of an SFU function (R275, R278): the sign of its inputs (or, for sin and cos, which of the two it
evaluates), its octave, its number there, and whether it is the part past the turning point t* of the segment that t*
cuts in two (R277). -/
structure SfuSeg where
  neg : Bool
  octave : Int
  index : Nat
  past : Bool := false
  deriving DecidableEq, Repr

/-- The coefficients of a segment, and whether it rises (R276). -/
structure SfuCoeff where
  c0 : Word
  c1 : Word
  c2 : Word
  c3 : Word
  rising : Bool
  deriving DecidableEq, Repr, Inhabited

/-- The limit forms of R275. -/
inductive SfuLimit where
  | x | one | exp | zero
  deriving DecidableEq, Repr, Inhabited

/-- The coefficients of the native functions: they are in the published reference of R276, not in this spec. Log
entry 13. -/
opaque Config.sfuNative (f : SfuFn) (g : SfuSeg) : SfuCoeff

/-- The octaves of the table range of a function without reduction, from the first to before the second, for each
sign, and the limit form below and above them (R275). Log entry 13. -/
opaque Config.sfuOctaves (f : SfuFn) (neg : Bool) : Int × Int
opaque Config.sfuLimit (f : SfuFn) (neg above : Bool) : SfuLimit

/-- The turning point t* of GELU and SiLU: its exact value is in the published reference (R277). Log entry 13. -/
opaque Config.sfuTurn (f : SfuFn) : Word

/-- The coefficients of G1 mode (R278), the power of two that ends the table range of tanh's row, and whether its
evaluation fuses multiply and add: they are in the published reference of G1. Log entry 13. -/
opaque Config.sfuG1 (f : SfuFn) (g : SfuSeg) : SfuCoeff
opaque Config.sfuG1Top (f : SfuFn) : Int
opaque Config.sfuG1Fused : Bool

/-- A word for a result the manual calls undefined or does not state; the argument is
`State.freeCount`. Log entry 4. -/
opaque Config.freeWord (n : Nat) : Word

/-- Spare lines of the deck cluster's L2: the manual speaks of a spare line (R498) and gives no number.
Log entry 15. -/
opaque Config.l2Spares : Nat

/-- Code and tag of a Hold element that nothing has written: an address, in units of 4 bits, holds what was left
there (R196). Log entry 106. -/
opaque Config.holdGarbage (at_ : Nat) : Int × BitVec 2

/-- MINOR of FWIF_FW_VERSION (R418): the manual gives MAJOR alone. Log entry 16. -/
opaque Config.fwMinor : BitVec 16

/-- Ticks that writing a context's resident state to its save area, or reading it back, takes (R424, R436): one value per
transfer. Log entry 111. -/
opaque Config.residentTicks (n : Nat) : Nat

/-- Sampling phase and reference voltage to which a wire of a channel is re-centred on the n-th exit from retention
(R343): the manual gives no values. Log entry 125. -/
opaque Config.recentred (n channel wire : Nat) : Nat × Nat

/-- DETAIL of the shedding codes: the rails that sag (R481), in an encoding the manual does not give. Log
entry 20. -/
opaque Config.railDetail (core io : Bool) : BitVec 64

/-- Whether the lower-numbered of two 4-bit elements that share a byte lies in its low half: the manual gives
I4 tensors a layout in elements and no order within a byte (R218). Log entry 21. -/
opaque Config.i4LowFirst : Bool

/-- A session descriptor as taken at enable (R384). -/
structure SessDesc where
  unit : Nat
  codec : Nat
  depth : Nat
  level : Nat
  width : Nat
  height : Nat
  fpsNum : Nat
  fpsDen : Nat
  source : Nat
  sctx : Nat
  lowlat : Bool
  highTier : Bool
  rc : Nat
  target : Nat
  peak : Nat
  keyint : Nat
  bframes : Nat
  sliceRows : Nat
  qp : Nat × Nat × Nat
  flag : Fin 1024
  dataLog2 : Nat
  recLog2 : Nat
  data : Nat
  records : Nat
  work : Nat
  deriving DecidableEq, Repr

/-- A line of an input frame: its exposure, its samples as the pipe takes them, and whether it is blanked (R365). -/
structure InLine where
  expo : Nat
  bytes : List Byte
  blanked : Bool
  deriving DecidableEq, Repr

/-- An input frame of a pipe, and the class 1 tables in force for it (R372, R374). -/
structure PipeInput where
  tables : List (Nat × List Byte)
  lines : List InLine
  deriving DecidableEq, Repr

/-- An image inside a pipe: its lines, their pixels, and of each pixel the channels, aligned to 16 bits (R354). -/
abbrev Image := List (List (List Nat))

/-- The colours of the statistics (R373); a sample may have none of them. -/
inductive Colour where
  | red | green | blue | other
  deriving DecidableEq, Repr, Inhabited

/-- What the manual leaves open of the pipes (R354, R369, R373, R376), under log entry 110: how CSI-2 packs the samples of a
line that are not bytes, and which samples make a pixel of YUV422 or RGB888. -/
opaque Config.unpacked (type : Byte) (line : List Byte) : List Nat
opaque Config.pixels (type : Byte) (samples : List Nat) : List (List Nat)

/-- Each primitive: what it makes of a sample, a pixel or an image with the values of its table. -/
opaque Config.blackened (level sample : Nat) : Nat
opaque Config.mended (points : List (Nat × Nat)) (im : Image) : Image
opaque Config.merged (ratios knees : List Nat) (exposures : List Image) : Image
opaque Config.shaded (gains : List Nat) (width height x y sample : Nat) : Nat
opaque Config.demosaiced (im : Image) : Image
opaque Config.denoised (spatial temporal : Nat) (reference : Option Image) (im : Image) : Image
opaque Config.balanced (gains : List Nat) (matrix offsets : List Int) (pixel : List Nat) : List Nat
opaque Config.toneRounding : Fin 64
opaque Config.converted (matrix offsets : List Int) (full : Bool) (pixel : List Nat) : List Nat
opaque Config.warped (coordinates : List Int) (im : Image) : Image
opaque Config.scaled (width height : Nat) (im : Image) : Image

/-- Byte `at_` of output line `line` in a format. -/
opaque Config.formatted (format : OutFormat) (im : Image) (line at_ : Nat) : Byte

/-- The colour that the mosaic gives a pixel, the colours in a YUV422 pixel, the luma of a pixel after the tone LUT, and
the high-pass of the AF zones on the green samples of a line. -/
opaque Config.cfaColour (x y : Nat) : Colour
opaque Config.yuvColours (pixel : List Nat) : List (Colour × Nat)
opaque Config.luma (pixel : List Nat) : Nat
opaque Config.highPass (greens : List Nat) (k : Nat) : Int

/-- Which output lines a torn frame lacks when some of its input lines are missing (R357), by the exposures of those that
came. -/
opaque Config.pipeLacks (defs : List StreamDef) (came : List Nat) (line : Nat) : Bool

/-- What a session's output depends on beside its descriptor (R390, R392): the frames it coded, by the samples of
their lines, whether each was a key frame, a B-frame or abandoned, and its bytes; the feeds its decoder read; and the access
units the decoder met, taken or discarded. -/
inductive CodecEvent where
  | frame (lines : List (List Byte)) (key b abandoned : Bool) (bytes : Nat)
  | feed (bytes : List Byte)
  | unit (taken : Bool)
  deriving DecidableEq, Repr

/-- One chunk of output: of an encoder its syntax units with the average QP; of a decoder the frame's bytes, whether it is a
key frame and whether its film grain was left out (R389). -/
structure CodecChunk where
  units : List (List Byte) := []
  bytes : List Byte := []
  qp : Byte := 0
  key : Bool := false
  grainOmitted : Bool := false
  deriving DecidableEq, Repr, Inhabited

/-- The k-th chunk of the frame a session codes (R392): a function of the descriptor, of what came before, of the
frame's lines that the chunk may depend on and of its kind, key frame and B-frame. Log entry 107. -/
opaque Config.codecChunk (d : SessDesc) (history : List CodecEvent) (lines : List (List Byte)) (key b : Bool)
    (k : Nat) : CodecChunk

/-- The k-th chunk of a frame that is coded all-skip (R383). Log entry 107. -/
opaque Config.codecSkip (d : SessDesc) (history : List CodecEvent) (k : Nat) : CodecChunk

/-- The parameter sets before a key frame (R382): VPS, SPS and PPS of HEVC, SPS and PPS of AVC. Log entry 107. -/
opaque Config.parameterSets (d : SessDesc) : Vector (List Byte) 3

/-- Which waiting frame an encoder codes next when B-frames let it run ahead, and whether that frame is to be a B-frame
(R382). Log entry 107. -/
opaque Config.codecOrder (d : SessDesc) (history : List CodecEvent) : Nat
opaque Config.codecB (d : SessDesc) (history : List CodecEvent) : Bool

/-- Of a decoder: how many access units the feeds it has read make whole (R390), and which of the decoded frames that
wait is the next in display order, if that is known yet (R388). Log entry 107. -/
opaque Config.accessUnits (d : SessDesc) (history : List CodecEvent) : Nat
opaque Config.codecShown (d : SessDesc) (history : List CodecEvent) (waiting : Nat) : Option Nat

end Sys2Proof
end

