-- ==== Sys2Proof/Machine/State.lean ====
section
/-! DEFINITION. The state of the block. Every field's default is its value in `State.reset`; log
entry 9 names those the spec gives no value. Fields that the registers of R92–R515 show stand under
the register's name; a register itself is assembled where it is read (Machine/Registers.lean). -/

namespace Sys2Proof.Machine

/-! ## Memory -/

/-- A range [lo, hi) whose contents the spec leaves undefined: byte `a` reads
`Config.freeByte seed a` until it is written (R106, R164, R433, R495; log entry 3). -/
structure UndefRange where
  lo : Nat
  hi : Nat
  seed : Nat
  deriving DecidableEq, Repr

/-- A line the Harbour cache holds: slice, set and way, its line number, whether it is dirty, and whether the cache's
copy is poisoned (R315, R317). Its data are the memory's: the cache is the one point through which memory is reached
(R314). -/
structure CacheLine where
  slice : Nat
  set : Nat
  way : Nat
  line : Nat
  dirty : Bool
  bad : Bool := false
  deriving DecidableEq, Repr

/-- Device physical memory: companion memory, the boot hold and the locked regions at their device
physical addresses. `cells` holds the bytes that differ from what an unlisted address reads as,
`poison` the 128-byte lines that hold the poison encoding in the stacks, or in the locked window (R317, R345), `lines` what
the Harbour cache holds, `cleared` the 64 KiB pages firmware has zeroed since C or H (R107). -/
structure Memory where
  cells : List Host.Cell := []
  undef : List UndefRange := []
  poison : List Nat := []
  lines : List CacheLine := []
  cleared : List Nat := []
  deriving DecidableEq, Repr

/-! ## Start, Customs and identity (chapter 03) -/

/-- STAGE (R93). -/
inductive Stage where
  | reset | puf | bist | training | align | windowOpen | checking | keys | running | halted
  deriving DecidableEq, Repr

/-- BOOT_SLOT_x and its VERSION (R94), with the digest D that CHECKING computed. -/
structure Slot where
  state : BitVec 2 := 0
  reason : BitVec 16 := 0
  passed : Bool := false
  sigOk : Bool := false
  versionOk : Bool := false
  signer : Byte := 0
  version : Word := 0
  digest : BitVec 512 := 0
  deriving DecidableEq, Repr

/-- The keys that vouched firmware holds (R84): the device's private key, FK(v) and the sealing key. -/
structure ReleasedKeys where
  device : List Byte
  root : List Byte
  sealing : List Byte
  deriving DecidableEq, Repr

/-- The outcome of Customs: kept through F and D, lost at C and H (R92, R94, R106). `seed` is the PUF seed S,
`windowClosed` that a BOOT_RELEASE was accepted since the window last opened, `treeAt` where the running
image's stage-2 tree lies in the boot hold. -/
structure Boot where
  stage : Stage := .reset
  debugOpen : Bool := false
  storeFail : Bool := false
  pufFail : Bool := false
  unvouched : Bool := false
  runSlot : BitVec 2 := 0
  reason : BitVec 16 := 0
  dropped : BitVec 16 := 0
  slotA : Slot := {}
  slotB : Slot := {}
  nonce : Vector Word 4 := .replicate 4 0
  windowClosed : Bool := false
  runDigest : BitVec 512 := 0
  reportAddr : BitVec 64 := 0
  certLen : BitVec 16 := 0
  serial : BitVec 64 := 0
  token : Option (List Byte) := none
  scope : Option Byte := none
  romReadable : Bool := true
  seed : Option (BitVec 256) := none
  released : Option ReleasedKeys := none
  signer : Byte := 0
  version : Word := 0
  entry : Word := 0
  stage2Pages : Nat := 0
  treeAt : Nat := 0
  pufAttempts : Nat := 0
  trainRetries : Nat := 0
  failing : List ChanId := []
  alignRuns : Nat := 0
  alignFrom : Tick := 0
  deriving DecidableEq, Repr

/-- The secure-store die (R82): kept through every event. `copies` says of each item, in the order of R83,
whether the SHAKE256 tags of its two copies hold under the store key; the `next` fields are a committed change
that takes effect at the next start (R76). -/
structure Secure where
  v : Bool := false
  k : Bool := false
  ownerOnly : Bool := false
  ownerSet : Bool := false
  ownerHash : BitVec 512 := 0
  nextV : Bool := false
  nextK : Bool := false
  nextOwnerOnly : Bool := false
  nextOwnerSet : Bool := false
  nextOwnerHash : BitVec 512 := 0
  minver : Word := 0
  debugCount : Word := 0
  helperData : List Byte := []
  repairMap : List RepairLoc := []
  counters : Vector (BitVec 64) 16 := .replicate 16 0
  certificate : List Byte := []
  sealedData : List Host.Cell := []
  copies : Vector (Vector Bool 2) 6 := .replicate 6 (.replicate 2 true)
  deriving DecidableEq, Repr

/-! ## Resets, power states and pins (chapters 02, 04) -/

/-- A reset in progress (R96, R99). -/
inductive ResetRun where
  | none | function | device
  deriving DecidableEq, Repr

/-- D0, D3hot and Slack water (R101). -/
inductive PowerState where
  | d0 | d3hot | slackWater
  deriving DecidableEq, Repr

/-- The AVSBus master (R46–R49): the setpoint last commanded and the last that the regulator confirmed, the commands
to send with the failures of each so far, whether the first of them is on the bus, and when the status was last
polled. -/
structure Avs where
  setpoint : Nat := 750
  confirmed : Nat := 750
  queue : List (AvsCmd × Nat) := []
  sent : Bool := false
  stopped : Bool := false
  polled : Option Tick := none
  deriving DecidableEq, Repr

/-- Supplies and pins. `drives` are the levels that EXTEST puts on the output balls, `cells` what
SAMPLE/PRELOAD loaded. -/
structure Env where
  suppliesUp : Bool := false
  por : Bool := true
  testen : Bool := false
  mfgHold : Bool := false
  perstLow : Bool := true
  linkUp : Bool := false
  refclk : Bool := true
  faultN : Bool := false
  avs : Avs := {}
  cells : Boundary := 0
  drives : Option Boundary := none
  stretched : List Island := []
  thermalHold : Bool := false
  power : PowerState := .d0
  l12 : Bool := false
  reset : ResetRun := .none
  heldFunctionReset : Option (BitVec 3 × List (Nat × Byte)) := none
  heldDeviceReset : Bool := false
  heldHalt : Option (Bool × Bool) := none
  heldD3hot : Bool := false
  deriving DecidableEq, Repr

/-! ## PCI Express (chapter 05) -/

/-- An entry of the MSI-X table (R112, R128). -/
structure MsixEntry where
  addr : BitVec 64 := 0
  data : Word := 0
  masked : Bool := true
  deriving DecidableEq, Repr

/-- Configuration space (R106, R110–R113, R128–R132) and the MSI-X table and PBA of BAR4, at the reset values of
the PCIe Base specification; log entry 12. `rebar` is the Resizable BAR Control register's size, `ptmSent` when the last PTM
request since PTM Enable was set went out, `substates` the enables of ASPM L1.2 and L1.1. -/
structure PcieCfg where
  memEnable : Bool := false
  busMaster : Bool := false
  bars : Vector (BitVec 64) 3 := .replicate 3 0
  maxPayload : BitVec 3 := 0
  maxRead : BitVec 3 := 2
  ctoValue : BitVec 4 := 0
  ctoDisable : Bool := false
  tag10Enable : Bool := false
  msixEnable : Bool := false
  msixFunctionMask : Bool := false
  table : Vector MsixEntry 128 := .replicate 128 {}
  pba : Vector Bool 128 := .replicate 128 false
  ltrEnable : Bool := false
  ptmEnable : Bool := false
  ptmGranularity : Byte := 0
  ptmSent : Option Tick := none
  aspm : BitVec 2 := 0
  substates : BitVec 2 := 0
  rebar : Nat := 28
  deriving DecidableEq, Repr

/-- AER status bits, the registers by which the host masks and grades them, the ECRC enables, the First Error Pointer
and the header log (R111, R130): sticky, lost only at C (R106). The reset values are the PCIe Base specification's
(log entry 12). -/
structure Aer where
  mask : Word := 0x0040_0000
  severity : Word := 0x0046_2030
  ecrcGenerate : Bool := false
  ecrcCheck : Bool := false
  first : BitVec 5 := 0
  poisoned : Bool := false
  completionTimeout : Bool := false
  unsupported : Bool := false
  completerAbort : Bool := false
  internal : Bool := false
  header : BitVec 128 := 0
  deriving DecidableEq, Repr

/-- An outbound window (R122, R127). -/
structure OutWindow where
  sizeLog2 : BitVec 6 := 16
  noSnoop : Bool := false
  peer : Bool := false
  en : Bool := false
  offset : BitVec 23 := 0
  xlat : BitVec 64 := 0
  deriving DecidableEq, Repr

/-- HOSTIF registers kept through D (R122). `haltedAt` is when the present halt began, D3hot's own among them
(R103). `bar2Reg` is what HOSTIF_BAR2_BASE holds, `bar2Base` the base that
requests reach memory through (R126). -/
structure Hostif where
  halt : Bool := false
  preempt : Bool := false
  halted : Bool := false
  haltedAt : Tick := 0
  qsweep : BitVec 15 := 250
  bar2Reg : BitVec 35 := 0
  bar2Base : BitVec 35 := 0
  bar2Log2 : Nat := 28
  windows : Vector OutWindow 16 := .replicate 16 {}
  deriving DecidableEq, Repr

/-- States of the LTR table (R131). -/
inductive LtrState where
  | active | idle | noRequirement
  deriving DecidableEq, Repr

/-- The latency that a state reports, in ns; none is the clear Requirement bit (R131). -/
def LtrState.latency : LtrState → Option Nat
  | .active => some 20000
  | .idle => some 1000000
  | .noRequirement => none

/-- AER statuses the device sets (R130). -/
inductive AerKind where
  | uncorrectableInternal | poisonedTlp | completionTimeout | unsupportedRequest | completerAbort
  deriving DecidableEq, Repr

/-- A message the device sends; `State.outbox` keeps the trail (log entry 8). -/
inductive Message where
  | msix (vector : Nat) (addr : BitVec 64) (data : Word)
  | aer (kind : AerKind) (fatal : Bool)
  | ltr (snoop noSnoop : Option Nat)
  | ptmRequest
  | outboundWrite (bus : BitVec 64) (data : List Byte) (noSnoop : Bool)
  | outboundRead (bus : BitVec 64) (length : Nat) (noSnoop : Bool)
  | readData (data : List Byte) (ep : Bool)
  | avs (cmd : AvsCmd)
  | syncOut (count : Tick) (width : Nat)
  | camTrig (output : TrigId) (count : Tick) (width : Nat)
  | jtag (data : List Byte)
  deriving DecidableEq, Repr

/-! ## Reports, rings and the firmware interface (chapters 18, 22) -/

/-- What one recorded code says (R412, R491): 0xFF, 0xFFFF and 0xFFFF_FFFF stand for none. -/
structure Event where
  reason : BitVec 16
  severity : Severity
  level : BitVec 2 := 3
  quay : Byte := 0xFF
  berth : Byte := 0xFF
  cell : Byte := 0xFF
  column : Byte := 0xFF
  tide : Tick := 0
  ctx : BitVec 16 := 0xFFFF
  queue : BitVec 16 := 0xFFFF
  index : Word := 0xFFFF_FFFF
  detail : BitVec 64 := 0
  counted : Bool := false
  action : Bool := false
  deriving DecidableEq, Repr

/-- One ring of 32-byte entries in companion memory (R412–R418, R492, R514). `held` waits on die
until the ring is enabled, `lostBefore` marks entries lost just before the next one written. -/
structure Ring where
  base : BitVec 35 := 0
  log2 : BitVec 5 := 8
  en : Bool := false
  tail : Word := 0
  head : Word := 0
  lost : Word := 0
  held : List Event := []
  lostBefore : Bool := false
  deriving DecidableEq, Repr

/-- A code limited to one entry per interval: when it was last written and how many events wait. -/
structure RateMark where
  key : Nat
  last : Tick
  waiting : Nat
  event : Event
  deriving DecidableEq, Repr

/-- FWIF_STATUS.STATE (R418). -/
inductive FwState where
  | wait | loading | loaded | ready | failed
  deriving DecidableEq, Repr

/-- The firmware interface and its rings: lost at F and D. `reqTaken` is the block's address at GO,
`reqWork` the RESULT of a request whose work is done, `reqUndo` the SFU mode before it. `beat` is kept by no event; `s2Base` and `s2Area` are
the area LOAD took, `pages` the checked copies of stage-2 pages on die (R80), `stopped` the events of shedding step 6, which
are recorded when the clocks restart (R413, R482). -/
structure Fwif where
  state : FwState := .wait
  reason : BitVec 16 := 0
  s2Addr : BitVec 35 := 0
  s2Base : Nat := 0
  s2Area : Nat := 0
  pages : List (Nat × List Byte) := []
  drvVersion : Word := 0
  fwVersion : Word := 0
  drvFeat : BitVec 64 := 0
  feat : BitVec 64 := 0
  beat : BitVec 16 := 0
  negotiating : Option (Word × BitVec 64) := none
  reqAddr : BitVec 35 := 0
  reqGo : Bool := false
  reqTaken : Nat := 0
  reqUndo : Option Bool := none
  reqOut : List (Nat × List Byte) := []
  reqWork : Option (BitVec 16) := none
  reqResult : BitVec 16 := 0
  reqDone : Bool := false
  stopped : List Event := []
  log : Ring := {}
  logMinsev : BitVec 2 := 0
  trace : Ring := {}
  traceWrap : Bool := false
  traceSeq : Word := 0
  traceEn : Vector Word 8 := .replicate 8 0
  deriving DecidableEq, Repr

/-- READY, SFU mode and the requests: lost at F and D. -/
structure Ready where
  ready : Bool := false
  sfuG1 : Bool := false
  deriving DecidableEq, Repr

/-- Heartbeat watch by the Lighthouse (R405). `started`: a first heartbeat has given the sequence its
beginning. -/
structure Heart where
  seq : BitVec 16 := 0
  seen : Bool := false
  valid : Bool := false
  missed : Nat := 0
  window : Nat := 0
  started : Bool := false
  deriving DecidableEq, Repr

/-! ## Queues, flags, contexts and commands in flight (chapters 06, 19) -/

/-- Header fields taken at enable (R142). -/
structure Header where
  ring : Nat := 0
  compl : Nat := 0
  journal : Nat := 0
  ringLog2 : Nat := 4
  complLog2 : Nat := 4
  journalLog2 : Nat := 8
  vector : Nat := 4
  deriving DecidableEq, Repr

/-- One queue (R142–R148, R157). `fetching` counts entries asked of host memory (R130). -/
structure Queue where
  hdrAddr : BitVec 35 := 0
  en : Bool := false
  enHeld : Bool := false
  reason : BitVec 16 := 0
  stopped : Bool := false
  active : Bool := false
  hdr : Header := {}
  head : Word := 0
  ctail : Word := 0
  jtail : Word := 0
  fetching : Nat := 0
  deriving DecidableEq, Repr

/-- The opcodes with their operands (R135, R136); `none` is a reserved opcode. -/
inductive Op where
  | nop
  | dispatch (cargo : BitVec 64) (entry stream : Word) (args seed : BitVec 64)
  | copy (src dst : BitVec 64) (len : Word)
  | peerCopy (src dst : BitVec 64) (len signalValue : Word) (signal : BitVec 64)
  | flagSet (f : FlagId) (value : Word)
  | flagAdd (f : FlagId) (value : Word)
  | flagWait (f : FlagId) (cmp : BitVec 3) (value : Word) (timeout : BitVec 64)
  | streamBind (sctx : Nat) (bind : Bool) (flag : FlagId) (count : Nat) (va : BitVec 64)
      (stride : Word)
  | tableLoad (cls unit table : Nat) (len : Word) (src : BitVec 64)
  | timestamp (dst : BitVec 64)
  | fence (scope : Nat)
  | none
  deriving DecidableEq, Repr

/-- A command entry, decoded when it is sampled (R134). -/
structure Entry where
  op : Op
  malformed : Bool
  opcode : Byte
  irq : Bool
  overlap : Bool
  prio : BitVec 3
  ctx : CtxId
  predFlag : FlagId
  predCmp : BitVec 3
  predValue : Word
  budget : BitVec 16
  launch : Tick
  fallback : BitVec 64
  deriving DecidableEq, Repr

/-- Where a command stands between its sampling and its record. -/
inductive Phase where
  | sampled | slotWait | admitWait | waiting | executing | lightering | suspended | restoring
  | recordHeld
  deriving DecidableEq, Repr

/-- One adaptive tensor (R259–R265). -/
structure AdaptState where
  tensor : BitVec 16
  exp : Int
  expMin : Int
  expMax : Int
  freeze : Bool
  lowSteps : Nat
  thresh : Nat
  lowRun : Nat
  satLast : Nat
  deriving DecidableEq, Repr

/-- A scale step not yet journalled (R153). -/
structure ScaleStep where
  tensor : BitVec 16
  before : Int
  after : Int
  raised : Bool
  step : Word
  deriving DecidableEq, Repr

/-- What one step of an adaptive tensor gathers (R260, R261): sat, mag, n and h. -/
structure AdaptCount where
  tensor : BitVec 16
  saturated : Nat
  maxMag : Nat
  outputs : Nat
  narrow : Nat
  deriving DecidableEq, Repr

/-- A shape stamp (R430): per Quay the shape and the Berths in use, the stepping family and the SFU mode. -/
structure Stamp where
  quays : List (Nat × List Nat)
  family : Nat
  sfuG1 : Bool
  deriving DecidableEq, Repr

/-- The home of a context's adaptive state (R265): where the table it last accepted lies, the tensors
that table lists in its order, and its FREEZE_ALL. -/
structure Home where
  va : BitVec 64
  tensors : List (BitVec 16)
  freezeAll : Bool
  deriving DecidableEq, Repr

/-- An element in a Hold: its address in units of 4 bits, its code, and its epoch tag (R194, R308). -/
structure HoldElem where
  at_ : Nat
  code : Int
  tag : BitVec 2
  deriving DecidableEq, Repr

/-- What a tile's results come from beside its operands: SEED and STREAM of its DISPATCH (R136), the adaptive
exponents in force (R259), the SFU mode (R269), what its Hold contains, and, as its operations run, the number of the
operation and the faults that strike. -/
structure TileEnv where
  seed : BitVec 64
  stream : Word
  exps : List (BitVec 16 × Int)
  g1 : Bool
  hold : List HoldElem := []
  op : Nat := 0
  faults : List TileFault := []
  deriving DecidableEq, Repr

/-- What a Lightered image holds of one Quay (R424): what its store and the Holds of its Berths contain. -/
structure QuayImage where
  store : List Host.Cell
  holds : List (List HoldElem)
  deriving DecidableEq, Repr

/-- A command's tiles, passes and SFU passes on a Berth so far (R194, R214, R289, R304). -/
structure BerthCount where
  quay : QuayId
  berth : BerthId
  tiles : Nat
  passes : Nat
  sfuPasses : Nat
  deriving DecidableEq, Repr

/-- What the spec gives of the state of a task on a deck core: its rounding mode and its privilege (R397, R398). -/
structure DeckTask where
  rounding : Rounding
  user : Bool
  deriving DecidableEq, Repr

/-- What a DISPATCH carries beyond its entry. `images` are what its Lightered image holds, Quay by Quay. `adaptive0`, `home` and `tableGen` are the context's at
its first start, `stepped` the tensors it ran a step of; `badWord` is the Quay of an uncorrectable store word that
its image carries (R313). `need` is what it counts for in the save area (R425), and `berthCounts` count its tiles and passes on each Berth it ran on. `deckWait` are the ticks its deck part
waited for cores (R397), `deckRan` those it ran before a suspension (R399), and `deckFrom` is when the wait or the run under way began. -/
structure Run where
  cargo : Option Cargo := none
  entryNo : Nat := 0
  fallback : Option Cargo := none
  onFallback : Bool := false
  boosted : Bool := false
  quays : List QuayId := []
  tilesDone : Nat := 0
  arrayDone : Bool := false
  deckWaiting : Bool := false
  deckDone : Bool := true
  deckCores : List DeckId := []
  deckSuspended : Bool := false
  deckTasks : List DeckTask := []
  need : Nat := 0
  deckWait : Nat := 0
  deckRan : Nat := 0
  deckFrom : Tick := 0
  badWord : Option QuayId := none
  berthCounts : List BerthCount := []
  images : List QuayImage := []
  stamp : Option Stamp := none
  adaptive : Option (List AdaptState) := none
  adaptive0 : Option (List AdaptState) := none
  steps : List ScaleStep := []
  counts : List AdaptCount := []
  home : Option Home := none
  tableGen : Nat := 0
  stepped : List (BitVec 16) := []
  info : List (BitVec 16 × Nat) := []
  preempt : Bool := false
  failWith : Option (BitVec 16) := none
  deriving DecidableEq, Repr

/-- A 32-byte completion record but for PHASE (R151). -/
structure Record where
  reason : BitVec 16
  status : Byte
  flags : BitVec 7
  deriving DecidableEq, Repr

/-- A virtual range that a command reads: an instruction fetch (R154) or data. -/
structure Source where
  va : Nat
  len : Nat
  fetch : Bool
  deriving DecidableEq, Repr

/-- A command in flight (R145). `haltSuspended` and `shedSuspended` say that a halt or shedding suspends it, or
asks it to stop at its next tile boundary; `resuming` that a released halt lets it go on before later commands of
its queue (R125). `stepTicks` are the ticks that forward steps of the Tide passed over while it was eligible and
had not started, which no accounting counter includes (R450). `raw` are the 64 bytes of its entry as sampled. `buffer` gathers what outbound reads of `sources` return, `requested` bytes of which have been asked for in requests that
end at `reads`. `waited` are the ticks it waited for admission before its present wait (R426); `carried` is what its COMMAND
entry carried in replay, and `recordedAt` that entry's count. -/
structure Flight where
  q : QueueId
  idx : Word
  entry : Entry
  phase : Phase := .sampled
  eligible : Bool := false
  eligibleAt : Tick := 0
  started : Bool := false
  startAt : Tick := 0
  waitFrom : Tick := 0
  haltTicks : Nat := 0
  stepTicks : Nat := 0
  preempts : Nat := 0
  suspendedByHalt : Bool := false
  haltSuspended : Bool := false
  resuming : Bool := false
  shedSuspended : Bool := false
  restarted : Bool := false
  fallbackRan : Bool := false
  late : Bool := false
  jcount : Nat := 0
  deps : List (QueueId × Word) := []
  awaiting : Bool := false
  waited : Nat := 0
  sources : List Source := []
  raw : List Byte := []
  buffer : List Byte := []
  requested : Nat := 0
  reads : List Nat := []
  carried : List Byte := []
  recordedAt : Option Tick := none
  phaseFrom : Tick := 0
  run : Run := {}
  record : Option Record := none
  endAt : Tick := 0
  deriving DecidableEq, Repr

/-- A context (R158, R439) with its adaptive-scale state (R261–R265); its accounting counts from `acctFrom` on; `tableGen` counts the class 2
tables it accepted, `setBy` says which of them set a tensor last. -/
structure Ctx where
  root : BitVec 35 := 0
  prioMax : BitVec 3 := 7
  busy : Bool := false
  inval : Bool := false
  valid : Bool := false
  faultQueue : Byte := 0
  captured : Bool := false
  level : BitVec 2 := 0
  kind : BitVec 3 := 0
  faultVa : BitVec 64 := 0
  saveVa : BitVec 48 := 0
  saveSize : BitVec 16 := 0
  resident : Bool := false
  slotWaiting : Bool := false
  slotSince : Tick := 0
  blockedSince : Option Tick := none
  lastDone : Tick := 0
  waitTicks : BitVec 64 := 0
  lighterTicks : BitVec 64 := 0
  preempts : Word := 0
  fallbacks : BitVec 16 := 0
  evictions : BitVec 16 := 0
  acctFrom : Tick := 0
  saved : Bool := false
  adaptive : List AdaptState := []
  freezeAll : Bool := false
  home : Option Home := none
  tableGen : Nat := 0
  setBy : List (BitVec 16 × Nat) := []
  deriving DecidableEq, Repr

/-- CTX_SCHED_STATUS apart, what the scheduler keeps device-wide (R437, R439, R144). `haltSpans` are the halts that were
released since the last sweep (R123). -/
structure Sched where
  cycleValid : Bool := false
  cycleLength : Byte := 0
  queueB : Byte := 0
  queueA : Byte := 0
  cycleFlag : BitVec 10 := 0
  lastCycles : List (List Nat) := []
  haltSpans : List (Tick × Tick) := []
  sweepFirst : Nat := 0
  nextSweep : Tick := 0
  sweeps : Nat := 0
  deriving DecidableEq, Repr

/-! ## The Manifest (chapter 07) -/

/-- A load in progress: the image to apply, once the check has passed, the Quays it still has to
apply, whether the masks still have to change, the fence map and the payload each port carried (check
14, in bits per second × 700) at ENABLE. `fromLog`: in replay, where the entry's image lies, its length
and the recorded REASON. -/
structure Load where
  image : Option ManifestImage := none
  changed : List QuayId := []
  remap : Bool := false
  fenceMap : Word := 0
  carries : List Nat := []
  fromLog : Option (Nat × Nat × BitVec 16) := none
  deriving DecidableEq, Repr

/-- MANIFEST registers and the Manifest in force (R160–R175): lost at F and D. -/
structure Manifest where
  quaysSel : Byte := 0
  drain : Bool := false
  perQuay : Bool := false
  enable : Bool := false
  held : Bool := false
  load : Option Load := none
  refused : Bool := false
  remapped : Bool := false
  reason : BitVec 16 := 0
  section_ : Byte := 0xFF
  item : BitVec 16 := 0
  addr : BitVec 35 := 0
  len : BitVec 21 := 0
  countRefused : BitVec 16 := 0
  countAccepted : BitVec 16 := 0
  device : Option DeviceSection := none
  partition : Vector (Option Nat) 8 := .replicate 8 none
  deriving DecidableEq, Repr

/-! ## The matrix array and its stores (chapters 08–14) -/

/-- QUAY_BbSTATUS.SEQ (R203). -/
inductive SeqState where
  | idle | running | handshake | stopped
  deriving DecidableEq, Repr

/-- QUAY_BbEPOCH (R203). -/
structure EpochCapture where
  valid : Bool := false
  cell : BitVec 4 := 0
  port : BitVec 2 := 0
  expected : BitVec 2 := 0
  found : BitVec 2 := 0
  cycle : BitVec 21 := 0
  deriving DecidableEq, Repr

/-- QUAY_BbRESIDUE (R203). -/
structure ResidueCapture where
  valid : Bool := false
  cell : BitVec 4 := 0
  located : Bool := false
  column : BitVec 6 := 0
  carried : BitVec 3 := 0
  computed : BitVec 3 := 0
  deriving DecidableEq, Repr

/-- QUAY_BbHOLDERR and QUAY_STOREERR (R327). -/
structure EccCapture where
  valid : Bool := false
  bank : BitVec 4 := 0
  row : BitVec 13 := 0
  deriving DecidableEq, Repr

/-- One write of a tile's results, held back until the tile's end releases it (R178). `half`: a 4-bit code in
the high (true) or low half of one byte. -/
structure TileWrite where
  va : BitVec 64
  bytes : List Byte
  half : Option Bool
  deriving DecidableEq, Repr

/-- A disagreement that a check of a tile sees: at a drain with the carried and the computed residue (7: the sticky
bit), in an SFU lane, in a Swell lane, or in the transform engine (R197, R214, R246, R289, R304). -/
inductive Seen where
  | drain (at_ : LanePos) (carried computed : BitVec 3)
  | sfu (berth : BerthId) (lane : Fin 32)
  | swell (berth : BerthId) (lane : Fin 16)
  | transform
  deriving DecidableEq, Repr

/-- A tile in progress or held back: the tile, its command, what its results come from, whether it is a re-run,
what its first run's checks saw, and the Berth whose QUAY_BbRESIDUE took that. -/
structure TileRun where
  tile : Tile
  cmd : QueueId × Word
  env : TileEnv
  rerun : Bool
  first : List Seen
  captured : Option BerthId := none
  deriving DecidableEq, Repr

/-- One Berth: spares, captures, counts (kept through F and D), sequencer, tile, lane weights of the
active and the shadow registers (R177), and the command's counters of tiles, passes and SFU passes (R194,
R214, R289). `wakeFrom` is when it last began to wake (R201). `hold` are the elements that the Hold contains, which live no longer than the command that owns
them (R311); `holdOwner` is that command. -/
structure Berth where
  fenced : Bool := false
  gated : Bool := true
  clockGated : Bool := false
  waking : Bool := false
  wakeFrom : Option Tick := none
  seq : SeqState := .idle
  cellUsed : Bool := false
  spareCell : BitVec 4 := 0
  colmap : Vector (Option (BitVec 4)) 16 := .replicate 16 none
  epoch : EpochCapture := {}
  residue : ResidueCapture := {}
  countResidue : BitVec 16 := 0
  countEpoch : BitVec 16 := 0
  holdCorrected : BitVec 16 := 0
  holdUncorr : BitVec 16 := 0
  holdErr : EccCapture := {}
  tile : Option TileRun := none
  holdOwner : Option (QueueId × Word) := none
  hold : List HoldElem := []
  weights : List (List (Option Int)) := []
  shadow : List (List (Option Int)) := []
  tileNo : Nat := 0
  passNo : Nat := 0
  sfuPassNo : Nat := 0
  deriving DecidableEq, Repr

/-- One Quay. `gatedFrom` is when its clock was last gated (R101, R201). `resetAsked` is that a reset was asked for since READY last set, `store` are the bytes that the Quay store contains, in the form of `Memory.cells`. -/
structure Quay where
  ready : Bool := false
  resetting : Bool := false
  resetHeld : Bool := false
  resetAsked : Bool := false
  wholeFenced : Bool := false
  shape : BitVec 4 := 0
  draining : Bool := false
  clockGated : Bool := false
  gatedFrom : Tick := 0
  recoveryFence : Bool := false
  pilotRunning : Bool := false
  storeCorrected : BitVec 16 := 0
  storeUncorr : BitVec 16 := 0
  storeErr : EccCapture := {}
  storeOwner : List (QueueId × Word) := []
  store : List Host.Cell := []
  berths : Vector Berth 4 := .replicate 4 {}
  deriving DecidableEq, Repr

/-! ## Harbour cache and memory controller (chapters 14, 15) -/

/-- MEMCTL_HARBOURECC and _HARBOURERR, and the lines disabled by self-repair. -/
structure Harbour where
  corrected : BitVec 16 := 0
  refetched : Byte := 0
  poisonedCount : Byte := 0
  errValid : Bool := false
  errSlice : BitVec 5 := 0
  errWay : BitVec 4 := 0
  errSet : BitVec 9 := 0
  disabled : List (Nat × Nat × Nat) := []
  deriving DecidableEq, Repr

/-- Causes of strict mode (R336). -/
inductive StrictCause where
  | startup | periodic | fullRetrain | memtest | uncorrectable | host
  deriving DecidableEq, Repr

/-- A request that waits at the controller, the count at which it arrived (R335), and its number among all requests, by
which those of one source keep their order (R334). -/
structure Waiting where
  req : MemReq
  since : Tick
  seq : Nat
  deriving DecidableEq, Repr

/-- One companion-memory channel. `requests` is its queue, the oldest first; `retried` is the place in it of a request
whose phase is being retried, `retrainFrom` the count its next retraining slot may not precede, and `hotBanks` are the
banks whose last refresh window began while the hot condition held. `wires` are the trained values of its eight wires
(R340). -/
structure Channel where
  retries : BitVec 16 := 0
  fullRetrains : Byte := 0
  drift : Byte := 0
  corrected : BitVec 16 := 0
  uncorr : BitVec 16 := 0
  strict : List StrictCause := []
  paused : Bool := false
  retraining : Bool := false
  failedPeriods : Nat := 0
  attempts : Nat := 0
  retried : Option Nat := none
  retrainFrom : Nat := 0
  requests : List Waiting := []
  lastUncorr : Tick := 0
  windows : Vector Tick 16 := .replicate 16 0
  hotBanks : List BankId := []
  refreshing : List BankId := []
  wires : Vector WireTraining 8 := .replicate 8 {}
  deriving DecidableEq, Repr

/-- The default masks (R333). -/
def defaultMasks : Masks where
  ch := #v[0x0_0108_0100, 0x0_0210_0200, 0x0_0420_0400, 0x0_0840_0800, 0x0_1080_1000]
  bank := #v[0x0_2000_2000, 0x0_4000_4000, 0x0_8000_8000, 0x1_0001_0000]

/-- The memory controller: what is kept through F and D. `issued` numbers the requests, and `recentres` the exits from
retention. -/
structure MemCtl where
  trained : Bool := false
  hot : Bool := false
  retention : Bool := false
  masks : Masks := defaultMasks
  acceptedSinceStart : Bool := false
  uerrValid : Bool := false
  uerrSource : BitVec 4 := 0
  uerrBank : BitVec 4 := 0
  uerrChannel : BitVec 5 := 0
  uerrAddr : BitVec 35 := 0
  issued : Nat := 0
  recentres : Nat := 0
  chans : Vector Channel 32 := .replicate 32 {}
  deriving DecidableEq, Repr

/-- MEMCTL_CTRL and MEMCTL_LOCKUSER2–7: lost at F and D. `regions` are the locked regions in force
(unit index in 256 KiB from window offset 0, user), `pendingRegions` those that wait for their users'
frame boundary (R165). -/
structure MemHost where
  hidden : Bool := false
  strict : Bool := false
  lockUser : Vector (BitVec 4) 64 := .replicate 64 0
  pendingUser : Vector (Option (BitVec 4)) 64 := .replicate 64 none
  deriving DecidableEq, Repr

/-! ## Cameras, streams, codecs, deck (chapters 16–18) -/

/-- What a port keeps through F and D: CSI_PORTpERR. -/
structure PortErr where
  eccCorrected : BitVec 16 := 0
  crcErrors : BitVec 16 := 0
  deriving DecidableEq, Repr

/-- A port (R352–R357, R378). -/
structure Port where
  lossFrames : Byte := 8
  present : Bool := false
  rate : Byte := 45
  lanes : BitVec 2 := 0b10
  phy : Bool := false
  ulps : Bool := false
  lost : Bool := false
  lossCount : Nat := 0
  inFrame : Bool := false
  deriving DecidableEq, Repr

/-- A STREAM_BIND in force (R360). -/
structure Binding where
  ctx : CtxId
  flag : FlagId
  count : Nat
  va : BitVec 64
  stride : Word
  queue : QueueId
  deriving DecidableEq, Repr

/-- One exposure of a frame: frame start received, frame end received, lines received. -/
structure Exposure where
  begun : Bool := false
  done : Bool := false
  lines : Nat := 0
  deriving DecidableEq, Repr

/-- A frame in progress on a stream: its stamps, frame number, port and channel, exposures, torn causes, the first output
line blanked, whether it is to be dropped without a record, the definition and binding it follows, and
the lines as received. `defs` are the definitions its pipe works to, `tables` the class 1 tables in force for it, and
`past` the frames its temporal history holds (R372). `tableCount` counts the class 1 tables applied by its start, and `index`
is its number when a later bind has set the counts to 0 since. -/
structure Frame where
  start : Tick
  endAt : Tick := 0
  csiFrame : BitVec 16
  source : Option (Nat × Nat) := none
  expo : Vector Exposure 3 := .replicate 3 {}
  torn : Byte := 0
  blankFrom : Option (BitVec 16) := none
  historyReset : Bool := false
  ended : Bool := false
  dropped : Bool := false
  defn : StreamDef
  binding : Option Binding
  received : List InLine := []
  defs : List StreamDef := []
  tables : List (Nat × List Byte) := []
  past : List PipeInput := []
  tableCount : Word := 0
  index : Option Word := none
  deriving DecidableEq, Repr

/-- Privacy blanking of a stream: kept through F and D (R108). `inForce` is that blanking has not ended (R366). -/
structure Blank where
  blank : Bool := false
  pendingClear : Bool := false
  inForce : Bool := false
  deriving DecidableEq, Repr

/-- A stream context: lost at F and D. `frame` is the frame in progress, `unwritten` those before it that
the pipe has not finished, and `past` the frames its temporal history holds (R372). The tables and the binding that wait for a
frame start carry the counts of their commands, which replay takes from the log (R465). -/
structure Stream where
  full : Bool := false
  deliverTorn : Bool := false
  feedBusy : Bool := false
  idleLost : Bool := false
  defn : Option StreamDef := none
  nextDefn : Option (Option StreamDef) := none
  binding : Option Binding := none
  nextBinding : Option (Option Binding) := none
  nextBindAt : Tick := 0
  frame : Option Frame := none
  unwritten : List Frame := []
  consumed : Word := 0
  frames : Word := 0
  tornCount : BitVec 16 := 0
  droppedCount : BitVec 16 := 0
  feedAddr : BitVec 35 := 0
  feedPitch : BitVec 20 := 0
  tables : List (Nat × List Byte) := []
  nextTables : List (Nat × List Byte × Tick) := []
  tableCount : Word := 0
  historyValid : Bool := false
  past : List PipeInput := []
  captured : Bool := false
  deriving DecidableEq, Repr

/-- A trigger output's programming, the count it next fires at (R166, R368), and the counts at which the last
pulse rose and falls. -/
structure TrigState where
  prog : Option Trigger := none
  next : Tick := 0
  rose : Tick := 0
  falls : Tick := 0
  deriving DecidableEq, Repr

/-- A source frame a session codes: its TIDE_SRC, its first blanked line, whether it is torn, the buffer it is read
from (the stream's virtual address, or the feed's address), and its bytes; none while a feed is still being read. -/
structure SrcFrame where
  tideSrc : Tick
  blankFrom : Option (BitVec 16)
  torn : Bool
  buffer : Nat
  image : Option (List Byte) := none
  deriving DecidableEq, Repr

/-- A frame that a decoder has decoded and that waits for its turn in display order (R388). -/
structure Decoded where
  tideSrc : Tick
  bytes : List Byte
  key : Bool
  grainOmitted : Bool
  deriving DecidableEq, Repr

/-- A codec session (R384–R394). `keyOwed` is a key frame due after an abandoned frame or a suspension, `keyFrame` and `bFrame`
the kind of the frame in progress, `queue` the source frames or access units that wait. `history` is what its output depends on
beside its descriptor (R392), and `written` the bytes of the frame in progress that are recorded. Of a decoder, `decoded` wait
to be output, `shown` counts those that were, and `gaps` are its records that hold no frame buffer. -/
structure Session where
  descAddr : BitVec 35 := 0
  en : Bool := false
  reason : BitVec 16 := 0
  suspended : Bool := false
  active : Bool := false
  desc : Option SessDesc := none
  dataHead : Word := 0
  recHead : Word := 0
  recTail : Word := 0
  feedAddr : BitVec 35 := 0
  feedLen : Word := 0
  feedBusy : Bool := false
  forceKey : Bool := false
  keyOwed : Bool := false
  keyFrame : Bool := false
  bFrame : Bool := false
  queue : List SrcFrame := []
  coding : Option SrcFrame := none
  chunk : Nat := 0
  offset : Nat := 0
  frameNo : Nat := 0
  skipToAccess : Bool := false
  written : Nat := 0
  history : List CodecEvent := []
  decoded : List Decoded := []
  shown : Nat := 0
  gaps : List Word := []
  deriving DecidableEq, Repr

/-- One codec unit. -/
structure CodecUnit where
  shed : Bool := false
  busy : Bool := false
  deriving DecidableEq, Repr

/-- A deck core: its capture (kept through F and D). -/
structure DeckFault where
  valid : Bool := false
  cause : Byte := 0
  deriving DecidableEq, Repr

/-! ## Tide, record and replay (chapter 20) -/

/-- TIDE registers: kept through F and D. -/
structure Tide where
  locked : Bool := false
  count : Tick := 0
  latchHi : Word := 0
  stepped : Bool := false
  held : Bool := false
  holdover : Bool := false
  ptmLocked : Bool := false
  groupAligned : Bool := false
  aligned : Bool := false
  syncOutEn : Bool := false
  ptmLock : Bool := false
  syncArm : Bool := false
  syncValue : Tick := 0
  syncSeen : Tick := 0
  syncOutAt : Tick := 0
  syncOutWidth : Byte := 4
  ptmEpoch : BitVec 64 := 0
  ptmOffset : BitVec 64 := 0
  ptmError : BitVec 16 := 0
  ptmAt : Option Tick := none
  ptmBad : Nat := 0
  ptmCorrectedAt : Tick := 0
  holdoverFrom : Tick := 0
  comp : Vector Nat 52 := .replicate 52 0
  deriving DecidableEq, Repr

/-- A decision entry that replay has found (R460, R467): its kind, the command it names, its flag and
REASON, and of a SCALE entry the tensor, the step and the exponent after it. -/
structure Decision where
  kind : Nat
  q : Nat
  idx : Nat
  flag : Bool
  reason : BitVec 16
  tensor : BitVec 16
  step : Word
  after : Int
  deriving DecidableEq, Repr

/-- RECORD registers and the capture or replay in progress: lost at F and D. `seq` is the next entry's
number, known in replay once an entry has been applied (`seqSet`); `decisions` are those the apply point
has passed. -/
structure Recorder where
  checkpoint : Bool := false
  decide : Bool := false
  pos : Bool := false
  mode : Bool := false
  en : Bool := false
  reason : BitVec 16 := 0
  ended : Bool := false
  stopped : Bool := false
  gap : Bool := false
  waiting : Bool := false
  active : Bool := false
  sctx : BitVec 24 := 0
  base : BitVec 35 := 0
  sizeLog2 : BitVec 5 := 20
  devIndex : Word := 0
  hostIndex : Word := 0
  lost : Word := 0
  lostRun : Nat := 0
  diverge : Word := 0
  windows : Vector (BitVec 35 × BitVec 20) 4 := .replicate 4 (0, 0)
  seq : BitVec 64 := 0
  seqSet : Bool := false
  decisions : List Decision := []
  deriving DecidableEq, Repr

/-! ## Power (chapter 21) -/

/-- POWER registers kept through F and D, with the estimate and the sag machinery. `history` holds
the estimates (tick, milliwatts) the average is formed from. -/
structure Power where
  budget : Byte := 220
  window : BitVec 6 := 10
  slackEn : Bool := false
  step : Nat := 0
  stepAt : Tick := 0
  returning : Bool := false
  sagIo : Bool := false
  sagCore : Bool := false
  heldCount : BitVec 16 := 0
  sags : BitVec 16 := 0
  fraction : Nat := 64
  history : List (Tick × Nat) := []
  step6From : Tick := 0
  deriving DecidableEq, Repr

/-- The keep masks: lost at F and D (R486). -/
structure Keep where
  sctx : BitVec 24 := 0
  ctx : BitVec 256 := 0
  deriving DecidableEq, Repr

/-! ## Faults, repair and the Lighthouse (chapter 22) -/

/-- The FAULT block and self-repair: kept through F and D, lost at C and H. `columnCounts` counts the
0x1001 of each Berth column, `localising` the columns that wait for a localising tile (R499). -/
structure Faults where
  ring : Ring := {}
  active : Bool := false
  gap : Bool := false
  corrected : BitVec 16 := 0
  contained : Byte := 0
  fatal : Byte := 0
  made : BitVec 16 := 0
  notSaved : Bool := false
  writing : Bool := false
  logged4005 : Bool := false
  counts : List (RepairLoc × List Tick) := []
  pending : List (RepairLoc × BitVec 16 × Tick) := []
  bad : List RepairLoc := []
  localising : List (QuayId × BerthId × Fin 64) := []
  columnCounts : List ((QuayId × BerthId × Fin 64) × List Tick) := []
  deriving DecidableEq, Repr

/-- LIGHTHOUSE_STATUS.STATE (R515). -/
inductive LhState where
  | normal | relaunching | lost | halted
  deriving DecidableEq, Repr

/-- The LIGHTHOUSE block and a re-launch in progress; `step` is its step under way (R505): 0 the
self-test, 1 the digest, 2 the warm start. -/
structure Lighthouse where
  state : LhState := .normal
  cause : BitVec 16 := 0
  tide : Tick := 0
  relaunches : BitVec 16 := 0
  passed : BitVec 3 := 0b111
  coreA : BitVec 2 := 0b00
  coreB : BitVec 2 := 0b01
  bootHoldError : Bool := false
  completedAt : Option Tick := none
  pendingLossRecord : Option Event := none
  step : Nat := 0
  deriving DecidableEq, Repr

/-- The state of the block. `part` is fixed (log entry 1). `seeds` numbers the undefined ranges,
`freeCount` the free values taken, `outbox` the messages sent, newest last, and `pending` the
commands that wait, first in, first out. -/
structure State where
  part : Part := .ojq8_32a
  secure : Secure := {}
  boot : Boot := {}
  env : Env := {}
  cfg : PcieCfg := {}
  aer : Aer := {}
  hostif : Hostif := {}
  ltr : Option LtrState := none
  ready : Ready := {}
  fwif : Fwif := {}
  heart : Heart := {}
  marks : List RateMark := []
  queues : Vector Queue 256 := .replicate 256 {}
  flags : Vector Word 1024 := .replicate 1024 0
  ctxs : Vector Ctx 256 := .replicate 256 {}
  flights : List Flight := []
  sched : Sched := {}
  manifest : Manifest := {}
  quays : Vector Quay 8 := .replicate 8 {}
  mem : Memory := {}
  harbour : Harbour := {}
  memctl : MemCtl := {}
  memhost : MemHost := {}
  portErrs : Vector PortErr 12 := .replicate 12 {}
  ports : Vector Port 12 := .replicate 12 {}
  streams : Vector Stream 24 := .replicate 24 {}
  blanks : Vector Blank 24 := .replicate 24 {}
  trigs : Vector TrigState 12 := .replicate 12 {}
  sessions : Vector Session 32 := .replicate 32 {}
  codecs : Vector CodecUnit 3 := .replicate 3 {}
  deckFaults : Vector DeckFault 8 := .replicate 8 {}
  deckOwner : Vector (Option (QueueId × Word)) 8 := .replicate 8 none
  deckReduced : Bool := false
  tide : Tide := {}
  recorder : Recorder := {}
  power : Power := {}
  keep : Keep := {}
  faults : Faults := {}
  lighthouse : Lighthouse := {}
  seeds : Nat := 0
  freeCount : Nat := 0
  outbox : List Message := []
  pending : List Instr := []
  deriving DecidableEq, Repr

/-- The machine before its supplies come up: every field at its reset value (R92–R515; log entries
1, 9, 10). -/
def State.reset : State := {}

/-- Nothing faults: every rule of the spec gives an effect, and a device fault is a reason code in
the state. The constructor is kept for the interface; no definition raises it. -/
inductive Fault where
  /-- Raised by nothing: safe. -/
  | none
  deriving DecidableEq, Repr

/-- Why a command has no meaning. -/
inductive Refusal where
  /-- A command with no meaning yet, by its mnemonic; raised only by arms of `exec`. Safe. -/
  | notModelled (mnemonic : String)
  deriving DecidableEq, Repr

end Sys2Proof.Machine
end

