-- ==== Sys2Proof/Machine/Ops.lean ====
section
/-! DEFINITION. Named operations over memory, messages, reports and rings. -/

namespace Sys2Proof

/-! ## The part (R1, R120, R329) -/

/-- Bytes of companion memory installed. -/
def Part.memory : Part → Nat
  | .ojq6_16a => 0x4_0000_0000
  | _ => 0x8_0000_0000

/-- Enabled Quays, one bit per Quay. -/
def Part.quays : Part → Byte
  | .ojq6_16a => 0x3F
  | _ => 0xFF

/-- IDENT_PART.PART. -/
def Part.code : Part → BitVec 16
  | .ojq8_32a => 1
  | .ojq8_32i => 2
  | .ojq6_16a => 3

/-- The firmware-reserved last 64 KiB (R86) starts here. -/
def Part.reserved : Part → Nat
  | .ojq6_16a => 0x3_FFFF_0000
  | _ => 0x7_FFFF_0000

end Sys2Proof

namespace Sys2Proof.Machine

/-! ## Bytes -/

/-- The `n` low bytes of `v`, least significant first (R8). -/
def leBytes : Nat → Nat → List Byte
  | 0, _ => []
  | n + 1, v => BitVec.ofNat 8 v :: leBytes n (v / 256)

/-- The number that little-endian bytes spell (R8). -/
def leNat : List Byte → Nat
  | [] => 0
  | b :: bs => b.toNat + 256 * leNat bs

/-! ## Memory

An address that nothing lists reads 0x00 (log entry 2), or the free byte of the undefined range that
holds it (log entry 3). -/

/-- Does the range hold the address? -/
def UndefRange.has (r : UndefRange) (a : Nat) : Bool := r.lo ≤ a && a < r.hi

/-- What an unlisted address reads as. -/
def Memory.unlisted (m : Memory) (a : Nat) : Byte :=
  match m.undef.find? (·.has a) with
  | some r => Config.freeByte r.seed a
  | none => 0

/-- The byte a sorted list holds at an address, if any. -/
def cellAt : List Host.Cell → Nat → Option Byte
  | [], _ => none
  | c :: cs, a => if c.1 = a then some c.2 else if a < c.1 then none else cellAt cs a

/-- Set or remove the cell of an address in a sorted list. -/
def putCell : List Host.Cell → Nat → Option Byte → List Host.Cell
  | [], a, v => v.toList.map (a, ·)
  | c :: cs, a, v =>
    if a < c.1 then v.toList.map (a, ·) ++ (c :: cs)
    else if c.1 = a then v.toList.map (a, ·) ++ cs
    else c :: putCell cs a v

/-- The canonical form: addresses strictly rising, no entry equal to what its address reads as unlisted (a
zero outside every undefined range). -/
abbrev Memory.wf (m : Memory) : Prop :=
  (m.cells.Pairwise fun a b => a.1 < b.1) ∧
  ∀ c ∈ m.cells, c.2 ≠ 0 ∧ ∀ u ∈ m.undef, u.has c.1 = false

/-- What is left of a range when [lo, hi) is cut out of it. -/
def UndefRange.cut (r : UndefRange) (lo hi : Nat) : List UndefRange :=
  if hi ≤ r.lo ∨ r.hi ≤ lo then [r] else
  (if r.lo < lo then [{ r with hi := lo }] else []) ++
  (if hi < r.hi then [{ r with lo := hi }] else [])

/-- Read one byte. -/
def Memory.read (m : Memory) (a : Nat) : Byte := (cellAt m.cells a).getD (m.unlisted a)

/-- Write one byte: a zero is unlisted, and the byte leaves any undefined range. -/
def Memory.write (m : Memory) (a : Nat) (b : Byte) : Memory :=
  { m with
    cells := putCell m.cells a (if b = 0 then none else some b)
    undef := m.undef.flatMap (·.cut a (a + 1)) }

/-- Write consecutive bytes. -/
def Memory.writes (m : Memory) : Nat → List Byte → Memory
  | _, [] => m
  | a, b :: bs => (m.write a b).writes (a + 1) bs

/-- Read `n` consecutive bytes. -/
def Memory.reads (m : Memory) (a : Nat) : Nat → List Byte
  | 0 => []
  | n + 1 => m.read a :: m.reads (a + 1) n

/-- Clear [lo, hi) to zero. -/
def Memory.clear (m : Memory) (lo hi : Nat) : Memory :=
  { m with
    cells := m.cells.filter fun c => !(lo ≤ c.1 && c.1 < hi)
    undef := m.undef.flatMap (·.cut lo hi) }

/-- Make the contents of [lo, hi) undefined (log entry 3). -/
def Memory.forget (m : Memory) (lo hi seed : Nat) : Memory :=
  if hi ≤ lo then m else
  let m := m.clear lo hi
  { m with undef := m.undef ++ [⟨lo, hi, seed⟩] }

/-- The 128-byte line of an address. -/
def lineOf (a : Nat) : Nat := a / 128

/-- The slice of an address (R315). -/
def sliceOf (a : Nat) : Nat := a / 2 ^ 7 % 32 ^^^ a / 2 ^ 12 % 32 ^^^ a / 2 ^ 17 % 32
/-- The set of an address in its slice (R315). -/
def setOf (a : Nat) : Nat := a / 2 ^ 12 % 512
/-- The way of a window offset (R320). -/
def lockedWay (o : Nat) : Nat := 15 - o / 2 ^ 21 % 8
/-- The 256 KiB unit of the window whose lines lie in a way and set (R320). -/
def lockedUnit (way set : Nat) : Nat := 8 * (15 - way) + set / 64
/-- The window offset of the line in a slice, way and set (R320). -/
def lockedOffset (slice way set : Nat) : Nat :=
  let o := (15 - way) * 2 ^ 21 + set * 2 ^ 12
  o + 2 ^ 7 * (slice ^^^ set % 32 ^^^ o / 2 ^ 17 % 32)

/-- The Harbour cache's copy of a line (R315). -/
def Memory.held (m : Memory) (line : Nat) : Option CacheLine := m.lines.find? fun l => l.line = line

/-- Mark or clear the poison of a line in the stacks or in the window (R317, R345). -/
def Memory.setPoison (m : Memory) (line : Nat) (p : Bool) : Memory :=
  { m with poison := (if p then [line] else []) ++ m.poison.filter (· != line) }

/-- Does a reader meet poison in a line? In the cache's copy where there is one (R317, R345). -/
def Memory.bad (m : Memory) (line : Nat) : Bool :=
  match m.held line with
  | some l => l.bad
  | none => m.poison.contains line

/-- Does a reader of [a, a + n) meet poison? -/
def Memory.poisoned (m : Memory) (a n : Nat) : Bool :=
  (m.poison ++ m.lines.map (·.line)).any fun l =>
    lineOf a ≤ l && l ≤ lineOf (a + n - 1) && n != 0 && m.bad l

/-- A line the cache holds, or else the stacks or the window, is poisoned (R317). -/
def Memory.spoil (m : Memory) (line : Nat) : Memory :=
  if (m.held line).isNone then m.setPoison line true
  else { m with lines := m.lines.map fun l => if l.line = line then { l with dirty := true, bad := true } else l }

/-- A clean line is read from the stacks again (R317). -/
def Memory.refetch (m : Memory) (line : Nat) : Memory :=
  { m with lines := m.lines.map fun l =>
      if l.line = line then { l with bad := m.poison.contains line } else l }

/-- A write of [a, a + n) replaces the poison of each line that it covers, and makes dirty what the cache holds of it
(R315, R317, R345). -/
def Memory.unpoisonCovered (m : Memory) (a n : Nat) : Memory :=
  let covers (l : Nat) : Bool := a ≤ l * 128 && l * 128 + 128 ≤ a + n
  { m with
    poison := m.poison.filter fun l => !covers l || (m.held l).isSome
    lines := m.lines.map fun l =>
      if n != 0 && lineOf a ≤ l.line && l.line ≤ lineOf (a + n - 1) then
        { l with dirty := true, bad := l.bad && !covers l.line }
      else l }

/-- Lines leave the cache: the stacks take what is dirty, with its poison (R315, R317, R319). -/
def Memory.dropLines (m : Memory) (p : CacheLine → Bool) : Memory :=
  let back := m.lines.filter fun l => p l && l.dirty
  { m with
    lines := m.lines.filter fun l => !p l
    poison := (back.filter (·.bad)).map (·.line) ++ m.poison.filter fun n => !back.any fun l => l.line = n }

/-- A line enters the cache at a way, as the stacks hold it, and what was there leaves (R315). -/
def Memory.fill (m : Memory) (a way : Nat) (dirty : Bool) : Memory :=
  let m := m.dropLines fun l => l.slice = sliceOf a && l.set = setOf a && l.way = way
  let l : CacheLine := ⟨sliceOf a, setOf a, way, lineOf a, dirty, m.poison.contains (lineOf a)⟩
  { m with lines := l :: m.lines }

/-- A device write of consecutive bytes. -/
def Memory.store (m : Memory) (a : Nat) (bs : List Byte) : Memory :=
  (m.writes a bs).unpoisonCovered a bs.length

/-- The locked-region window and the boot hold at its start (R320). -/
def windowBase : Nat := 0x10_0000_0000
def windowSize : Nat := 0x100_0000
def holdSize : Nat := 0x40_0000

/-- The outbound space (R127). -/
def outboundBase : Nat := 0x80_0000_0000
def outboundEnd : Nat := 0x100_0000_0000

/-! ## AER (R130) -/

/-- The bit of an AER status in the Uncorrectable Error registers of the PCIe Base specification. -/
def aerBit : AerKind → Nat
  | .poisonedTlp => 12 | .completionTimeout => 14 | .completerAbort => 15 | .unsupportedRequest => 20
  | .uncorrectableInternal => 22

/-- Does an AER status bit stand? -/
def Aer.stands (a : Aer) (bit : Nat) : Bool :=
  (bit = 12 && a.poisoned) || (bit = 14 && a.completionTimeout) || (bit = 15 && a.completerAbort) ||
  (bit = 20 && a.unsupported) || (bit = 22 && a.internal)

/-- An unmasked error takes the First Error Pointer when the error that has it is cleared, and a poisoned TLP leaves
its header in the header log then (R111; log entry 12). -/
def Aer.log (a : Aer) (k : AerKind) (n : Nat) : Aer :=
  if a.mask.getLsbD (aerBit k) || a.stands a.first.toNat then a
  else { a with
    first := BitVec.ofNat 5 (aerBit k)
    header := if k = .poisonedTlp then Config.tlpHeader n else 0 }

namespace State

/-- The present Tide count. -/
def now (s : State) : Tick := s.tide.count

/-- [a, a + n) lies in companion memory outside the reserved region. -/
def inHostMemory (s : State) (a n : Nat) : Bool := a + n ≤ s.part.reserved

/-- [a, a + n) lies in the outbound space. -/
def inOutbound (a n : Nat) : Bool := outboundBase ≤ a && a + n ≤ outboundEnd

/-- Does the part enable the Quay? -/
def quayEnabled (s : State) (q : QuayId) : Bool := s.part.quays.getLsbD q

/-- The device is lost (R509). -/
def lost (s : State) : Bool := s.lighthouse.state = .lost

/-- Customs has finished and firmware runs. -/
def running (s : State) : Bool := s.boot.stage = .running

/-- Shedding step 6 has stopped every clock but two (R481). -/
def frozen (s : State) : Bool := s.power.step = 6

/-! ## Updates of one unit -/

def updQueue (s : State) (q : QueueId) (f : Queue → Queue) : State :=
  { s with queues := updAt s.queues q f }
def updCtx (s : State) (c : CtxId) (f : Ctx → Ctx) : State := { s with ctxs := updAt s.ctxs c f }
def updQuay (s : State) (q : QuayId) (f : Quay → Quay) : State :=
  { s with quays := updAt s.quays q f }
def updBerth (s : State) (q : QuayId) (b : BerthId) (f : Berth → Berth) : State :=
  s.updQuay q fun y => { y with berths := updAt y.berths b f }
def updPort (s : State) (p : PortId) (f : Port → Port) : State := { s with ports := updAt s.ports p f }
def updStream (s : State) (i : SctxId) (f : Stream → Stream) : State :=
  { s with streams := updAt s.streams i f }
def updSession (s : State) (i : SessId) (f : Session → Session) : State :=
  { s with sessions := updAt s.sessions i f }
def updChan (s : State) (c : ChanId) (f : Channel → Channel) : State :=
  { s with memctl := { s.memctl with chans := updAt s.memctl.chans c f } }

def berth (s : State) (q : QuayId) (b : BerthId) : Berth := s.quays[q].berths[b]

/-- The memory after `f`. -/
def updMem (s : State) (f : Memory → Memory) : State := { s with mem := f s.mem }

/-! ## Messages -/

/-- Put a message on the trail (log entry 8). -/
def send (s : State) (m : Message) : State := { s with outbox := s.outbox ++ [m] }

/-- The bit of an MSI-X vector in the PBA. -/
def setPba (s : State) (v : Nat) (p : Bool) : State :=
  { s with cfg := { s.cfg with pba := s.cfg.pba.setIfInBounds v p } }

/-- Send an MSI-X vector to the address of its table entry (R128, R129): none when the device is lost or MSI-X
is off; a masked vector sets its pending bit, as the PCIe Base specification states. -/
def sendMsix (s : State) (v : Nat) : State :=
  if s.lost || !s.cfg.msixEnable then s else
  match s.cfg.table[v]? with
  | none => s
  | some e => if s.cfg.msixFunctionMask || e.masked then s.setPba v true else s.send (.msix v e.addr e.data)

/-- Pending vectors that nothing masks any longer are sent and their PBA bits clear (R129). -/
def flushMsix (s : State) : State :=
  (List.range 128).foldl (fun s v =>
    if s.cfg.pba[v]?.getD false && !s.lost && s.cfg.msixEnable && !s.cfg.msixFunctionMask &&
        (s.cfg.table[v]?.any fun e => !e.masked) then (s.setPba v false).sendMsix v
    else s) s

/-- Set an AER status bit and signal it, unless the host masks it, with the severity that the host's register gives
it (R130). -/
def sendAer (s : State) (k : AerKind) : State :=
  let a := s.aer.log k s.outbox.length
  let a := match k with
    | .uncorrectableInternal => { a with internal := true }
    | .poisonedTlp => { a with poisoned := true }
    | .completionTimeout => { a with completionTimeout := true }
    | .unsupportedRequest => { a with unsupported := true }
    | .completerAbort => { a with completerAbort := true }
  let s := { s with aer := a }
  if a.mask.getLsbD (aerBit k) then s else s.send (.aer k (a.severity.getLsbD (aerBit k)))

/-- Move the Tide forward to `t`, never backward (R441; log entry 11). -/
def advanceTo (s : State) (t : Tick) : State :=
  if s.tide.count.toNat < t.toNat then { s with tide := { s.tide with count := t } } else s

/-- The number of the next free value, and the state after taking it (log entry 4). -/
def takeFree (s : State) : Nat × State := (s.freeCount, { s with freeCount := s.freeCount + 1 })

/-- Make companion memory in [lo, hi) undefined, under a seed of its own (log entry 3). -/
def forget (s : State) (lo hi : Nat) : State :=
  { s with mem := s.mem.forget lo hi s.seeds, seeds := s.seeds + 1 }

end State

/-! ## Outbound windows (R127) -/

/-- The window whose range holds an outbound address: start, size, and the window. -/
def OutWindow.start (w : OutWindow) : Nat :=
  let d := w.sizeLog2.toNat - 16
  outboundBase + (w.offset.toNat / 2 ^ d * 2 ^ d) * 0x1_0000
def OutWindow.holds (w : OutWindow) (a : Nat) : Bool :=
  w.en && w.start ≤ a && a < w.start + 2 ^ w.sizeLog2.toNat
/-- The host bus address of an outbound address under its window. -/
def OutWindow.bus (w : OutWindow) (a : Nat) : BitVec 64 :=
  BitVec.ofNat 64 (w.xlat.toNat / 2 ^ w.sizeLog2.toNat * 2 ^ w.sizeLog2.toNat + (a - w.start))

/-- The lowest-numbered enabled window that holds an address. -/
def State.windowOf (s : State) (a : Nat) : Option OutWindow :=
  s.hostif.windows.toList.find? (·.holds a)

/-- Is every byte of [a, a + n) in an enabled window, and for a read in one that is no peer window? -/
def State.windowsHold (s : State) (a n : Nat) (read : Bool) : Bool :=
  (List.range n).all fun i => match s.windowOf (a + i) with
    | some w => !(read && w.peer)
    | none => false

/-- Split an outbound write into runs, one per window: the bytes that fall in no window are dropped. -/
def State.outboundRuns (s : State) (noSnoop : Bool) :
    Nat → List Byte → List (OutWindow × Nat × List Byte) → List (OutWindow × Nat × List Byte)
  | _, [], acc => acc.reverse
  | a, b :: bs, acc =>
    match s.windowOf a with
    | none => s.outboundRuns noSnoop (a + 1) bs acc
    | some w =>
      match acc with
      | (w', a', bs') :: rest =>
        if w' = w ∧ a' + bs'.length = a then
          s.outboundRuns noSnoop (a + 1) bs ((w', a', bs' ++ [b]) :: rest)
        else s.outboundRuns noSnoop (a + 1) bs ((w, a, [b]) :: acc)
      | [] => s.outboundRuns noSnoop (a + 1) bs [(w, a, [b])]

/-- Issue an outbound write (R127). -/
def State.outboundWrite (s : State) (a : Nat) (bs : List Byte) (noSnoop : Bool) : State :=
  (s.outboundRuns noSnoop a bs []).foldl
    (fun s r => s.send (.outboundWrite (r.1.bus r.2.1) r.2.2 (noSnoop || r.1.noSnoop))) s

/-- A device write to companion memory, a locked region or the outbound space. -/
def State.deviceWrite (s : State) (a : Nat) (bs : List Byte) (noSnoop : Bool) : State :=
  if outboundBase ≤ a then s.outboundWrite a bs noSnoop else s.updMem (·.store a bs)

/-! ## Reports (R412–R415, R489–R492) -/

/-- The encoding of a severity (R489). -/
def severityCode : Severity → Nat
  | .information => 0 | .corrected => 1 | .contained => 2 | .fatal => 3

/-- PHASE of a ring index (R152): 1 on even passes. -/
def phaseBit (index : Nat) (log2 : Nat) : Bool := index / 2 ^ log2 % 2 = 0

/-- A log entry (R412). -/
def Event.logBytes (e : Event) (phase lostBefore buffered : Bool) : List Byte :=
  leBytes 2 e.reason.toNat ++
  [BitVec.ofNat 8 (severityCode e.severity + if phase then 128 else 0),
   BitVec.ofNat 8 ((if lostBefore then 1 else 0) + if buffered then 2 else 0),
   e.quay, e.berth, e.cell, e.column] ++
  leBytes 8 e.tide.toNat ++ leBytes 2 e.ctx.toNat ++ leBytes 2 e.queue.toNat ++
  leBytes 4 e.index.toNat ++ leBytes 8 e.detail.toNat

/-- A fault record (R491). -/
def Event.faultBytes (e : Event) (phase lostBefore buffered : Bool) : List Byte :=
  leBytes 2 e.reason.toNat ++
  [BitVec.ofNat 8 (severityCode e.severity + 4 * e.level.toNat + if phase then 128 else 0),
   BitVec.ofNat 8 ((if lostBefore then 1 else 0) + (if buffered then 2 else 0) +
     (if e.counted then 4 else 0) + if e.action then 8 else 0),
   e.quay, e.berth, e.cell, e.column] ++
  leBytes 8 e.tide.toNat ++ leBytes 2 e.ctx.toNat ++ leBytes 2 e.queue.toNat ++
  leBytes 4 e.index.toNat ++ leBytes 8 e.detail.toNat

/-- TAIL − HEAD equals the ring's size. -/
def Ring.full (r : Ring) : Bool := (r.tail - r.head).toNat = 2 ^ r.log2.toNat
/-- The address of the entry at TAIL. -/
def Ring.slot (r : Ring) : Nat := r.base.toNat + 32 * (r.tail.toNat % 2 ^ r.log2.toNat)
/-- PHASE of the entry at TAIL. -/
def Ring.phase (r : Ring) : Bool := phaseBit r.tail.toNat r.log2.toNat
/-- One entry lost. -/
def Ring.lose (r : Ring) : Ring := { r with lost := satInc r.lost, lostBefore := true }
/-- One entry written. -/
def Ring.push (r : Ring) : Ring := { r with tail := r.tail + 1, lostBefore := false }

namespace State

/-- Write a trace record when its point is enabled (R415). -/
def trace (s : State) (point : Nat) (arg0 arg1 : Nat) : State :=
  let w := s.fwif
  let r := w.trace
  if !r.en || point ≥ 256 || !(w.traceEn[point / 32]!.getLsbD (point % 32)) || s.lost then s
  else if 2 ^ r.log2.toNat ≤ (r.tail - r.head).toNat && !w.traceWrap then { s with fwif := { w with trace := r.lose } }
  else
    let bytes := [BitVec.ofNat 8 point, if r.phase then 128 else 0, 0, 0] ++
      leBytes 4 w.traceSeq.toNat ++ leBytes 8 s.now.toNat ++ leBytes 8 arg0 ++ leBytes 8 arg1
    { s with
      mem := s.mem.store r.slot bytes
      fwif := { w with trace := r.push, traceSeq := w.traceSeq + 1 } }

/-- Write one entry to the enabled log ring (R412, R413). -/
def logPut (s : State) (e : Event) (buffered : Bool) : State :=
  let r := s.fwif.log
  if severityCode e.severity < s.fwif.logMinsev.toNat then s
  else if r.full then { s with fwif := { s.fwif with log := r.lose } }
  else
    let s := { s with
      mem := s.mem.store r.slot (e.logBytes r.phase r.lostBefore buffered)
      fwif := { s.fwif with log := r.push } }
    if e.severity = .information then s else s.sendMsix 1

/-- Record a code in the log: in the ring, or held on die until it is enabled (R414). -/
def logEvent (s : State) (e : Event) : State :=
  let r := s.fwif.log
  if r.en then s.logPut e false
  else if r.held.length < 256 then
    { s with fwif := { s.fwif with log := { r with held := r.held ++ [e] } } }
  else { s with fwif := { s.fwif with log := r.lose } }

/-- Write one record to the enabled fault ring (R490–R492). -/
def faultPut (s : State) (e : Event) (buffered : Bool) : State :=
  let r := s.faults.ring
  if r.full then { s with faults := { s.faults with ring := r.lose, gap := true } }
  else
    let s := { s with
      mem := s.mem.store r.slot (e.faultBytes r.phase r.lostBefore buffered)
      faults := { s.faults with ring := r.push } }
    let s := if e.severity = .corrected then s else s.sendMsix 0
    s.trace 192 (e.quay.toNat + 256 * e.berth.toNat + 65536 * e.cell.toNat + 16777216 * e.column.toNat) e.reason.toNat

/-- Write a fault record: in the ring, or held on die until it is enabled (R492). -/
def faultEvent (s : State) (e : Event) : State :=
  let r := s.faults.ring
  if s.faults.active then s.faultPut e false
  else if r.held.length < 64 then
    { s with faults := { s.faults with ring := { r with held := r.held ++ [e] } } }
  else { s with faults := { s.faults with ring := r.lose } }

/-- FAULT_COUNTS (R514). -/
def countFault (s : State) (sev : Severity) : State :=
  let f := s.faults
  match sev with
  | .information => s
  | .corrected => { s with faults := { f with corrected := satInc f.corrected } }
  | .contained => { s with faults := { f with contained := satInc f.contained } }
  | .fatal => { s with faults := { f with fatal := satInc f.fatal } }

/-- The vector of the code's area, for streams and power (R129). -/
def sendAreaMsix (s : State) (reason : BitVec 16) : State :=
  if reason.toNat / 0x1000 = 0xA then s.sendMsix 2
  else if reason.toNat / 0x1000 = 0xC then s.sendMsix 3
  else s

/-- Record a reason code: its log entry, its fault record above information, its counts and its
interrupts (R412, R490, R514, R129). While the device is lost nothing is recorded (R116, R509); at shedding step 6 the
entry waits for the clocks (R481, R482). -/
def report (s : State) (e : Event) : State :=
  if s.lost then s
  else if s.frozen then { s with fwif := { s.fwif with stopped := s.fwif.stopped ++ [{ e with tide := s.now }] } }
  else
    let e := { e with tide := s.now }
    let s := s.logEvent e
    let s := if e.severity = .information then s else (s.countFault e.severity).faultEvent e
    s.sendAreaMsix e.reason

/-- A code with a detail and no location. -/
def note (s : State) (reason : BitVec 16) (sev : Severity) (detail : Nat) : State :=
  s.report { reason, severity := sev, detail := BitVec.ofNat 64 detail }

/-- A register write carried `n` reserved encodings, which the fields did not take (R11). -/
def noteReserved (s : State) (n : Nat) : State := if n = 0 then s else s.note 0x500D .information n

/-- One millisecond in ticks. -/
def msTicks : Nat := 250000

/-- Record a code at most once per unit (`key`) in any 1 ms; DETAIL holds the events the entry
stands for (R412). Events inside the interval wait for the next entry of the same key. -/
def reportLimited (s : State) (key : Nat) (e : Event) : State :=
  match s.marks.find? (fun m : RateMark => m.key == key) with
  | none =>
    let s := { s with marks := ⟨key, s.now, 0, e⟩ :: s.marks }
    s.report { e with detail := 1 }
  | some m =>
    let others := s.marks.filter (fun m : RateMark => m.key != key)
    if s.now.toNat < m.last.toNat + msTicks then
      { s with marks := { m with waiting := m.waiting + 1, event := e } :: others }
    else
      let s := { s with marks := ⟨key, s.now, 0, e⟩ :: others }
      s.report { e with detail := BitVec.ofNat 64 (m.waiting + 1) }

/-- The entries whose interval has ended while events waited are written (R412). -/
def flushMarks (s : State) : State :=
  s.marks.foldl (fun s m =>
    if m.waiting > 0 && m.last.toNat + msTicks ≤ s.now.toNat then
      let s := { s with marks := s.marks.map fun (k : RateMark) =>
        if k.key == m.key then { k with waiting := 0, last := s.now } else k }
      s.report { m.event with detail := BitVec.ofNat 64 m.waiting }
    else s) s

/-- BOOT_REASON holds the last code of Customs, and the code is recorded (R94). -/
def bootReport (s : State) (reason : BitVec 16) (sev : Severity) (detail : Nat) : State :=
  { s with boot := { s.boot with reason } }.note reason sev detail

/-- The start is over until PERST_N: STAGE HALTED, the code, FAULT_N (R59, R64, R444, R507). The
event is fatal and is recorded (R490). -/
def bootHalt (s : State) (reason : BitVec 16) (detail : Nat) : State :=
  let s := s.bootReport reason .fatal detail
  { s with
    boot := { s.boot with stage := .halted }
    lighthouse := { s.lighthouse with state := .halted }
    env := { s.env with faultN := true } }

end State

/-- A ring lies aligned to its size in companion memory outside the reserved region (R518). -/
def State.ringFits (s : State) (base log2 unit : Nat) : Bool :=
  base % (unit * 2 ^ log2) = 0 && s.inHostMemory base (unit * 2 ^ log2)

end Sys2Proof.Machine
end

