-- ==== Sys2Proof/Machine/Float.lean ====
section
/-! DEFINITION. Binary floating point, exactly: values as significand and power of two, rounded once
(R189, R253, R256, R284). -/

namespace Sys2Proof.Machine

/-- A binary format of IEEE layout: exponent bits and fraction bits. -/
structure Fmt where
  expBits : Nat
  fracBits : Nat
  deriving DecidableEq, Repr

def Fmt.f32 : Fmt := ⟨8, 23⟩
def Fmt.bf16 : Fmt := ⟨8, 7⟩
def Fmt.f16 : Fmt := ⟨5, 10⟩
def Fmt.e5m2 : Fmt := ⟨5, 2⟩

/-- The exponent of the unit in the last place of subnormals. -/
def Fmt.least (f : Fmt) : Int := 2 - (2 : Int) ^ (f.expBits - 1) - f.fracBits

/-- The canonical NaN of a format (R189). -/
def Fmt.nan (f : Fmt) : Nat := (2 ^ f.expBits - 1) * 2 ^ f.fracBits + 2 ^ (f.fracBits - 1)

/-- A value: `fin neg m e` is ±m × 2^e. -/
inductive Fp where
  | nan
  | inf (neg : Bool)
  | fin (neg : Bool) (m : Nat) (e : Int)
  deriving DecidableEq, Repr

namespace Fp

def zero (neg : Bool) : Fp := .fin neg 0 0
def isNan : Fp → Bool
  | nan => true
  | _ => false
def isZero : Fp → Bool
  | fin _ m _ => m == 0
  | _ => false
def isInf : Fp → Bool
  | inf _ => true
  | _ => false
def isNeg : Fp → Bool
  | nan => false
  | inf n => n
  | fin n _ _ => n

/-- The significand with its sign. -/
def signed (neg : Bool) (m : Nat) : Int := if neg then -(m : Int) else m

def neg : Fp → Fp
  | nan => nan
  | inf n => inf (!n)
  | fin n m e => fin (!n) m e

/-- Exact product (IEEE 754). -/
def mul : Fp → Fp → Fp
  | nan, _ | _, nan => nan
  | inf a, inf b => inf (a != b)
  | inf a, fin b m _ | fin b m _, inf a => if m = 0 then nan else inf (a != b)
  | fin a m e, fin b n f => fin (a != b) (m * n) (e + f)

/-- Exact sum; an exact zero is +0 but for (−0) + (−0) (IEEE 754, nearest-even). -/
def add : Fp → Fp → Fp
  | nan, _ | _, nan => nan
  | inf a, inf b => if a = b then inf a else nan
  | inf a, _ | _, inf a => inf a
  | fin a m e, fin b n f =>
    let g := min e f
    let v := signed a m * 2 ^ (e - g).toNat + signed b n * 2 ^ (f - g).toNat
    if v = 0 then zero (a && b && m == 0 && n == 0) else fin (decide (v < 0)) v.natAbs g

def sub (a b : Fp) : Fp := add a b.neg

/-- Is a < b? False with a NaN; zeros are equal. -/
def lt : Fp → Fp → Bool
  | nan, _ | _, nan => false
  | inf a, inf b => a && !b
  | inf a, fin .. => a
  | fin .., inf b => !b
  | fin a m e, fin b n f =>
    let g := min e f
    decide (signed a m * 2 ^ (e - g).toNat < signed b n * 2 ^ (f - g).toNat)

/-- An integer times a power of two, and an integer, as values. -/
def ofIntExp (v : Int) (e : Int) : Fp := fin (decide (v < 0)) v.natAbs e
def ofInt (v : Int) : Fp := ofIntExp v 0

end Fp

/-! ## Rounding -/

/-- num ÷ den rounded to the nearest integer, ties to even. -/
def divRne (num den : Nat) : Nat :=
  let q := num / den
  let r := 2 * (num % den)
  if r < den ∨ (r = den ∧ q % 2 = 0) then q else q + 1

/-- ⌊log2(num ÷ den)⌋ for positive numbers. -/
def floorLog2 (num den : Nat) : Int :=
  let l : Int := (Nat.log2 num : Int) - Nat.log2 den
  if den * 2 ^ l.toNat ≤ num * 2 ^ (-l).toNat then l else l - 1

/-- Round (num ÷ den) × 2^e to `p` significant bits, with no unit below 2^least: significand and exponent. -/
def roundTo (p : Nat) (least : Option Int) (num den : Nat) (e : Int) : Nat × Int :=
  if num = 0 then (0, e) else
  let q0 := floorLog2 num den + e - (p - 1 : Nat)
  let q := match least with | some l => max q0 l | none => q0
  let d := e - q
  (divRne (num * 2 ^ d.toNat) (den * 2 ^ (-d).toNat), q)

/-- The bits of a value in a format, rounded to nearest-even, with subnormals and infinities. -/
def Fmt.encode (f : Fmt) : Fp → Nat
  | .nan => f.nan
  | .inf n => (if n then 2 ^ (f.expBits + f.fracBits) else 0) + (2 ^ f.expBits - 1) * 2 ^ f.fracBits
  | .fin n m e =>
    let s := if n then 2 ^ (f.expBits + f.fracBits) else 0
    if m = 0 then s else
    let (k, q) := roundTo (f.fracBits + 1) (some f.least) m 1 e
    s + min ((q - f.least).toNat * 2 ^ f.fracBits + k) ((2 ^ f.expBits - 1) * 2 ^ f.fracBits)

/-- The value of bits in a format. -/
def Fmt.decode (f : Fmt) (w : Nat) : Fp :=
  let frac := w % 2 ^ f.fracBits
  let exp := w / 2 ^ f.fracBits % 2 ^ f.expBits
  let n : Bool := w / 2 ^ (f.expBits + f.fracBits) % 2 = 1
  if exp = 2 ^ f.expBits - 1 then (if frac = 0 then .inf n else .nan)
  else if exp = 0 then .fin n frac f.least
  else .fin n (2 ^ f.fracBits + frac) (f.least + (exp - 1 : Nat))

/-- An E4M3 value: no infinity; S.1111.111 is NaN (R189). -/
def decodeE4M3 (w : Nat) : Fp :=
  let frac := w % 8
  let exp := w / 8 % 16
  let n : Bool := w / 128 % 2 = 1
  if exp = 15 ∧ frac = 7 then .nan
  else if exp = 0 then .fin n frac (-9)
  else .fin n (8 + frac) ((exp : Int) - 10)

/-! ## Binary32 -/

/-- The value of an F32 word. -/
def f32 (w : Word) : Fp := Fmt.f32.decode w.toNat

/-- Round a value to F32. -/
def toF32 (x : Fp) : Word := BitVec.ofNat 32 (Fmt.f32.encode x)

/-- The canonical NaN and +0.0, ±∞ and 1.0 of F32. -/
def nan32 : Word := 0x7FC00000
def posInf32 : Word := 0x7F800000
def negInf32 : Word := 0xFF800000
def one32 : Word := 0x3F800000
def zero32 : Word := 0

def isNan32 (w : Word) : Bool := (f32 w).isNan

/-- add_rne and the rounded product and difference of two F32 words (R189). -/
def addRne (a b : Word) : Word := toF32 ((f32 a).add (f32 b))
def subRne (a b : Word) : Word := toF32 ((f32 a).sub (f32 b))
def mulRne (a b : Word) : Word := toF32 ((f32 a).mul (f32 b))
/-- A fused multiply-add with one rounding. -/
def fmaRne (a b c : Word) : Word := toF32 (((f32 a).mul (f32 b)).add (f32 c))

/-! ## The extended format of R284: a 40-bit significand, no least exponent -/

/-- Round an exact value to the extended format. -/
def toExt : Fp → Fp
  | .fin n m e => let (k, q) := roundTo 40 none m 1 e; .fin n k q
  | x => x

def extAdd (a b : Fp) : Fp := toExt (a.add b)
def extSub (a b : Fp) : Fp := toExt (a.sub b)
def extMul (a b : Fp) : Fp := toExt (a.mul b)

/-- Division by a count. -/
def extDiv (a : Fp) (n : Nat) : Fp :=
  match a with
  | .fin s m e => let (k, q) := roundTo 40 none m n e; .fin s k q
  | x => x

/-! ## The canon (R191) -/

/-- The binary tree over a list of leaves: the left part is the largest power of two below their number. -/
def treeSum {α : Type} (op : α → α → α) (zero : α) : Nat → List α → α
  | 0, l => l.headD zero
  | n + 1, l =>
    if l.length ≤ 1 then l.headD zero
    else
      let h := 2 ^ Nat.log2 (l.length - 1)
      op (treeSum op zero n (l.take h)) (treeSum op zero n (l.drop h))

/-- One leaf: its contributions added in index order from +0. -/
def leafSum {α : Type} (op : α → α → α) (zero : α) (l : List (Option α)) : α :=
  l.foldl (fun s x => match x with | some v => op s v | none => s) zero

/-- Runs of 64 consecutive indices. -/
def leaves {α : Type} : Nat → List α → List (List α)
  | 0, _ => []
  | n + 1, l => if l.isEmpty then [] else l.take 64 :: leaves n (l.drop 64)

/-- canon_sum (R191): `none` is a zero contribution. -/
def canonWith {α : Type} (op : α → α → α) (zero : α) (l : List (Option α)) : α :=
  let ls := (leaves l.length l).map (leafSum op zero)
  treeSum op zero ls.length ls

/-- canon_sum over F32 words. -/
def canonSum (l : List (Option Word)) : Word := canonWith addRne zero32 l

end Sys2Proof.Machine
end

