-- ==== Sys2Proof/Machine/Deck.lean ====
section
/-! DEFINITION. What a task of the deck cores starts with and what its floating-point reductions compute (R398).
Its other instructions are those of the RISC-V specifications (log entry 108). -/

namespace Sys2Proof.Machine

/-- Binary64, the widest element of the deck cores (R396). -/
def Fmt.f64 : Fmt := ⟨11, 52⟩

/-- num ÷ den of a magnitude rounded to an integer, in a rounding mode of RISC-V. -/
def Rounding.divide (m : Rounding) (neg : Bool) (num den : Nat) : Nat :=
  let q := num / den
  let r := num % den
  match m with
  | .nearestEven => divRne num den
  | .towardZero => q
  | .down => if neg && r ≠ 0 then q + 1 else q
  | .up => if !neg && r ≠ 0 then q + 1 else q
  | .nearestAway => if den ≤ 2 * r then q + 1 else q

/-- Does a magnitude that leaves a format become infinite in a rounding mode? The largest finite value otherwise. -/
def Rounding.overflows (m : Rounding) (neg : Bool) : Bool :=
  match m with
  | .nearestEven | .nearestAway => true
  | .towardZero => false
  | .down => neg
  | .up => !neg

/-- The bits of a value in a format, rounded in a mode. -/
def Fmt.encodeIn (f : Fmt) (mode : Rounding) : Fp → Nat
  | .nan => f.nan
  | .inf n => f.encode (.inf n)
  | .fin n m e =>
    let s := if n then 2 ^ (f.expBits + f.fracBits) else 0
    if m = 0 then s else
    let q := max (floorLog2 m 1 + e - f.fracBits) f.least
    let k := Rounding.divide mode n (m * 2 ^ (e - q).toNat) (2 ^ (q - e).toNat)
    let w := (q - f.least).toNat * 2 ^ f.fracBits + k
    let top := (2 ^ f.expBits - 1) * 2 ^ f.fracBits
    s + if w < top then w else if Rounding.overflows mode n then top else top - 1

/-- A sum in a format and a rounding mode; an exact zero of two values that are not both −0 is +0, −0 when rounding
down. -/
def Fmt.addIn (f : Fmt) (mode : Rounding) (a b : Nat) : Nat :=
  let x := f.decode a
  let y := f.decode b
  let v := x.add y
  if v.isZero && !(x.isZero && y.isZero && x.isNeg = y.isNeg) then f.encode (.zero (mode == .down))
  else f.encodeIn mode v

/-- vfredosum: the scalar, then the active elements one after another, element 0 first. -/
def vfredosum (f : Fmt) (mode : Rounding) (scalar : Nat) (elems : List (Option Nat)) : Nat :=
  elems.foldl (fun acc e => match e with | some x => f.addIn mode acc x | none => acc) scalar

/-- vfwredosum: the same over elements widened, exactly, from the format of half the width. -/
def vfwredosum (narrow wide : Fmt) (mode : Rounding) (scalar : Nat) (elems : List (Option Nat)) : Nat :=
  vfredosum wide mode scalar (elems.map fun e => e.map fun x => wide.encode (narrow.decode x))

/-- The unordered reductions are computed exactly as the ordered ones (R398). -/
def vfredusum (f : Fmt) (mode : Rounding) (scalar : Nat) (elems : List (Option Nat)) : Nat :=
  vfredosum f mode scalar elems
def vfwredusum (narrow wide : Fmt) (mode : Rounding) (scalar : Nat) (elems : List (Option Nat)) : Nat :=
  vfwredosum narrow wide mode scalar elems

/-- A core's reduction is in the rounding mode its task holds. -/
def DeckTask.vfredusum (t : DeckTask) (f : Fmt) (scalar : Nat) (elems : List (Option Nat)) : Nat :=
  Machine.vfredusum f t.rounding scalar elems
def DeckTask.vfwredusum (t : DeckTask) (narrow wide : Fmt) (scalar : Nat) (elems : List (Option Nat)) : Nat :=
  Machine.vfwredusum narrow wide t.rounding scalar elems

/-- A task as it starts: in user mode, rounding to nearest-even (R397, R398). -/
def DeckTask.start : DeckTask := { rounding := .nearestEven, user := true }

/-- The exception code of a trap (R398, R399): an access to a counter is an illegal instruction. -/
def trapCause : DeckTrap → Byte
  | .counter _ => 2
  | .other cause => BitVec.ofNat 8 cause.val

end Sys2Proof.Machine
end

