-- ==== Sys2Proof/Machine/Pipe.lean ====
section
/-! DEFINITION. What an image pipe computes of a frame (R354, R357, R369, R372–R374). The rules name the primitives, their
order, their tables and where the statistics tap; what they leave open of each primitive is a free function of
Config (log entry 110). -/

namespace Sys2Proof.Machine

/-! ## Samples (R354) -/

/-- The image data types of R354. -/
def imageTypes : List Byte := [0x2A, 0x2B, 0x2C, 0x2D, 0x2E, 0x2F, 0x1E, 0x24]

/-- Bits of a sample of an image data type. -/
def sampleBits (type : Byte) : Nat :=
  match type.toNat with
  | 0x2B => 10 | 0x2C => 12 | 0x2D => 14 | 0x2E => 16 | 0x2F => 20
  | _ => 8

/-- Bits of a pixel: a YUV422 pixel has two samples, an RGB888 pixel three. -/
def pixelBits (type : Byte) : Nat :=
  match type.toNat with
  | 0x1E => 16 | 0x24 => 24
  | _ => sampleBits type

/-- A sample of `bits` bits aligned to 16 bits: shifted left, and one of more keeps its upper 16 bits. -/
def align16 (bits v : Nat) : Nat := v * 2 ^ 16 / 2 ^ bits % 2 ^ 16

/-- The samples of a line in its data type, aligned. -/
def lineSamples (type : Byte) (line : List Byte) : List Nat :=
  (if sampleBits type = 8 then line.map BitVec.toNat else Config.unpacked type line).map (align16 (sampleBits type))

/-- The pixels of a line, each with its channels: one of a raw type, R, G and B of RGB888, Y, U and V of YUV422. -/
def linePixels (type : Byte) (line : List Byte) : List (List Nat) :=
  if type = 0x24 || type = 0x1E then Config.pixels type (lineSamples type line)
  else (lineSamples type line).map ([·])

/-! ## Tables (R374) -/

/-- The number at a place of a table. -/
def tableField (t : List Byte) (at_ n : Nat) : Nat := leNat ((t.drop at_).take n)

/-- The signed number at a place of a table. -/
def tableSigned (t : List Byte) (at_ n : Nat) : Int := (BitVec.ofNat (8 * n) (tableField t at_ n)).toInt

/-- Entries of a table, `n` bytes each. -/
def tableList (t : List Byte) (at_ n count : Nat) : List Nat := (List.range count).map fun k => tableField t (at_ + n * k) n

/-- Signed entries of a table, `n` bytes each. -/
def tableSigneds (t : List Byte) (at_ n count : Nat) : List Int :=
  (List.range count).map fun k => tableSigned t (at_ + n * k) n

/-- A class 1 table of a stream: as loaded, or else as compiled into the Manifest's composition. -/
def classOne (defs : List StreamDef) (f : PipeInput) (n : Nat) : List Byte :=
  ((f.tables ++ defs.flatMap (·.tables)).find? fun t => t.1 = n).elim [] (·.2)

/-- A sample through the tone LUT: its top 10 bits are the index, the next 6 interpolate linearly towards the next entry,
and the last entry holds flat. The rounding is free. -/
def toneLut (t : List Byte) (v : Nat) : Nat :=
  let entry (i : Nat) : Nat := tableField t (2 * min i 1023) 2
  (((64 - v % 64) * entry (v / 64) + v % 64 * entry (v / 64 + 1)) + Config.toneRounding.val) / 64

/-! ## Primitives (R369) -/

/-- Change each pixel of an image by its place. -/
def onPixels (g : Nat → Nat → List Nat → List Nat) (im : Image) : Image :=
  im.mapIdx fun y row => row.mapIdx fun x p => g x y p

/-- The CFA position of a pixel (R374): its place in the 2 × 2 mosaic. -/
def cfaPosition (x y : Nat) : Nat := y % 2 * 2 + x % 2

/-- A primitive other than the HDR merge on one image, with the table it works to (R374). `reference` is the reference
frame of temporal denoise, if there is one. -/
def primOn (defs : List StreamDef) (f : PipeInput) (d : StreamDef) (reference : Option Image) (p : Primitive)
    (im : Image) : Image :=
  let t := classOne defs f
  match p with
  | .black => onPixels (fun x y px => px.map (Config.blackened (tableField (t 0) (2 * cfaPosition x y) 2))) im
  | .defect => Config.mended ((List.range (tableField (t 3) 0 4)).map fun k =>
      (tableField (t 3) (4 + 4 * k) 2, tableField (t 3) (6 + 4 * k) 2)) im
  | .shading => onPixels (fun x y px => px.map (Config.shaded ((List.range 1089).map fun k =>
      tableField (t 2) (8 * k + 2 * cfaPosition x y) 2) d.width d.height x y)) im
  | .demosaic => Config.demosaiced im
  | .denoise => Config.denoised (tableField (t 6) 0 2) (tableField (t 6) 2 2) reference im
  | .wb => onPixels (fun _ _ px => Config.balanced (tableList (t 0) 0x08 2 4) (tableSigneds (t 0) 0x10 2 9)
      (tableSigneds (t 0) 0x22 2 3) px) im
  | .tone => onPixels (fun _ _ px => px.map (toneLut (t 1))) im
  | .csc => onPixels (fun _ _ px => Config.converted (tableSigneds (t 7) 0 2 9) (tableSigneds (t 7) 18 2 3)
      (tableField (t 7) 24 1 = 1) px) im
  | .mesh => Config.warped (tableSigneds (t 4) 0 4 2178) im
  | .scaler => Config.scaled d.outW d.outH im
  | .hdr | .temporal | .stats => im

/-- The primitives on the exposures of a frame, in order: the HDR merge makes one image of them. -/
def through (defs : List StreamDef) (f : PipeInput) (reference : Option Image) :
    List (StreamDef × Primitive) → List Image → List Image
  | [], ims => ims
  | (_, .hdr) :: ps, ims => through defs f reference ps
      [Config.merged (tableList (classOne defs f 5) 0 4 2) (tableList (classOne defs f 5) 8 2 2) ims]
  | (d, p) :: ps, ims => through defs f reference ps (ims.map (primOn defs f d reference p))

/-- The composition that a frame passes: of a branch the parent's up to the mesh warp, then its own scaler (R358). -/
def composition : List StreamDef → List (StreamDef × Primitive)
  | [] => []
  | [d] => d.prims.map (d, ·)
  | d :: ds => (d.prims.filter (· ≠ .scaler)).map (d, ·) ++
      (ds.flatMap fun b => (b.prims.filter (· = .scaler)).map (b, ·))

/-- The image data type and the height of a frame. -/
def inputType (defs : List StreamDef) : Byte := (defs.head?.map (·.dataType)).getD 0x2A

/-- The lines of an exposure. -/
def expoLines (f : PipeInput) (e : Nat) : List InLine := f.lines.filter (·.expo = e)

/-- The exposures of a frame as images. -/
def exposures (defs : List StreamDef) (f : PipeInput) : List Image :=
  (List.range ((defs.head?.map (·.exposures)).getD 1)).map fun e =>
    (expoLines f e).map fun l => linePixels (inputType defs) l.bytes

/-- A frame after the first primitives of its composition, those that `upTo` holds of. -/
def tapAfter (defs : List StreamDef) (f : PipeInput) (reference : Option Image) (upTo : Primitive → Bool) : Image :=
  ((through defs f reference ((composition defs).filter fun p => upTo p.2) (exposures defs f)).head?).getD []

/-- The primitives before denoise. -/
def beforeDenoise : Primitive → Bool
  | .black | .defect | .hdr | .shading | .demosaic => true
  | _ => false

/-- The temporal reference frame (R369, R372): the denoised frame before, back to where the history started afresh; none
where the composition has no temporal denoise. -/
def temporalReference (defs : List StreamDef) (past : List PipeInput) : Option Image :=
  if !((composition defs).any fun p => p.2 = .temporal) then none else
  past.foldl (fun r f => some (tapAfter defs f r fun p => beforeDenoise p || p = .denoise)) none

/-- The image that a pipe delivers (R372). -/
def pipeImage (defs : List StreamDef) (past : List PipeInput) (f : PipeInput) : Image :=
  tapAfter defs f (temporalReference defs past) fun _ => true

/-- A byte of an output line (R372, R376). -/
def pipeByte (defs : List StreamDef) (past : List PipeInput) (f : PipeInput) (line at_ : Nat) : Byte :=
  match defs.getLast? with
  | some d => Config.formatted d.format (pipeImage defs past f) line at_
  | none => 0

/-! ## Statistics (R373) -/

/-- The colours of the samples of a pixel: a raw one has that of its place in the mosaic, an RGB888 pixel R, G and B. -/
def pixelColours (type : Byte) (x y : Nat) (p : List Nat) : List (Colour × Nat) :=
  if type = 0x24 then [Colour.red, .green, .blue].zip p
  else if type = 0x1E then Config.yuvColours p
  else p.map (Config.cfaColour x y, ·)

/-- Is a line of a frame blanked? Of a merged line any exposure may be. -/
def blankLine (f : PipeInput) (y : Nat) : Bool :=
  (List.range 3).any fun e => ((expoLines f e)[y]?).any (·.blanked)

/-- The pixels of a tap but for those of blanked lines, each with its column and its line. -/
def tapPixels (f : PipeInput) (im : Image) : List (Nat × Nat × List Nat) :=
  im.zipIdx.flatMap fun (row, y) =>
    if blankLine f y then [] else row.zipIdx.map fun (p, x) => (x, y, p)

/-- A sample of the raw tap: its column, its line, its colour and its value. -/
structure TapSample where
  x : Nat
  y : Nat
  colour : Colour
  value : Nat

/-- The samples of the raw tap, which follows lens shading. -/
def rawTap (defs : List StreamDef) (f : PipeInput) : List TapSample :=
  let im := tapAfter defs f none fun p => beforeDenoise p && p ≠ .demosaic
  (tapPixels f im).flatMap fun (x, y, p) => (pixelColours (inputType defs) x y p).map fun c => ⟨x, y, c.1, c.2⟩

/-- Y after the tone LUT. -/
def lumaTap (defs : List StreamDef) (past : List PipeInput) (f : PipeInput) : List Nat :=
  let im := tapAfter defs f (temporalReference defs past) fun p =>
    beforeDenoise p || p = .denoise || p = .wb || p = .tone
  (tapPixels f im).map fun p => Config.luma p.2.2

/-- A histogram of 256 bins over the top 8 bits. -/
def histogram (vs : List Nat) : List Byte :=
  (List.range 256).flatMap fun b => leBytes 4 (vs.countP fun v => v / 256 = b)

/-- The zone of a place in a grid that divides the input frame evenly. -/
def zoneOf (d : StreamDef) (cols rows x y : Nat) : Nat := y * rows / d.height * cols + x * cols / d.width

/-- An AE/AWB zone: the sums of R, G and B, of each the top 16 bits, and the saturated samples. -/
def aeZone (xs : List TapSample) : List Byte :=
  let sum (c : Colour) : Nat := ((xs.filter fun t => t.colour = c).map (·.value)).sum
  [Colour.red, .green, .blue].flatMap (fun c => leBytes 4 (sum c / 2 ^ 16)) ++
    leBytes 4 (xs.countP fun t => t.value = 0xFFFF)

/-- The absolute responses of the horizontal high-pass to the green samples of a line, with their columns and the line. -/
def afResponses (xs : List TapSample) (height : Nat) : List (Nat × Nat × Nat) :=
  (List.range height).flatMap fun y =>
    let row := xs.filter fun t => t.y = y && t.colour = .green
    row.zipIdx.map fun (t, k) => (t.x, y, (Config.highPass (row.map (·.value)) k).natAbs)

/-- The statistics of a frame, from offset 0x40 of its tail to the end. -/
def pipeStats (defs : List StreamDef) (past : List PipeInput) (f : PipeInput) : List Byte :=
  match defs.head? with
  | none => List.replicate 0xFFC0 0
  | some d =>
    let raw := rawTap defs f
    let of (c : Colour) : List Nat := (raw.filter fun t => t.colour = c).map (·.value)
    let af := afResponses raw d.height
    histogram (of .red) ++ histogram (of .green) ++ histogram (of .blue) ++ histogram (lumaTap defs past f) ++
    ((List.range 768).flatMap fun z => aeZone (raw.filter fun t => zoneOf d 32 24 t.x t.y = z)) ++
    ((List.range 192).flatMap fun z =>
      leBytes 8 ((af.filter fun t => zoneOf d 16 12 t.1 t.2.1 = z).map (·.2.2)).sum) ++
    List.replicate (0xFFC0 - 0x4600) 0

/-! ## What a torn frame lacks (R357) -/

/-- Has a frame fewer lines than its height? -/
def shortOf (defs : List StreamDef) (f : PipeInput) : Bool :=
  match defs.head? with
  | some d => (List.range d.exposures).any fun e => (expoLines f e).length < d.height
  | none => false

/-- Does a torn frame lack output line `line`? None where every input line came, all where none came. -/
def lacks (defs : List StreamDef) (f : PipeInput) (line : Nat) : Bool :=
  shortOf defs f && (f.lines.isEmpty || Config.pipeLacks defs (f.lines.map (·.expo)) line)

end Sys2Proof.Machine
end

