-- ==== Sys2Proof/Machine/Flags.lean ====
section
/-! DEFINITION. The flag store and its compares (R137, R149). -/

namespace Sys2Proof.Machine

/-- Is a predicate or a wait true (R137)? Every compare is unsigned over 32 bits; value 0 is never
true, and 5–7 are malformed before they are evaluated. -/
def flagTrue (cmp : BitVec 3) (flag value : Word) : Bool :=
  match cmp.toNat with
  | 1 => flag = value
  | 2 => flag ≠ value
  | 3 => value.toNat ≤ flag.toNat
  | 4 => flag.toNat < value.toNat
  | _ => false

namespace State

/-- Write a flag (R149). -/
def putFlag (s : State) (f : FlagId) (v : Word) : State := { s with flags := s.flags.set f.val v }

/-- The value of a flag. -/
def flag (s : State) (f : FlagId) : Word := s.flags[f]

end State

end Sys2Proof.Machine
end

