-- ==== Sys2Proof/Machine/Operands.lean ====
section
/-! DEFINITION. Operand forms: the 64-byte command entry (R134–R137, R139) and the context's
virtual addresses (R154, R155). -/

namespace Sys2Proof.Machine

/-! ## The command entry -/

/-- `n` bytes of an entry at an offset, as a number. -/
def fieldAt (e : List Byte) (off n : Nat) : Nat := leNat ((e.drop off).take n)

/-- Are the bytes of an entry from `off` on, `n` of them, all zero? -/
def zeroAt (e : List Byte) (off n : Nat) : Bool := fieldAt e off n = 0

/-- A compare that a FLAG_WAIT may carry: 1–4 (R136, R137). -/
def waitCompareOk (cmp : Nat) : Bool := 1 ≤ cmp && cmp ≤ 4

/-- The opcode with its operands, and whether every operand byte is a stated value (R136, R139). -/
def decodeOp (e : List Byte) : Op × Bool :=
  let f := fieldAt e
  match f 0 1 with
  | 0x01 => (.nop, zeroAt e 0x20 32)
  | 0x02 => (.dispatch (BitVec.ofNat 64 (f 0x20 8)) (BitVec.ofNat 32 (f 0x28 4))
      (BitVec.ofNat 32 (f 0x2C 4)) (BitVec.ofNat 64 (f 0x30 8)) (BitVec.ofNat 64 (f 0x38 8)), true)
  | 0x03 => (.copy (BitVec.ofNat 64 (f 0x20 8)) (BitVec.ofNat 64 (f 0x28 8))
      (BitVec.ofNat 32 (f 0x30 4)), f 0x30 4 != 0 && zeroAt e 0x34 12)
  | 0x04 => (.peerCopy (BitVec.ofNat 64 (f 0x20 8)) (BitVec.ofNat 64 (f 0x28 8))
      (BitVec.ofNat 32 (f 0x30 4)) (BitVec.ofNat 32 (f 0x34 4)) (BitVec.ofNat 64 (f 0x38 8)),
      f 0x30 4 != 0 && State.inOutbound (f 0x28 8) (f 0x30 4) &&
      (f 0x38 8 = 0 || (f 0x38 8 % 4 = 0 && State.inOutbound (f 0x38 8) 4)))
  | 0x05 => (.flagSet (Fin.ofNat 1024 (f 0x20 2)) (BitVec.ofNat 32 (f 0x24 4)),
      f 0x20 2 < 1024 && zeroAt e 0x22 2 && zeroAt e 0x28 24)
  | 0x06 => (.flagAdd (Fin.ofNat 1024 (f 0x20 2)) (BitVec.ofNat 32 (f 0x24 4)),
      f 0x20 2 < 1024 && zeroAt e 0x22 2 && zeroAt e 0x28 24)
  | 0x07 => (.flagWait (Fin.ofNat 1024 (f 0x20 2)) (BitVec.ofNat 3 (f 0x20 2 / 1024))
      (BitVec.ofNat 32 (f 0x24 4)) (BitVec.ofNat 64 (f 0x28 8)),
      f 0x20 2 < 8192 && waitCompareOk (f 0x20 2 / 1024) && zeroAt e 0x22 2 && zeroAt e 0x30 16)
  | 0x08 => (.streamBind (f 0x20 1) (f 0x21 1 = 1) (Fin.ofNat 1024 (f 0x22 2)) (f 0x24 2)
      (BitVec.ofNat 64 (f 0x28 8)) (BitVec.ofNat 32 (f 0x30 4)),
      f 0x20 1 < 24 && f 0x21 1 ≤ 1 && zeroAt e 0x26 2 && zeroAt e 0x34 12 &&
      (f 0x21 1 = 0 || (f 0x22 2 < 1024 && 2 ≤ f 0x24 2 && f 0x24 2 ≤ 64 &&
        f 0x28 8 % 0x1_0000 = 0 && f 0x30 4 % 0x1_0000 = 0)))
  | 0x09 => (.tableLoad (f 0x20 1) (f 0x21 1) (f 0x22 2) (BitVec.ofNat 32 (f 0x24 4))
      (BitVec.ofNat 64 (f 0x28 8)),
      (f 0x20 1 = 1 || (f 0x20 1 = 2 && f 0x21 1 = 0)) && zeroAt e 0x30 16)
  | 0x0A => (.timestamp (BitVec.ofNat 64 (f 0x20 8)), f 0x20 8 % 8 = 0 && zeroAt e 0x28 24)
  | 0x0B => (.fence (f 0x20 1), f 0x20 1 ≤ 2 && zeroAt e 0x21 31)
  | _ => (.none, false)

/-- A 64-byte entry as it is sampled (R134, R139). -/
def decodeEntry (e : List Byte) : Entry :=
  let f := fieldAt e
  let (op, opOk) := decodeOp e
  let common := f 1 1 < 4 && f 2 1 < 8 && f 4 2 < 8192 && f 4 2 / 1024 ≤ 4 && zeroAt e 0x0C 4 &&
    (f 0 1 = 2 || (zeroAt e 6 2 && zeroAt e 0x18 8))
  { op
    malformed := !(opOk && common)
    opcode := BitVec.ofNat 8 (f 0 1)
    irq := f 1 1 % 2 = 1
    overlap := f 1 1 / 2 % 2 = 1
    prio := BitVec.ofNat 3 (f 2 1)
    ctx := Fin.ofNat 256 (f 3 1)
    predFlag := Fin.ofNat 1024 (f 4 2)
    predCmp := BitVec.ofNat 3 (f 4 2 / 1024)
    predValue := BitVec.ofNat 32 (f 8 4)
    budget := BitVec.ofNat 16 (f 6 2)
    launch := BitVec.ofNat 64 (f 0x10 8)
    fallback := BitVec.ofNat 64 (f 0x18 8) }

/-- The feature bit that governs an opcode (R409). -/
def Op.feature : Op → Nat
  | .peerCopy .. => 1
  | .streamBind .. => 2
  | .tableLoad .. => 3
  | _ => 0

/-- Does the context test apply (R139)? -/
def Op.namesContext : Op → Bool
  | .dispatch .. | .copy .. | .peerCopy .. | .streamBind .. | .tableLoad .. | .timestamp .. => true
  | .fence scope => scope = 1
  | _ => false

/-- Does the command use its context's translations, so that its context must be resident (R423)? -/
def Op.needsResident : Op → Bool
  | .fence _ => false
  | op => op.namesContext

/-! ## Device MMU -/

/-- What an access needs (R154). -/
inductive Access where
  | read | write | fetch
  deriving DecidableEq, Repr

/-- A translation fault: KIND and LEVEL as CTX_nFAULT_INFO codes them (R155, R158). -/
structure MmuFault where
  va : Nat
  kind : BitVec 3
  level : BitVec 2
  deriving DecidableEq, Repr

/-- A translated access: the device physical address and the page's NOSNOOP. -/
structure Phys where
  addr : Nat
  noSnoop : Bool
  deriving DecidableEq, Repr

/-- Bits [hi:lo] of a number. -/
def bitsOf (v hi lo : Nat) : Nat := v / 2 ^ lo % 2 ^ (hi + 1 - lo)

/-- One level of the walk: `levels` counts down from 4; `table` is the table's address (R154). -/
def walk (s : State) (va : Nat) (acc : Access) : Nat → Nat → Except MmuFault Phys
  | 0, _ => .error ⟨va, 1, 0⟩
  | n + 1, table =>
    let level : BitVec 2 := BitVec.ofNat 2 n
    let entry := leNat (s.mem.reads (table + 8 * bitsOf va (16 + 8 * n + 7) (16 + 8 * n)) 8)
    if entry % 2 = 0 then .error ⟨va, 1, level⟩
    else if n = 0 then
      if bitsOf entry 63 40 ≠ 0 ∨ bitsOf entry 15 5 ≠ 0 then .error ⟨va, 3, level⟩
      else
        let page := bitsOf entry 39 16 * 0x1_0000
        if !(s.inHostMemory page 0x1_0000 || State.inOutbound page 0x1_0000) then
          .error ⟨va, 4, level⟩
        else
          let ok : Bool := match acc with
            | .read => bitsOf entry 1 1 = 1
            | .write => bitsOf entry 2 2 = 1
            | .fetch => bitsOf entry 3 3 = 1
          if ok then .ok ⟨page + va % 0x1_0000, bitsOf entry 4 4 = 1⟩ else .error ⟨va, 2, level⟩
    else if bitsOf entry 63 40 ≠ 0 ∨ bitsOf entry 10 1 ≠ 0 then .error ⟨va, 3, level⟩
    else
      let next := bitsOf entry 39 11 * 2048
      if s.inHostMemory next 2048 then walk s va acc n next else .error ⟨va, 4, level⟩

/-- Translate one virtual address in a context (R154, R155), by a walk of its own (log entry 136). -/
def translate (s : State) (c : CtxId) (va : Nat) (acc : Access) : Except MmuFault Phys :=
  if 2 ^ 48 ≤ va then .error ⟨va, 5, 3⟩ else walk s va acc 4 (s.ctxs[c].root.toNat / 2048 * 2048)

/-- The first byte of each page that [va, va + n) touches: `va` itself, then each page start. -/
def pageStarts (va n : Nat) : List Nat :=
  if n = 0 then [] else
  va :: (List.range ((va + n - 1) / 0x1_0000 - va / 0x1_0000)).map
    fun i => (va / 0x1_0000 + i + 1) * 0x1_0000

/-- The first fault of an access to [va, va + n), in ascending order of pages. -/
def firstFault (s : State) (c : CtxId) (va n : Nat) (acc : Access) : Option MmuFault :=
  (pageStarts va n).findSome? fun p => match translate s c p acc with
    | .error e => some e
    | .ok _ => none

/-- A run of bytes of one page: its offset from the start of the access, and where it lies. -/
structure Segment where
  off : Nat
  addr : Nat
  len : Nat
  noSnoop : Bool
  deriving DecidableEq, Repr

/-- The runs of [va, va + n), page by page, where every page translates. -/
def segments (s : State) (c : CtxId) (va n : Nat) (acc : Access) : List Segment :=
  (pageStarts va n).filterMap fun p => match translate s c p acc with
    | .ok ph => some ⟨p - va, ph.addr, min (0x1_0000 - p % 0x1_0000) (va + n - p), ph.noSnoop⟩
    | .error _ => none

/-- A companion-memory page that firmware has not zeroed since C or H (R107): it is zeroed before its first use
through a context, also where no walk has met its entry. -/
def stale (s : State) (a : Nat) : Bool := a < outboundBase && !(s.mem.cleared.contains (a / 0x1_0000))

/-- Zero the page of an address, as firmware does before it maps the page for the first time (R107). -/
def zeroPage (s : State) (a : Nat) : State :=
  let p := a / 0x1_0000
  s.updMem fun m =>
    { (m.clear (p * 0x1_0000) ((p + 1) * 0x1_0000)).unpoisonCovered (p * 0x1_0000) 0x1_0000 with
      cleared := p :: m.cleared }

/-- Bytes of one page as a context reads them. -/
def pageReads (s : State) (a n : Nat) : List Byte :=
  if stale s a then List.replicate n 0 else s.mem.reads a n

/-- Write bytes at a virtual address whose pages translate. -/
def writeVa (s : State) (c : CtxId) (va : Nat) (bs : List Byte) : State :=
  (segments s c va bs.length .write).foldl
    (fun s g => (if stale s g.addr then zeroPage s g.addr else s).deviceWrite g.addr
      ((bs.drop g.off).take g.len) g.noSnoop) s

/-- Read bytes at a virtual address whose pages lie in companion memory. -/
def readVa (s : State) (c : CtxId) (va n : Nat) : List Byte :=
  (segments s c va n .read).flatMap fun g => pageReads s g.addr g.len

/-- Is any byte of a readable range poisoned (R317, R345)? -/
def poisonedVa (s : State) (c : CtxId) (va n : Nat) : Bool :=
  (segments s c va n .read).any fun g => !stale s g.addr && s.mem.poisoned g.addr g.len

/-- The companion-memory pages that a context's tables map and whose page entry passes a test, in table
order (R156). -/
def mappedPages (s : State) (test : Nat → Bool) : Nat → Nat → List Nat
  | 0, _ => []
  | n + 1, table =>
    (List.range 256).flatMap fun i =>
      let entry := leNat (s.mem.reads (table + 8 * i) 8)
      if entry % 2 = 0 then []
      else if n = 0 then
        let page := bitsOf entry 39 16 * 0x1_0000
        if bitsOf entry 63 40 = 0 && bitsOf entry 15 5 = 0 && s.inHostMemory page 0x1_0000 && test entry then
          [page / 0x1_0000] else []
      else
        let next := bitsOf entry 39 11 * 2048
        if bitsOf entry 63 40 = 0 && bitsOf entry 10 1 = 0 && s.inHostMemory next 2048 then
          mappedPages s test n next else []

end Sys2Proof.Machine
end

