-- ==== Sys2Proof/Machine/RecordOps.lean ====
section
/-! DEFINITION. The record ring (R459–R463). -/

namespace Sys2Proof.Machine.State

/-- Record mode captures: EN, the ring accepted, MODE record; capture pauses in D3hot and Slack
water (R106). -/
def capturing (s : State) : Bool :=
  s.recorder.en && s.recorder.active && !s.recorder.mode && s.env.power = .d0 && !s.lost

/-- Replay, until EN is cleared (R465). -/
def replaying (s : State) : Bool := s.recorder.en && s.recorder.active && s.recorder.mode

/-- Entries are applied: replay has neither stopped nor reached END (R468). -/
def applying (s : State) : Bool := s.replaying && !s.recorder.stopped && !s.recorder.ended

/-- Units of 64 bytes in the ring. -/
def recUnits (s : State) : Nat := 2 ^ (s.recorder.sizeLog2.toNat - 6)

/-- Write `bytes` (a multiple of 64) as one entry at DEV_INDEX. -/
def recWrite (s : State) (bytes : List Byte) : State :=
  let r := s.recorder
  let at_ := r.base.toNat + 64 * (r.devIndex.toNat % s.recUnits)
  { s with
    mem := s.mem.store at_ bytes
    recorder := { r with
      devIndex := r.devIndex + BitVec.ofNat 32 (bytes.length / 64), seq := r.seq + 1 } }

/-- An entry's bytes (R459). -/
def recBytes (s : State) (kind flags : Nat) (args payload : List Byte) : List Byte :=
  let r := s.recorder
  let phase := r.devIndex.toNat / s.recUnits % 2 = 0
  let len := (32 + payload.length + 63) / 64 * 64
  [BitVec.ofNat 8 kind, BitVec.ofNat 8 (flags + if phase then 128 else 0), 0, 0] ++
  leBytes 4 len ++ leBytes 8 r.seq.toNat ++ leBytes 8 s.now.toNat ++
  args ++ List.replicate (8 - args.length) 0 ++ payload ++
  List.replicate (len - 32 - payload.length) 0

/-- Units left before the end of the ring. -/
def recToEnd (s : State) : Nat := s.recUnits - s.recorder.devIndex.toNat % s.recUnits

/-- Place an entry, after a PAD entry where it would cross the end of the ring. -/
def recPlace (s : State) (kind flags : Nat) (args payload : List Byte) : State :=
  let n := (32 + payload.length + 63) / 64
  let s := if s.recToEnd < n then
      s.recWrite (s.recBytes 0x0F 0 [] (List.replicate (64 * s.recToEnd - 32) 0))
    else s
  s.recWrite (s.recBytes kind flags args payload)

/-- Units an entry of `n` units takes where `toEnd` are left before the end of the ring, a PAD before it included. -/
def recNeed (toEnd n : Nat) : Nat := if toEnd < n then toEnd + n else n

/-- Capture one entry (R459, R463): it is dropped whole when the ring has no room, and a LOST entry
comes before the next one written (log entry 145). -/
def record (s : State) (kind flags : Nat) (args payload : List Byte) : State :=
  if !s.capturing then s else
  let r := s.recorder
  let n := (32 + payload.length + 63) / 64
  let need := if r.lostRun > 0 then
      1 + recNeed (if s.recToEnd = 1 then s.recUnits else s.recToEnd - 1) n
    else recNeed s.recToEnd n
  let used := (r.devIndex - r.hostIndex).toNat
  if used + need > s.recUnits then
    { s with recorder := { r with
        lost := satInc r.lost, lostRun := r.lostRun + 1, gap := true } }
  else
    let s := if r.lostRun > 0 then
        let k := r.lostRun
        let s := s.recPlace 0x10 0 (leBytes 8 k) []
        { s with recorder := { s.recorder with lostRun := 0 } }.note 0x4040 .information k
      else s
    s.recPlace kind flags args payload

end Sys2Proof.Machine.State
end

