-- ==== Sys2Proof/Machine/QueueOps.lean ====
section
/-! DEFINITION. Commands in flight: headers, starting, completing, failing, stopping a queue, and
what every change settles (R142–R153, R123, R131). -/

namespace Sys2Proof.Machine

/-- The severity of a code that ends a command (R517). -/
def failSeverity (reason : BitVec 16) : Severity :=
  if reason.toNat = 0x5002 then .information else .contained

/-- Does a code stop its queue (R146)? A command's own 0x5005 does not: only a fetch timeout does. -/
def stopsQueue (reason : BitVec 16) : Bool :=
  reason.toNat ∈ [0x5001, 0x500C, 0x8001, 0x8002]

/-- Is the flight at this queue and index? -/
def Flight.is (f : Flight) (q : QueueId) (idx : Word) : Bool := f.q = q && f.idx = idx

/-- Ended, with only its record waiting. -/
def Flight.ended (f : Flight) : Bool := f.phase = .recordHeld

/-- Does the flight execute (R101, R131)? -/
def Flight.executes (f : Flight) : Bool := f.phase = .executing || f.phase = .restoring

/-- Does the flight keep HALTED from setting (R123, R124)? A FENCE only waits, and may wait for what the halt holds
(log entry 102). -/
def Flight.holdsHalt (f : Flight) : Bool :=
  match f.entry.op with
  | .fence _ => false
  | _ => f.executes

/-- q × 2³² + index, the argument of the trace points (R416). -/
def qi (q : QueueId) (idx : Word) : Nat := q.val * 2 ^ 32 + idx.toNat

/-- QWAIT in ticks: from eligibility to the start (R151), and the deck part's wait for its cores (R397). -/
def Flight.qwait (fl : Flight) : Nat := (fl.startAt.toNat - fl.eligibleAt.toNat) + fl.run.deckWait

namespace State

/-- The flight at a queue and index. -/
def flight? (s : State) (q : QueueId) (idx : Word) : Option Flight := s.flights.find? (·.is q idx)

/-- Change the flight at a queue and index. -/
def updFlight (s : State) (q : QueueId) (idx : Word) (f : Flight → Flight) : State :=
  { s with flights := s.flights.map fun (x : Flight) => if x.is q idx then f x else x }

/-- Take the flight at a queue and index out. -/
def dropFlight (s : State) (q : QueueId) (idx : Word) : State :=
  { s with flights := s.flights.filter fun (x : Flight) => !x.is q idx }

/-! ## Headers (R142) -/

/-- The address of a queue's header. -/
def header (s : State) (q : QueueId) : Nat := s.queues[q].hdrAddr.toNat / 64 * 64

/-- A 32-bit word of a queue's header. -/
def headerWord (s : State) (q : QueueId) (off : Nat) : Word :=
  BitVec.ofNat 32 (leNat (s.mem.reads (s.header q + off) 4))

/-- Write a 32-bit word of a queue's header. -/
def putHeaderWord (s : State) (q : QueueId) (off : Nat) (v : Word) : State :=
  s.updMem (·.store (s.header q + off) (leBytes 4 v.toNat))

/-- Move HEAD. -/
def setHead (s : State) (q : QueueId) (v : Word) : State :=
  (s.updQueue q ({ · with head := v })).putHeaderWord q 0x14 v

/-- The completion ring has no free record (R148). -/
def complFull (s : State) (q : QueueId) : Bool :=
  (s.queues[q].ctail - s.headerWord q 0x1C).toNat = 2 ^ s.queues[q].hdr.complLog2

/-- Free journal slots; unlimited without a journal (R148). -/
def journalFree (s : State) (q : QueueId) : Nat :=
  if s.queues[q].hdr.journal = 0 then 255
  else 2 ^ s.queues[q].hdr.journalLog2 - (s.queues[q].jtail - s.headerWord q 0x2C).toNat

/-! ## What is settled after a change -/

/-- A halt holds: HALT is 1, or D3hot acts as though it were (R103, R123). -/
def haltHolds (s : State) : Bool := s.hostif.halt || s.env.power = .d3hot

/-- HALTED sets when HALT is 1 and no command executes (R122, R123). -/
def haltUpdate (s : State) : State :=
  if s.hostif.halt && !s.hostif.halted && !(s.flights.any (·.holdsHalt)) then
    { s with hostif := { s.hostif with halted := true } }
  else s

/-- The state that the LTR table gives now, if it gives one (R131). -/
def ltrState (s : State) : Option LtrState :=
  if s.env.power ≠ .d0 then some .noRequirement
  else if s.flights.any (·.executes) || s.streams.toList.any (·.frame.isSome) ||
      s.queues.toList.any (fun q => q.active && outboundBase ≤ q.hdr.ring) then some .active
  else if (List.finRange 8).all fun q => !s.quayEnabled q || s.quays[q].clockGated ||
      s.quays[q].wholeFenced then some .idle
  else none

/-- An LTR message goes out on each change, with one value for snoop and no-snoop (R131). -/
def ltrUpdate (s : State) : State :=
  match s.ltrState with
  | some l => if s.ltr = some l then s else
    let s := { s with ltr := some l }
    if s.cfg.ltrEnable && !s.lost then s.send (.ltr l.latency l.latency) else s
  | none => s

/-! ## Records -/

/-- The 32 bytes of a completion record (R151, R152). -/
def recordBytes (fl : Flight) (r : Record) (phase : Bool) : List Byte :=
  leBytes 2 r.reason.toNat ++
  [r.status, BitVec.ofNat 8 (r.flags.toNat + if phase then 128 else 0),
   BitVec.ofNat 8 fl.q.val, BitVec.ofNat 8 fl.entry.ctx.val,
   BitVec.ofNat 8 (min fl.preempts 255), BitVec.ofNat 8 (min fl.jcount 255)] ++
  leBytes 8 fl.startAt.toNat ++ leBytes 8 fl.endAt.toNat ++
  leBytes 4 (min fl.qwait 0xFFFF_FFFF) ++
  leBytes 4 fl.idx.toNat

/-- The command counts in its context's accounting: the context is registered (R139, R436). -/
def accounts (s : State) (c : CtxId) : Bool := s.ctxs[c].valid

/-- Write a flight's record: the 32 bytes, then CTAIL, then the message (R152); the command is then
no longer in flight (R145). -/
def writeRecord (s : State) (fl : Flight) (r : Record) : State :=
  let q := s.queues[fl.q]
  let slot := q.ctail.toNat % 2 ^ q.hdr.complLog2
  let s := s.deviceWrite (q.hdr.compl + 32 * slot)
    (recordBytes fl r (phaseBit q.ctail.toNat q.hdr.complLog2)) false
  let s := s.updQueue fl.q ({ · with ctail := q.ctail + 1 })
  let s := s.putHeaderWord fl.q 0x18 (q.ctail + 1)
  let s := if fl.entry.irq then s.sendMsix q.hdr.vector else s
  let s := if s.accounts fl.entry.ctx then
      s.updCtx fl.entry.ctx fun c => { c with
        lastDone := fl.endAt
        waitTicks := c.waitTicks + BitVec.ofNat 64 (fl.qwait - fl.stepTicks) }
    else s
  (s.dropFlight fl.q fl.idx).trace 4 (qi fl.q fl.idx) (r.status.toNat * 65536 + r.reason.toNat)

/-- Write the journal entries of a command (R153), and their SCALE entries (R460). -/
def writeJournal (s : State) (fl : Flight) : State :=
  fl.run.steps.foldl (fun s st =>
    let q := s.queues[fl.q]
    let entry (phase : Bool) : List Byte := leBytes 4 fl.idx.toNat ++
      [BitVec.ofNat 8 fl.q.val, BitVec.ofNat 8 fl.entry.ctx.val] ++ leBytes 2 st.tensor.toNat ++
      [BitVec.ofInt 8 st.before, BitVec.ofInt 8 st.after,
       BitVec.ofNat 8 ((if st.raised then 1 else 0) + if phase then 128 else 0), 0] ++
      leBytes 4 st.step.toNat
    let ph := phaseBit q.jtail.toNat q.hdr.journalLog2
    let s := s.record 0x07 0 (leBytes 4 fl.idx.toNat ++
      [BitVec.ofNat 8 fl.q.val, BitVec.ofNat 8 fl.entry.ctx.val] ++ leBytes 2 st.tensor.toNat)
      (entry (q.hdr.journal ≠ 0 && ph))
    if q.hdr.journal = 0 then s else
    let slot := q.jtail.toNat % 2 ^ q.hdr.journalLog2
    let s := s.deviceWrite (q.hdr.journal + 16 * slot) (entry ph) false
    (s.updQueue fl.q ({ · with jtail := q.jtail + 1 })).putHeaderWord fl.q 0x28 (q.jtail + 1)) s

/-- The tiles and passes that a command has run on the Berths of its Quays. -/
def countsOf (s : State) (q : QueueId) (idx : Word) : List BerthCount :=
  ((List.finRange 8).filter fun y => s.quays[y].storeOwner.contains (q, idx)).flatMap fun y =>
    (List.finRange 4).map fun b =>
      let x := s.berth y b
      { quay := y, berth := b, tiles := x.tileNo, passes := x.passNo, sfuPasses := x.sfuPassNo }

/-- A command that gives its Quays up goes on counting where it left when it comes back to a Berth (R194, R214, R289,
R304). -/
def keepCounts (s : State) (q : QueueId) (idx : Word) : State :=
  let now := s.countsOf q idx
  s.updFlight q idx fun f => { f with run := { f.run with
    berthCounts := now ++ f.run.berthCounts.filter fun c => !(now.any fun n => n.quay = c.quay) } }

/-- Free what a command holds: its Quays with what their stores and Holds contain (R311), its Berths' tiles, its deck
cores (R422). A Berth stopped by a check stays so until the next command is admitted (R203). -/
def releaseUnits (s : State) (q : QueueId) (idx : Word) : State :=
  let mine (o : Option (QueueId × Word)) : Bool := o = some (q, idx)
  let s := s.keepCounts q idx
  { s with
    quays := s.quays.map fun y => { y with
      storeOwner := y.storeOwner.filter (· ≠ (q, idx))
      pilotRunning := y.pilotRunning && !(y.storeOwner.contains (q, idx))
      store := if y.storeOwner.contains (q, idx) then [] else y.store
      berths := y.berths.map fun b =>
        if mine b.holdOwner || y.storeOwner.contains (q, idx) then { b with
          holdOwner := none, tile := none, weights := [], shadow := [], hold := []
          tileNo := 0, passNo := 0, sfuPassNo := 0
          seq := if b.seq = .stopped then .stopped else .idle }
        else b }
    deckOwner := s.deckOwner.map fun o => if mine o then none else o }

/-- FLAGS of a record but for PHASE (R151). -/
def recordFlags (s : State) (fl : Flight) : BitVec 7 :=
  BitVec.ofNat 7 ((if fl.fallbackRan then 1 else 0) +
    (if fl.jcount > 0 && s.queues[fl.q].hdr.journal ≠ 0 then 2 else 0) +
    (if fl.late then 4 else 0) + (if fl.restarted then 8 else 0) +
    (if fl.suspendedByHalt then 16 else 0))

/-- The event of a command. -/
def commandEvent (s : State) (fl : Flight) (reason : BitVec 16) (sev : Severity) (detail : Nat) :
    Event :=
  { reason, severity := sev, tide := s.now, ctx := BitVec.ofNat 16 fl.entry.ctx.val
    queue := BitVec.ofNat 16 fl.q.val, index := fl.idx, detail := BitVec.ofNat 64 detail }

/-- The codes that a command's released tiles log once per command, 0xD001 with its count (R188, R189, R243,
R256, R261, R274). -/
def reportInfo (s : State) (fl : Flight) : State :=
  fl.run.info.foldl (fun s c => s.report (s.commandEvent fl c.1 .information c.2)) s

/-- The time a command spent Lightering or restoring counts in LIGHTER, and the time it spent suspended in
WAIT, from the context's last clear on (R436). -/
def chargePhase (s : State) (fl : Flight) : State :=
  let d := BitVec.ofNat 64 (s.now.toNat - max fl.phaseFrom.toNat s.ctxs[fl.entry.ctx].acctFrom.toNat)
  if !s.accounts fl.entry.ctx then s else
  match fl.phase with
  | .lightering | .restoring => s.updCtx fl.entry.ctx fun c => { c with lighterTicks := c.lighterTicks + d }
  | .suspended => s.updCtx fl.entry.ctx fun c => { c with waitTicks := c.waitTicks + d }
  | _ => s

/-- End a command: free its units, and write its record or hold it while the ring is full (R148). -/
def endFlight (s : State) (q : QueueId) (idx : Word) (status : Byte) (reason : BitVec 16) : State :=
  match s.flight? q idx with
  | none => s
  | some fl =>
    let s := s.chargePhase fl
    let fl := if fl.started || fl.phase = .waiting then fl else
      { fl with startAt := if fl.eligible then s.now else fl.startAt }
    let fl := { fl with endAt := s.now, phase := .recordHeld }
    let s := (s.reportInfo fl).releaseUnits q idx
    let r : Record := ⟨reason, status, s.recordFlags fl⟩
    let waits := s.complFull q || s.flights.any fun (x : Flight) => x.q = q && x.phase == .recordHeld
    if waits then
      let s := s.dropFlight q idx
      { s with flights := s.flights ++ [{ fl with record := some r }] }
    else s.writeRecord fl r

/-- A sequencer that holds no tile shows IDLE after an event that keeps nothing (R12, R203). -/
def berthUnkept (b : Berth) : Berth := if b.tile.isSome then b else { b with seq := .idle }

/-- The same of every Berth. -/
def idleSeqs (s : State) : State :=
  { s with quays := s.quays.map fun (y : Quay) => { y with berths := y.berths.map berthUnkept } }

/-- Does a Berth hold live state? -/
def berthLive (b : Berth) : Bool := b.tile.isSome || b.holdOwner.isSome

/-- Every Berth that holds no live state is power-gated, and every Quay store that no command owns; Holds and
Quay stores lose their contents (R104). -/
def gateQuays (s : State) : State :=
  { s with quays := s.quays.map fun y => { y with
      clockGated := y.clockGated || (y.storeOwner.isEmpty && !(y.berths.toList.any berthLive))
      gatedFrom := if y.clockGated then y.gatedFrom else s.now
      store := if y.storeOwner.isEmpty then [] else y.store
      berths := y.berths.map fun b => if berthLive b then b else
        { b with gated := true, waking := false, weights := [], shadow := [], hold := [] } } }

/-- In D3hot the Quays that a command leaves are power-gated at once (R104). -/
def regate (s : State) : State := if s.env.power = .d3hot then s.gateQuays else s

/-- Complete every FENCE whose commands have completed (R138); completing one may complete another. -/
def settleFences : Nat → State → State
  | 0, s => s
  | n + 1, s =>
    let open_ (d : QueueId × Word) : Bool := match s.flight? d.1 d.2 with
      | some f => !f.ended
      | none => false
    match s.flights.find? fun f => (match f.entry.op with | .fence _ => true | _ => false) &&
        f.phase = .executing && !(f.deps.any open_) with
    | none => s
    | some f => settleFences n (s.endFlight f.q f.idx 1 0)

/-- Has the command started (R143)? A FLAG_WAIT that waits has not. -/
def unstarted (f : Flight) : Bool := !f.started && f.phase ≠ .recordHeld

/-- The command a queue is held at: its first that has not started (R143, R423, R437). -/
def headOf (s : State) (q : QueueId) : Option Flight :=
  s.flights.find? fun (f : Flight) => f.q = q && unstarted f

/-- A context is blocked when each of its queues is held at a waiting FLAG_WAIT or at a command whose
LAUNCH lies in the future (R423). -/
def ctxBlocked (s : State) (c : CtxId) : Bool :=
  let mine := s.flights.filter fun (f : Flight) => f.entry.ctx = c && !f.ended
  !mine.isEmpty && mine.all fun f => match s.headOf f.q with
    | some h => h.phase = .waiting || (h.phase = .sampled && !h.eligible && s.now.toNat < h.entry.launch.toNat)
    | none => false

/-- Note where each blocked stretch began (R423). -/
def noteBlocked (s : State) : State :=
  { s with ctxs := Vector.ofFn fun (c : CtxId) =>
      let x := s.ctxs[c]
      if s.ctxBlocked c then { x with blockedSince := some (x.blockedSince.getD s.now) }
      else { x with blockedSince := none } }

/-- What every ending settles. -/
def settle (s : State) : State := (s.settleFences s.flights.length).regate.haltUpdate.noteBlocked.ltrUpdate

/-- Start a command: it executes from now on. -/
def startFlight (s : State) (q : QueueId) (idx : Word) : State :=
  let mask := match s.flight? q idx with
    | some f => f.run.quays.foldl (fun m y => m + 2 ^ y.val) 0
    | none => 0
  (s.updFlight q idx fun f => { f with
    started := true, startAt := s.now, phase := .executing, waited := s.now.toNat - f.eligibleAt.toNat }).trace
    3 (qi q idx) mask

/-- Complete a command that succeeds. -/
def finish (s : State) (q : QueueId) (idx : Word) (reason : BitVec 16) : State :=
  (s.endFlight q idx 1 reason).settle

/-! ## Stopping a queue -/

/-- Discard a queue's unstarted commands without records; HEAD goes back to the first (R146). -/
def discardUnstarted (s : State) (q : QueueId) : State :=
  match s.flights.find? fun f => f.q = q && unstarted f with
  | none => s
  | some first =>
    let s := { s with flights := s.flights.filter fun f => !(f.q = q && unstarted f) }
    s.setHead q first.idx

/-- Stop a queue (R146). -/
def stopQueue (s : State) (q : QueueId) (reason : BitVec 16) : State :=
  let s := s.discardUnstarted q
  s.updQueue q ({ · with stopped := true, reason, fetching := 0 })

/-- The contents of [va, va + n) of a context become undefined, as far as they lie in companion memory. -/
def forgetVa (s : State) (c : CtxId) (va n : Nat) : State :=
  (segments s c va n .write).foldl (fun s g =>
    if s.inHostMemory g.addr g.len then s.forget g.addr (g.addr + g.len) else s) s

/-- The device writes state of its own, in a layout that is private, to [va, va + n) of a context (R424, R429): what
lies in companion memory is undefined and no longer poisoned (R317), and what lies in the outbound space is
written there. -/
def saveVa (s : State) (c : CtxId) (va n : Nat) : State :=
  (segments s c va n .write).foldl (fun s g =>
    if s.inHostMemory g.addr g.len then
      (s.forget g.addr (g.addr + g.len)).updMem (·.unpoisonCovered g.addr g.len)
    else
      { s with seeds := s.seeds + 1 }.outboundWrite g.addr
        ((List.range g.len).map fun i => Config.freeByte s.seeds (g.addr + i)) g.noSnoop) s

/-- Every byte that a command could have written through its context's mapping is undefined (R433, R495):
a DISPATCH could have written every writable page, another command its own destination. -/
def forgetOutputs (s : State) (f : Flight) : State :=
  let c := f.entry.ctx
  if !f.started then s else
  match f.entry.op with
  | .dispatch .. =>
    (mappedPages s (fun e => e / 4 % 2 = 1) 4 (s.ctxs[c].root.toNat / 2048 * 2048)).foldl
      (fun s p => s.forget (p * 0x1_0000) ((p + 1) * 0x1_0000)) s
  | .copy _ dst len => s.forgetVa c dst.toNat len.toNat
  | .timestamp dst => s.forgetVa c dst.toNat 8
  | _ => s

/-- End a command FAILED without recording its code here: its adaptive steps are discarded (R266),
its record is written and its queue stops where the code says so (R146, R495). -/
def failQuiet (s : State) (q : QueueId) (idx : Word) (reason : BitVec 16) : State :=
  let s := s.updFlight q idx fun f => { f with
    jcount := 0, run := { f.run with steps := [], adaptive := none, counts := [] } }
  let s := match s.flight? q idx with
    | some f => s.forgetOutputs f
    | none => s
  let s := s.endFlight q idx 3 reason
  let s := if stopsQueue reason then s.stopQueue q reason else s
  s.settle

/-- Record a code for a command and end it FAILED. -/
def failWith (s : State) (q : QueueId) (idx : Word) (reason : BitVec 16) (sev : Severity)
    (detail : Nat) : State :=
  match s.flight? q idx with
  | none => s
  | some fl => (s.report (s.commandEvent fl reason sev detail)).failQuiet q idx reason

/-- End a command FAILED with a code at its own severity (R139, R517). -/
def fail (s : State) (q : QueueId) (idx : Word) (reason : BitVec 16) : State :=
  s.failWith q idx reason (failSeverity reason) 0

/-- Capture the first MMU fault of a context (R155, R158). -/
def captureMmu (s : State) (c : CtxId) (q : QueueId) (e : MmuFault) : State :=
  s.updCtx c fun x => if x.captured then x else { x with
    captured := true, faultQueue := BitVec.ofNat 8 q.val, level := e.level, kind := e.kind
    faultVa := BitVec.ofNat 64 e.va }

/-- A translation faults: the command fails with 0x5003 and its queue continues (R155). -/
def mmuFail (s : State) (q : QueueId) (idx : Word) (e : MmuFault) : State :=
  match s.flight? q idx with
  | none => s
  | some fl => (s.captureMmu fl.entry.ctx q e).fail q idx 0x5003

/-! ## Flags that waits read (R149, R150) -/

/-- An earlier command of the queue resumes first (R125). -/
def resumesFirst (s : State) (fl : Flight) : Bool :=
  s.flights.any fun g => g.q = fl.q && g.resuming && (g.idx - s.queues[fl.q].head).toNat ≠
    (fl.idx - s.queues[fl.q].head).toNat && (fl.idx - g.idx).toNat < 2 ^ 31

/-- Complete every waiting FLAG_WAIT on `f` whose compare is true; it starts at that moment, and its
TIDE_START is when its waiting began (R143, R151). A wait is not released while HALT is 1 (R123), nor before an
earlier command of its queue that resumes (R125), nor while firmware does not run (R481, R504). -/
def wakeWaits (f : FlagId) : Nat → State → State
  | 0, s => s
  | n + 1, s =>
    if s.haltHolds || s.frozen || s.lighthouse.state ≠ .normal then s else
    match s.flights.find? fun x => x.phase = .waiting && !s.resumesFirst x &&
        (match x.entry.op with
          | .flagWait g cmp v _ => g = f && flagTrue cmp (s.flag f) v
          | _ => false) with
    | none => s
    | some x =>
      let s := (s.updFlight x.q x.idx fun y => { y with started := true }).trace 3 (qi x.q x.idx) 0
      wakeWaits f n (s.finish x.q x.idx 0)

/-- Change a flag and re-evaluate every wait on it (R149, R150). -/
def setFlag (s : State) (f : FlagId) (v : Word) : State :=
  let s := s.putFlag f v
  wakeWaits f s.flights.length s

/-- Evaluate every wait again: what firmware that runs again does, and what a command that resumes lets go
(R123, R125, R486, R506). -/
def wakeAll (s : State) : State :=
  s.flights.foldl (fun s (f : Flight) => match f.entry.op with
    | .flagWait g _ _ _ => if f.phase = Phase.waiting then wakeWaits g s.flights.length s else s
    | _ => s) s

/-- Add to a flag modulo 2³². -/
def addFlag (s : State) (f : FlagId) (v : Word) : State := s.setFlag f (s.flag f + v)

/-! ## May a command start? -/

/-- Contexts shed at steps 3 and 5 unless kept (R481). -/
def ctxShed (s : State) (c : CtxId) : Bool :=
  !(s.keep.ctx.getLsbD c.val) &&
  ((3 ≤ s.power.step && s.ctxs[c].prioMax.toNat ≤ 3) || 5 ≤ s.power.step)

/-- A launch count that fell due in a halt waits for the first sweep after the release (R123). -/
def launchHeld (s : State) (fl : Flight) : Bool :=
  s.sched.haltSpans.any fun h => h.1.toNat ≤ fl.entry.launch.toNat && fl.entry.launch.toNat ≤ h.2.toNat

/-- The conditions every start shares: READY, no halt (R123), the queue running (R146) with nothing of it to
resume first (R125), a free record (R148), the context's walk done for each of its commands (R156) and its slot
held (R423), no shedding (R481). -/
def mayStart (s : State) (fl : Flight) : Bool :=
  s.ready.ready && !s.haltHolds && s.queues[fl.q].active && !s.queues[fl.q].stopped &&
  !s.complFull fl.q && !s.frozen && s.env.power = .d0 && fl.eligible && !fl.started &&
  !s.launchHeld fl && !s.resumesFirst fl && !s.ctxs[fl.entry.ctx].busy &&
  (!fl.entry.op.needsResident || s.ctxs[fl.entry.ctx].resident) &&
  (!fl.entry.op.needsResident || !s.ctxShed fl.entry.ctx)

/-- The flight a command row names, when it is eligible, has not started and may start. -/
def startable? (s : State) (q : QueueId) (idx : Word) : Option Flight :=
  match s.flight? q idx with
  | some fl => if (fl.phase = .sampled || fl.phase = .slotWait) && s.mayStart fl then some fl else none
  | none => none

/-- The class of a command: its PRIO capped at PRIO_MAX (R426); a fallback's is PRIO_MAX (R434). -/
def classOf (s : State) (fl : Flight) : Nat :=
  if fl.run.boosted then s.ctxs[fl.entry.ctx].prioMax.toNat
  else min fl.entry.prio.toNat s.ctxs[fl.entry.ctx].prioMax.toNat

/-- Ticks that a command has waited: to its start, and after it while it is suspended or waits to be admitted again
(R426). -/
def waitedTicks (s : State) (fl : Flight) : Nat :=
  if !fl.started then s.now.toNat - fl.eligibleAt.toNat
  else if fl.phase = .suspended || fl.phase = .admitWait then fl.waited + (s.now.toNat - fl.phaseFrom.toNat)
  else fl.waited

/-- The class for admission: one class higher for each 50 ms waited, up to 6 (R426). A boosted command has
its own class. -/
def agedClass (s : State) (fl : Flight) : Nat :=
  let c := s.classOf fl
  if fl.run.boosted then c else max c (min 6 (c + s.waitedTicks fl / (50 * msTicks)))

/-- Does `a` come before `b` in the order of R426? -/
def admittedBefore (s : State) (a b : Flight) : Bool :=
  if a.run.boosted ≠ b.run.boosted then a.run.boosted
  else if s.agedClass a ≠ s.agedClass b then s.agedClass b < s.agedClass a
  else a.eligibleAt.toNat < b.eligibleAt.toNat

end State

end Sys2Proof.Machine
end

