-- ==== Sys2Proof/Machine/ReadOps.lean ====
section
/-! DEFINITION. Outbound reads: the requests of a command's source in host memory, within Max_Read_Request_Size
and the 768 tags (R111, R127, R130). -/

namespace Sys2Proof.Machine

/-- A run of a source that an outbound window serves: its host bus address and length. -/
structure ReadRun where
  bus : BitVec 64
  len : Nat
  noSnoop : Bool
  deriving DecidableEq, Repr

/-- Split [a, a + n) of the outbound space into the runs that a window other than a peer window serves; the other
bytes are not asked for (R127). -/
def readRuns (s : State) (noSnoop : Bool) : Nat → Nat → List ReadRun
  | _, 0 => []
  | a, n + 1 =>
    let rest := readRuns s noSnoop (a + 1) n
    match s.windowOf a with
    | none => rest
    | some w =>
      if w.peer then rest else
      let here : ReadRun := ⟨w.bus a, 1, noSnoop || w.noSnoop⟩
      match rest with
      | r :: rs =>
        if r.bus = w.bus a + 1 ∧ r.noSnoop = here.noSnoop then { here with len := r.len + 1 } :: rs
        else here :: r :: rs
      | [] => [here]

/-- The byte of a run list at an offset, with the bytes of its run from there on. -/
def runAt : List ReadRun → Nat → Option ReadRun
  | [], _ => none
  | r :: rs, off =>
    if off < r.len then some { r with bus := r.bus + BitVec.ofNat 64 off, len := r.len - off }
    else runAt rs (off - r.len)

/-- The next request of a run: no longer than the setting, and across no multiple of it. -/
def requestLength (max : Nat) (r : ReadRun) : Nat := min r.len (max - r.bus.toNat % max)

/-- The source that an opcode reads. -/
def sourceOf : Op → List Source
  | .copy src _ len | .peerCopy src _ len _ _ | .tableLoad _ _ _ len src => [⟨src.toNat, len.toNat, false⟩]
  | _ => []

/-- The access that reads a source. -/
def Source.access (x : Source) : Access := if x.fetch then .fetch else .read

/-- May a command in this phase ask for more of its sources? A suspended one does not. -/
def Phase.reads : Phase → Bool
  | .sampled | .slotWait | .executing | .restoring => true
  | _ => false

/-- Outbound read requests that may be outstanding (R111). -/
def readTags : Nat := 768

namespace State

/-- The pieces of sources, page by page. -/
def sourceSegments (s : State) (c : CtxId) (l : List Source) : List Segment :=
  l.flatMap fun x => segments s c x.va x.len x.access

/-- The runs of sources in host memory. -/
def runsOf (s : State) (c : CtxId) (l : List Source) : List ReadRun :=
  ((s.sourceSegments c l).filter fun g => outboundBase ≤ g.addr).flatMap fun g => readRuns s g.noSnoop g.addr g.len

/-- Bytes that come from outside for sources. -/
def dueOf (s : State) (c : CtxId) (l : List Source) : Nat := ((s.runsOf c l).map (·.len)).sum

/-- A part of a range lies in no window, or for a read in a peer window: it is not issued, and the command fails
(R127). -/
def outside (s : State) (c : CtxId) (va n : Nat) (acc : Access) : Bool :=
  (segments s c va n acc).any fun g =>
    outboundBase ≤ g.addr && !s.windowsHold g.addr g.len (acc != .write)

/-- The runs that a command asks for. -/
def sourceRuns (s : State) (f : Flight) : List ReadRun := s.runsOf f.entry.ctx f.sources

/-- Bytes that come from outside for a command. -/
def sourceDue (s : State) (f : Flight) : Nat := s.dueOf f.entry.ctx f.sources

/-- Requests outstanding device-wide. -/
def tagsOut (s : State) : Nat :=
  (s.queues.toList.map fun (x : Queue) => x.fetching).sum + (s.flights.map fun (f : Flight) => f.reads.length).sum

/-- Max_Read_Request_Size in bytes. -/
def maxRead (s : State) : Nat := 128 * 2 ^ s.cfg.maxRead.toNat

/-- Issue the next requests of a command's source, lowest address first, while tags are free. -/
def issueReads (q : QueueId) (idx : Word) : Nat → State → State
  | 0, s => s
  | n + 1, s =>
    match s.flight? q idx with
    | none => s
    | some f =>
      if readTags ≤ s.tagsOut || !f.phase.reads || !f.awaiting then s else
      match runAt (s.sourceRuns f) f.requested with
      | none => s
      | some r =>
        let k := requestLength s.maxRead r
        issueReads q idx n ((s.updFlight q idx fun f => { f with
          requested := f.requested + k, reads := f.reads ++ [f.requested + k] }).send
            (.outboundRead r.bus k r.noSnoop))

/-- Requests that tags have become free for. -/
def issueAll (s : State) : State :=
  s.flights.foldl (fun s f => issueReads f.q f.idx readTags s) s

/-- A command asks for what sources have in host memory; it waits until those bytes have come (R111, R127). -/
def askFor (s : State) (q : QueueId) (idx : Word) (l : List Source) : State :=
  match s.flight? q idx with
  | none => s
  | some f => issueReads q idx readTags (s.updFlight q idx fun x => { x with
      sources := l, awaiting := s.dueOf f.entry.ctx l ≠ 0, buffer := [], requested := 0, reads := [] })

/-- A command asks for the source that its opcode names. -/
def askSource (s : State) (q : QueueId) (idx : Word) : State :=
  match s.flight? q idx with
  | none => s
  | some f => s.askFor q idx (sourceOf f.entry.op)

/-- The state in which a command still waits for bytes of sources in host memory; none once they have come, or
where there are none. -/
def fetching? (s : State) (f : Flight) (l : List Source) : Option State :=
  if s.dueOf f.entry.ctx l = 0 then none
  else if f.awaiting then some s
  else if f.sources = l then none
  else some (s.askFor f.q f.idx l)

/-- The bytes of an outbound run as a command sees them: those that came, and zero where none was asked for (R127). -/
def cameBytes (s : State) : Nat → Nat → List Byte → List Byte × List Byte
  | _, 0, buf => ([], buf)
  | a, n + 1, buf =>
    let served := match s.windowOf a with | some w => !w.peer | none => false
    let rest := cameBytes s (a + 1) n (if served then buf.drop 1 else buf)
    ((if served then buf.headD 0 else 0) :: rest.1, rest.2)

/-- The bytes of pieces, what came from outside taken from the buffer in order. -/
def sourceBytes (s : State) : List Segment → List Byte → List Byte
  | [], _ => []
  | g :: gs, buf =>
    if outboundBase ≤ g.addr then
      let (bytes, rest) := s.cameBytes g.addr g.len buf
      bytes ++ sourceBytes s gs rest
    else pageReads s g.addr g.len ++ sourceBytes s gs buf

/-- The bytes of the last of a command's sources, once they have come. -/
def lastSource (s : State) (f : Flight) (before : List Source) (x : Source) : List Byte :=
  s.sourceBytes (segments s f.entry.ctx x.va x.len x.access) (f.buffer.drop (s.dueOf f.entry.ctx before))

end State

end Sys2Proof.Machine
end

