-- ==== Sys2Proof/Machine/SchedOps.lean ====
section
/-! DEFINITION. Pre-emption, Lightering, residency and abandons (R421–R436), as shared operations. -/

namespace Sys2Proof.Machine

/-- The Quay of a location, 0xFF where it has none. -/
def locQuay : RepairLoc → Byte
  | .column q .. | .cell q .. | .holdRow q .. | .storeRow q .. | .sfuLane q .. | .swellLane q ..
  | .transform q | .arbiter q | .berth q _ => BitVec.ofNat 8 q.val
  | _ => 0xFF
/-- The Berth of a location, 0xFF where it has none. -/
def locBerth : RepairLoc → Byte
  | .column _ b .. | .cell _ b _ | .holdRow _ b .. | .sfuLane _ b _ | .swellLane _ b _
  | .berth _ b => BitVec.ofNat 8 b.val
  | _ => 0xFF
/-- Images are written at 65.5 GB/s typical; what they hold is the cargo's own (R429). -/
def liveBytes (f : Flight) : Nat :=
  match f.run.cargo with
  | some c => match c.entries[f.run.entryNo]? with
    | some e => match e.tiles[f.run.tilesDone]? with
      | some t => t.live * f.run.quays.length
      | none => 0
    | none => 0
  | none => 0

/-- The largest image an entry can leave per Quay: its greatest live figure (R425). -/
def statedLive (e : CargoEntry) : Nat := e.tiles.foldl (fun m t => max m t.live) 0

/-- The stated image of a running command (R428): live bytes per Quay times its Quays, and 64 KiB for
each deck core. -/
def statedImage (c : Cargo) (entry : Nat) : Nat :=
  match c.entries[entry]? with
  | some e => statedLive e * c.quays + 0x1_0000 * e.deckCores
  | none => 0

namespace State

/-- Quays on which a Berth runs a tile of a command. -/
def tileRunning (s : State) (q : QueueId) (idx : Word) : Bool :=
  s.quays.toList.any fun y => y.berths.toList.any fun b => match b.tile with
    | some t => t.cmd = (q, idx)
    | none => false

/-- The Berths of a Quay in use under its shape (R161, R502): those not fenced. -/
def liveBerths (s : State) (q : QuayId) : List Nat :=
  ((List.finRange 4).filter fun b => !(s.berth q b).fenced).map Fin.val

/-- The stepping family this part runs (R6, R120). -/
def familyB : Nat := 0xB

/-- The shape stamp a command's image carries (R430). -/
def stampOf (s : State) (f : Flight) : Stamp where
  quays := f.run.quays.map fun q => (s.quays[q].shape.toNat, s.liveBerths q)
  family := familyB
  sfuG1 := s.ready.sfuG1

/-- Ticks that a deck part spends waiting for cores and running, up to now (R397, R399). -/
def deckSettled (s : State) (r : Run) : Run :=
  let d := s.now.toNat - r.deckFrom.toNat
  if !r.deckCores.isEmpty then { r with deckRan := r.deckRan + d, deckFrom := s.now }
  else if r.deckWaiting then { r with deckWait := r.deckWait + d, deckFrom := s.now }
  else r

/-- The pre-emption of a command is requested: one trace entry for each Quay it holds, and one that names none where
it holds none (R416). -/
def tracePreempt (s : State) (f : Flight) : State :=
  if f.run.quays.isEmpty then s.trace 32 (qi f.q f.idx) 0xFF
  else f.run.quays.foldl (fun s y => s.trace 32 (qi f.q f.idx) y.val) s

/-- Suspend a DISPATCH at a boundary: Lightering begins, and the pre-emption counts (R428, R429, R436).
Its deck part is suspended with it (R401), and stays so when it is pre-empted again before it goes on. -/
def suspendDispatch (s : State) (q : QueueId) (idx : Word) (byHalt byShed : Bool) : State :=
  match s.flight? q idx with
  | none => s
  | some f =>
    let s := (s.chargePhase f).updFlight q idx fun f => { f with
      awaiting := f.awaiting && !f.reads.isEmpty
      phase := .lightering, phaseFrom := s.now, preempts := f.preempts + 1, resuming := false
      suspendedByHalt := f.suspendedByHalt || byHalt
      haltSuspended := byHalt, shedSuspended := byShed
      run := { s.deckSettled f.run with
        preempt := false, stamp := some (s.stampOf f)
        deckSuspended := f.run.deckSuspended || !f.run.deckCores.isEmpty, deckCores := [] } }
    let s := if s.accounts f.entry.ctx then
        s.updCtx f.entry.ctx fun c => { c with preempts := satInc c.preempts }
      else s
    let s := { s with deckOwner := s.deckOwner.map fun o => if o = some (q, idx) then none else o }
    s.trace 33 (qi q idx) (liveBytes f)

/-- Something asks a running DISPATCH to stop at its next tile boundary: a halt, shedding, or the scheduler and
repairs (R124, R427, R481, R500). -/
def stopAsked (f : Flight) : Bool := f.run.preempt || f.haltSuspended || f.shedSuspended

/-- Pre-empt one executing command, in the way that suits its kind (R124, R427): a DISPATCH with a
tile in progress stops at that tile's boundary; a copy pauses after its current 64 KiB. One that is suspended
already stays as it is, but that shedding goes on holding it. -/
def preemptFlight (s : State) (f : Flight) (byHalt byShed : Bool) : State :=
  match f.entry.op with
  | .dispatch .. =>
    let s := if (f.phase = .executing && !stopAsked f) || f.phase = .restoring then s.tracePreempt f else s
    if f.phase = .executing then
      if s.tileRunning f.q f.idx then
        s.updFlight f.q f.idx fun x => { x with
          haltSuspended := x.haltSuspended || byHalt, shedSuspended := x.shedSuspended || byShed
          run := { x.run with preempt := x.run.preempt || !(byHalt || byShed) } }
      else s.suspendDispatch f.q f.idx byHalt byShed
    else if f.phase = .restoring then
      s.suspendDispatch f.q f.idx byHalt byShed
    else if f.phase = .lightering || f.phase = .suspended then
      s.updFlight f.q f.idx fun x => { x with shedSuspended := x.shedSuspended || byShed }
    else s
  | .copy .. | .peerCopy .. =>
    if f.phase = .executing then
      let s := (s.tracePreempt f).updFlight f.q f.idx fun x => { x with
        phase := .suspended, phaseFrom := s.now, preempts := x.preempts + 1, resuming := false
        suspendedByHalt := x.suspendedByHalt || byHalt
        haltSuspended := byHalt, shedSuspended := byShed }
      if s.accounts f.entry.ctx then
        s.updCtx f.entry.ctx fun c => { c with preempts := satInc c.preempts }
      else s
    else s
  | _ => s

/-- Pre-empt every executing command (R103, R124); the LTR state may change with it (R131). -/
def preemptAll (s : State) : State :=
  (s.flights.foldl (fun s f => s.preemptFlight f true false) s).haltUpdate.ltrUpdate

/-- Let suspended commands go on: a copy that nothing holds resumes at once; a DISPATCH waits for its restore
(R125, R426). The time it spent suspended counts in WAIT (R436). -/
def resumeFlights (s : State) (sel : Flight → Bool) (clear : Flight → Flight) : State :=
  issueAll <| s.flights.foldl (fun s f =>
    let s := if sel f then s.updFlight f.q f.idx clear else s
    match f.entry.op with
    | .copy .. | .peerCopy .. =>
      match s.flight? f.q f.idx with
      | some x =>
        if x.phase = .suspended && !x.haltSuspended && !x.shedSuspended && !s.haltHolds then
          (s.chargePhase x).updFlight f.q f.idx fun x => { x with phase := .executing, resuming := false }
        else s
      | none => s
    | _ => s) s

/-- Begin or renew the wait of every waiting FLAG_WAIT: on release of a halt it is evaluated again and
its timeout counts from the release (R123). -/
def rearmWaits (s : State) : State :=
  let s := { s with flights := s.flights.map fun (f : Flight) =>
    if f.phase = Phase.waiting then { f with waitFrom := s.now, startAt := s.now } else f }
  s.wakeAll

/-! ## Residency (R421–R424) -/

/-- Resident contexts. -/
def residents (s : State) : List CtxId := (List.finRange 256).filter fun c => s.ctxs[c].resident

/-- The context has commands in flight. -/
def ctxInFlight (s : State) (c : CtxId) : Bool :=
  s.flights.any fun (f : Flight) => f.entry.ctx = c

/-- A command of the context is eligible and waits for a Quay, a copy channel or a slot (R439). -/
def ctxRunnable (s : State) (c : CtxId) : Bool :=
  s.flights.any fun (f : Flight) => f.entry.ctx = c && f.eligible && f.entry.op.needsResident &&
    (f.phase = .sampled || f.phase = .admitWait || f.phase = .slotWait)

/-- The least element of a list under a measure. -/
def least {α : Type} (f : α → Nat) : List α → Option α
  | [] => none
  | x :: xs => match least f xs with
    | none => some x
    | some y => if f y < f x then some y else some x

/-- The context to evict (R423): one with no command in flight, its last completion earliest; else the
blocked one whose stretch began earliest. None while its command Lighters (R438). -/
def victimCtx (s : State) : Option CtxId :=
  let rs := s.residents
  match least (fun c => s.ctxs[c].lastDone.toNat) (rs.filter fun c => !s.ctxInFlight c) with
  | some c => some c
  | none => least (fun c => (s.ctxs[c].blockedSince.getD 0).toNat) (rs.filter fun c =>
      s.ctxBlocked c && !s.ctxRunnable c &&
      !(s.flights.any fun (f : Flight) => f.entry.ctx = c && f.phase = .lightering))

/-- The first 64 KiB of a save area, and its images behind them (R424, R425). -/
def saveBase (s : State) (c : CtxId) : Nat := s.ctxs[c].saveVa.toNat / 0x1_0000 * 0x1_0000
def saveBytes (s : State) (c : CtxId) : Nat := s.ctxs[c].saveSize.toNat * 0x1_0000
def imageBytes (s : State) (c : CtxId) : Nat := (s.ctxs[c].saveSize.toNat - 1) * 0x1_0000

/-- The time a transfer of resident state took counts in LIGHTER (R436). -/
def chargeTransfer (s : State) (c : CtxId) (ticks : Nat) : State :=
  let s := { s with freeCount := s.freeCount + 1 }
  if s.accounts c then s.updCtx c fun x => { x with lighterTicks := x.lighterTicks + BitVec.ofNat 64 ticks } else s

/-- Evict a context (R424): its state goes to its save area, whose layout is private; 0x8008 is logged. -/
def evict (s : State) (c : CtxId) : State :=
  let there : Bool := s.saveBytes c ≠ 0
  let s := if there then
      (s.saveVa c (s.saveBase c) 0x1_0000).chargeTransfer c (Config.residentTicks s.freeCount) else s
  let s := s.updCtx c fun x => { x with
    resident := false, saved := there, evictions := if x.valid then satInc x.evictions else x.evictions }
  s.report { reason := 0x8008, severity := .information, ctx := BitVec.ofNat 16 c.val }

/-- Make room for a context that waits for a slot (R423, R424): evict the one that qualifies; a DISPATCH of
its that still executes is pre-empted and Lightered first, and a copy, which nothing but a halt pre-empts
(R427), runs to its end. -/
def makeRoom (s : State) : State :=
  if s.residents.length < 64 || !(s.ctxs.toList.any (·.slotWaiting)) then s else
  match s.victimCtx with
  | none => s
  | some v =>
    let running := s.flights.filter fun (f : Flight) => f.entry.ctx = v && f.entry.op.needsResident &&
      (f.phase = .executing || f.phase = .restoring)
    if running.isEmpty then s.evict v
    else running.foldl (fun s f => match f.entry.op with
      | .dispatch .. => s.preemptFlight f false false
      | _ => s) s

/-- Ask for a resident slot (R423): a free one is filled by CONTEXT_RESIDENT; where none is free, a
context is evicted, if one qualifies. -/
def askSlot (s : State) (c : CtxId) : State :=
  if s.ctxs[c].resident then s else
  let s := s.updCtx c fun x => if x.slotWaiting then x else
    { x with slotWaiting := true, slotSince := s.now }
  s.makeRoom

/-! ## Where a command may run (R162, R427) -/

/-- Partitions open to a context. -/
def partitionsOf (s : State) (c : CtxId) : List Nat :=
  match s.manifest.device with
  | none => []
  | some d => (List.range d.partitions.length).filter fun i =>
      match d.partitions[i]? with
      | some p => p.contains c.val
      | none => false

/-- The arrays a Quay offers under its shape: lists of Berths (R161); those with a fenced Berth are
not offered (R502). -/
def shapeArrays (shape : Nat) : List (List Nat) :=
  match shape with
  | 1 => [[0], [1], [2], [3]]
  | 2 => [[0, 2], [1, 3]]
  | 3 => [[0, 1], [2, 3]]
  | 4 | 5 | 6 => [[0, 1, 2, 3]]
  | _ => []

/-- Arrays that a Quay offers now. -/
def offered (s : State) (q : QuayId) (shape : Nat) : List (List Nat) :=
  (shapeArrays shape).filter fun a => a.all fun b => (s.liveBerths q).contains b

/-- The shape a Quay has, or will have when its apply completes (R162). -/
def effectiveShape (s : State) (q : QuayId) : Nat :=
  match s.manifest.load with
  | some l => match l.image with
    | some m => if l.changed.contains q then
        match m.quays.find? (·.quay = q.val) with
        | some e => e.shape
        | none => s.quays[q].shape.toNat
      else s.quays[q].shape.toNat
    | none => s.quays[q].shape.toNat
  | none => s.quays[q].shape.toNat

/-- A Quay of a partition is usable for a cargo: enabled, not fenced whole, of the cargo's shape, with
the arrays it needs. -/
def usable (s : State) (q : QuayId) (cargo : Cargo) : Bool :=
  s.quayEnabled q && !s.quays[q].wholeFenced && s.effectiveShape q = cargo.shape &&
  cargo.arrays ≤ (s.offered q cargo.shape).length

/-- Usable Quays of partition `p`. -/
def usableIn (s : State) (p : Nat) (cargo : Cargo) : List QuayId :=
  (List.finRange 8).filter fun q => s.manifest.partition[q] = some p && s.usable q cargo

/-- Some admitting partition holds enough usable Quays (R162, R427): none does while no Manifest is in force. -/
def enoughQuays (s : State) (c : CtxId) (cargo : Cargo) : Bool :=
  (s.partitionsOf c).any fun p => cargo.quays ≤ (s.usableIn p cargo).length

/-- The SFU mode a cargo states matches the mode in force (R270). -/
def sfuFits (s : State) (c : Cargo) : Bool :=
  match c.sfu with
  | .native => !s.ready.sfuG1
  | .g1 => s.ready.sfuG1
  | .either => true

/-- A Quay holds no command: nothing runs, Lighters or restores on it. -/
def quayFree (s : State) (q : QuayId) : Bool :=
  !(s.flights.any fun (f : Flight) => f.run.quays.contains q &&
    (f.phase = .executing || f.phase = .lightering || f.phase = .restoring))

/-- A Quay admits commands: READY, not draining, not behind a recovery fence (R169,
R504). -/
def quayOpen (s : State) (q : QuayId) : Bool :=
  s.quays[q].ready && !s.quays[q].draining && !s.quays[q].resetting &&
  !s.quays[q].recoveryFence && s.quayFree q

/-- Berths of a Quay with a repair or fence pending (R500). -/
def repairBerths (s : State) (q : QuayId) : List Nat :=
  (s.faults.pending.filter fun p =>
    locQuay p.1 = BitVec.ofNat 8 q.val && locBerth p.1 ≠ 0xFF).map fun p => (locBerth p.1).toNat

/-- A repair pending on the Quay itself (R500). -/
def quayRepair (s : State) (q : QuayId) : Bool :=
  s.faults.pending.any fun p =>
    locQuay p.1 = BitVec.ofNat 8 q.val && locBerth p.1 = 0xFF

/-- A Quay admits a command of a cargo now: no pending repair touches the arrays it would run on
(R500). One that restores runs where it ran, so no Berth may wait for a repair. -/
def quayOpenFor (s : State) (q : QuayId) (cargo : Cargo) (restores : Bool) : Bool :=
  let bad := s.repairBerths q
  s.quayOpen q && !s.quayRepair q && (bad.isEmpty || (!restores && decide (cargo.arrays ≤
    ((s.offered q cargo.shape).filter fun a => !(a.any bad.contains)).length)))

/-! ## Abandon (R433) -/

/-- The initial adaptive settings of a cargo for tensors no state is held of (R265). -/
def startAdaptive (held : List AdaptState) (cargo : Cargo) : List AdaptState :=
  held ++ (cargo.adaptive.filter fun (a : AdaptInit) => !(held.any (·.tensor == a.tensor))).map
    fun (a : AdaptInit) => ⟨a.tensor, 0, a.expMin, a.expMax, false, a.lowSteps, a.thresh, 0, 0⟩

end State

end Sys2Proof.Machine
end

