-- ==== Sys2Proof/Machine/StreamOps.lean ====
section
/-! DEFINITION. Ports, streams and codec sessions: shared operations (R352–R367, R386–R393). -/

namespace Sys2Proof.Machine

/-! ## Frame geometry (R218, R367, R376, R386) -/

/-- ⌈a ÷ b⌉ × b. -/
def roundUp (a b : Nat) : Nat := (a + b - 1) / b * b

/-- Where the tail of a buffer begins: its last 64 KiB, BUF_STRIDE being a multiple of 64 KiB (R136, R360). -/
def Binding.tail (b : Binding) (buf : Nat) : Nat := buf + (b.stride.toNat / 0x1_0000 - 1) * 0x1_0000

/-- One output line: its offset in the buffer, whether it is luma line `y` or chroma line `y`, its blank bytes, and
where an image has no sample: slots from `used` on of every `block` of a blocked layout are pad slots (R218). -/
structure OutLine where
  offset : Nat
  y : Nat
  blank : List Byte
  used : Nat := 1
  block : Nat := 1
  deriving DecidableEq, Repr

/-- Bytes of an input line of a stream, in its declared data type (R354, R359). -/
def lineBytes (d : StreamDef) : Nat := (d.width * d.bits + 7) / 8

/-- Pitch of an uncoded frame of `width` samples of `b` bytes (R386). -/
def framePitch (width b : Nat) : Nat := roundUp (width * b) 256
/-- Offset of the chroma plane (R386). -/
def chromaOffset (width height b : Nat) : Nat := framePitch width b * roundUp height 16
/-- F of R386. -/
def frameSize (width height b : Nat) : Nat :=
  chromaOffset width height b + framePitch width b * (height / 2)

/-- The code of sample value 0 (R367). -/
def zeroCode (signed : Bool) : Byte := if signed then 0x80 else 0

/-- Lines of a planar frame: luma, then chroma at half height (R386). -/
def planarLines (width height b : Nat) (luma chroma : List Byte) : List OutLine :=
  let p := framePitch width b
  (List.range height).map (fun y => ({ offset := y * p, y, blank := (List.replicate width luma).flatten } : OutLine)) ++
  (List.range (height / 2)).map fun y =>
    { offset := chromaOffset width height b + y * p, y := 2 * y, blank := (List.replicate width chroma).flatten }

/-- Lines of a C16 or C32 image: channel blocks of `block` slots, each of `height` lines (R218). -/
def blockLines (block channels width height : Nat) (signed : Bool) : List OutLine :=
  (List.range ((channels + block - 1) / block)).flatMap fun k =>
    (List.range height).map fun y =>
      ⟨(k * height + y) * width * block, y, List.replicate (width * block) (zeroCode signed),
        min block (channels - k * block), block⟩

/-- The output lines of a stream. -/
def defLines (d : StreamDef) : List OutLine :=
  match d.format with
  | .c16 ch sg => blockLines 16 ch d.outW d.outH sg
  | .c32 ch sg => blockLines 32 ch d.outW d.outH sg
  | .nv12 => planarLines d.outW d.outH 1 [16] [128]
  | .p010 => planarLines d.outW d.outH 2 [0, 0x10] [0, 0x80]

/-- Bytes of an output image. -/
def defSize (d : StreamDef) : Nat :=
  match d.format with
  | .c16 ch _ => (ch + 15) / 16 * d.outW * d.outH * 16
  | .c32 ch _ => (ch + 31) / 32 * d.outW * d.outH * 32
  | .nv12 => frameSize d.outW d.outH 1
  | .p010 => frameSize d.outW d.outH 2

/-- The port and first virtual channel of a port-fed stream. -/
def defPort? (d : StreamDef) : Option (Nat × Nat) :=
  match d.source with
  | .port p v => some (p, v)
  | _ => none

/-- The stream whose source this one shares (R358). -/
def defParent? (d : StreamDef) : Option Nat :=
  match d.source with
  | .branch p => some p
  | _ => none

/-- Does a composition hold statistics (R373)? -/
def defStats (d : StreamDef) : Bool := d.prims.contains .stats

/-- The lines of a frame, exposure by exposure, each in the order of arrival (log entry 110). -/
def Frame.inOrder (f : Frame) : List InLine :=
  (List.range 3).flatMap fun e => f.received.filter (·.expo = e)

/-- What a pipe takes of a frame (R372). -/
def Frame.input (f : Frame) : PipeInput := ⟨f.tables, f.inOrder⟩

/-- Blanking at a frame start (R366): it ends where BLANK was written 0. -/
def Blank.settle (b : Blank) : Blank := { b with pendingClear := false, inForce := b.blank }

namespace State

/-- Branches of a stream (R358). -/
def branches (s : State) (i : SctxId) : List SctxId :=
  (List.finRange 24).filter fun j => match s.streams[j].defn with
    | some d => defParent? d = some i.val
    | none => false

/-- The definition of a stream in the Manifest in force, which a frame in progress may not follow yet (R167). -/
def definedAs (s : State) (i : SctxId) : Option StreamDef := s.streams[i].nextDefn.getD s.streams[i].defn

/-- Streams that a frame start of a stream starts as its branches (R167, R358). -/
def startsWith (s : State) (i : SctxId) : List SctxId :=
  (List.finRange 24).filter fun j => match s.definedAs j with
    | some d => defParent? d = some i.val
    | none => false

/-- The stream that stands for a branch's source. -/
def rootOf (s : State) (i : SctxId) : SctxId :=
  match s.streams[i].defn with
  | some d => match defParent? d with
    | some p => if h : p < 24 then ⟨p, h⟩ else i
    | none => i
  | none => i

/-- The port of a stream, through its parent for a branch. -/
def portOf (s : State) (i : SctxId) : Option Nat :=
  match s.streams[s.rootOf i].defn with
  | some d => (defPort? d).map (·.1)
  | none => none

/-- Streams fed from a port, branches included. -/
def streamsOfPort (s : State) (p : PortId) : List SctxId :=
  (List.finRange 24).filter fun i => s.portOf i = some p.val

/-- Is a stream blanked? By itself or by its parent (R365, R366). -/
def blanked (s : State) (i : SctxId) : Bool := s.blanks[i].inForce || s.blanks[s.rootOf i].inForce

/-- Stream contexts shed at steps 4 and 5 unless kept (R481). -/
def sctxShed (s : State) (i : SctxId) : Bool := 4 ≤ s.power.step && !(s.keep.sctx.getLsbD i.val)

/-- Set a torn cause of a frame in progress (R357): one whose end has come keeps its causes. -/
def tear (s : State) (i : SctxId) (bit : Nat) : State :=
  s.updStream i fun x => { x with frame := x.frame.map fun f =>
    if f.ended then f else { f with torn := f.torn ||| BitVec.ofNat 8 (2 ^ bit) } }

/-- The key of a rate mark: a code and a unit. -/
def markKey (code unit : Nat) : Nat := code * 1024 + unit

/-- A torn frame counts, and logs 0xA002 at most once per stream in any 1 ms (R357). -/
def countTorn (s : State) (i : SctxId) (quiet : Bool) : State :=
  let s := s.updStream i fun x => { x with tornCount := satInc x.tornCount, historyValid := false }
  if quiet then s
  else s.reportLimited (markKey 0xA002 i.val)
    { reason := 0xA002, severity := .information }

/-- STATS_VALID (R373). -/
def statsValid (f : Frame) : Bool := defStats f.defn && f.torn = 0 && f.blankFrom ≠ some 0

/-- The frame record (R362). -/
def frameRecord (s : State) (i : SctxId) (f : Frame) : List Byte :=
  let x := s.streams[i]
  let (port, vc) := f.source.getD (0xFF, 0xFF)
  let flags := (if f.torn ≠ 0 then 1 else 0) + (if f.blankFrom.isSome then 2 else 0) +
    (if f.blankFrom = some 0 then 4 else 0) + (if statsValid f then 8 else 0) +
    if f.historyReset then 16 else 0
  leBytes 4 0x5246_4A4F ++
  [BitVec.ofNat 8 i.val, BitVec.ofNat 8 port, BitVec.ofNat 8 vc, BitVec.ofNat 8 flags] ++
  leBytes 8 f.start.toNat ++ leBytes 8 f.endAt.toNat ++ leBytes 4 x.frames.toNat ++
  leBytes 2 f.csiFrame.toNat ++ leBytes 2 (f.expo[0]).lines ++
  leBytes 2 ((f.blankFrom.map BitVec.toNat).getD 0xFFFF) ++ [f.torn, 0] ++
  leBytes 4 f.tableCount.toNat ++ List.replicate 24 0

/-- Bytes filled up with zeros to a multiple of 64. -/
def pad64 (bs : List Byte) : List Byte := bs ++ List.replicate ((64 - bs.length % 64) % 64) 0

/-- Is a stream's present frame captured at a position (R462)? -/
def captures (s : State) (i : SctxId) (pipe : Bool) : Bool :=
  s.capturing && s.recorder.pos = pipe && s.recorder.sctx.getLsbD i.val && s.streams[i].captured

/-- A FRAME entry at port position: the record, then the lines as received after blanking (R460, R462). -/
def recordPortFrame (s : State) (i : SctxId) : State :=
  match s.streams[i].frame with
  | none => s
  | some f =>
    if !(s.captures i false) || f.source.isNone || f.dropped then s
    else s.record 0x04 0 ([BitVec.ofNat 8 i.val, 0, 0, 0] ++ leBytes 4 s.streams[i].frames.toNat)
      (s.frameRecord i f ++ f.inOrder.flatMap fun (l : InLine) => pad64 l.bytes)

/-- A frame whose lines are fewer or more than its height says is torn with cause 1 (R357). -/
def Frame.countLines (f : Frame) : Frame :=
  if (List.finRange 3).any fun e => e.val < f.defn.exposures && (f.expo[e]).lines ≠ f.defn.height then
    { f with torn := f.torn ||| 2 }
  else f

/-- The frame of a stream and of its branches ends (R357, R364): it is recorded at port position, and a torn one
is counted. -/
def endFrame (s : State) (i : SctxId) (quiet : Bool) : State :=
  (i :: s.branches i).foldl (fun s j =>
    match s.streams[j].frame with
    | none => s
    | some g => if g.ended then s else
      let f := Frame.countLines g
      let s := s.updStream j fun x => { x with 
        frame := some { f with ended := true, endAt := s.now }, past := f.past ++ [f.input] }
      let s := s.trace 97 j.val s.streams[j].frames.toNat
      let s := s.recordPortFrame j
      if f.torn ≠ 0 then s.countTorn j quiet else s) s

/-- End a stream's binding: after the frame in progress, at once when there is none (R138, R355). -/
def endBinding (s : State) (i : SctxId) : State :=
  s.updStream i fun x =>
    if x.frame.isSome then { x with nextBinding := some none }
    else { x with binding := none, nextBinding := none }

/-- Start a frame on one stream (R364): pending definition, binding, tables and unblanking take effect
(R167, R138, R374, R366). In the replay of a recorded frame, a table or a binding of a command recorded after its start
`asOf` waits for the next (R465). -/
def beginFrame (s : State) (i : SctxId) (csiFrame : BitVec 16) (asOf : Option Tick) : State :=
  let root : SctxId := match (s.definedAs i).bind defParent? with
    | some p => if h : p < 24 then ⟨p, h⟩ else i
    | none => i
  let clearing := s.blanks[i].pendingClear || s.blanks[root].pendingClear
  let blankNow := s.blanks[i].blank || s.blanks[root].blank
  let due (t : Tick) : Bool := asOf.all fun u => t.toNat ≤ u.toNat
  let source := match s.definedAs i with
    | some d => match defParent? d with
      | some p => (s.streams[p]?.bind (·.defn)).bind defPort?
      | none => defPort? d
    | none => none
  let above : List StreamDef := if root = i then [] else (s.definedAs root).toList
  let parents := if root = i then [] else s.streams[root].tables
  let s := s.updStream i fun x =>
    let defn := match x.nextDefn with | some d => d | none => x.defn
    let (binding, nextBinding) := match x.nextBinding with
      | some b => if due x.nextBindAt then (b, none) else (x.binding, x.nextBinding)
      | none => (x.binding, none)
    let old := match x.frame with | some f => if f.ended then [f] else [] | none => []
    let unwritten := x.unwritten ++ old
    let loaded := x.nextTables.filter fun t => due t.2.2
    let tables := loaded.foldl (fun ts t => (t.1, t.2.1) :: ts.filter fun (u : Nat × List Byte) => u.1 != t.1)
      x.tables
    match defn with
    | none => { x with
        defn := none, nextDefn := none, binding := none, nextBinding := none, frame := none, unwritten }
    | some d =>
      let bound : Bool := nextBinding.isNone && match x.nextBinding with | some (some _) => true | _ => false
      let numbered := if bound then unwritten.zipIdx.map fun (p : Frame × Nat) =>
          { p.1 with index := some (p.1.index.getD (x.frames + BitVec.ofNat 32 p.2)) }
        else unwritten
      let x := if bound then { x with
        consumed := 0, frames := 0, tornCount := 0, tableCount := 0, historyValid := false } else x
      let tableCount := x.tableCount + BitVec.ofNat 32 loaded.length
      { x with
        unwritten := numbered, historyValid := !(s.sctxShed i)
        defn, nextDefn := none, binding, nextBinding, tables
        nextTables := x.nextTables.filter fun t => !due t.2.2
        tableCount
        captured := true
        frame := some {
          start := s.now, csiFrame, source, defn := d, binding
          expo := #v[{ begun := true }, {}, {}]
          blankFrom := if blankNow then some 0 else none
          historyReset := !x.historyValid || clearing || x.nextDefn.isSome
          defs := above ++ [d], tables := tables ++ parents, tableCount
          past := if !x.historyValid || clearing || x.nextDefn.isSome then [] else x.past
          dropped := s.sctxShed i } }
  s.trace 96 i.val s.streams[i].frames.toNat

/-- A session ends: what it codes is dropped, and its unit is free (R393, R394). -/
def stopSession (s : State) (n : SessId) : State :=
  let x := s.sessions[n]
  let s := s.updSession n fun y => { y with
    en := false, active := false, suspended := false, feedBusy := false, coding := none, queue := [], decoded := [] }
  match x.coding, x.desc with
  | some _, some d => if h : d.unit < 3 then
      { s with codecs := updAt s.codecs ⟨d.unit, h⟩ ({ · with busy := false }) } else s
  | _, _ => s

/-- Does a stream's definition fit a session that encodes it (R387)? -/
def sourceFits (d : SessDesc) (x : StreamDef) : Bool :=
  x.outW = d.width && x.outH = d.height && match x.format with
    | .nv12 => d.depth = 8
    | .p010 => d.depth = 10
    | _ => false

/-- Sessions whose source stream changed its format or size stop with 0xB005 at its frame start (R393). -/
def checkSources (s : State) (i : SctxId) : State :=
  match s.streams[i].defn with
  | none => s
  | some x =>
    (List.finRange 32).foldl (fun s n => match s.sessions[n].desc with
      | some d =>
        if s.sessions[n].active && d.source = 1 && d.sctx = i.val && !(sourceFits d x) then
          ((s.stopSession n).updSession n fun y => { y with reason := 0xB005 }).report
            { reason := 0xB005, severity := .contained }
        else s
      | none => s) s

/-- A frame start tears and ends a frame of the stream that is still in progress, its branches' with it (R357). -/
def cutFrame (s : State) (i : SctxId) : State :=
  match s.streams[i].frame with
  | some f => if f.ended then s else endFrame ((i :: s.branches i).foldl (fun s j => tear s j 3) s) i false
  | none => s

/-- A frame start: the stream, and the streams that are its branches from then on, start a frame, and a clear that
waited has taken effect (R366). A frame already in progress on one of them is torn by it (R357). -/
def startFrame (s : State) (i : SctxId) (csiFrame : BitVec 16) : State :=
  let ids := i :: s.startsWith i
  let s := ids.foldl cutFrame s
  let s := ids.foldl (fun s j => (s.beginFrame j csiFrame none).checkSources j) s
  { s with blanks := Vector.ofFn fun (j : SctxId) =>
      if ids.contains j then s.blanks[j].settle else s.blanks[j] }

/-! ## Codec sessions -/

/-- Free records of a session's ring (R389). -/
def recordsFree (x : Session) : Nat :=
  match x.desc with
  | some d => 2 ^ d.recLog2 - (x.recTail - x.recHead).toNat
  | none => 0

/-- Write one codec record (R388): the record, then FLAG. -/
def codecRecord (s : State) (n : SessId) (offset length : Nat) (src : SrcFrame) (frame : Nat)
    (slice qp : Byte) (flags : Nat) (blanked : Bool) : State :=
  match s.sessions[n].desc with
  | none => s
  | some d =>
    let t := s.sessions[n].recTail
    let bytes := leBytes 4 offset ++ leBytes 4 length ++ leBytes 8 src.tideSrc.toNat ++
      leBytes 8 s.now.toNat ++ leBytes 4 frame ++
      [slice, qp, BitVec.ofNat 8 (flags + (if blanked then 8 else 0) +
        (if src.torn then 16 else 0) + if phaseBit t.toNat d.recLog2 then 128 else 0),
       BitVec.ofNat 8 n.val]
    let s := s.updMem (·.store (d.records + 32 * (t.toNat % 2 ^ d.recLog2)) bytes)
    let s := s.updSession n ({ · with recTail := t + 1 })
    (s.trace 128 n.val frame).addFlag d.flag 1

/-- The samples of a frame's first lines, as luma lines and then chroma lines (R386): what an encoder takes of it. -/
def frameLines (d : SessDesc) (image : List Byte) (lines : Nat) : List (List Byte) :=
  let b := if d.depth = 10 then 2 else 1
  let line (at_ : Nat) : List Byte := (image.drop at_).take (d.width * b)
  let n := min lines d.height
  (List.range n).map (fun y => line (y * framePitch d.width b)) ++
  (List.range (n / 2)).map fun y => line (chromaOffset d.width d.height b + y * framePitch d.width b)

/-- The bytes a feed reads: a frame in the layout of R386, or FEED_LEN bytes (R387, R390). -/
def codecFeedBytes (s : State) (n : SessId) (d : SessDesc) : List Byte :=
  let x := s.sessions[n]
  s.mem.reads (x.feedAddr.toNat / 256 * 256)
    (if d.unit = 2 then x.feedLen.toNat else frameSize d.width d.height (if d.depth = 10 then 2 else 1))

/-- The bytes of a source frame, those of a feed that is still being read as they stand in memory. -/
def srcImage (s : State) (n : SessId) (d : SessDesc) (src : SrcFrame) : List Byte :=
  src.image.getD (s.codecFeedBytes n d)

/-- The coded frame joins what the session's output depends on (R392). -/
def noteCoded (s : State) (n : SessId) (d : SessDesc) (src : SrcFrame) (abandoned : Bool) : State :=
  if d.unit = 2 then s else
  let lines := frameLines d (s.srcImage n d src) d.height
  s.updSession n fun x => { x with history := x.history ++ [.frame lines x.keyFrame x.bFrame abandoned x.written] }

/-- The record of an abandoned frame (R389, R393): of a decoder it holds no frame buffer. What follows begins with a key
frame, or at the next random access point. -/
def abandonRecord (s : State) (n : SessId) (d : SessDesc) (src : SrcFrame) : State :=
  let x := s.sessions[n]
  (s.codecRecord n (if d.unit = 2 then 0 else x.offset) 0 src x.frameNo 0 0 (32 + 2) src.blankFrom.isSome).updSession n
    fun y => { y with
      frameNo := y.frameNo + 1, gaps := if d.unit = 2 then x.recTail :: y.gaps else y.gaps
      keyOwed := y.keyOwed || d.unit ≠ 2, skipToAccess := y.skipToAccess || d.unit = 2 }

/-- Abandon the frame a session codes: a record with ABANDONED, and a key frame next (R389, R393). -/
def abandonFrame (s : State) (n : SessId) : State :=
  match s.sessions[n].coding, s.sessions[n].desc with
  | some src, some d =>
    let s := ((s.abandonRecord n d src).noteCoded n d src true).updSession n fun x => { x with
      coding := none, chunk := 0, written := 0 }
    if h : d.unit < 3 then
      { s with codecs := updAt s.codecs ⟨d.unit, h⟩ ({ · with busy := false }) }
    else s
  | _, _ => s

/-- Sessions served by a unit. -/
def sessionsOf (s : State) (u : Nat) : List SessId :=
  (List.finRange 32).filter fun n => s.sessions[n].active && match s.sessions[n].desc with
    | some d => d.unit = u
    | none => false

/-- Shedding or D3hot stops a unit's sessions (R393): the frame in progress is abandoned, SUSPENDED
sets, and coding goes on with a key frame or at the next random access point. -/
def suspendUnit (s : State) (u : Nat) : State :=
  (s.sessionsOf u).foldl (fun s n =>
    let s := s.abandonFrame n
    s.updSession n fun x => { x with
      suspended := true
      keyOwed := x.keyOwed || u ≠ 2, skipToAccess := x.skipToAccess || u = 2 }) s

/-- A unit's sessions go on. -/
def resumeUnit (s : State) (u : Nat) : State :=
  (s.sessionsOf u).foldl (fun s n => s.updSession n ({ · with suspended := false })) s

/-- Shed or return a unit (R481, R483). -/
def setShed (s : State) (u : Fin 3) (shed : Bool) : State :=
  let s := { s with codecs := updAt s.codecs u ({ · with shed }) }
  if shed then s.suspendUnit u.val else if s.env.power = .d0 then s.resumeUnit u.val else s

/-! ## Triggers (R166, R368, R450) -/

/-- The first edge at or after a count: F + k × P; 0 when none is due. -/
def edgeFrom (t : Trigger) (n : Nat) : Tick :=
  if n ≤ t.first then BitVec.ofNat 64 t.first
  else if t.period = 0 then 0
  else BitVec.ofNat 64 (t.first + (n - t.first + t.period - 1) / t.period * t.period)

/-- Every trigger's next edge is taken afresh at or after the new count (R450). -/
def resetTriggers (s : State) (n : Nat) : State :=
  { s with trigs := s.trigs.map fun t => match t.prog with
    | some p => if t.next = 0 then t else
        if t.next.toNat < n then { t with next := edgeFrom p n } else t
    | none => t }

/-- A forward step of the Tide to `t` (R449, R450): trigger edges passed over do not fire, accounting
excludes the step and heartbeat windows begin afresh. -/
def stepTide (s : State) (t : Tick) : State :=
  let d := t.toNat - s.now.toNat
  let s := { s with tide := { s.tide with count := t, stepped := true } }
  let s := s.resetTriggers t.toNat
  let s := { s with
    heart := { s.heart with window := t.toNat / msTicks, seen := false, valid := false }
    flights := s.flights.map fun (f : Flight) =>
      if f.phase = Phase.suspended || f.phase = Phase.lightering || f.phase = Phase.restoring then
        { f with phaseFrom := f.phaseFrom + BitVec.ofNat 64 d }
      else if f.eligible && !f.started && !f.ended && f.phase ≠ Phase.waiting then { f with stepTicks := f.stepTicks + d } else f
    ctxs := s.ctxs.map fun (x : Ctx) =>
      if x.slotWaiting then { x with slotSince := x.slotSince + BitVec.ofNat 64 d } else x }
  s.note 0x4033 .information d

end State

end Sys2Proof.Machine
end

