-- ==== Sys2Proof/Machine/PipeOps.lean ====
section
/-! DEFINITION. The end of a frame in its pipe: what is written, and what is dropped (R357, R361–R365, R372, R377). -/

namespace Sys2Proof.Machine

/-- A stream's oldest frame whose input has ended. -/
def State.finishable (s : State) (i : SctxId) : Option Frame :=
  match s.streams[i].unwritten with
  | f :: _ => some f
  | [] => match s.streams[i].frame with
    | some f => if f.ended then some f else none
    | none => none

/-- That frame leaves the pipe; what waited for it takes effect (R138, R167). -/
def State.retire (s : State) (i : SctxId) : State :=
  s.updStream i fun x => match x.unwritten with
    | _ :: fs => { x with unwritten := fs }
    | [] =>
      let x := { x with frame := none }
      let x := match x.nextBinding with
        | some none => { x with binding := none, nextBinding := none }
        | _ => x
      match x.nextDefn with
        | some d => { x with defn := d, nextDefn := none, historyValid := false }
        | none => x

/-- A byte of an output line that has content: pad slots hold the zero-padding value (R218), and the low 6 bits of a
P010 sample are 0 (R386). -/
def outByte (f : Frame) (o : OutLine) (k : Nat) (at_ : Nat) (blank : Byte) : Byte :=
  let b := pipeByte f.defs f.past f.input k at_
  if o.used ≤ at_ % o.block then blank
  else if f.defn.format = .p010 && at_ % 2 = 0 then b &&& 0xC0 else b

/-- Output line `k` as written: blank from `blankFrom` on, and where a torn frame lacks it (R357, R365, R372). -/
def outLine (f : Frame) (o : OutLine) (k : Nat) : List Byte :=
  let blank : Bool := match f.blankFrom with
    | some b => decide (b.toNat ≤ o.y)
    | none => false
  if blank || (f.torn ≠ 0 && lacks f.defs f.input k) then o.blank
  else o.blank.mapIdx fun at_ b => outByte f o k at_ b

/-- The writes of a frame into its buffer, in order: lines, statistics, record (R362, R363, R373). -/
def State.frameWrites (s : State) (i : SctxId) (f : Frame) (b : Binding) (no : Word) : List (Nat × List Byte) :=
  let buf := b.va.toNat + no.toNat % b.count * b.stride.toNat
  let tail := b.tail buf
  let image := (defLines f.defn).zipIdx.map fun (o, k) => (buf + o.offset, outLine f o k)
  let st := if defStats f.defn then [(tail + 0x40, pipeStats f.defs f.past f.input)] else []
  let numbered := s.updStream i ({ · with frames := no })
  image ++ st ++ [(tail, numbered.frameRecord i f)]

/-- The first fault of a list of writes. -/
def State.writesFault (s : State) (c : CtxId) (ws : List (Nat × List Byte)) : Option MmuFault :=
  ws.findSome? fun w => firstFault s c w.1 w.2.length .write

/-- An MMU fault on a buffer write (R155, R377): the frame is dropped and the binding ended,
also for the frames behind it. -/
def State.faultBinding (s : State) (i : SctxId) (b : Binding) (e : MmuFault) : State :=
  let s := s.captureMmu b.ctx b.queue e
  let s := s.report { reason := 0x5003, severity := .contained, ctx := BitVec.ofNat 16 b.ctx.val
                      queue := BitVec.ofNat 16 b.queue.val }
  let left (f : Frame) : Frame := if f.binding = some b then { f with binding := none } else f
  s.updStream i fun x => { x with
    binding := if x.binding = some b then none else x.binding
    unwritten := x.unwritten.map left, frame := x.frame.map left }

/-- The encoder sessions fed from a stream (R387). -/
def State.encodersOf (s : State) (i : SctxId) : List SessId :=
  (List.finRange 32).filter fun n => s.sessions[n].active && match s.sessions[n].desc with
    | some d => d.source = 1 && d.sctx = i.val
    | none => false

/-- A frame has been written whole: its count moves, then FRAME_FLAG (R363), and the sessions that encode
the stream have a frame (R387). -/
def State.deliver (s : State) (i : SctxId) (f : Frame) (b : Binding) (no : Word) : State :=
  let s := if f.index.isNone then s.updStream i fun x => { x with frames := x.frames + 1 } else s
  let buffer := b.va.toNat + no.toNat % b.count * b.stride.toNat
  let src : SrcFrame := { tideSrc := f.start, blankFrom := f.blankFrom, torn := f.torn ≠ 0, buffer
                          image := some (readVa s b.ctx buffer (defSize f.defn)) }
  (((s.encodersOf i).filter fun n => !s.sessions[n].suspended).foldl (fun s n => s.updSession n fun x => { x with queue := x.queue ++ [src] }) s).addFlag
    b.flag 1

/-- A FRAME entry at pipe position: the record, the output image, the tail from 0x40 (R460, R462). -/
def State.recordPipeFrame (s : State) (i : SctxId) (f : Frame) (b : Binding) (no : Word) : State :=
  let buf := b.va.toNat + no.toNat % b.count * b.stride.toNat
  let tail := b.tail buf
  s.record 0x04 0 ([BitVec.ofNat 8 i.val, 1, 0, 0] ++ leBytes 4 no.toNat)
    (readVa s b.ctx tail 64 ++ readVa s b.ctx buf (defSize f.defn) ++ readVa s b.ctx (tail + 0x40) 0xFFC0)

/-- A full ring under FULL = 1 (R361), or a buffer that an encoder has not finished reading (R387). -/
def State.ringFull (s : State) (i : SctxId) (b : Binding) (no : Word) : Bool :=
  let x := s.streams[i]
  let buf := b.va.toNat + no.toNat % b.count * b.stride.toNat
  (x.full && (x.frames - x.consumed).toNat = b.count) || (s.encodersOf i).any fun n =>
    (s.sessions[n].queue ++ s.sessions[n].coding.toList).any fun (f : SrcFrame) => f.buffer = buf

/-- The pipe finishes the oldest frame of a stream (R357, R361, R363): it is delivered, or dropped as torn, on a full
ring, without a binding or because its stream is shed. -/
def State.completeFrame (s : State) (i : SctxId) : State :=
  match s.finishable i with
  | none => s
  | some f =>
    let x := s.streams[i]
    let no := f.index.getD x.frames
    let s' := s.retire i
    match f.binding with
    | none => s'
    | some b =>
      if f.dropped || (f.torn ≠ 0 && !x.deliverTorn) then s'
      else if s.ringFull i b no then
        let s := s'.updStream i fun x => { x with droppedCount := satInc x.droppedCount }
        s.reportLimited (State.markKey 0xA003 i.val) { reason := 0xA003, severity := .information }
      else
        let ws := s.frameWrites i f b no
        match s.writesFault b.ctx ws with
        | some e => s'.faultBinding i b e
        | none =>
          let s' := ws.foldl (fun s w => writeVa s b.ctx w.1 w.2) s'
          let s' := if s.captures i true then s'.recordPipeFrame i f b no else s'
          s'.deliver i f b no

/-- The pipe finishes every frame of a stream. -/
def State.drainPipe (s : State) (i : SctxId) : State :=
  (List.range (s.streams[i].unwritten.length + 1)).foldl (fun s _ => s.completeFrame i) s

/-- A stream context idles (R356): what its pipe holds is not written. -/
def State.emptyPipe (s : State) (i : SctxId) : State :=
  (s.updStream i fun x => { x with unwritten := [] }).retire i

/-- D3hot: frames in progress are torn with cause 6 and end, the pipes finish what they hold, and no feed goes on
(R357, R359, R378). -/
def State.stopStreams (s : State) : State :=
  let all := List.finRange 24
  let s := all.foldl (fun s i => s.tear i 6) s
  let s := all.foldl (fun s i => s.endFrame i false) s
  let s := all.foldl State.drainPipe s
  { s with
    ports := s.ports.map fun (p : Port) => { p with inFrame := false }
    streams := s.streams.map fun (x : Stream) => { x with feedBusy := false } }

end Sys2Proof.Machine
end

