-- ==== Sys2Proof/Machine/RepairOps.lean ====
section
/-! DEFINITION. Spares and fences (R63, R202, R498, R502, R503): shared operations. -/

namespace Sys2Proof.Machine

/-- The cell of a location, 0xFF where it has none. -/
def locCell : RepairLoc → Byte
  | .column _ _ c _ | .cell _ _ c => BitVec.ofNat 8 c.val
  | _ => 0xFF
/-- The lane column of a location, 0xFF where it has none. -/
def locColumn : RepairLoc → Byte
  | .column _ _ c col => BitVec.ofNat 8 (16 * (c.val % 4) + col.val)
  | _ => 0xFF

/-- The event of a repair or fence at a location. -/
def locEvent (loc : RepairLoc) (reason : BitVec 16) (sev : Severity) (level : BitVec 2)
    (action : Bool) (detail : Nat) : Event :=
  { reason, severity := sev, level, quay := locQuay loc, berth := locBerth loc, cell := locCell loc
    column := locColumn loc, action, detail := BitVec.ofNat 64 detail }

/-- A trace point's location argument: Quay, Berth, cell and column, one byte each. -/
def locArg (loc : RepairLoc) : Nat :=
  (locQuay loc).toNat + 256 * (locBerth loc).toNat + 65536 * (locCell loc).toNat +
  16777216 * (locColumn loc).toNat

/-- The Quay of a location. -/
def quayOf : RepairLoc → Option QuayId
  | .column q .. | .cell q .. | .holdRow q .. | .storeRow q .. | .sfuLane q .. | .swellLane q ..
  | .transform q | .arbiter q | .berth q _ => some q
  | .harbourLine .. | .l2Line _ => none

/-- Do two locations share a bank of rows or lines, and so its spares (R308, R326)? -/
def sameBank : RepairLoc → RepairLoc → Bool
  | .holdRow q b k _, .holdRow q' b' k' _ => q = q' && b = b' && k = k'
  | .storeRow q k _, .storeRow q' k' _ => q = q' && k = k'
  | .harbourLine s _ _, .harbourLine s' _ _ => s = s'
  | .l2Line _, .l2Line _ => true
  | _, _ => false

/-- Spares of the bank that holds a location (R308). -/
def spareRows : RepairLoc → Nat
  | .holdRow .. => 16
  | .storeRow .. => 32
  | .harbourLine .. => 64
  | .l2Line _ => Config.l2Spares
  | _ => 0

namespace State

/-- Fence a Quay whole (R503): it leaves its partition and its islands power down; the 0x3007 record's
DETAIL is the code that completed the marking. -/
def fenceQuay (s : State) (q : QuayId) (code : BitVec 16) : State :=
  if s.quays[q].wholeFenced then s else
  let s := s.updQuay q fun y => { y with
    wholeFenced := true, ready := false, clockGated := true
    berths := y.berths.map fun b => { b with gated := true } }
  let s := { s with manifest := { s.manifest with partition := s.manifest.partition.set q.val none } }
  let s := s.trace 193 q.val 0xF
  s.report { reason := 0x3007, severity := .contained, level := 2, quay := BitVec.ofNat 8 q.val
             action := true, detail := BitVec.ofNat 64 code.toNat }

/-- Fence a Berth (R502): it is power-gated and its arrays are no longer offered; when it is the fourth,
its Quay is fenced whole (R503). -/
def fenceBerth (s : State) (q : QuayId) (b : BerthId) (code : BitVec 16) : State :=
  if (s.berth q b).fenced then s else
  let s := s.updBerth q b ({ · with fenced := true, gated := true })
  let s := s.trace 193 q.val (2 ^ b.val)
  let s := s.report { reason := code, severity := .contained, level := 1, quay := BitVec.ofNat 8 q.val
                      berth := BitVec.ofNat 8 b.val, action := true }
  if (List.finRange 4).all fun b' => (s.berth q b').fenced then s.fenceQuay q code else s

/-- A 0x1003, 0x2005 or 0x4004 is recorded in the field only (R202, R498). -/
def noteSpare (s : State) (loc : RepairLoc) (reason : BitVec 16) (level : BitVec 2) (field : Bool) :
    State :=
  if field then (s.report (locEvent loc reason .information level true 0)).trace 194 (locArg loc)
    reason.toNat
  else s

/-- Put the spare cell in the place of a cell, or fence the Berth when it is spent (R202). -/
def replaceCell (s : State) (loc : RepairLoc) (q : QuayId) (b : BerthId) (c : CellId) (field : Bool) :
    State :=
  if (s.berth q b).cellUsed then s.fenceBerth q b 0x2006
  else
    let s := s.updBerth q b fun x => { x with
      cellUsed := true, spareCell := BitVec.ofNat 4 c.val, colmap := x.colmap.set c.val none }
    s.noteSpare loc 0x2005 1 field

/-- A row or line with a spare left in its bank takes it; the location is marked with the others of
the bank (R326, R498). -/
def spareLeft (s : State) (loc : RepairLoc) : Bool :=
  (s.faults.bad.filter (sameBank loc)).length < spareRows loc

/-- Replace a location by its spare, or fence or disable what holds it (R63, R202, R498). `code` is
the event that marked it. A location that fails again is its replacement that fails: a second column of a cell, whichever
it is, takes the spare cell, and the first of the spare cell its own spare column (log entry 124). What counted against the
location counted against what is replaced. -/
def substitute (s : State) (loc : RepairLoc) (code : BitVec 16) (field : Bool) : State :=
  let s' := match loc with
    | .column q b c col =>
      match (s.berth q b).colmap[c] with
      | none =>
        let s := s.updBerth q b fun x => { x with
          colmap := x.colmap.set c.val (some (BitVec.ofNat 4 col.val)) }
        s.noteSpare loc 0x1003 0 field
      | some _ => s.replaceCell loc q b c field
    | .cell q b c => s.replaceCell loc q b c field
    | .holdRow q b .. =>
      if s.spareLeft loc then s.noteSpare loc 0x4004 1 field else s.fenceBerth q b 0x2006
    | .storeRow q .. =>
      if s.spareLeft loc then s.noteSpare loc 0x4004 2 field else s.fenceQuay q code
    | .harbourLine sl w st =>
      if s.spareLeft loc then s.noteSpare loc 0x4004 3 field
      else { s with
        harbour := { s.harbour with disabled := (sl.val, w.val, st.val) :: s.harbour.disabled }
        mem := s.mem.dropLines fun l => l.slice = sl.val && l.way = w.val && l.set = st.val }
    | .l2Line _ => if s.spareLeft loc then s.noteSpare loc 0x4004 3 field else s
    | .sfuLane q b _ | .swellLane q b _ => s.fenceBerth q b 0x200E
    | .transform q | .arbiter q => s.fenceQuay q code
    | .berth q b => s.fenceBerth q b 0x2006
  { s' with faults := { s'.faults with
      bad := s'.faults.bad ++ [loc], counts := s'.faults.counts.filter (·.1 ≠ loc) } }

/-- 24 h of Tide counts (R497). -/
def repairWindow : Nat := 21600000000000

/-- A location is marked bad: its repair is decided now and waits for the quiet point (R498, R500). -/
def decideRepair (s : State) (loc : RepairLoc) (code : BitVec 16) : State :=
  let f := s.faults
  if f.pending.any fun p => p.1 = loc then s
  else { s with faults := { f with pending := f.pending ++ [(loc, code, s.now)] } }

/-- Count an event at a location (R497): an uncorrectable one counts as three; at the third within the
window the location is marked bad, and its repair waits for the quiet point (R498, R500). -/
def countRepair (s : State) (loc : RepairLoc) (weight : Nat) (code : BitVec 16) : State :=
  let f := s.faults
  let old := match f.counts.find? fun c => c.1 = loc with
    | some c => c.2.filter fun t => s.now.toNat < t.toNat + repairWindow
    | none => []
  let new := old ++ List.replicate weight s.now
  let f := { f with counts := (loc, new) :: f.counts.filter fun c => c.1 ≠ loc }
  let s := { s with faults := f }
  if 3 ≤ new.length then s.decideRepair loc code else s

/-- What ECC finds in a Quay store word read: counted, and the first uncorrectable one captured (R313,
R327). -/
def storeWord (s : State) (w : StoreWord) : State :=
  let loc : RepairLoc := .storeRow w.quay w.bank w.row
  match w.ecc with
  | .ok => s
  | .corrected =>
    let s := s.updQuay w.quay fun y => { y with storeCorrected := satInc y.storeCorrected }
    let s := s.reportLimited (State.markKey 0x3004 w.quay.val)
      { reason := 0x3004, severity := .corrected, level := 2, quay := BitVec.ofNat 8 w.quay.val, counted := true }
    s.countRepair loc 1 0x3004
  | .uncorrectable =>
    let s := s.updQuay w.quay fun y => { y with
      storeUncorr := satInc y.storeUncorr
      storeErr := if y.storeErr.valid then y.storeErr
        else { valid := true, bank := BitVec.ofNat 4 w.bank.val, row := BitVec.ofNat 13 w.row.val } }
    s.countRepair loc 3 0x3002

/-- A corrected Hold word: counted, logged at most once per Berth in 1 ms, and counted at its row (R309, R498). -/
def holdCorrected (s : State) (q : QuayId) (b : BerthId) (at_ : Nat) : State :=
  let s := s.updBerth q b fun x => { x with holdCorrected := satInc x.holdCorrected }
  let s := s.reportLimited (State.markKey 0x200D (4 * q.val + b.val))
    { reason := 0x200D, severity := .corrected, level := 1, quay := BitVec.ofNat 8 q.val
      berth := BitVec.ofNat 8 b.val, counted := true }
  s.countRepair (.holdRow q b (holdBank at_) (holdRow at_)) 1 0x200D

/-- An uncorrectable Hold word is captured at its Berth and counted at its row (R310, R327, R498). -/
def holdBad (s : State) (q : QuayId) (b : BerthId) (at_ : Nat) : State :=
  let s := s.updBerth q b fun x => { x with
    holdUncorr := satInc x.holdUncorr
    holdErr := if x.holdErr.valid then x.holdErr
      else { valid := true, bank := BitVec.ofNat 4 (holdBank at_).val, row := BitVec.ofNat 13 (holdRow at_).val } }
  s.countRepair (.holdRow q b (holdBank at_) (holdRow at_)) 3 0x2002

/-- What ECC finds in a Hold word that the Quay DMA reads. -/
def holdWord (s : State) (w : HoldWord) : State :=
  match w.ecc with
  | .ok => s
  | .corrected => s.holdCorrected w.quay w.berth w.at_
  | .uncorrectable => s.holdBad w.quay w.berth w.at_

/-- A Berth is at its quiet point: no tile and no live state (R500). -/
def berthQuiet (s : State) (q : QuayId) (b : BerthId) : Bool :=
  (s.berth q b).tile.isNone && (s.berth q b).holdOwner.isNone

/-- A Quay is at its quiet point. -/
def quayQuiet (s : State) (q : QuayId) : Bool :=
  s.quayFree q && (List.finRange 4).all fun b => s.berthQuiet q b

/-- The quiet point of a location: its Berth's, its Quay's, or at once. -/
def locQuiet (s : State) : RepairLoc → Bool
  | .column q b .. | .cell q b _ | .holdRow q b .. | .sfuLane q b _ | .swellLane q b _ | .berth q b =>
    s.berthQuiet q b
  | .storeRow q .. | .transform q | .arbiter q => s.quayQuiet q
  | .harbourLine .. | .l2Line _ => true

/-- May the pending repair of a location be made now: at its quiet point, while no Manifest is loaded (R171, R500)? -/
def repairMayApply (s : State) (loc : RepairLoc) : Bool :=
  !s.manifest.enable && s.manifest.load.isNone && s.locQuiet loc

/-- A repair of the Quay is due (R513). -/
def repairDue (s : State) (q : QuayId) : Bool :=
  s.faults.pending.any fun p => quayOf p.1 = some q && s.repairMayApply p.1

/-- FAULT_FENCE.BERTHS (R514). -/
def fenceMap (s : State) : Word :=
  (List.finRange 8).foldl (fun m q => (List.finRange 4).foldl (fun m b =>
    if (s.berth q b).fenced then m ||| BitVec.ofNat 32 (2 ^ (4 * q.val + b.val)) else m) m) 0

end State

end Sys2Proof.Machine
end

