-- ==== Sys2Proof/Machine/Shake.lean ====
section
/-! DEFINITION. SHAKE256 (FIPS 202), which R70, R71, R82, R84, R86 and R89 name. The standard is outside the spec
(log entry 7). -/

namespace Sys2Proof

/-- The state of the sponge: 1,600 bits as 25 lanes, that of column x and row y at place x + 5 y. -/
abbrev Lanes := Vector (BitVec 64) 25

/-- The lane at a place. -/
def Lanes.lane (a : Lanes) (k : Nat) : BitVec 64 := (a[k]?).getD 0

/-- A feedback register of 8 bits, by x⁸ + x⁶ + x⁵ + x⁴ + 1, clocked `n` times from 1 on: the bits it gives. -/
def feedback : Nat → Nat → List Bool
  | 0, _ => []
  | n + 1, r => (r % 2 = 1) :: feedback n (if r < 128 then 2 * r else 2 * r ^^^ 0b1_0111_0001)

/-- Round `i` inverts bits 2ʲ − 1 of lane 0 where the bits 7 i + j of the register are set. -/
def roundMask (i : Nat) : BitVec 64 :=
  ((feedback 168 1).drop (7 * i)).zipIdx.foldl (fun m (b, j) => if b && j < 7 then m ||| 1 <<< (2 ^ j - 1) else m) 0

/-- The lanes but the first, along the walk from column x and row y to column y and row 2 x + 3 y: the place of
each, the place it moves to, and how far it rotates on the way, after `t` others. -/
def laneWalk : Nat → Nat → Nat → Nat → List (Nat × Nat × Nat)
  | 0, _, _, _ => []
  | n + 1, t, x, y =>
    let row := (2 * x + 3 * y) % 5
    (x + 5 * y, y + 5 * row, (t + 1) * (t + 2) / 2 % 64) :: laneWalk n (t + 1) y row

/-- A column's parity. -/
def columnParity (a : Lanes) (x : Nat) : BitVec 64 :=
  (List.range 5).foldl (fun p y => p ^^^ a.lane (x % 5 + 5 * y)) 0

/-- A round: parities of the neighbouring columns enter each lane, the lanes walk, each row is combined, and the round's
mask enters lane 0. -/
def spongeRound (a : Lanes) (i : Nat) : Lanes :=
  let mixed : Lanes := .ofFn fun k =>
    a[k] ^^^ columnParity a (k.val + 4) ^^^ (columnParity a (k.val + 1)).rotateLeft 1
  let moved := (laneWalk 24 0 1 0).foldl (fun b m => b.setIfInBounds m.2.1 ((mixed.lane m.1).rotateLeft m.2.2)) mixed
  .ofFn fun k =>
    let beside (d : Nat) := moved.lane (k.val / 5 * 5 + (k.val + d) % 5)
    moved[k] ^^^ (beside 2 &&& ~~~ beside 1) ^^^ if k.val = 0 then roundMask i else 0

/-- The permutation: 24 rounds. -/
def keccakF (a : Lanes) : Lanes := (List.range 24).foldl spongeRound a

/-- Eight bytes as a lane, least significant first. -/
def laneOf : List Byte → BitVec 64
  | [] => 0
  | b :: bs => BitVec.ofNat 64 (b.toNat + 256 * (laneOf bs).toNat)

/-- Exclusive-or one block of 136 bytes into the first 17 lanes. -/
def absorbBlock (a : Lanes) (block : List Byte) : Lanes :=
  keccakF (.ofFn fun i => a[i] ^^^ (if i.val < 17 then laneOf ((block.drop (8 * i.val)).take 8) else 0))

/-- Absorb whole blocks; the fuel is their number. -/
def absorb : Nat → Lanes → List Byte → Lanes
  | 0, a, _ => a
  | n + 1, a, bs => absorb n (absorbBlock a (bs.take 136)) (bs.drop 136)

/-- The 136 bytes that a state gives. -/
def squeezeBlock (a : Lanes) : List Byte :=
  (List.range 136).map fun i => BitVec.ofNat 8 ((a[i / 8]?).getD 0 >>> (8 * (i % 8))).toNat

/-- Squeeze `n` blocks. -/
def squeeze : Nat → Lanes → List Byte
  | 0, _ => []
  | n + 1, a => squeezeBlock a ++ squeeze n (keccakF a)

/-- The padding of SHAKE after `len` bytes. -/
def shakePad (len : Nat) : List Byte :=
  let k := 136 - len % 136
  if k = 1 then [0x9F] else 0x1F :: List.replicate (k - 2) 0 ++ [0x80]

/-- `n` bytes of SHAKE256 of a message. -/
def shake256 (message : List Byte) (n : Nat) : List Byte :=
  let m := message ++ shakePad message.length
  (squeeze ((n + 135) / 136) (absorb (m.length / 136) (.replicate 25 0) m)).take n

/-- The bytes of an ASCII label. -/
def asciiBytes (s : String) : List Byte := s.toList.map fun c => BitVec.ofNat 8 c.toNat

end Sys2Proof
end

