-- ==== Sys2Proof/Machine/ResetOps.lean ====
section
/-! DEFINITION. What each reset keeps and loses (R96–R100, R106), device lost (R508, R509). -/

namespace Sys2Proof.Machine.State

/-! ## AVSBus (R46–R49) -/

/-- Update the AVSBus master. -/
def setAvs (s : State) (a : Avs) : State := { s with env := { s.env with avs := a } }

/-- May a command go out now? No setpoint change while an island's clock is stretched (R48). -/
def avsMayGo (s : State) : AvsCmd → Bool
  | .voltageWrite _ => s.env.stretched.isEmpty
  | _ => true

/-- The first waiting command that may go out goes onto the idle bus; a setpoint is commanded as it goes. -/
def avsKick (s : State) : State :=
  let a := s.env.avs
  if a.sent then s else
  match a.queue.find? fun c => s.avsMayGo c.1 with
  | none => s
  | some c =>
    let setpoint := match c.1 with
      | .voltageWrite mv => mv
      | _ => a.setpoint
    (s.setAvs { a with setpoint, queue := c :: a.queue.erase c, sent := true }).send (.avs c.1)

/-- Put an AVSBus command behind those that wait. After a failure none is taken until the next host reset or cold
start (R49). -/
def avsIssue (s : State) (c : AvsCmd) : State :=
  if s.env.avs.stopped then s
  else (s.setAvs { s.env.avs with queue := s.env.avs.queue ++ [(c, 0)] }).avsKick

/-- Values that no event keeps and that no condition sets again by itself (R12, R394, R418, R470, R471): the last
heartbeat's number, the PTM measurement, a requested checkpoint. -/
def dropUnkept (s : State) : State :=
  { s with
    fwif := { s.fwif with beat := 0 }
    tide := { s.tide with ptmOffset := 0, ptmError := 0, ptmAt := none }
    recorder := { s.recorder with checkpoint := false } }

/-- A power state drops a requested key frame besides (R394); a Quay reset has no effect on sessions (R393). -/
def dropForPower (s : State) : State :=
  { s.dropUnkept with sessions := s.sessions.map fun x => { x with forceKey := false } }

/-- What a function reset and a device reset lose alike (R97, R106): queues, commands, contexts, the
Manifest, streams, sessions, triggers, stage 2 and its negotiation, the log and trace rings, record and
replay, the keep masks; locked regions but the boot hold are released (R319). No record is written. -/
def loseWork (s : State) : State :=
  let s := s.dropUnkept
  { s with
    ready := {}
    fwif := {}
    heart := { window := s.now.toNat / msTicks }
    queues := .replicate 256 {}
    flags := .replicate 1024 0
    ctxs := .replicate 256 {}
    flights := []
    sched := {}
    manifest := {}
    memhost := {}
    ports := .replicate 12 {}
    streams := .replicate 24 {}
    trigs := .replicate 12 {}
    sessions := .replicate 32 {}
    codecs := s.codecs.map fun u => { u with busy := false }
    deckOwner := .replicate 8 none
    recorder := {}
    keep := {}
    mem := s.mem.clear (windowBase + holdSize) (windowBase + windowSize)
    memctl := { s.memctl with chans := s.memctl.chans.map fun c =>
      { c with strict := c.strict.filter fun k => k ≠ .host && k ≠ .memtest, requests := [], attempts := 0, retried := none } }
    faults := { s.faults with writing := false }
    quays := s.quays.map fun y => { y with
      ready := false, resetting := false, resetHeld := false, resetAsked := false, shape := 0
      draining := false, pilotRunning := false, storeOwner := [], store := [], recoveryFence := false
      berths := y.berths.map fun b => { b with
        gated := true, waking := false, seq := .idle, tile := none, holdOwner := none
        weights := [], shadow := [], hold := [], tileNo := 0, passNo := 0, sfuPassNo := 0 } } }

/-- A function reset loses configuration space, its power state with it, and the HOSTIF registers besides (R96,
R106). -/
def loseConfig (s : State) : State :=
  { s with
    cfg := {}, hostif := {}, ltr := none
    env := { s.env with power := .d0, l12 := false, heldD3hot := false } }

/-- A cold start or a host reset (R96, R106): what is kept is the secure store, where a committed
change now takes effect (R76), and through a host reset the sticky AER status. Companion memory is
undefined; the locked window is empty. `now` in the outbox and the waiting commands are the model's. -/
def restart (s : State) (cold : Bool) : State :=
  let r : State := State.reset
  let s' : State := { r with
    part := s.part
    secure := { s.secure with
      v := s.secure.nextV, k := s.secure.nextK, ownerOnly := s.secure.nextOwnerOnly
      ownerSet := s.secure.nextOwnerSet, ownerHash := s.secure.nextOwnerHash }
    aer := if cold then {} else s.aer
    env := { suppliesUp := s.env.suppliesUp, por := s.env.por, mfgHold := s.env.mfgHold
             testen := s.env.testen, perstLow := s.env.perstLow, refclk := s.env.refclk
             thermalHold := s.env.thermalHold
             cells := if cold then 0 else s.env.cells, drives := if cold then none else s.env.drives
             avs := if cold then {} else
               { setpoint := s.env.avs.setpoint, confirmed := s.env.avs.confirmed } }
    seeds := s.seeds
    freeCount := s.freeCount
    outbox := s.outbox
    pending := s.pending }
  s'.forget 0 s.part.memory

/-- The start sequence begins at step 2 (R58, R61), and the regulator's slew is programmed (R46; log entry
101). -/
def beginStart (s : State) : State :=
  { s with boot := { s.boot with stage := .puf } }.avsIssue (.transRate 2500)

/-- A full field retraining or a retraining pause runs (R349). -/
def retraining (s : State) : Bool := s.memctl.chans.toList.any (·.retraining)

/-- Memory leaves retention: its channels re-centre the sampling phase and the reference voltage of each wire, from the
trained values on (R343; log entry 125). -/
def leaveRetention (s : State) : State :=
  let m := s.memctl
  { s with memctl := { m with
    retention := false, recentres := m.recentres + 1
    chans := .ofFn fun c => { m.chans[c] with
      wires := .ofFn fun w =>
        let v := Config.recentred m.recentres c.val w.val
        { (m.chans[c]).wires[w] with phase := v.1, reference := v.2 } } } }

/-- Memory leaves the retention it may be in. -/
def endRetention (s : State) : State := if s.memctl.retention then s.leaveRetention else s

/-- Start a function reset of a running device (R96): D3hot, a loss or neither is left. -/
def startFunctionReset (s : State) : State :=
  let s := s.loseWork.loseConfig.endRetention
  { s with env := { s.env with reset := .function, heldHalt := none, heldDeviceReset := false } }

/-- Start a device reset (R96). -/
def startDeviceReset (s : State) : State :=
  let s := s.loseWork
  { s with env := { s.env with reset := .device, heldDeviceReset := false } }

/-- The device is declared lost (R509, R519): one event, 0x4002 with the cause, is recorded where it can
be; the fence goes down, memory goes into retention, FAULT_N and AER signal. -/
def declareLost (s : State) (cause : BitVec 16) : State :=
  if s.lost then s else
  let e : Event := { reason := 0x4002, severity := .fatal, tide := s.now
                     detail := BitVec.ofNat 64 cause.toNat }
  let s := s.countFault .fatal
  let s := { s with
    lighthouse := { s.lighthouse with
      state := .lost, cause, tide := s.now, pendingLossRecord := some e }
    memctl := { s.memctl with retention := true }
    env := { s.env with faultN := true }
    quays := s.quays.map fun (y : Quay) => { y with recoveryFence := true } }
  s.sendAer .uncorrectableInternal

/-- The running image's header and body in the boot hold (R505), as long as its header says. -/
def runningImage (s : State) : List Byte :=
  let at_ := windowBase + if s.boot.runSlot = 0b10 then 0x20_0000 else 0
  s.mem.reads at_ (4096 + leNat (s.mem.reads (at_ + 0x14) 4))

/-- The Lighthouse's digest of the running image equals BOOT_RUN_DIGEST (R505); `misread` are the bytes that reach
its engine other than the boot hold stores them, by offset. -/
def digestMatches (s : State) (misread : List (Nat × Byte)) : Bool :=
  let image := s.runningImage.mapIdx fun i b => ((misread.find? fun e => e.1 = i).map (·.2)).getD b
  BitVec.ofNat 512 (leNat (shake256 image 64)) = s.boot.runDigest

/-- Does a function reset leave lost for this cause (R508)? -/
def leavesLost (s : State) (passed : BitVec 3) (misread : List (Nat × Byte)) : Bool :=
  match s.lighthouse.cause.toNat with
  | 0x4006 => 2 ≤ passed.toNat % 2 + passed.toNat / 2 % 2 + passed.toNat / 4 % 2 && s.digestMatches misread
  | 0x4003 => true
  | 0xC006 => !s.power.sagCore && !s.power.sagIo
  | _ => false

/-- The pair of the two lowest-numbered passing cores (R505). -/
def formPair (s : State) (passed : BitVec 3) : State :=
  let cores := (List.range 3).filter fun i => passed.getLsbD i
  { s with lighthouse := { s.lighthouse with
      passed
      coreA := BitVec.ofNat 2 (cores[0]?.getD s.lighthouse.coreA.toNat)
      coreB := BitVec.ofNat 2 (cores[1]?.getD s.lighthouse.coreB.toNat) } }

/-- A function reset arrives (R99, R511, R513, R486, R349). -/
def functionReset (s : State) (passed : BitVec 3) (misread : List (Nat × Byte)) : State :=
  if s.boot.stage ≠ .running then s.loseConfig
  else if s.lighthouse.state = .relaunching ∨ s.frozen ∧ !s.lost ∨ s.retraining ∧ !s.lost then
    { s with env := { s.env with heldFunctionReset := some (passed, misread) } }
  else if s.lost then
    let s := s.formPair passed
    if s.leavesLost passed misread then
      let s := { s with
        lighthouse := { s.lighthouse with state := .normal, completedAt := none }
        env := { s.env with faultN := false } }
      s.startFunctionReset
    else s.loseConfig
  else if s.env.reset = .function then s
  else s.startFunctionReset.ltrUpdate

/-- A held function or device reset goes on once nothing holds it (R486, R513, R349). -/
def releaseHeldReset (s : State) : State :=
  if s.lighthouse.state = .relaunching ∨ s.frozen ∧ !s.lost ∨ s.retraining ∧ !s.lost then s
  else match s.env.heldFunctionReset with
    | some (p, d) =>
      functionReset { s with env := { s.env with heldFunctionReset := none, heldDeviceReset := false } } p d
    | none => if s.env.heldDeviceReset && !s.lost then s.startDeviceReset.haltUpdate.ltrUpdate else s

/-- The Harbourmaster writes the loss record it could not write before (R511). -/
def writeLossRecord (s : State) : State :=
  match s.lighthouse.pendingLossRecord with
  | none => s
  | some e =>
    let s := { s with lighthouse := { s.lighthouse with pendingLossRecord := none } }
    let s := s.logEvent e
    if s.faults.active then s.faultPut e true else s.faultEvent e

end Sys2Proof.Machine.State
end

