-- ==== Sys2Proof/Machine/HaltOps.lean ====
section
/-! DEFINITION. Halting and releasing all queues, and the entry into and return from D3hot as shared
operations (R101–R104, R123–R125, R319, R343, R349). -/

namespace Sys2Proof.Machine.State

/-- The device runs: Customs is over and it is not lost (R509). -/
def alive (s : State) : Bool := s.running && !s.lost && s.env.suppliesUp && !s.env.perstLow

/-- Firmware runs: no re-launch and no function or device reset is in progress, and step 6 has not stopped
its clock (R96, R481, R504). -/
def fwUp (s : State) : Bool :=
  s.alive && s.lighthouse.state = .normal && s.env.reset = .none && !s.frozen

/-- A halt begins now, unless one holds already (R103, R123). -/
def haltFrom (s : State) : State :=
  if s.haltHolds then s else { s with hostif := { s.hostif with haltedAt := s.now } }

/-- PREEMPT is written 0 while HALT stays 1: what runs is no longer asked to stop (R124). -/
def stopAsking (s : State) : State :=
  { s with flights := s.flights.map fun (f : Flight) =>
      if f.phase = Phase.executing then { f with haltSuspended := false } else f }

/-- HALT is written 1 (R123, R124). -/
def haltOn (s : State) (preempt : Bool) : State :=
  let was := s.hostif
  let s := s.haltFrom
  let s := { s with hostif := { s.hostif with halt := true, preempt } }
  if !preempt then (if s.env.power = .d3hot then s else s.stopAsking).haltUpdate
  else if was.halt && was.preempt then s.haltUpdate else s.preemptAll

/-- The time halted is excluded from the deadline budget of every command that was eligible (R124, R141). -/
def creditHalt (s : State) : State :=
  { s with flights := s.flights.map fun (f : Flight) =>
      if f.eligible then { f with
        haltTicks := f.haltTicks + (s.now.toNat - max s.hostif.haltedAt.toNat f.eligibleAt.toNat) }
      else f }

/-- Suspended work goes on, and waits are evaluated again: at the release of a halt, and on return to D0
while no halt holds (R103, R123, R125). -/
def letGo (s : State) : State :=
  let s := s.creditHalt
  let s := { s with sched := { s.sched with haltSpans := (s.hostif.haltedAt, s.now) :: s.sched.haltSpans } }
  let s := s.resumeFlights (fun f => f.haltSuspended) fun f => { f with
    haltSuspended := false, resuming := f.phase ≠ .executing }
  s.rearmWaits.settle

/-- HALT is written 0 (R125). -/
def haltOff (s : State) (preempt : Bool) : State :=
  let h := s.hostif
  if !h.halt then { s with hostif := { h with preempt } } else
  let s := { s with hostif := { h with halt := false, preempt, halted := false } }
  if s.env.power = .d0 then s.letGo else s

/-- A write of HOSTIF_HALT_ALL (R122): during a device reset it is held until the reset completes. -/
def writeHalt (s : State) (halt preempt : Bool) : State :=
  if s.env.reset = .device then { s with env := { s.env with heldHalt := some (halt, preempt) } }
  else if halt then s.haltOn preempt else s.haltOff preempt

/-- The cache writes back its dirty lines and is left empty but for the locked regions (R319). -/
def flushCache (s : State) : State := s.updMem (·.dropLines fun _ => true)

/-- Entry into D3hot (R103, R104, R319, R338, R357 cause 6, R393); it waits while a channel retrains
(R349). -/
def enterD3hot (s : State) : State :=
  if s.memctl.chans.toList.any fun c => c.paused || c.retraining then
    { s with env := { s.env with heldD3hot := true } }
  else
    let s := s.haltFrom.stopStreams.dropForPower.idleSeqs
    let s := { s with env := { s.env with power := .d3hot, heldD3hot := false } }
    let s := s.preemptAll
    let s := ((s.suspendUnit 0).suspendUnit 1).suspendUnit 2
    let s := s.flushCache.gateQuays
    { s with memctl := { s.memctl with retention := true } }.ltrUpdate

/-- What waits for retraining to end (R349): an entry into D3hot, and a held reset. A reset that begins leaves no
command that executes (R122, R131). -/
def releaseHeld (s : State) : State :=
  let s := s.releaseHeldReset
  if s.env.heldD3hot && s.env.power = .d0 then s.enterD3hot else s

/-- An inbound request brings the device out of Slack water (R101, R117). -/
def wakeSlack (s : State) : State :=
  if s.env.power = .slackWater then
    { s with env := { s.env with power := .d0 } }.leaveRetention.ltrUpdate
  else s

/-- Start a device reset, or hold it (R96, R99, R349, R486, R513). -/
def requestDeviceReset (s : State) : State :=
  if !s.alive || s.env.reset ≠ .none then s
  else if s.lighthouse.state = .relaunching ∨ s.frozen ∨ s.retraining then
    { s with env := { s.env with heldDeviceReset := true } }
  else s.startDeviceReset.haltUpdate.ltrUpdate

/-- Start a Quay reset (R98, R171, R203): held while the Quay drains or is applied and while a repair of it is due
(R513; log entry 146), ignored on a Quay fenced whole. The command running on the Quay fails with 0x3003; a command that
restores onto it goes back to being suspended. -/
def startQuayReset (s : State) (q : QuayId) : State :=
  if !s.alive || s.frozen || s.env.reset ≠ .none || !s.quayEnabled q || s.quays[q].wholeFenced ||
      s.quays[q].resetting then s
  else if (match s.manifest.load with | some l => l.changed.contains q | none => false) || s.repairDue q then
    s.updQuay q ({ · with resetHeld := true, resetAsked := true })
  else
    let s := s.dropUnkept
    let s := s.updQuay q fun y => { y with resetting := true, resetHeld := false, resetAsked := true, ready := false }
    let s := s.flights.foldl (fun s f =>
      if !f.run.quays.contains q then s
      else if f.phase = .executing || f.phase = .lightering then
        (s.report { s.commandEvent f 0x3003 .contained 0 with
          level := 2, quay := BitVec.ofNat 8 q.val }).failQuiet f.q f.idx 0x3003
      else if f.phase = .restoring then
        (s.chargePhase f).updFlight f.q f.idx fun x => { x with
          phase := .suspended, phaseFrom := s.now, run := { x.run with quays := [] } }
      else s) s
    s.updQuay q fun y => { y with
      draining := false, pilotRunning := false, storeOwner := [], store := []
      berths := y.berths.map fun b => { b with
        seq := .idle, tile := none, holdOwner := none, weights := [], shadow := [], hold := []
        tileNo := 0, passNo := 0, sfuPassNo := 0, waking := false } }

/-- A Quay reset that was held is requested again (R171, R513). -/
def releaseQuayReset (s : State) (q : QuayId) : State :=
  if s.quays[q].resetHeld then
    (s.updQuay q ({ · with resetHeld := false, resetAsked := false })).startQuayReset q
  else s

end Sys2Proof.Machine.State
end

