-- ==== Sys2Proof/Machine/RecoveryOps.lean ====
section
/-! DEFINITION. The Lighthouse's recovery and loss, and the firmware's fatal stop, as shared operations
(R405, R407, R499, R504–R509). -/

namespace Sys2Proof.Machine.State

/-- The device is declared lost; a function reset that was held now meets the loss (R509, R513). -/
def loseDevice (s : State) (cause : BitVec 16) : State :=
  if s.lost then s else (s.declareLost cause).releaseHeldReset

/-- The fence of a re-launch (R504): sequencers finish no tile, and what was not released is discarded. -/
def placeRecoveryFence (s : State) : State :=
  { s with quays := s.quays.map fun (y : Quay) => { y with
      recoveryFence := true
      berths := y.berths.map fun (b : Berth) =>
        if b.tile.isSome then { b with tile := none, seq := .idle } else b } }

/-- Does a trigger come during a re-launch or within 1 s of its completion (R507)? -/
def triggerTooSoon (s : State) : Bool :=
  s.lighthouse.state = .relaunching || match s.lighthouse.completedAt with
    | some t => s.now.toNat < t.toNat + 1000 * msTicks
    | none => false

/-- A recovery trigger (R504, R507): the re-launch begins, the device is lost, or the start in progress is
over. `hold` is that an uncorrectable boot-hold error triggered it (R317). -/
def startRecovery (s : State) (hold : Bool) : State :=
  if s.lost || s.boot.stage = .reset || s.boot.stage = .halted then s
  else if s.boot.stage ≠ .running then s.bootHalt 0x4006 0
  else if s.triggerTooSoon then s.loseDevice 0x4006
  else
    let s := s.placeRecoveryFence
    { s with
      lighthouse := { s.lighthouse with state := .relaunching, step := 0, bootHoldError := hold }
      ready := { s.ready with ready := false } }

/-- Count a 0x1001 at a Berth column (R497, R499): at the third within the window a localising tile is
due. -/
def countColumn (s : State) (q : QuayId) (b : BerthId) (col : Fin 64) : State :=
  let f := s.faults
  let key := (q, b, col)
  let old := match f.columnCounts.find? fun c => c.1 = key with
    | some c => c.2.filter fun t => s.now.toNat < t.toNat + repairWindow
    | none => []
  let new := old ++ [s.now]
  let due := 3 ≤ new.length && !(f.localising.contains key)
  { s with faults := { f with
      columnCounts := (key, new) :: f.columnCounts.filter fun c => c.1 ≠ key
      localising := if due then f.localising ++ [key] else f.localising } }

/-- Discard every command in flight without a record (R97, R407). -/
def discardAll (s : State) : State :=
  let s := s.flights.foldl (fun s (f : Flight) => s.releaseUnits f.q f.idx) s
  { s with
    flights := []
    queues := s.queues.map fun (q : Queue) => { q with fetching := 0 } }

/-- A stage-2 page fails its check after READY (R407, R417, R130): firmware stops. -/
def stopFirmware (s : State) : State :=
  let s := s.discardAll
  let s := { s with
    ready := { s.ready with ready := false }
    fwif := { s.fwif with
      state := .failed, reason := 0x700E, negotiating := none
      reqGo := false, reqWork := none, reqUndo := none, reqOut := [] }
    memctl := { s.memctl with chans := s.memctl.chans.map fun (c : Channel) =>
      { c with strict := c.strict.filter (· ≠ StrictCause.memtest) } } }
  ((s.note 0x700E .fatal 0).sendAer .uncorrectableInternal).haltUpdate.ltrUpdate

end Sys2Proof.Machine.State
end

