-- ==== Sys2Proof/Machine/MemoryOps.lean ====
section
/-! DEFINITION. The Harbour cache and the memory controller (R314–R321, R329–R346): where an address
lies, and what each error does. -/

namespace Sys2Proof.Machine

/-! ## Where an address lies -/

/-- parity(v) of R332. -/
def parityOf (v : BitVec 36) : Bool := (List.range 36).foldl (fun p i => p ^^ v.getLsbD i) false

/-- The home bits (R332). -/
def isHomeBit (i : Nat) : Bool := 8 ≤ i && i ≤ 16

/-- A location in the stacks (R332). -/
structure Location where
  channel : Nat
  bank : Nat
  row : Nat
  column : Nat
  byte : Nat
  deriving DecidableEq, Repr

/-- locate(a) under masks (R332). -/
def locate (m : Masks) (a : Nat) : Location :=
  let v := BitVec.ofNat 36 a
  let bits (ms : List (BitVec 36)) : Nat :=
    ms.foldr (fun k n => 2 * n + if parityOf (v &&& k) then 1 else 0) 0
  let rest := ((List.range 28).map (· + 7)).filter fun i => !isHomeBit i
  let value (is : List Nat) : Nat := is.foldr (fun i n => 2 * n + a / 2 ^ i % 2) 0
  { channel := bits m.ch.toList, bank := bits m.bank.toList
    column := value (rest.take 3), row := value (rest.drop 3), byte := a % 128 }

/-- Fin of a channel number. -/
def chanId (n : Nat) : ChanId := Fin.ofNat 32 n

/-- MEMCTL_UERR_INFO.SOURCE (R350). -/
def agentCode : Agent → Nat
  | .berthDma _ _ => 0
  | .quayDma _ => 0
  | .pipe _ => 1
  | .encoder _ => 2
  | .decoder => 3
  | .deck _ => 4
  | .pcie => 5
  | .harbourmaster => 6

/-- The CRC-16 of a phase (R330): generator 0x1021, initial value 0xFFFF, over its bits in wire order. -/
def crc16 (bits : List Bool) : BitVec 16 :=
  bits.foldl (fun (c : BitVec 16) b => if (c.msb ^^ b) then (c <<< 1) ^^^ 0x1021 else c <<< 1) 0xFFFF

/-- The bits of unit intervals in wire order, wire 0 first within each. -/
def wireBits (intervals : List Byte) : List Bool :=
  intervals.flatMap fun u => (List.range 8).map u.getLsbD

/-- The command phase of a request, its 48 bits six to a wire (R330): direction, bank, row and column, from bit 0 up (log
entry 126). -/
def commandBits (m : Masks) (r : MemReq) : BitVec 48 :=
  let l := locate m r.addr
  BitVec.ofNat 48 ((if r.write then 1 else 0) + 2 * l.bank + 2 ^ 5 * l.row + 2 ^ 21 * l.column)

/-- Does a phase arrive with the CRC that its sender put behind it, when the wires invert `flips` of its bits and
`crcFlips` of its CRC (R330, R331)? -/
def arrives (sent flips : List Byte) (crcFlips : BitVec 16) : Bool :=
  crc16 (wireBits (sent.zipWith (· ^^^ ·) flips)) = crc16 (wireBits sent) ^^^ crcFlips

/-- The user number a locked unit codes an agent as (R350); 0 for an agent that owns none. -/
def userCode : Agent → Nat
  | .pipe p => p.val + 1
  | .encoder _ => 5
  | .decoder => 6
  | .harbourmaster => 7
  | _ => 0

namespace State

/-- The Harbour cache and the controller serve: trained, powered, out of retention, their clocks on. -/
def memoryUp (s : State) : Bool :=
  s.env.suppliesUp && !s.env.perstLow && s.memctl.trained && !s.memctl.retention && !s.frozen && !s.lost

/-- The user of a unit of the window: the boot hold is 8 (R321, R350). -/
def unitOwner (s : State) (u : Nat) : Nat :=
  if u < 16 then 8 else (s.memhost.lockUser[u]?.map BitVec.toNat).getD 0

/-- Is a way of a set locked (R320)? -/
def wayLocked (s : State) (way set : Nat) : Bool :=
  8 ≤ way && s.unitOwner (lockedUnit way set) ≠ 0

/-! ## Codes of a command or of none -/

/-- The event of a code that names a command, if one is concerned. -/
def eventFor (s : State) (command : Option (QueueId × Word)) (reason : BitVec 16) (sev : Severity) :
    Event :=
  match command.bind fun c => s.flight? c.1 c.2 with
  | some f => s.commandEvent f reason sev 0
  | none => { reason, severity := sev }

/-- End the command a fault is charged to, without a second record. -/
def failFor (s : State) (command : Option (QueueId × Word)) (reason : BitVec 16) : State :=
  match command with
  | some (q, idx) => match s.flight? q idx with
    | some f => if f.ended then s else s.failQuiet q idx reason
    | none => s
  | none => s

/-- A later read of a poisoned line (R317, R345): the command fails with 0x4012. -/
def readPoisoned (s : State) (command : Option (QueueId × Word)) : State :=
  match command with
  | some (q, idx) => match s.flight? q idx with
    | some f => if f.ended then s else s.fail q idx 0x4012
    | none => s
  | none => s

/-! ## Harbour cache errors (R317) -/

/-- What is known of the line an error lies in. -/
inductive LineKind where
  | clean | dirty | locked | bootHold
  deriving DecidableEq, Repr

/-- Count a Harbour event at its line towards self-repair (R498). -/
def countLine (s : State) (slice way set weight : Nat) (code : BitVec 16) : State :=
  s.countRepair (.harbourLine (Fin.ofNat 32 slice) (Fin.ofNat 16 way) (Fin.ofNat 512 set)) weight code

/-- Do the phases of a request arrive (R331)? The data phase carries the 128 bytes of its line, and the read of a line
that the stacks hold poisoned carries what they hold. -/
def phasesGood (s : State) (r : MemReq) (p : DataPhase) : Bool :=
  arrives (leBytes 6 (commandBits s.memctl.masks r).toNat) (leBytes 6 p.command.toNat) p.commandCrc &&
  arrives (s.mem.reads (lineOf r.addr * 128) 128) p.intervals p.crc

/-- A line is poisoned: counted, the first one captured (R350). -/
def poisonHarbour (s : State) (slice way set line : Nat) : State :=
  let h := s.harbour
  let h := { h with poisonedCount := satInc h.poisonedCount }
  let h := if h.errValid then h else { h with
    errValid := true, errSlice := BitVec.ofNat 5 slice, errWay := BitVec.ofNat 4 way
    errSet := BitVec.ofNat 9 set }
  { s with harbour := h, mem := s.mem.spoil line }

/-- A line whose only good copy is lost: it is poisoned, logged and counted (R317, R326). -/
def lineLost (s : State) (slice way set line : Nat) (command : Option (QueueId × Word)) : State :=
  let s := s.poisonHarbour slice way set line
  let s := s.report { s.eventFor command 0x4012 .contained with counted := true }
  s.countLine slice way set 3 0x4012

/-- Act on what the ECC of a line read finds (R317). -/
def harbourEcc (s : State) (slice way set line : Nat) (kind : LineKind) (ecc : EccResult)
    (command : Option (QueueId × Word)) : State :=
  match ecc, kind with
  | .ok, _ => s
  | .corrected, _ =>
    let s := { s with harbour := { s.harbour with corrected := satInc s.harbour.corrected } }
    (s.reportLimited (markKey 0x4010 slice)
      { reason := 0x4010, severity := .corrected, counted := true }).countLine slice way set 1 0x4010
  | .uncorrectable, .clean =>
    let s := { s with
      harbour := { s.harbour with refetched := satInc s.harbour.refetched }, mem := s.mem.refetch line }
    let s := (s.reportLimited (markKey 0x4011 slice)
      { reason := 0x4011, severity := .corrected, counted := true }).countLine slice way set 1 0x4011
    if s.mem.bad line then s.readPoisoned command else s
  | .uncorrectable, .bootHold => (s.poisonHarbour slice way set line).startRecovery true
  | .uncorrectable, _ =>
    (s.lineLost slice way set line command).failFor command 0x4012

/-- The dirty lines that turn out uncorrectable as the cache writes them back: each is written back poisoned (R326). -/
def writeBackBad (s : State) (bad : List Nat) : State :=
  bad.foldl (fun s n => match s.mem.held n with
    | some l => if l.dirty && !l.bad then s.lineLost l.slice l.way l.set n none else s
    | none => s) s

/-! ## Memory errors (R342–R346) -/

/-- A cause of strict mode begins on a channel; a marked one logs 0x9003 (R336). -/
def enterStrict (s : State) (c : ChanId) (cause : StrictCause) (marked : Bool) : State :=
  if (s.memctl.chans[c]).strict.contains cause then s
  else
    let s := s.updChan c fun x => { x with strict := cause :: x.strict }
    if marked then s.note 0x9003 .information 0 else s

/-- A cause of strict mode ends on a channel. -/
def leaveStrict (s : State) (c : ChanId) (cause : StrictCause) : State :=
  s.updChan c fun x => { x with strict := x.strict.filter (· ≠ cause) }

/-- Full field retraining of a channel begins (R342). -/
def startFieldRetrain (s : State) (c : ChanId) : State :=
  if (s.memctl.chans[c]).retraining then s
  else (s.updChan c fun x => { x with retraining := true, attempts := 0, retried := none, failedPeriods := 0 }).enterStrict c
    .fullRetrain true

/-- A read finds a burst uncorrectable for the first time (R345): counted, captured, poisoned, in strict
mode; its command fails with 0x9001. -/
def memUncorrectable (s : State) (addr source : Nat) (command : Option (QueueId × Word)) : State :=
  let l := locate s.memctl.masks addr
  let c := chanId l.channel
  let m := s.memctl
  let m := if m.uerrValid then m else { m with
    uerrValid := true, uerrSource := BitVec.ofNat 4 source, uerrBank := BitVec.ofNat 4 l.bank
    uerrChannel := BitVec.ofNat 5 l.channel, uerrAddr := BitVec.ofNat 35 (addr / 128 * 128) }
  let s := { s with memctl := m, mem := s.mem.setPoison (lineOf addr) true }
  let s := s.updChan c fun x => { x with uncorr := satInc x.uncorr, lastUncorr := s.now }
  let s := s.report (s.eventFor command 0x9001 .contained)
  (s.enterStrict c .uncorrectable true).failFor command 0x9001

/-- A burst is corrected by on-die ECC (R344). -/
def memCorrected (s : State) (addr : Nat) : State :=
  let c := chanId (locate s.memctl.masks addr).channel
  (s.updChan c fun x => { x with corrected := satInc x.corrected }).reportLimited
    (markKey 0x9005 c.val) { reason := 0x9005, severity := .corrected }

/-- The command whose read of a line waits at the controller. -/
def readerOf (s : State) (addr : Nat) : Option (QueueId × Word) :=
  (s.memctl.chans[chanId (locate s.memctl.masks addr).channel]).requests.findSome? fun (e : Waiting) =>
    if !e.req.write && !e.req.prefetch && lineOf e.req.addr = lineOf addr then e.req.command else none

/-- What a read of a burst finds, poison known before included (R344, R345). -/
def memRead (s : State) (addr source : Nat) (result : EccResult) (command : Option (QueueId × Word)) :
    State :=
  if s.mem.poison.contains (lineOf addr) then s.readPoisoned command
  else match result with
    | .ok => s
    | .corrected => s.memCorrected addr
    | .uncorrectable => s.memUncorrectable addr source command

/-- A read of the scrubber or of a memory test: a burst that holds poison is passed over, and one that it finds
uncorrectable names the command whose read waits for it (R346, R349, R417). -/
def testRead (s : State) (addr source : Nat) (result : EccResult) : State :=
  if s.mem.poison.contains (lineOf addr) then s
  else s.memRead addr source result (if result = .uncorrectable then s.readerOf addr else none)

end State

end Sys2Proof.Machine
end

