-- ==== Sys2Proof/Machine/PcieOps.lean ====
section
/-! DEFINITION. Configuration space and BAR4 (R110–R113, R128–R132): what the host reads and writes there. The
registers are named, and laid out within, as the PCIe Base specification has them (log entry 12). -/

namespace Sys2Proof.Machine

/-- One bit at its place. -/
def bitAt (i : Nat) (b : Bool) : Nat := if b then 2 ^ i else 0

/-- The BAR2 sizes that the capability advertises (R112, R113): bit i stands for 2^(20 + i) bytes. -/
def rebarSizes : Nat := ((List.range 9).map fun i => 2 ^ (8 + i)).sum

/-- log2 of the size of a BAR (R112). -/
def barLog2 (s : State) (n : Nat) : Nat := if n = 0 then 24 else if n = 1 then s.cfg.rebar else 16

/-- What the BAR of 64-bit BAR pair `n` shows: its base, aligned to its size, with its type in the low bits. -/
def barShown (s : State) (n : Nat) : Nat :=
  let base := (s.cfg.bars[n]?.getD 0).toNat
  base / 2 ^ barLog2 s n * 2 ^ barLog2 s n + (if n = 1 then 0xC else 0x4)

namespace State

/-- Configuration requests are answered from link-up (R60), and not while a function reset runs (R96). -/
def configAnswers (s : State) : Bool := s.env.suppliesUp && s.env.linkUp && s.env.reset ≠ .function

/-- A configuration register (R110–R113, R130–R132): a PCI Express endpoint without PME, D1 and D2, with ASPM L1 and
its substates L1.1 and L1.2 and 70 µs to leave them. Capabilities that R111 does not list are absent; the capability
lists' own offsets are not the manual's. -/
def readConfig (s : State) (r : CfgReg) : Word :=
  let c := s.cfg
  let v : Nat := match r with
    | .vendorDevice => 0x0E48_1D5F
    | .command => bitAt 1 c.memEnable + bitAt 2 c.busMaster + bitAt 20 true
    | .revisionClass => 0x1200_00B0
    | .headerType => 0
    | .bar n => let v := barShown s (n.val / 2)
                if n.val % 2 = 0 then v % 2 ^ 32 else v / 2 ^ 32
    | .subsystem => s.part.code.toNat * 0x1_0000 + 0x1D5F
    | .interruptPin => 0
    | .powerCap => 0x0003_0001
    | .powerControl => bitAt 3 true + (if s.env.power = .d3hot then 3 else 0)
    | .expressCap => 0x0002_0010
    | .deviceCap => 2 + bitAt 28 true
    | .deviceControl => c.maxPayload.toNat * 32 + c.maxRead.toNat * 0x1000
    | .linkCap => 5 + 8 * 2 ^ 4 + bitAt 11 true + 7 * 2 ^ 15 + bitAt 18 true
    | .linkControl => c.aspm.toNat
    | .deviceCap2 => 0xF + bitAt 4 true + bitAt 11 true + bitAt 16 true + bitAt 17 true
    | .deviceControl2 => c.ctoValue.toNat + bitAt 4 c.ctoDisable + bitAt 10 c.ltrEnable + bitAt 12 c.tag10Enable
    | .msixControl => 127 * 0x1_0000 + bitAt 30 c.msixFunctionMask + bitAt 31 c.msixEnable
    | .msixTable => 4
    | .msixPba => 0x8004
    | .aerStatus => bitAt 12 s.aer.poisoned + bitAt 14 s.aer.completionTimeout +
        bitAt 15 s.aer.completerAbort + bitAt 20 s.aer.unsupported + bitAt 22 s.aer.internal
    | .aerMask => s.aer.mask.toNat
    | .aerSeverity => s.aer.severity.toNat
    | .aerControl => s.aer.first.toNat + bitAt 5 true + bitAt 6 s.aer.ecrcGenerate + bitAt 7 true +
        bitAt 8 s.aer.ecrcCheck
    | .headerLog n => s.aer.header.toNat / 2 ^ (32 * n.val)
    | .serialLo => s.boot.serial.toNat
    | .serialHi => s.boot.serial.toNat / 2 ^ 32
    | .rebarCap => rebarSizes * 16
    | .rebarControl => 2 + 0x20 + (c.rebar - 20) * 0x100
    | .ptmCap => 1 + 4 * 0x100
    | .ptmControl => bitAt 0 c.ptmEnable + c.ptmGranularity.toNat * 0x100
    | .substatesCap => bitAt 2 true + bitAt 3 true + bitAt 4 true + bitAt 16 true + 7 * 2 ^ 19
    | .substatesControl => c.substates.toNat * 4
  BitVec.ofNat 32 v

/-- A 4-byte read of BAR4 (R112): the MSI-X table, and the PBA at 0x8000. -/
def readBar4 (s : State) (off : Nat) : Word :=
  if off < 0x800 then
    match s.cfg.table[off / 16]? with
    | some e => match off % 16 / 4 with
      | 0 => BitVec.ofNat 32 e.addr.toNat
      | 1 => BitVec.ofNat 32 (e.addr.toNat / 2 ^ 32)
      | 2 => e.data
      | _ => BitVec.ofNat 32 (bitAt 0 e.masked)
    | none => 0
  else if 0x8000 ≤ off && off < 0x8010 then
    BitVec.ofNat 32 ((List.range 32).map fun i =>
      bitAt i (s.cfg.pba[(off - 0x8000) / 4 * 32 + i]?.getD false)).sum
  else 0

/-- Update the configuration. -/
def setCfg (s : State) (f : PcieCfg → PcieCfg) : State := { s with cfg := f s.cfg }

/-- The halves of a 64-bit base. -/
def halfOf (a : BitVec 64) (hi : Bool) (v : Word) : BitVec 64 :=
  if hi then BitVec.ofNat 64 (a.toNat % 2 ^ 32 + v.toNat * 2 ^ 32)
  else BitVec.ofNat 64 (a.toNat / 2 ^ 32 * 2 ^ 32 + v.toNat)

/-- A new BAR2 size is taken (R113). The field of the Resizable BAR Control register admits the nine sizes. -/
def resizeBar2 (s : State) (log2 : Nat) : State :=
  if 28 ≤ log2 && log2 ≤ 36 then s.setCfg ({ · with rebar := log2 }) else s

/-- A 4-byte write of a configuration register. Memory Space Enable brings a new BAR2 size into force (R113);
unmasking MSI-X sends what is pending (R129); a capability that is switched on reports the LTR state (R131). A
write of the power state is D3HOT_ENTRY or D0_RETURN, and Initiate Function Level Reset is FUNCTION_LEVEL_RESET. -/
def writeConfig (s : State) (r : CfgReg) (v : Word) : State :=
  match r with
  | .command =>
    let s' := s.setCfg ({ · with memEnable := v.getLsbD 1, busMaster := v.getLsbD 2 })
    if v.getLsbD 1 && !s.cfg.memEnable then { s' with hostif := { s'.hostif with bar2Log2 := s.cfg.rebar } } else s'
  | .bar n => s.setCfg fun c => { c with
      bars := c.bars.setIfInBounds (n.val / 2) (halfOf ((c.bars[n.val / 2]?).getD 0) (n.val % 2 = 1) v) }
  | .deviceControl => s.setCfg ({ · with
      maxPayload := BitVec.ofNat 3 (v.toNat / 32), maxRead := BitVec.ofNat 3 (v.toNat / 0x1000) })
  | .deviceControl2 =>
    (s.setCfg ({ · with
      ctoValue := BitVec.ofNat 4 v.toNat, ctoDisable := v.getLsbD 4, ltrEnable := v.getLsbD 10
      tag10Enable := v.getLsbD 12 })).ltrUpdate
  | .msixControl => (s.setCfg ({ · with msixFunctionMask := v.getLsbD 30, msixEnable := v.getLsbD 31 })).flushMsix
  | .aerStatus => { s with aer := { s.aer with
      poisoned := s.aer.poisoned && !v.getLsbD 12
      completionTimeout := s.aer.completionTimeout && !v.getLsbD 14
      completerAbort := s.aer.completerAbort && !v.getLsbD 15
      unsupported := s.aer.unsupported && !v.getLsbD 20
      internal := s.aer.internal && !v.getLsbD 22 } }
  | .aerMask => { s with aer := { s.aer with mask := v } }
  | .aerSeverity => { s with aer := { s.aer with severity := v } }
  | .aerControl => { s with aer := { s.aer with ecrcGenerate := v.getLsbD 6, ecrcCheck := v.getLsbD 8 } }
  | .linkControl => s.setCfg ({ · with aspm := BitVec.ofNat 2 v.toNat })
  | .substatesControl => s.setCfg ({ · with substates := BitVec.ofNat 2 (v.toNat / 4) })
  | .rebarControl => s.resizeBar2 (v.toNat / 0x100 % 64 + 20)
  | .ptmControl => s.setCfg fun c => { c with
      ptmEnable := v.getLsbD 0, ptmGranularity := BitVec.ofNat 8 (v.toNat / 0x100)
      ptmSent := if v.getLsbD 0 then c.ptmSent else none }
  | .vendorDevice | .revisionClass | .headerType | .subsystem | .interruptPin | .powerCap | .powerControl | .expressCap
  | .deviceCap | .linkCap | .deviceCap2 | .msixTable | .msixPba | .headerLog _ | .serialLo | .serialHi | .rebarCap
  | .ptmCap | .substatesCap => s

/-- A 4-byte write of BAR4 (R112, R129): the MSI-X table; the PBA is read-only. -/
def writeBar4 (s : State) (off : Nat) (v : Word) : State :=
  if 0x800 ≤ off then s else
  (s.setCfg fun c => { c with table := match c.table[off / 16]? with
    | none => c.table
    | some e => c.table.setIfInBounds (off / 16) (match off % 16 / 4 with
      | 0 => { e with addr := halfOf e.addr false v }
      | 1 => { e with addr := halfOf e.addr true v }
      | 2 => { e with data := v }
      | _ => { e with masked := v.getLsbD 0 }) }).flushMsix

end State

end Sys2Proof.Machine
end

