-- ==== Sys2Proof/Machine/BootOps.lean ====
section
/-! DEFINITION. Customs (R65–R90): boot images, slots, tokens and the report. -/

namespace Sys2Proof.Machine

/-! ## The secure store (R82, R83) -/

/-- The number of an item in the table of R83. -/
def itemNumber : StoreItem → Nat
  | .helper => 1 | .rollback => 2 | .minver => 3 | .repairMap => 4 | .certificate => 5
  | .counters => 6

/-- An item is lost: neither copy's tag holds (R83). -/
def Secure.lost (x : Secure) (i : StoreItem) : Bool :=
  match x.copies[itemNumber i - 1]? with
  | some pair => !(pair[0]) && !(pair[1])
  | none => false

/-- A stage reads some items and finds the tags of some copies not to hold (R83; log entry 99). -/
def Secure.tested (x : Secure) (read : List StoreItem) (bad : BadCopies) : Secure :=
  { x with copies := bad.foldl (fun v b =>
      if read.contains b.1 then
        match v[itemNumber b.1 - 1]? with
        | some pair => v.setIfInBounds (itemNumber b.1 - 1) (pair.set b.2.val false)
        | none => v
      else v) x.copies }

/-- An item is written: both its copies are new, with tags that hold (R82). -/
def Secure.written (x : Secure) (i : StoreItem) : Secure :=
  { x with copies := x.copies.setIfInBounds (itemNumber i - 1) (.replicate 2 true) }

/-- The secure store as the device sees it: a lost item reads as R83 states. -/
def Secure.seen (x : Secure) : Secure :=
  let x := if x.lost .rollback then
      { x with v := true, k := true, ownerOnly := true, ownerSet := false, ownerHash := 0 }
    else x
  let x := if x.lost .minver then { x with minver := 0xFFFF_FFFF, debugCount := 0xFFFF_FFFF } else x
  let x := if x.lost .repairMap then { x with repairMap := [] } else x
  let x := if x.lost .certificate then { x with certificate := [] } else x
  if x.lost .counters then { x with counters := .replicate 16 0xFFFF_FFFF_FFFF_FFFF } else x

/-- STAGE as R93 encodes it. -/
def stageCode : Stage → Nat
  | .reset => 0 | .puf => 1 | .bist => 2 | .training => 3 | .align => 4 | .windowOpen => 5
  | .checking => 6 | .keys => 7 | .running => 8 | .halted => 9

/-- The stages the Lighthouse times (R59). -/
def stageTimed : Stage → Bool
  | .puf | .bist | .training | .align | .checking | .keys => true
  | _ => false

/-- No byte but zero in [lo, hi). -/
def Memory.zeroes (m : Memory) (lo hi : Nat) : Bool :=
  m.cells.all fun c => c.1 < lo || hi ≤ c.1 || c.2 = 0

/-- The level sizes of a hash tree over n pages, summed (R71); the fuel bounds the levels. -/
def treeNodes : Nat → Nat → Nat
  | 0, _ => 0
  | f + 1, n => if n = 0 then 0 else if n = 1 then 1 else n + treeNodes f ((n + 1) / 2)

/-- A boot image header (R68). -/
structure ImageHeader where
  signer : Byte
  version : Word
  body : Nat
  entry : Nat
  treeOffset : Nat
  pages : Nat
  deriving DecidableEq, Repr

/-- What parsing finds in a slot (R72). -/
inductive SlotParse where
  | absent | malformed | eligible (h : ImageHeader)
  deriving DecidableEq, Repr

/-- A little-endian field of `n` bytes. -/
def Memory.field (m : Memory) (a n : Nat) : Nat := leNat (m.reads a n)

/-- A signature block is one of R69: the reserved bytes are zero and the length is in range. -/
def Memory.sigBlockOk (m : Memory) (sig : Nat) : Bool :=
  let n := m.field (sig + 0x800) 2
  m.zeroes (sig + 0x701) (sig + 0x800) && 1 ≤ n && n ≤ 1280 && m.zeroes (sig + 0x802 + n) (sig + 0x1000)

/-- Parse the slot at a device physical address (R68, R69, R71, R72). -/
def parseSlot (m : Memory) (at_ : Nat) : SlotParse :=
  let f := fun off n => m.field (at_ + off) n
  if f 0 4 ≠ 0x4942_4A4F then .absent else
  let body := f 0x14 4
  let pages := f 0x24 4
  let tree := f 0x1C 4
  let treeLen := f 0x20 4
  let sig := at_ + 4096 + body
  let header := f 0x04 2 = 1 && f 0x06 2 = 0x1000 && f 0x08 4 = 0xB && f 0x0C 1 ≤ 1 && f 0x0D 3 = 0 &&
    body % 4096 = 0 && 4096 ≤ body && body ≤ 2088960 &&
    f 0x18 4 % 4 = 0 && f 0x18 4 < body && tree % 64 = 0 && pages ≤ 8192 &&
    treeLen = 32 * treeNodes 16 pages && f 0x28 8 = 0 && (pages ≠ 0 || f 0x30 32 = 0) &&
    m.zeroes (at_ + 0x50) (at_ + 0x1000)
  if header && tree + treeLen ≤ body &&
      (pages = 0 || m.field (at_ + 4096 + tree + treeLen - 32) 32 = f 0x30 32) &&
      m.sigBlockOk sig then
    .eligible { signer := BitVec.ofNat 8 (f 0x0C 1), version := BitVec.ofNat 32 (f 0x10 4), body
                entry := f 0x18 4, treeOffset := tree, pages }
  else .malformed

/-! ## Hashes and signatures (R70, R71) -/

/-- A leaf of the stage-2 hash tree (R71). -/
def treeLeaf (i : Nat) (page : List Byte) : List Byte := shake256 ([0x00] ++ leBytes 4 i ++ page) 32

/-- The node over two nodes (R71). -/
def treeNode (left right : List Byte) : List Byte := shake256 ([0x01] ++ left ++ right) 32

/-- The level above a level: an odd last node passes up unchanged (R71). -/
def treeUp : List (List Byte) → List (List Byte)
  | a :: b :: rest => treeNode a b :: treeUp rest
  | l => l

/-- The levels of the tree over some leaves, leaves first; the fuel bounds the levels (R71). -/
def treeLevels : Nat → List (List Byte) → List (List (List Byte))
  | 0, _ => []
  | f + 1, l => if l.length ≤ 1 then [l] else l :: treeLevels f (treeUp l)

/-- What R70 says of a signed message, whether an image or a token: its digest D, the digest of SIGNER_KEY, and
whether SIGNATURE verifies. -/
structure Signed where
  digest : BitVec 512
  keyDigest : BitVec 512
  sigHolds : Bool
  deriving DecidableEq, Repr

/-- R70 on a message and its signature block, as bytes. -/
def verifySigned (message block : List Byte) : Signed :=
  let d := shake256 message 64
  let key := block.take 1793
  let n := leNat ((block.drop 0x800).take 2)
  { digest := BitVec.ofNat 512 (leNat d)
    keyDigest := BitVec.ofNat 512 (leNat (shake256 key 64))
    sigHolds := Config.falconVerify key d ((block.drop 0x802).take n) }

/-- R70 on `n` bytes of memory whose signature block is at `sig`. -/
def Memory.verify (m : Memory) (a n sig : Nat) : Signed := verifySigned (m.reads a n) (m.reads sig 4096)

/-- The key of a slot or token is accepted (R70): the vendor root key, or the registered owner key. -/
def keyAccepted (st : Secure) (signer : Byte) (keyDigest : BitVec 512) : Bool :=
  if signer = 0 then keyDigest = Config.vendorRoot else st.ownerSet && keyDigest = st.ownerHash

/-- The signer is permitted (R73, test 2). -/
def signerPermitted (st : Secure) (signer : Byte) : Bool :=
  (signer ≠ 1 || st.ownerSet) && (!st.ownerOnly || signer = 1)

/-- BOOT_SLOT_x of one slot (R73, R94). -/
def judgeSlot (st : Secure) (p : SlotParse) (c : Signed) : Slot :=
  match p with
  | .absent => { state := 0b01 }
  | .malformed => { state := 0b10, reason := 0x7002 }
  | .eligible h =>
    let sigOk := keyAccepted st h.signer c.keyDigest && c.sigHolds
    let versionOk := !st.v || st.minver.toNat ≤ h.version.toNat
    let intact := !st.lost .rollback && !st.lost .minver
    let reason : BitVec 16 :=
      if !intact then 0x700C
      else if !signerPermitted st h.signer then 0x7007
      else if !sigOk then 0x7005
      else if !versionOk then 0x7006
      else 0x0000
    { state := 0b11, reason, passed := reason = 0, sigOk, versionOk, signer := h.signer
      version := h.version, digest := c.digest }

/-- R70 on the slot that parsing found an image in. -/
def verifySlot (m : Memory) (at_ : Nat) : SlotParse → Signed
  | .eligible h => m.verify at_ (4096 + h.body) (at_ + 4096 + h.body)
  | _ => ⟨0, 0, false⟩

/-! ## Keys (R84, R85) -/

/-- The bytes of the PUF seed. -/
def seedBytes (seed : BitVec 256) : List Byte := leBytes 32 seed.toNat

/-- The store key (R84): the keel ROM's alone. -/
def storeKey (seed : BitVec 256) : List Byte := shake256 (asciiBytes "OJQ8-STORE" ++ seedBytes seed) 32

/-- The device key pair (R84), public half first. -/
def deviceKeys (seed : BitVec 256) : List Byte × List Byte :=
  Config.falconKeys (asciiBytes "OJQ8-DEVKEY" ++ seedBytes seed)

/-- The device's identity: SHAKE256 of its public key (R89, R120). -/
def deviceIdentity (seed : BitVec 256) : List Byte := shake256 (deviceKeys seed).1 64

/-- FK(v) (R84). -/
def rootKey (seed : BitVec 256) (signer : Byte) (owner : BitVec 512) (v : Nat) : List Byte :=
  shake256 (asciiBytes "OJQ8-FWKEY" ++ seedBytes seed ++ [signer] ++ leBytes 64 owner.toNat ++ leBytes 4 v) 32

/-- The sealing key under a firmware root key (R84). -/
def sealingKey (root : List Byte) : List Byte := shake256 (asciiBytes "OJQ8-SEAL" ++ root) 32

/-- The owner input O of R84. -/
def ownerInput (st : Secure) (signer : Byte) : BitVec 512 := if signer = 1 then st.ownerHash else 0

/-- A debug token is accepted (R90): `bytes` are its 0x50 bytes and its signature block. Without a seed no
identity is this device's (R62), and a lost item 3 admits none (R83). One with other values than R89's in its other fields is
refused (log entry 131). -/
def tokenAccepted (st : Secure) (seed : Option (BitVec 256)) (bytes : List Byte) : Bool :=
  let f := fun off n => leNat ((bytes.drop off).take n)
  let signer := BitVec.ofNat 8 (f 6 1)
  let block := bytes.drop 0x50
  let n := leNat ((block.drop 0x800).take 2)
  let c := verifySigned (bytes.take 0x50) block
  let zero := fun (l : List Byte) => l.all (· = 0)
  bytes.length = 0x1050 && f 0 4 = 0x5444_4A4F && f 4 2 = 1 && signer.toNat ≤ 1 && f 7 1 < 8 && f 0xC 4 = 0 &&
  zero ((block.drop 0x701).take 255) && 1 ≤ n && n ≤ 1280 && zero (block.drop (0x802 + n)) &&
  keyAccepted st signer c.keyDigest && c.sigHolds && signerPermitted st signer &&
  f 8 4 = st.debugCount.toNat && !st.lost .minver &&
  (match seed with
   | some x => (bytes.drop 0x10).take 64 = deviceIdentity x
   | none => false)

/-- The slot that runs and whether it passes (R77): `false` is slot A. -/
def selectSlot (a b : Slot) : Option (Bool × Bool) :=
  let elig (x : Slot) := x.state = 0b11
  if !elig a && !elig b then none
  else if a.passed && b.passed then some (decide (a.version.toNat < b.version.toNat), true)
  else if a.passed then some (false, true)
  else if b.passed then some (true, true)
  else if !elig a then some (true, false)
  else if !elig b then some (false, false)
  else some (decide (a.version.toNat < b.version.toNat), false)

namespace State

/-- BOOT_STATUS (R92). -/
def bootStatus (s : State) : Nat :=
  let b := s.boot
  stageCode b.stage + 0x4_0000 * b.runSlot.toNat + (if b.unvouched then 0x10_0000 else 0) +
  (if b.pufFail then 0x20_0000 else 0) + (if b.storeFail then 0x40_0000 else 0) +
  (if b.debugOpen then 0x80_0000 else 0)

/-- The rollback bits of the secure store, in the layout of BOOT_ROLLBACK (R94). -/
def bootRollback (s : State) : Nat :=
  let x := s.secure.seen
  (if x.v then 1 else 0) + (if x.k then 2 else 0) + (if x.ownerOnly then 4 else 0) +
  if x.ownerSet then 8 else 0

/-- IDENT_BID (R120). -/
def identBid (s : State) : Nat := 0x0B101111 + if s.ready.sfuG1 then 0x1_0000 else 0

/-- Items whose loss is found: STORE_FAIL and one 0x700C each (R83). -/
def noteLost (s : State) (items : List StoreItem) : State :=
  (items.filter fun i => s.secure.lost i).foldl (fun s i =>
    { s with boot := { s.boot with storeFail := true } }.bootReport 0x700C .contained (itemNumber i)) s

/-- The boot hold opens (R65): cleared, with the nonce (R94). -/
def openWindow (s : State) : State :=
  { s with
    boot := { s.boot with stage := .windowOpen, nonce := .replicate 4 0, windowClosed := false }
    mem := s.mem.clear windowBase (windowBase + holdSize) }

/-- The held debug token is checked (R90); the counter of accepted ones wraps (log entry 132). -/
def checkToken (s : State) : State :=
  match s.boot.token with
  | none => s
  | some t =>
    let s := { s with boot := { s.boot with token := none } }
    if tokenAccepted s.secure.seen s.boot.seed t then
      { s with
        secure := { s.secure with debugCount := s.secure.debugCount + 1 }.written .minver
        boot := { s.boot with debugOpen := true, scope := (t.drop 7).head? } }.bootReport 0x700B
          .information 0
    else s.bootReport 0x700A .information 0

/-- The run is vouched (R77, R78): a debug-open run of a passing image is, though it has no keys (R90; log
entry 100). -/
def vouched (s : State) : Bool := s.boot.stage = .running && !s.boot.unvouched

/-- The firmware root key of a version that firmware obtains (R84, R85): a vouched run with keys has its own
FK(v), and in modes K and VK that of every older version, and of no newer one. -/
def obtainRootKey (s : State) (w : Nat) : Option (List Byte) :=
  let v := if s.secure.seen.k then s.boot.version.toNat else 0
  match s.boot.seed, s.boot.released with
  | some seed, some _ =>
    if s.vouched && w ≤ v then
      some (rootKey seed s.boot.signer (ownerInput s.secure.seen s.boot.signer) w)
    else none
  | _, _ => none

/-- Firmware writes to the secure store by itself (R78, R82): only a vouched run with keys reaches the counters
and the sealed data; a lost set of counters cannot be incremented (R83). Data is sealed under a root key that
firmware obtains (R85). -/
def storeWrite (s : State) (w : StoreWrite) : State :=
  if !s.vouched || s.boot.released.isNone then s else
  match w with
  | .count n =>
    if s.secure.lost .counters then s else
    { s with secure := { s.secure with counters := updAt s.secure.counters n satInc }.written .counters }
  | .seal version offset data =>
    if (s.obtainRootKey version).isNone || 0x40_0000 < offset + data.length then s else
    { s with secure := { s.secure with
        sealedData := (data.zipIdx).foldl (fun c b => putCell c (offset + b.2) (some b.1)) s.secure.sealedData } }

/-- A dropped BAR2 write to the boot hold (R65, R66); before RUNNING it moves BOOT_REASON (log entry 130). -/
def dropHoldWrite (s : State) : State :=
  let s := { s with boot := { s.boot with dropped := satInc s.boot.dropped } }
  if s.running then s.note 0x7004 .information 0 else s.bootReport 0x7004 .information 0

/-- A report (R86): `kind` 0 at start, 1 at runtime; `other` is D of the other slot. -/
def reportBytes (s : State) (kind : Nat) (nonce : List Byte) (signature : List Byte) : List Byte :=
  let b := s.boot
  let x := s.secure.seen
  let other := if b.runSlot = 0b10 then b.slotA else b.slotB
  let n := signature.length
  leBytes 4 0x5241_4A4F ++ leBytes 2 1 ++ leBytes 2 kind ++ leBytes 4 s.bootStatus ++
  [if b.runSlot = 0b10 then 1 else 0, b.signer, BitVec.ofNat 8 s.bootRollback,
   BitVec.ofNat 8 ((if b.unvouched then 0 else 1) + (if b.pufFail then 0 else 2) +
     if b.debugOpen then 4 else 0)] ++
  leBytes 4 b.version.toNat ++ leBytes 4 x.minver.toNat ++ leBytes 4 s.identBid ++ leBytes 4 0 ++
  nonce ++ leBytes 8 s.now.toNat ++ leBytes 8 0 ++ leBytes 64 b.runDigest.toNat ++
  leBytes 64 other.digest.toNat ++ leBytes 64 (if x.ownerSet then x.ownerHash.toNat else 0) ++
  leBytes 2 n ++ signature ++ List.replicate (0x800 - 0x102 - n) 0

/-- The device key's signature over a report's first 0x100 bytes (R86), empty where no device key exists
(R87). -/
def reportSignature (s : State) (unsigned : List Byte) : List Byte :=
  match s.boot.seed with
  | none => []
  | some seed =>
    let g := Config.falconSign (deviceKeys seed).2 (shake256 (unsigned.take 0x100) 64) s.freeCount
    (g.1 :: g.2).take 1280

/-- A report with its signature (R86, R87). -/
def signedReport (s : State) (kind : Nat) (nonce : List Byte) : List Byte :=
  s.reportBytes kind nonce (s.reportSignature (s.reportBytes kind nonce []))

/-- A byte of the keel ROM read by any path (R81): zero once the ROM has locked itself out. -/
def romRead (s : State) (addr : Nat) : Byte := if s.boot.romReadable then Config.romByte addr else 0

/-- BOOT_NONCE0–3 as bytes. -/
def nonceBytes (s : State) : List Byte := s.boot.nonce.toList.flatMap fun w => leBytes 4 w.toNat

end State

end Sys2Proof.Machine
end

