-- ==== Sys2Proof/Machine/StartCmds.lean ====
section
/-! DEFINITION. Supplies, pins and the start sequence (R35, R43–R47, R58–R90, R441–R444). -/

namespace Sys2Proof.Machine

/-- Every meaning answers one outcome. -/
abbrev Result := Host.Outcome State Fault Refusal

/-- The supplies come up in the order of R43: a cold start, with PERST_N low. With TESTEN high the device
enters, or stays in, the manufacturing hold (R35). -/
def execSupplyPowerUp (testen : Bool) (s : State) : Result :=
  if s.env.suppliesUp then .next s else
  let s := s.restart true
  .next { s with env := { s.env with
    suppliesUp := true, por := false, testen, mfgHold := testen, perstLow := true } }

/-- All supplies are lost (R45, R52). -/
def execSupplyLoss (s : State) : Result :=
  let s := s.restart true
  .next { s with env := { s.env with suppliesUp := false, por := true, perstLow := true } }

/-- TESTEN is high: the manufacturing hold (R35). A device that had started is back in its reset state. -/
def execTestenHigh (s : State) : Result :=
  if !s.env.suppliesUp then .next s else
  let s := if s.boot.stage = .reset then s else s.restart false
  .next { s with env := { s.env with testen := true, mfgHold := true, linkUp := false } }

/-- PERST_N falls, or a hot reset arrives: a host reset (R96, R99), with the setpoint write of R47, which is
tried again as R49 states. A hot reset leaves PERST_N high, so the sequence restarts at step 2 (R61). -/
def execPerstNAssert (hotReset : Bool) (s : State) : Result :=
  if !s.env.suppliesUp ∨ s.env.perstLow then .next s else
  let s := (s.restart false).avsIssue (.voltageWrite 750)
  let s := if hotReset then
      if s.env.mfgHold || s.env.thermalHold then s else s.beginStart
    else { s with env := { s.env with perstLow := true } }
  .next s

/-- PERST_N rises (R58). After a thermal trip power-on reset is held while the hottest junction sensor
reads 90 °C or more (R485). -/
def execPerstNRelease (hottest : Int) (s : State) : Result :=
  if !s.env.suppliesUp ∨ !s.env.perstLow then .next s else
  let s := { s with env := { s.env with perstLow := false } }
  if s.env.mfgHold then .next s
  else if s.env.thermalHold && 90 ≤ hottest then
    .next { s with env := { s.env with por := true } }
  else .next { s with env := { s.env with por := false, thermalHold := false } }.beginStart

/-- After a trip and a rising PERST_N the hottest sensor reads below 90 °C (R485). -/
def execThermalHoldRelease (reading : Int) (s : State) : Result :=
  if s.env.suppliesUp && !s.env.perstLow && !s.env.mfgHold && s.env.thermalHold && reading < 90 then
    .next { s with env := { s.env with por := false, thermalHold := false } }.beginStart
  else .next s

/-- The Tide generator's clock locks: the count is 0 (R441). -/
def execTideClockLock (s : State) : Result :=
  if s.env.suppliesUp && !s.env.por && !s.env.perstLow && !s.tide.locked then
    .next { s with tide := { s.tide with locked := true, count := 0 } }
  else .next s

/-- An attempt at the PUF seed ends (R62), with the seed that it reconstructs or none; with the helper data lost
none is made (R83). `bad` are the copies of the helper data whose tags do not hold. -/
def execPufDone (seed : Option (BitVec 256)) (bad : BadCopies) (s : State) : Result :=
  if s.boot.stage ≠ .puf then .next s else
  let s := { s with secure := s.secure.tested [.helper] bad }
  let fail (s : State) : State :=
    { s with boot := { s.boot with pufFail := true, seed := none } }.bootReport 0x7001 .contained 0
  let on (s : State) : State := { s with boot := { s.boot with stage := .bist } }
  if s.secure.lost .helper then .next (on (fail (s.noteLost [.helper])))
  else match seed with
    | some _ => .next (on { s with boot := { s.boot with seed } })
    | none =>
      if s.boot.pufAttempts < 2 then
        .next { s with boot := { s.boot with pufAttempts := s.boot.pufAttempts + 1 } }
      else .next (on (fail { s with boot := { s.boot with pufAttempts := 3 } }))

/-- BIST ends (R63): the map is merged and written back, and every location in it takes its spare. A lost
map is treated as empty and rewritten (R83). Training begins, with its strict mode (R336). -/
def execBistDone (found : List RepairLoc) (bad : BadCopies) (s : State) : Result :=
  if s.boot.stage ≠ .bist then .next s else
  let s := { s with secure := s.secure.tested [.repairMap] bad }
  let s := s.noteLost [.repairMap]
  let stored := s.secure.seen.repairMap
  let added := found.dedup.filter fun l => !stored.contains l
  let merged := stored ++ added
  let s := { s with secure := { s.secure with repairMap := merged }.written .repairMap }
  let s := if added.isEmpty then s else s.bootReport 0x700D .corrected added.length
  let s := merged.foldl (fun s l => s.substitute l 0x700D false) s
  .next { s with
    boot := { s.boot with stage := .training }
    memctl := { s.memctl with chans := s.memctl.chans.map fun (c : Channel) =>
      { c with strict := [.startup] } } }

/-- A training attempt ends (R64); a retry names only channels that failed before it. -/
def execTrainingDone (failing : List ChanId) (values : Vector (Vector WireTraining 8) 32) (s : State) : Result :=
  if s.boot.stage ≠ .training then .next s else
  let trains (c : ChanId) : Bool := s.boot.trainRetries = 0 || s.boot.failing.contains c
  let bad := failing.filter trains
  let chans : Vector Channel 32 := .ofFn fun c =>
    let x := s.memctl.chans[c]
    if trains c && !failing.contains c then { x with wires := values.get c } else x
  let s : State := { s with memctl := { s.memctl with chans := chans } }
  if bad.isEmpty then
    .next { s with
      boot := { s.boot with stage := .align, failing := [], alignFrom := s.now }
      memctl := { s.memctl with trained := true } }
  else if s.boot.trainRetries < 3 then
    .next { s with boot := { s.boot with
      trainRetries := s.boot.trainRetries + 1, failing := bad } }
  else .next ({ s with boot := { s.boot with failing := bad } }.bootHalt 0x9002 0)

/-- Does the `k`-th island of R443's release order take part: all but those of a Quay that the part lacks? The first
four come before the Quay controls and the Berths, the last eight behind them. -/
def State.islandThere (s : State) (k : Fin 52) : Bool :=
  if k.val < 4 || 44 ≤ k.val then true
  else if k.val < 12 then s.quayEnabled (Fin.ofNat 8 (k.val - 4))
  else s.quayEnabled (Fin.ofNat 8 ((k.val - 12) / 4))

/-- Every island's copy agrees with the second marker to within one tick (R443). -/
def State.alignGood (s : State) (islands : Vector IslandEcho 52) : Bool :=
  (List.finRange 52).all fun k => !s.islandThere k || (islands[k].off).natAbs ≤ 1

/-- The compensations that the islands store: half of each round trip, rounded up (R443, R445). -/
def State.compensations (s : State) (islands : Vector IslandEcho 52) : Vector Nat 52 :=
  .ofFn fun k => if s.islandThere k then (islands[k].trip.val + 1) / 2 else 0

/-- A run of the alignment protocol ends (R443–R445; log entry 144): the compensations are stored at its second marker, 4,096 ticks
after it began, or 16,384 ticks when the check holds and the crossings leave reset. On success the window opens (R65)
and start-up strict mode ends (R336). -/
def execAlignDone (islands : Vector IslandEcho 52) (s : State) : Result :=
  if s.boot.stage ≠ .align || !s.tide.locked then .next s else
  let s := { s with tide := { s.tide with comp := s.compensations islands } }
  if s.alignGood islands then
    let s := s.advanceTo (s.boot.alignFrom + 16384)
    let s := { s with
      tide := { s.tide with aligned := true }
      memctl := { s.memctl with chans := s.memctl.chans.map fun (c : Channel) =>
        { c with strict := c.strict.filter (· ≠ StrictCause.startup) } } }
    .next s.openWindow
  else
    let s := s.advanceTo (s.boot.alignFrom + 4096)
    if s.boot.alignRuns < 2 then
      .next { s with boot := { s.boot with alignRuns := s.boot.alignRuns + 1, alignFrom := s.now } }
    else .next ({ s with boot := { s.boot with alignRuns := 3 } }.bootHalt 0x4030 0)

/-- A timed stage has lasted 1 s (R59). -/
def execCustomsStageTimeout (s : State) : Result :=
  if stageTimed s.boot.stage then .next (s.bootHalt 0x7010 0) else .next s

/-- A debug token is shifted in (R89): held until release, ignored after it until the next start. A slot
that has been examined shows that the window was released before. -/
def execDbgtoken (token : List Byte) (s : State) : Result :=
  if s.env.suppliesUp && stageCode s.boot.stage < 6 && s.boot.slotA.state = 0b00 then
    .next { s with boot := { s.boot with token := some token } }
  else .next s

/-- A write of BOOT_RELEASE (R66, R67). -/
def State.writeRelease (s : State) (value : Word) : State :=
  if value.getLsbD 0 && s.boot.stage = .windowOpen && !s.frozen then
    { s with boot := { s.boot with stage := .checking, windowClosed := true } }
  else s

def execBootRelease (value : Word) (s : State) : Result := .next (s.wakeSlack.writeRelease value)

/-- The slots are judged and one is selected, or the window reopens (R70–R78). `bad` are the copies of items 2,
3, 5 and 6 whose tags do not hold (log entry 99). -/
def execCheckingDone (bad : BadCopies) (s : State) : Result :=
  if s.boot.stage ≠ .checking then .next s else
  let items := [StoreItem.rollback, .minver, .certificate, .counters]
  let s := { s with secure := s.secure.tested items bad }
  let s := s.noteLost items
  let s := s.checkToken
  let st := s.secure.seen
  let atA := windowBase
  let atB := windowBase + 0x20_0000
  let pa := parseSlot s.mem atA
  let pb := parseSlot s.mem atB
  let slotA := judgeSlot st pa (verifySlot s.mem atA pa)
  let slotB := judgeSlot st pb (verifySlot s.mem atB pb)
  let s := { s with boot := { s.boot with slotA, slotB } }
  let malformed (s : State) (p : SlotParse) : State :=
    if p = .malformed then s.bootReport 0x7002 .information 0 else s
  let s := malformed (malformed s pa) pb
  match selectSlot slotA slotB with
  | none => .next (s.bootReport 0x7003 .contained 0).openWindow
  | some (isB, passes) =>
    let slot := if isB then slotB else slotA
    let header := match (if isB then pb else pa) with
      | .eligible h => h
      | _ => ⟨0, 0, 0, 0, 0, 0⟩
    let vouched := passes && s.boot.seed.isSome
    let body := (if isB then 0x20_0000 else 0) + 4096
    let s := { s with boot := { s.boot with
      stage := .keys, runSlot := if isB then 0b10 else 0b01, unvouched := !vouched
      runDigest := slot.digest, version := slot.version, signer := slot.signer
      entry := BitVec.ofNat 32 (body + header.entry), stage2Pages := header.pages
      treeAt := windowBase + body + header.treeOffset } }
    .next (if vouched then s else s.bootReport 0x7008 .contained 0)

/-- The keys that a vouched run which is not debug-open gets (R78, R84, R90): v is the running VERSION in modes K
and VK (R74). -/
def State.keysFor (s : State) : Option ReleasedKeys :=
  match s.boot.seed with
  | none => none
  | some seed =>
    if s.boot.unvouched || s.boot.debugOpen then none else
    let st := s.secure.seen
    let root := rootKey seed s.boot.signer (ownerInput st s.boot.signer) (if st.k then s.boot.version.toNat else 0)
    some { device := (deviceKeys seed).2, root, sealing := sealingKey root }

/-- Keys are derived, the boot report and certificate are written, the ROM locks itself out and the
image runs (R81, R84, R86, R87). -/
def execKeysDone (s : State) : Result :=
  if s.boot.stage ≠ .keys then .next s else
  let at_ := s.part.reserved
  let cert := s.secure.seen.certificate
  let report := s.signedReport 0 s.nonceBytes
  let s := { s with freeCount := s.freeCount + 1 }
  let s := s.updMem fun m => (m.store at_ report).store (at_ + 0x800) cert
  .next { s with
    boot := { s.boot with
      stage := .running
      reportAddr := BitVec.ofNat 64 at_
      certLen := BitVec.ofNat 16 cert.length
      serial := match s.boot.seed with
        | some seed => BitVec.ofNat 64 (leNat ((deviceIdentity seed).take 8))
        | none => 0
      romReadable := false
      released := s.keysFor }
    heart := { s.heart with window := s.now.toNat / State.msTicks } }

/-- The PCIe link comes up (R58, R119). -/
def execPcieLinkUp (s : State) : Result :=
  if s.env.suppliesUp && !s.env.por && !s.env.perstLow && !s.env.mfgHold then
    .next { s with env := { s.env with linkUp := true } }
  else .next s

/-- A write of BOOT_MINVER_ADVANCE (R75); a refused one leaves BOOT_REASON (log entry 130). -/
def State.writeMinver (s : State) (value : Word) : State :=
  let st := s.secure.seen
  if s.boot.stage = .reset || s.lost || s.frozen then s
  else if s.vouched && st.v && value = s.boot.version && st.minver.toNat < value.toNat then
    { s with secure := { s.secure with minver := value }.written .minver }
  else s.note 0x7009 .information 0

def execBootMinverAdvance (value : Word) (s : State) : Result := .next (s.wakeSlack.writeMinver value)

/-- What a scoped debug access reads (R81, R89): memory, or the ROM. -/
def State.debugData (s : State) : Option DebugRead → List Byte
  | none => []
  | some (.memory addr length) => s.mem.reads addr length
  | some (.rom addr length) => (List.range length).map fun i => s.romRead (addr + i)

/-- A JTAG instruction (R50, R81, R89): the four that are always there, and a scoped debug access when an
accepted token opened it; scope bit 2 is that of memory reads. SAMPLE/PRELOAD and EXTEST shift out the captured
cells and load theirs; EXTEST drives what the cells hold, preloaded or shifted in with it, on the output balls until
another instruction (log entry 97). What the other
debug accesses do inside their scopes is not stated. -/
def execJtagInstruction (i : JtagInstr) (s : State) : Result :=
  if !s.env.suppliesUp then .next s else
  let quiet := { s with env := { s.env with drives := none } }
  match i with
  | .bypass => .next (quiet.send (.jtag [0]))
  | .idcode => .next (quiet.send (.jtag (leBytes 4 0x10E48FD3)))
  | .samplePreload balls cells =>
    .next ({ quiet with env := { quiet.env with cells } }.send (.jtag (leBytes 23 balls.toNat)))
  | .extest balls cells =>
    let cells := cells.getD s.env.cells
    .next ({ s with env := { s.env with cells, drives := some cells } }.send (.jtag (leBytes 23 balls.toNat)))
  | .debug bit read =>
    match s.boot.scope with
    | some sc =>
      if sc.getLsbD bit.val then
        .next (quiet.send (.jtag (if bit = 2 then quiet.debugData read else [])))
      else .next quiet
    | none => .next quiet

end Sys2Proof.Machine
end

