-- ==== Sys2Proof/Machine/PowerStateCmds.lean ====
section
/-! DEFINITION. Resets and power states (R96–R108, R201). -/

namespace Sys2Proof.Machine

/-- Initiate Function Level Reset (R96, R99, R511). `passed` and `misread` are what the self-test and
the digest check of R505 find when the device is lost. -/
def execFunctionLevelReset (passed : BitVec 3) (misread : List (Nat × Byte)) (s : State) : Result :=
  .next (s.functionReset passed misread)

/-- The function reset ends (R96). A loss record that could not be written before is written now, if its
ring is enabled (R511). -/
def execFunctionResetComplete (s : State) : Result :=
  if s.env.reset ≠ .function then .next s else
  let s := { s with
    env := { s.env with reset := .none }
    heart := { window := s.now.toNat / State.msTicks } }
  .next s.writeLossRecord

/-- HOSTIF_DEV_RESET is written (R96, R99). -/
def execHostifDevReset (value : Word) (s : State) : Result :=
  if value.getLsbD 0 then .next s.wakeSlack.requestDeviceReset else .next s.wakeSlack

/-- The device reset ends: a HALT_ALL write that it held takes effect, and a halt that was kept is complete: no command
executes (R122, R123). -/
def execDevResetComplete (s : State) : Result :=
  if s.env.reset ≠ .device then .next s else
  let held := s.env.heldHalt
  let s := { s with
    env := { s.env with reset := .none, heldHalt := none }
    heart := { window := s.now.toNat / State.msTicks } }
  match held with
  | some (h, p) => .next (s.writeHalt h p).haltUpdate
  | none => .next s.haltUpdate

/-- A Quay reset is written, or made by firmware in recovery (R96, R98). -/
def execQuayReset (q : QuayId) (byFirmware : Bool) (s : State) : Result :=
  .next ((if byFirmware then s else s.wakeSlack).startQuayReset q)

/-- The Quay reset and the re-application of its section end (R96): the Quay reads ready. -/
def execQuayResetComplete (q : QuayId) (s : State) : Result :=
  if !s.quays[q].resetting then .next s else
  let ready := s.quays[q].shape ≠ 0 && s.manifest.partition[q].isSome && !s.quays[q].draining
  .next (s.updQuay q fun y => { y with resetting := false, ready, resetAsked := y.resetAsked && !ready })

/-- The host writes D3hot (R101, R103, R104). `bad` are the lines that turn out uncorrectable as the cache writes back
(R326). -/
def execD3hotEntry (bad : List Nat) (s : State) : Result :=
  if !s.configAnswers || s.env.power = .d3hot then .next s
  else if !s.alive then .next { s with env := { s.env with power := .d3hot } }
  else .next (s.wakeSlack.writeBackBad bad).enterD3hot

/-- The host writes D0 (R102, R103): nothing is reset; suspended commands go on unless a halt holds them,
memory re-centres (R343) and the codec sessions go on with a key frame (R393). -/
def execD0Return (s : State) : Result :=
  let s := { s with env := { s.env with heldD3hot := false } }
  if s.env.power ≠ .d3hot then .next s else
  if s.lost then .next { s with env := { s.env with power := .d0 } } else
  let s := { s with env := { s.env with power := .d0 } }.leaveRetention
  let s := (List.finRange 3).foldl (fun s u =>
    if s.codecs[u].shed then s else s.resumeUnit u.val) s
  let s := if s.hostif.halt then s else s.letGo
  .next s.ltrUpdate

/-- The link enters L1.2 (R101). -/
def execL12Entry (s : State) : Result :=
  if !s.env.linkUp || s.env.l12 then .next s else
  let s := s.dropForPower.idleSeqs
  .next { s with env := { s.env with l12 := true } }

/-- The link leaves L1.2 (R101). -/
def execL12Exit (s : State) : Result := .next { s with env := { s.env with l12 := false } }

/-- No command has run on a Quay for 100 µs: firmware clock-gates it (R101). -/
def execLightIdleEntry (q : QuayId) (s : State) : Result :=
  if s.fwUp && s.quayEnabled q && s.quayFree q && !s.quays[q].wholeFenced then
    .next (s.updQuay q fun y => { y with
      clockGated := true, gatedFrom := if y.clockGated then y.gatedFrom else s.now
      berths := y.berths.map ({ · with clockGated := true }) }).ltrUpdate
  else .next s

/-- A Berth that has been clock-gated for 5 ms and holds no live state is power-gated; so is a Berth whose
Quay is in no partition, that is fenced, or whose Quay the part does not enable (R201). -/
def execBerthPowerGate (q : QuayId) (b : BerthId) (s : State) : Result :=
  let y := s.quays[q]
  let x := s.berth q b
  let unused := s.manifest.partition[q] = none || x.fenced || !s.quayEnabled q
  if s.fwUp && (y.clockGated || x.clockGated || unused) && x.tile.isNone && x.holdOwner.isNone then
    let s := if unused then s else s.advanceTo (y.gatedFrom + BitVec.ofNat 64 (5 * State.msTicks))
    .next (s.updBerth q b fun x => { x with
      gated := true, waking := false, weights := [], shadow := [], hold := [] })
  else .next s

/-- Waking a Berth completes, 2 µs after a command admitted to its Quay has begun it (R201, R445). -/
def execBerthWake (q : QuayId) (b : BerthId) (s : State) : Result :=
  if s.fwUp && s.env.power = .d0 && s.quayEnabled q && !s.quays[q].wholeFenced &&
      s.manifest.partition[q].isSome && !(s.berth q b).fenced && (s.berth q b).gated &&
      (s.berth q b).waking then
    let s := match (s.berth q b).wakeFrom with
      | some t => s.advanceTo (t + BitVec.ofNat 64 (State.msTicks / 500))
      | none => s
    let s := s.updBerth q b ({ · with gated := false, waking := false, clockGated := false })
    .next (s.updQuay q ({ · with clockGated := false })).ltrUpdate
  else .next s

/-- 20 ms in ticks (R101). -/
def slackHorizon : Nat := 5000000

/-- Does a queue's ring hold, past HEAD, a command whose launch count is due within 20 ms (R101)? Of a ring in
host memory nothing is known, so any command there keeps the device awake (log entry 79). -/
def ringDue (s : State) (q : QueueId) : Bool :=
  let x := s.queues[q]
  let n := (s.headerWord q 0x10 - x.head).toNat
  x.active && !x.stopped && (List.range (min n (2 ^ x.hdr.ringLog2))).any fun i =>
    outboundBase ≤ x.hdr.ring ||
    s.mem.field (x.hdr.ring + 64 * ((x.head.toNat + i) % 2 ^ x.hdr.ringLog2) + 0x10) 8 ≤ s.now.toNat + slackHorizon

/-- The conditions of R101, R393 and R484. -/
def slackReady (s : State) : Bool :=
  s.fwUp && s.env.power = .d0 && s.power.slackEn && !s.env.heldD3hot &&
  !(s.flights.any fun (f : Flight) => f.executes || f.phase = .lightering ||
    (State.unstarted f && f.phase ≠ .waiting && f.entry.launch.toNat ≤ s.now.toNat + slackHorizon)) &&
  !((List.finRange 256).any (ringDue s)) &&
  !(s.streams.toList.any (·.frame.isSome)) && !(s.sessions.toList.any (·.active)) &&
  !s.capturing && !(s.memctl.chans.toList.any fun c => c.paused || c.retraining)

/-- Slack water (R101, R104, R319, R326, R338). -/
def execSlackWaterEntry (bad : List Nat) (s : State) : Result :=
  if !slackReady s then .next s else
  let s := (s.writeBackBad bad).dropForPower.idleSeqs.flushCache.gateQuays
  .next { s with
    env := { s.env with power := .slackWater }
    memctl := { s.memctl with retention := true } }.ltrUpdate

/-- Slack water ends, whatever the cause (R101, R343, R445). -/
def execSlackWaterExit (cause : WakeCause) (s : State) : Result :=
  match cause with
  | .inboundTlp | .launchDue | .clkreq => .next s.wakeSlack

end Sys2Proof.Machine
end

