-- ==== Sys2Proof/Machine/QueueCmds.lean ====
section
/-! DEFINITION. Queues, the sweep, eligibility, flags and halts (R123–R125, R139–R150). -/

namespace Sys2Proof.Machine

/-! ## Replay decisions (R467) -/

/-- The replay log's unit `i` as a ring address. -/
def State.replayUnit (s : State) (i : Nat) : Nat :=
  s.recorder.base.toNat + 64 * (i % s.recUnits)

/-- Length of the entry at an address in units, if it is whole and well-formed within the `room` units the
host has written, and does not cross the end of the ring (R459, R468). -/
def State.entryUnits (s : State) (unit room : Nat) : Option Nat :=
  let n := s.mem.field (s.replayUnit unit + 4) 4
  if n % 64 = 0 && 64 ≤ n && n / 64 ≤ room && unit % s.recUnits + n / 64 ≤ s.recUnits then some (n / 64)
  else none

/-- The decision that an entry records. -/
def State.readDecision (s : State) (at_ : Nat) : Decision :=
  let f := fun off n => s.mem.field (at_ + off) n
  let scale : Bool := f 0 1 = 0x07
  { kind := f 0 1
    q := if scale then f 0x1C 1 else f 0x18 1
    idx := if scale then f 0x18 4 else f 0x1C 4
    flag := f 1 1 % 2 = 1
    reason := BitVec.ofNat 16 (f 0x1A 2)
    tensor := BitVec.ofNat 16 (f 0x1E 2)
    step := BitVec.ofNat 32 (f 0x2C 4)
    after := (BitVec.ofNat 8 (f 0x29 1)).toInt }

/-- The entries that record decisions: PREDICATE, WAIT_FAIL, SCALE, FALLBACK, RESTORE. -/
def decisionKinds : List Nat := [0x05, 0x06, 0x07, 0x08, 0x0E]

/-- A WAIT_FAIL entry carries a code of one of this device's areas (R15, R460). -/
def State.decisionCodeOk (s : State) (at_ : Nat) : Bool :=
  let area := s.mem.field (at_ + 0x1A) 2 / 0x1000
  s.mem.field at_ 1 ≠ 0x06 || (1 ≤ area && area ≤ 0xE)

/-- The decisions in the entries from a unit on, as far as the host has written (R467). -/
def State.decisionsAhead (s : State) : Nat → Nat → Nat → List Decision
  | 0, _, _ => []
  | n + 1, unit, room =>
    match s.entryUnits unit room with
    | none => []
    | some k =>
      let at_ := s.replayUnit unit
      let rest := s.decisionsAhead n (unit + k) (room - k)
      if decisionKinds.contains (s.mem.field at_ 1) && s.decisionCodeOk at_ then s.readDecision at_ :: rest else rest

/-- The recorded decisions of a kind on a command, while recorded decisions are applied (R467). -/
def State.decisionsOn (s : State) (kind : Nat) (q : QueueId) (idx : Word) : List Decision :=
  if !s.replaying || s.recorder.decide then [] else
  let r := s.recorder
  let room := (r.hostIndex - r.devIndex).toNat
  let ahead := if s.applying then s.decisionsAhead room r.devIndex.toNat room else []
  (r.decisions ++ ahead).filter fun d => d.kind = kind && d.q = q.val && d.idx = idx.toNat

/-- The recorded decision on a command. -/
def State.decision (s : State) (kind : Nat) (q : QueueId) (idx : Word) : Option Decision :=
  (s.decisionsOn kind q idx).head?

/-- The device waits for recorded decisions and makes none of its own (R467). -/
def State.deciding (s : State) : Bool := s.applying && !s.recorder.decide

/-- A divergence counts in RECORD_DIVERGE; where 0xD007 is recorded it has no 0x4042 beside it (R266, R467). -/
def State.countDiverge (s : State) : State :=
  { s with recorder := { s.recorder with diverge := satInc s.recorder.diverge } }

/-- A divergence from the recording: 0x4042, counted (R467). -/
def State.diverge (s : State) : State := s.countDiverge.note 0x4042 .information 0

/-- A host write that the log would supply is dropped (R465). -/
def State.replayDrop (s : State) : State := s.note 0x4044 .information 0

/-! ## Recording commands -/

/-- q, three zero bytes, i (R460). -/
def cmdArgs (q : QueueId) (idx : Word) : List Byte :=
  [BitVec.ofNat 8 q.val, 0, 0, 0] ++ leBytes 4 idx.toNat

/-- The 64 bytes of an entry in its queue's ring. -/
def State.entryBytes (s : State) (q : QueueId) (idx : Word) : List Byte :=
  let h := s.queues[q].hdr
  s.mem.reads (h.ring + 64 * (idx.toNat % 2 ^ h.ringLog2)) 64

/-- A COMMAND entry: the entry as it was sampled, with the data a command carries besides it (R460). -/
def State.recordCommand (s : State) (q : QueueId) (idx : Word) (extra : List Byte) : State :=
  match s.flight? q idx with
  | some f => s.record 0x02 0 (cmdArgs q idx) (f.raw ++ extra)
  | none => s

/-- Is the COMMAND entry written when the command's further data is read? -/
def Op.recordsLate : Op → Bool
  | .dispatch .. | .tableLoad .. => true
  | _ => false

/-! ## Queues -/

/-- A ring aligned to its size, in companion memory or in the outbound space (R142). -/
def State.ringOk (s : State) (base log2 unit : Nat) : Bool :=
  base % (unit * 2 ^ log2) = 0 &&
  (s.inHostMemory base (unit * 2 ^ log2) || State.inOutbound base (unit * 2 ^ log2))

/-- A journal ring lies where a ring may lie; the manual asks no alignment of it (R142; log entry 71). -/
def State.journalOk (s : State) (base log2 : Nat) : Bool :=
  s.inHostMemory base (16 * 2 ^ log2) || State.inOutbound base (16 * 2 ^ log2)

/-- The header at a queue's address, when it keeps the rules of R142. -/
def State.readHeader (s : State) (q : QueueId) : Option Header :=
  let a := s.header q
  let f := fun off n => s.mem.field (a + off) n
  let j := f 0x20 8
  if s.inHostMemory a 64 && 4 ≤ f 0x30 1 && f 0x30 1 ≤ 16 && 4 ≤ f 0x31 1 && f 0x31 1 ≤ 16 &&
      (j = 0 || (8 ≤ f 0x32 1 && f 0x32 1 ≤ 16 && s.journalOk j (f 0x32 1))) &&
      4 ≤ f 0x33 1 && f 0x33 1 ≤ 127 && f 0x34 12 = 0 &&
      s.ringOk (f 0 8) (f 0x30 1) 64 && s.ringOk (f 8 8) (f 0x31 1) 32 then
    some { ring := f 0 8, compl := f 8 8, journal := j, ringLog2 := f 0x30 1, complLog2 := f 0x31 1
           journalLog2 := f 0x32 1, vector := f 0x33 1 }
  else none

/-- A queue's enable takes effect (R142). -/
def State.takeEnable (s : State) (q : QueueId) : State :=
  match s.readHeader q with
  | some hdr => (s.updQueue q fun x => { x with
      en := true, enHeld := false, active := true, stopped := false, fetching := 0, hdr
      head := s.headerWord q 0x14, ctail := s.headerWord q 0x18, jtail := s.headerWord q 0x28 }).ltrUpdate
  | none =>
    let s := s.updQueue q fun x => { x with
      en := false, enHeld := false, active := false, reason := 0x5009 }
    s.report { reason := 0x5009, severity := .information, queue := BitVec.ofNat 16 q.val }

/-- EN is written 1 (R142, R157): held until READY. -/
def State.enableQueue (s : State) (q : QueueId) : State :=
  if s.queues[q].en then s
  else if s.ready.ready then s.takeEnable q
  else s.updQueue q fun x => { x with en := true, enHeld := true }

/-- EN is written 0 (R147): as a stop, with REASON 0x0000. -/
def State.disableQueue (s : State) (q : QueueId) : State :=
  let x := s.queues[q]
  if !x.en then s
  else if x.enHeld then s.updQueue q fun x => { x with en := false, enHeld := false }
  else
    let s := s.discardUnstarted q
    (s.updQueue q fun x => { x with
      en := false, active := false, stopped := false, reason := 0, fetching := 0 }).settle

/-- RESTART is written 1 (R146). -/
def State.restartQueue (s : State) (q : QueueId) : State :=
  s.updQueue q ({ · with stopped := false })

/-- A HOST_FLAG entry for a write of QTABLE_QnCTRL or CTX_nCTRL (R460). -/
def State.recordRegWrite (s : State) (offset value : Nat) : State :=
  s.record 0x03 0 ([0xFF, 0xFF, 0, 0] ++ leBytes 4 offset) (leBytes 4 value)

/-- What a write of QTABLE_QnCTRL does (R157). -/
def State.applyQueueCtrl (s : State) (q : QueueId) (v : Nat) : State :=
  let s := s.recordRegWrite (0x2_0000 + 0x10 * q.val + 8) v
  let s := if v % 2 = 1 then s.enableQueue q else s.disableQueue q
  if v / 2 % 2 = 1 then s.restartQueue q else s

/-- The host writes QTABLE_QnCTRL: in replay the log supplies it (R465). -/
def State.writeQueueCtrl (s : State) (q : QueueId) (v : Nat) : State :=
  if s.replaying then s.replayDrop else s.applyQueueCtrl q v

/-- Does a host write reach a block other than IDENT and LIGHTHOUSE (R60, R119, R481)? -/
def State.answers (s : State) : Bool := s.alive && s.env.reset = .none && !s.frozen

def execQueueEnable (q : QueueId) (s : State) : Result :=
  let s := s.wakeSlack
  if !s.answers then .next s else .next (s.writeQueueCtrl q 1)

def execQueueDisable (q : QueueId) (s : State) : Result :=
  let s := s.wakeSlack
  if !s.answers then .next s else .next (s.writeQueueCtrl q 0)

/-- RESTART is written 1, with EN as it stands (R146). -/
def execQueueRestart (q : QueueId) (s : State) : Result :=
  let s := s.wakeSlack
  if !s.answers then .next s else
  .next (s.writeQueueCtrl q (2 + if s.queues[q].en then 1 else 0))

/-- One sampled entry: in flight from here on (R145), HEAD moved past it. -/
def State.sample (s : State) (q : QueueId) (bytes : List Byte) : State :=
  let idx := s.queues[q].head
  let e := decodeEntry bytes
  let s := { s with flights := s.flights ++ [{ q, idx, entry := e, raw := bytes : Flight }] }
  let s := s.setHead q (idx + 1)
  let s := if e.op.recordsLate then s else s.record 0x02 0 (cmdArgs q idx) bytes
  (s.trace 1 (qi q idx) e.opcode.toNat).noteBlocked

/-- Commands of a queue in flight. -/
def State.inFlight (s : State) (q : QueueId) : Nat :=
  (s.flights.filter fun (f : Flight) => f.q = q).length

/-- Entries asked of host memory that have not come yet; each takes a place among the 4,096 (R145). -/
def State.asked (s : State) : Nat := (s.queues.toList.map fun (x : Queue) => x.fetching).sum

/-- Sample up to `n` entries of a queue: one in companion memory at once, one in host memory by a read
whose completion brings it (R130, R144). A read that no window serves returns zero (R127). -/
def State.sampleSome (q : QueueId) : Nat → State → State
  | 0, s => s
  | n + 1, s =>
    let x := s.queues[q]
    if 64 ≤ s.inFlight q + x.fetching ∨ 4096 ≤ s.flights.length + s.asked then s else
    let slot := (x.head.toNat + x.fetching) % 2 ^ x.hdr.ringLog2
    let a := x.hdr.ring + 64 * slot
    if outboundBase ≤ a then
      if readTags ≤ s.tagsOut then s
      else if s.windowsHold a 64 true then
        match s.windowOf a with
        | some w => State.sampleSome q n ((s.updQueue q ({ · with fetching := x.fetching + 1 })).send
            (.outboundRead (w.bus a) 64 w.noSnoop))
        | none => s
      else if x.fetching = 0 then State.sampleSome q n (s.sample q (List.replicate 64 0))
      else s
    else State.sampleSome q n (s.sample q (s.mem.reads a 64))

/-- The part of a sweep that one queue gets (R144, R147). -/
def State.sweepQueue (s : State) (q : QueueId) : State :=
  let x := s.queues[q]
  if !x.active || x.stopped then s else
  let d := (s.headerWord q 0x10 - x.head).toNat
  if 2 ^ x.hdr.ringLog2 < d then
    let s := s.report { reason := 0x500C, severity := .contained, queue := BitVec.ofNat 16 q.val
                        index := x.head }
    (s.stopQueue q 0x500C).settle
  else if x.fetching > 0 then s
  else State.sampleSome q (min 16 d) s

/-- The sweep interval expires (R144, R447): every enabled queue, in an order that starts after the enabled queue
visited first in the sweep before. A launch held since a halt may now be made (R123). Replay samples no ring
(R465). -/
def execQueueSweep (s : State) : Result :=
  if !s.fwUp || !s.ready.ready || s.env.power ≠ .d0 then .next s else
  let s := s.advanceTo s.sched.nextSweep
  let enabled := (s.queues.toList.filter (·.active)).length
  let s := s.trace 0 enabled s.sched.sweeps
  let order := (List.finRange 256).map fun i => Fin.ofNat 256 (s.sched.sweepFirst + i.val)
  let first := ((order.find? fun i => s.queues[i].active).map fun i => i.val + 1).getD s.sched.sweepFirst
  let s := { s with sched := { s.sched with
    sweepFirst := first % 256, sweeps := s.sched.sweeps + 1, haltSpans := []
    nextSweep := s.now + BitVec.ofNat 64 s.hostif.qsweep.toNat } }
  let s := s.wakeAll
  if s.replaying then .next s else
  .next (order.foldl State.sweepQueue s)

/-! ## Eligibility -/

/-- The ordering rule (R143): the predecessor has completed, or has started where OVERLAP is set. -/
def State.orderOk (s : State) (f : Flight) : Bool :=
  match s.flight? f.q (f.idx - 1) with
  | none => true
  | some p => p.ended || (f.entry.overlap && p.started)

/-- The first command of a queue that is not eligible yet. -/
def State.nextEligible (s : State) (q : QueueId) : Option Flight :=
  s.flights.find? fun (f : Flight) => f.q = q && f.phase = .sampled && !f.eligible

/-- The feature an opcode needs is negotiated (R139, R409). -/
def State.featureOk (s : State) (op : Op) : Bool := s.fwif.feat.getLsbD op.feature

/-- A FENCE's commands: those in its scope that have started and not ended (R138). -/
def State.fenceDeps (s : State) (f : Flight) (scope : Nat) : List (QueueId × Word) :=
  (s.flights.filter fun (x : Flight) => x.started && !x.ended && !x.is f.q f.idx &&
    (scope = 2 || (scope = 0 && x.q = f.q) || (scope = 1 && x.entry.ctx = f.entry.ctx))).map
    fun (x : Flight) => (x.q, x.idx)

/-- A late-recorded command that ends before its data is read leaves its bare COMMAND entry. -/
def State.recordBare (s : State) (f : Flight) : State :=
  if f.entry.op.recordsLate then s.recordCommand f.q f.idx [] else s

/-- The first of the three tests of R139 that a command fails. -/
def State.eligibleFault (s : State) (f : Flight) : Option (BitVec 16) :=
  if f.entry.malformed then some 0x5001
  else if !s.featureOk f.entry.op then some 0x5002
  else if f.entry.op.namesContext && !s.ctxs[f.entry.ctx].valid then some 0x500A
  else none

/-- The predicate's compare on the device's own flags (R139): true skips. -/
def State.ownSkip (s : State) (f : Flight) : Bool :=
  flagTrue f.entry.predCmp (s.flag f.entry.predFlag) f.entry.predValue

/-- The decision on the predicate: the recorded one, where replay applies one (R467). -/
def State.skips (s : State) (f : Flight) : Bool :=
  match s.decision 0x05 f.q f.idx with
  | some d => d.flag
  | none => s.ownSkip f

/-- The predicate's test is recorded, and a recorded decision that differs is a divergence (R460, R467). -/
def State.notePredicate (s : State) (f : Flight) : State :=
  let skip := s.skips f
  let s' := if skip != s.ownSkip f then s.diverge else s
  if f.entry.predCmp = 0 then s' else s'.record 0x05 (if skip then 1 else 0) (cmdArgs f.q f.idx) []

/-- An eligible command waits for its start: a FENCE takes its commands, and a command that needs a resident
context asks for its slot (R138, R140, R423). -/
def State.awaitStart (s : State) (f : Flight) : State :=
  let s := match f.entry.op with
    | .fence scope => s.updFlight f.q f.idx fun x => { x with deps := s.fenceDeps f scope }
    | _ => s
  if f.entry.op.needsResident && !s.ctxs[f.entry.ctx].resident then
    (s.updFlight f.q f.idx fun x => { x with phase := .slotWait }).noteBlocked.askSlot f.entry.ctx
  else s.noteBlocked

/-- A command becomes eligible (R139, R140): the three tests, then the predicate, once. -/
def State.becomeEligible (s : State) (f : Flight) : State :=
  let s := (s.updFlight f.q f.idx fun x => { x with
    eligible := true, eligibleAt := s.now, haltTicks := 0 }).trace 2
    (qi f.q f.idx) s.now.toNat
  match s.eligibleFault f with
  | some reason => (s.recordBare f).fail f.q f.idx reason
  | none =>
    if f.entry.predCmp ≠ 0 && s.skips f then
      ((((s.notePredicate f).trace 5 (qi f.q f.idx) (s.flag f.entry.predFlag).toNat).recordBare f).endFlight
        f.q f.idx 2 0).settle
    else (s.notePredicate f).awaitStart f

/-- The next command of a queue becomes eligible (R140): at LAUNCH when that comes last, which the Tide is
carried to (log entry 11); never while a halt holds its queue (R123). In replay LAUNCH is ignored and a
predicate waits for its entry (R465, R467). -/
def execCommandEligible (q : QueueId) (s : State) : Result :=
  if !s.fwUp || !s.ready.ready || s.haltHolds || s.env.power ≠ .d0 then .next s else
  match s.nextEligible q with
  | none => .next s
  | some f =>
    if !s.orderOk f then .next s
    else if s.deciding && f.entry.predCmp ≠ 0 && (s.decision 0x05 q f.idx).isNone then .next s
    else
      let s := if s.replaying then s else s.advanceTo f.entry.launch
      .next (s.becomeEligible f)

/-! ## Commands that take no shared resource -/

/-- Run `body` on a startable command of the right opcode. -/
def State.onStart (s : State) (q : QueueId) (idx : Word) (body : Flight → State → State) : State :=
  match s.startable? q idx with
  | some f => if s.fwUp then body f s else s
  | none => s

def execNop (q : QueueId) (idx : Word) (s : State) : Result :=
  .next (s.onStart q idx fun f s => match f.entry.op with
    | .nop => (s.startFlight q idx).finish q idx 0
    | _ => s)

/-- FLAG_SET (R138, R149): the flag changes, and its waits are evaluated. -/
def execFlagSet (q : QueueId) (idx : Word) (s : State) : Result :=
  .next (s.onStart q idx fun f s => match f.entry.op with
    | .flagSet g v => ((s.startFlight q idx).setFlag g v).finish q idx 0
    | _ => s)

/-- FLAG_ADD (R138, R149): modulo 2³². -/
def execFlagAdd (q : QueueId) (idx : Word) (s : State) : Result :=
  .next (s.onStart q idx fun f s => match f.entry.op with
    | .flagAdd g v => ((s.startFlight q idx).addFlag g v).finish q idx 0
    | _ => s)

/-- FLAG_WAIT starts waiting, and completes at once when its compare is true (R138, R150). A recorded
failure is applied as soon as it waits (R467). -/
def execFlagWait (q : QueueId) (idx : Word) (s : State) : Result :=
  .next (s.onStart q idx fun f s => match f.entry.op with
    | .flagWait g cmp v _ =>
      let s := s.updFlight q idx fun x => { x with
        phase := .waiting, waitFrom := s.now, startAt := s.now }
      match s.decision 0x06 q idx with
      | some d => s.fail q idx d.reason
      | none =>
        if flagTrue cmp (s.flag g) v then
          ((s.updFlight q idx fun x => { x with started := true }).trace 3 (qi q idx) 0).finish q idx 0
        else s.noteBlocked
    | _ => s)

/-- A WAIT_FAIL entry, then the failure it records (R460). -/
def State.failWait (s : State) (q : QueueId) (idx : Word) (reason : BitVec 16) : State :=
  (s.record 0x06 0 ([BitVec.ofNat 8 q.val, 0] ++ leBytes 2 reason.toNat ++ leBytes 4 idx.toNat) []).fail
    q idx reason

/-- TIMEOUT ticks pass first (R138): the wait fails and its queue stops. Under a halt the wait counts as
not started (R123); replay applies recorded failures only (R467). -/
def execFlagWaitTimeout (q : QueueId) (idx : Word) (s : State) : Result :=
  if !s.fwUp || s.haltHolds || s.deciding then .next s else
  match s.flight? q idx with
  | none => .next s
  | some f =>
    match f.entry.op with
    | .flagWait _ _ _ timeout =>
      if f.phase = .waiting && timeout ≠ 0 then
        .next ((s.advanceTo (f.waitFrom + timeout)).failWait q idx 0x8002)
      else .next s
    | _ => .next s

/-- FENCE (R138): it completes when its commands have. -/
def execFence (q : QueueId) (idx : Word) (s : State) : Result :=
  .next (s.onStart q idx fun f s => match f.entry.op with
    | .fence _ => (s.startFlight q idx).settle
    | _ => s)

/-- TIMESTAMP (R138): the count at which it started, 8 bytes. -/
def execTimestamp (q : QueueId) (idx : Word) (s : State) : Result :=
  .next (s.onStart q idx fun f s => match f.entry.op with
    | .timestamp dst =>
      let s := s.startFlight q idx
      match firstFault s f.entry.ctx dst.toNat 8 .write with
      | some e => s.mmuFail q idx e
      | none =>
        let out := (segments s f.entry.ctx dst.toNat 8 .write).any fun g =>
          outboundBase ≤ g.addr && !s.windowsHold g.addr g.len false
        let s := writeVa s f.entry.ctx dst.toNat (leBytes 8 s.now.toNat)
        if out then s.fail q idx 0x5006 else s.finish q idx 0
    | _ => s)

/-! ## Rings that the host frees, and host flag writes -/

/-- Write the records a queue holds back, oldest first, while its ring has room (R148). -/
def State.writeHeld (q : QueueId) : Nat → State → State
  | 0, s => s
  | n + 1, s =>
    if s.complFull q then s else
    match s.flights.find? fun (f : Flight) => f.q = q && f.phase = .recordHeld with
    | none => s
    | some f => match f.record with
      | some r => State.writeHeld q n (s.writeRecord f r)
      | none => s

/-- A completion slot frees (R148). -/
def execCompletionSlotFree (q : QueueId) (s : State) : Result :=
  if s.fwUp then .next (State.writeHeld q s.flights.length s).settle else .next s

/-- Journal slots free (R148): the condition of a DISPATCH's start is computed from JHEAD, so only what
depends on the time passed is settled. -/
def execJournalSlotFree (q : QueueId) (s : State) : Result :=
  if s.fwUp && s.queues[q].active then .next s.noteBlocked.settle else .next s

/-- A write to a flag (R149), recorded in record mode (R460). -/
def State.applyHostFlag (s : State) (f : FlagId) (add : Bool) (v : Word) : State :=
  let s := s.record 0x03 0 (leBytes 2 f.val ++ [if add then 1 else 0, 0] ++ leBytes 4 v.toNat) []
  if add then s.addFlag f v else s.setFlag f v

/-- The host writes a flag: in replay the log supplies it (R465). -/
def State.hostFlag (s : State) (f : FlagId) (add : Bool) (v : Word) : State :=
  if s.replaying then s.replayDrop else s.applyHostFlag f add v

def execHostFlagWrite (f : FlagId) (value : Word) (s : State) : Result :=
  let s := s.wakeSlack
  if s.answers then .next (s.hostFlag f false value) else .next s

def execHostFlagAdd (f : FlagId) (value : Word) (s : State) : Result :=
  let s := s.wakeSlack
  if s.answers then .next (s.hostFlag f true value) else .next s

/-! ## Halts -/

/-- A halt write reaches HOSTIF: also during a device reset, which holds it (R122). -/
def State.haltAnswers (s : State) : Bool := s.alive && s.env.reset ≠ .function && !s.frozen

/-- HALT is written 1 with PREEMPT as it stands (R123). -/
def execHaltAll (s : State) : Result :=
  let s := s.wakeSlack
  if s.haltAnswers then .next (s.writeHalt true s.hostif.preempt) else .next s

/-- HALT and PREEMPT are both 1 (R124). -/
def execHaltPreempt (s : State) : Result :=
  let s := s.wakeSlack
  if s.haltAnswers then .next (s.writeHalt true true) else .next s

/-- HALT is written 0 (R125). -/
def execHaltRelease (s : State) : Result :=
  let s := s.wakeSlack
  if s.haltAnswers then .next (s.writeHalt false s.hostif.preempt) else .next s

end Sys2Proof.Machine
end

