-- ==== Sys2Proof/Machine/DispatchOps.lean ====
section
/-! DEFINITION. What starts, moves and ends a DISPATCH (R422–R435, R259–R266), as shared operations. -/

namespace Sys2Proof.Machine

/-! ## Figures of a cargo -/

/-- The entry a DISPATCH runs. -/
def Run.entry? (r : Run) : Option CargoEntry :=
  match r.cargo with
  | some c => c.entries[r.entryNo]?
  | none => none

/-- The part of a save area a DISPATCH counts for (R425). -/
def imageNeed (r : Run) : Nat :=
  let own := match r.cargo, r.entry? with
    | some c, some e => statedLive e * c.quays
    | _, _ => 0
  let back := match r.fallback with
    | some c => match c.entries[0]? with
      | some e => statedLive e * c.quays
      | none => 0
    | none => 0
  let deck := match r.entry? with
    | some e => e.deckCores * 0x1_0000
    | none => 0
  max own back + deck

/-- Where a command's program lies: its cargo, or its fallback cargo (R397, R402). -/
def codeSource (f : Flight) : List Source :=
  match f.entry.op, f.run.cargo with
  | .dispatch cva .., some c => [⟨if f.run.onFallback then f.entry.fallback.toNat else cva.toNat, c.length, true⟩]
  | _, _ => []

/-- Put a cargo's entry at its first tile (R430, R433). -/
def Run.load (r : Run) (c : Cargo) (n : Nat) : Run :=
  let e := c.entries[n]?
  { r with
    cargo := some c, entryNo := n, quays := [], tilesDone := 0
    arrayDone := match e with | some e => e.tiles.isEmpty | none => true
    deckWaiting := match e with | some e => e.tiles.isEmpty && e.deckCores != 0 | none => false
    deckDone := match e with | some e => e.deckCores == 0 | none => true
    deckCores := [], deckSuspended := false, deckTasks := [], deckRan := 0, badWord := none, images := [], stamp := none, adaptive := none, steps := [], counts := []
    stepped := [], preempt := false }

/-- Cycle-table time of the tiles not yet done, in Berth cycles (R432). -/
def remainingCycles (r : Run) : Nat :=
  match r.entry? with
  | some e => (e.tiles.drop r.tilesDone).foldl (fun n t => n + t.cycles) 0
  | none => 0

namespace State

/-- Ticks of the halt in force that a command has been eligible for (R124, R141). -/
def haltSoFar (s : State) (f : Flight) : Nat :=
  if s.haltHolds && f.eligible then s.now.toNat - max s.hostif.haltedAt.toNat f.eligibleAt.toNat else 0

/-- DEADLINE: D in nanoseconds (R432): eligibility, budget and the time halted, that of the halt in force included. -/
def deadline (s : State) (f : Flight) : Nat :=
  f.eligibleAt.toNat * 4 + f.entry.budget.toNat * 1000 + (f.haltTicks + s.haltSoFar f) * 4

/-- Cycle-table time in nanoseconds of the deck part not yet done, doubled at the shed clock (R432). -/
def remainingDeck (s : State) (r : Run) : Nat :=
  if r.deckDone then 0 else
  match r.entry? with
  | some e => e.deckTicks * 4 * if s.deckReduced then 2 else 1
  | none => 0

/-- The live bytes on a Quay that are still to be restored (R432): its Quays are read back side by side (R429). -/
def toRestore (f : Flight) : Nat :=
  if f.phase = .suspended || f.phase = .lightering || f.phase = .restoring then
    match f.run.entry? with
    | some e => (e.tiles[f.run.tilesDone]?.map TileInfo.live).getD 0
    | none => 0
  else 0

/-- The projection P of R432 in nanoseconds × 131 × n, n ÷ 64 being the issue fraction: matrix time over
the fraction, deck time, restore at 65.5 GB/s and admission in 1 µs. -/
def projection (s : State) (f : Flight) : Nat :=
  let n := s.power.fraction
  131 * 64 * remainingCycles f.run + 131 * n * (s.remainingDeck f.run + 1000) + 2 * n * toRestore f

/-- t + P > D (R433). -/
def late? (s : State) (f : Flight) : Bool :=
  131 * s.power.fraction * s.deadline f <
    131 * s.power.fraction * (s.now.toNat * 4) + s.projection f

/-! ## Abandon (R433) -/

/-- Abandon a primary: its image and results are discarded, and its fallback waits for admission,
boosted. -/
def abandon (s : State) (q : QueueId) (idx : Word) : State :=
  match s.flight? q idx with
  | none => s
  | some f => match f.run.fallback with
    | none => s
    | some c =>
      let s := (s.chargePhase f).forgetOutputs f
      let s := s.releaseUnits q idx
      let s := s.record 0x08 0 (cmdArgs q idx) []
      let p := s.projection f / (131 * s.power.fraction * 1000)
      let s := (s.report (s.commandEvent f 0x8005 .information 0)).trace 36 (qi q idx) p
      let s := s.updFlight q idx fun f => { f with
        sources := [], awaiting := f.awaiting && !f.reads.isEmpty
        phase := .admitWait, fallbackRan := true, jcount := 0, resuming := false, phaseFrom := s.now
        haltSuspended := false, shedSuspended := false
        run := { f.run.load c 0 with fallback := none, onFallback := true, boosted := true, deckFrom := s.now } }
      if s.accounts f.entry.ctx then
        s.updCtx f.entry.ctx fun x => { x with fallbacks := satInc x.fallbacks }
      else s

/-- The evaluation of R432 and R433. Replay makes no abandon of its own (R467); a halt makes none (R438). -/
def evaluate (s : State) (q : QueueId) (idx : Word) : State :=
  match s.flight? q idx with
  | none => s
  | some f =>
    if f.entry.budget = 0 || f.run.fallback.isNone || s.haltHolds || s.replaying then s
    else if s.late? f then s.abandon q idx else s

/-! ## Quays of a DISPATCH -/

/-- Quays whose stamp matches, one for each stamped Quay (R430). -/
def matchStamp (s : State) : List (Nat × List Nat) → List QuayId → Option (List QuayId)
  | [], _ => some []
  | e :: es, qs =>
    match qs.find? fun y => s.effectiveShape y = e.1 && s.liveBerths y = e.2 with
    | none => none
    | some y => (matchStamp s es (qs.filter (· ≠ y))).map (y :: ·)

/-- Enough Quays for a DISPATCH among a list. -/
def pickFrom (s : State) (f : Flight) (qs : List QuayId) : Option (List QuayId) :=
  match f.run.cargo with
  | none => none
  | some c =>
    if f.phase = .suspended then
      if f.run.arrayDone then some []
      else match f.run.stamp with
        | some st => if st.family = familyB && st.sfuG1 = s.ready.sfuG1 then s.matchStamp st.quays qs else none
        | none => none
    else if f.run.arrayDone then some []
    else if c.quays ≤ qs.length then some (qs.take c.quays) else none

/-- Quays for a DISPATCH among the usable ones of one partition that a test lets through. -/
def pickIn (s : State) (f : Flight) (p : Nat) (test : QuayId → Bool) : Option (List QuayId) :=
  match f.run.cargo with
  | none => none
  | some c => if f.run.arrayDone then some [] else s.pickFrom f ((s.usableIn p c).filter test)

/-- Quays for a DISPATCH in one of its partitions, the lowest-numbered that has enough (R426). -/
def pick (s : State) (f : Flight) (test : QuayId → Bool) : Option (List QuayId) :=
  if f.run.arrayDone && f.run.cargo.isSome then some []
  else (s.partitionsOf f.entry.ctx).findSome? fun p => s.pickIn f p test

/-! ## Adaptive tensors -/

/-- A DISPATCH has started that runs a cargo with adaptive tensors, or waits to run one again: its restart, or the
fallback of a primary that started. -/
def adapts (x : Flight) : Bool :=
  x.started && match x.run.cargo with
    | some d => !d.adaptive.isEmpty
    | none => false

/-- A DISPATCH whose cargo has adaptive tensors waits for another of its context that runs such a cargo and has no
record yet (R262): also one whose fallback is to run. -/
def adaptiveFree (s : State) (f : Flight) : Bool :=
  match f.run.cargo with
  | some c => c.adaptive.isEmpty || !(s.flights.any fun (x : Flight) =>
      !x.is f.q f.idx && x.entry.ctx = f.entry.ctx && adapts x)
  | none => true

/-- The state an adaptive DISPATCH starts from: its context's, and on its restart or its fallback that
of its first start again (R265, R266). -/
def takeAdaptive (s : State) (q : QueueId) (idx : Word) : State :=
  match s.flight? q idx with
  | none => s
  | some f => match f.run.cargo with
    | none => s
    | some c =>
      let x := s.ctxs[f.entry.ctx]
      let (held, home, gen) := match f.run.adaptive0 with
        | some l => (l, f.run.home, f.run.tableGen)
        | none => (x.adaptive, x.home, x.tableGen)
      s.updFlight q idx fun f => { f with run := { f.run with
        adaptive0 := some held, home, tableGen := gen
        adaptive := if c.adaptive.isEmpty then none else some (startAdaptive held c) } }

/-! ## Sources -/

/-- The first fault of reading sources, in their order (R155). -/
def sourceFault (s : State) (c : CtxId) (l : List Source) : Option MmuFault :=
  l.findSome? fun x => firstFault s c x.va x.len x.access

/-- The code of sources that cannot be read whole: a poisoned line (R317), or a part that no window serves (R127). -/
def sourceCode (s : State) (c : CtxId) (l : List Source) : Option (BitVec 16) :=
  if (s.sourceSegments c l).any fun g => !stale s g.addr && s.mem.poisoned g.addr g.len then some 0x4012
  else if l.any fun x => s.outside c x.va x.len x.access then some 0x5006
  else none

/-! ## Admission -/

/-- The save area holds every DISPATCH of the context that is executing or suspended, this one included
(R425). -/
def saveHolds (s : State) (f : Flight) : Bool :=
  let others := s.flights.filter fun (x : Flight) => !x.is f.q f.idx && x.entry.ctx = f.entry.ctx &&
    x.started && !x.ended && match x.entry.op with | .dispatch .. => true | _ => false
  let need := (f :: others).foldl (fun n x => n + x.run.need) 0x1_0000
  s.saveBytes f.entry.ctx ≠ 0 && need ≤ s.saveBytes f.entry.ctx

/-- May a DISPATCH that waits be admitted now? -/
def mayAdmit (s : State) (f : Flight) : Bool :=
  let c := f.entry.ctx
  (match f.entry.op with | .dispatch .. => true | _ => false) &&
  s.fwUp && s.ready.ready && !s.haltHolds && s.env.power = .d0 && !s.ctxs[c].busy && !s.ctxShed c &&
  !f.haltSuspended && !f.shedSuspended && !f.awaiting && s.ctxs[c].resident && !s.resumesFirst f &&
  !(f.phase = .admitWait && f.run.deckWaiting) &&
  (f.phase = .suspended || (f.phase = .admitWait && s.adaptiveFree f &&
    (f.started || (s.mayStart { f with phase := .sampled, entry := { f.entry with op := .nop } } &&
      255 ≤ s.journalFree f.q))))

/-- The Berths of a list of Quays that must wake first (R201). -/
def asleep (s : State) (qs : List QuayId) : List (QuayId × BerthId) :=
  qs.flatMap fun y => ((List.finRange 4).filter fun b => !(s.berth y b).fenced && (s.berth y b).gated).map
    fun b => (y, b)

/-- Take Quays for a command: what a check stopped there is idle again (R203), and its counts on each Berth go on. -/
def claim (s : State) (qs : List QuayId) (q : QueueId) (idx : Word) : State :=
  let old := match s.flight? q idx with
    | some f => f.run.berthCounts
    | none => []
  qs.foldl (fun s y => s.updQuay y fun x => { x with
    storeOwner := [(q, idx)], pilotRunning := true, clockGated := false
    berths := x.berths.mapFinIdx fun i (b : Berth) _ =>
      let c := (old.find? fun c => c.quay = y && c.berth.val = i).getD ⟨y, 0, 0, 0, 0⟩
      { b with
        seq := if b.seq = .stopped then .idle else b.seq, clockGated := false
        tileNo := c.tiles, passNo := c.passes, sfuPassNo := c.sfuPasses } }) s

/-- Berths that may begin to wake in the present microsecond (R201). -/
def wakesLeft (s : State) : Nat :=
  8 - ((s.quays.toList.flatMap fun (y : Quay) => y.berths.toList).countP fun b => match b.wakeFrom with
    | some t => s.now.toNat < t.toNat + State.msTicks / 1000
    | none => false)

/-- Berths begin to wake: at most eight in any 1 µs, the others when the DISPATCH is next considered (R201). -/
def beginWakes (s : State) (l : List (QuayId × BerthId)) : State :=
  ((l.filter fun (y, b) => !(s.berth y b).waking).take s.wakesLeft).foldl
    (fun s (y, b) => s.updBerth y b ({ · with waking := true, wakeFrom := some s.now })) s

/-- The images in a context's save area, as a source that a restore reads (R429). -/
def imageSource (s : State) (c : CtxId) : List Source := [⟨s.saveBase c + 0x1_0000, s.imageBytes c, false⟩]

/-- Admit a DISPATCH to Quays that are free: gated Berths begin to wake first (R201); then it starts, or
its restore begins (R425, R426, R430). -/
def letIn (s : State) (f : Flight) (qs : List QuayId) : State :=
  let q := f.q
  let idx := f.idx
  let sleepers := s.asleep qs
  if !sleepers.isEmpty then s.beginWakes sleepers
  else if f.phase = .suspended then
    (((s.chargePhase f).claim qs q idx).updFlight q idx fun f => { f with
      phase := .restoring, phaseFrom := s.now, waited := s.waitedTicks f
      run := { f.run with quays := qs } }).askFor q idx (s.imageSource f.entry.ctx)
  else if !s.saveHolds f then s.fail q idx 0x8006
  else
    let s := s.claim qs q idx
    let s := s.updFlight q idx fun f => { f with run := { f.run with quays := qs } }
    let s := if f.started then s.updFlight q idx fun f => { f with
        phase := .executing, resuming := false, waited := s.waitedTicks f }
      else s.startFlight q idx
    (s.takeAdaptive q idx).wakeAll.haltUpdate.noteBlocked.ltrUpdate

/-- A restore is refused (R430): the command restarts from its first tile, or fails. -/
def refuseRestore (s : State) (f : Flight) : State :=
  let q := f.q
  let idx := f.idx
  let again := match f.run.entry? with | some e => e.restartable | none => false
  let s := s.record 0x0E (if again then 1 else 0) (cmdArgs q idx) []
  let s := s.trace 35 (qi q idx) 0
  if again then
    let s := (s.chargePhase f).report (s.commandEvent f 0x8004 .information 0)
    s.updFlight q idx fun f => { f with
      phase := .admitWait, restarted := true, jcount := 0, waited := s.waitedTicks f, phaseFrom := s.now
      run := match f.run.cargo with
        | some c => { f.run.load c f.run.entryNo with deckFrom := s.now }
        | none => f.run }
  else s.fail q idx 0x8004

/-! ## Pre-emption of lower classes (R428, R434) -/

/-- May a newcomer pre-empt a running command? -/
def outranks (s : State) (f v : Flight) : Bool :=
  if f.run.boosted && !v.run.boosted then s.classOf v ≤ s.classOf f
  else if v.run.boosted && !f.run.boosted then false
  else s.classOf v < s.classOf f

/-- The stated image of a running command (R428). -/
def imageOf (f : Flight) : Nat :=
  match f.run.cargo with
  | some c => statedImage c f.run.entryNo
  | none => 0

/-- Does victim `a` come before `b`: lowest class, smallest stated image, started last? -/
def victimBefore (s : State) (a b : Flight) : Bool :=
  if s.classOf a ≠ s.classOf b then s.classOf a < s.classOf b
  else if imageOf a ≠ imageOf b then imageOf a < imageOf b
  else b.startAt.toNat < a.startAt.toNat

/-- A Quay whose command is on its way off it: it Lighters, or stops at its next boundary. -/
def leaving (s : State) (y : QuayId) : Bool :=
  s.flights.any fun (x : Flight) => x.run.quays.contains y &&
    (x.phase = .lightering || (x.phase = .executing && stopAsked x))

/-- Insert in order. -/
def insertBy {α : Type} (before : α → α → Bool) (x : α) : List α → List α
  | [] => [x]
  | y :: ys => if before y x then y :: insertBy before x ys else x :: y :: ys

/-- Sort by an order; equals keep their places. -/
def sortBy {α : Type} (before : α → α → Bool) (l : List α) : List α :=
  l.foldr (insertBy before) []

/-- Fewest victims, in order, that free enough Quays: the Quays gained so far are `got`. -/
def victims (s : State) (f : Flight) (ok : List QuayId → Bool) :
    List Flight → List QuayId → List Flight → Option (List Flight)
  | vs, got, acc =>
    if ok got then some acc.reverse else
    match vs with
    | [] => none
    | v :: vs => victims s f ok vs (got ++ v.run.quays) (v :: acc)

/-- What the scheduler does for one waiting DISPATCH, `taken` being Quays promised to better-ranked ones. -/
inductive Verdict where
  | letIn (quays : List QuayId)
  | refuse
  | preempt (vs : List Flight)
  | wait (promised : List QuayId)
  deriving DecidableEq, Repr

/-- The verdict for one DISPATCH (R426–R430). Victims come from one partition: the one where fewest are needed, the
lowest-numbered of equals (log entry 138). -/
def verdict (s : State) (f : Flight) (taken : List QuayId) : Verdict :=
  let opens (y : QuayId) : Bool := match f.run.cargo with
    | some c => s.quayOpenFor y c (f.phase = .suspended)
    | none => false
  let free (y : QuayId) : Bool := opens y && !(taken.contains y)
  match s.pick f free with
  | some qs => .letIn qs
  | none =>
    if (s.pick f fun _ => true).isNone then .refuse else
    let soon (y : QuayId) : Bool := !(taken.contains y) && (opens y || s.leaving y)
    match s.pick f soon with
    | some qs => .wait qs
    | none =>
      if f.started && !f.run.boosted then .wait [] else
      let running := sortBy s.victimBefore (s.flights.filter fun (x : Flight) =>
        x.phase = .executing && !x.run.quays.isEmpty && !stopAsked x && s.outranks f x)
      let choices := (s.partitionsOf f.entry.ctx).filterMap fun p =>
        let ok (got : List QuayId) : Bool :=
          (s.pickIn f p fun y => soon y || (got.contains y && !(taken.contains y))).isSome
        let here (y : QuayId) : Bool := !(taken.contains y) && match f.run.cargo with
          | some c => (s.usableIn p c).contains y
          | none => false
        s.victims f ok (running.filter fun v => v.run.quays.any here) [] []
      match least List.length choices with
      | some vs => .preempt vs
      | none => .wait []

/-- Go down the waiting DISPATCHes in the order of R426 until one of them calls for an act. -/
def admitFrom (s : State) : List Flight → List QuayId → State
  | [], _ => s
  | f :: fs, taken =>
    match s.verdict f taken with
    | .letIn qs => s.letIn f qs
    | .refuse => if f.phase = .suspended then s.refuseRestore f else s.fail f.q f.idx 0x8003
    | .preempt vs => vs.foldl (fun s v => s.preemptFlight v false false) s
    | .wait p => s.admitFrom fs (taken ++ p)

/-! ## The end of a DISPATCH -/

/-- One entry of a class 2 table (R263). -/
def adaptBytes (a : AdaptState) : List Byte :=
  leBytes 2 a.tensor.toNat ++ [BitVec.ofInt 8 a.exp, BitVec.ofInt 8 a.expMin, BitVec.ofInt 8 a.expMax,
    if a.freeze then 1 else 0, BitVec.ofNat 8 a.lowSteps, BitVec.ofNat 8 a.lowRun] ++
  leBytes 2 a.thresh ++ [0, 0] ++ leBytes 4 (min a.satLast 0xFFFF_FFFF)

/-- Entries to write back to the home: its listed tensors that ran steps, with their places (R265). -/
def homeWrites (r : Run) : List (Nat × AdaptState) :=
  match r.home, r.adaptive with
  | some h, some as =>
    (List.range h.tensors.length).filterMap fun k => match h.tensors[k]? with
      | some t => if r.stepped.contains t then (as.find? (·.tensor == t)).map fun a => (k, a) else none
      | none => none
  | _, _ => []

/-- A table accepted since the command took its adaptive state has set a tensor. -/
def setSince (x : Ctx) (gen : Nat) (t : BitVec 16) : Bool := x.setBy.any fun p => p.1 = t && gen < p.2

/-- Commit the adaptive state: tables accepted while the command ran govern the tensors they list (R266). -/
def commitAdaptive (s : State) (f : Flight) : State :=
  match f.run.adaptive with
  | none => s
  | some as => s.updCtx f.entry.ctx fun x =>
      let set := setSince x f.run.tableGen
      { x with adaptive := (x.adaptive.filter fun (a : AdaptState) => set a.tensor) ++
          as.filter fun (a : AdaptState) => !(set a.tensor) }

end State

end Sys2Proof.Machine
end

