-- ==== Sys2Proof/Machine/DispatchCmds.lean ====
section
/-! DEFINITION. DISPATCH, admission, deadlines, Lightering, residency, cycles of waits and deck parts
(R138, R397–R401, R421–R440). -/

namespace Sys2Proof.Machine

/-! ## DISPATCH -/

/-- The command may be checked: it is eligible, its queue runs, nothing is halted or frozen, and its
context's walk is done (R123, R146, R156). -/
def State.checkable? (s : State) (q : QueueId) (idx : Word) : Option Flight :=
  match s.flight? q idx with
  | some f =>
    if s.fwUp && s.ready.ready && !s.haltHolds && s.env.power = .d0 && s.queues[q].active &&
        !s.queues[q].stopped && f.eligible && !f.started && (f.phase = .sampled || f.phase = .slotWait) &&
        !s.ctxs[f.entry.ctx].busy then some f
    else none
  | none => none

/-- The checks of a DISPATCH before any work starts, in the order of its row (R6, R138, R270, R425, R427,
R435): family, entry, SFU mode, fallback, save area, partition, which an entry without tiles needs too (log entry 128). -/
def State.dispatchCheck (s : State) (f : Flight) (entry : Nat) (cargo : Cargo) (fallback : Option Cargo) :
    Option (BitVec 16) :=
  let c := f.entry.ctx
  let backOk := match fallback with
    | none => f.entry.fallback = 0
    | some b => b.family = familyB && s.sfuFits b && !b.entries.isEmpty && s.enoughQuays c b
  let run : Run := { cargo := some cargo, entryNo := entry, fallback }
  if cargo.family ≠ familyB then some 0x500E
  else if cargo.entries.length ≤ entry then some 0x5001
  else if !s.sfuFits cargo then some 0x2009
  else if !backOk then some 0x8007
  else if s.saveBytes c < 0x1_0000 + imageNeed run then some 0x8006
  else if !s.enoughQuays c cargo then some 0x8003
  else none

/-- What a DISPATCH reads before it is checked: its cargo and its fallback cargo whole, which must be executable
(R154, R397), and its argument block last. Replay brings the arguments with the COMMAND entry (R465). -/
def dispatchSources (f : Flight) (cargo : Cargo) (fallback : Option Cargo) : List Source × Source :=
  match f.entry.op with
  | .dispatch cva entry _ args _ =>
    let argLen := match cargo.entries[entry.toNat]? with
      | some e => e.argLen
      | none => 0
    let back := match fallback with
      | some b => [⟨f.entry.fallback.toNat, b.length, true⟩]
      | none => []
    (⟨cva.toNat, cargo.length, true⟩ :: back,
      ⟨args.toNat, if argLen ≤ f.carried.length then 0 else argLen, false⟩)
  | _ => ([], ⟨0, 0, false⟩)

/-- DISPATCH (R138): its cargo and argument block are read, from host memory by outbound reads (R111), and checked,
and it waits for admission. Its first evaluation against the deadline is made here (R432); a recorded FALLBACK keeps
its primary from running (R467). A source that cannot be read fails it before its cargo is checked (log entry 119). -/
def execDispatch (q : QueueId) (idx : Word) (cargo : Cargo) (fallback : Option Cargo) (s : State) :
    Result :=
  match s.checkable? q idx with
  | none => .next s
  | some f =>
    match f.entry.op with
    | .dispatch _ entry .. =>
      let c := f.entry.ctx
      let fallback := if f.entry.fallback = 0 then none else fallback
      let (code, args) := dispatchSources f cargo fallback
      let all := code ++ [args]
      match s.sourceFault c all with
      | some e => .next ((s.recordBare f).mmuFail q idx e)
      | none =>
        match s.fetching? f all with
        | some s' => .next s'
        | none =>
          match s.sourceCode c all with
          | some reason => .next ((s.recordBare f).fail q idx reason)
          | none =>
            let s := s.recordCommand q idx (s.lastSource f code args)
            match s.dispatchCheck f entry.toNat cargo fallback with
            | some reason => .next (s.fail q idx reason)
            | none =>
              let run : Run := { Run.load {} cargo entry.toNat with fallback }
              let s := s.updFlight q idx fun f => { f with
                phase := .admitWait, sources := [], buffer := []
                run := { run with need := imageNeed run, deckFrom := s.now } }
              if (s.decision 0x08 q idx).isSome then .next (s.abandon q idx)
              else .next (s.evaluate q idx)
    | _ => .next s

/-- A recorded refusal of a restore is applied before the command runs (R467). -/
def State.recordedRestore (s : State) (f : Flight) : Option State :=
  if f.restarted || f.started then none else
  match s.decision 0x0E f.q f.idx with
  | none => none
  | some d =>
    if d.flag then
      some (s.updFlight f.q f.idx ({ · with restarted := true }))
    else some (s.fail f.q f.idx 0x8004)

/-- DISPATCH_ADMIT (R423, R426, R428): contexts of waiting commands that lost their slot ask for one;
the highest-ranked waiting DISPATCH is then admitted, refused, or pre-empts for its Quays. -/
def execDispatchAdmit (s : State) : Result :=
  if !s.fwUp then .next s else
  let s := s.noteBlocked
  let s := s.flights.foldl (fun s f =>
    if (f.phase = .admitWait || f.phase = .suspended || f.phase = .slotWait) && f.entry.op.needsResident then
      s.askSlot f.entry.ctx else s) s
  let waiting := State.sortBy s.admittedBefore (s.flights.filter fun (f : Flight) => s.mayAdmit f)
  match waiting.findSome? s.recordedRestore with
  | some s' => .next s'
  | none => .next (s.admitFrom waiting [])

/-- What the write-back stores in the home (R265): the entries, and the header's FREEZE_ALL where the table sets
it. -/
def State.homeBytes (r : Run) : List (Nat × List Byte) :=
  match r.home with
  | none => []
  | some h =>
    let w := (State.homeWrites r).map fun (k, a) => (h.va.toNat + 16 + 16 * k, State.adaptBytes a)
    if h.freezeAll && !w.isEmpty then w ++ [(h.va.toNat + 8, leBytes 4 1)] else w

/-- Every page that the write-back touches can be written (R265); the first fault otherwise. -/
def State.homeFault (s : State) (c : CtxId) (r : Run) : Option MmuFault :=
  (State.homeBytes r).findSome? fun w => firstFault s c w.1 w.2.length .write

/-- A part of the write-back lies in no window (R127). -/
def State.homeOutside (s : State) (c : CtxId) (r : Run) : Bool :=
  (State.homeBytes r).any fun w => s.outside c w.1 w.2.length .write

/-- Write the home back (R265). -/
def State.writeHome (s : State) (c : CtxId) (r : Run) : State :=
  (State.homeBytes r).foldl (fun s w => writeVa s c w.1 w.2) s

/-- DISPATCH_COMPLETE (R151, R153, R265): the adaptive state goes home, the journal and the record are
written. LATE marks an unanswered budget or a late fallback (R141, R433; log entry 72). -/
def execDispatchComplete (q : QueueId) (idx : Word) (s : State) : Result :=
  if !s.fwUp then .next s else
  match s.flight? q idx with
  | none => .next s
  | some f =>
    match f.entry.op with
    | .dispatch .. =>
      if f.phase = .executing && f.run.arrayDone && f.run.deckDone && !s.tileRunning q idx then
        match s.homeFault f.entry.ctx f.run with
        | some e => .next (s.mmuFail q idx e)
        | none =>
          let out := s.homeOutside f.entry.ctx f.run
          let s := s.writeHome f.entry.ctx f.run
          if out then .next (s.fail q idx 0x5006) else
          let s := s.commitAdaptive f
          let late := f.entry.budget ≠ 0 && (f.entry.fallback = 0 || f.run.onFallback) &&
            s.deadline f < s.now.toNat * 4
          let s := s.updFlight q idx fun f => { f with
            late, jcount := f.run.steps.length }
          let s := match s.flight? q idx with
            | some f => s.writeJournal f
            | none => s
          .next (s.finish q idx (if f.run.onFallback then 0x8005 else 0))
      else .next s
    | _ => .next s

/-! ## Lightering and restores -/

/-- The first fault of the images in a save area, behind its 64 KiB of resident state (R425). -/
def State.saveFault (s : State) (c : CtxId) (acc : Access) : Option MmuFault :=
  firstFault s c (s.saveBase c + 0x1_0000) (s.imageBytes c) acc

/-- What the image holds of a Quay (R424). -/
def State.quayImage (s : State) (y : QuayId) : QuayImage :=
  { store := s.quays[y].store, holds := s.quays[y].berths.toList.map (·.hold) }

/-- LIGHTERING_DONE (R429): the image is in the save area, in a private layout, and the Quays are free. A
fault on the save area fails the command (R425). A store word met uncorrectable is carried (R313, R326); a Hold word
met uncorrectable by the Quay DMA fails the command (R310). -/
def execLighteringDone (q : QueueId) (idx : Word) (words : List StoreWord) (holds : List HoldWord) (s : State) :
    Result :=
  if !s.alive then .next s else
  match s.flight? q idx with
  | none => .next s
  | some f =>
    if f.phase ≠ .lightering then .next s else
    let c := f.entry.ctx
    match s.saveFault c .write with
    | some e => .next (s.mmuFail q idx e)
    | none =>
      if s.outside c (s.saveBase c + 0x1_0000) (s.imageBytes c) .write then
        .next ((s.saveVa c (s.saveBase c + 0x1_0000) (s.imageBytes c)).fail q idx 0x5006)
      else
      let words := words.filter fun w => f.run.quays.contains w.quay
      let holds := holds.filter fun w => f.run.quays.contains w.quay
      let bad := (words.find? (·.ecc = .uncorrectable)).map (·.quay)
      let s := words.foldl (fun s w => s.storeWord w)
        ((s.chargePhase f).saveVa c (s.saveBase c + 0x1_0000) (s.imageBytes c))
      let s := holds.foldl (fun s w => s.holdWord w) s
      match holds.find? (·.ecc = .uncorrectable) with
      | some w => .next ((s.report { s.commandEvent f 0x2002 .contained 0 with
          level := 1, counted := true, quay := BitVec.ofNat 8 w.quay.val
          berth := BitVec.ofNat 8 w.berth.val }).failQuiet q idx 0x2002)
      | none =>
      let images := f.run.quays.map s.quayImage
      let s := (s.releaseUnits q idx).updFlight q idx fun f => { f with
        phase := .suspended, phaseFrom := s.now
        run := { f.run with quays := [], images, badWord := f.run.badWord <|> bad } }
      .next (s.trace 34 (qi q idx) (liveBytes f)).makeRoom.settle

/-- The image returns to the Quays of a restored command, in its order. -/
def State.unpack (s : State) (cmd : QueueId × Word) (r : Run) : State :=
  (r.quays.zip r.images).foldl (fun s (y, m) => s.updQuay y fun x => { x with
    store := m.store
    berths := x.berths.mapFinIdx fun i (b : Berth) _ => match m.holds[i]? with
      | some hold => { b with hold, holdOwner := if hold.isEmpty then b.holdOwner else some cmd }
      | none => b }) s

/-- RESTORE_DONE (R429, R430): the next tile may start, unless the image carries a bad word (R313). -/
def execRestoreDone (q : QueueId) (idx : Word) (s : State) : Result :=
  if !s.fwUp then .next s else
  match s.flight? q idx with
  | none => .next s
  | some f =>
    if f.phase ≠ .restoring || f.awaiting then .next s else
    let c := f.entry.ctx
    match s.saveFault c .read with
    | some e => .next (s.mmuFail q idx e)
    | none =>
      if poisonedVa s c (s.saveBase c + 0x1_0000) (s.imageBytes c) then
        .next (s.fail q idx 0x4012)
      else if s.outside c (s.saveBase c + 0x1_0000) (s.imageBytes c) .read then .next (s.fail q idx 0x5006)
      else if let some y := f.run.badWord then
        .next ((s.report { s.commandEvent f 0x3002 .contained 0 with
          level := 2, counted := true, quay := BitVec.ofNat 8 y.val }).failQuiet q idx 0x3002)
      else
        let s := ((s.unpack (q, idx) f.run).chargePhase f).updFlight q idx fun f => { f with
          phase := .executing, resuming := false
          sources := [], buffer := []
          run := { f.run with
            deckWaiting := f.run.deckWaiting || f.run.deckSuspended, deckSuspended := false, deckFrom := s.now } }
        .next (s.trace 35 (qi q idx) 1).wakeAll.noteBlocked.ltrUpdate

/-! ## Residency -/

/-- The highest class among a context's eligible commands (R423). -/
def State.slotClass (s : State) (c : CtxId) : Nat :=
  s.flights.foldl (fun m (f : Flight) =>
    if f.entry.ctx = c && f.eligible && !f.ended then max m (s.classOf f + 1) else m) 0

/-- The context that takes the next slot: highest class, then longest wait (R423). -/
def State.nextSlot (s : State) : Option CtxId :=
  (List.finRange 256).find? fun c => s.ctxs[c].slotWaiting && !(List.finRange 256).any fun d =>
    s.ctxs[d].slotWaiting && (s.slotClass c < s.slotClass d ||
      (s.slotClass c = s.slotClass d && s.ctxs[d].slotSince.toNat < s.ctxs[c].slotSince.toNat))

/-- The command of a context that its return to a slot serves: the first that waits for it. -/
def State.slotUser (s : State) (c : CtxId) : Option Flight :=
  s.flights.find? fun (f : Flight) => f.entry.ctx = c && !f.ended && f.eligible && f.entry.op.needsResident

/-- Can the state of an evicted context be read back (R345, R425)? The code of the command concerned otherwise. -/
def State.returnFails (s : State) (c : CtxId) : Option (Sum MmuFault (BitVec 16)) :=
  if !s.ctxs[c].saved then none else
  match firstFault s c (s.saveBase c) 0x1_0000 .read with
  | some e => some (.inl e)
  | none =>
    if poisonedVa s c (s.saveBase c) 0x1_0000 then some (.inr 0x4012)
    else if s.outside c (s.saveBase c) 0x1_0000 .read then some (.inr 0x5006)
    else none

/-- The resident state of an evicted context, as a source that its return reads (R424). -/
def State.residentSource (s : State) (c : CtxId) : List Source :=
  if s.ctxs[c].saved then [⟨s.saveBase c, 0x1_0000, false⟩] else []

/-- The slot is filled: what the wait and the reading of the state took is accounted (R436). -/
def State.takeSlot (s : State) (c : CtxId) : State :=
  let waited := s.now.toNat - max s.ctxs[c].slotSince.toNat s.ctxs[c].acctFrom.toNat
  let read := if s.ctxs[c].saved then min waited (Config.residentTicks s.freeCount) else 0
  let s := if s.ctxs[c].saved then s.chargeTransfer c read else s
  let s := s.updCtx c fun x => { x with
    resident := true, slotWaiting := false, saved := false
    waitTicks := if x.valid then x.waitTicks + BitVec.ofNat 64 (waited - read) else x.waitTicks }
  { s with flights := s.flights.map fun (f : Flight) =>
      if f.entry.ctx = c && f.phase = .slotWait then { f with phase := .sampled } else f }

/-- CONTEXT_RESIDENT (R423–R425): the slot is filled, and the context's commands may be admitted; or the state of an
evicted context cannot be read back, and the command concerned fails. State saved in host memory is asked for first
(R111). -/
def execContextResident (c : CtxId) (s : State) : Result :=
  if s.fwUp && s.residents.length < 64 && s.nextSlot = some c then
    match s.returnFails c, s.slotUser c with
    | some (.inl e), some f => .next (s.mmuFail f.q f.idx e)
    | some (.inr code), some f => .next (s.fail f.q f.idx code)
    | _, some f => .next ((s.fetching? f (s.residentSource c)).getD (s.takeSlot c))
    | _, none => .next (s.takeSlot c)
  else .next s

/-! ## Deadlines -/

/-- DEADLINE_EVALUATION (R432): while the command waits, is suspended or restores; never under a halt
(R438). -/
def execDeadlineEvaluation (q : QueueId) (idx : Word) (s : State) : Result :=
  if !s.fwUp then .next s else
  match s.flight? q idx with
  | none => .next s
  | some f =>
    if f.phase = .admitWait || f.phase = .suspended || f.phase = .lightering || f.phase = .restoring then
      .next (s.evaluate q idx).settle
    else .next s

/-! ## Cycles of waits (R437) -/

/-- The flag a queue's next command waits on, with the command's index. -/
def State.waitsOn (s : State) (q : QueueId) : Option (FlagId × Word) :=
  match s.headOf q with
  | some f => match f.entry.op with
    | .flagWait g _ _ _ => if f.phase = .waiting then some (g, f.idx) else none
    | _ => none
  | none => none

/-- Does an entry set a flag? -/
def Op.sets (op : Op) (g : FlagId) : Bool :=
  match op with
  | .flagSet f _ | .flagAdd f _ => f = g
  | _ => false

/-- Does a queue hold a setter of a flag, from its held command to TAIL, 1,024 entries at most? Entries
past HEAD are read in a ring in companion memory. -/
def State.holdsSetter (s : State) (q : QueueId) (g : FlagId) : Bool :=
  let mine := (s.flights.filter fun (f : Flight) => f.q = q && State.unstarted f).take 1024
  let x := s.queues[q]
  let more := if x.active && x.hdr.ring < outboundBase then
      min (1024 - mine.length) (s.headerWord q 0x10 - x.head).toNat else 0
  (mine.any fun f => f.entry.op.sets g) || (List.range more).any fun i =>
    (decodeEntry (s.entryBytes q (x.head + BitVec.ofNat 32 i))).op.sets g

/-- A flag that a bound stream or an enabled session moves keeps its waits out of the graph. -/
def State.movedByUnit (s : State) (g : FlagId) : Bool :=
  (s.streams.toList.any fun x => match x.binding with | some b => b.flag = g | none => false) ||
  (s.sessions.toList.any fun x => x.active && match x.desc with | some d => d.flag = g | none => false)

/-- Edges of the graph: queue, the index and flag of its wait, and the queue that holds a setter. -/
def State.waitEdges (s : State) : List (List Nat) :=
  let nodes := (List.finRange 256).filterMap fun q => match s.waitsOn q with
    | some (g, i) => if s.movedByUnit g then none else some (q, i, g)
    | none => none
  nodes.flatMap fun (q, i, g) => (nodes.filter fun n => s.holdsSetter n.1 g).map fun n =>
    [q.val, i.toNat, g.val, n.1.val]

/-- Queues one edge away. -/
def edgesFrom (es : List (List Nat)) (a : Nat) : List Nat :=
  es.filterMap fun e => if e[0]? = some a then e[3]? else none

/-- Steps from any of a list of queues to a queue, up to the fuel; 0 when it is among them. -/
def distanceTo (es : List (List Nat)) (target : Nat) : Nat → List Nat → Option Nat
  | 0, _ => none
  | n + 1, qs =>
    if qs.contains target then some 0
    else (distanceTo es target n (qs.flatMap (edgesFrom es)).dedup).map (· + 1)

/-- Length of the shortest closed path through a queue. -/
def cycleLength (es : List (List Nat)) (a : Nat) : Option Nat :=
  (distanceTo es a 256 (edgesFrom es a)).map (· + 1)

/-- CYCLE_CHECK (R437): the queues on a closed path of edges that stood at two consecutive checks stop
with 0x8001. -/
def execCycleCheck (s : State) : Result :=
  if !s.fwUp || s.haltHolds || s.deciding then .next s else
  let now := s.waitEdges
  let both := now.filter fun e => s.sched.lastCycles.contains e
  let s := { s with sched := { s.sched with lastCycles := now } }
  let on := (List.finRange 256).filter fun q => (cycleLength both q.val).isSome
  match on with
  | [] => .next s
  | a :: _ =>
    let len := (cycleLength both a.val).getD 0
    let b := ((edgesFrom both a.val).filter fun x =>
      distanceTo both a.val 256 [x] = some (len - 1)).foldl min 255
    let flag := match s.waitsOn a with | some (g, _) => g.val | none => 0
    let s := if s.sched.cycleValid then s else
      { s with sched := { s.sched with
        cycleValid := true, cycleLength := BitVec.ofNat 8 (min len 255)
        queueB := BitVec.ofNat 8 b, queueA := BitVec.ofNat 8 a.val
        cycleFlag := BitVec.ofNat 10 flag } }
    .next (on.foldl (fun s q => match s.waitsOn q with
      | some (_, i) => s.failWait q i 0x8001
      | none => s) s)

/-! ## Contexts -/

/-- VALID is written 1 (R156, R421): the walk begins, and the counters are cleared (R439). -/
def State.registerCtx (s : State) (c : CtxId) : State :=
  if s.ctxs[c].valid then s else
  s.updCtx c fun x => { x with
    valid := true, busy := true, waitTicks := 0, lighterTicks := 0, preempts := 0, fallbacks := 0
    evictions := 0, acctFrom := s.now }

/-- INVAL is written 1 (R156). -/
def State.invalidateCtx (s : State) (c : CtxId) : State :=
  if s.ctxs[c].valid then s.updCtx c fun x => { x with busy := true, inval := true } else s

/-- VALID is written 0 (R156); a walk in progress ends with it (log entry 134). -/
def State.unregisterCtx (s : State) (c : CtxId) : State :=
  if !s.ctxs[c].valid then s
  else s.updCtx c fun x => { x with
    valid := false, busy := false, inval := false, resident := false, slotWaiting := false
    saved := false, adaptive := [], home := none, freezeAll := false }

/-- What a write of CTX_nCTRL does (R158): a HOST_FLAG entry records it (R460). One that clears VALID is
dropped while a command that names the context is in flight (R156). VALID acts before INVAL (log entry 133). -/
def State.applyCtxCtrl (s : State) (c : CtxId) (v : Nat) : State :=
  if v % 2 = 0 && s.ctxs[c].valid && s.flights.any fun (f : Flight) => f.entry.ctx = c then
    s.report { reason := 0x500B, severity := .information, ctx := BitVec.ofNat 16 c.val }
  else
  let s := s.recordRegWrite (0x3_0000 + 0x20 * c.val + 8) v
  let s := s.updCtx c fun x => { x with prioMax := BitVec.ofNat 3 (v / 256) }
  let s := if v % 2 = 1 then s.registerCtx c else s.unregisterCtx c
  if v / 2 % 2 = 1 then s.invalidateCtx c else s

/-- The host writes CTX_nCTRL: in replay the log supplies it (R465). -/
def State.writeCtxCtrl (s : State) (c : CtxId) (v : Nat) : State :=
  if s.replaying then s.replayDrop else s.applyCtxCtrl c v

/-- CTX_nCTRL as it stands, but for VALID and INVAL. -/
def State.ctxPrio (s : State) (c : CtxId) : Nat := 256 * s.ctxs[c].prioMax.toNat

def execContextRegister (c : CtxId) (s : State) : Result :=
  let s := s.wakeSlack
  if s.answers then .next (s.writeCtxCtrl c (s.ctxPrio c + 1)) else .next s

/-- INVAL is written 1 with VALID as it stands. -/
def execContextInvalidate (c : CtxId) (s : State) : Result :=
  let s := s.wakeSlack
  if s.answers then .next (s.writeCtxCtrl c (s.ctxPrio c + 2 + if s.ctxs[c].valid then 1 else 0))
  else .next s

def execContextUnregister (c : CtxId) (s : State) : Result :=
  let s := s.wakeSlack
  if s.answers then .next (s.writeCtxCtrl c (s.ctxPrio c)) else .next s

/-- TABLE_WALK_DONE (R107, R156): every mapped page not yet cleared is zeroed; BUSY and INVAL clear. -/
def execTableWalkDone (c : CtxId) (s : State) : Result :=
  if !s.fwUp || !s.ctxs[c].busy then .next s else
  let pages := (mappedPages s (fun _ => true) 4 (s.ctxs[c].root.toNat / 2048 * 2048)).dedup
  let fresh := pages.filter fun p => !(s.mem.cleared.contains p)
  let s := fresh.foldl (fun s p => zeroPage s (p * 0x1_0000)) s
  .next (s.updCtx c fun x => { x with busy := false, inval := false })

/-- ACCT_CLEAR (R436, R439): the five counters at one instant; what goes on counts from here. -/
def State.clearAcct (s : State) (c : CtxId) : State :=
  s.updCtx c fun x => { x with
    waitTicks := 0, lighterTicks := 0, preempts := 0, fallbacks := 0, evictions := 0, acctFrom := s.now }

def execAcctClear (c : CtxId) (s : State) : Result :=
  let s := s.wakeSlack
  if s.answers then .next (s.clearAcct c) else .next s

/-! ## Deck parts (R397–R401) -/

/-- Cores of the deck that no part holds. -/
def State.freeCores (s : State) : List DeckId :=
  (List.finRange 8).filter fun n => s.deckOwner[n].isNone

/-- A deck part that waits for its cores: its DISPATCH executes, or is a deck-only one that may start. -/
def State.deckReady (s : State) (f : Flight) : Bool :=
  f.run.deckWaiting && !s.ctxShed f.entry.ctx && s.ctxs[f.entry.ctx].resident &&
  (f.phase = .executing || (f.phase = .admitWait && !s.haltHolds && !s.resumesFirst f && (f.started ||
    (s.mayStart { f with phase := .sampled, entry := { f.entry with op := .nop } } &&
      255 ≤ s.journalFree f.q && s.adaptiveFree f))))

/-- Priority class, then eligibility order (R397). -/
def State.deckBefore (s : State) (a b : Flight) : Bool :=
  if s.classOf a ≠ s.classOf b then s.classOf b < s.classOf a
  else a.eligibleAt.toNat < b.eligibleAt.toNat

/-- What keeps a deck-only DISPATCH from starting (R162, R425): too few usable Quays, or a save area that is too
small. -/
def State.deckRefused (s : State) (f : Flight) : Option (BitVec 16) :=
  if f.phase ≠ .admitWait then none
  else if match f.run.cargo with | some c => !s.enoughQuays f.entry.ctx c | none => true then some 0x8003
  else if !s.saveHolds f then some 0x8006
  else none

/-- The cores of a deck part are its own from here on; one that was suspended goes on with its tasks' own state
(R398, R401). -/
def State.takeCores (s : State) (f : Flight) (cores : List DeckId) : State :=
  let s := { s with deckOwner := Vector.ofFn fun (i : DeckId) =>
    if cores.contains i then some (f.q, f.idx) else s.deckOwner[i] }
  let s := s.updFlight f.q f.idx fun f => { f with
    run := { (if f.started then s.deckSettled f.run else f.run) with
      deckWaiting := false, deckCores := cores, deckFrom := s.now
      deckTasks := if f.run.deckTasks.isEmpty then List.replicate cores.length DeckTask.start else f.run.deckTasks } }
  if f.phase = .admitWait then
    if f.started then s.updFlight f.q f.idx fun f => { f with phase := .executing, resuming := false }
    else (s.startFlight f.q f.idx).takeAdaptive f.q f.idx
  else s

/-- DECK_PART_START (R397): the first waiting part takes its cores once enough are free. A deck-only
DISPATCH starts here. Its tasks fetch their program through the context's MMU. -/
def execDeckPartStart (s : State) : Result :=
  if !s.fwUp || s.env.power ≠ .d0 then .next s else
  match State.sortBy s.deckBefore (s.flights.filter s.deckReady) with
  | [] => .next s
  | f :: _ =>
    let n := match f.run.entry? with | some e => e.deckCores | none => 0
    let cores := s.freeCores.take n
    if cores.length < n then .next s else
    match s.deckRefused f, s.sourceFault f.entry.ctx (codeSource f) with
    | some code, _ => .next (s.fail f.q f.idx code)
    | none, some e => .next (s.mmuFail f.q f.idx e)
    | none, none => .next (s.takeCores f cores).wakeAll.haltUpdate.noteBlocked.ltrUpdate

/-- The DISPATCH whose deck part runs. -/
def State.deckRunning? (s : State) (q : QueueId) (idx : Word) : Option Flight :=
  match s.flight? q idx with
  | some f => if f.phase = .executing && !f.run.deckCores.isEmpty then some f else none
  | none => none

/-- The bytes that a store of a deck task writes (R398): a reduction is in the rounding mode its task holds. -/
def deckData (x : DeckStore) (tasks : List DeckTask) : List Byte :=
  match x.value with
  | .bytes data => data
  | .reduce ordered sum mode scalar elems =>
    let held := (tasks[x.task]?.map DeckTask.rounding).getD .nearestEven
    let task : DeckTask := { DeckTask.start with rounding := mode.getD held }
    match sum, ordered with
    | .f32, true => leBytes 4 (vfredosum .f32 task.rounding scalar elems)
    | .f32, false => leBytes 4 (task.vfredusum .f32 scalar elems)
    | .f64, true => leBytes 8 (vfredosum .f64 task.rounding scalar elems)
    | .f64, false => leBytes 8 (task.vfredusum .f64 scalar elems)
    | .widening, true => leBytes 8 (vfwredosum .f32 .f64 task.rounding scalar elems)
    | .widening, false => leBytes 8 (task.vfwredusum .f32 .f64 scalar elems)

/-- The stores of a deck part in their order, through the context's MMU, up to the first that faults or that no
window serves whole (R127, R397). -/
def State.deckStores (s : State) (c : CtxId) (tasks : List DeckTask) :
    List DeckStore → State × Option (Sum MmuFault (BitVec 16))
  | [] => (s, none)
  | x :: xs =>
    let data := deckData x tasks
    match firstFault s c x.va.toNat data.length .write with
    | some e => (s, some (.inl e))
    | none =>
      let out := s.outside c x.va.toNat data.length .write
      let s := writeVa s c x.va.toNat data
      if out then (s, some (.inr 0x5006)) else s.deckStores c tasks xs

/-- A corrected word of the L2 is counted only (R400; log entry 120). -/
def State.countL2 (s : State) : State :=
  { s with faults := { s.faults with corrected := satInc s.faults.corrected } }

/-- DECK_PART_END (R397–R400): its stores are the memory's, the lines that the L2 holds dirty written back, and its
cores are free. `words` are the L2 words of the part that ECC finds wrong, line by line: an uncorrectable one fails its
command. -/
def execDeckPartEnd (q : QueueId) (idx : Word) (stores : List DeckStore) (words : List (Nat × EccResult))
    (s : State) : Result :=
  match s.deckRunning? q idx with
  | none => .next s
  | some f =>
    if s.env.reset ≠ .none || s.frozen then .next s else
    let s := (words.filter (·.2 = .corrected)).foldl (fun s _ => s.countL2) s
    let (s, bad) := s.deckStores f.entry.ctx f.run.deckTasks stores
    match words.find? (·.2 = .uncorrectable), bad with
    | some (line, _), _ =>
      .next ((s.report { s.commandEvent f 0x4022 .contained 0 with counted := true }).countRepair
        (.l2Line line) 3 0x4022 |>.failQuiet q idx 0x4022)
    | none, some (.inl e) => .next (s.mmuFail q idx e)
    | none, some (.inr code) => .next (s.fail q idx code)
    | none, none =>
      let s := s.updFlight q idx fun f => { f with run := { f.run with deckDone := true, deckCores := [], deckTasks := [] } }
      .next { s with deckOwner := s.deckOwner.map fun o => if o = some (q, idx) then none else o }

/-- Capture a fault of a deck core: a captured one stays until it is cleared (R399). -/
def State.captureDeck (s : State) (core : DeckId) (cause : Byte) : State :=
  if s.deckFaults[core].valid then s
  else { s with deckFaults := s.deckFaults.set core.val { valid := true, cause } }

/-- The trap that the log entry and the fault record name: the first in Tide order, the lowest-numbered core of
equals (R399). -/
def firstTrap (traps : List TrapSeen) : Option TrapSeen :=
  State.least (fun t => 8 * t.tide.toNat + t.core.val) traps

/-- DECK_TRAP (R399): the cores of a part that trapped before all had stopped capture their traps, and the
command fails. -/
def execDeckTrap (traps : List TrapSeen) (s : State) : Result :=
  match traps.findSome? fun t => s.deckOwner[t.core] with
  | none => .next s
  | some (q, idx) =>
    let mine := traps.filter fun t => s.deckOwner[t.core] = some (q, idx)
    match s.deckRunning? q idx, firstTrap mine with
    | some _, some t =>
      let s := mine.foldl (fun s t => s.captureDeck t.core (trapCause t.why)) (s.advanceTo t.tide)
      .next (s.failWith q idx 0x4020 .contained t.pc.toNat)
    | _, _ => .next s

/-- CAUSE of a watchdog in DECK_CnFAULT. -/
def watchdogCause : Byte := 0xFF

/-- DECK_WATCHDOG (R399): the part has run for twice the cycle-table time plus 1 ms, its runs before a suspension
included. -/
def execDeckWatchdog (q : QueueId) (idx : Word) (s : State) : Result :=
  match s.deckRunning? q idx with
  | none => .next s
  | some f =>
    let stated := match f.run.entry? with | some e => e.deckTicks | none => 0
    let left := 2 * stated + State.msTicks - f.run.deckRan
    let s := s.advanceTo (f.run.deckFrom + BitVec.ofNat 64 left)
    match State.least Fin.val f.run.deckCores with
    | some core => .next ((s.captureDeck core watchdogCause).failWith q idx 0x4021 .contained 0)
    | none => .next s

end Sys2Proof.Machine
end

