-- ==== Sys2Proof/Machine/CopyCmds.lean ====
section
/-! DEFINITION. COPY, PEER_COPY, TABLE_LOAD, STREAM_BIND and the completions of outbound reads (R127,
R130, R138, R360, R374, R375, R427, R263–R265). -/

namespace Sys2Proof.Machine

/-! ## The four copy channels (R427) -/

/-- Does an opcode use a copy channel? -/
def Op.copies : Op → Bool
  | .copy .. | .peerCopy .. | .tableLoad .. => true
  | _ => false

namespace State

/-- Channels in use. -/
def channelsUsed (s : State) : Nat :=
  (s.flights.filter fun (f : Flight) => f.entry.op.copies && f.started && !f.ended).length

/-- A copy may start: a channel is free, and no other waiting copy comes before it (R426, R427). -/
def channelFor (s : State) (f : Flight) : Bool :=
  s.channelsUsed < 4 && !(s.flights.any fun (g : Flight) => g.entry.op.copies && !g.is f.q f.idx &&
    (s.startable? g.q g.idx).isSome && s.admittedBefore g f)

/-! ## Sources -/

/-- A command whose requests were issued as far as a window serves them ends: FAILED where a part was not (R127). -/
def finishIssued (s : State) (q : QueueId) (idx : Word) (outside : Bool) : State :=
  if outside then s.fail q idx 0x5006 else s.finish q idx 0

end State

/-! ## COPY -/

/-- Do [a, a + n) and [b, b + n) share an address? -/
def rangesMeet (a b n : Nat) : Bool := a < b + n && b < a + n

/-- COPY (R138): it takes a channel; overlapping ranges fail before any byte moves; a source in host
memory is read. -/
def execCopy (q : QueueId) (idx : Word) (s : State) : Result :=
  .next (s.onStart q idx fun f s => match f.entry.op with
    | .copy src dst len =>
      if !s.channelFor f then s else
      let c := f.entry.ctx
      if rangesMeet src.toNat dst.toNat len.toNat then s.fail q idx 0x5001 else
      let s := s.startFlight q idx
      match (firstFault s c src.toNat len.toNat .read).or (firstFault s c dst.toNat len.toNat .write) with
        | some e => s.mmuFail q idx e
        | none => (s.askSource q idx).haltUpdate.ltrUpdate
    | _ => s)

/-- A copy that runs and whose source has come. -/
def State.copying? (s : State) (q : QueueId) (idx : Word) : Option Flight :=
  match s.flight? q idx with
  | some f => if s.fwUp && f.phase = .executing && !f.awaiting then some f else none
  | none => none

/-- COPY_DONE (R138): the last byte has moved; a part that no window serves was not issued (R127). -/
def execCopyDone (q : QueueId) (idx : Word) (s : State) : Result :=
  match s.copying? q idx with
  | none => .next s
  | some f => match f.entry.op with
    | .copy src dst len =>
      let c := f.entry.ctx
      if poisonedVa s c src.toNat len.toNat then .next (s.fail q idx 0x4012)
      else
        let data := s.sourceBytes (segments s c src.toNat len.toNat .read) f.buffer
        let out := s.outside c src.toNat len.toNat .read || s.outside c dst.toNat len.toNat .write
        .next ((writeVa s c dst.toNat data).finishIssued q idx out)
    | _ => .next s

/-! ## PEER_COPY -/

/-- PEER_COPY (R138): DST and SIGNAL are outbound addresses. -/
def execPeerCopy (q : QueueId) (idx : Word) (s : State) : Result :=
  .next (s.onStart q idx fun f s => match f.entry.op with
    | .peerCopy src _ len _ _ =>
      if !s.channelFor f then s else
      let c := f.entry.ctx
      let s := s.startFlight q idx
      match firstFault s c src.toNat len.toNat .read with
      | some e => s.mmuFail q idx e
      | none => (s.askSource q idx).haltUpdate.ltrUpdate
    | _ => s)

/-- PEER_COPY_DONE (R138): the data, then the signal, have been issued. Where a part of the data was not issued, the
command fails and signals nothing (R127; log entry 103). -/
def execPeerCopyDone (q : QueueId) (idx : Word) (s : State) : Result :=
  match s.copying? q idx with
  | none => .next s
  | some f => match f.entry.op with
    | .peerCopy src dst len value signal =>
      let c := f.entry.ctx
      if poisonedVa s c src.toNat len.toNat then .next (s.fail q idx 0x4012)
      else
        let data := s.sourceBytes (segments s c src.toNat len.toNat .read) f.buffer
        let s := s.outboundWrite dst.toNat data false
        let out := s.outside c src.toNat len.toNat .read || !s.windowsHold dst.toNat len.toNat false
        if signal = 0 || out then .next (s.finishIssued q idx out)
        else .next ((s.outboundWrite signal.toNat (leBytes 4 value.toNat) false).finishIssued q idx
          (!s.windowsHold signal.toNat 4 false))
    | _ => .next s

/-! ## TABLE_LOAD -/

/-- The primitives a class 1 table serves (R374, R369). -/
def tablePrims (table : Nat) : List Primitive :=
  match table with
  | 0 => [.black, .wb]
  | 1 => [.tone]
  | 2 => [.shading]
  | 3 => [.defect]
  | 4 => [.mesh]
  | 5 => [.hdr]
  | 6 => [.denoise]
  | 7 => [.csc]
  | _ => []

/-- LENGTH matches the table (R374). -/
def tableLengthOk (table len : Nat) : Bool :=
  match table with
  | 0 => len = 64
  | 1 => len = 2048
  | 2 | 4 => len = 8712
  | 3 => 4 ≤ len && len ≤ 4 + 4 * 8192 && len % 4 = 0
  | 5 | 6 => len = 16
  | 7 => len = 32
  | _ => false

/-- The table's contents are allowed (R374, R375): its reserved bytes are zero, its count matches. -/
def tableBodyOk (table : Nat) (b : List Byte) : Bool :=
  match table with
  | 0 => zeroAt b 0x28 24
  | 3 => fieldAt b 0 4 ≤ 8192 && b.length = 4 + 4 * fieldAt b 0 4
  | 5 => zeroAt b 12 4
  | 6 => zeroAt b 4 12
  | 7 => zeroAt b 25 7 && fieldAt b 24 1 ≤ 1
  | _ => true

/-- What can be refused of a class 1 table before it is read (R375). -/
def State.tableAllowed (s : State) (unit table len : Nat) : Bool :=
  if h : unit < 24 then
    match s.definedAs ⟨unit, h⟩ with
    | some d => tableLengthOk table len && (tablePrims table).any fun p => d.prims.contains p
    | none => false
  else false

/-- Signed value of a byte of a table. -/
def byteInt (b : List Byte) (off : Nat) : Int := (BitVec.ofNat 8 (fieldAt b off 1)).toInt

/-- The entries of a class 2 table (R263). -/
def adaptEntries (b : List Byte) : List AdaptState :=
  (List.range ((b.length - 16) / 16)).map fun k =>
    let e := b.drop (16 + 16 * k)
    { tensor := BitVec.ofNat 16 (fieldAt e 0 2), exp := byteInt e 2, expMin := byteInt e 3
      expMax := byteInt e 4, freeze := fieldAt e 5 1 = 1, lowSteps := fieldAt e 6 1
      thresh := fieldAt e 8 2, lowRun := fieldAt e 7 1, satLast := 0 }

/-- A class 2 table is accepted (R264). -/
def adaptTableOk (b : List Byte) : Bool :=
  let n := fieldAt b 6 2
  let es := adaptEntries b
  fieldAt b 0 4 = 0x5341_4A4F && fieldAt b 4 2 = 1 && 1 ≤ n && n ≤ 1024 && b.length = 16 + 16 * n &&
  fieldAt b 8 4 ≤ 1 && zeroAt b 12 4 &&
  (List.range n).all (fun k => fieldAt b (16 + 16 * k + 5) 1 ≤ 1 && zeroAt b (16 + 16 * k + 10) 2) &&
  es.all (fun a => -16 ≤ a.expMin && a.expMin ≤ a.exp && a.exp ≤ a.expMax && a.expMax ≤ 15 &&
    1 ≤ a.lowSteps && a.lowRun < a.lowSteps) &&
  (es.map (·.tensor)).dedup.length = n

/-- A table that is accepted sets the state of every tensor it lists, and its place is the home (R265). -/
def State.acceptAdapt (s : State) (c : CtxId) (va : BitVec 64) (b : List Byte) : State :=
  let es := adaptEntries b
  s.updCtx c fun x => { x with
    adaptive := (es.map fun a => { a with
        satLast := match x.adaptive.find? (·.tensor == a.tensor) with | some o => o.satLast | none => 0 }) ++
      x.adaptive.filter fun (o : AdaptState) => !(es.any (·.tensor == o.tensor))
    freezeAll := fieldAt b 8 4 = 1
    home := some { va, tensors := es.map (·.tensor), freezeAll := fieldAt b 8 4 = 1 }
    tableGen := x.tableGen + 1
    setBy := es.map (fun a => (a.tensor, x.tableGen + 1)) ++
      x.setBy.filter fun (o : BitVec 16 × Nat) => !(es.any (·.tensor == o.1)) }

/-- A class 1 table waits for its stream's next frame start; of two, the last load wins (R374). -/
def State.acceptTable (s : State) (i : SctxId) (table : Nat) (b : List Byte) (at_ : Tick) : State :=
  s.updStream i fun x => { x with
    nextTables := (x.nextTables.filter fun t => t.1 != table) ++ [(table, b, at_)] }

/-- The count of a command that acts on a stream: in replay that of its entry (R465). -/
def State.actsAt (s : State) (f : Flight) : Tick := f.recordedAt.getD s.now

/-- The contents have come: a TABLE_LOAD takes effect or is refused (R264, R375). -/
def State.loadTable (s : State) (f : Flight) (b : List Byte) : State :=
  let s := s.recordCommand f.q f.idx b
  match f.entry.op with
  | .tableLoad 1 unit table _ _ =>
    if tableBodyOk table b then (s.acceptTable (Fin.ofNat 24 unit) table b (s.actsAt f)).finish f.q f.idx 0
    else s.fail f.q f.idx 0xA006
  | .tableLoad _ _ _ _ src =>
    if adaptTableOk b then (s.acceptAdapt f.entry.ctx src b).finish f.q f.idx 0
    else s.fail f.q f.idx 0xD005
  | _ => s

/-- Refused before its contents are read: a class 1 table that cannot be the stream's, or a class 2 table
whose LENGTH no COUNT gives (R264, R375). -/
def State.tableCode (s : State) (cls unit table len : Nat) : Option (BitVec 16) :=
  if cls = 1 then if s.tableAllowed unit table len then none else some 0xA006
  else if len % 16 = 0 && 32 ≤ len && len ≤ 16 + 16 * 1024 then none else some 0xD005

/-- TABLE_LOAD (R138): a source in host memory is read first. -/
def execTableLoad (q : QueueId) (idx : Word) (s : State) : Result :=
  .next (s.onStart q idx fun f s => match f.entry.op with
    | .tableLoad cls unit table len src =>
      if !s.channelFor f then s else
      let c := f.entry.ctx
      let s := s.startFlight q idx
      match s.tableCode cls unit table len.toNat with
      | some code => (s.recordBare f).fail q idx code
      | none =>
        if 0 < len.toNat && len.toNat ≤ f.carried.length then s.loadTable f (f.carried.take len.toNat) else
        match firstFault s c src.toNat len.toNat .read with
        | some e => (s.recordBare f).mmuFail q idx e
        | none =>
          if poisonedVa s c src.toNat len.toNat then (s.recordBare f).fail q idx 0x4012
          else if s.dueOf c (sourceOf f.entry.op) ≠ 0 then (s.askSource q idx).haltUpdate.ltrUpdate
          else if s.outside c src.toNat len.toNat .read then (s.recordBare f).fail q idx 0x5006
          else s.loadTable f (readVa s c src.toNat len.toNat)
    | _ => s)

/-! ## STREAM_BIND -/

/-- Put a binding in force: after the frame in progress, at once when there is none (R138, R360). In replay a recorded frame
that started before the command is still to come (R465). -/
def State.bindStream (s : State) (i : SctxId) (b : Binding) (recordedAt : Option Tick) : State :=
  s.updStream i fun x =>
    if x.frame.isSome || (recordedAt.isSome && x.binding.isSome) then
      { x with nextBinding := some (some b), nextBindAt := recordedAt.getD s.now }
    else { x with
      binding := some b, nextBinding := none, consumed := 0, frames := 0, tornCount := 0
      tableCount := 0, historyValid := false }

/-- STREAM_BIND (R138, R360). -/
def execStreamBind (q : QueueId) (idx : Word) (s : State) : Result :=
  .next (s.onStart q idx fun f s => match f.entry.op with
    | .streamBind sctx bind flag count va stride =>
      let i : SctxId := Fin.ofNat 24 sctx
      let s := s.startFlight q idx
      match s.definedAs i with
      | none => s.fail q idx 0xA004
      | some d =>
        if !bind then (s.endBinding i).finish q idx 0
        else if stride.toNat < defSize d + 0x1_0000 then s.fail q idx 0xA005
        else (s.bindStream i { ctx := f.entry.ctx, flag, count, va, stride, queue := q } f.recordedAt).finish q idx 0
    | _ => s)

/-! ## Completions of outbound reads (R130) -/

/-- A command whose entry could not be fetched whole fails in its place in the queue. -/
def State.sampleFailed (s : State) (q : QueueId) (reason : BitVec 16) : State :=
  let idx := s.queues[q].head
  let s := { s with flights := s.flights ++
    [{ q, idx, entry := decodeEntry (List.replicate 64 0), raw := List.replicate 64 0 : Flight }] }
  (s.setHead q (idx + 1)).fail q idx reason

/-- The last bytes of a source have come. -/
def State.sourceCame (s : State) (q : QueueId) (idx : Word) : State :=
  let s := s.updFlight q idx ({ · with awaiting := false, reads := [] })
  match s.flight? q idx with
  | some f => match f.entry.op with
    | .tableLoad _ _ _ len src =>
      if s.outside f.entry.ctx src.toNat len.toNat .read then (s.recordBare f).fail q idx 0x5006
      else s.loadTable f (s.sourceBytes (segments s f.entry.ctx src.toNat len.toNat .read) f.buffer)
    | _ => s
  | none => s

/-- A command whose data never came leaves its bare COMMAND entry: a TABLE_LOAD, and a DISPATCH that was being
checked (R460). -/
def State.recordUnread (s : State) (f : Flight) : State :=
  match f.entry.op with
  | .tableLoad .. => s.recordBare f
  | .dispatch .. => if f.started || f.phase = .admitWait then s else s.recordBare f
  | _ => s

/-- What a failed completion sets in AER, and the code the command fails with. -/
def cplError : CplStatus → Option (AerKind × BitVec 16)
  | .data _ => none
  | .poisoned => some (.poisonedTlp, 0x5004)
  | .unsupported => some (.unsupportedRequest, 0x5006)
  | .abort => some (.completerAbort, 0x5006)

/-- OUTBOUND_COMPLETION (R130): an entry is sampled, or bytes of a source arrive, lowest address first; tags that
become free let further requests go out (R111). -/
def execOutboundCompletion (purpose : CplFor) (status : CplStatus) (s : State) : Result :=
  if !s.alive then .next s else
  match purpose with
  | .entry q =>
    let x := s.queues[q]
    if !x.active || x.stopped || x.fetching = 0 then .next s else
    let s := s.updQueue q ({ · with fetching := x.fetching - 1 })
    match status, cplError status with
    | .data bytes, _ => .next (s.sample q ((bytes ++ List.replicate 64 0).take 64))
    | _, some (k, code) => .next ((s.sendAer k).sampleFailed q code)
    | _, none => .next s
  | .command q idx =>
    match s.flight? q idx with
    | none => .next s
    | some f =>
      if !f.awaiting || f.ended then .next s else
      match status, cplError status with
      | .data bytes, _ =>
        let got := (f.buffer ++ bytes).take f.requested
        let s := s.updFlight q idx fun f => { f with
          buffer := got, reads := f.reads.filter fun e => got.length < e }
        if max f.requested (s.sourceDue f) ≤ got.length || (!f.phase.reads && f.requested ≤ got.length) then .next (s.sourceCame q idx).issueAll else .next s.issueAll
      | _, some (k, code) => .next (((s.sendAer k).recordUnread f).fail q idx code).issueAll
      | _, none => .next s

/-- OUTBOUND_COMPLETION_TIMEOUT (R130, R146): the queue of an entry stops at it; a command fails. The host may
disable the timeout (R111). -/
def execOutboundCompletionTimeout (purpose : CplFor) (s : State) : Result :=
  if !s.alive || s.cfg.ctoDisable then .next s else
  match purpose with
  | .entry q =>
    if s.queues[q].fetching = 0 then .next s else
    let s := s.sendAer .completionTimeout
    let s := s.report { reason := 0x5005, severity := .contained, queue := BitVec.ofNat 16 q.val
                        index := s.queues[q].head }
    .next (s.stopQueue q 0x5005).settle
  | .command q idx =>
    match s.flight? q idx with
    | none => .next s
    | some f =>
      if !f.awaiting || f.ended then .next s
      else .next (((s.sendAer .completionTimeout).recordUnread f).fail q idx 0x5005).issueAll

end Sys2Proof.Machine
end

