-- ==== Sys2Proof/Machine/ManifestOps.lean ====
section
/-! DEFINITION. The checks of a Manifest (R160–R167, R172) and what its sections say. -/

namespace Sys2Proof.Machine

/-! ## Masks (R163, R332, R333) -/

/-- Home bits: channel bits 8–12, bank bits 13–16. -/
def homeBits : List Nat := [8, 9, 10, 11, 12, 13, 14, 15, 16]

/-- The nine masks, channel masks first. -/
def allMasks (m : Masks) : List (BitVec 36) := m.ch.toList ++ m.bank.toList

/-- Row i of the matrix of R163 as a number: bit j is mask i at home bit j. -/
def maskRow (m : BitVec 36) : Nat :=
  (List.range 9).foldl (fun n j => if m.getLsbD (8 + j) then n + 2 ^ j else n) 0

/-- Is a matrix over GF(2) nonsingular? Gaussian elimination by columns, `n` columns left. -/
def nonsingular : Nat → List Nat → Bool
  | 0, _ => true
  | n + 1, rows =>
    match rows.find? fun r => r / 2 ^ n % 2 = 1 with
    | none => false
    | some p =>
      let others := rows.erase p
      nonsingular n (others.map fun r => if r / 2 ^ n % 2 = 1 then r ^^^ p else r)

/-- The mapping is invertible. -/
def masksInvert (m : Masks) : Bool := nonsingular 9 ((allMasks m).map maskRow)

/-- No mask selects a bit below 7, or one beyond the installed range. -/
def masksInRange (p : Part) (m : Masks) : Bool :=
  (allMasks m).all fun x => x.toNat % 128 = 0 && x.toNat < p.memory

/-! ## Streams (checks 10–14) -/

/-- The streams of a device section. -/
abbrev Defs := List (Nat × StreamDef)

/-- A stream's parent's definition, for a branch. -/
def parentDef (ds : Defs) (d : StreamDef) : Option StreamDef :=
  (defParent? d).bind fun p => (ds.find? (·.1 = p)).map (·.2)

/-- The pipe that serves a stream: a branch shares its parent's (R358). -/
def pipeOf (ds : Defs) (d : StreamDef) : Nat :=
  match parentDef ds d with
  | some p => p.pipe
  | none => d.pipe

/-- The primitives a stream takes of its pipe: a branch has only its own scaler (R358). -/
def ownPrims (d : StreamDef) : List Primitive :=
  match d.source with
  | .branch _ => d.prims.filter (· = .scaler)
  | _ => d.prims

/-- Streams per pipe (R369). -/
def primLimit : Primitive → Nat
  | .hdr | .mesh => 4
  | .temporal => 2
  | _ => 8

/-- Every primitive. -/
def allPrims : List Primitive :=
  [.black, .defect, .hdr, .shading, .demosaic, .denoise, .temporal, .wb, .tone, .csc, .mesh, .scaler, .stats]

/-- Line-buffer cost in bytes (R369). -/
def primCost (d : StreamDef) : Primitive → Nat
  | .defect => 2 * d.width * 2
  | .hdr => (d.exposures - 1) * d.hdrOffset * d.width * 2
  | .demosaic => 4 * d.width * 2
  | .denoise => 4 * d.width * 6
  | .mesh => d.meshReach * d.width * 4
  | .scaler => 4 * d.outW * 4
  | _ => 0

/-- The streams of a pipe. -/
def onPipe (ds : Defs) (p : Nat) : List StreamDef :=
  (ds.filter fun e => pipeOf ds e.2 = p).map (·.2)

/-- Check 10 (R369). -/
def primsFit (ds : Defs) : Bool :=
  (List.range 4).all fun p => (onPipe ds p).length ≤ 8 && allPrims.all fun k =>
    ((onPipe ds p).filter fun d => (ownPrims d).contains k).length ≤ primLimit k

/-- Check 11 (R370). -/
def linesFit (ds : Defs) : Bool :=
  (List.range 4).all fun p =>
    ((onPipe ds p).flatMap fun d => (ownPrims d).map (primCost d)).foldl (· + ·) 0 ≤ 3145728

/-- Pixels per second a stream declares; a branch adds none (R358). -/
def pixelRate (d : StreamDef) : Nat :=
  match d.source with
  | .branch _ => 0
  | _ => d.width * d.height * d.fps * d.exposures

/-- Check 12 (R371). -/
def ratesFit (ds : Defs) : Bool :=
  (List.range 4).all fun p => ((onPipe ds p).map pixelRate).foldl (· + ·) 0 ≤ 1520000000

/-- The channels of a port that a stream occupies (R358). -/
def channelsOf (d : StreamDef) : List (Nat × Nat) :=
  match d.source with
  | .port p v => (List.range d.exposures).map fun e => (p, v + e)
  | _ => []

/-- Check 13 (R358). -/
def sourcesOk (ds : Defs) : Bool :=
  let chans := ds.flatMap fun e => channelsOf e.2
  chans.dedup.length = chans.length && chans.all (fun c => c.1 ≤ 11 && c.2 ≤ 3) &&
  (ds.filter fun e => e.2.source = .host).length ≤ 8 &&
  ds.all fun e => match e.2.source with
    | .branch p => match ds.find? (·.1 = p) with
      | some q => (match q.2.source with | .branch _ => false | _ => true)
      | none => false
    | _ => e.2.pipe < 4

/-- Payload a port's streams declare, in bits per second × 700. -/
def payload (ds : Defs) (p : Nat) : Nat :=
  ds.foldl (fun n e => match e.2.source with
    | .port q _ => if q = p then
        n + 700 * (e.2.width * e.2.height * e.2.fps * e.2.exposures * e.2.bits) else n
    | _ => n) 0

/-- 85 % of lanes × rate in the same unit; a C-PHY symbol carries 16 ÷ 7 bits (R50, R353). -/
def portCarries (x : Port) : Nat :=
  if x.phy then
    let trios := match x.lanes.toNat with | 0 => 1 | 1 => 2 | _ => 3
    85 * 16 * trios * x.rate.toNat * 100000000
  else
    let lanes := match x.lanes.toNat with | 0 => 1 | 1 => 2 | _ => 4
    85 * 7 * lanes * x.rate.toNat * 100000000

/-- Check 14 (R353): `carries` gives each port's figure. -/
def portsFit (ds : Defs) (carries : List Nat) : Bool :=
  (List.range 12).all fun p => payload ds p ≤ (carries[p]?).getD 0

/-- Values of a definition that the manual gives no encoding for (check 1): more than three exposures, an
offset or a reach outside R369, a stream context that does not exist. -/
def defEncoded (e : Nat × StreamDef) : Bool :=
  let d := e.2
  e.1 < 24 && 1 ≤ d.exposures && d.exposures ≤ 3 && imageTypes.contains d.dataType && d.bits = pixelBits d.dataType &&
  (!d.prims.contains .hdr || d.exposures = 1 || (1 ≤ d.hdrOffset && d.hdrOffset ≤ 64)) &&
  (!d.prims.contains .mesh || (8 ≤ d.meshReach && d.meshReach ≤ 128))

/-! ## Triggers and locked regions (checks 18, 19) -/

/-- Check 18 (R166). -/
def triggerOk (t : Trigger) : Bool :=
  t.first < 2 ^ 64 && (t.period = 0 || (250 ≤ t.period && t.period < 2 ^ 32)) &&
  1 ≤ t.width && t.width ≤ 65535 && (t.period = 0 || t.width < t.period)

/-- Check 19 (R165). -/
def regionsOk (rs : List LockedRegion) : Bool :=
  rs.all (fun r => 0 < r.size && r.size % 0x4_0000 = 0 && r.offset % r.size = 0 &&
    holdSize ≤ r.offset && r.offset + r.size ≤ windowSize && 1 ≤ r.user && r.user ≤ 7) &&
  (rs.map (·.size)).foldl (· + ·) 0 ≤ 0xC0_0000 &&
  rs.Pairwise fun a b => a.offset + a.size ≤ b.offset ∨ b.offset + b.size ≤ a.offset

namespace State

/-! ## The Manifest as it would stand (R172) -/

/-- The Quay sections in force. -/
def sectionsNow (s : State) : List QuaySection :=
  ((List.finRange 8).filter s.quayEnabled).map fun q =>
    { quay := q.val, shape := s.quays[q].shape.toNat, partition := s.manifest.partition[q] }

/-- The sections after a load: all of a whole image's, or those it replaces. -/
def sectionsAfter (s : State) (m : ManifestImage) : List QuaySection :=
  if s.manifest.perQuay then
    s.sectionsNow.map fun x =>
      if s.manifest.quaysSel.getLsbD x.quay then (m.quays.find? (·.quay = x.quay)).getD x else x
  else m.quays

/-- The device section after a load. -/
def deviceAfter (s : State) (m : ManifestImage) : Option DeviceSection :=
  if s.manifest.perQuay then s.manifest.device else m.device

/-- Contexts that have commands in flight (check 9). -/
def busyCtxs (s : State) : List Nat :=
  (s.flights.map fun (f : Flight) => f.entry.ctx.val).dedup

/-- A Berth of a Quay is fenced in a fence map. -/
def fencedIn (m : Word) (q : Nat) : Bool := (List.range 4).any fun b => m.getLsbD (4 * q + b)

/-- Where a check fails: its code and the section it names. -/
abbrev CheckFail := Option (BitVec 16 × Byte)

/-- Refused when `bad` holds. -/
def refuseIf (bad : Bool) (code : BitVec 16) (sec : Byte)   : CheckFail := if bad then some (code, sec) else none

/-- Refused at the first section that fails. -/
def refuseAt (xs : List QuaySection) (bad : QuaySection → Bool) (code : BitVec 16)   : CheckFail :=
  (xs.find? bad).map fun x => (code, BitVec.ofNat 8 (x.quay + 1))

/-- Check 1 (0x6001): the image cannot be read intact, or is malformed. -/
def badImage (s : State) (l : Load) (m : ManifestImage) (d : DeviceSection) : Bool :=
  let mf := s.manifest
  let (addr, len) := match l.fromLog with
    | some (a, n, _) => (a, n)
    | none => (mf.addr.toNat / 4096 * 4096, mf.len.toNat)
  let enabled := (List.finRange 8).filter s.quayEnabled
  let lacks : Bool := !mf.perQuay && (m.device.isNone || enabled.any fun q => !(m.quays.any (·.quay == q.val)))
  let twice : Bool := (m.quays.map (·.quay)).dedup.length != m.quays.length
  let codes : Bool := m.quays.any (fun x => decide (8 ≤ x.quay)) || !(d.streams.all defEncoded) ||
    (d.streams.map (·.1)).dedup.length != d.streams.length || d.triggers.any (fun t => decide (12 ≤ t.1))
  len < 4096 || 1048576 < len || m.length != len || !(s.inHostMemory addr len) ||
    s.mem.poisoned addr len || !m.intact || codes || twice || lacks

/-- Check 4 (0x6004): a per-Quay image that does not go with the device section in force. -/
def badPerQuay (s : State) (m : ManifestImage) : Bool :=
  let mf := s.manifest
  mf.perQuay && (match mf.device with
    | none => true
    | some d => m.builtFor != d.ident ||
      (List.range 8).any fun q => mf.quaysSel.getLsbD q && !(m.quays.any (·.quay == q)))

/-- Check 17 (0x6032): the masks differ where R164 forbids it. -/
def badRemap (s : State) (d : DeviceSection) : Bool :=
  d.masks != s.memctl.masks && (s.manifest.perQuay || s.memctl.acceptedSinceStart ||
    s.ctxs.toList.any (·.valid))

/-- The checks of R172 in their order. -/
def manifestChecks (s : State) (l : Load) (m : ManifestImage) : CheckFail :=
  let xs := s.sectionsAfter m
  let d := (s.deviceAfter m).getD ⟨0, [], [], defaultMasks, [], []⟩
  let fenced (x : QuaySection) : Bool :=
    x.partition.isSome && (List.finRange 8).any fun q => q.val == x.quay && s.quays[q].wholeFenced
  let noPart (x : QuaySection) : Bool := match x.partition with
    | some p => decide (d.partitions.length ≤ p)
    | none => false
  List.findSome? id [
    refuseIf (s.badImage l m d) 0x6001 0xFF,
    refuseIf (m.family != familyB) 0x6002 0xFF,
    refuseIf ((m.quays.any fun x => !(s.part.quays.getLsbD x.quay)) ||
      m.memGib * 0x4000_0000 != s.part.memory) 0x6003 0xFF,
    refuseIf (s.badPerQuay m) 0x6004 0xFF,
    refuseAt xs (fun x => x.shape < 1 || 6 < x.shape) 0x6010,
    refuseAt xs (fun x => 2 ≤ x.shape && fencedIn l.fenceMap x.quay) 0x6011,
    refuseAt xs fenced 0x6012,
    refuseIf (8 < d.partitions.length || d.partitions.any fun p => p.any fun c => 256 ≤ c) 0x6013 0x00,
    refuseAt xs noPart 0x6013,
    refuseIf (s.busyCtxs.any fun c => !(d.partitions.any fun p => p.contains c)) 0x6014 0x00,
    refuseIf (!primsFit d.streams) 0x6020 0x00,
    refuseIf (!linesFit d.streams) 0x6021 0x00,
    refuseIf (!ratesFit d.streams) 0x6022 0x00,
    refuseIf (!sourcesOk d.streams) 0x6023 0x00,
    refuseIf (!portsFit d.streams l.carries) 0x6024 0x00,
    refuseIf (!masksInvert d.masks) 0x6030 0x00,
    refuseIf (!masksInRange s.part d.masks) 0x6031 0x00,
    refuseIf (s.badRemap d) 0x6032 0x00,
    refuseIf (!(d.triggers.all fun t => triggerOk t.2)) 0x6040 0x00,
    refuseIf (!regionsOk d.locked) 0x6050 0x00]

end State

end Sys2Proof.Machine
end

