-- ==== Sys2Proof/Machine/ManifestCmds.lean ====
section
/-! DEFINITION. Loading a Manifest (R160–R174), locked regions and triggers. -/

namespace Sys2Proof.Machine

namespace State

/-! ## Enable and check -/

/-- The copy and check begin (R168): the fence map and the ports' configuration are taken now. -/
def startLoad (s : State) : State :=
  let carries := s.ports.toList.map portCarries
  let s := { s with manifest := { s.manifest with
    enable := true, held := false, load := some { fenceMap := s.fenceMap, carries } } }
  s.trace 64 (if s.manifest.perQuay then 1 else 0) s.manifest.quaysSel.toNat

/-- A write of MANIFEST_CTRL (R168, R171, R175); replay drops the host's (R465). -/
def writeManifestCtrl (s : State) (enable perQuay drain : Bool) (quays : Byte) : State :=
  if s.replaying then s.replayDrop
  else if s.manifest.enable then
    if enable then s.note 0x6060 .information 0 else s
  else
    let s := { s with manifest := { s.manifest with perQuay, drain, quaysSel := quays } }
    if !enable then s
    else if s.ready.ready then s.startLoad
    else { s with manifest := { s.manifest with enable := true, held := true } }

/-- The MANIFEST entry of a check that has ended (R460). -/
def recordManifest (s : State) (code : BitVec 16) : State :=
  let m := s.manifest
  s.record 0x0D 0 ([if m.perQuay then 1 else 0, m.quaysSel] ++ leBytes 2 code.toNat)
    (s.mem.reads (m.addr.toNat / 4096 * 4096) m.len.toNat)

/-- The Manifest is refused whole (R173). -/
def refuseManifest (s : State) (code : BitVec 16) (sec : Byte) (item : BitVec 16) : State :=
  let m := s.manifest
  let s := match m.load.bind (·.fromLog) with
    | some (_, _, 0) => s.diverge
    | _ => s
  { s with manifest := { m with
    load := none, enable := false, refused := true, reason := code, section_ := sec
    item := if sec = 0xFF then 0 else item, countRefused := satInc m.countRefused } }.note code .information 0

/-! ## Applying -/

/-- Companion-memory ranges that a remap carries over (R164): the rings as configured, enabled or not. -/
def carriedOver (s : State) : List (Nat × Nat) :=
  let ring (r : Ring) (on : Bool) : List (Nat × Nat) :=
    if on || r.base ≠ 0 || r.tail ≠ 0 then [(r.base.toNat, r.base.toNat + 32 * 2 ^ r.log2.toNat)] else []
  let rec_ := s.recorder
  [(s.part.reserved, s.part.memory)] ++
  (if s.fwif.s2Area = 0 then [] else [(s.fwif.s2Base, s.fwif.s2Base + s.fwif.s2Area)]) ++
  ring s.fwif.log s.fwif.log.en ++ ring s.fwif.trace s.fwif.trace.en ++ ring s.faults.ring s.faults.active ++
  (if rec_.en && rec_.active && !rec_.mode then
    [(rec_.base.toNat, rec_.base.toNat + 64 * s.recUnits)] else [])

/-- Make [lo, hi) undefined but for some ranges. -/
def forgetBut (keep : List (Nat × Nat)) : Nat → Nat → Nat → State → State
  | 0, _, _, s => s
  | n + 1, lo, hi, s =>
    if hi ≤ lo then s else
    match keep.find? fun k => k.1 ≤ lo && lo < k.2 with
    | some k => forgetBut keep n k.2 hi s
    | none =>
      let stop := keep.foldl (fun m k => if lo < k.1 && k.1 < m then k.1 else m) hi
      forgetBut keep n stop hi (s.forget lo stop)

/-- The new masks come into force before anything else of the Manifest is applied (R160, R164). -/
def remap (s : State) : State :=
  match s.manifest.load with
  | none => s
  | some l =>
    if !l.remap then s else
    let keep := s.carriedOver
    let s := forgetBut keep (2 * keep.length + 2) 0 s.part.memory s
    let masks := match l.image with
      | some m => match m.device with | some d => d.masks | none => s.memctl.masks
      | none => s.memctl.masks
    { s with
      memctl := { s.memctl with masks }
      manifest := { s.manifest with load := some { l with remap := false } } }

/-- The user a unit of the window has under a list of regions (R165). -/
def unitUser (rs : List LockedRegion) (unit : Nat) : BitVec 4 :=
  match rs.find? fun r => r.offset ≤ unit * 0x4_0000 && unit * 0x4_0000 < r.offset + r.size with
  | some r => BitVec.ofNat 4 r.user
  | none => 0

/-- Locked regions of a new device section: units of an unchanged region stay, the others wait for their
users' frame boundary (R165). -/
def lockRegions (s : State) (old fresh : List LockedRegion) : State :=
  let covers (r : LockedRegion) (u : Nat) : Bool := r.offset ≤ u * 0x4_0000 && u * 0x4_0000 < r.offset + r.size
  let wait (u : Fin 64) : Option (BitVec 4) :=
    if u.val < 16 then none
    else if (fresh.any fun r => covers r u.val && old.contains r) && s.memhost.pendingUser[u].isNone then none
    else if unitUser fresh u.val = 0 && s.memhost.lockUser[u] = 0 then none
    else some (unitUser fresh u.val)
  { s with memhost := { s.memhost with pendingUser := Vector.ofFn wait } }

/-- A stream's definition under a new device section (R167): unchanged, switched at the next frame start,
or gone with its binding after the frame in progress. -/
def switchStream (s : State) (new : Option StreamDef) (i : SctxId) : State :=
  if s.definedAs i = new then s else
  match new with
  | some d => s.updStream i fun x =>
      if x.frame.isSome then { x with nextDefn := some (some d) }
      else { x with defn := some d, nextDefn := none, historyValid := false }
  | none =>
    (s.endBinding i).updStream i fun x =>
      if x.frame.isSome then { x with nextDefn := some none } else { x with defn := none, nextDefn := none }

/-- Program the triggers (R166): the first count later than now; a single pulse that has passed does not
fire. -/
def programTriggers (s : State) (ts : List (Nat × Trigger)) : State :=
  (List.finRange 12).foldl (fun s n =>
    match ts.find? (·.1 = n.val) with
    | none => { s with trigs := s.trigs.set n.val {} }
    | some (_, t) =>
      let passed := t.period = 0 && t.first ≤ s.now.toNat
      let next : Tick := if passed then 0 else edgeFrom t (s.now.toNat + 1)
      let s := { s with trigs := s.trigs.set n.val { prog := some t, next } }
      if passed then s.note 0x6061 .information 0 else s) s

/-- Restart the loss counts of ports that gain a stream (R356). -/
def restartLoss (s : State) (p : Nat) : State :=
  if h : p < 12 then s.updPort ⟨p, h⟩ ({ · with lossCount := 0 }) else s

/-- Apply the device section after the last Quay (R169). -/
def applyDevice (s : State) (d : DeviceSection) : State :=
  let old := (s.manifest.device.map (·.locked)).getD []
  let s := { s with manifest := { s.manifest with device := some d } }
  let s := (List.finRange 24).foldl (fun s i =>
    s.switchStream ((d.streams.find? (·.1 = i.val)).map (·.2)) i) s
  let s := (List.range 12).foldl restartLoss s
  (s.lockRegions old d.locked).programTriggers d.triggers

/-- The load ends (R171, R175). -/
def endLoad (s : State) : State :=
  match s.manifest.load with
  | none => s
  | some l =>
    let s := s.remap
    let s := if s.manifest.perQuay then s else match l.image.bind (·.device) with
      | some d => s.applyDevice d
      | none => s
    let m := s.manifest
    { s with manifest := { m with
      load := none, enable := false, refused := false, reason := 0, section_ := 0xFF, item := 0
      countAccepted := satInc m.countAccepted } }

/-- The section a load gives a Quay. -/
def newSection (s : State) (q : QuayId) : Option QuaySection :=
  match s.manifest.load with
  | some l => match l.image with
    | some m => (s.sectionsAfter m).find? (·.quay = q.val)
    | none => none
  | none => none

/-- The check has passed (R169): changed Quays take nothing more and drain. -/
def acceptManifest (s : State) (l : Load) (m : ManifestImage) : State :=
  let now := s.sectionsNow
  let changed := (List.finRange 8).filter fun q => match (s.sectionsAfter m).find? (·.quay = q.val) with
    | some x => !(now.contains x)
    | none => false
  let differ : Bool := match m.device with
    | some d => !s.manifest.perQuay && d.masks != s.memctl.masks
    | none => false
  let s := { s with
    manifest := { s.manifest with
      remapped := differ
      load := some { l with image := some m, changed, remap := differ } }
    memctl := { s.memctl with acceptedSinceStart := true }
    quays := Vector.ofFn fun (q : QuayId) =>
      if changed.contains q then { s.quays[q] with draining := true, ready := false } else s.quays[q] }
  let s := if s.manifest.drain then
      s.flights.foldl (fun s (f : Flight) =>
        if f.run.quays.any changed.contains then s.preemptFlight f false false else s) s
    else s
  if changed.isEmpty then s.endLoad else s

/-- Apply one Quay's new section (R160, R169): shape and membership; a held Quay reset follows (R171). -/
def applyQuay (s : State) (q : QuayId) : State :=
  let s := s.remap
  match s.newSection q with
  | none => s
  | some x =>
    let part := if s.quays[q].wholeFenced then none else x.partition
    let s := { s with manifest := { s.manifest with
      partition := s.manifest.partition.set q.val part
      load := s.manifest.load.map fun (l : Load) => { l with changed := l.changed.filter (· ≠ q) } } }
    let s := s.updQuay q fun y => { y with
      shape := BitVec.ofNat 4 x.shape, draining := false
      ready := part.isSome && !y.wholeFenced && !y.resetting
      resetAsked := y.resetAsked && !(part.isSome && !y.wholeFenced && !y.resetting)
      store := []
      berths := y.berths.map fun (b : Berth) => { b with
        gated := b.gated || part.isNone, waking := b.waking && part.isSome
        weights := [], shadow := [], hold := [] } }
    let s := s.trace 66 q.val x.shape
    s.releaseQuayReset q

end State

/-- ENABLE is written (R168). -/
def execManifestEnable (perQuay drain : Bool) (quays : BitVec 8) (s : State) : Result :=
  let s := s.wakeSlack
  if s.answers then .next (s.writeManifestCtrl true perQuay drain quays) else .next s

/-- The check ends (R172, R173). -/
def execManifestCheck (image : ManifestImage) (s : State) : Result :=
  match s.manifest.load with
  | none => .next s
  | some l =>
    if !s.fwUp || l.image.isSome then .next s else
    match s.manifestChecks l image with
    | some (code, sec) =>
      .next ((s.recordManifest code).trace 65 0 code.toNat |>.refuseManifest code sec image.item)
    | none => .next (((s.recordManifest 0).trace 65 0 0).acceptManifest l image)

/-- A changed Quay that has drained is applied, lowest number first (R169); after the last one the device
section. -/
def execManifestQuayApply (q : QuayId) (s : State) : Result :=
  match s.manifest.load with
  | none => .next s
  | some l =>
    if !s.fwUp || l.image.isNone || !(l.changed.contains q) || (l.changed.any fun x => x.val < q.val) ||
        !(s.quayFree q) then .next s
    else
      let s := s.applyQuay q
      if l.changed.length = 1 then .next s.endLoad else .next s

/-! ## Locked regions -/

/-- A user's frames in progress keep a region from changing hands (R165). -/
def State.userBusy (s : State) (u : BitVec 4) : Bool :=
  let pipes := (List.finRange 24).any fun i => match s.streams[i].frame with
    | some f => !f.ended && pipeOf ((s.manifest.device.map (·.streams)).getD []) f.defn + 1 = u.toNat
    | none => false
  let unit (k : Nat) : Bool := s.sessions.toList.any fun x => x.coding.isSome && match x.desc with
    | some d => d.unit = k
    | none => false
  match u.toNat with
  | 1 | 2 | 3 | 4 => pipes
  | 5 => unit 0 || unit 1
  | 6 => unit 2
  | _ => false

/-- The units that change with one: those of its region. -/
def State.regionUnits (s : State) (unit : Fin 64) : List (Fin 64) :=
  let a := unit.val * 0x4_0000
  match ((s.manifest.device.map (·.locked)).getD []).find? fun r => r.offset ≤ a && a < r.offset + r.size with
  | some r => (List.finRange 64).filter fun u => r.offset ≤ u.val * 0x4_0000 && u.val * 0x4_0000 < r.offset + r.size
  | none => [unit]

/-- A unit of the locked window passes to its pending user, cleared, and the lines of the cache that lay in its ways
leave them (R165, R319, R320). -/
def State.takeUnit (s : State) (u : Fin 64) : State :=
  match s.memhost.pendingUser[u] with
  | none => s
  | some v =>
    let a := windowBase + u.val * 0x4_0000
    { s with
      mem := ((s.mem.clear a (a + 0x4_0000)).unpoisonCovered a 0x4_0000).dropLines fun l =>
        8 ≤ l.way && lockedUnit l.way l.set = u.val
      memhost := { s.memhost with
        lockUser := s.memhost.lockUser.set u.val v
        pendingUser := s.memhost.pendingUser.set u.val none } }

/-- A new or changed region takes effect, cleared (R165). -/
def execLockedRegionEffect (unit : Fin 64) (s : State) : Result :=
  if !s.fwUp || s.memhost.pendingUser[unit].isNone then .next s else
  let units := (s.regionUnits unit).filter fun u => s.memhost.pendingUser[u].isSome
  let busy := units.any fun u => s.userBusy s.memhost.lockUser[u] || match s.memhost.pendingUser[u] with
    | some v => s.userBusy v
    | none => false
  if busy then .next s else
  .next (units.foldl State.takeUnit s)

/-! ## Triggers -/

/-- A trigger output reaches its count (R166, R368), which the Tide is carried to (log entry 11). It fires in
every state that keeps its programming. -/
def execTriggerFire (n : TrigId) (s : State) : Result :=
  match s.trigs[n].prog with
  | none => .next s
  | some t =>
    let at_ := s.trigs[n].next
    if at_ = 0 || !s.running then .next s else
    let s := (s.advanceTo at_).send (.camTrig n at_ t.width)
    let next : Tick := if t.period = 0 then 0 else at_ + BitVec.ofNat 64 t.period
    .next { s with trigs := s.trigs.set n.val { s.trigs[n] with
      next, rose := at_, falls := at_ + BitVec.ofNat 64 t.width } }

/-- The level of CAM_TRIGn (R53, R166): none, high impedance, while VDD_IO is off; what EXTEST drives (R50); high inside
a pulse of programming that is in force; low otherwise. -/
def camTrig (s : State) (n : TrigId) : Option Bool :=
  if !s.env.suppliesUp then none else
  match s.env.drives with
  | some cells => some (cells.getLsbD (Config.trigCell n).val)
  | none =>
    let t := s.trigs[n]
    some (t.prog.isSome && t.rose.toNat ≤ s.now.toNat && s.now.toNat < t.falls.toNat)

end Sys2Proof.Machine
end

