-- ==== Sys2Proof/Machine/StreamCmds.lean ====
section
/-! DEFINITION. Ports, frames, pipes, blanking and host feeds (R352–R366, R50). -/

namespace Sys2Proof.Machine

namespace State

/-! ## Which stream a packet belongs to -/

/-- The pipes take frames: the device runs, is awake, and no log feeds it (R103, R465, R481). -/
def pipesUp (s : State) : Bool :=
  s.alive && s.env.reset = .none && s.env.power = .d0 && !s.frozen

/-- The port takes packets (R355, R356). -/
def portListens (s : State) (p : PortId) : Bool :=
  s.pipesUp && !s.replaying && s.ports[p].present && !s.ports[p].lost

/-- Does a definition occupy a channel of a port, and as which exposure (R358)? -/
def exposureOf (d : StreamDef) (p : PortId) (vc : Fin 32) : Option (Fin 3) :=
  match d.source with
  | .port q v => if q = p.val && v ≤ vc.val && vc.val < v + d.exposures then
      some (Fin.ofNat 3 (vc.val - v)) else none
  | _ => none

/-- The stream whose next frame a channel starts, and the exposure. -/
def startsOn (s : State) (p : PortId) (vc : Fin 32) : Option (SctxId × Fin 3) :=
  (List.finRange 24).findSome? fun i => (s.definedAs i).bind fun d =>
    (exposureOf d p vc).map fun e => (i, e)

/-- The stream whose frame in progress a channel feeds, and the exposure. -/
def feeds (s : State) (p : PortId) (vc : Fin 32) : Option (SctxId × Fin 3) :=
  (List.finRange 24).findSome? fun i => (s.streams[i].frame).bind fun f =>
    if f.ended then none else (exposureOf f.defn p vc).map fun e => (i, e)

/-- An exposure of a stream's frame in progress. -/
def exposure (s : State) (i : SctxId) (e : Fin 3) : Exposure :=
  match s.streams[i].frame with
  | some f => f.expo[e]
  | none => {}

/-- TORN_CAUSE of a stream's frame. -/
def tornOf (s : State) (i : SctxId) : Byte :=
  match s.streams[i].frame with
  | some f => f.torn
  | none => 0

/-- Change the frame in progress of a stream and of its branches. -/
def onFrame (s : State) (i : SctxId) (g : SctxId → Frame → Frame) : State :=
  (i :: s.branches i).foldl (fun s j => s.updStream j fun x => { x with
    frame := x.frame.map fun f => if f.ended then f else g j f }) s

/-- Tear a stream's frame and its branches' with a cause (R357). -/
def tearAll (s : State) (i : SctxId) (bit : Nat) : State :=
  s.onFrame i fun _ f => { f with torn := f.torn ||| BitVec.ofNat 8 (2 ^ bit) }

/-- Is any frame of a port in progress? -/
def portInFrame (s : State) (p : PortId) : State :=
  let on := (s.streamsOfPort p).any fun i => match s.streams[i].frame with
    | some f => !f.ended
    | none => false
  s.updPort p ({ · with inFrame := on })

end State

/-! ## Packets -/

/-- A corrected packet header: counted, and 0xA00A (R352). -/
def State.noteHeaderEcc (s : State) (p : PortId) : State :=
  ({ s with portErrs := updAt s.portErrs p fun (x : PortErr) => { x with
    eccCorrected := satInc x.eccCorrected } }).reportLimited (State.markKey 0xA00A p.val)
    { reason := 0xA00A, severity := .corrected }

/-- Tear the frame that a port and channel feed, where they feed one (R357). -/
def State.tearFed (s : State) (frame : Option (SctxId × Fin 3)) (bit : Nat) : State :=
  match frame with
  | some (i, _) => s.tearAll i bit
  | none => s

/-- The header of a packet that is not discarded (R352). -/
def State.headerSeen (s : State) (p : PortId) (ecc : EccResult) : State :=
  if ecc = .corrected then s.noteHeaderEcc p else s

/-- A packet with a Virtual Channel Extension other than 0, which is discarded (R352): bits 4:2 of its channel. -/
def extended (vc : Fin 32) : Bool := 4 ≤ vc.val

/-- CSI_FRAME_START (R352, R357, R364): the first exposure's starts the frame; a later exposure's belongs to it. A
channel that no stream occupies logs 0xA008. A header that cannot be corrected discards the packet. -/
def execCsiFrameStart (p : PortId) (vc : Fin 32) (frameNo : BitVec 16) (ecc : EccResult) (s : State) : Result :=
  if !s.portListens p then .next s else
  if ecc = .uncorrectable then .next (s.tearFed (s.feeds p vc) 0) else
  let s := s.headerSeen p ecc
  if extended vc then .next s else
  match s.startsOn p vc with
  | none => .next (s.reportLimited (State.markKey 0xA008 p.val) { reason := 0xA008, severity := .information })
  | some (i, e) =>
    if e = 0 then .next (((s.startFrame i frameNo).updPort p ({ · with inFrame := true })).ltrUpdate)
    else match s.feeds p vc with
      | none => .next s
      | some (i, e) =>
        if (s.exposure i e).begun then .next (s.tearAll i 3)
        else .next (s.onFrame i fun _ f => { f with
          expo := updAt f.expo e fun (x : Exposure) => { x with begun := true } })

/-- A line received while its stream is blanked is replaced before the first primitive (R365). -/
def State.lineSeen (s : State) (i : SctxId) (e : Nat) (line : List Byte) : InLine :=
  if s.blanked i then ⟨e, List.replicate line.length 0, true⟩ else ⟨e, line, false⟩

/-- A payload CRC error: counted (R352). -/
def State.noteCrc (s : State) (p : PortId) : State :=
  { s with portErrs := updAt s.portErrs p fun (x : PortErr) => { x with crcErrors := satInc x.crcErrors } }

/-- A line of image data arrives at exposure `e` of a stream (R357, R371): its length, its place in the frame
and the FIFO are checked. -/
def State.takeLine (s : State) (i : SctxId) (e : Fin 3) (pixels : Nat) (line : List Byte) (fifoOverflow : Bool) :
    State :=
  let width := match s.streams[i].frame with | some f => f.defn.width | none => pixels
  let x := s.exposure i e
  let s := if pixels = width then s else s.tearAll i 2
  let s := if x.begun && !x.done then s else s.tearAll i 3
  let s := if fifoOverflow then (s.tearAll i 5).note 0xA00B .information 0 else s
  s.onFrame i fun j f => { f with
    expo := updAt f.expo e fun (x : Exposure) => { x with lines := x.lines + 1 }
    received := f.received ++ [s.lineSeen j e.val line] }

/-- CSI_LONG_PACKET (R352, R357, R371): header ECC, payload CRC, the length, the FIFO. A packet of another
data type is discarded without a code. -/
def execCsiLongPacket (p : PortId) (vc : Fin 32) (dataType : Byte) (ecc : EccResult) (crcOk : Bool)
    (pixels : Nat) (line : List Byte) (fifoOverflow : Bool) (s : State) : Result :=
  if !s.portListens p then .next s else
  let frame := s.feeds p vc
  if ecc = .uncorrectable then .next (s.tearFed frame 0) else
  let s := s.headerSeen p ecc
  if extended vc || !(imageTypes.contains dataType) then .next s
  else
    let s := if crcOk then s else (s.noteCrc p).tearFed frame 0
    match frame with
    | none => .next s
    | some (i, e) => .next (s.takeLine i e pixels line fifoOverflow)

/-- CSI_FRAME_END (R357, R364): the last exposure's ends the frame; a frame whose line counts are wrong is
torn. The loss count starts again at a valid frame end (R356). -/
def execCsiFrameEnd (p : PortId) (vc : Fin 32) (ecc : EccResult) (s : State) : Result :=
  if !s.portListens p then .next s else
  if ecc = .uncorrectable then .next (s.tearFed (s.feeds p vc) 0) else
  let s := s.headerSeen p ecc
  if extended vc then .next s else
  match s.feeds p vc with
  | none => .next s
  | some (i, e) =>
    let s := s.onFrame i fun _ f => { f with
      expo := updAt f.expo e fun (x : Exposure) => { x with done := true } }
    match s.streams[i].frame with
    | none => .next s
    | some f =>
      let es := (List.finRange 3).filter fun k => k.val < f.defn.exposures
      if !(es.all fun k => (f.expo[k]).done || !(f.expo[k]).begun) || e.val + 1 ≠ f.defn.exposures then .next s
      else
        let s := if es.all fun k => (f.expo[k]).begun then s else s.tearAll i 3
        let s := s.endFrame i false
        let s := if s.tornOf i = 0 then s.updPort p ({ · with lossCount := 0 }) else s
        .next (s.portInFrame p)

/-- CSI_PHY_ERROR (R357): the port's frames in progress are torn. -/
def execCsiPhyError (p : PortId) (s : State) : Result :=
  if !s.portListens p then .next s else
  .next ((s.streamsOfPort p).foldl (fun s i => s.tear i 7) s)

/-- FRAME_PERIOD_EXPIRY (R356): for a declared port that a stream of the Manifest in force names. At the loss a frame whose
end is missing ends torn (R357), and the port's contexts idle. -/
def execFramePeriodExpiry (p : PortId) (s : State) : Result :=
  let x := s.ports[p]
  let named := (List.finRange 24).any fun i => match s.definedAs i with
    | some d => (defPort? d).map (·.1) = some p.val
    | none => false
  if !(s.portListens p) || !named then .next s else
  let n := x.lossCount + 1
  if n < x.lossFrames.toNat then .next (s.updPort p ({ · with lossCount := n }))
  else
    let s := s.updPort p ({ · with lossCount := n, lost := true, inFrame := false })
    let ids := s.streamsOfPort p
    let s := ids.foldl (fun s i => s.tear i 3) s
    let s := ids.foldl (fun s i => s.endFrame i false) s
    let s := ids.foldl (fun s i => (s.emptyPipe i).updStream i ({ · with idleLost := true })) s
    .next (s.report { reason := 0xA001, severity := .contained }).ltrUpdate

/-! ## Port registers -/

/-- A write of CSI_PORTpCTRL (R355, R378): every write of PRESENT = 1 declares, if streams are negotiated
(R409); 0 tears the frame in progress and ends the bindings. -/
def State.writePortCtrl (s : State) (p : PortId) (lossFrames : Byte) (present : Bool) : State :=
  let s := if lossFrames = 0 then s.noteReserved 1 else s.updPort p ({ · with lossFrames })
  if present then
    if !(s.fwif.feat.getLsbD 2) then s.note 0x5002 .information 0 else
    let s := s.updPort p ({ · with present := true, lost := false, lossCount := 0 })
    (s.streamsOfPort p).foldl (fun s i => s.updStream i ({ · with idleLost := false })) s
  else
    let ids := s.streamsOfPort p
    let s := s.updPort p ({ · with present := false, inFrame := false })
    let s := ids.foldl (fun s i => s.tear i 4) s
    let s := ids.foldl (fun s i => s.endFrame i true) s
    (ids.foldl (fun s i => s.endBinding i) s).ltrUpdate

def execCsiDeclare (p : PortId) (lossFrames : Byte) (s : State) : Result :=
  let s := s.wakeSlack
  if s.answers then .next (s.writePortCtrl p lossFrames true) else .next s

def execCsiUndeclare (p : PortId) (lossFrames : Byte) (s : State) : Result :=
  let s := s.wakeSlack
  if s.answers then .next (s.writePortCtrl p lossFrames false) else .next s

/-- A write of CSI_PORTpCFG (R353, R378): dropped with 0xA009 while PRESENT is 1 or where check 14 would fail
for the Manifest in force, then without 0x500D (log entry 129), and whole with 0x500D for a C-PHY rate of 31–45. -/
def State.writePortCfg (s : State) (p : PortId) (v : Nat) : State :=
  let x := s.ports[p]
  let rate := v / 0x100 % 0x100
  let lanes := v / 2 % 4
  let phy : Bool := v % 2 = 1
  if x.present then s.note 0xA009 .information 0
  else if phy && 31 ≤ rate && rate ≤ 45 then s.noteReserved (1 + if lanes < 3 then 0 else 1)
  else
    let rateOk : Bool := 1 ≤ rate && rate ≤ 45
    let y : Port := { x with
      phy, rate := if rateOk then BitVec.ofNat 8 rate else x.rate
      lanes := if lanes < 3 then BitVec.ofNat 2 lanes else x.lanes }
    let ds := (s.manifest.device.map (·.streams)).getD []
    if portCarries y < payload ds p.val then s.note 0xA009 .information 0
    else (s.updPort p fun _ => y).noteReserved ((if rateOk then 0 else 1) + if lanes < 3 then 0 else 1)

def execCsiPortCfgWrite (p : PortId) (value : Word) (s : State) : Result :=
  let s := s.wakeSlack
  if s.answers then .next (s.writePortCfg p value.toNat) else .next s

/-- CSI_ULPS_ENTRY (R50). -/
def execCsiUlpsEntry (p : PortId) (s : State) : Result :=
  if s.alive && s.ports[p].present then .next (s.updPort p ({ · with ulps := true })) else .next s

/-- CSI_ULPS_EXIT (R50). -/
def execCsiUlpsExit (p : PortId) (s : State) : Result :=
  if s.alive then .next (s.updPort p ({ · with ulps := false })) else .next s

/-! ## The end of a frame in the pipe -/

/-- PIPE_FRAME_COMPLETE (R357, R361, R363). -/
def execPipeFrameComplete (i : SctxId) (s : State) : Result :=
  if !s.pipesUp then .next s else .next (s.completeFrame i).ltrUpdate

/-! ## Blanking -/

/-- Blank a frame from an output line on, unless it has been written past it (R365). -/
def markBlank (line : BitVec 16) (f : Frame) : Frame :=
  if f.blankFrom.isSome || f.defn.outH ≤ line.toNat then f else { f with blankFrom := some line }

/-- Blank the frames a stream has in its pipe: the oldest from the line the output stands at, those behind
it whole (R365). -/
def Stream.blankFrom (x : Stream) (line : BitVec 16) : Stream :=
  match x.unwritten with
  | [] => { x with frame := x.frame.map (markBlank line) }
  | f :: fs => { x with
      unwritten := markBlank line f :: fs.map (markBlank 0), frame := x.frame.map (markBlank 0) }

/-- BLANK is written 1 (R365): always, in replay too. The output of the stream is blanked from `outLine` on, and that of each
branch from the line at which its own scaler stands. -/
def State.blank (s : State) (i : SctxId) (outLine : BitVec 16) (branchLines : List (SctxId × BitVec 16)) : State :=
  let s := { s with blanks := s.blanks.set i.val { blank := true, pendingClear := false, inForce := true } }
  let s := ((i, outLine) :: (s.branches i).map fun j =>
      (j, ((branchLines.find? fun l => l.1 = j).map (·.2)).getD 0)).foldl (fun s l =>
    (s.updStream l.1 (·.blankFrom l.2)).trace 98 l.1.val l.2.toNat) s
  s.record 0x0A 0 ([BitVec.ofNat 8 i.val, 1] ++ leBytes 2 outLine.toNat) []

/-- BLANK is written 0 (R366), recorded in record mode. -/
def State.applyUnblank (s : State) (i : SctxId) : State :=
  let s := { s with blanks := s.blanks.set i.val { s.blanks[i] with blank := false, pendingClear := true } }
  s.record 0x0A 0 [BitVec.ofNat 8 i.val, 0, 0, 0] []

/-- The host writes BLANK 0: in replay the log supplies it (R465). -/
def State.unblank (s : State) (i : SctxId) : State :=
  if s.replaying then s.replayDrop else s.applyUnblank i

def execStreamBlank (i : SctxId) (outLine : BitVec 16) (branchLines : List (SctxId × BitVec 16)) (s : State) : Result :=
  let s := s.wakeSlack
  if s.answers then .next (s.blank i outLine branchLines) else .next s

def execStreamUnblank (i : SctxId) (s : State) : Result :=
  let s := s.wakeSlack
  if s.answers then .next (s.unblank i) else .next s

/-! ## Host feeds -/

/-- GO is written (R359): the pipe reads the frame, or the write is dropped with 0xA007. Without the feature Streams it is
ignored (R409; log entry 135). -/
def State.writeFeedGo (s : State) (i : SctxId) : State :=
  if s.replaying then s.replayDrop
  else if !(s.fwif.feat.getLsbD 2) then s.note 0x5002 .information 0
  else
    let host : Bool := match s.definedAs i with | some d => d.source = .host | none => false
    if !host || s.streams[i].feedBusy then s.note 0xA007 .information 0
    else ((s.updStream i ({ · with feedBusy := true })).startFrame i 0).ltrUpdate

def execFeedGo (i : SctxId) (s : State) : Result :=
  let s := s.wakeSlack
  if s.answers then .next (s.writeFeedGo i) else .next s

/-- The lines of a host-fed frame (R359). -/
def State.feedLines (s : State) (i : SctxId) (d : StreamDef) : List (List Byte) :=
  let x := s.streams[i]
  (List.range d.height).map fun y =>
    s.mem.reads (x.feedAddr.toNat / 256 * 256 + y * x.feedPitch.toNat) (lineBytes d)

/-- FEED_DONE (R359, R364, R460): the last line has been read. -/
def execFeedDone (i : SctxId) (s : State) : Result :=
  if !s.pipesUp || !s.streams[i].feedBusy then .next s else
  match s.streams[i].frame with
  | none => .next (s.updStream i ({ · with feedBusy := false }))
  | some f =>
    let n := f.defn.height
    let lines := s.feedLines i f.defn
    let s := s.onFrame i fun j f => { f with
      expo := updAt f.expo 0 fun (x : Exposure) => { x with done := true, lines := n }
      received := lines.map (s.lineSeen j 0) }
    let s := if s.capturing && s.recorder.sctx.getLsbD i.val then
        s.record 0x09 0 ([BitVec.ofNat 8 i.val, 0, 0, 0] ++ leBytes 4 s.streams[i].frames.toNat)
          lines.flatten else s
    let s := s.updStream i ({ · with feedBusy := false })
    .next (s.endFrame i false)

end Sys2Proof.Machine
end

