-- ==== Sys2Proof/Machine/CodecCmds.lean ====
section
/-! DEFINITION. Codec sessions (R380–R394). -/

namespace Sys2Proof.Machine

/-! ## Levels

The picture and rate limits of each level are those of the codec standards (log entry 18). -/

/-- Most luma samples, most luma samples per second, widest and highest picture. -/
structure LevelLimit where
  picture : Nat
  rate : Nat
  width : Nat
  height : Nat
  deriving DecidableEq, Repr

/-- Largest side of an HEVC or AVC picture: √(8 × picture). -/
def sideLimit (picture : Nat) : Nat := Nat.sqrt (8 * picture)

/-- HEVC levels × 10, with their picture size and rate. -/
def hevcLevels : List (Nat × Nat × Nat) :=
  [(10, 36864, 552960), (20, 122880, 3686400), (21, 245760, 7372800), (30, 552960, 16588800),
   (31, 983040, 33177600), (40, 2228224, 66846720), (41, 2228224, 133693440), (50, 8912896, 267386880),
   (51, 8912896, 534773760), (52, 8912896, 1069547520), (60, 35651584, 1069547520),
   (61, 35651584, 2139095040)]

/-- AVC levels × 10, in macroblocks. -/
def avcLevels : List (Nat × Nat × Nat) :=
  [(10, 99, 1485), (11, 396, 3000), (12, 396, 6000), (13, 396, 11880), (20, 396, 11880), (21, 792, 19800),
   (22, 1620, 20250), (30, 1620, 40500), (31, 3600, 108000), (32, 5120, 216000), (40, 8192, 245760),
   (41, 8192, 245760), (42, 8704, 522240), (50, 22080, 589824), (51, 36864, 983040), (52, 36864, 2073600)]

/-- AV1 level indices with picture size, rate, width and height. -/
def av1Levels : List (Nat × LevelLimit) :=
  [(0, ⟨147456, 4423680, 2048, 1152⟩), (1, ⟨278784, 8363520, 2816, 1584⟩),
   (4, ⟨665856, 19975680, 4352, 2448⟩), (5, ⟨1065024, 31950720, 5504, 3096⟩),
   (8, ⟨2359296, 70778880, 6144, 3456⟩), (9, ⟨2359296, 141557760, 6144, 3456⟩),
   (12, ⟨8912896, 267386880, 8192, 4352⟩), (13, ⟨8912896, 534773760, 8192, 4352⟩),
   (14, ⟨8912896, 1069547520, 8192, 4352⟩), (15, ⟨8912896, 1069547520, 8192, 4352⟩),
   (16, ⟨35651584, 1069547520, 16384, 8704⟩)]

/-- The limits of a level, if the codec has it within R380. -/
def levelLimit (codec level : Nat) : Option LevelLimit :=
  match codec with
  | 0 => (hevcLevels.find? (·.1 = level)).map fun (_, p, r) => ⟨p, r, sideLimit p, sideLimit p⟩
  | 1 => (avcLevels.find? (·.1 = level)).map fun (_, p, r) =>
      ⟨256 * p, 256 * r, 16 * sideLimit p, 16 * sideLimit p⟩
  | _ => (av1Levels.find? (·.1 = level)).map (·.2)

/-- Luma samples as a level counts them: AVC in whole macroblocks. -/
def pictureSamples (codec w h : Nat) : Nat := if codec = 1 then roundUp w 16 * roundUp h 16 else w * h

/-- The picture and its rate keep the level (R385). -/
def levelOk (codec level w h num den : Nat) : Bool :=
  match levelLimit codec level with
  | some l => pictureSamples codec w h ≤ l.picture && w ≤ l.width && h ≤ l.height &&
      pictureSamples codec w h * num ≤ l.rate * den
  | none => false

/-! ## Descriptors (R380, R384) -/

/-- Bytes of one uncoded frame of a session (R386). -/
def sessFrame (d : SessDesc) : Nat := frameSize d.width d.height (if d.depth = 10 then 2 else 1)
/-- Distance of the decoder's frame buffers: each starts aligned to 64 KiB (log entry 19). -/
def bufferStep (d : SessDesc) : Nat := roundUp (sessFrame d) 0x1_0000

namespace State

/-- The descriptor at an address, decoded; its rules are tested apart. -/
def readDesc (s : State) (a : Nat) : SessDesc :=
  let f := fun off n => s.mem.field (a + off) n
  { unit := f 4 1, codec := f 5 1, depth := f 6 1, level := f 7 1, width := f 8 2, height := f 0xA 2
    fpsNum := f 0xC 2, fpsDen := f 0xE 2, source := f 0x10 1, sctx := f 0x11 1
    lowlat := f 0x12 1 % 2 = 1, highTier := f 0x12 1 / 2 % 2 = 1, rc := f 0x13 1
    target := f 0x14 4, peak := f 0x18 4, keyint := f 0x1C 2, bframes := f 0x1E 1, sliceRows := f 0x1F 1
    qp := (f 0x20 1, f 0x21 1, f 0x22 1), flag := Fin.ofNat 1024 (f 0x24 2)
    dataLog2 := f 0x26 1, recLog2 := f 0x27 1, data := f 0x28 8, records := f 0x30 8, work := f 0x38 8 }

/-- The fields that only the bytes show: MAGIC, MODE, the reserved byte, FLAG. -/
def descBytesOk (s : State) (a : Nat) : Bool :=
  s.inHostMemory a 64 && s.mem.field a 4 = 0x5343_4A4F && s.mem.field (a + 0x12) 1 < 4 &&
  s.mem.field (a + 0x23) 1 = 0 && s.mem.field (a + 0x24) 2 < 1024

/-- Formats (R380). -/
def formatOk (d : SessDesc) : Bool :=
  let (w, h) := if d.codec = 1 then (4096, 2304) else (8192, 4352)
  d.codec ≤ 2 && (d.depth = 8 || (d.depth = 10 && d.codec ≠ 1)) && d.width % 2 = 0 && d.height % 2 = 0 &&
  128 ≤ d.width && d.width ≤ w && 128 ≤ d.height && d.height ≤ h &&
  1 ≤ d.fpsNum && 1 ≤ d.fpsDen && levelOk d.codec d.level d.width d.height d.fpsNum d.fpsDen

/-- Modes (R383, R384). -/
def modeOk (d : SessDesc) : Bool :=
  let qpMax := if d.codec = 2 then 255 else 51
  d.unit ≤ 2 && d.source ≤ 1 && (d.unit ≠ 2 || d.source = 0) && (d.source = 0 || d.sctx < 24) &&
  (!d.highTier || d.codec = 0) && (d.unit = 2 || (d.rc ≤ 3 && (d.rc ≠ 3 || d.lowlat) &&
    (d.rc ≠ 2 || d.target ≤ d.peak))) &&
  d.bframes ≤ 3 && (!d.lowlat || d.bframes = 0) &&
  (if d.lowlat then 1 ≤ d.sliceRows else d.sliceRows = 0) &&
  d.qp.1 ≤ qpMax && d.qp.2.1 ≤ qpMax && d.qp.2.2 ≤ qpMax

/-- Areas (R384): aligned, in companion memory outside the reserved region. -/
def areasOk (s : State) (d : SessDesc) : Bool :=
  let n := 2 ^ d.dataLog2
  (if d.unit = 2 then
    1 ≤ d.dataLog2 && d.dataLog2 ≤ 6 && d.data % 0x1_0000 = 0 && s.inHostMemory d.data (n * bufferStep d)
  else 16 ≤ d.dataLog2 && d.dataLog2 ≤ 30 && d.data % n = 0 && s.inHostMemory d.data n) &&
  4 ≤ d.recLog2 && d.recLog2 ≤ 12 && d.records % (32 * 2 ^ d.recLog2) = 0 &&
  s.inHostMemory d.records (32 * 2 ^ d.recLog2) &&
  d.work % 0x1_0000 = 0 && s.inHostMemory d.work ((4 + d.bframes + 2) * sessFrame d)

/-- A stream source has the session's format and size (R387). -/
def streamOk (s : State) (d : SessDesc) : Bool :=
  d.source = 0 || (match (s.streams[d.sctx]?).bind fun _ => s.definedAs (Fin.ofNat 24 d.sctx) with
    | some x => sourceFits d x
    | none => false)

/-- Capacity of a unit with one more session (R385): 16 sessions, 500 Mpixel/s as an exact fraction. -/
def capacityOk (s : State) (d : SessDesc) : Bool :=
  let others := (s.sessionsOf d.unit).filterMap fun n => s.sessions[n].desc
  let (num, den) := (d :: others).foldl (fun (acc : Nat × Nat) x =>
    (acc.1 * x.fpsDen + x.width * x.height * x.fpsNum * acc.2, acc.2 * x.fpsDen)) (0, 1)
  others.length < 16 && num ≤ 500000000 * den

/-! ## Session registers -/

/-- An enable is refused (R385). -/
def refuseSession (s : State) (n : SessId) (code : BitVec 16) : State :=
  (s.updSession n fun x => { x with en := false, active := false, reason := code }).note code .information 0

/-- EN goes from 0 to 1 (R385, R409). -/
def enableSession (s : State) (n : SessId) : State :=
  if !(s.fwif.feat.getLsbD 6) then s.note 0x5002 .information 0
  else if s.sessions[n].en then s
  else
    let a := s.sessions[n].descAddr.toNat / 64 * 64
    let d := s.readDesc a
    if !(s.descBytesOk a && formatOk d && modeOk d && s.areasOk d && s.streamOk d) then
      s.refuseSession n 0xB001
    else if !s.capacityOk d then s.refuseSession n 0xB002
    else
      let shed := match s.codecs[d.unit]? with | some u => u.shed | none => false
      s.updSession n fun x => { x with
        en := true, active := true, suspended := shed, desc := some d, dataHead := 0, recHead := 0
        recTail := 0, feedBusy := false, forceKey := false, keyOwed := false, queue := [], coding := none, chunk := 0
        offset := 0, frameNo := 0, skipToAccess := false, written := 0, history := [], decoded := [], shown := 0
        gaps := [] }

/-- EN goes to 0 (R394). -/
def disableSession (s : State) (n : SessId) : State := if s.sessions[n].en then s.stopSession n else s

/-- FORCE_KEY is written 1 (R394). -/
def writeForceKey (s : State) (n : SessId) : State :=
  if s.sessions[n].active then s.updSession n ({ · with forceKey := true }) else s

/-- GO is written (R387, R390, R394); replay drops it (R465). -/
def writeCodecGo (s : State) (n : SessId) : State :=
  if s.replaying then s.replayDrop
  else
    let x := s.sessions[n]
    match x.desc with
    | none => s
    | some d =>
      if !x.active then s
      else if x.feedBusy || d.source = 1 then s.note 0xB001 .information 0
      else
        let src : SrcFrame := { tideSrc := s.now, blankFrom := none, torn := false
                                buffer := x.feedAddr.toNat / 256 * 256 }
        s.updSession n fun x => { x with
          feedBusy := true, queue := if d.unit = 2 then x.queue else x.queue ++ [src] }

end State

def execCodecSessionEnable (n : SessId) (s : State) : Result :=
  let s := s.wakeSlack
  if s.answers then .next (s.enableSession n) else .next s

def execCodecSessionDisable (n : SessId) (s : State) : Result :=
  let s := s.wakeSlack
  if s.answers then .next (s.disableSession n) else .next s

def execForceKey (n : SessId) (s : State) : Result :=
  let s := s.wakeSlack
  if s.answers then .next (s.writeForceKey n) else .next s

def execCodecFeedGo (n : SessId) (s : State) : Result :=
  let s := s.wakeSlack
  if s.answers then .next (s.writeCodecGo n) else .next s

/-! ## Coding -/

/-- A session that its unit may serve: active, not stopped, the unit's clock on and not shed (R393). -/
def State.serves (s : State) (n : SessId) : Option SessDesc :=
  let x := s.sessions[n]
  match x.desc with
  | some d =>
    let on : Bool := match s.codecs[d.unit]? with | some u => !u.shed | none => false
    if s.pipesUp && x.active && !x.suspended && on then some d else none
  | none => none

/-- A unit is busy. -/
def State.unitBusy (s : State) (u : Nat) : Bool :=
  match s.codecs[u]? with | some c => c.busy | none => true

/-- Set a unit busy or free. -/
def State.setBusy (s : State) (u : Nat) (b : Bool) : State :=
  if h : u < 3 then { s with codecs := updAt s.codecs ⟨u, h⟩ ({ · with busy := b }) } else s

/-- Frames an encoder has coded since its last key frame (R384). -/
def sinceKey (history : List CodecEvent) : Nat :=
  (history.reverse.takeWhile fun
    | .frame _ key _ _ _ => !key
    | _ => true).length

/-- B-frames that an encoder has coded in a row (R382). -/
def bRun (history : List CodecEvent) : Nat :=
  (history.reverse.takeWhile fun
    | .frame _ _ b _ _ => b
    | _ => true).length

/-- Is the next frame an encoder codes a key frame (R384, R392, R394)? The first is, a forced one is, and every
KEYINT-th after a key frame. Log entry 107. -/
def Session.keyDue (x : Session) (d : SessDesc) : Bool :=
  x.forceKey || x.keyOwed || x.frameNo = 0 || (d.keyint ≠ 0 && d.keyint ≤ sinceKey x.history + 1)

/-- Which waiting frame an encoder codes next: a key frame in the order of arrival, any other at most BFRAMES ahead. -/
def Session.codesNext (x : Session) (d : SessDesc) : Nat :=
  if x.keyDue d then 0 else Config.codecOrder d x.history % (d.bframes + 1)

/-- Is the next frame a B-frame (R382)? At most BFRAMES are in a row. -/
def Session.bDue (x : Session) (d : SessDesc) : Bool :=
  !x.keyDue d && bRun x.history < d.bframes && Config.codecB d x.history

/-- Frame buffers of a decoder that records hold which the host has not consumed (R390). -/
def Session.buffersHeld (x : Session) : Nat :=
  let n := (x.recTail - x.recHead).toNat
  n - x.gaps.countP fun t => (t - x.recHead).toNat < n

/-- Is every frame buffer of a decoder held? -/
def Session.full (x : Session) (d : SessDesc) : Bool := 2 ^ d.dataLog2 ≤ x.buffersHeld

/-- Does a session wait for a frame, a feed or a free buffer (R394)? -/
def Session.waits (x : Session) : Bool :=
  match x.desc with
  | none => false
  | some d => x.active && !x.suspended && x.coding.isNone &&
      if d.unit = 2 then if x.queue.isEmpty && x.decoded.isEmpty then !x.feedBusy else x.full d
      else !x.feedBusy && (x.queue[x.codesNext d]?).isNone

/-- What a decoder met at an access unit: taken, or discarded (R390). -/
def State.noteUnit (s : State) (n : SessId) (taken : Bool) : State :=
  s.updSession n fun x => { x with history := x.history ++ [.unit taken] }

/-- A decoder leaves an access unit behind. -/
def State.dropUnit (s : State) (n : SessId) : State :=
  (s.noteUnit n false).updSession n fun x => { x with queue := x.queue.tail }

/-- A decoder takes an access unit. -/
def State.takeUnitOf (s : State) (n : SessId) (src : SrcFrame) : State :=
  ((s.noteUnit n true).updSession n fun x => { x with
    coding := some src, queue := x.queue.tail, chunk := 0, written := 0, skipToAccess := false }).setBusy 2 true

/-- CODEC_FRAME_START (R387, R390): an encoder takes a source frame; a decoder starts the next access unit of its feeds
while a frame buffer is free, discards a broken one with 0xB004, and input up to the next random access point after it. -/
def execCodecFrameStart (n : SessId) (found : CodecStart) (s : State) : Result :=
  match s.serves n with
  | none => .next s
  | some d =>
    let x := s.sessions[n]
    if s.unitBusy d.unit || x.coding.isSome then .next s else
    if d.unit = 2 then
      match x.queue with
      | [] => .next s
      | src :: _ =>
        if x.full d then .next s
        else match found with
          | .bitstreamError =>
            .next (((s.dropUnit n).updSession n ({ · with skipToAccess := true })).report
              { reason := 0xB004, severity := .contained })
          | .ready => .next (if x.skipToAccess then s.dropUnit n else s.takeUnitOf n src)
          | .randomAccessPoint => .next (s.takeUnitOf n src)
    else
      match x.queue[x.codesNext d]? with
      | none => .next s
      | some src =>
        .next ((s.updSession n fun x => { x with
          coding := some src, queue := x.queue.eraseIdx (x.codesNext d), chunk := 0, written := 0
          keyFrame := x.keyDue d, bFrame := x.bDue d, forceKey := false, keyOwed := false }).setBusy d.unit true)

/-- Lines of a slice block (R382): 16 in AVC, 64 otherwise. -/
def blockRows (d : SessDesc) : Nat := if d.codec = 1 then 16 else 64

/-- The records of a frame carry BLANKED, in low-latency mode from the first blanked line on (R388, R393). -/
def chunkBlanked (d : SessDesc) (src : SrcFrame) (slice : Nat) : Bool :=
  match src.blankFrom with
  | none => false
  | some y => !d.lowlat || y.toNat < (slice + 1) * d.sliceRows * blockRows d

/-- Where a chunk goes (R389): it never crosses the end of the ring. -/
def chunkOffset (d : SessDesc) (offset len : Nat) : Nat :=
  let n := 2 ^ d.dataLog2
  if offset % n + len ≤ n then offset else roundUp offset n

/-- Luma lines of one slice (R382, R384); a frame without slices is one chunk. -/
def sliceLines (d : SessDesc) : Nat := if d.lowlat then d.sliceRows * blockRows d else d.height

/-- Is a chunk the last of its frame (R388)? -/
def lastChunk (d : SessDesc) (k : Nat) : Bool := d.height ≤ (k + 1) * sliceLines d

/-- QP of a chunk (R383): under CQP that of the frame's kind. -/
def chunkQp (d : SessDesc) (c : CodecChunk) (key b : Bool) : Byte :=
  if d.unit = 2 then 0
  else if d.rc = 0 then BitVec.ofNat 8 (if key then d.qp.1 else if b then d.qp.2.2 else d.qp.2.1)
  else c.qp

/-- The bytes of syntax units (R382): an Annex B byte stream, each unit after a start code, or low-overhead OBUs. -/
def unitBytes (codec : Nat) (units : List (List Byte)) : List Byte :=
  if codec = 2 then units.flatten else units.flatMap fun u => [0, 0, 0, 1] ++ u

/-- What goes before a key frame (R382): VPS, SPS and PPS, or SPS and PPS, or a sequence header. -/
def headUnits (d : SessDesc) : List (List Byte) :=
  (Config.parameterSets d).toList.take (if d.codec = 0 then 3 else if d.codec = 1 then 2 else 1)

/-- The bytes of a chunk of an encoder. -/
def chunkBytes (d : SessDesc) (c : CodecChunk) (key : Bool) (k : Nat) : List Byte :=
  unitBytes d.codec ((if key && k = 0 then headUnits d else []) ++ c.units)

/-- Bytes of the frames that a session coded, the latest first. -/
def frameBytes (history : List CodecEvent) : List Nat :=
  history.reverse.filterMap fun
    | .frame _ _ _ _ n => some n
    | _ => none

/-- The most bytes that a frame may have (R383): under LLCBR 1.5 × TARGET ÷ frame rate, under VBR what the frames of the
window of 1 s that it ends leave of PEAK. Both are in kbit/s. -/
def frameBound (d : SessDesc) (history : List CodecEvent) : Option Nat :=
  if d.rc = 3 then some (1500 * d.target * d.fpsDen / (8 * d.fpsNum))
  else if d.rc = 2 then
    some (125 * d.peak - ((frameBytes history).take ((d.fpsNum + d.fpsDen - 1) / d.fpsDen - 1)).sum)
  else none

/-- Data of a chunk within the frame's bound. -/
def chunkData (d : SessDesc) (history : List CodecEvent) (bytes : List Byte) (written : Nat) : List Byte :=
  match frameBound d history with
  | some n => bytes.take (n - written)
  | none => bytes

/-- The hypothetical decoder buffer of CBR (R383), in bits × FPS_NUM: each frame enters, and TARGET drains over a frame's
time. -/
def bufferFill (d : SessDesc) (history : List CodecEvent) : Nat :=
  (frameBytes history).reverse.foldl (fun v n => v - 1000 * d.target * d.fpsDen + 8 * n * d.fpsNum) 0

/-- Would a frame of `n` bytes overflow the buffer of 1 s (R383)? -/
def overflows (d : SessDesc) (history : List CodecEvent) (n : Nat) : Bool :=
  (d.rc = 1 || d.rc = 3) && d.unit ≠ 2 &&
    1000 * d.target * d.fpsNum < bufferFill d history - 1000 * d.target * d.fpsDen + 8 * n * d.fpsNum

/-- FLAGS of a record but for BLANKED, TORN and PHASE (R388): only AV1 has film grain (R389). -/
def chunkFlags (d : SessDesc) (c : CodecChunk) (key last skip : Bool) : Nat :=
  (if key then 1 else 0) + (if last then 2 else 0) + (if skip then 4 else 0) +
  if c.grainOmitted && d.unit = 2 && d.codec = 2 then 64 else 0

/-- A frame ends with its last chunk. -/
def State.endCoding (s : State) (n : SessId) (d : SessDesc) (src : SrcFrame) (last : Bool) : State :=
  if last then
    ((s.noteCoded n d src false).updSession n fun x => { x with
      coding := none, chunk := 0, written := 0, frameNo := x.frameNo + 1 }).setBusy d.unit false
  else s.updSession n fun x => { x with chunk := x.chunk + 1 }

/-- The k-th chunk of the frame a session codes, if it is not skipped (R392): of its descriptor, of what came before, and of
the source lines up to the end of the slice (R391). -/
def State.chunkOf (s : State) (n : SessId) (d : SessDesc) (src : SrcFrame) (k : Nat) : CodecChunk :=
  let x := s.sessions[n]
  let lines := if d.unit = 2 then [] else frameLines d (s.srcImage n d src) ((k + 1) * sliceLines d)
  Config.codecChunk d x.history lines x.keyFrame x.bFrame k

/-- Chunks of a frame (R388). -/
def chunksOf (d : SessDesc) : Nat := (d.height + sliceLines d - 1) / sliceLines d

/-- Is the frame that a session codes skipped, because it would overflow the buffer of CBR (R383)? -/
def State.skipsFrame (s : State) (n : SessId) (d : SessDesc) (src : SrcFrame) : Bool :=
  let x := s.sessions[n]
  overflows d x.history (chunkData d x.history
    ((List.range (chunksOf d)).flatMap fun k => chunkBytes d (s.chunkOf n d src k) x.keyFrame k) 0).length

/-- A decoded frame in the layout of R386: F bytes, in P010 with bits 5:0 of each sample 0. -/
def decodedImage (d : SessDesc) (bytes : List Byte) : List Byte :=
  let image := (bytes ++ List.replicate (sessFrame d - bytes.length) 0).take (sessFrame d)
  if d.depth = 10 then image.mapIdx fun k b => if k % 2 = 0 then b &&& 0xC0 else b else image

/-- The access unit that a decoder works on is decoded, and its frame waits for its turn in display order. -/
def State.unitDecoded (s : State) (n : SessId) (d : SessDesc) : State :=
  match s.sessions[n].coding with
  | none => s
  | some src =>
    let c := s.chunkOf n d src 0
    (s.updSession n fun x => { x with
      coding := none, chunk := 0
      decoded := x.decoded ++ [⟨src.tideSrc, decodedImage d c.bytes, c.key, c.grainOmitted⟩] }).setBusy 2 false

/-- The next frame in display order goes into the next frame buffer, with its record (R388; log entry 19), while a buffer is
free (R390); without a free record it is abandoned with 0xB003 (R389). -/
def State.frameShown (s : State) (n : SessId) (d : SessDesc) : State :=
  let x := s.sessions[n]
  if x.full d then s else
  match (Config.codecShown d x.history x.decoded.length).bind fun k => x.decoded[k]?.map fun f => (k, f) with
  | none => s
  | some (k, f) =>
    let src : SrcFrame := { tideSrc := f.tideSrc, blankFrom := none, torn := false, buffer := 0 }
    let s := s.updSession n fun x => { x with decoded := x.decoded.eraseIdx k }
    if State.recordsFree x = 0 then (s.abandonRecord n d src).note 0xB003 .information 0
    else
      let at_ := x.shown % 2 ^ d.dataLog2
      let s := s.updMem (·.store (d.data + at_ * bufferStep d) f.bytes)
      (s.codecRecord n at_ 0 src x.frameNo 0 0
          (chunkFlags d { grainOmitted := f.grainOmitted } f.key true false) false).updSession n fun x => { x with
        frameNo := x.frameNo + 1, shown := x.shown + 1 }

/-- A coded chunk: data, then the record, then FLAG; a frame that runs out of bytes or records is abandoned with 0xB003
(R388, R389). -/
def State.chunkCoded (s : State) (n : SessId) (d : SessDesc) (src : SrcFrame) : State :=
  let x := s.sessions[n]
  let skip := s.skipsFrame n d src
  let c := if skip then Config.codecSkip d x.history x.chunk else s.chunkOf n d src x.chunk
  let bytes := chunkData d x.history (chunkBytes d c x.keyFrame x.chunk) x.written
  let off := chunkOffset d x.offset bytes.length
  let free := 2 ^ d.dataLog2 - (BitVec.ofNat 32 off - x.dataHead).toNat
  if free < bytes.length || State.recordsFree x = 0 then (s.abandonFrame n).note 0xB003 .information 0
  else
    let last := lastChunk d x.chunk
    let s := s.updMem (·.store (d.data + off % 2 ^ d.dataLog2) bytes)
    let s := s.updSession n fun x => { x with offset := off + bytes.length, written := x.written + bytes.length }
    (s.codecRecord n off bytes.length src x.frameNo (BitVec.ofNat 8 x.chunk) (chunkQp d c x.keyFrame x.bFrame)
      (chunkFlags d c x.keyFrame last skip) (chunkBlanked d src x.chunk)).endCoding n d src last

/-- CODEC_CHUNK_DONE (R388–R390, R392): a chunk of an encoder's frame; or a decoder's access unit, and the frame that comes
next in display order. -/
def execCodecChunkDone (n : SessId) (s : State) : Result :=
  match s.serves n with
  | none => .next s
  | some d =>
    if d.unit = 2 then .next ((s.unitDecoded n d).frameShown n d)
    else match s.sessions[n].coding with
      | some src => .next (s.chunkCoded n d src)
      | none => .next s

/-- The bytes of a feed have been read (R387, R388, R390): an encoder's frame has them; a decoder's input is longer by
them, and the access units that they complete wait, with this count as TIDE_SRC. -/
def Session.feedRead (x : Session) (d : SessDesc) (bytes : List Byte) (now : Tick) : Session :=
  if d.unit = 2 then
    let history := x.history ++ [.feed bytes]
    let new := Config.accessUnits d history - Config.accessUnits d x.history
    { x with
      history
      queue := x.queue ++ List.replicate new { tideSrc := now, blankFrom := none, torn := false, buffer := 0 } }
  else
    let full (f : SrcFrame) : SrcFrame := if f.image.isNone then { f with image := some bytes } else f
    { x with queue := x.queue.map full, coding := x.coding.map full }

/-- CODEC_FEED_DONE (R387, R388, R460): FEED_BUSY clears; a decoder's TIDE_SRC is the count of this moment. -/
def execCodecFeedDone (n : SessId) (s : State) : Result :=
  let x := s.sessions[n]
  match x.desc with
  | none => .next s
  | some d =>
    if !s.pipesUp || !x.feedBusy then .next s else
    let bytes := s.codecFeedBytes n d
    let s := s.record 0x09 0 ([BitVec.ofNat 8 (32 + n.val), 0, 0, 0] ++ leBytes 4 x.frameNo) bytes
    .next (s.updSession n fun x => { x.feedRead d bytes s.now with feedBusy := false })

end Sys2Proof.Machine
end

