-- ==== Sys2Proof/Machine/MemoryCmds.lean ====
section
/-! DEFINITION. Harbour cache accesses and scrubs, the memory controller's requests, refresh, training and
strict mode (R314–R321, R331–R346). -/

namespace Sys2Proof.Machine

/-! ## Harbour cache -/

/-- Does an agent reach a unit of the window through its user's port (R321)? -/
def windowUser (agent : Agent) (owner : Nat) : Bool :=
  owner = 8 && agent = .harbourmaster || owner ≠ 0 && owner = userCode agent

/-- A write to the locked window (R321): only the user's arrives. -/
def State.windowWrite (s : State) (agent : Agent) (addr : Nat) (bytes : List Byte) : State :=
  if windowUser agent (s.unitOwner ((addr % windowSize) / 0x4_0000)) then
    s.updMem (·.store addr bytes)
  else s.note 0x4014 .information 0

/-- An access to the locked window (R317, R320, R321): a user's read meets the line's ECC. -/
def State.windowAccess (s : State) (agent : Agent) (addr : Nat) (write : Option (List Byte))
    (ecc : EccResult) (command : Option (QueueId × Word)) : State :=
  let o := addr % windowSize
  let owner := s.unitOwner (o / 0x4_0000)
  match write with
  | some bytes =>
    let bare : Bool := bytes.length = 128 || s.mem.poison.contains (lineOf addr) || windowUser agent owner = false
    (s.windowWrite agent addr bytes).harbourEcc (sliceOf o) (lockedWay o) (setOf o) (lineOf addr)
      (if owner = 8 then .bootHold else .locked) (if bare then .ok else ecc) none
  | none =>
    if !windowUser agent owner then s
    else if s.mem.poison.contains (lineOf addr) then s.readPoisoned command
    else s.harbourEcc (sliceOf o) (lockedWay o) (setOf o) (lineOf addr)
      (if owner = 8 then .bootHold else .locked) ecc command

/-- What an access meets in its line (R317): a hit meets the line's ECC unless the line is written whole; a
read of a line that holds poison fails its command. -/
def State.lineCheck (s : State) (addr : Nat) (write : Option (List Byte)) (ecc : EccResult)
    (command : Option (QueueId × Word)) : State :=
  match s.mem.held (lineOf addr), write with
  | some l, some bytes =>
    if bytes.length = 128 || l.bad then s
    else s.harbourEcc l.slice l.way l.set (lineOf addr) (if l.dirty then .dirty else .clean) ecc none
  | some l, none =>
    if l.bad then s.readPoisoned command
    else s.harbourEcc l.slice l.way l.set (lineOf addr) (if l.dirty then .dirty else .clean) ecc command
  | none, some _ => s
  | none, none => if s.mem.bad (lineOf addr) then s.readPoisoned command else s

/-- The cache takes the line of an access that missed (R315): in the way that replacement picks, if it is neither
locked nor disabled. -/
def State.placeLine (s : State) (addr : Nat) (write : Bool) (victim : Nat) : State :=
  if (s.mem.held (lineOf addr)).isSome || s.wayLocked victim (setOf addr) ||
      s.harbour.disabled.contains (sliceOf addr, victim, setOf addr) then s
  else s.updMem (·.fill addr victim write)

/-- An access to companion memory (R315, R317). What another agent than firmware writes to the reserved region is
dropped (R86). -/
def State.cacheAccess (s : State) (agent : Agent) (addr : Nat) (write : Option (List Byte)) (victim : Nat)
    (ecc : EccResult) (command : Option (QueueId × Word)) : State :=
  let s' := s.lineCheck addr write ecc command
  match write with
  | some bytes =>
    if s.part.reserved ≤ addr && agent ≠ .harbourmaster then s'
    else (s'.updMem (·.store addr bytes)).placeLine addr true victim
  | none => s'.placeLine addr false victim

/-- The command that an agent which sees only a context's virtual addresses works for (R396, R402). -/
def State.workOf (s : State) : Agent → Option Flight
  | .deck n => s.deckOwner[n].bind fun c => s.flight? c.1 c.2
  | .quayDma q | .berthDma q _ => s.flights.find? fun (f : Flight) => f.executes && f.run.quays.contains q
  | _ => none

/-- May an agent reach an address of companion memory? A deck core and the DMAs of a Quay reach only the pages that
their command's context maps for such an access (R396, R402). -/
def State.reaches (s : State) (agent : Agent) (addr : Nat) (write : Bool) : Bool :=
  match agent with
  | .deck _ | .quayDma _ | .berthDma _ _ => match s.workOf agent with
    | some f => (mappedPages s (fun e => if write then e / 4 % 2 = 1 else e / 2 % 2 = 1 || e / 8 % 2 = 1) 4
        (s.ctxs[f.entry.ctx].root.toNat / 2048 * 2048)).contains (addr / 0x1_0000)
    | none => false
  | _ => true

/-- HARBOUR_ACCESS (R314): the outbound space bypasses the cache. -/
def execHarbourAccess (agent : Agent) (addr : Nat) (write : Option (List Byte)) (victim : Fin 16)
    (ecc : EccResult) (command : Option (QueueId × Word)) (s : State) : Result :=
  if !s.memoryUp then .next s
  else if outboundBase ≤ addr then
    .next (match write with | some b => s.outboundWrite addr b false | none => s)
  else if windowBase ≤ addr then
    if addr < windowBase + windowSize then .next (s.windowAccess agent addr write ecc command) else .next s
  else if addr < s.part.memory && s.reaches agent addr write.isSome then
    .next (s.cacheAccess agent addr write victim.val ecc command)
  else .next s

/-- HARBOUR_SCRUB (R318): the scrubber acts under R317 on what it finds; a line poisoned before is passed
over. -/
def execHarbourScrub (slice : SliceId) (way : Fin 16) (set : Fin 512) (ecc : EccResult) (s : State) :
    Result :=
  if !s.memoryUp then .next s
  else if s.wayLocked way.val set.val then
    let line := lineOf (windowBase + lockedOffset slice.val way.val set.val)
    if s.mem.poison.contains line then .next s
    else .next (s.harbourEcc slice.val way.val set.val line
      (if s.unitOwner (lockedUnit way.val set.val) = 8 then .bootHold else .locked) ecc none)
  else match s.mem.lines.find? fun (l : CacheLine) =>
      l.slice == slice.val && l.way == way.val && l.set == set.val with
    | some l =>
      if l.bad then .next s
      else .next (s.harbourEcc slice.val way.val set.val l.line (if l.dirty then .dirty else .clean) ecc none)
    | none => .next s

/-! ## Requests -/

/-- MEMORY_REQUEST (R332, R334): the request joins its channel's queue. -/
def execMemoryRequest (req : MemReq) (s : State) : Result :=
  if s.memoryUp && req.addr < s.part.memory then
    let c := chanId (locate s.memctl.masks req.addr).channel
    let s' := s.updChan c fun x => { x with requests := x.requests ++ [⟨req, s.now, s.memctl.issued⟩] }
    .next { s' with memctl := { s'.memctl with issued := s.memctl.issued + 1 } }
  else .next s

/-- The wait after which a request is served before every younger one to its bank: 1 µs (R335). -/
def overdueTicks : Nat := 250

/-- Ticks of a refresh window: 130 ns (R337). -/
def refreshTicks : Nat := 33

/-- Is a bank of a channel in its refresh window? Requests to other banks proceed meanwhile (R337). -/
def State.inRefresh (s : State) (x : Channel) (bank : Nat) : Bool :=
  !s.memhost.hidden && x.refreshing.any fun b => b.val = bank && s.now.toNat < x.windows[b].toNat + refreshTicks

/-- The next slot of a channel: n mod 16 ms after the start of a 16 ms period (R341). -/
def retrainAt (now : Nat) (ch : ChanId) : Nat :=
  let first := ch.val % 16 * State.msTicks
  let period := 16 * State.msTicks
  if now ≤ first then first else first + (now - first + period - 1) / period * period

/-- The slot of a channel that comes next. -/
def State.retrainSlot (s : State) (ch : ChanId) : Nat :=
  retrainAt (max s.now.toNat s.memctl.chans[ch].retrainFrom) ch

/-- Is a channel in strict mode (R336)? From 1 µs before its retraining slot on, for that cause. -/
def State.strictNow (s : State) (ch : ChanId) : Bool :=
  !s.memctl.chans[ch].strict.isEmpty || s.retrainSlot ch ≤ s.now.toNat + 250

/-- Does an older request of a channel's queue go before one to a place (R335, R336)? One to the same bank does once it has
waited 1 µs; in strict mode so does one to the same bank and row. -/
def State.goesBefore (s : State) (ch : ChanId) (r : MemReq) (e : Waiting) : Bool :=
  let l := locate s.memctl.masks r.addr
  let m := locate s.memctl.masks e.req.addr
  m.bank = l.bank && (overdueTicks ≤ (s.now - e.since).toNat || (s.strictNow ch && m.row = l.row))

/-- Does an older request of the same source wait, on whatever channel (R334)? -/
def State.sourceWaits (s : State) (w : Waiting) : Bool :=
  s.memctl.chans.toList.any fun (x : Channel) => x.requests.any fun (e : Waiting) =>
    e.seq < w.seq && e.req.agent = w.req.agent

/-- May the request at a place of a channel's queue be served now (R331, R334–R337, R341)? One whose phase is being
retried has been chosen already: it goes before all others. -/
def State.servable (s : State) (ch : ChanId) (k : Nat) (w : Waiting) : Bool :=
  let x := s.memctl.chans[ch]
  !x.paused && !x.retraining && !s.inRefresh x (locate s.memctl.masks w.req.addr).bank &&
    match x.retried with
    | some j => j = k
    | none => !((x.requests.take k).any (s.goesBefore ch w.req)) && !s.sourceWaits w

/-- Remove the element at an index. -/
def dropAt {α : Type} (l : List α) (k : Nat) : List α := l.take k ++ l.drop (k + 1)

/-- A phase that has failed is tried again up to four times; a fifth failure brings full field retraining, after which
the request, still waiting, is issued again (R331). -/
def State.retryPhase (s : State) (ch : ChanId) (pick : Nat) : State :=
  if s.memctl.chans[ch].attempts < 4 then
    s.updChan ch fun x => { x with attempts := x.attempts + 1, retried := some pick }
  else s.startFieldRetrain ch

/-- A request leaves its channel's queue; a retry that succeeded is counted (R331). -/
def State.served (s : State) (ch : ChanId) (pick : Nat) : State :=
  let x := s.memctl.chans[ch]
  let s := s.updChan ch fun x => { x with requests := dropAt x.requests pick, attempts := 0, retried := none }
  if x.attempts = 0 then s else
    (s.updChan ch fun x => { x with retries := satInc x.retries }).reportLimited
      (State.markKey 0x9004 ch.val) { reason := 0x9004, severity := .corrected }

/-- What the burst of a read holds (R344, R345); a prefetch that meets an uncorrectable one reports nothing. -/
def State.burstRead (s : State) (r : MemReq) (ecc : EccResult) : State :=
  if r.prefetch && (ecc = .uncorrectable || s.mem.poison.contains (lineOf r.addr)) then s
  else s.memRead r.addr (agentCode r.agent) ecc r.command

/-- MEMORY_DATA_PHASE (R330, R331, R344, R345): the command phase and the data phase of a request. -/
def execMemoryDataPhase (ch : ChanId) (pick : Nat) (phase : DataPhase) (s : State) : Result :=
  match s.memctl.chans[ch].requests[pick]? with
  | none => .next s
  | some w =>
    if !s.memoryUp || !(s.servable ch pick w) then .next s
    else if !(s.phasesGood w.req phase) then .next (s.retryPhase ch pick)
    else if w.req.write then .next (s.served ch pick)
    else .next ((s.served ch pick).burstRead w.req phase.ecc)

/-! ## Refresh -/

/-- Ticks between the windows of one bank: 3.9 µs, or 1.95 µs while hot (R337). -/
def refreshInterval (hot : Bool) : Nat := if hot then 487 else 975

/-- REFRESH_WINDOW (R337): the bank's window, at the count it falls due (log entry 11), and not while the
limit of banks of its channel is refreshing. A changed interval applies from each bank's next window (R339). None in hidden refresh or retraining (R338, R341). -/
def execRefreshWindow (ch : ChanId) (bank : BankId) (s : State) : Result :=
  let x := s.memctl.chans[ch]
  if !s.memoryUp || s.memhost.hidden || x.paused || x.retraining then .next s else
  let due := max s.now.toNat (x.windows[bank].toNat + refreshInterval (x.hotBanks.contains bank))
  let ends (b : BankId) : Nat := x.windows[b].toNat + refreshTicks
  let busy (t : Nat) : List BankId := x.refreshing.filter fun b => b ≠ bank && t < ends b
  let limit := if s.memctl.hot then 2 else 1
  let start := if (busy due).length < limit then due
    else if s.memctl.hot then match State.least ends (busy due) with
      | some b => ends b
      | none => due
    else (busy due).foldl (fun t b => max t (ends b)) due
  let s := s.advanceTo (BitVec.ofNat 64 start)
  .next (s.updChan ch fun x => { x with
    windows := x.windows.set bank.val (BitVec.ofNat 64 start)
    hotBanks := (if s.memctl.hot then [bank] else []) ++ x.hotBanks.filter (· ≠ bank)
    refreshing := bank :: busy start })

/-! ## Training in the field -/

/-- The count at which the refresh windows of a channel that are in progress at a count have all ended: retraining lies
between two windows, but in hidden refresh (R341). -/
def State.betweenWindows (s : State) (x : Channel) (t : Nat) : Nat :=
  if s.memhost.hidden then t
  else x.refreshing.foldl (fun e b => max e ((x.windows[b]).toNat + refreshTicks)) t

/-- PERIODIC_RETRAIN (R336, R341, R349): the pause begins at the channel's slot (log entry 11), in strict
mode; it is skipped in the channel's own full field retraining. -/
def execPeriodicRetrain (ch : ChanId) (s : State) : Result :=
  let x := s.memctl.chans[ch]
  if !s.memoryUp || x.paused || x.retraining then .next s else
  let slot := s.retrainSlot ch
  let s := s.advanceTo (BitVec.ofNat 64 (s.betweenWindows x slot))
  .next ((s.updChan ch fun x => { x with paused := true, refreshing := [], retrainFrom := slot + 1 }).enterStrict ch .periodic false)

/-- PERIODIC_RETRAIN_END (R341, R342): a passing point re-centres the sampling phase and the reference voltage of each
wire; three consecutive periods without one bring full field retraining. -/
def execPeriodicRetrainEnd (ch : ChanId) (found : Bool) (drift : BitVec 8) (points : Vector (Nat × Nat) 8) (s : State) :
    Result :=
  let x := s.memctl.chans[ch]
  if !s.memoryUp || !x.paused then .next s else
  let s := s.leaveStrict ch .periodic
  let s := s.updChan ch fun x => { x with
    paused := false
    drift := if found then drift else x.drift
    wires := if found then .ofFn fun w => { x.wires[w] with phase := points[w].1, reference := points[w].2 } else x.wires
    failedPeriods := if found then 0 else x.failedPeriods + 1 }
  if !found && x.failedPeriods + 1 = 3 then .next (s.startFieldRetrain ch) else .next s.releaseHeld

/-- FULL_FIELD_RETRAIN_DONE (R340, R342): waiting resets and D3hot entries go on after it (R349). -/
def execFullFieldRetrainDone (ch : ChanId) (ok : Bool) (values : Vector WireTraining 8) (s : State) : Result :=
  let x := s.memctl.chans[ch]
  if !s.memoryUp || !x.retraining then .next s else
  let s := (s.updChan ch fun x => { x with
    retraining := false, wires := if ok then values else x.wires, fullRetrains := satInc x.fullRetrains }).leaveStrict ch .fullRetrain
  if ok then .next (s.note 0x9006 .corrected 0).releaseHeld else .next (s.loseDevice 0x9002)

/-- PATROL_SCRUB (R346): source 7; a burst that holds the poison encoding is passed over. An uncorrectable burst that
a command's read waits for names the command (R349). A channel that retrains serves no read (R341, R342). -/
def execPatrolScrub (addr : Nat) (result : EccResult) (s : State) : Result :=
  let x := s.memctl.chans[chanId (locate s.memctl.masks addr).channel]
  if s.memoryUp && addr < s.part.memory && !x.paused && !x.retraining then .next (s.testRead addr 7 result) else .next s

/-! ## The hot condition -/

/-- HOT_SET (R339): above 85 °C. -/
def execHotSet (reading : Int) (s : State) : Result :=
  if s.env.suppliesUp && !s.lost && !s.memctl.hot && 85 < reading then
    .next ({ s with memctl := { s.memctl with hot := true } }.note 0x9007 .information 0)
  else .next s

/-- HOT_CLEAR (R339): at or below 82 °C for 10 ms. -/
def execHotClear (reading : Int) (s : State) : Result :=
  if s.env.suppliesUp && !s.lost && s.memctl.hot && reading ≤ 82 then
    .next ({ s with memctl := { s.memctl with hot := false } }.note 0x9007 .information 0)
  else .next s

/-! ## Strict mode and refresh as written -/

/-- STRICT_RECOVERY_EXIT (R336): 1 ms after the last 0x9001 of the channel, which the Tide is carried to (log
entry 11). -/
def execStrictRecoveryExit (ch : ChanId) (s : State) : Result :=
  let x := s.memctl.chans[ch]
  if !s.memoryUp || !(x.strict.contains .uncorrectable) then .next s else
  let s := s.advanceTo (x.lastUncorr + BitVec.ofNat 64 State.msTicks)
  .next (s.leaveStrict ch .uncorrectable)

/-- A write of MEMCTL_CTRL.STRICT (R336): one 0x9003 for the write that enters (log entry 17). -/
def State.writeStrict (s : State) (strict : Bool) : State :=
  if strict = s.memhost.strict then s else
  let s := { s with memhost := { s.memhost with strict } }
  if strict then
    ((List.finRange 32).foldl (fun s c => s.enterStrict c .host false) s).note 0x9003 .information 0
  else (List.finRange 32).foldl (fun s c => s.leaveStrict c .host) s

def execMemctlStrictWrite (strict : Bool) (s : State) : Result :=
  let s := s.wakeSlack
  if s.answers then .next (s.writeStrict strict) else .next s

/-- A write of MEMCTL_CTRL.HIDDEN (R338). -/
def State.writeHidden (s : State) (hidden : Bool) : State :=
  { s with memhost := { s.memhost with hidden } }

def execMemctlHiddenWrite (hidden : Bool) (s : State) : Result :=
  let s := s.wakeSlack
  if s.answers then .next (s.writeHidden hidden) else .next s

end Sys2Proof.Machine
end

