-- ==== Sys2Proof/Machine/FirmwareCmds.lean ====
section
/-! DEFINITION. Stage 2, negotiation, firmware requests and the log, trace and fault rings (R76, R88, R269,
R406–R417, R492, R518). -/

namespace Sys2Proof.Machine

namespace State

/-! ## Stage 2 (R406, R407) -/

/-- A refusal of LOAD or NEGOTIATE: REASON, a log entry, STATE unchanged (R408). -/
def refuseFw (s : State) (code : BitVec 16) : State :=
  { s with fwif := { s.fwif with reason := code } }.note code .information 0

/-- The copy of a stage-2 page on die matches its leaf in the tree of the boot hold (R80). -/
def pageGood (s : State) (i : Nat) : Bool :=
  treeLeaf i (s.mem.reads (s.fwif.s2Base + 4096 * i) 4096) = s.mem.reads (s.boot.treeAt + 32 * i) 32

/-- A checked copy of a page is kept; 2 MiB of SRAM hold the last 512 (R80, R407; log entry 104). -/
def keepPage (s : State) (i : Nat) : State :=
  { s with fwif := { s.fwif with
      pages := ((i, s.mem.reads (s.fwif.s2Base + 4096 * i) 4096) ::
        s.fwif.pages.filter fun p => p.1 ≠ i).take 512 } }

/-- The stage-2 load fails: STATE FAILED, with 0x700E (R80, R406). -/
def failStage2 (s : State) : State :=
  { s with fwif := { s.fwif with state := .failed, reason := 0x700E, negotiating := none } }.note 0x700E .contained 0

/-- Stage 2 is complete: STATE LOADED, and FWIF_FW_VERSION is valid (R418). -/
def stage2Loaded (s : State) : State :=
  { s with fwif := { s.fwif with
      state := .loaded, fwVersion := BitVec.ofNat 32 (0x1_0000 + Config.fwMinor.toNat) } }

/-- LOAD is written (R406). -/
def writeLoad (s : State) : State :=
  let area := s.boot.stage2Pages * 4096
  let base := s.fwif.s2Addr.toNat / 0x1_0000 * 0x1_0000
  if s.fwif.state ≠ .wait then s.refuseFw 0xE003
  else if area = 0 then s.stage2Loaded
  else if !s.inHostMemory base area then s.refuseFw 0xE008
  else { s with fwif := { s.fwif with
      state := .loading, s2Base := base, s2Area := area } }

/-! ## Negotiation (R408, R409) -/

/-- Features this firmware offers: bits 0–10. -/
def offeredFeatures : BitVec 64 := 0x7FF

/-- NEGOTIATE is written: it is refused, or takes the version and the features as they stand. -/
def writeNegotiate (s : State) : State :=
  let w := s.fwif
  if w.negotiating.isSome || (w.state ≠ .loaded && w.state ≠ .ready) then s.refuseFw 0xE003
  else if w.state = .ready && s.queues.toList.any (·.en) then s.refuseFw 0xE002
  else if w.drvVersion.toNat / 0x1_0000 ≠ 1 || !(w.drvFeat.getLsbD 0) then s.refuseFw 0xE001
  else { s with fwif := { w with negotiating := some (w.drvVersion, w.drvFeat) } }

/-- What READY releases: held queue enables (R142), a held Manifest (R168), the first sweep (R144). -/
def becomeReady (s : State) : State :=
  let s := { s with
    ready := { s.ready with ready := true }
    sched := { s.sched with nextSweep := s.now + BitVec.ofNat 64 s.hostif.qsweep.toNat } }
  let s := (List.finRange 256).foldl (fun s q => if s.queues[q].enHeld then s.takeEnable q else s) s
  if s.manifest.held then s.startLoad else s

/-! ## Requests (R410, R411) -/

/-- A field of the request block in progress. -/
def reqField (s : State) (off n : Nat) : Nat := s.mem.field (s.fwif.reqTaken + off) n

/-- The block lies where it may. -/
def reqPlaced (s : State) (n : Nat) : Bool := s.inHostMemory s.fwif.reqTaken n

/-- LENGTH of a kind: MEMTEST's must hold its totals. -/
def reqLengthOk (kind len : Nat) : Bool :=
  match kind with
  | 1 => len = 128
  | 2 => len = 4096
  | 3 => len = 8192
  | 4 => 0x88 ≤ len && len ≤ 8192
  | _ => false

/-- The header is well formed and its KIND known (R410). -/
def reqFormed (s : State) : Bool :=
  s.reqPlaced 64 && s.reqField 0 4 = 0x5146_4A4F && reqLengthOk (s.reqField 4 2) (s.reqField 6 2) &&
  s.reqPlaced (s.reqField 6 2) && s.mem.zeroes (s.fwif.reqTaken + 0x0A) (s.fwif.reqTaken + 0x40) &&
  (s.reqField 4 2 ≠ 1 || s.reqField 0x40 1 ≤ 1)

/-- KIND of the block, 0 where none can be read. -/
def reqKind (s : State) : Nat := if s.reqPlaced 64 then s.reqField 4 2 else 0

/-- The feature a request needs (R409). -/
def reqFeature (s : State) : Bool :=
  match s.reqKind with
  | 1 => s.reqField 0x40 1 = 0 || s.fwif.feat.getLsbD 5
  | 2 => s.fwif.feat.getLsbD 7
  | 3 => s.fwif.feat.getLsbD 8
  | 4 => s.fwif.feat.getLsbD 9
  | _ => true

/-- Why a request is refused before its kind's own tests. -/
def reqRefusal (s : State) : Option (BitVec 16) :=
  if !s.reqFormed then some 0xE005 else if !s.reqFeature then some 0x5002 else none

/-- Firmware works on requests: it runs, and a failed stage 2 has not stopped it. -/
def reqServed (s : State) : Bool := s.fwUp && s.fwif.reqGo && s.fwif.state ≠ .failed

/-- A request of a kind is in progress, allowed, and its work not done. -/
def reqOpen (s : State) (kind : Nat) : Bool :=
  s.reqServed && s.fwif.reqWork.isNone && s.reqRefusal.isNone && s.reqKind = kind

/-- The work of a request is done. -/
def reqWorked (s : State) (result : BitVec 16) : State :=
  { s with fwif := { s.fwif with reqWork := some result } }

/-- What a request answers in its block, at an offset: written at its end, so that a request that a re-launch
interrupts leaves no answer (R417). -/
def reqAnswer (s : State) (off : Nat) (bytes : List Byte) : State :=
  { s with fwif := { s.fwif with reqOut := s.fwif.reqOut ++ [(s.fwif.reqTaken + off, bytes)] } }

/-- The answers of a request are written. -/
def reqWrite (s : State) : State :=
  s.fwif.reqOut.foldl (fun s w => s.updMem (·.store w.1 w.2)) s

/-- A request ends (R410): RESULT in the block, then FWIF_REQ_STATUS, then vector 1; a non-zero RESULT is
logged with KIND in DETAIL. -/
def endRequest (s : State) (result : BitVec 16) : State :=
  let kind := s.reqKind
  let s := (List.finRange 32).foldl (fun s c => s.leaveStrict c .memtest) s
  let s := if s.reqPlaced 64 then
      s.updMem (·.store (s.fwif.reqTaken + 8) (leBytes 2 result.toNat)) else s
  let s := { s with fwif := { s.fwif with
    reqResult := result, reqDone := true, reqGo := false, reqWork := none, reqUndo := none, reqOut := [] } }
  let s := if result = 0 then s else s.note result .information kind
  s.sendMsix 1

/-- A request that a re-launch interrupts has no effect (R417). -/
def interruptRequest (s : State) : State :=
  if !s.fwif.reqGo then s else
  let s := match s.fwif.reqUndo with
    | some old => { s with ready := { s.ready with sfuG1 := old } }
    | none => s
  s.endRequest 0x4001

/-- GO is written (R410). -/
def writeGo (s : State) : State :=
  if s.fwif.reqGo then s.note 0xE004 .information 0
  else { s with fwif := { s.fwif with
      reqGo := true, reqTaken := s.fwif.reqAddr.toNat / 64 * 64, reqWork := none, reqUndo := none, reqOut := [] } }

/-! ## Rings (R412–R415, R492, R518) -/

/-- A ring's EN write is refused (R518): DETAIL is the BAR0 offset of the ring's base register. -/
def refuseRing (s : State) (offset : Nat) : State := s.note 0xE007 .information offset

/-- The log ring's EN is set: held entries come first, then losses mark the next one (R413, R414). -/
def enableLog (s : State) : State :=
  let r := s.fwif.log
  if r.en then s
  else if !(s.ringFits r.base.toNat r.log2.toNat 32) then s.refuseRing 0x8_0040
  else
    let held := r.held
    let lost := r.lostBefore
    let s := { s with fwif := { s.fwif with
      log := { r with en := true, held := [], lostBefore := false } } }
    let s := held.foldl (fun s e => s.logPut e true) s
    if lost then
      { s with fwif := { s.fwif with log := { s.fwif.log with lostBefore := true } } }.note 0xE006
        .information 0
    else s

/-- The trace ring's EN is set (R415): SEQ counts records since then. -/
def enableTrace (s : State) : State :=
  let r := s.fwif.trace
  if !(s.fwif.feat.getLsbD 10) then s.note 0x5002 .information 0
  else if r.en then s
  else if !(s.ringFits r.base.toNat r.log2.toNat 32) then s.refuseRing 0x8_0060
  else { s with fwif := { s.fwif with trace := { r with en := true, lostBefore := false }, traceSeq := 0 } }

/-- The fault ring's EN is set: held records come first, then a loss record that could not be written
before (R492, R511). -/
def enableFaultRing (s : State) : State :=
  let r := s.faults.ring
  if s.faults.active then s
  else if !(s.ringFits r.base.toNat r.log2.toNat 32) then s.refuseRing 0x9_0008
  else
    let held := r.held
    let lost := r.lostBefore
    let s := { s with faults := { s.faults with
      active := true, gap := false, ring := { r with en := true, held := [], lostBefore := false } } }
    let s := held.foldl (fun s e => s.faultPut e true) s
    let s := if lost then { s with faults := { s.faults with
        ring := { s.faults.ring with lostBefore := true } } } else s
    s.writeLossRecord

/-- Space in the log ring returns after entries were dropped (R413). -/
def writeLogHead (s : State) (head : Word) : State :=
  let r := s.fwif.log
  let s := { s with fwif := { s.fwif with log := { r with head } } }
  if r.en && r.lostBefore && !s.fwif.log.full then s.note 0xE006 .information 0 else s

end State

/-! ## Meanings -/

def execFwifLoad (s : State) : Result :=
  let s := s.wakeSlack
  if s.answers then .next s.writeLoad else .next s

/-- STAGE2_LOAD_DONE (R80, R406): every page is copied and its leaf compared with the tree. -/
def execStage2LoadDone (s : State) : Result :=
  if !s.fwUp || s.fwif.state ≠ .loading then .next s
  else if (List.range s.boot.stage2Pages).all s.pageGood then
    .next ((List.range s.boot.stage2Pages).foldl State.keepPage s).stage2Loaded
  else .next s.failStage2

/-- STAGE2_PAGE_CHECK (R80, R407): a page is copied in again. A mismatch stops the firmware after READY, and fails
the load before it. -/
def execStage2PageCheck (page : Nat) (s : State) : Result :=
  if !s.fwUp || s.boot.stage2Pages ≤ page then .next s
  else match s.fwif.state with
    | .ready => .next (if s.pageGood page then s.keepPage page else s.stopFirmware)
    | .loaded => .next (if s.pageGood page then s.keepPage page else s.failStage2)
    | .wait | .loading | .failed => .next s

def execNegotiate (s : State) : Result :=
  let s := s.wakeSlack
  if s.answers then .next s.writeNegotiate else .next s

/-- NEGOTIATE_DONE (R408): the features are the driver's and firmware's own; READY sets. -/
def execNegotiateDone (s : State) : Result :=
  match s.fwif.negotiating with
  | none => .next s
  | some (_, feat) =>
    if !s.fwUp then .next s else
    let s := { s with fwif := { s.fwif with
      state := .ready, feat := feat &&& State.offeredFeatures, negotiating := none } }
    if s.ready.ready then .next s else .next s.becomeReady

/-- A DISPATCH is in flight (R145, R269). -/
def State.dispatchInFlight (s : State) : Bool :=
  s.flights.any fun (f : Flight) => match f.entry.op with | .dispatch .. => true | _ => false

/-- SFU_MODE (R269). -/
def execSfuMode (s : State) : Result :=
  if !s.reqOpen 1 then .next s
  else if s.dispatchInFlight then .next (s.reqWorked 0x200A)
  else
    let old := s.ready.sfuG1
    let s := { s with ready := { s.ready with sfuG1 := s.reqField 0x40 1 = 1 } }
    .next ({ s with fwif := { s.fwif with reqUndo := some old } }.reqWorked 0)

/-- REPORT (R86, R88, R411): a debug-open run has no key to sign with (R90; log entry 43). -/
def execReport (s : State) : Result :=
  if !s.reqOpen 2 then .next s
  else if !s.vouched || s.boot.released.isNone then .next (s.reqWorked 0x7008)
  else
    let bytes := s.signedReport 1 (s.mem.reads (s.fwif.reqTaken + 0x40) 16)
    let s := { s with freeCount := s.freeCount + 1 }
    .next ((s.reqAnswer 0x800 bytes).reqWorked 0)

/-- The signature block of a COMMISSION verifies under the current owner key (R69, R76, R411): the message is the
64-byte digest of the block's first 4,096 bytes. -/
def State.ownerSigned (s : State) : Bool :=
  let sig := s.fwif.reqTaken + 0x1000
  let c := s.mem.verify s.fwif.reqTaken 4096 sig
  s.mem.sigBlockOk sig && s.secure.ownerSet && c.keyDigest = s.secure.ownerHash && c.sigHolds

/-- The change a COMMISSION request asks for, where R76 permits it: the store after it. A debug-open run of a
passing image may ask, and OP 3 with no bit set is a change of nothing (log entry 100). -/
def State.commissioned (s : State) : Option Secure :=
  let x := s.secure
  let op := s.reqField 0x40 1
  let bits := s.reqField 0x41 1
  let hash := BitVec.ofNat 512 (s.reqField 0x80 64)
  if !s.vouched then none
  else if op = 1 && !x.nextOwnerSet then some { x with nextOwnerSet := true, nextOwnerHash := hash }
  else if op = 2 && s.ownerSigned then some { x with nextOwnerHash := hash }
  else if op = 3 && bits < 8 then
    some { x with
      nextV := x.nextV || bits % 2 = 1, nextK := x.nextK || bits / 2 % 2 = 1
      nextOwnerOnly := x.nextOwnerOnly || bits / 4 % 2 = 1 }
  else none

/-- COMMISSION (R76, R411): a change is committed at once and takes effect at the next start. -/
def execCommission (s : State) : Result :=
  if !s.reqOpen 3 then .next s else
  match s.commissioned with
  | some y => .next ({ s with secure := y.written .rollback }.reqWorked 0)
  | none => .next (s.reqWorked 0x700F)

/-- Addresses that lie in the channels a MEMTEST tests. -/
def State.memtested (s : State) (l : List Nat) : List Nat :=
  l.filter fun a => a < s.part.memory &&
    s.reqField 0x40 4 / 2 ^ (locate s.memctl.masks a).channel % 2 = 1

/-- MEMTEST's two counts in its block (R411). -/
def State.memtestCounts (s : State) (good bad : Nat) : State :=
  (s.reqAnswer 0x80 (leBytes 4 good)).reqAnswer 0x84 (leBytes 4 bad)

/-- The channels of a MEMTEST are in strict mode from its start to its end; one 0x9003 stands for them all (R336; log
entry 17). -/
def State.strictTest (s : State) : State :=
  if s.reqField 0x40 4 = 0 then s else
  ((List.finRange 32).foldl (fun s c =>
    if s.reqField 0x40 4 / 2 ^ c.val % 2 = 1 then s.enterStrict c .memtest false else s) s).note 0x9003 .information 0

/-- MEMTEST (R336, R345, R411): `corrected` and `uncorrectable` are the bursts found in the masked channels. -/
def execMemtest (corrected uncorrectable : List Nat) (s : State) : Result :=
  if !s.reqOpen 4 || !s.memoryUp then .next s else
  let good := s.memtested corrected
  let bad := s.memtested uncorrectable
  let s := good.foldl (fun s a => s.memCorrected a) s.strictTest
  let s := bad.foldl (fun s a => s.testRead a 6 .uncorrectable) s
  .next ((s.memtestCounts good.length bad.length).reqWorked 0)

/-- FW_REQUEST_DONE (R410, R411): the request's own work has been done, or it is refused here. -/
def execFwRequestDone (s : State) : Result :=
  if !s.reqServed then .next s else
  match s.fwif.reqWork.or s.reqRefusal with
  | some result => .next (s.reqWrite.endRequest result)
  | none => .next s

def execLogRingEnable (s : State) : Result :=
  let s := s.wakeSlack
  if s.answers then .next s.enableLog else .next s

def execTraceRingEnable (s : State) : Result :=
  let s := s.wakeSlack
  if s.answers then .next s.enableTrace else .next s

def execFaultRingEnable (s : State) : Result :=
  let s := s.wakeSlack
  if s.answers then .next s.enableFaultRing else .next s

end Sys2Proof.Machine
end

