-- ==== Sys2Proof/Machine/LighthouseCmds.lean ====
section
/-! DEFINITION. Heartbeats, the re-launch of the Harbourmaster, arbitration faults and self-repair in the
field (R405, R494, R497–R507). -/

namespace Sys2Proof.Machine

/-! ## Heartbeats (R405) -/

/-- HEARTBEAT: FWIF_BEAT records it; it is good when its number follows the one before. `writes` are what
firmware has written to the secure store by itself since the one before (R82; log entry 105). -/
def execHeartbeat (seq : BitVec 16) (writes : List StoreWrite) (s : State) : Result :=
  if !s.fwUp then .next s else
  let s := writes.foldl State.storeWrite s
  let h := s.heart
  let w := s.now.toNat / State.msTicks
  let good : Bool := !h.started || seq = h.seq + 1
  let h := { h with seq, started := true }
  let h := if w < h.window then h
    else { h with window := w, seen := true, valid := good || (h.window = w && h.valid) }
  .next { s with heart := h, fwif := { s.fwif with beat := seq } }

/-- HEARTBEAT_WINDOW_END: the present window ends, which the Tide is carried to (log entry 11); the third
consecutive miss starts recovery. Windows that no firmware runs in are not judged. -/
def execHeartbeatWindowEnd (s : State) : Result :=
  if !s.fwUp then .next s else
  let h := s.heart
  let w := max h.window (s.now.toNat / State.msTicks)
  let missed := if h.window = w && h.valid then 0 else h.missed + 1
  let s := s.advanceTo (BitVec.ofNat 64 ((w + 1) * State.msTicks))
  let s := { s with heart := { h with window := w + 1, seen := false, valid := false, missed } }
  if 3 ≤ missed then .next (s.startRecovery false) else .next s

/-- LOCKSTEP_MISMATCH (R404, R504): the pair runs, so its clock is not stopped. -/
def execLockstepMismatch (s : State) : Result :=
  if s.env.suppliesUp && !s.env.perstLow && !s.frozen then .next (s.startRecovery false) else .next s

/-! ## Re-launch (R505–R507) -/

/-- The re-launch stands at a step, and its clocks run (R513). -/
def State.relaunchAt (s : State) (step : Nat) : Bool :=
  s.lighthouse.state = .relaunching && s.lighthouse.step = step && !s.frozen

/-- RELAUNCH_SELF_TEST_DONE: PASSED, and the pair, or a loss. -/
def execRelaunchSelfTestDone (passed : BitVec 3) (s : State) : Result :=
  if !s.relaunchAt 0 then .next s
  else
    let count := (List.finRange 3).countP fun c => passed.getLsbD c.val
    if count < 2 then .next ({ s with lighthouse := { s.lighthouse with passed } }.loseDevice 0x4006)
    else
      let s := s.formPair passed
      .next { s with lighthouse := { s.lighthouse with step := 1 } }

/-- RELAUNCH_DIGEST_DONE: a boot hold with an uncorrectable error never matches (R317). -/
def execRelaunchDigestDone (misread : List (Nat × Byte)) (s : State) : Result :=
  if !s.relaunchAt 1 then .next s
  else if s.lighthouse.bootHoldError then .next (s.loseDevice 0x4013)
  else if s.digestMatches misread then .next { s with lighthouse := { s.lighthouse with step := 2 } }
  else .next (s.loseDevice 0x4006)

/-- Discard a queue's commands that have not started, but for the wait it is held at (R506). -/
def State.discardSampled (s : State) (q : QueueId) : State :=
  let gone (f : Flight) : Bool := f.q = q && State.unstarted f && f.phase ≠ .waiting
  match s.flights.find? gone with
  | none => s
  | some first => { s with flights := s.flights.filter fun f => !gone f }.setHead q first.idx

/-- Every session abandons its frame and codes a key frame next (R506). -/
def State.abandonFrames (s : State) : State :=
  (List.finRange 32).foldl (fun s n =>
    if !s.sessions[n].active then s else
    let s := s.abandonFrame n
    s.updSession n fun x => match x.desc with
      | some d => if d.unit = 2 then { x with skipToAccess := true } else { x with keyOwed := true }
      | none => x) s

/-- RELAUNCH_COMPLETE (R505, R506): commands that executed fail, a FENCE before what it waits for (log entry
147); what had not started is discarded, 0x4001 is recorded once and the fence is released. -/
def execRelaunchComplete (s : State) : Result :=
  if !s.relaunchAt 2 then .next s else
  let waits (f : Flight) : Bool := match f.entry.op with
    | .fence _ => true
    | _ => false
  let s := (s.flights.filter waits ++ s.flights.filter fun f => !waits f).foldl (fun s (f : Flight) =>
    if f.phase = .executing || f.phase = .lightering then s.failQuiet f.q f.idx 0x4001
    else if f.phase = .restoring then
      (s.releaseUnits f.q f.idx).updFlight f.q f.idx fun x => { x with
        phase := .suspended, phaseFrom := s.now, run := { x.run with quays := [] } }
    else s) s
  let s := (List.finRange 256).foldl (fun s q =>
    (s.discardSampled q).updQueue q ({ · with fetching := 0 })) s
  let s := s.abandonFrames.interruptRequest
  let s := s.note 0x4001 .contained 0
  let s := { s with
    quays := s.quays.map fun (y : Quay) => { y with recoveryFence := false }
    ready := { s.ready with ready := decide (s.fwif.state = FwState.ready) }
    heart := { s.heart with
      window := s.now.toNat / State.msTicks + 1, seen := false, valid := false, missed := 0
      started := false }
    lighthouse := { s.lighthouse with
      state := .normal, relaunches := satInc s.lighthouse.relaunches, completedAt := some s.now
      bootHoldError := false } }
  let s := s.wakeAll.settle
  let s := if s.ready.ready && s.manifest.held then s.startLoad else s
  .next s.releaseHeld

/-! ## Arbitration faults (R494) -/

/-- QUAY_ARBITRATION_FAULT: the command of the waiting request fails; the event counts at the arbiter. -/
def execQuayArbitrationFault (q : QuayId) (at_ : QuayArb) (cq : QueueId) (idx : Word) (s : State) : Result :=
  if !s.fwUp then .next s else
  match s.flight? cq idx with
  | none => .next s
  | some f =>
    if !(f.run.quays.contains q) || f.ended || f.phase = .suspended then .next s else
    let berth : Byte := match at_ with
      | .storePort => 0xFF
      | .tileHandshake b => BitVec.ofNat 8 b.val
    let e := { s.commandEvent f 0x3006 .contained 0 with
      level := 2, quay := BitVec.ofNat 8 q.val, berth, counted := true }
    .next (((s.report e).countRepair (.arbiter q) 1 0x3006).failQuiet cq idx 0x3006)

/-- DEVICE_ARBITRATION_FAULT. -/
def execDeviceArbitrationFault (s : State) : Result :=
  if s.alive && !s.frozen then .next (s.loseDevice 0x4003) else .next s

/-! ## Self-repair (R498–R502) -/

/-- LOCALISING_TILE (R499): a mismatch names the cell and lane column; none clears the count. -/
def execLocalisingTile (q : QuayId) (b : BerthId) (column : Fin 64) (mismatch : Option CellId) (s : State) :
    Result :=
  let key := (q, b, column)
  if !s.fwUp || !(s.faults.localising.contains key) || !(s.berthQuiet q b) then .next s else
  let f := s.faults
  let s := { s with faults := { f with
    localising := f.localising.filter (· ≠ key)
    columnCounts := f.columnCounts.filter fun c => c.1 ≠ key } }
  match mismatch with
  | none => .next s
  | some c => .next (s.decideRepair (.column q b c (Fin.ofNat 16 column.val)) 0x1001)

/-- A repair in force is to be saved, or cannot be (R501). -/
def State.saveMap (s : State) : State :=
  if s.vouched && !s.boot.debugOpen then { s with faults := { s.faults with writing := true } }
  else
    let first := !s.faults.logged4005
    let s := { s with faults := { s.faults with notSaved := true, logged4005 := true } }
    if first then s.note 0x4005 .information 0 else s

/-- REPAIR_APPLY (R171, R500, R513): at the quiet point, and not while a Manifest is loaded; a Quay reset that waited for
it goes on. -/
def execRepairApply (loc : RepairLoc) (s : State) : Result :=
  match s.faults.pending.find? fun p => p.1 = loc with
  | none => .next s
  | some p =>
    if !s.fwUp || !(s.repairMayApply loc) then .next s else
    let f := s.faults
    let s := { s with faults := { f with
      pending := f.pending.filter fun x => x.1 ≠ loc, made := satInc f.made } }
    let s := (s.substitute loc p.2.1 true).saveMap
    match quayOf loc with
    | some q => .next (s.releaseQuayReset q)
    | none => .next s

/-- REPAIR_QUIET_TIMEOUT (R500): 50 ms after the decision the commands that keep the quiet point away are pre-empted. -/
def execRepairQuietTimeout (loc : RepairLoc) (s : State) : Result :=
  match s.faults.pending.find? fun p => p.1 = loc with
  | none => .next s
  | some p =>
    if !s.fwUp || s.locQuiet loc then .next s else
    match quayOf loc with
    | none => .next s
    | some q =>
      let s := s.advanceTo (p.2.2 + BitVec.ofNat 64 (50 * State.msTicks))
      .next (s.flights.foldl (fun s (f : Flight) =>
        if f.run.quays.contains q && (f.phase = .executing || f.phase = .restoring) then
          s.preemptFlight f false false else s) s).settle

/-- The locations of a list that another does not hold as often. -/
def beyond (stored : List RepairLoc) (l : List RepairLoc) : List RepairLoc :=
  stored.foldl (fun rest loc => rest.erase loc) l

/-- REPAIR_MAP_WRITE_DONE (R501): the merged map is committed; a stored location is never unmarked, and one that has
failed again stands in it again. -/
def execRepairMapWriteDone (s : State) : Result :=
  if !s.fwUp || !s.faults.writing then .next s else
  let stored := s.secure.repairMap
  let added := beyond stored s.faults.bad
  .next { s with
    secure := { s.secure with repairMap := stored ++ added }.written .repairMap
    faults := { s.faults with writing := false } }

end Sys2Proof.Machine
end

