-- ==== Sys2Proof/Machine/PowerCmds.lean ====
section
/-! DEFINITION. The power budget, droop and AVSBus, sag shedding and the thermal trip (R46–R49,
R473–R488). -/

namespace Sys2Proof.Machine

/-- Supplies are up and power-on reset is released. -/
def State.powered (s : State) : Bool := s.env.suppliesUp && !s.env.por && !s.env.perstLow

/-! ## The budget -/

/-- Ticks in `n` microseconds (R441). -/
def usTicks (n : Nat) : Nat := 250 * n

/-- An estimate is formed (R474); what is older than the longest window is dropped. -/
def execPowerEstimate (milliwatts : Nat) (s : State) : Result :=
  if !s.powered || s.lost || s.frozen then .next s else
  let kept := s.power.history.filter fun h => s.now.toNat < h.1.toNat + 60000 * State.msTicks
  .next { s with power := { s.power with history := kept ++ [(s.now, milliwatts)] } }

/-- The estimates of the last W seconds (R474). -/
def State.inWindow (s : State) : List Nat :=
  (s.power.history.filter fun h =>
    s.now.toNat < h.1.toNat + s.power.window.toNat * 1000 * State.msTicks).map (·.2)

/-- The issue fraction after a comparison (R474): the average of `hs` against B in milliwatts. -/
def nextFraction (n budget : Nat) (hs : List Nat) : Nat :=
  if hs.isEmpty then n
  else if budget * hs.length < hs.sum then max (n - 1) 8
  else if hs.sum * 100 < 95 * (budget * hs.length) then min (n + 1) 64
  else n

/-- A comparison falls due (R474). -/
def execBudgetCompare (s : State) : Result :=
  if !s.powered || s.lost || s.frozen then .next s else
  .next { s with power := { s.power with
    fraction := nextFraction s.power.fraction (s.power.budget.toNat * 250) s.inWindow } }

/-! ## Droop and AVSBus -/

/-- The part has the island and powers it (R1, R19): the Quays that it does not enable have no clock to stretch. -/
def State.hasIsland (s : State) : Island → Bool
  | .berth q _ | .quay q => s.quayEnabled q
  | .pipe _ | .codec _ | .deck | .memory | .harbourmaster | .hostIf | .lighthouse => true

/-- A detector stretches its island's clock (R479). -/
def execDroopDetect (island : Island) (s : State) : Result :=
  if !s.powered || !s.hasIsland island then .next s else
  .next { s with env := { s.env with
    stretched := island :: s.env.stretched.filter fun (i : Island) => i != island } }

/-- A stretch is released: with the last one a setpoint change that waited goes out (R48, R479). -/
def execDroopRelease (island : Island) (s : State) : Result :=
  .next { s with env := { s.env with
    stretched := s.env.stretched.filter fun (i : Island) => i != island } }.avsKick

/-- The device changes its setpoint, within the range and step of R46 (R48); none after AVSBus failed (R49). -/
def execAvsSetpointChange (mv : Nat) (s : State) : Result :=
  if s.powered && 550 ≤ mv && mv ≤ 800 && mv % 5 = 0 then .next (s.avsIssue (.voltageWrite mv))
  else .next s

/-- The status poll falls due (R46): 1 ms after the one before, which the Tide is carried to once it runs (log
entry 11). -/
def execAvsStatusPoll (s : State) : Result :=
  if !s.powered || s.env.avs.stopped then .next s else
  let s := match s.tide.locked, s.env.avs.polled with
    | true, some t => s.advanceTo (t + BitVec.ofNat 64 State.msTicks)
    | _, _ => s
  let s := { s with env := { s.env with avs := { s.env.avs with polled := some s.now } } }
  .next (s.avsIssue .status)

/-- Is a read-back more than 3 % away from the setpoint (R49)? -/
def voltageOff (setpoint mv : Nat) : Bool :=
  3 * setpoint < 100 * (mv - setpoint) || 3 * setpoint < 100 * (setpoint - mv)

/-- An answer is a valid response to a command: a read is answered by a voltage, the others are acknowledged. -/
def avsAnswers : AvsCmd → AvsAnswer → Bool
  | .voltageRead, .voltage _ => true
  | .voltageWrite _, .ack | .transRate _, .ack | .status, .ack => true
  | _, _ => false

/-- The command on the bus is done, and what waits goes out (R46). -/
def State.avsNext (s : State) (queue : List (AvsCmd × Nat)) : State :=
  (s.setAvs { s.env.avs with queue, sent := false }).avsKick

/-- AVSBus is used no more until the next cold start or host reset, but for `last` (R49). -/
def State.avsStop (s : State) (setpoint : Nat) (last : List (AvsCmd × Nat)) : State :=
  s.setAvs { s.env.avs with setpoint, stopped := true, queue := last, sent := false }

/-- The command on AVSBus is answered, or gets no valid response (R49): two retries, then 0xC101. A confirmed
setpoint is read back at once (log entry 101); one more than 3 % off brings 0xC102 and 0.75 V, the last that is
commanded. The Lighthouse's write of R47 is answered while PERST_N is low. -/
def execAvsResponse (answer : AvsAnswer) (s : State) : Result :=
  let a := s.env.avs
  match a.queue with
  | [] => .next s
  | (c, failures) :: rest =>
    if !s.env.suppliesUp || !a.sent then .next s
    else if !avsAnswers c answer then
      if failures < 2 then .next (s.avsNext ((c, failures + 1) :: rest))
      else .next ((s.avsStop a.confirmed []).note 0xC101 .corrected 0)
    else match c, answer with
      | .voltageWrite mv, _ =>
        .next ((s.setAvs { a with confirmed := mv }).avsNext
          (if a.stopped then [] else (.voltageRead, 0) :: rest))
      | .voltageRead, .voltage mv =>
        if voltageOff a.setpoint mv then
          .next ((s.avsStop a.setpoint [(.voltageWrite 750, 0)]).note 0xC102 .corrected 0).avsKick
        else .next (s.avsNext rest)
      | _, _ => .next (s.avsNext rest)

/-! ## Sag and shedding -/

/-- DETAIL of a step: the sagging rails (R481; log entry 20). -/
def State.railDetail (s : State) : Nat := (Config.railDetail s.power.sagCore s.power.sagIo).toNat

/-- A rail sags. -/
def State.markSag (s : State) (rail : Rail) : State :=
  match rail with
  | .core => { s with power := { s.power with sagCore := true } }
  | .io => { s with power := { s.power with sagIo := true } }

/-- Contexts shed now lose their Quays and pause their copies; commands whose contexts are no longer
shed go on (R481, R483). -/
def State.reshed (s : State) : State :=
  let s := s.flights.foldl (fun s (f : Flight) =>
    if s.ctxShed f.entry.ctx then s.preemptFlight f false true else s) s
  s.resumeFlights (fun f => f.shedSuspended && !s.ctxShed f.entry.ctx)
    fun f => { f with shedSuspended := false }

/-- Frames of streams that are shed stop, without a record (R357, R481). -/
def State.stopShedFrames (s : State) : State :=
  (List.finRange 24).foldl (fun s i =>
    if !s.sctxShed i then s else
    s.updStream i fun x => { x with
      historyValid := false
      frame := x.frame.map fun (f : Frame) => { f with ended := true, dropped := true }
      unwritten := x.unwritten.map fun (f : Frame) => { f with dropped := true } }) s

/-- What a step sheds when it is entered (R481). -/
def State.shedEffect (s : State) (step : Nat) : State :=
  match step with
  | 1 => s.setShed 2 true
  | 2 => (s.setShed 0 true).setShed 1 true
  | 3 => s.reshed
  | 4 => { s with deckReduced := true }.stopShedFrames
  | 5 => s.reshed.stopShedFrames
  | _ => s

/-- Enter one of steps 1 to 5 (R481, R488). -/
def State.enterStep (s : State) (step : Nat) : State :=
  let s := { s with power := { s.power with step, stepAt := s.now, returning := false } }
  let s := s.shedEffect step
  (s.note (BitVec.ofNat 16 (0xC000 + step)) .contained s.railDetail).haltUpdate.ltrUpdate

/-- Enter step 6: clocks stop with state held, memory goes into retention (R481). -/
def State.enterStep6 (s : State) : State :=
  { s with
    power := { s.power with
      step := 6, stepAt := s.now, returning := false, step6From := s.now
      heldCount := satInc s.power.heldCount }
    memctl := { s.memctl with retention := true }
    env := { s.env with faultN := true } }

/-- A rail's voltage is below a limit of R480: the sag limit, or the hold limit. VDD_CORE's follow the commanded
setpoint (R48). -/
def State.belowSag (s : State) (rail : Rail) (mv : Nat) : Bool :=
  match rail with
  | .core => 100 * mv < 94 * s.env.avs.setpoint
  | .io => mv < 1680
def State.belowHold (s : State) (rail : Rail) (mv : Nat) : Bool :=
  match rail with
  | .core => 100 * mv < 90 * s.env.avs.setpoint
  | .io => mv < 1620

/-- Every rail that sags is above its recovery level (R480). -/
def State.railsRecovered (s : State) (core io : Nat) : Bool :=
  (!s.power.sagCore || 96 * s.env.avs.setpoint < 100 * core) && (!s.power.sagIo || 1720 < io)

/-- A rail has stayed below its sag limit for 10 µs (R480, R481): step 1, or a return that ends. Before
RUNNING only step 6 applies (R486). -/
def execSagEstablished (rail : Rail) (mv : Nat) (s : State) : Result :=
  if !s.powered || !s.belowSag rail mv then .next s else
  let s := s.markSag rail
  let s := { s with power := { s.power with sags := satInc s.power.sags } }
  if s.lost || !s.running then .next s
  else if s.power.step = 0 then .next (s.enterStep 1)
  else if s.power.returning then
    .next { s with power := { s.power with returning := false, stepAt := s.now } }
  else .next s

/-- The step in force has held for 100 µs with a rail still sagging (R481). -/
def execShedStep (s : State) : Result :=
  let p := s.power
  if s.powered && !s.lost && s.running && (p.sagCore || p.sagIo) && !p.returning &&
      1 ≤ p.step && p.step ≤ 5 then
    let s := s.advanceTo (p.stepAt + BitVec.ofNat 64 (usTicks 100))
    if p.step = 5 then .next s.enterStep6 else .next (s.enterStep (p.step + 1))
  else .next s

/-- A rail stays below its hold limit for 1 µs: step 6 at once (R481). -/
def execHoldLimitFall (rail : Rail) (mv : Nat) (s : State) : Result :=
  if !s.powered || !s.belowHold rail mv then .next s else
  let s := s.markSag rail
  if s.lost || s.frozen then .next s else .next s.enterStep6

/-- Step 6 is held for 100 ms, or VDD_CORE is below 0.50 V (R482). -/
def execStep6Timeout (elapsed : Bool) (mv : Nat) (s : State) : Result :=
  if !(s.powered && s.frozen && !s.lost) || (!elapsed && 500 ≤ mv) then .next s else
  let s := if elapsed then s.advanceTo (s.power.step6From + BitVec.ofNat 64 (100 * State.msTicks)) else s
  .next (s.loseDevice 0xC006)

/-- Record an event that shedding step 6 held, with the Tide count at which it came (R413, R482, R492). -/
def State.recordStopped (s : State) (e : Event) : State :=
  let s := if s.fwif.log.en then s.logPut e true else s.logEvent e
  let s := if e.severity = .information then s else
    let s := s.countFault e.severity
    if s.faults.active then s.faultPut e true else s.faultEvent e
  s.sendAreaMsix e.reason

/-- The entry of step 6, written when the clocks restart (R482): buffered, with the Tide of its entry, and before those
of the events that came during the step (R413). -/
def State.recordStep6 (s : State) : State :=
  if s.lost then s else
  let e : Event := { reason := 0xC006, severity := .contained, tide := s.power.step6From
                     detail := BitVec.ofNat 64 s.railDetail }
  let held := s.fwif.stopped
  (e :: held).foldl State.recordStopped { s with fwif := { s.fwif with stopped := [] } }

/-- The clocks restart (R483, R486): what step 6 held goes on, with steps 1 to 5 in force. Before RUNNING
no other step applies. -/
def State.leaveStep6 (s : State) : State :=
  let step := if s.running then 5 else 0
  let s := { s with power := { s.power with step, stepAt := s.now } }
  let s := if s.lost then s else { s with env := { s.env with faultN := s.boot.stage = .halted } }
  let s := if s.lost || s.env.power ≠ .d0 then s else s.endRetention
  let s := if step = 5 then [1, 2, 3, 4, 5].foldl State.shedEffect s else s
  let s := if s.lighthouse.state = .normal then s.wakeAll else s
  s.releaseHeldReset

/-- Return from step `n` (R483). `rails` is the DETAIL of the entry of step 6. -/
def State.returnStep (s : State) (n : Nat) : State :=
  let s := match n with
    | 6 => s.leaveStep6
    | _ => { s with power := { s.power with step := n - 1, stepAt := s.now } }
  let s := match n with
    | 1 => s.setShed 2 false
    | 2 => (s.setShed 0 false).setShed 1 false
    | 3 | 5 => s.reshed
    | 4 => { s with deckReduced := false }
    | _ => s
  let s := { s with power := { s.power with returning := s.power.step ≠ 0 } }
  (s.note (BitVec.ofNat 16 (0xC010 + n)) .information 0).settle

/-- Every sagging rail has stayed above its recovery level for 1 ms (R480, R483): the step in force
returns, and the others follow at 1 ms each. -/
def execSagRecovered (core io : Nat) (s : State) : Result :=
  if !(s.powered && (s.power.sagCore || s.power.sagIo)) || !s.railsRecovered core io then .next s else
  let s := if s.frozen then s.recordStep6 else s
  let s := { s with power := { s.power with sagCore := false, sagIo := false } }
  if s.power.step = 0 then .next s else .next (s.returnStep s.power.step)

/-- The next step returns 1 ms after the one before it (R483). -/
def execShedReturn (s : State) : Result :=
  let p := s.power
  if s.powered && p.returning && 1 ≤ p.step && p.step ≤ 5 then
    .next ((s.advanceTo (p.stepAt + BitVec.ofNat 64 (usTicks 1000))).returnStep p.step)
  else .next s

/-! ## Thermal trip -/

/-- The trip temperature in °C (R485). -/
def tripAt (p : Part) : Int := if p = .ojq8_32i then 115 else 110

/-- The trip (R485, R486, R513): the device is lost with cause 0xC020, whatever else it was doing. -/
def execThermalTrip (reading : Int) (s : State) : Result :=
  if !s.powered || reading < tripAt s.part then .next s else
  let s := s.loseDevice 0xC020
  .next { s with
    lighthouse := { s.lighthouse with cause := 0xC020 }
    env := { s.env with thermalHold := true } }

end Sys2Proof.Machine
end

