-- ==== Sys2Proof/Machine/RecordCmds.lean ====
section
/-! DEFINITION. Record and replay (R459–R471). -/

namespace Sys2Proof.Machine

namespace State

/-! ## RECORD_CTRL -/

/-- MANIFEST_ID: the identity in force, 0 when none is (R175). -/
def manifestId (s : State) : BitVec 64 := match s.manifest.device with
  | some d => d.ident
  | none => 0

/-- The START entry (R460). -/
def recordStart (s : State) : State :=
  let r := s.recorder
  let wins := r.windows.toList.flatMap fun w =>
    leBytes 4 (w.1.toNat % 2 ^ 32) ++ leBytes 4 (w.1.toNat / 2 ^ 32) ++ leBytes 4 w.2.toNat
  let body := leBytes 8 s.manifestId.toNat ++ leBytes 4 r.sctx.toNat ++ wins
  s.record 0x01 (if r.pos then 1 else 0) (leBytes 4 s.identBid ++ leBytes 4 (s.part.code.toNat))
    (body ++ List.replicate (64 - body.length) 0)

/-- EN is set (R409, R471, R518): the ring is checked; capture begins with START, and each stream's at its
next frame start (R462); or replay begins. -/
def enableRecorder (s : State) : State :=
  let r := s.recorder
  if !(s.fwif.feat.getLsbD 4) then s.note 0x5002 .information 0
  else if r.en then s
  else if !(s.ringFits r.base.toNat r.sizeLog2.toNat 1) then s.refuseRing 0xA_0010
  else
    let s := { s with
      recorder := { r with
        en := true, active := true, checkpoint := false, reason := 0, ended := false, stopped := false
        gap := false, waiting := false, lost := 0, lostRun := 0, diverge := 0, seq := 0, seqSet := false
        decisions := [] }
      streams := s.streams.map fun (x : Stream) => { x with captured := false } }
    s.recordStart

/-- EN is cleared (R464): in record mode an END entry is written. -/
def disableRecorder (s : State) : State :=
  if !s.recorder.en then s else
  let s := s.record 0x11 0 [] []
  { s with recorder := { s.recorder with
    en := false, active := false, waiting := false, checkpoint := false, seqSet := false, decisions := [] } }

/-- CHECKPOINT is written 1 (R464, R471): ignored in replay (R469) and while nothing is recorded. -/
def askCheckpoint (s : State) : State :=
  if s.recorder.en && !s.recorder.mode then { s with recorder := { s.recorder with checkpoint := true } }
  else s

/-- A write of RECORD_CTRL (R471): DECIDE, POS and MODE are locked while EN is 1. -/
def writeRecordCtrl (s : State) (v : Nat) : State :=
  let bit (i : Nat) : Bool := v / 2 ^ i % 2 = 1
  let s := if s.recorder.en then s
    else { s with recorder := { s.recorder with decide := bit 3, pos := bit 2, mode := bit 1 } }
  let s := if bit 0 then s.enableRecorder else s.disableRecorder
  if bit 4 then s.askCheckpoint else s

/-! ## Checkpoints -/

/-- A DISPATCH with adaptive tensors is in flight (R464). -/
def adaptiveBusy (s : State) : Bool :=
  s.flights.any fun (f : Flight) => match f.run.cargo with
    | some c => !c.adaptive.isEmpty
    | none => false

/-- A context's class 2 table (R263). -/
def adaptTable (x : Ctx) : List Byte :=
  leBytes 4 0x5341_4A4F ++ leBytes 2 1 ++ leBytes 2 x.adaptive.length ++
  leBytes 4 (if x.freezeAll then 1 else 0) ++ leBytes 4 0 ++ x.adaptive.flatMap adaptBytes

/-- STATE entries for every context that has adaptive state (R464). -/
def recordStates (s : State) : State :=
  (List.finRange 256).foldl (fun s c =>
    if s.ctxs[c].adaptive.isEmpty then s
    else s.record 0x0C 0 [BitVec.ofNat 8 c.val] (adaptTable s.ctxs[c])) s

/-! ## Applying entries -/

/-- An entry of the log as replay reads it (R459): its header, and where its payload lies. -/
structure LogEntry where
  kind : Nat
  flags : Nat
  length : Nat
  seq : BitVec 64
  tide : Tick
  arg : Nat → Nat → Nat
  payload : Nat

/-- Read the entry at a unit. -/
def logEntry (s : State) (unit : Nat) : LogEntry :=
  let at_ := s.replayUnit unit
  { kind := s.mem.field at_ 1
    flags := s.mem.field (at_ + 1) 1 % 128
    length := s.mem.field (at_ + 4) 4
    seq := BitVec.ofNat 64 (s.mem.field (at_ + 8) 8)
    tide := BitVec.ofNat 64 (s.mem.field (at_ + 0x10) 8)
    arg := fun off n => s.mem.field (at_ + 0x18 + off) n
    payload := at_ + 0x20 }

/-- Payload bytes an entry of a kind has at least (R460). -/
def leastPayload (e : LogEntry) : Nat :=
  match e.kind with
  | 0x01 | 0x02 => 64
  | 0x03 => if e.arg 0 2 = 0xFFFF then 4 else 0
  | 0x04 => 64
  | 0x07 => 16
  | 0x0B => 8 + e.arg 0 4
  | 0x0C => 32
  | _ => 0

/-- Are an entry's header and arguments values that record mode writes (R459, R460)? -/
def entryOk (s : State) (e : LogEntry) (at_ : Nat) : Bool :=
  1 ≤ e.kind && e.kind ≤ 0x11 && s.mem.field (at_ + 2) 2 = 0 && 32 + leastPayload e ≤ e.length &&
  match e.kind with
  | 0x03 => if e.arg 0 2 = 0xFFFF then true else e.arg 0 2 < 1024 && e.arg 2 1 ≤ 1
  | 0x04 => e.arg 0 1 < 24 && e.arg 1 1 ≤ 1
  | 0x09 => e.arg 0 1 < 24 || (32 ≤ e.arg 0 1 && e.arg 0 1 < 64)
  | 0x0A => e.arg 0 1 < 24 && e.arg 1 1 ≤ 1
  | 0x06 => s.decisionCodeOk at_
  | 0x0B => e.arg 0 4 ≤ 4096
  | _ => true

/-- Does queue index `j` come behind `i`? Indices wrap at 2^32, and a ring holds far fewer (R133, R142). -/
def behind (i j : Word) : Bool := i ≠ j && (j - i).toNat < 2 ^ 31

/-- Every command has completed, waits at a FLAG_WAIT, or stands behind such a wait (R466). -/
def quietFor (s : State) : Bool :=
  s.flights.all fun (f : Flight) => f.ended || f.phase = .waiting ||
    s.flights.any fun (g : Flight) => g.q = f.q && g.phase == Phase.waiting && behind g.idx f.idx

/-- Replay stops (R468). -/
def stopReplay (s : State) : State :=
  { s with recorder := { s.recorder with stopped := true, reason := 0x4041, waiting := false } }.note
    0x4041 .contained 0

/-- The apply point moves past an entry. -/
def passEntry (s : State) (e : LogEntry) : State :=
  { s with recorder := { s.recorder with
    devIndex := s.recorder.devIndex + BitVec.ofNat 32 (e.length / 64)
    seq := e.seq + 1, seqSet := true, waiting := false } }

/-- A COMMAND entry (R465): the command goes into slot i of its queue, TAIL moves, and it is sampled. What it
carries stands for what it would read. `none`: its queue has no room for it yet (R145). -/
def applyCommand (s : State) (e : LogEntry) : Option State :=
  let q : QueueId := Fin.ofNat 256 (e.arg 0 1)
  let idx : Word := BitVec.ofNat 32 (e.arg 4 4)
  let x := s.queues[q]
  if !x.active || x.stopped then some s.diverge
  else if 64 ≤ s.inFlight q then none
  else
    let bytes := s.mem.reads e.payload 64
    let carried := s.mem.reads (e.payload + 64) (e.length - 96)
    let s := if idx = x.head then s else (s.setHead q idx).diverge
    let s := s.deviceWrite (x.hdr.ring + 64 * (idx.toNat % 2 ^ x.hdr.ringLog2)) bytes false
    let s := s.putHeaderWord q 0x10 (idx + 1)
    let s := { s with recorder := { s.recorder with
      decisions := s.recorder.decisions.filter fun (d : Decision) => d.q ≠ q.val || d.idx ≠ idx.toNat } }
    some ((s.sample q bytes).updFlight q idx fun f => { f with
      carried, raw := bytes, recordedAt := some e.tide })

/-- A HOST_FLAG entry: a flag, QTABLE_QnCTRL or CTX_nCTRL (R460, R465). -/
def applyHostWrite (s : State) (e : LogEntry) : State :=
  if e.arg 0 2 ≠ 0xFFFF then
    s.applyHostFlag (Fin.ofNat 1024 (e.arg 0 2)) (e.arg 2 1 = 1) (BitVec.ofNat 32 (e.arg 4 4))
  else
    let off := e.arg 4 4
    let v := s.mem.field e.payload 4
    if 0x2_0000 ≤ off && off < 0x2_1000 && off % 0x10 = 8 then
      s.applyQueueCtrl (Fin.ofNat 256 (off % 0x1_0000 / 0x10)) v
    else if 0x3_0000 ≤ off && off < 0x3_2000 && off % 0x20 = 8 then
      s.applyCtxCtrl (Fin.ofNat 256 (off % 0x1_0000 / 0x20)) v
    else s.diverge

/-- Does replay apply the frames of a stream context (R462, R471)? -/
def replaysStream (s : State) (i : SctxId) : Bool := s.recorder.sctx.getLsbD i.val

/-- The input lines of a recorded frame (R460): of the first exposure as many as its record says, of a further one as many
as the frame is high; a line of a blanked frame is blanked where it has nothing but blank values (log entry 110). -/
def recordedLines (d : StreamDef) (blanked : Bool) (step first : Nat) (bytes : List Byte) : List InLine :=
  (List.range (bytes.length / step)).map fun k =>
    let b := (bytes.drop (k * step)).take (lineBytes d)
    ⟨if k < first || d.exposures = 1 then 0 else 1 + (k - first) / d.height, b, blanked && b.all (· = 0)⟩

/-- Bytes from one line to the next of a recorded frame (R460): a line is padded to 64 bytes, and lines of another length
than the stream's show in the length of a frame of one exposure. -/
def recordedPitch (d : StreamDef) (lines length : Nat) : Nat :=
  let step := roundUp (lineBytes d) 64
  if d.exposures = 1 && lines ≠ 0 && length % lines = 0 && length / lines ≠ step && (length / lines) % 64 = 0 &&
    length ≠ 0 then length / lines else max step 64

/-- The exposures of a recorded frame, by the lines that came of each. -/
def recordedExpo (d : StreamDef) (lines : List InLine) : Vector Exposure 3 :=
  .ofFn fun e => if e.val < d.exposures then
    { begun := true, done := true, lines := lines.countP fun l => l.expo = e.val } else {}

/-- A frame taken from a recorded frame record (R362): its stamps, flags and causes. -/
def recordedFrame (s : State) (at_ : Nat) (d : StreamDef) (b : Option Binding) : Frame :=
  let f := fun off n => s.mem.field (at_ + off) n
  let port := f 0x05 1
  { start := BitVec.ofNat 64 (f 0x08 8)
    endAt := BitVec.ofNat 64 (f 0x10 8)
    csiFrame := BitVec.ofNat 16 (f 0x1C 2)
    source := if port = 0xFF then none else some (port, f 0x06 1)
    expo := #v[{ begun := true, done := true, lines := f 0x1E 2 }, {}, {}]
    torn := BitVec.ofNat 8 (f 0x22 1)
    blankFrom := if f 0x07 1 / 2 % 2 = 1 then some (BitVec.ofNat 16 (f 0x20 2)) else none
    historyReset := f 0x07 1 / 16 % 2 = 1
    ended := true
    defn := d
    binding := b }

/-- A FRAME entry at port position (R465): the stream's frame starts, with what waited for it, and ends as it
was recorded; the pipe then writes it. -/
def applyPortFrame (s : State) (i : SctxId) (at_ length : Nat) : State :=
  if (s.definedAs i).isNone then s.diverge else
  let s := match s.streams[i].frame with
    | some f => if f.ended then s else (s.tear i 3).endFrame i false
    | none => s
  let start : Tick := BitVec.ofNat 64 (s.mem.field (at_ + 0x08) 8)
  let s := (s.beginFrame i (BitVec.ofNat 16 (s.mem.field (at_ + 0x1C) 2)) (some start)).checkSources i
  let s := { s with blanks := s.blanks.set i.val s.blanks[i].settle }
  let s := s.updStream i fun x => { x with frame := x.frame.map fun (f : Frame) =>
    let r := s.recordedFrame at_ f.defn f.binding
    let fresh := f.historyReset || r.historyReset
    let first := (r.expo[0]).lines
    let received := recordedLines f.defn r.blankFrom.isSome (recordedPitch f.defn first (length - 96)) first
      (s.mem.reads (at_ + 64) (length - 96))
    { r with
      historyReset := fresh, dropped := f.dropped, defs := f.defs, tables := f.tables, tableCount := f.tableCount
      past := if fresh then [] else f.past
      expo := recordedExpo f.defn received, received } }
  let s := s.updStream i fun x => match x.frame with
    | some f => { x with past := f.past ++ [f.input] }
    | none => x
  let s := s.trace 97 i.val s.streams[i].frames.toNat
  match s.streams[i].frame with
  | some f => if f.torn ≠ 0 then s.countTorn i false else s
  | none => s

/-- A FRAME entry at pipe position (R465): written straight to buffer FRAME mod BUF_COUNT, tail included. -/
def applyPipeFrame (s : State) (i : SctxId) (no : Word) (at_ : Nat) (length : Nat) : State :=
  match s.definedAs i, s.streams[i].binding with
  | some d, some b =>
    let buf := b.va.toNat + no.toNat % b.count * b.stride.toNat
    let tail := b.tail buf
    let size := defSize d
    if length < 32 + size + 0x1_0000 then s.stopReplay else
    let ws := [(buf, s.mem.reads (at_ + 64) size),
      (tail + 0x40, s.mem.reads (at_ + 64 + size) 0xFFC0), (tail, s.mem.reads at_ 64)]
    match s.writesFault b.ctx ws with
    | some e => s.faultBinding i b e
    | none =>
      let s := ws.foldl (fun s w => writeVa s b.ctx w.1 w.2) s
      let s := s.updStream i ({ · with frames := no })
      (s.deliver i (s.recordedFrame at_ d (some b)) b no).ltrUpdate
  | _, _ => s.diverge

/-- A FEED entry (R465): a stream's frame, or a session's input. -/
def applyFeed (s : State) (e : LogEntry) : State :=
  let u := e.arg 0 1
  if u < 24 then
    let i : SctxId := Fin.ofNat 24 u
    if !s.replaysStream i then s
    else match s.definedAs i with
      | none => s.diverge
      | some d =>
        let s := s.startFrame i 0
        let lines := recordedLines d false (lineBytes d) d.height (s.mem.reads e.payload (lineBytes d * d.height))
        let s := s.onFrame i fun j f => { f with
          expo := updAt f.expo 0 fun (x : Exposure) => { x with done := true, lines := d.height }
          received := lines.map fun l => s.lineSeen j 0 l.bytes }
        s.endFrame i false
  else
    let n : SessId := Fin.ofNat 32 (u - 32)
    let x := s.sessions[n]
    match x.desc with
    | none => s.diverge
    | some d =>
      if !x.active || d.source = 1 then s.diverge else
      let image := s.mem.reads e.payload e.length
      let src : SrcFrame := { tideSrc := s.now, blankFrom := none, torn := false, buffer := e.payload
                              image := some image }
      if d.unit = 2 then s.updSession n (·.feedRead d image s.now)
      else s.updSession n fun x => { x with queue := x.queue ++ [src] }

/-- A WRITE entry (R465). -/
def applyWrite (s : State) (e : LogEntry) : State :=
  let a := s.mem.field e.payload 8
  let n := e.arg 0 4
  if s.inHostMemory a n then s.updMem fun m => m.store a (m.reads (e.payload + 8) n) else s

/-- A STATE entry (R464, R465): its table takes effect as a TABLE_LOAD's, and the home stays. -/
def applyState (s : State) (e : LogEntry) : State :=
  let c : CtxId := Fin.ofNat 256 (e.arg 0 1)
  let n := s.mem.field (e.payload + 6) 2
  let b := s.mem.reads e.payload (16 + 16 * n)
  if 32 + b.length ≤ e.length && adaptTableOk b then
    let home := s.ctxs[c].home
    (s.acceptAdapt c 0 b).updCtx c ({ · with home })
  else s.diverge

/-- A MANIFEST entry (R465): the load it records begins. `none`: a load is in progress, or the firmware is not
ready. -/
def applyManifest (s : State) (e : LogEntry) : Option State :=
  if s.manifest.enable || !s.ready.ready then none else
  let s := { s with manifest := { s.manifest with
    perQuay := e.arg 0 1 % 2 = 1, drain := false, quaysSel := BitVec.ofNat 8 (e.arg 1 1) } }
  let s := s.startLoad
  some { s with manifest := { s.manifest with load := s.manifest.load.map fun (l : Load) =>
    { l with fromLog := some (e.payload, e.length - 32, BitVec.ofNat 16 (e.arg 2 2)) } } }

/-- Does a decision match the command it names (R467)? -/
def decisionFits (d : Decision) (f : Flight) : Bool :=
  match d.kind, f.entry.op with
  | 0x05, _ => f.entry.predCmp ≠ 0
  | 0x06, .flagWait .. => true
  | 0x07, .dispatch .. | 0x08, .dispatch .. | 0x0E, .dispatch .. => true
  | _, _ => false

/-- The apply point passes a decision: it is kept for its command, and it reaches one that already waits or
runs (R467). With DECIDE = 1 it is ignored. -/
def applyDecision (s : State) (d : Decision) : State :=
  if s.recorder.decide then s else
  let s := { s with recorder := { s.recorder with decisions := s.recorder.decisions ++ [d] } }
  let q : QueueId := Fin.ofNat 256 d.q
  let idx : Word := BitVec.ofNat 32 d.idx
  match s.flight? q idx with
  | none => s
  | some f =>
    let s := if decisionFits d f then s else s.diverge
    match d.kind, f.entry.op with
    | 0x06, .flagWait .. => if f.phase = .waiting then s.fail q idx d.reason else s
    | 0x08, .dispatch .. =>
      if f.ended || f.fallbackRan || f.phase = .sampled || f.phase = .slotWait then s else s.abandon q idx
    | _, _ => s

/-- A START entry (R468). -/
def applyStart (s : State) (e : LogEntry) : State :=
  if e.arg 0 4 = s.identBid && s.mem.field e.payload 8 = s.manifestId.toNat then s
  else s.note 0x4043 .information 0

/-- The effect of an entry. `none`: it waits (R466). -/
def applyEntry (s : State) (unit : Nat) (e : LogEntry) : Option State :=
  let i : SctxId := Fin.ofNat 24 (e.arg 0 1)
  match e.kind with
  | 0x01 => some (s.applyStart e)
  | 0x02 => s.applyCommand e
  | 0x03 => some (s.applyHostWrite e)
  | 0x04 =>
    if !s.replaysStream i then some s
    else if !s.quietFor then none
    else if e.arg 1 1 = 0 then some (s.applyPortFrame i e.payload e.length)
    else some (s.applyPipeFrame i (BitVec.ofNat 32 (e.arg 4 4)) e.payload e.length)
  | 0x09 => if s.quietFor then some (s.applyFeed e) else none
  | 0x0A => some (if e.arg 1 1 = 1 then s.blank i (BitVec.ofNat 16 (e.arg 2 2)) [] else s.applyUnblank i)
  | 0x0B => if s.quietFor then some (s.applyWrite e) else none
  | 0x0C => some (s.applyState e)
  | 0x0D => s.applyManifest e
  | 0x11 => some { s with recorder := { s.recorder with ended := true } }
  | 0x0F => some s
  | _ => some (s.applyDecision (s.readDecision (s.replayUnit unit)))

end State

/-! ## Meanings -/

/-- RECORD_CTRL is written with EN = 1 (R471). -/
def execRecordEnable (ctrl : Word) (s : State) : Result :=
  let s := s.wakeSlack
  if s.answers then .next (s.writeRecordCtrl (ctrl.toNat / 2 * 2 + 1)) else .next s

/-- EN is cleared (R464). -/
def execRecordDisable (s : State) : Result :=
  let s := s.wakeSlack
  if s.answers then .next s.disableRecorder else .next s

/-- CHECKPOINT is written 1 (R464, R469). -/
def execRecordCheckpoint (s : State) : Result :=
  let s := s.wakeSlack
  if s.answers then .next s.askCheckpoint else .next s

/-- No DISPATCH with adaptive tensors is in flight (R464). -/
def execCheckpointStateWrite (s : State) : Result :=
  if s.fwUp && s.capturing && s.recorder.checkpoint && !s.adaptiveBusy then
    let s := s.recordStates
    .next { s with recorder := { s.recorder with checkpoint := false } }
  else .next s

/-- The next entry is applied in SEQ order, waited for, or stops the replay (R465–R468). -/
def execReplayEntryApply (s : State) : Result :=
  if !(s.fwUp && s.applying && s.env.power = .d0) then .next s else
  let r := s.recorder
  let wait : State := { s with recorder := { r with waiting := true } }
  let room := (r.hostIndex - r.devIndex).toNat
  let unit := r.devIndex.toNat
  let e := s.logEntry unit
  if room = 0 then .next wait
  else if e.length % 64 ≠ 0 || e.length < 64 || s.recUnits < unit % s.recUnits + e.length / 64 then
    .next s.stopReplay
  else if room < e.length / 64 then .next wait
  else if !(s.entryOk e (s.replayUnit unit)) || (r.seqSet && e.seq ≠ r.seq) || e.kind = 0x10 then
    .next s.stopReplay
  else match s.applyEntry unit e with
    | none => .next wait
    | some s' => if s'.recorder.stopped then .next s' else .next ((s'.passEntry e).settle)

end Sys2Proof.Machine
end

