-- ==== Sys2Proof/Machine/Registers.lean ====
section
/-! DEFINITION. What every BAR0 register reads as, block by block (R91–R94, R117–R122, R157, R158, R175,
R203, R327, R350, R378, R394, R418, R419, R439, R470, R471, R487, R514, R515). A read changes nothing
(R115); the one that latches is TIDE_COUNT_READ (R446). -/

namespace Sys2Proof.Machine

/-- A field of one bit, at its place. -/
def atBit (i : Nat) (b : Bool) : Nat := if b then 2 ^ i else 0

/-- One bit per unit. -/
def maskOf {n : Nat} (f : Fin n → Bool) : Nat :=
  ((List.finRange n).map fun i => atBit i.val (f i)).sum

/-- The low and the high word of a 64-bit quantity. -/
def loWord (v : Nat) : Nat := v % 2 ^ 32
def hiWord (v : Nat) : Nat := v / 2 ^ 32 % 2 ^ 32

/-- An address as its register pair shows it: bits below `align` read as zero. -/
def floorTo (align v : Nat) : Nat := v / align * align

namespace State

/-- IDENT (R120). -/
def readIdent (s : State) (o : Nat) : Nat :=
  match o with
  | 0x00 => s.part.code.toNat
  | 0x04 => 0xB0
  | 0x08 => s.identBid
  | 0x0C => 0x10E48FD3
  | 0x10 => s.part.quays.toNat + 0x100 * (s.part.memory / 2 ^ 30) +
      atBit 16 (s.part == .ojq8_32i)
  | 0x18 => loWord s.boot.serial.toNat
  | 0x1C => hiWord s.boot.serial.toNat
  | _ => 0

/-- BAR2's base as its registers show it (R122). -/
def bar2Shown (s : State) : Nat := floorTo (2 ^ s.hostif.bar2Log2) s.hostif.bar2Reg.toNat

/-- HOSTIF_OWINn (R122). -/
def readWindow (w : OutWindow) (o : Nat) : Nat :=
  let xlat := floorTo (2 ^ w.sizeLog2.toNat) w.xlat.toNat
  match o with
  | 0x0 => 0x100 * w.sizeLog2.toNat + atBit 2 w.noSnoop + atBit 1 w.peer + atBit 0 w.en
  | 0x4 => floorTo (2 ^ (w.sizeLog2.toNat - 16)) w.offset.toNat
  | 0x8 => loWord xlat
  | 0xC => hiWord xlat
  | _ => 0

/-- HOSTIF (R122). -/
def readHostif (s : State) (o : Nat) : Nat :=
  let h := s.hostif
  match o with
  | 0x00 => atBit 0 s.ready.ready + atBit 1 (h.halt && !h.halted) + atBit 2 (h.halt && h.halted) +
      atBit 3 (s.env.reset == .device)
  | 0x04 => atBit 0 h.halt + atBit 1 h.preempt
  | 0x08 => atBit 0 (s.env.reset == .device || s.env.heldDeviceReset)
  | 0x0C => h.qsweep.toNat
  | 0x10 => loWord s.bar2Shown
  | 0x14 => hiWord s.bar2Shown
  | 0x18 => s.cfg.rebar
  | _ => if 0x100 ≤ o && o < 0x200 then
      match h.windows[(o - 0x100) / 0x10]? with
      | some w => readWindow w (o % 0x10)
      | none => 0
    else 0

/-- QTABLE_Qn (R157). -/
def readQueue (s : State) (q : QueueId) (o : Nat) : Nat :=
  let x := s.queues[q]
  let mine := s.flights.filter fun (f : Flight) => f.q = q
  match o with
  | 0x0 => loWord (floorTo 64 x.hdrAddr.toNat)
  | 0x4 => hiWord x.hdrAddr.toNat
  | 0x8 => atBit 0 x.en
  | 0xC => 0x1_0000 * x.reason.toNat + 0x100 * mine.length + atBit 2 x.stopped +
      atBit 1 (mine.any fun (f : Flight) => f.phase == .waiting) + atBit 0 x.active
  | _ => 0

/-- QTABLE (R157). -/
def readQtable (s : State) (o : Nat) : Nat :=
  if o < 0x1000 then s.readQueue (Fin.ofNat 256 (o / 0x10)) (o % 0x10)
  else if 0x8000 ≤ o && o < 0x9000 then (s.flag (Fin.ofNat 1024 (o % 0x1000 / 4))).toNat
  else if o = 0xF000 then s.flights.length
  else 0

/-- CTX_n of R158. -/
def readCtxLow (s : State) (c : CtxId) (o : Nat) : Nat :=
  let x := s.ctxs[c]
  match o with
  | 0x00 => loWord (floorTo 2048 x.root.toNat)
  | 0x04 => hiWord x.root.toNat
  | 0x08 => 0x100 * x.prioMax.toNat + atBit 2 x.busy + atBit 1 x.inval + atBit 0 x.valid
  | 0x0C => 0x100 * x.faultQueue.toNat + atBit 7 x.captured + 8 * x.level.toNat + x.kind.toNat
  | 0x10 => loWord x.faultVa.toNat
  | 0x14 => hiWord x.faultVa.toNat
  | _ => 0

/-- CTX_n of R439. -/
def readCtxHigh (s : State) (c : CtxId) (o : Nat) : Nat :=
  let x := s.ctxs[c]
  let mine := s.flights.filter fun (f : Flight) => f.entry.ctx = c
  let va := floorTo 0x1_0000 x.saveVa.toNat
  match o with
  | 0x00 => loWord va
  | 0x04 => hiWord va
  | 0x08 => x.saveSize.toNat
  | 0x0C => 0x1_0000 * mine.length + atBit 3 (mine.any fun (f : Flight) => f.phase == .suspended && f.run.cargo.isSome) +
      atBit 2 (s.ctxBlocked c) + atBit 1 (s.ctxRunnable c) + atBit 0 x.resident
  | 0x10 => loWord x.waitTicks.toNat
  | 0x14 => hiWord x.waitTicks.toNat
  | 0x18 => loWord x.lighterTicks.toNat
  | 0x1C => hiWord x.lighterTicks.toNat
  | 0x20 => x.preempts.toNat
  | 0x24 => 0x1_0000 * x.fallbacks.toNat + x.evictions.toNat
  | _ => 0

/-- CTX (R158, R439). -/
def readCtx (s : State) (o : Nat) : Nat :=
  let count (f : Ctx → Bool) : Nat := s.ctxs.toList.countP f
  if o < 0x2000 then s.readCtxLow (Fin.ofNat 256 (o / 0x20)) (o % 0x20)
  else if o < 0x6000 then s.readCtxHigh (Fin.ofNat 256 (o / 0x40 - 0x80)) (o % 0x40)
  else match o with
    | 0x6000 => 0x100 * count (·.resident) + min 255 (count (·.slotWaiting))
    | 0x6004 => atBit 31 s.sched.cycleValid + 0x1_0000 * s.sched.cycleLength.toNat +
        0x100 * s.sched.queueB.toNat + s.sched.queueA.toNat
    | 0x6008 => s.sched.cycleFlag.toNat
    | _ => 0

/-- MANIFEST_STATUS.STATE (R175). -/
def manifestState (m : Manifest) : Nat :=
  match m.load with
  | some l => if l.image.isSome then 0b11 else 0b10
  | none => if m.device.isSome then 0b01 else 0b00

/-- A Quay's nibble of MANIFEST_SHAPE (R175). -/
def shapeShown (s : State) (q : QuayId) : Nat :=
  if !s.quayEnabled q then 0 else if s.quays[q].wholeFenced then 7 else s.quays[q].shape.toNat

/-- MANIFEST (R175). -/
def readManifest (s : State) (o : Nat) : Nat :=
  let m := s.manifest
  let nibbles (f : QuayId → Nat) : Nat := ((List.finRange 8).map fun q => f q * 16 ^ q.val).sum
  let addr := floorTo 4096 m.addr.toNat
  match o with
  | 0x00 => 0x100 * m.quaysSel.toNat + atBit 2 m.drain + atBit 1 m.perQuay + atBit 0 m.enable
  | 0x04 => 0x4_0000 * manifestState m + atBit 17 m.refused + atBit 16 m.remapped + m.reason.toNat
  | 0x08 => 0x100_0000 * m.section_.toNat + m.item.toNat
  | 0x10 => loWord addr
  | 0x14 => hiWord addr
  | 0x18 => m.len.toNat
  | 0x20 => loWord s.manifestId.toNat
  | 0x24 => hiWord s.manifestId.toNat
  | 0x28 => nibbles s.shapeShown
  | 0x2C => nibbles fun q => m.partition[q].getD 0xF
  | 0x30 => 0x1_0000 * m.countRefused.toNat + m.countAccepted.toNat
  | _ => 0

/-- TIDE (R470); TIDE_COUNT_HI shows what the last read of LO latched (R446). -/
def readTide (s : State) (o : Nat) : Nat :=
  let t := s.tide
  let fresh : Bool := match t.ptmAt with
    | some a => s.now.toNat < a.toNat + 20 * msTicks
    | none => false
  match o with
  | 0x00 => loWord t.count.toNat
  | 0x04 => t.latchHi.toNat
  | 0x08 => atBit 7 t.stepped + atBit 6 t.held + atBit 5 t.holdover + atBit 4 fresh +
      atBit 3 t.ptmLocked + atBit 2 t.groupAligned + atBit 0 t.aligned
  | 0x0C => atBit 2 t.syncOutEn + atBit 1 t.ptmLock + atBit 0 t.syncArm
  | 0x10 => loWord t.syncValue.toNat
  | 0x14 => hiWord t.syncValue.toNat
  | 0x18 => loWord t.syncSeen.toNat
  | 0x1C => hiWord t.syncSeen.toNat
  | 0x20 => loWord t.syncOutAt.toNat
  | 0x24 => hiWord t.syncOutAt.toNat
  | 0x28 => t.syncOutWidth.toNat
  | 0x30 => loWord t.ptmEpoch.toNat
  | 0x34 => hiWord t.ptmEpoch.toNat
  | 0x38 => loWord t.ptmOffset.toNat
  | 0x3C => hiWord t.ptmOffset.toNat
  | 0x40 => t.ptmError.toNat
  | _ => 0

/-- POWER (R487). -/
def readPower (s : State) (o : Nat) : Nat :=
  let p := s.power
  match o with
  | 0x00 => p.budget.toNat
  | 0x04 => p.window.toNat
  | 0x08 => atBit 0 p.slackEn
  | 0x0C => atBit 9 p.sagIo + atBit 8 p.sagCore + atBit 3 p.returning + p.step
  | 0x10 => s.keep.sctx.toNat
  | 0x40 => 0x1_0000 * p.heldCount.toNat + p.sags.toNat
  | _ => if 0x20 ≤ o && o < 0x40 && o % 4 = 0 then s.keep.ctx.toNat / 2 ^ (8 * (o - 0x20)) % 2 ^ 32 else 0

/-- BOOT_SLOT_A and _B (R94). -/
def slotShown (x : Slot) : Nat :=
  0x1_0000 * x.reason.toNat + atBit 5 x.passed + 16 * (x.signer.toNat % 2) + atBit 3 x.versionOk +
  atBit 2 x.sigOk + x.state.toNat

/-- The secure store as BOOT shows it: its fields read as their reset values until Customs completes (R13). -/
def storeShown (s : State) : Secure := if s.running then s.secure.seen else {}

/-- BOOT (R91–R94). -/
def readBoot (s : State) (o : Nat) : Nat :=
  let b := s.boot
  let st := s.storeShown
  match o with
  | 0x00 => s.bootStatus
  | 0x04 => b.reason.toNat
  | 0x0C => 0x1_0000 * b.dropped.toNat
  | 0x10 => slotShown b.slotA
  | 0x14 => b.slotA.version.toNat
  | 0x18 => slotShown b.slotB
  | 0x1C => b.slotB.version.toNat
  | 0x20 => if s.running then s.bootRollback else 0
  | 0x24 => st.minver.toNat
  | 0x2C => st.debugCount.toNat
  | 0x30 => b.nonce[0].toNat
  | 0x34 => b.nonce[1].toNat
  | 0x38 => b.nonce[2].toNat
  | 0x3C => b.nonce[3].toNat
  | 0xC0 => loWord b.reportAddr.toNat
  | 0xC4 => hiWord b.reportAddr.toNat
  | 0xC8 => b.certLen.toNat
  | _ =>
    if o % 4 ≠ 0 then 0
    else if 0x40 ≤ o && o < 0x80 then st.ownerHash.toNat / 2 ^ (8 * (o - 0x40)) % 2 ^ 32
    else if 0x80 ≤ o && o < 0xC0 then b.runDigest.toNat / 2 ^ (8 * (o - 0x80)) % 2 ^ 32
    else 0

/-- FWIF_STATUS.STATE (R418). -/
def fwStateCode : FwState → Nat
  | .wait => 0 | .loading => 1 | .loaded => 2 | .ready => 3 | .failed => 4

/-- A ring's eight words: base, control, indices and losses (R418). -/
def readRing (r : Ring) (ctrl o : Nat) : Nat :=
  let base := floorTo 32 r.base.toNat
  match o with
  | 0x00 => loWord base
  | 0x04 => hiWord base
  | 0x08 => 0x100 * r.log2.toNat + atBit 0 r.en + ctrl
  | 0x0C => r.tail.toNat
  | 0x10 => r.head.toNat
  | 0x14 => r.lost.toNat
  | _ => 0

/-- FWIF (R418). -/
def readFwif (s : State) (o : Nat) : Nat :=
  let w := s.fwif
  match o with
  | 0x00 => 0x1_0000 * w.reason.toNat + fwStateCode w.state
  | 0x08 => loWord (floorTo 0x1_0000 w.s2Addr.toNat)
  | 0x0C => hiWord w.s2Addr.toNat
  | 0x10 => w.drvVersion.toNat
  | 0x14 => w.fwVersion.toNat
  | 0x18 => loWord w.drvFeat.toNat
  | 0x1C => hiWord w.drvFeat.toNat
  | 0x20 => loWord w.feat.toNat
  | 0x24 => hiWord w.feat.toNat
  | 0x28 => w.beat.toNat
  | 0x30 => loWord (floorTo 64 w.reqAddr.toNat)
  | 0x34 => hiWord w.reqAddr.toNat
  | 0x38 => atBit 0 w.reqGo
  | 0x3C => 0x1_0000 * w.reqResult.toNat + atBit 0 w.reqDone
  | _ =>
    if o % 4 ≠ 0 then 0
    else if 0x40 ≤ o && o < 0x58 then readRing w.log (16 * w.logMinsev.toNat) (o - 0x40)
    else if 0x60 ≤ o && o < 0x78 then readRing w.trace (atBit 1 w.traceWrap) (o - 0x60)
    else if 0x80 ≤ o && o < 0xA0 then w.traceEn[(o - 0x80) / 4]!.toNat
    else 0

/-- FAULT (R514). -/
def readFault (s : State) (o : Nat) : Nat :=
  let f := s.faults
  let base := floorTo 32 f.ring.base.toNat
  match o with
  | 0x00 => 0x100 * f.ring.log2.toNat + atBit 0 f.ring.en
  | 0x04 => atBit 1 f.gap + atBit 0 f.active
  | 0x08 => loWord base
  | 0x0C => hiWord base
  | 0x10 => f.ring.tail.toNat
  | 0x14 => f.ring.head.toNat
  | 0x18 => f.ring.lost.toNat
  | 0x1C => 0x1_0000 * f.corrected.toNat + 0x100 * f.contained.toNat + f.fatal.toNat
  | 0x20 => 0x1_0000 * f.made.toNat + 0x100 * min 255 f.pending.length + atBit 1 f.notSaved +
      atBit 0 f.writing
  | 0x24 => maskOf fun (i : Fin 32) =>
      (s.berth (Fin.ofNat 8 (i.val / 4)) (Fin.ofNat 4 i.val)).fenced
  | _ => 0

/-- RECORD (R471). -/
def readRecord (s : State) (o : Nat) : Nat :=
  let r := s.recorder
  let base := floorTo 0x10_0000 r.base.toNat
  match o with
  | 0x00 => atBit 4 r.checkpoint + atBit 3 r.decide + atBit 2 r.pos + atBit 1 r.mode + atBit 0 r.en
  | 0x04 => 0x1_0000 * r.reason.toNat + atBit 4 r.ended + atBit 3 r.stopped + atBit 2 r.gap +
      atBit 1 r.waiting + atBit 0 r.active
  | 0x08 => r.sctx.toNat
  | 0x10 => loWord base
  | 0x14 => hiWord base
  | 0x18 => r.sizeLog2.toNat
  | 0x20 => r.devIndex.toNat
  | 0x24 => r.hostIndex.toNat
  | 0x28 => r.lost.toNat
  | 0x2C => r.diverge.toNat
  | _ =>
    if o % 4 ≠ 0 then 0
    else if 0x40 ≤ o && o < 0x60 then
      match r.windows[(o - 0x40) / 8]? with
      | some w => if o % 8 = 0 then loWord (floorTo 4096 w.1.toNat) else hiWord w.1.toNat
      | none => 0
    else if 0x60 ≤ o && o < 0x70 then
      match r.windows[(o - 0x60) / 4]? with
      | some w => w.2.toNat
      | none => 0
    else 0

/-- QUAY_BbSTATUS.SEQ (R203). -/
def seqCode : SeqState → Nat
  | .idle => 0 | .running => 1 | .handshake => 2 | .stopped => 3

/-- QUAY_BbCOLMAPn (R203): four cells of 8 bits. -/
def colmapShown (x : Berth) (n : Nat) : Nat :=
  ((List.range 4).map fun i => (match x.colmap[4 * n + i]? with
    | some (some p) => 128 + p.toNat
    | _ => 0) * 256 ^ i).sum

/-- A Berth's registers (R203, R327). -/
def readBerth (x : Berth) (o : Nat) : Nat :=
  let e := x.epoch
  let r := x.residue
  match o with
  | 0x00 => 0x40 * seqCode x.seq + atBit 5 x.gated + atBit 4 x.fenced
  | 0x04 => atBit 8 x.cellUsed + x.spareCell.toNat
  | 0x08 => colmapShown x 0
  | 0x0C => colmapShown x 1
  | 0x10 => colmapShown x 2
  | 0x14 => colmapShown x 3
  | 0x18 => atBit 31 e.valid + 2 ^ 27 * e.cell.toNat + 2 ^ 25 * e.port.toNat +
      2 ^ 23 * e.expected.toNat + 2 ^ 21 * e.found.toNat + e.cycle.toNat
  | 0x1C => atBit 31 r.valid + 2 ^ 27 * r.cell.toNat + atBit 26 r.located + 2 ^ 20 * r.column.toNat +
      2 ^ 17 * r.carried.toNat + 2 ^ 14 * r.computed.toNat
  | 0x20 => 0x1_0000 * x.countResidue.toNat + x.countEpoch.toNat
  | 0x24 => 0x1_0000 * x.holdCorrected.toNat + x.holdUncorr.toNat
  | 0x28 => atBit 31 x.holdErr.valid + 2 ^ 10 * x.holdErr.bank.toNat + x.holdErr.row.toNat
  | _ => 0

/-- QUAY_STATUS.APPLYING: the Quay that a load applies now, the lowest-numbered changed one, once it has drained
(R169, R203). -/
def quayApplying (s : State) (q : QuayId) : Bool :=
  match s.manifest.load with
  | some l => l.image.isSome && l.changed.contains q && !(l.changed.any fun x => x.val < q.val) && s.quayFree q
  | none => false

/-- A QUAY block (R203, R327). -/
def readQuay (s : State) (q : QuayId) (o : Nat) : Nat :=
  let y := s.quays[q]
  match o with
  | 0x00 => 2 ^ 24 * (maskOf fun b => y.berths[b].fenced) + 2 ^ 20 * (maskOf fun b => y.berths[b].gated) +
      2 ^ 16 * y.shape.toNat + atBit 3 y.wholeFenced + atBit 2 (s.quayApplying q) + atBit 1 y.resetting +
      atBit 0 y.ready
  | 0x04 => atBit 0 (y.resetting || y.resetHeld || y.resetAsked)
  | 0x08 => 0x1_0000 * y.storeCorrected.toNat + y.storeUncorr.toNat
  | 0x0C => atBit 31 y.storeErr.valid + 2 ^ 13 * y.storeErr.bank.toNat + y.storeErr.row.toNat
  | _ =>
    if 0x100 ≤ o && o < 0x200 then
      match y.berths[(o - 0x100) / 0x40]? with
      | some x => readBerth x (o % 0x40)
      | none => 0
    else 0

/-- CSI_PORTp (R378). -/
def readPort (s : State) (p : PortId) (o : Nat) : Nat :=
  let x := s.ports[p]
  let e := s.portErrs[p]
  match o with
  | 0x0 => 0x100 * x.lossFrames.toNat + atBit 0 x.present
  | 0x4 => 0x100 * x.rate.toNat + 2 * x.lanes.toNat + atBit 0 x.phy
  | 0x8 => atBit 3 x.ulps + atBit 2 x.inFrame + atBit 1 x.lost + atBit 0 x.present
  | 0xC => 0x1_0000 * e.eccCorrected.toNat + e.crcErrors.toNat
  | _ => 0

/-- SCTX_s (R378). -/
def readSctx (s : State) (i : SctxId) (o : Nat) : Nat :=
  let x := s.streams[i]
  let b := s.blanks[i]
  match o with
  | 0x00 => atBit 1 x.full + atBit 0 x.deliverTorn
  | 0x04 => atBit 1 b.pendingClear + atBit 0 b.blank
  | 0x08 => atBit 4 x.feedBusy + atBit 3 x.idleLost + atBit 2 (x.frame.isSome || !x.unwritten.isEmpty) +
      atBit 1 x.binding.isSome + atBit 0 (s.definedAs i).isSome
  | 0x0C => x.consumed.toNat
  | 0x10 => x.frames.toNat
  | 0x14 => 0x1_0000 * x.tornCount.toNat + x.droppedCount.toNat
  | 0x18 => loWord (floorTo 256 x.feedAddr.toNat)
  | 0x1C => hiWord x.feedAddr.toNat
  | 0x20 => x.feedPitch.toNat
  | _ => 0

/-- CSI and SCTX (R378). A trigger shows its next rising edge, 0 when none is due. -/
def readCsi (s : State) (o : Nat) : Nat :=
  if o < 0x300 then s.readPort (Fin.ofNat 12 (o / 0x40)) (o % 0x40)
  else if 0x1000 ≤ o && o < 0x1060 then
    let t := s.trigs[(Fin.ofNat 12 (o % 0x1000 / 8) : TrigId)]
    let next := if t.prog.isSome then t.next.toNat else 0
    if o % 8 = 0 then loWord next else if o % 8 = 4 then hiWord next else 0
  else if 0x2000 ≤ o && o < 0x2600 then s.readSctx (Fin.ofNat 24 (o / 0x40 - 0x80)) (o % 0x40)
  else 0

/-- CODEC_Ss (R394). -/
def readSession (s : State) (n : SessId) (o : Nat) : Nat :=
  let x := s.sessions[n]
  match o with
  | 0x00 => loWord (floorTo 64 x.descAddr.toNat)
  | 0x04 => hiWord x.descAddr.toNat
  | 0x08 => atBit 0 x.en
  | 0x0C => 0x1_0000 * x.reason.toNat + atBit 3 x.suspended + atBit 2 x.feedBusy +
      atBit 1 x.waits + atBit 0 x.active
  | 0x10 => x.dataHead.toNat
  | 0x14 => x.recHead.toNat
  | 0x18 => x.recTail.toNat
  | 0x1C => loWord (floorTo 256 x.feedAddr.toNat)
  | 0x20 => hiWord x.feedAddr.toNat
  | 0x24 => x.feedLen.toNat
  | _ => 0

/-- CODEC (R394). -/
def readCodec (s : State) (o : Nat) : Nat :=
  if o = 0 then 0x100 * (maskOf fun u => s.codecs[u].busy) + maskOf fun u => s.codecs[u].shed
  else if 0x1000 ≤ o && o < 0x1800 then s.readSession (Fin.ofNat 32 (o % 0x1000 / 0x40)) (o % 0x40)
  else 0

/-- Does a channel hold strict mode for a cause? -/
def strictFor (s : State) (c : StrictCause) : Bool :=
  s.memctl.chans.toList.any fun (x : Channel) => x.strict.contains c

/-- MEMCTL (R350). -/
def readMemctl (s : State) (o : Nat) : Nat :=
  let m := s.memctl
  let h := s.harbour
  let pair (v : Nat) : Nat := if o % 8 = 0 then loWord v else if o % 8 = 4 then hiWord v else 0
  match o with
  | 0x00 => atBit 1 s.memhost.hidden + atBit 0 s.memhost.strict
  | 0x04 => atBit 11 (s.strictFor .host) + atBit 10 (s.strictFor .uncorrectable) +
      atBit 9 (s.strictFor .memtest) + atBit 8 (s.strictFor .fullRetrain) + atBit 1 m.hot + atBit 0 m.trained
  | 0x60 => atBit 31 m.uerrValid + 2 ^ 27 * m.uerrSource.toNat + 2 ^ 23 * m.uerrBank.toNat +
      2 ^ 18 * m.uerrChannel.toNat
  | 0x68 => loWord (floorTo 128 m.uerrAddr.toNat)
  | 0x6C => hiWord m.uerrAddr.toNat
  | 0x70 => 0x1_0000 * h.corrected.toNat + 0x100 * h.refetched.toNat + h.poisonedCount.toNat
  | 0x74 => atBit 31 h.errValid + 2 ^ 26 * h.errSlice.toNat + 2 ^ 22 * h.errWay.toNat +
      2 ^ 13 * h.errSet.toNat
  | 0x80 => 0x8888_8888
  | 0x84 => 0x8888_8888
  | _ =>
    if o % 4 ≠ 0 then 0
    else if 0x10 ≤ o && o < 0x38 then
      match m.masks.ch[(o - 0x10) / 8]? with | some v => pair v.toNat | none => 0
    else if 0x40 ≤ o && o < 0x60 then
      match m.masks.bank[(o - 0x40) / 8]? with | some v => pair v.toNat | none => 0
    else if 0x88 ≤ o && o < 0xA0 then
      ((List.range 8).map fun i => (match s.memhost.lockUser[2 * (o - 0x80) + i]? with
        | some u => u.toNat
        | none => 0) * 16 ^ i).sum
    else if 0x100 ≤ o && o < 0x200 then
      match m.chans[(o - 0x100) / 8]? with
      | some x => if o % 8 = 0 then 0x1_0000 * x.retries.toNat + 0x100 * x.fullRetrains.toNat + x.drift.toNat
          else 0x1_0000 * x.corrected.toNat + x.uncorr.toNat
      | none => 0
    else 0

/-- DECK_CnSTATUS (R419). -/
def deckShown (s : State) (n : DeckId) : Nat :=
  match s.deckOwner[n] with
  | none => 0
  | some (q, idx) => 0x1_0000 * q.val + 0x100 * match s.flights.find? (·.is q idx) with
    | some f => f.entry.ctx.val
    | none => 0

/-- DECK (R419). -/
def readDeck (s : State) (o : Nat) : Nat :=
  if o = 0 then 0x100 * (maskOf fun n => s.deckOwner[n].isSome) + atBit 0 s.deckReduced
  else if 0x100 ≤ o && o < 0x180 then
    let n : DeckId := Fin.ofNat 8 ((o - 0x100) / 0x10)
    match o % 0x10 with
    | 0 => s.deckShown n
    | 4 => atBit 31 s.deckFaults[n].valid + 0x1_0000 * s.deckFaults[n].cause.toNat
    | _ => 0
  else 0

/-- LIGHTHOUSE_STATUS.STATE (R515). -/
def lhStateCode : LhState → Nat
  | .normal => 0 | .relaunching => 1 | .lost => 2 | .halted => 3

/-- LIGHTHOUSE (R515). -/
def readLighthouse (s : State) (o : Nat) : Nat :=
  let l := s.lighthouse
  match o with
  | 0x00 => atBit 3 s.env.faultN + atBit 2 s.frozen + lhStateCode l.state
  | 0x04 => l.cause.toNat
  | 0x08 => loWord l.tide.toNat
  | 0x0C => hiWord l.tide.toNat
  | 0x10 => 0x1_0000 * l.relaunches.toNat + 0x100 * l.passed.toNat + 4 * l.coreB.toNat + l.coreA.toNat
  | _ => 0

/-! ## Which blocks answer -/

/-- Requests reach the device: its supplies are up and no reset of class C or H holds it (R96, R119). -/
def reachable (s : State) : Bool :=
  s.env.suppliesUp && !s.env.por && !s.env.perstLow && !s.env.mfgHold

/-- A block other than IDENT and LIGHTHOUSE answers: never when the device is lost, during a function
reset or at shedding step 6 (R119, R481). -/
def blockAnswers (s : State) : Bool := !s.lost && !s.frozen && s.env.reset ≠ .function

/-- The aligned DWORD that holds a BAR0 offset (R60, R116–R119). -/
def readReg (s : State) (offset : Nat) : Word :=
  let off := floorTo 4 offset
  let o := off % 0x1_0000
  let block : Nat := if !s.reachable || 0x100_0000 ≤ off then 0 else
    match off / 0x1_0000 with
    | 0x00 => s.readIdent o
    | 0xF0 => s.readLighthouse o
    | 0x07 => if s.blockAnswers then s.readBoot o else 0
    | b => if !(s.blockAnswers && s.running) then 0 else
      match b with
      | 0x01 => s.readHostif o
      | 0x02 => s.readQtable o
      | 0x03 => s.readCtx o
      | 0x04 => s.readManifest o
      | 0x05 => s.readTide o
      | 0x06 => s.readPower o
      | 0x08 => s.readFwif o
      | 0x09 => s.readFault o
      | 0x0A => s.readRecord o
      | 0x20 => s.readCsi o
      | 0x30 => s.readCodec o
      | 0x40 => s.readMemctl o
      | 0x50 => s.readDeck o
      | _ => if 0x10 ≤ b && b < 0x18 && s.quayEnabled (Fin.ofNat 8 (b - 0x10)) then
          s.readQuay (Fin.ofNat 8 (b - 0x10)) o
        else 0
  BitVec.ofNat 32 block

/-- A read of BAR0 of any shape returns the whole aligned DWORDs that it touches (R116); one of 8 bytes at TIDE_COUNT_LO
has both halves of the present count (R446). -/
def readBar0 (s : State) (offset length : Nat) : List Word :=
  if length = 0 then [] else
  if offset = 0x5_0000 && length = 8 && s.reachable && s.blockAnswers && s.running then
    [loWord s.tide.count.toNat, hiWord s.tide.count.toNat].map (BitVec.ofNat 32) else
  (List.range ((offset + length - 1) / 4 + 1 - offset / 4)).map fun i => s.readReg (4 * (offset / 4 + i))

end State

end Sys2Proof.Machine
end

