-- ==== Sys2Proof/Machine/TideCmds.lean ====
section
/-! DEFINITION. The Tide: ticks, REFCLK, SYNC and PTM (R105, R441–R454). -/

namespace Sys2Proof.Machine

/-- Holdover (R105): Group and PTM alignment are void from then on. -/
def execRefclkLoss (s : State) : Result :=
  if !s.env.refclk then .next s else
  let s := { s with env := { s.env with refclk := false } }
  if !s.tide.locked then .next s else
  .next { s with tide := { s.tide with
    holdover := true, holdoverFrom := s.now
    groupAligned := false, ptmLocked := false, ptmLock := false } }

/-- REFCLK returns after `ticks` more held-over ticks (R105, R454). -/
def execRefclkReturn (ticks : Nat) (s : State) : Result :=
  if s.env.refclk then .next s else
  let s := { s with env := { s.env with refclk := true } }
  if !s.tide.holdover then .next s else
  let count := s.now + BitVec.ofNat 64 ticks
  let s := { s with tide := { s.tide with count, holdover := false, held := true } }
  .next (s.note 0x4034 .information (count.toNat - s.tide.holdoverFrom.toNat))

/-- SYNC_IN is sampled high after low (R448–R450); during holdover nothing happens (R469). -/
def execSyncInPulse (s : State) : Result :=
  if !s.tide.locked || s.tide.holdover then .next s else
  let seen := s.now
  let s := { s with tide := { s.tide with syncSeen := seen } }
  if !s.tide.syncArm then .next s else
  let s := { s with tide := { s.tide with syncArm := false } }
  let value := s.tide.syncValue
  if value.toNat < seen.toNat + 1 then .next (s.note 0x4031 .information 0)
  else
    let s := { s with tide := { s.tide with
      count := seen + 1, groupAligned := true, ptmLock := false, ptmLocked := false } }
    if value.toNat = seen.toNat + 1 then .next s else .next (s.stepTide value)

/-- The Tide reaches TIDE_SYNC_OUT_AT with SYNC_OUT_EN set (R451). -/
def execSyncOutPulse (s : State) : Result :=
  let t := s.tide
  if t.syncOutEn && t.syncOutAt ≠ 0 && t.locked && t.count.toNat ≤ t.syncOutAt.toNat then
    let s := (s.advanceTo t.syncOutAt).send (.syncOut t.syncOutAt t.syncOutWidth.toNat)
    .next { s with tide := { s.tide with syncOutAt := 0 } }
  else .next s

/-- The PTM target count for a master time (R452), rounded down. -/
def ptmTarget (s : State) (masterNs : BitVec 64) : Int :=
  ((masterNs.toNat : Int) - s.tide.ptmEpoch.toNat) / 4

/-- Hold the count to a target (R453): refused while SYNC is armed or a Group is aligned, or when the
target lies behind. -/
def State.lockPtm (s : State) (target : Int) : State :=
  if s.tide.syncArm || s.tide.groupAligned || target < s.now.toNat then
    { s with tide := { s.tide with ptmLock := false } }.note 0x4032 .information 0
  else
    let s := { s with tide := { s.tide with ptmLock := true, ptmBad := 0 } }
    if target = s.now.toNat then s else s.stepTide (BitVec.ofInt 64 target)

/-- PTM_LOCK is set (R453). -/
def execPtmLock (masterNs : BitVec 64) (s : State) : Result :=
  if !s.tide.locked || !s.cfg.ptmEnable || s.tide.ptmLock then .next s
  else .next (s.lockPtm (ptmTarget s masterNs))

/-- A PTM exchange ends (R132, R452, R453): 10 ms after the one before, which the Tide is carried to, and at once
after PTM Enable is set (log entry 11). It gives the offset, and under PTM_LOCK the residual, the lock status and
one tick correction at most per 1,000 ticks. -/
def execPtmMeasurement (masterNs : BitVec 64) (s : State) : Result :=
  if !s.tide.locked || !s.cfg.ptmEnable || s.env.l12 then .next s else
  let s := s.advanceTo (match s.cfg.ptmSent with
    | some t => t + BitVec.ofNat 64 (10 * State.msTicks)
    | none => s.now)
  let s := { s with cfg := { s.cfg with ptmSent := some s.now } }.send .ptmRequest
  let offset := ptmTarget s masterNs - s.now.toNat
  let s := { s with tide := { s.tide with ptmOffset := BitVec.ofInt 64 offset, ptmAt := some s.now } }
  if !s.tide.ptmLock then .next s else
  let residual := ((masterNs.toNat : Int) - s.tide.ptmEpoch.toNat - 4 * s.now.toNat).natAbs
  let bad := if residual > 50 then s.tide.ptmBad + 1 else 0
  let correct := offset ≠ 0 && s.tide.ptmCorrectedAt.toNat + 1000 ≤ s.now.toNat
  let s := { s with tide := { s.tide with
    ptmError := BitVec.ofNat 16 (min residual 0xFFFF)
    ptmBad := bad
    ptmLocked := if residual > 50 then s.tide.ptmLocked && bad < 3 else true
    ptmCorrectedAt := if correct then s.now else s.tide.ptmCorrectedAt
    count := if correct && 0 < offset then s.now + 1 else s.now } }
  .next (if bad = 3 then s.note 0x4032 .information 0 else s)

/-- A 4-byte read of TIDE_COUNT_LO latches the high half; an 8-byte read returns both (R446). Like every BAR0
request it ends Slack water (R117). -/
def execTideCountRead (wide : Bool) (s : State) : Result :=
  let s := s.wakeSlack
  if !s.running || s.lost || s.frozen || s.env.reset = .function then
    .next (s.send (.readData (leBytes (if wide then 8 else 4) 0) false))
  else if wide then .next (s.send (.readData (leBytes 8 s.now.toNat) false))
  else
    let s := { s with tide := { s.tide with latchHi := BitVec.ofNat 32 (s.now.toNat / 2 ^ 32) } }
    .next (s.send (.readData (leBytes 4 (s.now.toNat % 2 ^ 32)) false))

/-- What the block does when no command waits (log entry 5): one tick of the Tide once its clock is locked
(R441), and the log entries whose interval has ended (R412). -/
def idleTick (s : State) : State :=
  if s.tide.locked then { s with tide := { s.tide with count := s.tide.count + 1 } }.flushMarks else s

end Sys2Proof.Machine
end

