-- ==== Sys2Proof/Machine/RegisterCmds.lean ====
section
/-! DEFINITION. Writes of BAR0 registers and the BAR2 window (R11, R60, R65, R66, R112–R119, R126, R130, R461,
R465). -/

namespace Sys2Proof.Machine

/-! ## Fields -/

/-- Bits [hi:lo] of a written word. -/
def wbits (v hi lo : Nat) : Nat := v / 2 ^ lo % 2 ^ (hi + 1 - lo)

/-- One bit of a written word. -/
def wbit (v i : Nat) : Bool := v / 2 ^ i % 2 = 1

/-- The LO register of an address pair is written: bits below `align` are ignored. -/
def putLo {w : Nat} (a : BitVec w) (align v : Nat) : BitVec w :=
  BitVec.ofNat w (a.toNat / 2 ^ 32 * 2 ^ 32 + floorTo align (v % 2 ^ 32))

/-- The HI register of a pair is written. -/
def putHi {w : Nat} (a : BitVec w) (v : Nat) : BitVec w :=
  BitVec.ofNat w (a.toNat % 2 ^ 32 + v * 2 ^ 32)

/-- A field that takes the values lo to hi, others being reserved (R11): the field and how many reserved
encodings were met. -/
def ranged {w : Nat} (old : BitVec w) (v lo hi : Nat) : BitVec w × Nat :=
  if lo ≤ v && v ≤ hi then (BitVec.ofNat w v, 0) else (old, 1)

namespace State

/-! ## Blocks -/

/-- HOSTIF_OWINn (R122). -/
def putWindow (w : OutWindow) (o v : Nat) : OutWindow × Nat :=
  match o with
  | 0x0 =>
    let size := ranged w.sizeLog2 (wbits v 13 8) 16 39
    ({ w with sizeLog2 := size.1, noSnoop := wbit v 2, peer := wbit v 1, en := wbit v 0 }, size.2)
  | 0x4 => ({ w with offset := BitVec.ofNat 23 v }, 0)
  | 0x8 => ({ w with xlat := putLo w.xlat 1 v }, 0)
  | 0xC => ({ w with xlat := putHi w.xlat v }, 0)
  | _ => (w, 0)

/-- HOSTIF but for HALT_ALL and DEV_RESET (R122, R126). -/
def writeHostif (s : State) (o v : Nat) : State :=
  let h := s.hostif
  match o with
  | 0x0C =>
    let q := ranged h.qsweep (wbits v 14 0) 64 16000
    { s with hostif := { h with qsweep := q.1 } }.noteReserved q.2
  | 0x10 => { s with hostif := { h with bar2Reg := putLo h.bar2Reg 1 v } }
  | 0x14 =>
    let base := putHi h.bar2Reg v
    { s with hostif := { h with bar2Reg := base, bar2Base := base } }
  | _ =>
    if 0x100 ≤ o && o < 0x200 then
      let i : WinId := Fin.ofNat 16 ((o - 0x100) / 0x10)
      let w := putWindow h.windows[i] (o % 0x10) v
      { s with hostif := { h with windows := h.windows.set i.val w.1 } }.noteReserved w.2
    else s

/-- QTABLE (R157): the header address is locked while EN is 1. -/
def writeQtable (s : State) (o v : Nat) : State :=
  if o < 0x1000 then
    let q : QueueId := Fin.ofNat 256 (o / 0x10)
    let locked := s.queues[q].en
    match o % 0x10 with
    | 0x0 => if locked then s else s.updQueue q fun x => { x with hdrAddr := putLo x.hdrAddr 64 v }
    | 0x4 => if locked then s else s.updQueue q fun x => { x with hdrAddr := putHi x.hdrAddr v }
    | 0x8 => s.writeQueueCtrl q v
    | _ => s
  else if 0x8000 ≤ o && o < 0x9000 then
    s.hostFlag (Fin.ofNat 1024 (o % 0x1000 / 4)) false (BitVec.ofNat 32 v)
  else if 0x9000 ≤ o && o < 0xA000 then
    s.hostFlag (Fin.ofNat 1024 (o % 0x1000 / 4)) true (BitVec.ofNat 32 v)
  else s

/-- CTX (R158, R439): ROOT and SAVE are locked while VALID is 1. A new PRIO_MAX is the context's class for
shedding from then on. -/
def writeCtx (s : State) (o v : Nat) : State :=
  if o < 0x2000 then
    let c : CtxId := Fin.ofNat 256 (o / 0x20)
    let locked := s.ctxs[c].valid
    match o % 0x20 with
    | 0x0 => if locked then s else s.updCtx c fun x => { x with root := putLo x.root 2048 v }
    | 0x4 => if locked then s else s.updCtx c fun x => { x with root := putHi x.root v }
    | 0x8 => (s.writeCtxCtrl c v).reshed
    | 0xC => s.updCtx c fun x => { x with captured := x.captured && !wbit v 7 }
    | _ => s
  else if o < 0x6000 then
    let c : CtxId := Fin.ofNat 256 (o / 0x40 - 0x80)
    let locked := s.ctxs[c].valid
    match o % 0x40 with
    | 0x00 => if locked then s else s.updCtx c fun x => { x with saveVa := putLo x.saveVa 0x1_0000 v }
    | 0x04 => if locked then s else s.updCtx c fun x => { x with saveVa := putHi x.saveVa v }
    | 0x08 => if locked then s else s.updCtx c fun x => { x with saveSize := BitVec.ofNat 16 v }
    | 0x28 => if wbit v 0 then s.clearAcct c else s
    | _ => s
  else if o = 0x6004 then
    { s with sched := { s.sched with cycleValid := s.sched.cycleValid && !wbit v 31 } }
  else s

/-- MANIFEST (R175). -/
def writeManifestReg (s : State) (o v : Nat) : State :=
  let m := s.manifest
  match o with
  | 0x00 => s.writeManifestCtrl (wbit v 0) (wbit v 1) (wbit v 2) (BitVec.ofNat 8 (wbits v 15 8))
  | 0x10 => { s with manifest := { m with addr := putLo m.addr 4096 v } }
  | 0x14 => { s with manifest := { m with addr := putHi m.addr v } }
  | 0x18 => { s with manifest := { m with len := BitVec.ofNat 21 v } }
  | _ => s

/-- TIDE_CTRL (R448, R451, R453, R470). Setting PTM_LOCK holds the count to the target that the last
measurement gives. -/
def writeTideCtrl (s : State) (v : Nat) : State :=
  let was := s.tide.ptmLock
  let s := { s with tide := { s.tide with syncOutEn := wbit v 2, syncArm := wbit v 0 } }
  if wbit v 1 then
    if was || !s.tide.locked then s else s.lockPtm (s.now.toNat + s.tide.ptmOffset.toInt)
  else { s with tide := { s.tide with ptmLock := false } }

/-- TIDE (R470). -/
def writeTide (s : State) (o v : Nat) : State :=
  let t := s.tide
  match o with
  | 0x08 => { s with tide := { t with stepped := t.stepped && !wbit v 7, held := t.held && !wbit v 6 } }
  | 0x0C => s.writeTideCtrl v
  | 0x10 => { s with tide := { t with syncValue := putLo t.syncValue 1 v } }
  | 0x14 => { s with tide := { t with syncValue := putHi t.syncValue v } }
  | 0x20 => { s with tide := { t with syncOutAt := putLo t.syncOutAt 1 v } }
  | 0x24 => { s with tide := { t with syncOutAt := putHi t.syncOutAt v } }
  | 0x28 =>
    let w := ranged t.syncOutWidth (wbits v 7 0) 2 255
    { s with tide := { t with syncOutWidth := w.1 } }.noteReserved w.2
  | 0x30 => { s with tide := { t with ptmEpoch := putLo t.ptmEpoch 1 v } }
  | 0x34 => { s with tide := { t with ptmEpoch := putHi t.ptmEpoch v } }
  | _ => s

/-- POWER (R487). What the keep masks no longer keep is shed at the step in force, and what they keep goes
on. -/
def writePower (s : State) (o v : Nat) : State :=
  let p := s.power
  match o with
  | 0x00 =>
    let b := ranged p.budget (wbits v 7 0) 60 220
    { s with power := { p with budget := b.1 } }.noteReserved b.2
  | 0x04 =>
    let w := ranged p.window (wbits v 5 0) 1 60
    { s with power := { p with window := w.1 } }.noteReserved w.2
  | 0x08 => { s with power := { p with slackEn := wbit v 0 } }
  | 0x10 => { s with keep := { s.keep with sctx := BitVec.ofNat 24 v } }.stopShedFrames
  | _ =>
    if 0x20 ≤ o && o < 0x40 then
      let lo := 8 * (o - 0x20)
      let old := s.keep.ctx.toNat
      let new := old / 2 ^ (lo + 32) * 2 ^ (lo + 32) + v % 2 ^ 32 * 2 ^ lo + old % 2 ^ lo
      { s with keep := { s.keep with ctx := BitVec.ofNat 256 new } }.reshed
    else s

/-- BOOT (R94): the nonce is locked by BOOT_RELEASE, until a window opens again. -/
def writeBoot (s : State) (o v : Nat) : State :=
  match o with
  | 0x08 => s.writeRelease (BitVec.ofNat 32 v)
  | 0x28 => s.writeMinver (BitVec.ofNat 32 v)
  | _ =>
    if 0x30 ≤ o && o < 0x40 && !s.boot.windowClosed then
      { s with boot := { s.boot with
        nonce := s.boot.nonce.setIfInBounds ((o - 0x30) / 4) (BitVec.ofNat 32 v) } }
    else s

/-- A ring's base and LOG2 while they are not locked, and how many reserved encodings were met (R418, R514). -/
def putRingBase (r : Ring) (hi : Bool) (v : Nat) : Ring :=
  if r.en then r else { r with base := if hi then putHi r.base v else putLo r.base 32 v }
def putRingLog2 (r : Ring) (v top : Nat) : Ring × Nat :=
  if r.en then (r, 0) else
  let n := ranged r.log2 (wbits v 12 8) 8 top
  ({ r with log2 := n.1 }, n.2)

/-- FWIF_LOG_CTRL (R418). -/
def writeLogCtrl (s : State) (v : Nat) : State :=
  let r := putRingLog2 s.fwif.log v 20
  let s := { s with fwif := { s.fwif with log := r.1, logMinsev := BitVec.ofNat 2 (wbits v 5 4) } }
  let s := if wbit v 0 then s.enableLog
    else { s with fwif := { s.fwif with log := { s.fwif.log with en := false } } }
  s.noteReserved r.2

/-- FWIF_TRACE_CTRL (R418). -/
def writeTraceCtrl (s : State) (v : Nat) : State :=
  let r := putRingLog2 s.fwif.trace v 20
  let s := { s with fwif := { s.fwif with trace := r.1, traceWrap := wbit v 1 } }
  let s := if wbit v 0 then s.enableTrace
    else { s with fwif := { s.fwif with trace := { s.fwif.trace with en := false } } }
  s.noteReserved r.2

/-- FWIF (R418). -/
def writeFwif (s : State) (o v : Nat) : State :=
  let w := s.fwif
  match o with
  | 0x04 =>
    let s := if wbit v 0 then s.writeLoad else s
    if wbit v 1 then s.writeNegotiate else s
  | 0x08 => { s with fwif := { w with s2Addr := putLo w.s2Addr 0x1_0000 v } }
  | 0x0C => { s with fwif := { w with s2Addr := putHi w.s2Addr v } }
  | 0x10 => { s with fwif := { w with drvVersion := BitVec.ofNat 32 v } }
  | 0x18 => { s with fwif := { w with drvFeat := putLo w.drvFeat 1 v } }
  | 0x1C => { s with fwif := { w with drvFeat := putHi w.drvFeat v } }
  | 0x30 => { s with fwif := { w with reqAddr := putLo w.reqAddr 32 v } }
  | 0x34 => { s with fwif := { w with reqAddr := putHi w.reqAddr v } }
  | 0x38 => if wbit v 0 then s.writeGo else s
  | 0x3C => { s with fwif := { w with reqDone := w.reqDone && !wbit v 0 } }
  | 0x40 => { s with fwif := { w with log := putRingBase w.log false v } }
  | 0x44 => { s with fwif := { w with log := putRingBase w.log true v } }
  | 0x48 => s.writeLogCtrl v
  | 0x50 => s.writeLogHead (BitVec.ofNat 32 v)
  | 0x60 => { s with fwif := { w with trace := putRingBase w.trace false v } }
  | 0x64 => { s with fwif := { w with trace := putRingBase w.trace true v } }
  | 0x68 => s.writeTraceCtrl v
  | 0x70 => { s with fwif := { w with trace := { w.trace with head := BitVec.ofNat 32 v } } }
  | _ =>
    if 0x80 ≤ o && o < 0xA0 then
      { s with fwif := { w with
        traceEn := w.traceEn.setIfInBounds ((o - 0x80) / 4) (BitVec.ofNat 32 v) } }
    else s

/-- FAULT (R514). -/
def writeFault (s : State) (o v : Nat) : State :=
  let f := s.faults
  match o with
  | 0x00 =>
    let r := putRingLog2 f.ring v 16
    let s := { s with faults := { f with ring := r.1 } }
    let s := if wbit v 0 then s.enableFaultRing
      else { s with faults := { s.faults with active := false, ring := { s.faults.ring with en := false } } }
    s.noteReserved r.2
  | 0x08 => { s with faults := { f with ring := putRingBase f.ring false v } }
  | 0x0C => { s with faults := { f with ring := putRingBase f.ring true v } }
  | 0x14 => { s with faults := { f with ring := { f.ring with head := BitVec.ofNat 32 v } } }
  | _ => s

/-- RECORD (R471): every RWL field is locked while EN is 1. -/
def writeRecordReg (s : State) (o v : Nat) : State :=
  let r := s.recorder
  match o with
  | 0x00 => s.writeRecordCtrl v
  | 0x24 => { s with recorder := { r with hostIndex := BitVec.ofNat 32 v } }
  | _ =>
    if r.en then s else
    match o with
    | 0x08 => { s with recorder := { r with sctx := BitVec.ofNat 24 v } }
    | 0x10 => { s with recorder := { r with base := putLo r.base 0x10_0000 v } }
    | 0x14 => { s with recorder := { r with base := putHi r.base v } }
    | 0x18 =>
      let n := ranged r.sizeLog2 (wbits v 4 0) 20 (if s.part = .ojq6_16a then 33 else 34)
      { s with recorder := { r with sizeLog2 := n.1 } }.noteReserved n.2
    | _ =>
      if 0x40 ≤ o && o < 0x60 then
        let i : Fin 4 := Fin.ofNat 4 ((o - 0x40) / 8)
        { s with recorder := { r with windows := updAt r.windows i fun w =>
          (if o % 8 = 0 then putLo w.1 4096 v else putHi w.1 v, w.2) } }
      else if 0x60 ≤ o && o < 0x70 then
        let i : Fin 4 := Fin.ofNat 4 ((o - 0x60) / 4)
        { s with recorder := { r with windows := updAt r.windows i fun w => (w.1, BitVec.ofNat 20 v) } }
      else s

/-- A QUAY block (R203, R327). -/
def writeQuay (s : State) (q : QuayId) (o v : Nat) : State :=
  let w1c := wbit v 31
  match o with
  | 0x04 => if wbit v 0 then s.startQuayReset q else s
  | 0x0C => if !w1c then s else
      s.updQuay q fun y => { y with storeErr := { y.storeErr with valid := false } }
  | _ =>
    if 0x100 ≤ o && o < 0x200 && w1c then
      let b : BerthId := Fin.ofNat 4 ((o - 0x100) / 0x40)
      match o % 0x40 with
      | 0x18 => s.updBerth q b fun x => { x with epoch := { x.epoch with valid := false } }
      | 0x1C => s.updBerth q b fun x => { x with residue := { x.residue with valid := false } }
      | 0x28 => s.updBerth q b fun x => { x with holdErr := { x.holdErr with valid := false } }
      | _ => s
    else s

/-- The output line at which blanking takes effect on a stream depends on where the pipe stands (R365), so it is a free
value, and line 0 where no frame is in the pipe. -/
def outputStands (s : State) (i : SctxId) : BitVec 16 × State :=
  match s.streams[i].unwritten.head? <|> s.streams[i].frame with
  | none => (0, s)
  | some f =>
    let (n, s) := s.takeFree
    (BitVec.ofNat 16 ((Config.freeWord n).toNat % (f.defn.outH + 1)), s)

/-- BLANK is written 1 in a register write. -/
def blankNow (s : State) (i : SctxId) : State :=
  let (line, s) := s.outputStands i
  let (lines, s) := (s.branches i).foldl (fun a j =>
    let (n, s) := a.2.outputStands j
    (a.1 ++ [(j, n)], s)) (([] : List (SctxId × BitVec 16)), s)
  s.blank i line lines

/-- SCTX_s (R378). -/
def writeSctx (s : State) (i : SctxId) (o v : Nat) : State :=
  match o with
  | 0x00 => s.updStream i fun x => { x with full := wbit v 1, deliverTorn := wbit v 0 }
  | 0x04 => if wbit v 0 then s.blankNow i else s.unblank i
  | 0x0C => s.updStream i fun x => { x with consumed := BitVec.ofNat 32 v }
  | 0x18 => s.updStream i fun x => { x with feedAddr := putLo x.feedAddr 256 v }
  | 0x1C => s.updStream i fun x => { x with feedAddr := putHi x.feedAddr v }
  | 0x20 => s.updStream i fun x => { x with feedPitch := BitVec.ofNat 20 v }
  | 0x24 => if wbit v 0 then s.writeFeedGo i else s
  | _ => s

/-- CSI and SCTX (R378). -/
def writeCsi (s : State) (o v : Nat) : State :=
  if o < 0x300 then
    let p : PortId := Fin.ofNat 12 (o / 0x40)
    match o % 0x40 with
    | 0x0 => s.writePortCtrl p (BitVec.ofNat 8 (wbits v 15 8)) (wbit v 0)
    | 0x4 => s.writePortCfg p v
    | _ => s
  else if 0x2000 ≤ o && o < 0x2600 then s.writeSctx (Fin.ofNat 24 (o / 0x40 - 0x80)) (o % 0x40) v
  else s

/-- CODEC_Ss (R394): the descriptor address is locked while EN is 1. -/
def writeSession (s : State) (n : SessId) (o v : Nat) : State :=
  let locked := s.sessions[n].en
  match o with
  | 0x00 => if locked then s else s.updSession n fun x => { x with descAddr := putLo x.descAddr 64 v }
  | 0x04 => if locked then s else s.updSession n fun x => { x with descAddr := putHi x.descAddr v }
  | 0x08 =>
    let s := if wbit v 0 then s.enableSession n else s.disableSession n
    if wbit v 1 then s.writeForceKey n else s
  | 0x10 => s.updSession n fun x => { x with dataHead := BitVec.ofNat 32 v }
  | 0x14 => s.updSession n fun x => { x with recHead := BitVec.ofNat 32 v }
  | 0x1C => s.updSession n fun x => { x with feedAddr := putLo x.feedAddr 256 v }
  | 0x20 => s.updSession n fun x => { x with feedAddr := putHi x.feedAddr v }
  | 0x24 => s.updSession n fun x => { x with feedLen := BitVec.ofNat 32 v }
  | 0x28 => if wbit v 0 then s.writeCodecGo n else s
  | _ => s

/-- CODEC (R394). -/
def writeCodec (s : State) (o v : Nat) : State :=
  if 0x1000 ≤ o && o < 0x1800 then s.writeSession (Fin.ofNat 32 (o % 0x1000 / 0x40)) (o % 0x40) v
  else s

/-- MEMCTL (R350). -/
def writeMemctl (s : State) (o v : Nat) : State :=
  match o with
  | 0x00 => (s.writeHidden (wbit v 1)).writeStrict (wbit v 0)
  | 0x60 => { s with memctl := { s.memctl with uerrValid := s.memctl.uerrValid && !wbit v 31 } }
  | 0x74 => { s with harbour := { s.harbour with errValid := s.harbour.errValid && !wbit v 31 } }
  | _ => s

/-- DECK (R419). -/
def writeDeck (s : State) (o v : Nat) : State :=
  if 0x100 ≤ o && o < 0x180 && o % 0x10 = 4 && wbit v 31 then
    let n : DeckId := Fin.ofNat 8 ((o - 0x100) / 0x10)
    { s with deckFaults := updAt s.deckFaults n ({ · with valid := false }) }
  else s

/-! ## The write path -/

/-- A 4-byte write of the right shape (R60, R117–R119, R122). Every field of IDENT and LIGHTHOUSE is
read-only. -/
def writeReg (s : State) (off v : Nat) : State :=
  let o := off % 0x1_0000
  match off / 0x1_0000 with
  | 0x07 => if s.blockAnswers then s.writeBoot o v else s
  | b =>
    if b = 1 && o = 4 then
      if s.haltAnswers then s.writeHalt (wbit v 0) (wbit v 1) else s
    else if b = 1 && o = 8 then
      if wbit v 0 then s.requestDeviceReset else s
    else if !s.answers then s
    else match b with
      | 0x01 => s.writeHostif o v
      | 0x02 => s.writeQtable o v
      | 0x03 => s.writeCtx o v
      | 0x04 => s.writeManifestReg o v
      | 0x05 => s.writeTide o v
      | 0x06 => s.writePower o v
      | 0x08 => s.writeFwif o v
      | 0x09 => s.writeFault o v
      | 0x0A => s.writeRecordReg o v
      | 0x20 => s.writeCsi o v
      | 0x30 => s.writeCodec o v
      | 0x40 => s.writeMemctl o v
      | 0x50 => s.writeDeck o v
      | _ => if 0x10 ≤ b && b < 0x18 && s.quayEnabled (Fin.ofNat 8 (b - 0x10)) then
          s.writeQuay (Fin.ofNat 8 (b - 0x10)) o v
        else s

/-- The shape of R116: naturally aligned, 4 or 8 bytes, all byte enables set. -/
def shapeOk (offset size : Nat) (enables : BitVec 8) : Bool :=
  (size = 4 && offset % 4 = 0 && enables.toNat % 16 = 0xF) ||
  (size = 8 && offset % 8 = 0 && enables.toNat = 0xFF)

/-- An 8-byte write is two 4-byte writes, the lower first; nothing comes between the halves of a pair. -/
def writeSized (s : State) (offset size : Nat) (value : BitVec 64) : State :=
  let s := s.writeReg offset (loWord value.toNat)
  if size = 8 then s.writeReg (offset + 4) (hiWord value.toNat) else s

/-! ## BAR2 -/

/-- The device address that a BAR2 offset reaches (R126). -/
def bar2Address (s : State) (offset : Nat) : Nat :=
  floorTo (2 ^ s.hostif.bar2Log2) s.hostif.bar2Base.toNat + offset

/-- [offset, offset + n) lies in the aperture. -/
def inAperture (s : State) (offset n : Nat) : Bool := offset + n ≤ 2 ^ s.hostif.bar2Log2

/-- Does an address lie in a capture window (R461)? -/
def inCapture (s : State) (a : Nat) : Bool :=
  s.recorder.windows.toList.any fun w =>
    let base := floorTo 4096 w.1.toNat
    base ≤ a && a < base + 4096 * w.2.toNat

/-- The runs of written bytes that lie in capture windows, none longer than 4 KiB. -/
def captureRuns (s : State) : Nat → List Byte → List (Nat × List Byte)
  | _, [] => []
  | a, b :: bs =>
    let rest := s.captureRuns (a + 1) bs
    if !s.inCapture a then rest
    else match rest with
      | (a', bs') :: more =>
        if a' = a + 1 && bs'.length < 4096 then (a, b :: bs') :: more else (a, [b]) :: rest
      | [] => [(a, [b])]

/-- The runs of a write that replay does not drop (R465). -/
def outsideRuns (s : State) : Nat → List Byte → List (Nat × List Byte)
  | _, [] => []
  | a, b :: bs =>
    let rest := s.outsideRuns (a + 1) bs
    if s.inCapture a then rest
    else match rest with
      | (a', bs') :: more => if a' = a + 1 then (a, b :: bs') :: more else (a, [b]) :: rest
      | [] => [(a, [b])]

/-- Store what replay does not drop. -/
def outsideCapture (s : State) (m : Memory) (a : Nat) (bs : List Byte) : Memory :=
  (s.outsideRuns a bs).foldl (fun m r => m.store r.1 r.2) m

/-- The part of a BAR2 write that lies in companion memory below the reserved region (R126, R461, R465). -/
def bar2Store (s : State) (a : Nat) (bs : List Byte) : State :=
  if s.replaying && (s.captureRuns a bs).length ≠ 0 then
    { s with mem := s.outsideCapture s.mem a bs }.replayDrop
  else
    let s := s.updMem (·.store a bs)
    if s.capturing then
      (s.captureRuns a bs).foldl (fun s r =>
        s.record 0x0B 0 (leBytes 4 r.2.length) (leBytes 8 r.1 ++ r.2)) s
    else s

/-- A BAR2 write while the boot hold is its target (R65): the part beyond 4 MiB is dropped. -/
def holdStore (s : State) (offset : Nat) (bs : List Byte) : State :=
  let s := s.updMem (·.store (windowBase + offset) (bs.take (holdSize - offset)))
  if holdSize < offset + bs.length then s.dropHoldWrite else s

/-- BAR2 answers: a device reset does not touch the host interface's window (R96, R126). -/
def bar2Answers (s : State) : Bool :=
  s.reachable && !s.lost && !s.frozen && s.env.reset ≠ .function

/-- An inbound posted write with poisoned data is dropped (R130). -/
def dropPoisoned (s : State) : State := if s.lost then s else (s.note 0x5004 .contained 0).sendAer .poisonedTlp

/-- A BAR2 write (R65, R66, R113, R126, R130): a poisoned one is dropped, also after the window has closed, where it is
neither counted nor logged as a write of the boot hold (log entry 122). -/
def bar2Write (s : State) (offset : Nat) (bs : List Byte) (poisoned : Bool) : State :=
  if !s.bar2Answers || !s.inAperture offset bs.length || bs.isEmpty then s
  else if poisoned then s.dropPoisoned
  else match s.boot.stage with
    | .windowOpen => s.holdStore offset bs
    | .checking | .keys => s.dropHoldWrite
    | .running =>
      let a := s.bar2Address offset
      let s := s.bar2Store a (bs.take (s.part.reserved - a))
      if s.part.reserved < a + bs.length then s.note 0x5007 .information 0 else s
    | .halted => if s.boot.windowClosed then s.dropHoldWrite else s
    | .reset | .puf | .bist | .training | .align => s

/-- What a BAR2 read answers: the data, and whether the completion carries the EP bit (R65, R126, R317). -/
def bar2Data (s : State) (offset n : Nat) : List Byte × Bool :=
  let zeros := List.replicate n (0 : Byte)
  if !s.bar2Answers then (zeros, false)
  else match s.boot.stage with
    | .windowOpen =>
      let k := min n (holdSize - offset)
      (s.mem.reads (windowBase + offset) k ++ List.replicate (n - k) 0, false)
    | .running =>
      let a := s.bar2Address offset
      let k := min n (s.part.memory - a)
      (s.mem.reads a k ++ List.replicate (n - k) 0, s.mem.poisoned a k)
    | _ => (zeros, false)

end State

/-! ## Meanings -/

/-- A write to BAR4 of the shapes that the PCIe Base specification has for the MSI-X table: 4 or 8 bytes,
aligned (R112). -/
def State.writeBar4Sized (s : State) (offset size : Nat) (value : BitVec 64) : State :=
  let s := s.writeBar4 offset (BitVec.ofNat 32 value.toNat)
  if size = 8 then s.writeBar4 (offset + 4) (BitVec.ofNat 32 (value.toNat / 2 ^ 32)) else s

/-- REGISTER_WRITE: of BAR0 (R116), where the shape test comes first at every offset; of BAR4 (R112, R128); of
configuration space (R110–R113). Poisoned data is not written (R130): a configuration write is not posted, so that it
sets the AER status alone. -/
def execRegisterWrite (target : WriteTarget) (size : Nat) (value : BitVec 64) (enables : BitVec 8) (poisoned : Bool)
    (s : State) : Result :=
  match target with
  | .bar0 offset =>
    if !s.reachable || 0x100_0000 ≤ offset then .next s else
    let s := s.wakeSlack
    if !State.shapeOk offset size enables then .next (s.note 0x5008 .information 0)
    else if poisoned then .next s.dropPoisoned
    else .next (s.writeSized offset size value)
  | .bar4 offset =>
    if !s.bar2Answers then .next s else
    let s := s.wakeSlack
    if poisoned then .next s.dropPoisoned
    else if State.shapeOk offset size enables then .next (s.writeBar4Sized offset size value)
    else .next s
  | .config r =>
    if !s.configAnswers then .next s
    else if poisoned then .next (s.wakeSlack.sendAer .poisonedTlp)
    else .next (s.wakeSlack.writeConfig r (BitVec.ofNat 32 value.toNat))

/-- BOOT_HOLD_WRITE (R65, R66): the BAR2 write of a host that loads the boot hold. -/
def execBootHoldWrite (offset : Nat) (data : List Byte) (s : State) : Result :=
  .next (s.wakeSlack.bar2Write offset data false)

def execBar2Write (offset : Nat) (data : List Byte) (poisoned : Bool) (s : State) : Result :=
  .next (s.wakeSlack.bar2Write offset data poisoned)

/-- BAR2_READ (R65, R115, R126): a read beyond installed memory is logged. -/
def execBar2Read (offset length : Nat) (s : State) : Result :=
  if !s.reachable || !s.inAperture offset length || length = 0 then .next s else
  let s := s.wakeSlack
  let d := s.bar2Data offset length
  let s' := s.send (.readData d.1 d.2)
  if s.bar2Answers && s.running && s.part.memory < s.bar2Address offset + length then
    .next (s'.note 0x5007 .information 0)
  else .next s'

/-- BAR2_RESIZE (R113): one of the nine sizes of R112 is written to the Resizable BAR Control register; it comes
into force when Memory Space Enable is set. -/
def execBar2Resize (log2 : Nat) (s : State) : Result :=
  if s.configAnswers then .next (s.resizeBar2 log2) else .next s

end Sys2Proof.Machine
end

