-- ==== Sys2Proof/Machine/Arith.lean ====
section
/-! DEFINITION. Swell random bits (chapter 13), the quantiser (chapter 11) and the placing of its outputs
(R218). -/

namespace Sys2Proof

/-! ## Tensors and their entries -/

/-- The counter word c2 of a use whose draw index is `d`, in the step of the output (R296). -/
def OutSpec.counter (o : OutSpec) (d : Nat) : Nat := d + o.step * o.drawsPerStep

/-- Is the element type an integer? -/
def ElemType.isInt : ElemType → Bool
  | .i4 | .u4 | .i8 | .u8 | .i16 | .u16 => true
  | _ => false

/-- The global logical index of the output at channel `c` and position `p` of an operation (R255, R300): it does
not depend on how the tensor is divided. -/
def OutSpec.g (o : OutSpec) (c p : Nat) : Nat :=
  o.region.gBase + c * o.region.chanStride + p / o.region.perRow * o.region.rowStride + p % o.region.perRow

/-- The element offset of element `g` (R218, R219). -/
def Layout.offset (l : Layout) (g : Nat) : Nat :=
  match l with
  | .linear => g
  | .blocked b c h w =>
    let (x, y, ch, n) := (g % w, g / w % h, g / (w * h) % c, g / (w * h * c))
    (((n * ((c + b - 1) / b) + ch / b) * h + y) * w + x) * b + ch % b
  | .nhwc c h w =>
    let (x, y, ch, n) := (g % w, g / w % h, g / (w * h) % c, g / (w * h * c))
    ((n * h + y) * w + x) * c + ch

/-- The channel of element `g`: 0 where the tensor has no channels. -/
def Layout.channel (l : Layout) (g : Nat) : Nat :=
  match l with
  | .linear => 0
  | .blocked _ c h w | .nhwc c h w => g / (w * h) % c

/-- The offsets of the channel slots beyond C that lie after the slot of `g`, when `g` is of the last channel
(R218). -/
def Layout.padOffsets (l : Layout) (g : Nat) : List Nat :=
  match l with
  | .blocked b c h w =>
    if g / (w * h) % c = c - 1 then
      (List.range ((c + b - 1) / b * b - c)).map (l.offset g + 1 + ·) else []
  | _ => []

/-- Bytes of an element; 0 for a half byte. -/
def ElemType.bytes : ElemType → Nat
  | .i4 | .u4 => 0
  | .i8 | .u8 | .e4m3 | .e5m2 => 1
  | .i16 | .u16 | .bf16 | .f16 => 2
  | .f32 => 4

/-- The rescale entry of a channel; one entry serves every channel (R252). -/
def OutSpec.entry (o : OutSpec) (chan : Nat) : Rescale :=
  (o.rescale[if o.rescale.length = 1 then 0 else chan]?).getD ⟨0, 0, 0, 0, 0, 0, 0, 0⟩

/-- h of R261 over the entries of a use. -/
def OutSpec.narrow (o : OutSpec) : Nat :=
  o.rescale.foldl (fun h e => min h (min (e.hi - e.zout) (e.zout - e.lo)).toNat) (2 ^ 32)

end Sys2Proof

namespace Sys2Proof.Machine

/-! ## Swell -/

/-- One round of R292 on the four words. -/
def swellRound (ka kb : Word) (x : Word × Word × Word × Word) : Word × Word × Word × Word :=
  let (x0, x1, x2, x3) := x
  let x0 := x0 + x1 + ka
  let x3 := (x3 ^^^ x0).rotateLeft 15
  let x2 := x2 + x3
  let x1 := (x1 ^^^ x2).rotateLeft 11
  let x0 := x0 + x1
  let x3 := (x3 ^^^ x0).rotateLeft 9
  let x2 := x2 + x3 + kb
  let x1 := (x1 ^^^ x2).rotateLeft 6
  (x1, x2, x3, x0)

/-- Swell version 1 (R292): four words from a key and a counter. -/
def swell (k0 k1 c0 c1 c2 c3 : Word) : Word × Word × Word × Word :=
  let (x0, x1, x2, x3) := (List.range 8).foldl (fun x r =>
    swellRound (k0 + BitVec.ofNat 32 r * 0x9E3779B9) (k1 + BitVec.ofNat 32 r * 0x7F4A7C15) x)
    (c0, c1, c2, c3)
  (x0 + c0, x1 + c1, x2 + c2, x3 + c3)

/-- Bits that faults of the Swell unit flip in the evaluation of a group (R304). -/
def TileEnv.swellFlip (k : TileEnv) (e : Nat) : BitVec 128 :=
  k.faults.foldl (fun w f => match f with
    | .swell _ _ g flip => if g = e then w ^^^ flip else w
    | _ => w) 0

/-- The 128-bit result of the evaluation of group `e` under a draw counter word c2 (R293, R295). -/
def TileEnv.evaluation (k : TileEnv) (e c2 : Nat) : Nat :=
  let (o0, o1, o2, o3) := swell (k.seed.extractLsb' 0 32) (k.seed.extractLsb' 32 32)
    (BitVec.ofNat 32 e) (BitVec.ofNat 32 (e / 2 ^ 32)) (BitVec.ofNat 32 c2) k.stream
  (o0.toNat + 2 ^ 32 * o1.toNat + 2 ^ 64 * o2.toNat + 2 ^ 96 * o3.toNat) ^^^ (k.swellFlip e).toNat

/-- The mask bit of element `g` at threshold `t` (R297). -/
def TileEnv.maskBit (k : TileEnv) (g t c2 : Nat) : Bool :=
  k.evaluation (g / 8) c2 / 2 ^ (16 * (g % 8)) % 2 ^ 16 < t

/-- The `n` random bits of element `g` of a rounding use (R299). -/
def TileEnv.roundBits (k : TileEnv) (g n c2 : Nat) : Nat :=
  k.evaluation (g / 4) c2 / 2 ^ (32 * (g % 4)) % 2 ^ n

/-- The exponent of an adaptive tensor: 0 before any state or setting names it (R253, R265). -/
def TileEnv.exp (k : TileEnv) (t : BitVec 16) : Int := ((k.exps.find? (·.1 = t)).map (·.2)).getD 0

/-! ## Rounding (R254, R255) -/

/-- Nearest-even of num ÷ 2^k. -/
def roundEven (num : Int) (k : Nat) : Int := Fp.signed (decide (num < 0)) (divRne num.natAbs (2 ^ k))

/-- num ÷ 2^k rounded by RMODE 0–2. -/
def roundMode (mode : BitVec 2) (num : Int) (k : Nat) : Int :=
  match mode.toNat with
  | 0 => roundEven num k
  | 1 => Fp.signed (decide (num < 0)) ((2 * num.natAbs + 2 ^ k) / 2 ^ (k + 1))
  | _ => Fp.signed (decide (num < 0)) (num.natAbs / 2 ^ k)

/-- ⌊±m × 2^e⌋. -/
def floorFp (neg : Bool) (m : Nat) (e : Int) : Int := Fp.signed neg m * 2 ^ e.toNat / 2 ^ (-e).toNat

/-- Stochastic rounding of p ÷ 2^r for p = ±m × 2^e, with `bits k` the k random bits (R255). -/
def roundStochastic (neg : Bool) (m : Nat) (e : Int) (r : Nat) (bits : Nat → Nat) : Int :=
  let k := min r 24
  (floorFp neg m (e - (r - k : Nat)) + bits k) / 2 ^ k

/-! ## The quantiser (R249–R256) -/

/-- What is delivered for one output: an integer sum, an F32 word, or an element copied as it is. -/
inductive Val where
  | int (v : Int)
  | fp (w : Word)
  | copy (v : Int)
  deriving DecidableEq, Repr

/-- The format of a float output; the quantiser writes F32, BF16 and F16 (R253). -/
def outFmt : ElemType → Fmt
  | .bf16 => .bf16
  | .f16 => .f16
  | _ => .f32

/-- One quantised output: its code or bits, whether it saturated, its magnitude, whether it counts in n, and
whether a NaN reached the quantiser. -/
structure Coded where
  code : Int
  saturated : Bool := false
  mag : Nat := 0
  counted : Bool := true
  nan : Bool := false
  deriving DecidableEq, Repr

/-- The right shift of an output (R253). -/
def outShift (o : OutSpec) (k : TileEnv) (e : Rescale) : Nat :=
  let aOut : Int := if o.adaptiveOut then k.exp o.tensor else 0
  let aIn : Int := match o.tensorIn with | some t => k.exp t | none => 0
  (min (max (31 + (e.shift.toNat : Int) + aOut - aIn) 0) 95).toNat

/-- v of R250 and R253, exactly. -/
def rescaleInput (e : Rescale) (a : Int) : Val → Fp
  | .int v | .copy v => Fp.ofInt (v - e.zw * a + e.bias)
  | .fp w => (f32 w).add (Fmt.f32.decode (e.bias % 2 ^ 32).toNat)

/-- Quantise one output: element `g` of its tensor, with rescale entry `e` and activation sum `a`. -/
def quantise (k : TileEnv) (o : OutSpec) (g : Nat) (e : Rescale) (a : Int) (v : Val) : Coded :=
  let r := outShift o k e
  let c : Coded := match rescaleInput e a v with
    | .nan =>
      if o.type.isInt then { code := e.zout, nan := true } else { code := (outFmt o.type).nan, nan := true }
    | .inf n =>
      if o.type.isInt then { code := if n then e.lo else e.hi, saturated := true, mag := 2 ^ 31 - 1 }
      else { code := (outFmt o.type).encode (.inf n) }
    | .fin n m x =>
      let m := m * e.mult.toNat
      if o.type.isInt then
        let y := (if e.rmode = 3 then
            roundStochastic n m x r (fun b => k.roundBits g b (o.counter o.draw))
          else roundMode e.rmode (Fp.signed n m * 2 ^ x.toNat) (r + (-x).toNat)) + e.zout
        { code := min (max y e.lo) e.hi, saturated := decide (y < e.lo ∨ e.hi < y)
          mag := min (y - e.zout).natAbs (2 ^ 31 - 1) }
      else { code := (outFmt o.type).encode (.fin n m (x - r)) }
  match o.mask with
  | some (t, d) =>
    if k.maskBit g t (o.counter d) then c
    else { c with code := if o.type.isInt then e.zout else 0, saturated := false, mag := 0, counted := false }
  | none => c

/-! ## Outputs -/

/-- One output of an operation: its global logical index and channel, the activation sum of its vector, what
is delivered, and its index in a compare-select mode. -/
structure Item where
  g : Nat
  chan : Nat
  a : Int := 0
  v : Val
  index : Option Nat := none
  deriving DecidableEq, Repr

/-- What the operations of a tile yield: held-back writes, counts per adaptive tensor, clamped accumulators
(0xD001), NaN in the array (0xD002), in the quantiser (0xD004) and in the SFU (0xD008), a non-finite
input of the frequency path (0xD003), final pairs for the Hold (R210), spectra for the Quay store (R245), the
outputs of each operation as its number, the quantiser's code and the delivered 32 bits, and the groups that the Swell
unit evaluated (R304). -/
structure Yield where
  writes : List TileWrite := []
  counts : List AdaptCount := []
  clamped : Nat := 0
  nanArray : Bool := false
  nonFinite : Bool := false
  nanQuant : Bool := false
  nanSfu : Bool := false
  kept : List HoldElem := []
  stored : List (Nat × List Byte) := []
  outs : List (Nat × Int × Nat) := []
  draws : List Nat := []
  deriving DecidableEq, Repr

/-- Merge the counts of a tensor (R260). -/
def mergeCount (l : List AdaptCount) (c : AdaptCount) : List AdaptCount :=
  match l.find? (·.tensor = c.tensor) with
  | none => l ++ [c]
  | some b => l.map fun (x : AdaptCount) => if x.tensor = c.tensor then
      { x with saturated := b.saturated + c.saturated, maxMag := max b.maxMag c.maxMag
               outputs := b.outputs + c.outputs, narrow := min b.narrow c.narrow } else x

def Yield.append (a b : Yield) : Yield :=
  { writes := a.writes ++ b.writes, counts := b.counts.foldl mergeCount a.counts
    clamped := a.clamped + b.clamped, nanArray := a.nanArray || b.nanArray
    nonFinite := a.nonFinite || b.nonFinite, nanQuant := a.nanQuant || b.nanQuant
    nanSfu := a.nanSfu || b.nanSfu, kept := a.kept ++ b.kept, stored := a.stored ++ b.stored
    outs := a.outs ++ b.outs, draws := a.draws ++ b.draws }

/-- The write of one element at an element offset of a tensor (R8, R218; log entry 21). -/
def elemWrite (base : Nat) (t : ElemType) (off : Nat) (code : Int) : TileWrite :=
  if t.bytes = 0 then
    ⟨BitVec.ofNat 64 (base + off / 2), leBytes 1 (code % 16).toNat,
      some ((off % 2 = 0) != Config.i4LowFirst)⟩
  else ⟨BitVec.ofNat 64 (base + t.bytes * off), leBytes t.bytes (code % 2 ^ (8 * t.bytes)).toNat, none⟩

/-- The 32 bits of a delivered value that is written as it is. -/
def Val.raw : Val → Nat
  | .int v | .copy v => (v % 2 ^ 32).toNat
  | .fp w => w.toNat

/-- The write of 32 bits at a place of a raw tensor or of a tensor of indices. -/
def wordWrite (va : BitVec 64) (off v : Nat) : TileWrite := ⟨va + BitVec.ofNat 64 (4 * off), leBytes 4 v, none⟩

/-- The groups that the Swell unit evaluates for one output (R295, R298, R299). -/
def drawsFor (o : OutSpec) (g : Nat) (e : Rescale) (v : Val) : List Nat :=
  match v with
  | .copy _ => []
  | _ => (if o.type.isInt && e.rmode = 3 then [g / 4] else []) ++ (if o.mask.isSome then [g / 8] else [])

/-- Write one output (R218, R253). A copied code is an output of its step like any other (R260). -/
def emitItem (k : TileEnv) (o : OutSpec) (i : Item) : Yield :=
  let off := o.layout.offset i.g
  let pads := o.layout.padOffsets i.g
  let index : List TileWrite := match o.indexVa, i.index with
    | some va, some n => wordWrite va off n :: pads.map (wordWrite va · 0)
    | _, _ => []
  if o.raw then
    { writes := wordWrite o.va off i.v.raw :: pads.map (wordWrite o.va · 0) ++ index
      outs := [(k.op, i.v.raw, i.v.raw)] }
  else
    let e := o.entry i.chan
    let c : Coded := match i.v with
      | .copy v => { code := v, mag := if o.type.isInt then (v - e.zout).natAbs else 0 }
      | v => quantise k o i.g e i.a v
    { writes := elemWrite o.va.toNat o.type off c.code ::
        pads.map (fun p => elemWrite o.va.toNat o.type p (if o.type.isInt then e.zout else 0)) ++ index
      counts := if o.adaptiveOut && c.counted then
          [⟨o.tensor, if c.saturated then 1 else 0, c.mag, 1, 2 ^ 32⟩] else []
      nanQuant := c.nan
      outs := [(k.op, c.code, i.v.raw)]
      draws := drawsFor o i.g e i.v }

/-- Write the outputs of an operation. -/
def emit (k : TileEnv) (o : OutSpec) (is : List Item) : Yield :=
  let y := is.foldl (fun y i => y.append (emitItem k o i)) {}
  if o.adaptiveOut then { y with counts := mergeCount y.counts ⟨o.tensor, 0, 0, 0, o.narrow⟩ } else y

/-- The outputs of a list, in the order of the operation's own positions. -/
def listItems (o : OutSpec) (vs : List Val) : List Item :=
  vs.mapIdx fun j v => { g := o.g 0 j, chan := o.layout.channel (o.g 0 j), v }

/-- A packed mask (R298): the whole byte of each group of eight that holds one of the elements. -/
def emitMask (k : TileEnv) (o : OutSpec) (t count d : Nat) : Yield :=
  let first := o.region.gBase / 8
  let last := (o.region.gBase + count + 7) / 8
  { writes := (List.range (last - first)).map fun i =>
      let e := first + i
      let byte := (List.range 8).foldl (fun b j =>
        if k.maskBit (8 * e + j) t (o.counter d) then b + 2 ^ j else b) 0
      ⟨o.va + BitVec.ofNat 64 e, leBytes 1 byte, none⟩
    draws := (List.range (last - first)).map (first + ·) }

end Sys2Proof.Machine
end

