-- ==== Sys2Proof/Machine/Lanes.lean ====
section
/-! DEFINITION. What the matrix array computes: passes in the lane modes of R190 and R205, window operators,
pooling, resize and re-arrangement (chapters 08–10). -/

namespace Sys2Proof.Machine

/-! ## Elements -/

/-- The value of an element (R186, R189). -/
def elemFp (t : ElemType) (v : Int) : Fp :=
  match t with
  | .e4m3 => decodeE4M3 (v % 256).toNat
  | .e5m2 => Fmt.e5m2.decode (v % 256).toNat
  | .bf16 => Fmt.bf16.decode (v % 65536).toNat
  | .f16 => Fmt.f16.decode (v % 65536).toNat
  | .f32 => Fmt.f32.decode (v % 2 ^ 32).toNat
  | _ => Fp.ofInt v

/-- A zero activation, of either sign (R190). -/
def elemZero (t : ElemType) (v : Int) : Bool := if t.isInt then v = 0 else (elemFp t v).isZero

/-! ## One reduction -/

/-- A term of a reduction: an activation and a weight, `none` for a null slot (R225). -/
abbrev Tap := Int × Option Int

/-- What a column delivers: the value, the index of a compare-select mode, whether the clamp of R188 changed
it, and whether it is a NaN. -/
structure Drained where
  v : Val
  index : Option Nat := none
  clamped : Bool := false
  nan : Bool := false
  deriving DecidableEq, Repr

/-- The infinities of the semiring modes, as delivered (R205, R206). -/
def plusInf : Int := 2 ^ 31 - 1
def minusInf : Int := -(2 ^ 31)

/-- x ⊕ w (R206): `code` is the operand code of the infinity `top`. -/
def semiSum (code top x w : Int) : Int := if x = code ∨ w = code then top else x + w

/-- The contributions of the lanes whose weight is not null, added to a start value (R190, R205, R225). -/
def exactSum (f : Int → Int → Int) (start : Int) (taps : List Tap) : Int :=
  taps.foldl (fun s t => match t.2 with | some w => s + f t.1 w | none => s) start

/-- One bits of an operand byte pair that differ (R207). -/
def hamming (x w : Int) : Int :=
  let d := (x % 256).toNat ^^^ (w % 256).toNat
  ((List.range 8).foldl (fun n i => n + d / 2 ^ i % 2) 0 : Nat)

/-- The clamp at delivery (R188). -/
def clamp32 (v : Int) : Int := min (max v minusInf) plusInf

/-- An exact sum delivered as I32. -/
def drainClamped (v : Int) : Drained := { v := .int (clamp32 v), clamped := clamp32 v != v }

/-- min or max over the semiring sums (R205, R206). -/
def semiFold (isMax : Bool) (start : Int) (taps : List Tap) : Int :=
  let code : Int := if isMax then -128 else 127
  let top := if isMax then minusInf else plusInf
  taps.foldl (fun p t => match t.2 with
    | some w => if isMax then max p (semiSum code top t.1 w) else min p (semiSum code top t.1 w)
    | none => p) start

/-- Compare-select: a candidate replaces the pair only when it is strictly better (R208). `i` is the logical
index of the first tap. -/
def compareSelect (isMax : Bool) : Nat → Int × Nat → List Tap → Int × Nat
  | _, p, [] => p
  | i, p, t :: ts =>
    let p := match t.2 with
      | some w =>
        let c := semiSum (if isMax then -128 else 127) (if isMax then minusInf else plusInf) t.1 w
        if (if isMax then decide (p.1 < c) else decide (c < p.1)) then (c, i) else p
      | none => p
    compareSelect isMax (i + 1) p ts

/-- A still infinite pair delivers index 0xFFFF_FFFF (R208). -/
def drainPair (isMax : Bool) (p : Int × Nat) : Drained :=
  { v := .int p.1
    index := some (if p.1 = (if isMax then minusInf else plusInf) then 0xFFFF_FFFF else p.2) }

/-- The contribution of a lane in an F32 mode (R189, R190, R225): `none` where the lane passes through. -/
def floatTap (xt wt : ElemType) (t : Tap) : Option Word :=
  match t.2 with
  | some w => if elemZero xt t.1 then none else some (toF32 ((elemFp xt t.1).mul (elemFp wt w)))
  | none => none

/-- An F32 accumulation (R189–R191). -/
def drainFloat (xt wt : ElemType) (taps : List Tap) : Drained :=
  let w := canonSum (taps.map (floatTap xt wt))
  { v := .fp w, nan := isNan32 w }

/-- The better of two pairs; equal values keep the lower index (R208). -/
def betterPair (isMax : Bool) (a b : Int × Nat) : Int × Nat :=
  if a.1 = b.1 then (if a.2 ≤ b.2 then a else b)
  else if (if isMax then decide (b.1 < a.1) else decide (a.1 < b.1)) then a else b

/-- The pair that a reduction starts from. -/
def noPair (isMax : Bool) : Int × Nat := (if isMax then minusInf else plusInf, 0xFFFF_FFFF)

/-- A column's own pair combined with the one injected at its north edge, which is a partial pair of other indices
(R208, R209; log entry 123). -/
def withNorth (isMax : Bool) (north : Option (Int × Nat)) (own : Int × Nat) : Int × Nat :=
  match north with
  | some p => betterPair isMax p own
  | none => own

/-- One reduction (R186–R191, R205–R208); `north` is the injected partial sum and index, if any. -/
def reduce (mode : LaneMode) (xt wt : ElemType) (base : Nat) (north : Option (Int × Nat))
    (taps : List Tap) : Drained :=
  let start := (north.map (·.1)).getD 0
  match mode with
  | .mac =>
    if xt.isInt then
      let s := exactSum (· * ·) start taps
      if xt = .i16 || xt = .u16 then { v := .int s } else drainClamped s
    else drainFloat xt wt taps
  | .l1 => drainClamped (exactSum (fun x w => ((x - w).natAbs : Int)) start taps)
  | .l2 => drainClamped (exactSum (fun x w => (x - w) * (x - w)) start taps)
  | .ham => drainClamped (exactSum hamming start taps)
  | .minPlus => { v := .int (semiFold false ((north.map (·.1)).getD plusInf) taps) }
  | .maxPlus => { v := .int (semiFold true ((north.map (·.1)).getD minusInf) taps) }
  | .csMin => drainPair false (withNorth false north (compareSelect false base (noPair false) taps))
  | .csMax => drainPair true (withNorth true north (compareSelect true base (noPair true) taps))

/-! ## Faults of lanes (R197, R198, R213, R214) -/

/-- An error at a tap: what the lane adds too much. -/
abbrev LaneErr := Nat × Int

/-- The error at a tap. -/
def errAt (errs : List LaneErr) (tap : Nat) : Int := (errs.map fun e => if e.1 = tap then e.2 else 0).sum

/-- What a lane adds in the integer modes (R190, R205). -/
def laneTerm (mode : LaneMode) (x w : Int) : Int :=
  match mode with
  | .l1 => ((x - w).natAbs : Int)
  | .l2 => (x - w) * (x - w)
  | .ham => hamming x w
  | _ => x * w

/-- r(v) (R197). -/
def residue (v : Int) : Nat := (v % 7).toNat

/-- The residue that a lane adds, formed from the operands' residues alone (R197, R213): for L1 a comparator gives
the sign, for HAM a lookup the residue of the popcount. -/
def laneResidue (mode : LaneMode) (x w : Int) : Nat :=
  match mode with
  | .l1 => if w ≤ x then (residue x + 7 - residue w) % 7 else (residue w + 7 - residue x) % 7
  | .l2 => let d := (residue x + 7 - residue w) % 7; d * d % 7
  | .ham => residue (hamming x w)
  | _ => residue x * residue w % 7

/-- The residue that a partial sum carries to the drain (R197). -/
def carriedResidue (mode : LaneMode) (start : Int) (taps : List Tap) : Nat :=
  taps.foldl (fun r t => match t.2 with | some w => (r + laneResidue mode t.1 w) % 7 | none => r) (residue start)

/-- The significand of an element. -/
def significand : Fp → Nat
  | .fin _ m _ => m
  | _ => 0

/-- A product whose significand a fault has changed. -/
def skewed (p : Fp) (err : Int) : Fp :=
  match p with
  | .fin n m e => if err = 0 then .fin n m e else .ofIntExp (Fp.signed n m + err) e
  | x => x

/-- The contributions of lanes with errors in an F32 mode. -/
def floatTaps (xt wt : ElemType) (errs : List LaneErr) (taps : List Tap) : List (Option Word) :=
  taps.mapIdx fun i t => match t.2 with
    | some w => if elemZero xt t.1 then none
      else some (toF32 (skewed ((elemFp xt t.1).mul (elemFp wt w)) (errAt errs i)))
    | none => none

/-- The faults of the lanes of one reduction: their errors, and the taps whose compare goes the wrong way. -/
structure LaneFaults where
  errs : List LaneErr := []
  turns : List Nat := []
  deriving DecidableEq, Repr

/-- The semiring sum of tap `i`, an error of its adder included: both comparators of the lane take it (R214). -/
def semiTap (isMax : Bool) (l : LaneFaults) (i : Nat) (x w : Int) : Int :=
  semiSum (if isMax then -128 else 127) (if isMax then minusInf else plusInf) x w + errAt l.errs i

/-- min or max with faults: `i` numbers the first tap. -/
def semiFaulty (isMax : Bool) (l : LaneFaults) : Nat → Int → List Tap → Int
  | _, p, [] => p
  | i, p, t :: ts =>
    let p := match t.2 with
      | some w =>
        let c := semiTap isMax l i t.1 w
        if (if isMax then decide (p < c) else decide (c < p)) != l.turns.contains i then c else p
      | none => p
    semiFaulty isMax l (i + 1) p ts

/-- Compare-select with faults: `i` numbers the first tap, `base` is its logical index. -/
def selectFaulty (isMax : Bool) (l : LaneFaults) (base : Nat) : Nat → Int × Nat → List Tap → Int × Nat
  | _, p, [] => p
  | i, p, t :: ts =>
    let p := match t.2 with
      | some w =>
        let c := semiTap isMax l i t.1 w
        if (if isMax then decide (p.1 < c) else decide (c < p.1)) != l.turns.contains i then (c, base + i) else p
      | none => p
    selectFaulty isMax l base (i + 1) p ts

/-! ## The drain's tree (R191) -/

/-- Put a finished node of 2^level leaves on the stack of pending nodes: nodes of one level merge, the earlier
leaves first. -/
def pushNode {α : Type} (op : α → α → α) : Nat → α → List (Nat × α) → List (Nat × α)
  | level, v, (k, u) :: st => if k = level then pushNode op (level + 1) (op u v) st else (level, v) :: (k, u) :: st
  | level, v, [] => [(level, v)]

/-- The value of leaves that reach the drain in order, by its stack of pending nodes. -/
def drainNodes {α : Type} (op : α → α → α) (zero : α) (ls : List α) : α :=
  match ls.foldl (fun st v => pushNode op 0 v st) [] with
  | [] => zero
  | (_, v) :: st => st.foldl (fun acc n => op n.2 acc) v

/-- Insert a numbered leaf in order. -/
def insertLeaf (l : Nat × Word) : List (Nat × Word) → List (Nat × Word)
  | [] => [l]
  | m :: ms => if l.1 ≤ m.1 then l :: m :: ms else m :: insertLeaf l ms

/-- The sum of a reduction part of whose leaves other passes, Berths or Quays deliver: each takes its place in the
tree by its number, whenever it comes (R191). `first` numbers the first leaf of `own`. -/
def drainLeaves (first : Nat) (own : List (Option Word)) (others : List (Nat × Word)) : Word :=
  let mine := ((leaves own.length own).map (leafSum addRne zero32)).mapIdx fun i v => (first + i, v)
  drainNodes addRne zero32 (((mine ++ others).foldr insertLeaf []).map (·.2))

/-! ## A reduction with its faults -/

/-- One reduction of an operation: its mode, types, the logical index of its first tap, what the north edge injects,
the numbered partial results that others deliver, each with its index, and its taps. -/
structure Reduction where
  mode : LaneMode
  xt : ElemType
  wt : ElemType
  base : Nat := 0
  north : Option (Int × Nat) := none
  others : List (Nat × Int × Int) := []
  taps : List Tap
  deriving DecidableEq, Repr

/-- The partial sum that a reduction starts from. -/
def Reduction.start (r : Reduction) : Int := (r.north.map (·.1)).getD 0

/-- The exact integer sum of its own taps that reaches the drain, errors included. -/
def Reduction.sum (r : Reduction) (errs : List LaneErr) : Int :=
  exactSum (laneTerm r.mode) r.start r.taps + (errs.map (·.2)).sum

/-- The exact sum over all parts of a divided reduction (R188, R209). -/
def Reduction.total (r : Reduction) (errs : List LaneErr) : Int := r.sum errs + (r.others.map (·.2.1)).sum

/-- The minimum or maximum over all parts (R209). -/
def Reduction.extreme (r : Reduction) (isMax : Bool) (l : LaneFaults) : Int :=
  r.others.foldl (fun v o => if isMax then max v o.2.1 else min v o.2.1)
    (semiFaulty isMax l 0 ((r.north.map (·.1)).getD (noPair isMax).1) r.taps)

/-- The pair over all parts: wherever two partial pairs meet, the better one wins (R208). -/
def Reduction.pair (r : Reduction) (isMax : Bool) (l : LaneFaults) : Int × Nat :=
  r.others.foldl (fun p o => betterPair isMax p (o.2.1, o.2.2.toNat))
    (withNorth isMax r.north (selectFaulty isMax l r.base 0 (noPair isMax) r.taps))

/-- What the drain delivers when lanes err and others deliver their parts. -/
def Reduction.drained (r : Reduction) (l : LaneFaults) : Drained :=
  if l = {} && r.others.isEmpty then reduce r.mode r.xt r.wt r.base r.north r.taps else
  match r.mode with
  | .mac =>
    if r.xt.isInt then
      if r.xt = .i16 || r.xt = .u16 then { v := .int (r.total l.errs) } else drainClamped (r.total l.errs)
    else
      let w := drainLeaves (r.base / 64) (floatTaps r.xt r.wt l.errs r.taps)
        (r.others.map fun o => (o.1, BitVec.ofInt 32 o.2.1))
      { v := .fp w, nan := isNan32 w }
  | .l1 | .l2 | .ham => drainClamped (r.total l.errs)
  | .minPlus => { v := .int (r.extreme false l) }
  | .maxPlus => { v := .int (r.extreme true l) }
  | .csMin => drainPair false (r.pair false l)
  | .csMax => drainPair true (r.pair true l)

/-- Does a lane of an F32 mode see that the significand product of its tap is wrong (R197)? -/
def Reduction.productSeen (r : Reduction) (e : LaneErr) : Bool :=
  match r.taps[e.1]? with
  | some (x, some w) =>
    let (m, n) := (significand (elemFp r.xt x), significand (elemFp r.wt w))
    !elemZero r.xt x && residue ((m * n : Nat) + e.2) != residue m * residue n % 7
  | _ => false

/-- Carried and computed residue where they differ at the drain (R197, R213); 7 is the sticky bit. -/
def Reduction.mismatch (r : Reduction) (errs : List LaneErr) : Option (BitVec 3 × BitVec 3) :=
  let (carried, computed) := (carriedResidue r.mode r.start r.taps, residue (r.sum errs))
  match r.mode with
  | .mac =>
    if r.xt.isInt then
      if carried = computed then none else some (BitVec.ofNat 3 carried, BitVec.ofNat 3 computed)
    else if errs.any r.productSeen then some (0, 7) else none
  | .l1 | .l2 | .ham => if carried = computed then none else some (BitVec.ofNat 3 carried, BitVec.ofNat 3 computed)
  | _ => none

/-- A reduction down to the tap of a cell row, with the errors above it (R199). -/
def Reduction.above (r : Reduction) (errs : List LaneErr) (row : Nat) : Reduction × List LaneErr :=
  ({ r with taps := r.taps.take (16 * (row + 1)) }, errs.filter (·.1 < 16 * (row + 1)))

/-- The first cell row at whose tap the residues differ, with both residues (R199). -/
def Reduction.tapMismatch (r : Reduction) (errs : List LaneErr) : Option (Nat × BitVec 3 × BitVec 3) :=
  (List.range ((r.taps.length + 15) / 16)).findSome? fun row =>
    let (part, seen) := r.above errs row
    (part.mismatch seen).map fun p => (row, p.1, p.2)

/-- The faults that strike one output of the operation that runs: an error of a lane adds to what it contributes; a
compare goes the wrong way in the semiring modes alone (R214). -/
def TileEnv.laneFaults (k : TileEnv) (out : Nat) : LaneFaults :=
  { errs := k.faults.filterMap fun f => match f with
      | .lane _ _ op o tap err => if op = k.op && o = out then some (tap, err) else none
      | _ => none
    turns := k.faults.filterMap fun f => match f with
      | .compare _ _ op o tap true => if op = k.op && o = out then some tap else none
      | _ => none }

/-- Does the drain's comparator go wrong at one output of the operation that runs? -/
def TileEnv.selectErr (k : TileEnv) (out : Nat) : Bool :=
  k.faults.any fun f => match f with
    | .select _ _ op o true => op = k.op && o = out
    | _ => false

/-- One output of the operation that runs. -/
def TileEnv.drained (k : TileEnv) (out : Nat) (r : Reduction) : Drained := r.drained (k.laneFaults out)

/-! ## Streams and their skew (R181, R182) -/

/-- Words by which a lane row's stream is displaced in the Hold, and operand intervals by which the staggering
registers of the edge delay it. Columns of injected partial sums are skewed in the same way (log entry 106). -/
def displacement (i : Nat) : Nat := i % 16
def stagger (i : Nat) : Nat := 16 * (i / 16)

/-- What an aligned read of word `w` of the Hold gives lane row `i`: an element of vector w − displacement. -/
def alignedRead (xs : List (List Int)) (w i : Nat) : Option Int :=
  if displacement i ≤ w then (xs[w - displacement i]?).bind (·[i]?) else none

/-- What leaves the edge registers for lane row `i` in operand interval `t`. -/
def edgeOut (xs : List (List Int)) (t i : Nat) : Option Int :=
  if stagger i ≤ t then alignedRead xs (t - stagger i) i else none

/-- The operands with which the lanes work on vector `m`: lane row `i` works on it in operand interval m + i
(R182). -/
def streamed (xs : List (List Int)) (m : Nat) : List Int :=
  (List.range (xs[m]?.getD []).length).filterMap fun i => edgeOut xs (m + i) i

/-! ## A pass and drain select -/

/-- Merge pairs vector by vector; a vector without an earlier pair keeps its own. -/
def mergePairs (isMax : Bool) : List (Int × Nat) → List (Int × Nat) → List (Int × Nat)
  | a :: as, b :: bs => betterPair isMax a b :: mergePairs isMax as bs
  | [], bs => bs
  | as, [] => as

/-- The integer delivered, for the select. -/
def Val.toInt : Val → Int
  | .int v | .copy v => v
  | .fp w => w.toNat

/-- The pair of one vector over its columns (R210); `bad` says at which columns the comparator goes wrong. -/
def selectRow (isMax : Bool) (outIndex : List Nat) (bad : Nat → Bool) (row : List Drained) : List (Int × Nat) :=
  match row.mapIdx fun j d => (d.v.toInt, (outIndex[j]?).getD j, bad j) with
  | [] => []
  | p :: ps => [ps.foldl (fun a b =>
      let won := betterPair isMax a (b.1, b.2.1)
      if b.2.2 then (if won = a then (b.1, b.2.1) else a) else won) (p.1, p.2.1)]

/-- The reduction of vector `m` and column `j` of a pass. -/
def passReduction (mode : LaneMode) (xt wt : ElemType) (xs : List (List Int)) (ws : List (List (Option Int)))
    (inject : List (List Int)) (base : Nat) (leaves : List (Nat × List (List (Int × Int)))) (m j : Nat) : Reduction :=
  let inj := streamed inject m
  { mode, xt, wt, base
    north := (inj[j]?).map fun v => (v, ((inj[ws.length + j]?).getD 0).toNat)
    others := leaves.filterMap fun l => ((l.2[m]?).bind (·[j]?)).map fun v => (l.1, v.1, v.2)
    taps := (streamed xs m).zip ((ws[j]?).getD []) }

/-- The outputs of a pass, vector by vector. -/
def passRows (k : TileEnv) (mode : LaneMode) (xt wt : ElemType) (xs : List (List Int))
    (ws : List (List (Option Int))) (inject : List (List Int)) (base : Nat)
    (leaves : List (Nat × List (List (Int × Int)))) : List (List Drained) :=
  (List.range xs.length).map fun m => (List.range ws.length).map fun j =>
    k.drained (m * ws.length + j) (passReduction mode xt wt xs ws inject base leaves m j)

/-- A[m] of R250 for column `j`, with what the other parts of the reduction carry (R251). -/
def passA (mode : LaneMode) (xt : ElemType) (c : Nat) (inj : Option (List Int)) (x : List Int)
    (leaves : List (Nat × List (List (Int × Int)))) (m j : Nat) : Int :=
  if mode = .mac && xt.isInt then
    x.sum + ((inj.bind (·[c]?)).getD 0) + (leaves.map fun l => (((l.2[m]?).bind (·[j]?)).map (·.2)).getD 0).sum
  else 0

/-- The code at an address of a Hold. -/
def holdCode (hold : List HoldElem) (a : Nat) : Int :=
  ((hold.find? (·.at_ = a)).map (·.code)).getD (Config.holdGarbage a).1

/-- Pairs in a Hold, 32 bits of value and 32 of index each (R210). -/
def heldPairs (hold : List HoldElem) (base m : Nat) : List (Int × Nat) :=
  (List.range m).map fun i => (holdCode hold (base + 16 * i), (holdCode hold (base + 16 * i + 8)).toNat)

/-- The elements that hold final pairs. -/
def pairElems (base : Nat) (ps : List (Int × Nat)) : List HoldElem :=
  (ps.mapIdx fun i p =>
    let a := base + 16 * i
    [⟨a, p.1, (Config.holdGarbage a).2⟩, ⟨a + 8, p.2, (Config.holdGarbage (a + 8)).2⟩]).flatten

/-- Run a pass. `running` are the running pairs of the tile (R210). -/
def runPass (k : TileEnv) (mode : LaneMode) (xt wt : ElemType) (xs : List (List Int))
    (ws : List (List (Option Int))) (inject : List (List Int)) (base : Nat)
    (leaves : List (Nat × List (List (Int × Int)))) (sel : Select) (running : List (Int × Nat)) (o : OutSpec) :
    Yield × List (Int × Nat) :=
  let rows := passRows k mode xt wt xs ws inject base leaves
  let clamped := (rows.map fun r => r.countP (·.clamped)).sum
  let nan := rows.any (·.any (·.nan))
  match sel with
  | .off =>
    let items := (rows.mapIdx fun m r => r.mapIdx fun j d =>
      let g := o.g j m
      ({ g, chan := if o.layout = .linear then j else o.layout.channel g
         a := passA mode xt ws.length inject[m]? ((xs[m]?).getD []) leaves m j, v := d.v, index := d.index } : Item)).flatten
    ({ emit k o items with clamped, nanArray := nan }, running)
  | .on isMax joins runsOn outIndex seed keep =>
    let own := (rows.mapIdx fun m r => selectRow isMax outIndex (fun j => k.selectErr (m * ws.length + j)) r).flatten
    let before := if joins then running else match seed with
      | some a => heldPairs k.hold a xs.length
      | none => []
    let pairs := mergePairs isMax before own
    let kept := match keep with | some a => pairElems a pairs | none => []
    if runsOn then ({ clamped, nanArray := nan, kept }, pairs)
    else
      let items := pairs.mapIdx fun m p =>
        ({ g := o.g 0 m, chan := o.layout.channel (o.g 0 m), v := .int p.1, index := some p.2 } : Item)
      ({ emit k o items with clamped, nanArray := nan, kept }, [])

/-! ## Windows (R216–R229) -/

/-- The output extent (R221), and that of a transposed window: the outputs its taps reach, less the padding
(log entry 22). -/
def outExtent (transposed : Bool) (d : WinDim) : Nat :=
  let span := d.dilation * (d.kernel - 1) + 1
  if transposed then (d.extent - 1) * d.stride + span - d.before - d.after
  else if d.extent + d.before + d.after < span then 0
  else (d.extent + d.before + d.after - span) / d.stride + 1

/-- The input coordinate of a tap, `none` where it reads the padding value (R222, R228). -/
def tapCoord (w : Window) (d : WinDim) (o kk : Nat) : Option Nat :=
  if w.transposed then
    let i : Int := (o : Int) + d.before - kk * d.dilation
    if 0 ≤ i ∧ i % d.stride = 0 ∧ i / d.stride ≤ (d.extent : Int) - 1 then some (i / d.stride).toNat else none
  else
    let i : Int := (o : Int) * d.stride + kk * d.dilation - d.before
    let e : Int := d.extent
    if 0 ≤ i ∧ i ≤ e - 1 then some i.toNat
    else match w.mode with
      | .mirror => some (if i < 0 then -i else 2 * (e - 1) - i).toNat
      | .repeat => some (min (max i 0) (e - 1)).toNat
      | _ => none

/-- Does the tap lie inside the input? -/
def tapInside (d : WinDim) (o kk : Nat) : Bool :=
  d.before ≤ o * d.stride + kk * d.dilation && o * d.stride + kk * d.dilation < d.extent + d.before

/-- The padding value (R222): +0.0 in zero mode of a float type, else the code the window carries. -/
def padValue (w : Window) (xt : ElemType) : Int := if w.mode = .zero && !xt.isInt then 0 else w.padCode

/-- The value a tap reads. -/
def tapValue (w : Window) (xt : ElemType) (chan oy ox ky kx : Nat) : Int :=
  match tapCoord w w.dimH oy ky, tapCoord w w.dimW ox kx with
  | some y, some x => (w.input[(chan * w.dimH.extent + y) * w.dimW.extent + x]?).getD 0
  | _, _ => padValue w xt

/-- The taps of output channel `co` at a position, in the order of k (R216). -/
def convTaps (w : Window) (xt : ElemType) (ws : List (Option Int)) (co oy ox : Nat) : List Tap :=
  let cg := w.channels / w.groups
  let group := co / (w.cOut / w.groups)
  (List.range w.dimH.kernel).flatMap fun ky => (List.range w.dimW.kernel).flatMap fun kx =>
    (List.range cg).map fun c =>
      (tapValue w xt (group * cg + c) oy ox ky kx, (ws[(ky * w.dimW.kernel + kx) * cg + c]?).getD none)

/-- (channel, row, column) in (c, h, w) order. -/
def positions (c h w : Nat) : List (Nat × Nat × Nat) :=
  (List.range c).flatMap fun ch => (List.range h).flatMap fun y => (List.range w).map fun x => (ch, y, x)

/-- Items of values listed in (c, h, w) order of an operation of `h` × `w` positions. -/
def chanItems (o : OutSpec) (h w : Nat) (ds : List (Int × Val × Option Nat)) : List Item :=
  ds.mapIdx fun j d =>
    let g := o.g (j / (h * w)) (j % (h * w))
    { g, chan := if o.layout = .linear then j / (h * w) else o.layout.channel g, a := d.1, v := d.2.1, index := d.2.2 }

/-- The reduction of one output of a window operator. -/
def convReduction (mode : LaneMode) (xt wt : ElemType) (w : Window) (ws : List (List (Option Int)))
    (p : Nat × Nat × Nat) : Reduction :=
  { mode, xt, wt, taps := convTaps w xt ((ws[p.1]?).getD []) p.1 p.2.1 p.2.2 }

/-- The outputs of a window operator, in (c, h, w) order. -/
def convPositions (w : Window) : List (Nat × Nat × Nat) :=
  positions w.cOut (outExtent w.transposed w.dimH) (outExtent w.transposed w.dimW)

/-- Run a window operator on the array. -/
def runConv (k : TileEnv) (mode : LaneMode) (xt wt : ElemType) (w : Window) (ws : List (List (Option Int)))
    (o : OutSpec) : Yield :=
  let rows : List (Int × Drained) := (convPositions w).mapIdx fun out p =>
    let r := convReduction mode xt wt w ws p
    (if mode = LaneMode.mac && xt.isInt then (r.taps.map (·.1)).sum else 0, k.drained out r)
  { emit k o (chanItems o (outExtent w.transposed w.dimH) (outExtent w.transposed w.dimW)
      (rows.map fun (a, d) => (a, d.v, d.index))) with
    clamped := rows.countP (·.2.clamped), nanArray := rows.any (·.2.nan) }

/-- Bits that faults of the SFU flip in an element of the operation that runs (R289). -/
def TileEnv.sfuFlip (k : TileEnv) (elem : Nat) : Word :=
  k.faults.foldl (fun w f => match f with
    | .sfu _ _ _ op e flip => if op = k.op && e = elem then w ^^^ flip else w
    | _ => w) 0

/-- The values that the SFU's lanes return. -/
def TileEnv.sfuValues (k : TileEnv) (vs : List Word) : List Word := vs.mapIdx fun i v => v ^^^ k.sfuFlip i

/-- Write the outputs of an SFU operation over the windows of each channel; a NaN among them is one that the SFU
produced or passed on (R274). -/
def emitWindows (k : TileEnv) (w : Window) (o : OutSpec) (f : Nat → Nat × Nat × Nat → Word) : Yield :=
  let oh := outExtent false w.dimH
  let ow := outExtent false w.dimW
  let vals := k.sfuValues ((positions w.channels oh ow).mapIdx f)
  { emit k o (chanItems o oh ow (vals.map fun v => (0, .fp v, none))) with nanSfu := vals.any isNan32 }

/-- The taps of one channel's window, in the order of k (R230): with `all`, those outside the input too. -/
def windowTaps (xt : ElemType) (w : Window) (all : Bool) (p : Nat × Nat × Nat) : List Int :=
  (List.range w.dimH.kernel).flatMap fun ky => (List.range w.dimW.kernel).filterMap fun kx =>
    if all || (tapInside w.dimH p.2.1 ky && tapInside w.dimW p.2.2 kx) then
      some (tapValue w xt p.1 p.2.1 p.2.2 ky kx)
    else none

/-- Average pooling (R230), one output per channel and position. -/
def runAvgPool (k : TileEnv) (xt : ElemType) (w : Window) (countPad : Bool) (zero : Int) (cn : List Word)
    (o : OutSpec) : Yield :=
  emitWindows k w o fun j p =>
    let taps := windowTaps xt w countPad p
    let f := f32 ((cn[j]?).getD 0)
    if xt.isInt then toF32 ((Fp.ofInt (taps.map (· - zero)).sum).mul f)
    else toF32 ((f32 (canonSum (taps.map fun t =>
      if elemZero xt t then none else some (toF32 (elemFp xt t))))).mul f)

/-! ## Resize and re-arrangement (R231–R233) -/

/-- num ÷ den rounded half to even. -/
def divHalfEven (num : Int) (den : Nat) : Int := Fp.signed (decide (num < 0)) (divRne num.natAbs den)

/-- The nearest source index (R231). -/
def nearest (align : Bool) (e o i : Nat) : Nat :=
  if align then (if o = 1 then 0 else (2 * i * (e - 1) + o - 1) / (2 * (o - 1)))
  else min ((2 * i + 1) * e / (2 * o)) (e - 1)

/-- The bilinear position in sixteenths of a sample (R231). -/
def bilinearPos (align : Bool) (e o i : Nat) : Nat :=
  if align then (if o = 1 then 0 else (divHalfEven (16 * i * (e - 1) : Nat) (o - 1)).toNat)
  else (min (max (divHalfEven (8 * ((2 * i + 1) * e - o : Int)) o) 0) (16 * (e - 1) : Nat)).toNat

/-- The four taps of a bilinear output with their weights in 1/256, and `none` for phase (0, 0) with the sample
that is copied (R232). -/
def bilinearTaps (align : Bool) (input : List Int) (inH inW outH outW : Nat) (p : Nat × Nat × Nat) :
    Int × Option (List (Nat × Int)) :=
  let at_ (y x : Nat) : Int := (input[(p.1 * inH + y) * inW + x]?).getD 0
  let (uy, ux) := (bilinearPos align inH outH p.2.1, bilinearPos align inW outW p.2.2)
  let (y0, x0, py, px) := (uy / 16, ux / 16, uy % 16, ux % 16)
  let (y1, x1) := (min (y0 + 1) (inH - 1), min (x0 + 1) (inW - 1))
  (at_ y0 x0, if py = 0 ∧ px = 0 then none else
    some [((16 - py) * (16 - px), at_ y0 x0), ((16 - py) * px, at_ y0 x1),
      (py * (16 - px), at_ y1 x0), (py * px, at_ y1 x1)])

/-- The reduction of one bilinear output (R232): the weights are w for integer tensors and w ÷ 256, which the
float types hold exactly, for the others; a weight of 0 is a null slot. -/
def bilinearReduction (xt : ElemType) (ts : List (Nat × Int)) : Reduction :=
  let code (w : Nat) : Int := if xt.isInt then w else (outFmt xt).encode (.fin false w (-8))
  { mode := .mac, xt, wt := xt, taps := ts.map fun t => (t.2, if t.1 = 0 then none else some (code t.1)) }

/-- Nearest and bilinear resize. -/
def runResize (k : TileEnv) (xt : ElemType) (bilinear align : Bool) (input : List Int)
    (c inH inW outH outW : Nat) (o : OutSpec) : Yield :=
  let at_ (ch y x : Nat) : Int := (input[(ch * inH + y) * inW + x]?).getD 0
  let vals : List Val := (positions c outH outW).mapIdx fun out p =>
    if !bilinear then .copy (at_ p.1 (nearest align inH outH p.2.1) (nearest align inW outW p.2.2))
    else match bilinearTaps align input inH inW outH outW p with
      | (v, none) => .copy v
      | (_, some ts) => (k.drained out (bilinearReduction xt ts)).v
  { emit k o (chanItems o outH outW (vals.map fun v => (0, v, none))) with
    nanArray := vals.any fun v => match v with | .fp w => isNan32 w | _ => false }

/-- Space-to-depth and its inverse: elements move and are not changed (R233). `c`, `h`, `w` are the input's. -/
def runRearrange (k : TileEnv) (toDepth : Bool) (b c h w : Nat) (input : List Int) (o : OutSpec) : Yield :=
  let at_ (ch y x : Nat) : Int := (input[(ch * h + y) * w + x]?).getD 0
  let vals : List Val :=
    if toDepth then (positions (c * b * b) (h / b) (w / b)).map fun (co, y, x) =>
      .copy (at_ (co % c) (y * b + co / c / b) (x * b + co / c % b))
    else
      let oc := c / (b * b)
      (positions oc (h * b) (w * b)).map fun (ch, y, x) =>
        .copy (at_ (((y % b) * b + x % b) * oc + ch) (y / b) (x / b))
  emit k o (listItems o vals)

end Sys2Proof.Machine
end

