-- ==== Sys2Proof/Machine/Frequency.lean ====
section
/-! DEFINITION. The frequency-domain path (R235–R243): FCONV version 1. -/

namespace Sys2Proof.Machine

/-- cos(2πj/128) for j = 0–32, each correctly rounded to binary32 (R238). -/
def cosTable : List Word := [
  0x3F800000, 0x3F7FB10F, 0x3F7EC46D, 0x3F7D3AAC, 0x3F7B14BE, 0x3F7853F8, 0x3F74FA0B, 0x3F710908,
  0x3F6C835E, 0x3F676BD8, 0x3F61C598, 0x3F5B941A, 0x3F54DB31, 0x3F4D9F02, 0x3F45E403, 0x3F3DAEF9,
  0x3F3504F3, 0x3F2BEB4A, 0x3F226799, 0x3F187FC0, 0x3F0E39DA, 0x3F039C3D, 0x3EF15AEA, 0x3EDAE880,
  0x3EC3EF15, 0x3EAC7CD4, 0x3E94A031, 0x3E78CFCC, 0x3E47C5C2, 0x3E164083, 0x3DC8BD36, 0x3D48FB30,
  0x00000000]

/-- The negative of an F32 word. -/
def neg32 (w : Word) : Word := w ^^^ 0x80000000

/-- cos and sin of 2πj/128 for j below 64. -/
def cos128 (j : Nat) : Word :=
  if j ≤ 32 then (cosTable[j]?).getD 0 else neg32 ((cosTable[64 - j]?).getD 0)
def sin128 (j : Nat) : Word := (cosTable[if j ≤ 32 then 32 - j else j - 32]?).getD 0

/-- A complex F32 value. -/
abbrev Cplx := Word × Word

/-- tw[j] of length `n`, with the sign of the direction (R238). -/
def twiddle (inverse : Bool) (j n : Nat) : Cplx :=
  let s := sin128 (j * (128 / n))
  (cos128 (j * (128 / n)), if inverse then s else neg32 s)

/-- The entries at even and at odd places. -/
def evens {α : Type} : List α → List α
  | [] => []
  | [a] => [a]
  | a :: _ :: l => a :: evens l
def odds {α : Type} : List α → List α
  | [] => []
  | _ :: l => evens l

/-- One butterfly (R238). -/
def butterfly (w a b : Cplx) : Cplx × Cplx :=
  let tr := subRne (mulRne w.1 b.1) (mulRne w.2 b.2)
  let ti := addRne (mulRne w.1 b.2) (mulRne w.2 b.1)
  ((addRne a.1 tr, addRne a.2 ti), (subRne a.1 tr, subRne a.2 ti))

/-- The radix-2 decimation-in-time transform of 2^levels entries (R238). -/
def fft (inverse : Bool) : Nat → List Cplx → List Cplx
  | 0, l => l
  | n + 1, l =>
    let pairs := ((fft inverse n (evens l)).zip (fft inverse n (odds l))).mapIdx fun j p =>
      butterfly (twiddle inverse j (2 ^ (n + 1))) p.1 p.2
    pairs.map (·.1) ++ pairs.map (·.2)

/-- Column `x` of a list of rows. -/
def column (rows : List (List Cplx)) (x : Nat) : List Cplx := rows.map fun r => (r[x]?).getD (0, 0)

/-- Exchange rows and columns of a block `n` columns wide. -/
def columns (rows : List (List Cplx)) (n : Nat) : List (List Cplx) := (List.range n).map (column rows)

/-- Rows of `n` entries. -/
def rowsOf (n : Nat) (l : List Word) : List (List Word) :=
  (List.range (l.length / n)).map fun y => (l.drop (y * n)).take n

/-- Round an F32 word to BF16. -/
def toBf16 (w : Word) : Nat := Fmt.bf16.encode (f32 w)

/-- The half spectrum of a real N × N tile as columns kx = 0 … N/2, each bin in BF16 (R239). -/
def forward2d (levels : Nat) (tile : List Word) : List (List (Nat × Nat)) :=
  let n := 2 ^ levels
  let rows := (rowsOf n tile).map fun r => fft false levels (r.map fun v => (v, (0 : Word)))
  ((columns rows (n / 2 + 1)).map (fft false levels)).map fun c => c.map fun b => (toBf16 b.1, toBf16 b.2)

/-- The inverse of R239 from the product bins, by columns: the real N × N tile by rows. -/
def inverse2d (levels : Nat) (cols : List (List Cplx)) : List (List Word) :=
  let n := 2 ^ levels
  let half := columns (cols.map (fft true levels)) n
  let scale := toF32 (.fin false 1 (-(2 * levels : Int)))
  half.map fun r =>
    let full := (List.range n).map fun x =>
      if x ≤ n / 2 then (r[x]?).getD (0, 0)
      else let c := (r[n - x]?).getD (0, 0); (c.1, neg32 c.2)
    (fft true levels full).map fun b => mulRne b.1 scale

/-! ## The three operations -/

/-- Bits that faults of the transform engine flip in a value of the operation that runs (R246). -/
def TileEnv.transformFlip (k : TileEnv) (elem : Nat) : Word :=
  k.faults.foldl (fun w f => match f with
    | .transform op e flip => if op = k.op && e = elem then w ^^^ flip else w
    | _ => w) 0

/-- The values that the engine returns. -/
def TileEnv.engine (k : TileEnv) (vs : List Word) : List Word := vs.mapIdx fun i v => v ^^^ k.transformFlip i

/-- The valid outputs of a tile in one dimension: N − K + 1 (R236). -/
def validExtent (n : Nat) (d : WinDim) : Nat := n + 1 - d.kernel

/-- A sample of the N × N block at tile (`ty`, `tx`), converted to F32 (R236, R237): `none` of the padded input beyond
its extent, which reads +0.0. -/
def tileSample (n : Nat) (xt : ElemType) (zero : Int) (w : Window) (chan ty tx y x : Nat) : Fp :=
  let py := ty * validExtent n w.dimH + y
  let px := tx * validExtent n w.dimW + x
  if w.dimH.extent + w.dimH.before + w.dimH.after ≤ py ∨ w.dimW.extent + w.dimW.before + w.dimW.after ≤ px then
    Fp.zero false
  else
    let v := tapValue w xt chan py px 0 0
    if xt.isInt then Fp.ofInt (v - zero) else elemFp xt v

/-- The N × N block of a channel, by rows. -/
def tileBlock (n : Nat) (xt : ElemType) (zero : Int) (w : Window) (chan ty tx : Nat) : List Fp :=
  (List.range n).flatMap fun y => (List.range n).map fun x => tileSample n xt zero w chan ty tx y x

/-- The BF16 half spectrum of a block, column by column; a non-finite sample makes every bin NaN (R239, R243). -/
def spectrum (levels : Nat) (block : List Fp) : List (Nat × Nat) :=
  let n := 2 ^ levels
  if block.any fun v => v.isNan || v.isInf then List.replicate (n * (n / 2 + 1)) (Fmt.bf16.nan, Fmt.bf16.nan)
  else (forward2d levels (block.map toF32)).flatten

/-- Write words one after another. -/
def wordWrites (va : BitVec 64) (ws : List Word) : List TileWrite := ws.mapIdx fun i w => wordWrite va i w.toNat

/-- Words for the Quay store, where they have a place there. -/
def wordStores (store : Option Nat) (ws : List Word) : List (Nat × List Byte) :=
  match store with
  | some a => [(a, ws.flatMap fun w => leBytes 4 w.toNat)]
  | none => []

/-- Spectra and products go to companion memory and to the Quay store (R245). -/
def spectrumYield (va : BitVec 64) (store : Option Nat) (ws : List Word) : Yield :=
  { writes := wordWrites va ws, stored := wordStores store ws }

/-- Forward transform (R236–R239, R243). -/
def runForward (k : TileEnv) (n : Nat) (xt : ElemType) (zero : Int) (w : Window) (chan ty tx : Nat)
    (va : BitVec 64) (store : Option Nat) : Yield :=
  let block := tileBlock n xt zero w chan ty tx
  let bins := (spectrum (Nat.log2 n) block).map fun b => BitVec.ofNat 32 (b.1 + 2 ^ 16 * b.2)
  { spectrumYield va store (k.engine bins) with nonFinite := block.any fun v => v.isNan || v.isInf }

/-- The activation vector of a tile's bins: index 2c carries X_c.re and 2c + 1 carries X_c.im (R241). -/
def binVector (xs : List Bin16) : List Int := xs.flatMap fun x => [(x.1.toNat : Int), x.2.toNat]

/-- The weight column of the real or the imaginary output of a channel (R241). -/
def binColumn (im : Bool) (hs : List Bin16) : List (Option Int) :=
  hs.flatMap fun h =>
    if im then [some (h.2.toNat : Int), some (h.1.toNat : Int)]
    else [some (h.1.toNat : Int), some ((h.2 ^^^ 0x8000).toNat : Int)]

/-- The weight set of a bin: a real and an imaginary column for each output channel (R241). -/
def binWeights (hs : List (List Bin16)) : List (List (Option Int)) :=
  hs.flatMap fun h => [binColumn false h, binColumn true h]

/-- The reduction of one part of a product bin (R241). -/
def binReduction (im : Bool) (xs hs : List Bin16) : Reduction :=
  { mode := .mac, xt := .bf16, wt := .bf16, taps := (binVector xs).zip (binColumn im hs) }

/-- The reductions of a list of bins: bin by bin, tile by tile, output channel by output channel, real part first. -/
def productReductions (bins : List (List (List Bin16) × List (List Bin16))) : List Reduction :=
  bins.flatMap fun (xs, hs) => xs.flatMap fun x => hs.flatMap fun h => [binReduction false x h, binReduction true x h]

/-- Products of bins (R241): the array logs the NaN of a dense layer as its own (R189); the engine's complex
multiplier computes the same value. -/
def runProduct (k : TileEnv) (depthwise : Bool) (bins : List (List (List Bin16) × List (List Bin16)))
    (va : BitVec 64) (store : Option Nat) : Yield :=
  let word (d : Drained) : Word := match d.v with | .fp w => w | _ => zero32
  let rs := productReductions bins
  if depthwise then spectrumYield va store (k.engine (rs.map fun r => word (r.drained {})))
  else
    let ds := rs.mapIdx fun i r => k.drained i r
    { spectrumYield va store (ds.map word) with nanArray := ds.any (·.nan) }

/-- Inverse transform and the valid outputs of the tile that lie within the layer's extent (R236, R239). -/
def runInverse (k : TileEnv) (n : Nat) (w : Window) (ty tx : Nat) (bins : List Bin32) (o : OutSpec) : Yield :=
  let cols := (List.range (n / 2 + 1)).map fun x => (bins.drop (x * n)).take n
  let rows := rowsOf n (k.engine (inverse2d (Nat.log2 n) cols).flatten)
  let (vh, vw) := (validExtent n w.dimH, validExtent n w.dimW)
  let vals := (rows.take (min vh (outExtent false w.dimH - ty * vh))).flatMap fun r =>
    r.take (min vw (outExtent false w.dimW - tx * vw))
  emit k o (listItems o (vals.map .fp))

end Sys2Proof.Machine
end

