-- ==== Sys2Proof/Machine/SfuExact.lean ====
section
/-! DEFINITION. The exact results of the SFU functions, as enclosures in fixed point (R271). An integer v stands for
v ÷ 2^512; every operation rounds the ends of an enclosure outward. -/

namespace Sys2Proof.Machine

/-- Fraction bits of the fixed-point form. -/
def fixBits : Nat := 512

/-- 1 in fixed point. -/
def fixOne : Int := 2 ^ fixBits

/-- An enclosure: the exact value lies between the two. -/
abbrev Encl := Int × Int

/-- A finite value in fixed point; F32 values are exact. -/
def toFix : Fp → Int
  | .fin n m e => floorDiv2 (Fp.signed n m) (e + fixBits)
  | .inf n => if n then -(2 ^ 128 * fixOne) else 2 ^ 128 * fixOne
  | .nan => 0
where
  floorDiv2 (v : Int) (e : Int) : Int := v * 2 ^ e.toNat / 2 ^ (-e).toNat

/-- A fixed-point number as a value. -/
def ofFix (v : Int) : Fp := .ofIntExp v (-(fixBits : Int))

/-- The enclosure of one number. -/
def Encl.exact (v : Int) : Encl := (v, v)

/-- Division rounded up. -/
def ceilDiv (a b : Int) : Int := -((-a) / b)

def Encl.add (a b : Encl) : Encl := (a.1 + b.1, a.2 + b.2)
def Encl.neg (a : Encl) : Encl := (-a.2, -a.1)
def Encl.sub (a b : Encl) : Encl := a.add b.neg

/-- Product. -/
def Encl.mul (a b : Encl) : Encl :=
  let p := [a.1 * b.1, a.1 * b.2, a.2 * b.1, a.2 * b.2]
  ((p.foldl min (a.1 * b.1)) / fixOne, ceilDiv (p.foldl max (a.1 * b.1)) fixOne)

/-- Division by a positive integer. -/
def Encl.divNat (a : Encl) (n : Nat) : Encl := (a.1 / n, ceilDiv a.2 n)

/-- Division by a positive enclosure. -/
def Encl.div (a b : Encl) : Encl :=
  let q (x y : Int) : Encl := (x * fixOne / y, ceilDiv (x * fixOne) y)
  (min (q a.1 b.1).1 (q a.1 b.2).1, max (q a.2 b.1).2 (q a.2 b.2).2)

/-- ⌊√n⌋ for n below 2^2048. -/
def isqrt (n : Nat) : Nat :=
  (List.range 1024).reverse.foldl (fun r i => if (r + 2 ^ i) * (r + 2 ^ i) ≤ n then r + 2 ^ i else r) 0

/-- Square root of a number that is not negative. -/
def Encl.sqrt (v : Int) : Encl :=
  let r := isqrt (v * fixOne).toNat
  (r, r + 1)

/-- The sum of a series of `n` terms after a first one, each the term before it times `step i`; `rest` bounds the
terms left out. -/
def Encl.series (n : Nat) (first : Encl) (step : Nat → Encl → Encl) (rest : Int) : Encl :=
  let s := (List.range n).foldl (fun (a : Encl × Encl) i => let t := step i a.2; (a.1.add t, t)) (first, first)
  (s.1.1 - rest, s.1.2 + rest)

/-- ln 2 = Σ 1 ÷ (k 2^k). -/
def ln2 : Encl :=
  let s := (List.range 520).foldl (fun (a : Encl) i =>
    a.add ((Encl.exact fixOne).divNat ((i + 1) * 2 ^ (i + 1)))) (0, 0)
  (s.1, s.2 + 1)

/-- atan(1 ÷ n). -/
def atanInv (n : Nat) : Encl :=
  let s := (List.range 240).foldl (fun (a : Encl) i =>
    let t := (Encl.exact fixOne).divNat ((2 * i + 1) * n ^ (2 * i + 1))
    if i % 2 = 0 then a.add t else a.sub t) (0, 0)
  (s.1 - 1, s.2 + 1)

/-- π = 16 atan(1/5) − 4 atan(1/239). -/
def pi : Encl := ((Encl.exact (16 * fixOne)).mul (atanInv 5)).sub ((Encl.exact (4 * fixOne)).mul (atanInv 239))

/-- e^v: beyond ±400 every result is that of an overflow or of an underflow. -/
def expAt (v : Int) : Encl :=
  let v := min (max v (-400 * fixOne)) (400 * fixOne)
  let n := v * fixOne / (ln2.1 * fixOne)
  let r := (Encl.exact v).sub ((Encl.exact (n * fixOne)).mul ln2)
  let s := Encl.series 110 (Encl.exact fixOne) (fun i t => (t.mul r).divNat (i + 1)) 1
  (s.1 * 2 ^ n.toNat / 2 ^ (-n).toNat, ceilDiv (s.2 * 2 ^ n.toNat) (2 ^ (-n).toNat))

/-- e^x of an enclosure. -/
def Encl.exp (a : Encl) : Encl := (max 0 (expAt a.1).1, (expAt a.2).2)

/-- ln v of a positive number: v = 2^e·m, and ln m = 2 atanh((m − 1) ÷ (m + 1)). -/
def lnAt (v : Int) : Encl :=
  let e : Int := (Nat.log2 v.toNat : Int) - fixBits
  let m : Encl := (v * 2 ^ (-e).toNat / 2 ^ e.toNat, ceilDiv (v * 2 ^ (-e).toNat) (2 ^ e.toNat))
  let z := (m.sub (Encl.exact fixOne)).div (m.add (Encl.exact fixOne))
  let z2 := z.mul z
  let s := (List.range 170).foldl (fun (a : Encl × Encl) i =>
    let p := a.2.mul z2; (a.1.add (p.divNat (2 * i + 3)), p)) (z, z)
  (((Encl.exact (2 * fixOne)).mul (s.1.1, s.1.2 + 1)).add ((Encl.exact (e * fixOne)).mul ln2))

/-- ln of a positive enclosure. -/
def Encl.ln (a : Encl) : Encl := ((lnAt a.1).1, (lnAt a.2).2)

/-- 1 ÷ (1 + e^−x). -/
def Encl.sigmoid (a : Encl) : Encl :=
  if a.1 < 0 then let y := a.exp; y.div (y.add (Encl.exact fixOne))
  else (Encl.exact fixOne).div (a.neg.exp.add (Encl.exact fixOne))

/-- tanh of a number that is not negative. -/
def tanhAt (v : Int) : Encl :=
  let y := (Encl.exact (-2 * v)).exp
  ((Encl.exact fixOne).sub y).div ((Encl.exact fixOne).add y)

/-- erf of a number that is not negative, by its Taylor series up to 12. -/
def erfAt (v : Encl) : Encl :=
  if 12 * fixOne < v.2 then (fixOne - 2 ^ (fixBits - 200), fixOne) else
  let v2 := v.mul v
  let s := (List.range 900).foldl (fun (a : Encl × Encl) i =>
    let p := (a.2.mul v2).divNat (i + 1)
    (if i % 2 = 0 then a.1.sub (p.divNat (2 * i + 3)) else a.1.add (p.divNat (2 * i + 3)), p)) (v, v)
  ((Encl.exact (2 * fixOne)).mul (s.1.1 - 1, s.1.2 + 1)).div ((Encl.sqrt pi.1).1, (Encl.sqrt pi.2).2)

/-- An odd function from its values at numbers that are not negative. -/
def oddOf (f : Int → Encl) (v : Int) : Encl := if v < 0 then (f (-v)).neg else f v

/-- Φ(v) = (1 + erf(v ÷ √2)) ÷ 2. -/
def phiAt (v : Int) : Encl :=
  let z := (Encl.exact v.natAbs).div (Encl.sqrt (2 * fixOne))
  let e := if v < 0 then (erfAt z).neg else erfAt z
  ((Encl.exact fixOne).add e).divNat 2

/-- sin and cos of an enclosure within ±π/4. -/
def sinCosAt (r : Encl) : Encl × Encl :=
  let r2 := (r.mul r).neg
  (Encl.series 70 r (fun i t => (t.mul r2).divNat ((2 * i + 2) * (2 * i + 3))) 1,
   Encl.series 70 (Encl.exact fixOne) (fun i t => (t.mul r2).divNat ((2 * i + 1) * (2 * i + 2))) 1)

/-- The multiple k of π/2 nearest a number, and what is left of the number (R275). -/
def quadrant (v : Int) : Int × Encl :=
  let k := (4 * v + pi.1) / (2 * pi.1)
  (k, (Encl.exact v).sub ((Encl.exact (k * fixOne)).mul (pi.divNat 2)))

/-- The exact result of a function on a finite input of its domain (R271). -/
def sfuExact (f : SfuFn) (x : Fp) : Encl :=
  let v := toFix x
  let e := Encl.exact v
  match f with
  | .exp2 => (e.mul ln2).exp
  | .exp => e.exp
  | .log2 => (lnAt v).div ln2
  | .log => lnAt v
  | .rcp => oddOf (fun v => (Encl.exact fixOne).div (Encl.exact v)) v
  | .sqrt => Encl.sqrt v
  | .rsqrt => (Encl.exact fixOne).div (Encl.sqrt v)
  | .tanh => oddOf tanhAt v
  | .sigmoid => e.sigmoid
  | .geluErf =>
    -- from −17 downwards the result lies above −2^-200 and below 0
    if v < -17 * fixOne then (-(2 ^ (fixBits - 200)), 0) else e.mul (phiAt v)
  | .geluTanh =>
    -- 0.5 x (1 + tanh u) = x sigmoid(2u)
    let cube := (e.mul (e.mul e)).mul ((Encl.exact (44715 * fixOne)).divNat 1000000)
    let root := (Encl.sqrt ((Encl.exact (2 * fixOne)).div pi).1).1
    let u := Encl.mul (root, root + 4) (e.add cube)
    e.mul (((Encl.exact (2 * fixOne)).mul u).sigmoid)
  | .silu => e.mul e.sigmoid
  | .softplus =>
    let tail := ((Encl.exact (-(v.natAbs : Int))).exp.add (Encl.exact fixOne)).ln
    if v < 0 then tail else e.add tail
  | .erf => oddOf (fun v => erfAt (Encl.exact v)) v
  | .sin =>
    let (k, r) := quadrant v
    let (s, c) := sinCosAt r
    match (k % 4).toNat with | 0 => s | 1 => c | 2 => s.neg | _ => c.neg
  | .cos =>
    let (k, r) := quadrant v
    let (s, c) := sinCosAt r
    match (k % 4).toNat with | 0 => c | 1 => s.neg | 2 => c.neg | _ => s

/-- The bounds of R271: units in the last place, and the power of two of the absolute figure. -/
def sfuBound (g1 : Bool) : SfuFn → Nat × Option Nat
  | .exp2 => (if g1 then 3 else 1, none)
  | .rcp | .sqrt => (if g1 then 2 else 1, none)
  | .rsqrt => (if g1 then 3 else 2, none)
  | .exp | .log2 | .log | .tanh | .erf => (if g1 then 4 else 2, none)
  | .sigmoid => (if g1 then 4 else 2, some 126)
  | .geluErf | .silu => (if g1 then 5 else 3, some 126)
  | .geluTanh => (3, some 126)
  | .softplus => (2, none)
  | .sin | .cos => (2, some 44)

/-- One unit in the last place of the F32 neighbourhood of a number. -/
def ulpOf (v : Int) : Int := 2 ^ max (Nat.log2 v.natAbs - 23) (fixBits - 149)

/-- What R271 lets the result of a finite input be. -/
def sfuAllowed (g1 : Bool) (f : SfuFn) (x : Fp) : Encl :=
  let (u, a) := sfuBound g1 f
  let e := sfuExact f x
  let margin (v : Int) : Int := max (u * ulpOf v) (match a with | some n => 2 ^ (fixBits - n) | none => 0)
  (e.1 - margin e.1, e.2 + margin e.2)

/-- The next F32 above a number that is not NaN, and the next below. -/
def above32 (w : Word) : Word := if w = 0x80000000 then 1 else if w.msb then w - 1 else w + 1
def below32 (w : Word) : Word := if w = 0 then 0x80000001 else if w.msb then w + 1 else w - 1

/-- The next F32 input above one: +0 follows −0. -/
def succ32 (w : Word) : Word := if w = 0x80000000 then 0 else above32 w

/-- The least F32 not below a number, the greatest not above it, and the nearest. -/
def ceil32 (v : Int) : Word := let w := toF32 (ofFix v); if toFix (f32 w) < v then above32 w else w
def floor32 (v : Int) : Word := let w := toF32 (ofFix v); if v < toFix (f32 w) then below32 w else w

/-- A result brought within what is allowed. -/
def holdWithin (a : Encl) (w : Word) : Word :=
  if toFix (f32 w) < a.1 then ceil32 a.1 else if a.2 < toFix (f32 w) then floor32 a.2 else w

end Sys2Proof.Machine
end

