-- ==== Sys2Proof/Machine/Sfu.lean ====
section
/-! DEFINITION. The special-function unit (chapter 12). A function is evaluated on its segments, whose coefficients
are in published references and not in this spec: they are free values of Config, and the results are held to the
bounds, the ranges and the monotony that the rules state (log entry 13). -/

namespace Sys2Proof.Machine

/-! ## Special values and seams -/

/-- Results that R273 and R274 fix; exp of a zero is 1, since some e[i] of every softmax row is 1 (R282). -/
def sfuSpecial (f : SfuFn) (w : Word) : Option Word :=
  match f, f32 w with
  | _, .nan => some nan32
  | .exp2, .inf n | .exp, .inf n | .softplus, .inf n => some (if n then zero32 else posInf32)
  | .exp, .fin _ 0 _ => some one32
  | .log2, .fin _ 0 _ | .log, .fin _ 0 _ => some negInf32
  | .log2, .inf n | .log, .inf n | .sqrt, .inf n => some (if n then nan32 else posInf32)
  | .log2, .fin true _ _ | .log, .fin true _ _ => some nan32
  | .rcp, .fin n 0 _ => some (if n then negInf32 else posInf32)
  | .rcp, .inf n => some (if n then 0x80000000 else zero32)
  | .sqrt, .fin _ 0 _ => some w
  | .sqrt, .fin true _ _ => some nan32
  | .rsqrt, .fin n 0 _ => some (if n then negInf32 else posInf32)
  | .rsqrt, .fin true _ _ => some nan32
  | .rsqrt, .inf n => some (if n then nan32 else zero32)
  | .tanh, .inf n | .erf, .inf n => some (if n then 0xBF800000 else one32)
  | .tanh, .fin _ 0 _ | .erf, .fin _ 0 _ => some w
  | .sigmoid, .inf n => some (if n then zero32 else one32)
  | .geluErf, .inf n | .geluTanh, .inf n | .silu, .inf n => some (if n then 0x80000000 else posInf32)
  | .geluErf, .fin true 0 _ | .geluTanh, .fin true 0 _ | .silu, .fin true 0 _ => some w
  | .sin, .inf _ | .cos, .inf _ => some nan32
  | _, _ => none

/-- The seams of R279: the result at the previous input and at the seam, when `s` is a seam input. -/
def g1Seam (f : SfuFn) (s : Word) : Option (Word × Word) :=
  let scale (n : Int) : Word := BitVec.ofInt 32 (n * 2 ^ 23)
  let fixed (at_ prev seam : Word) : Option (Word × Word) := if s = at_ then some (prev, seam) else none
  match f with
  | .exp2 => match f32 s with
    | .fin neg m e =>
      -- twice the input, when it is an odd integer
      let d : Nat := m * 2 ^ (e + 1).toNat
      let k : Nat := 2 ^ (-(e + 1)).toNat
      let n : Int := (Fp.signed neg (d / k : Nat) - 1) / 2
      if d % k = 0 ∧ d / k % 2 = 1 ∧ -126 ≤ n ∧ n ≤ 127 then
        some (0x3FB504F3 + scale n, 0x3FB504F2 + scale n)
      else none
    | _ => none
  | .rsqrt =>
    let x : Nat := s.toNat / 2 ^ 23
    if s.toNat % 2 ^ 23 = 0 ∧ 0 < x ∧ x < 255 ∧ x % 2 = 0 then
      let k : Int := ((x : Int) - 128) / 2
      some (0x3F3504F3 - scale k, 0x3F3504F4 - scale k)
    else none
  | .log2 => fixed 0x3FC00000 0x3F15C01A 0x3F15C019
  | .tanh => fixed 0x3F400000 0x3F22991F 0x3F22991E
  | .sigmoid => fixed 0x40000000 0x3F617BEB 0x3F617BEA
  | .geluErf => fixed 0x3F800000 0x3F57625E 0x3F57625D
  | _ => none

/-- x·log2(e) as the exp of G1 mode rounds it. -/
def log2e32 (w : Word) : Word := toF32 (ofFix ((Encl.exact (toFix (f32 w))).div ln2).1)

/-- The seam of exp that an input meets: x·log2(e) rounds onto ±0.5. At the other seams of exp2 the growth of exp from
one input to the next outweighs the step. -/
def expSeam (w : Word) : Option (Word × Word) :=
  if log2e32 w = 0x3F000000 ∨ log2e32 w = 0xBF000000 then g1Seam .exp2 (log2e32 w) else none

/-- The result that R279 states for an input at a seam or just below one: exp inherits those of exp2, and SiLU those of
sigmoid times x, which absorbs the step. -/
def g1Known (f : SfuFn) (w : Word) : Option Word :=
  let near (seam : Word → Option (Word × Word)) : Option Word :=
    match seam w with
    | some (_, r) => some r
    | none => (seam (succ32 w)).map (·.1)
  match f with
  | .exp => near expSeam
  | .silu => (near (g1Seam .sigmoid)).map (mulRne w)
  | f => near (g1Seam f)

/-! ## Reduction and segments (R275, R278) -/

/-- What reduce and segment give for an input: the segment, t = u − start, and the exact factor and term with which
reconstruct makes the result of the cubic's value (R276); `before` is the segment before it and the t there of the
largest F32 input below the start, where there is a seam clamp. -/
structure Reduced where
  seg : SfuSeg
  t : Fp
  factor : Fp := .fin false 1 0
  term : Fp := Fp.zero false
  before : Option (SfuSeg × Fp) := none
  deriving DecidableEq, Repr

/-- t at the largest F32 input below a segment's start, in the segment before it, which starts at `prev`. -/
def edgeT (start prev : Int) : Fp := ofFix (toFix (f32 (below32 (ceil32 start))) - prev)

/-- The start of segment `j` of `n` above `base`. -/
def segStart (n : Nat) (base : Int) (j : Nat) : Int := base + j * fixOne / n

/-- Segment and t of a fixed-point u in [0, 1) or [1, 2) above `base`, with `n` segments. -/
def uniformSeg (n : Nat) (octave : Int) (base u : Int) : Reduced :=
  let j := ((u - base) * n / fixOne).toNat
  { seg := { neg := false, octave, index := j }, t := ofFix (u - segStart n base j)
    before := if j = 0 then none
      else some ({ neg := false, octave, index := j - 1 }, edgeT (segStart n base j) (segStart n base (j - 1))) }

/-- x = 2^e·m with m in [1, 2), in fixed point, for a positive number. -/
def octaveOf (v : Int) : Int × Int :=
  let e : Int := (Nat.log2 v.toNat : Int) - fixBits
  (e, v * 2 ^ (-e).toNat / 2 ^ e.toNat)

/-- The segment of m in [1, 4), the exponent made even: `n` to each of the two octaves. -/
def evenSeg (n : Nat) (e m : Int) : Reduced :=
  let r := uniformSeg n 0 fixOne m
  if e % 2 = 0 then r else
  let j := r.seg.index
  let start := 2 * segStart n fixOne j
  { r with
    seg := { r.seg with octave := 1 }, t := r.t.mul (.fin false 2 0)
    before := some (if j = 0 then
        ({ neg := false, octave := 0, index := n - 1 }, edgeT start (segStart n fixOne (n - 1)))
      else ({ neg := false, octave := 1, index := j - 1 }, edgeT start (2 * segStart n fixOne (j - 1)))) }

/-- The turning point of R277: the stated figure, to the four places that the manual gives. -/
def sfuTurn (f : SfuFn) : Word :=
  let figure : Int := match f with | .geluErf => -7518 | .geluTanh => -7520 | _ => -12785
  let v := toFix (f32 (Config.sfuTurn f)) * 10000
  if (figure - 1) * fixOne < v ∧ v < (figure + 1) * fixOne then Config.sfuTurn f
  else toF32 (ofFix (figure * fixOne / 10000))

/-- The F32 nearest the exact minimum, where the stated figure lies apart from it: −0.75246 for the tanh form, whose
stated turning point is −0.7520 (log entry 13). -/
def sfuMin (f : SfuFn) : Word := if f = .geluTanh then 0xBF40A150 else sfuTurn f

/-- Has a function a turning point? -/
def turns : SfuFn → Bool
  | .geluErf | .geluTanh | .silu => true
  | _ => false

/-- The segments of a sign of a function without reduction (R275), by magnitude, with the seam of its own that t* is
(R277): the segment that holds t* ends there, and another starts. -/
def octaveSeg (f : SfuFn) (neg : Bool) (lo e m v : Int) : Reduced :=
  let back (e a : Int) : Int := a * 2 ^ e.toNat / 2 ^ (-e).toNat
  let startOf (e : Int) (j : Nat) : Int := back e (segStart 16 fixOne j)
  let j := ((m - fixOne) * 16 / fixOne).toNat
  let turn := (toFix (f32 (sfuTurn f))).natAbs
  let holds (start next : Int) : Bool := turns f && neg && start < turn && (turn : Int) < next
  let sign (t : Fp) : Fp := if neg then t.neg else t
  let seg : SfuSeg := { neg, octave := e, index := j }
  let start := startOf e j
  let next := startOf e (j + 1)
  if holds start next && (turn : Int) ≤ v then
    { seg := { seg with past := true }, t := sign (ofFix (v - turn)), before := some (seg, sign (edgeT turn start)) }
  else
    let (pe, pj) := if j = 0 then (e - 1, 15) else (e, j - 1)
    let prev : SfuSeg := { neg, octave := pe, index := pj }
    let from_ := startOf pe pj
    { seg, t := sign (ofFix (v - start))
      before := if j = 0 ∧ e = lo then none
        else if holds from_ start then some ({ prev with past := true }, sign (edgeT start turn))
        else some (prev, sign (edgeT start from_)) }

/-- Reduce an input (R275), with `n` segments to an octave or to a reduced interval of exp2; `none` outside the table
range of a function without reduction. -/
def sfuReduce (g1 : Bool) (f : SfuFn) (x : Fp) : Option Reduced :=
  let n : Nat := if g1 then 32 else 16
  let v := toFix x
  let scaled (p : Int) : Reduced :=
    -- beyond ±1000 the result overflows or underflows all the same
    { uniformSeg n 0 0 (p % fixOne) with factor := .fin false 1 (max (min (p / fixOne) 1000) (-1000)) }
  match f with
  | .exp2 => some (scaled v)
  | .exp =>
    -- x·log2(e) with a 48-bit product
    let p := ((Encl.exact v).div ln2).1
    let (k, q) := roundTo 48 none p.natAbs 1 (-(fixBits : Int))
    some (scaled (toFix (.fin (decide (p < 0)) k q)))
  | .log2 =>
    let (e, m) := octaveOf v
    some { uniformSeg n 0 fixOne m with term := .ofInt e }
  | .log =>
    let (e, m) := octaveOf v
    some { uniformSeg n 0 fixOne m with term := ofFix (e * ln2.1) }
  | .rcp =>
    let (e, m) := octaveOf v.natAbs
    some { uniformSeg n 0 fixOne m with factor := .fin (decide (v < 0)) 1 (-e) }
  | .sqrt =>
    let (e, m) := octaveOf v
    some { evenSeg n e m with factor := .fin false 1 (e / 2) }
  | .rsqrt =>
    let (e, m) := octaveOf v
    some { evenSeg n e m with factor := .fin false 1 (-(e / 2)) }
  | .sin | .cos =>
    let (k, r) := quadrant v
    let k := k + if f = .cos then 1 else 0
    let startOf (j : Nat) : Int := j * pi.1 / 64 - pi.1 / 4
    let j := ((r.1 + pi.1 / 4) * 64 / pi.1).toNat
    let seg : SfuSeg := { neg := k % 2 = 1, octave := 0, index := j }
    some { seg, t := ofFix (r.1 - startOf j), factor := .fin (decide (2 ≤ k % 4)) 1 0
           before := if j = 0 then none
             else some ({ seg with index := j - 1 }, edgeT (startOf j) (startOf (j - 1))) }
  | _ =>
    let (e, m) := octaveOf v.natAbs
    let neg := decide (v < 0)
    let sign (t : Fp) : Fp := if neg then t.neg else t
    if g1 then
      -- 32 segments of the whole range
      let top := Config.sfuG1Top f
      if v = 0 ∨ top ≤ e then none else
      let u := v.natAbs * 2 ^ (-top).toNat / 2 ^ top.toNat
      let j := (u * 32 / fixOne).toNat
      some { seg := { neg, octave := top, index := j }, t := sign (ofFix (v.natAbs - j * fixOne * 2 ^ top.toNat / 2 ^ (-top).toNat / 32)) }
    else
      let (lo, hi) := Config.sfuOctaves f neg
      if v = 0 ∨ e < lo ∨ hi ≤ e then none else some (octaveSeg f neg lo e m v.natAbs)

/-! ## Evaluation (R276, R278) -/

/-- One step of Horner's rule with a single rounding. -/
def fmaAt (y : Word) (t : Fp) (c : Word) : Word := toF32 (((f32 y).mul t).add (f32 c))

/-- The cubic of a segment. -/
def cubic (c : SfuCoeff) (t : Fp) : Word := fmaAt (fmaAt (fmaAt c.c3 t c.c2) t c.c1) t c.c0

/-- The seam clamp: the value is held to that of the segment before at the largest F32 input below the start. -/
def seamClamp (f : SfuFn) (r : Reduced) (c : SfuCoeff) (y : Word) : Word :=
  match r.before with
  | none => y
  | some (g, t) =>
    let edge := cubic (Config.sfuNative f g) t
    if c.rising then (if (f32 y).lt (f32 edge) then edge else y) else (if (f32 edge).lt (f32 y) then edge else y)

/-- reconstruct: exact but for one rounding. -/
def reconstruct (r : Reduced) (y : Word) : Word := toF32 (((f32 y).mul r.factor).add r.term)

/-- A limit form of an input outside the table range. -/
def limitForm (l : SfuLimit) (x : Word) : Word :=
  match l with
  | .x => x
  | .one => if x.msb then 0xBF800000 else one32
  | .exp => ceil32 (sfuExact .exp (f32 x)).1
  | .zero => x &&& 0x80000000

/-- A native evaluation of an input that is not special (R276). -/
def sfuCubic (f : SfuFn) (x : Word) : Word :=
  match sfuReduce false f (f32 x) with
  | some r =>
    let c := Config.sfuNative f r.seg
    reconstruct r (seamClamp f r c (cubic c r.t))
  | none =>
    let neg := x.msb
    let above := match f32 x with | .fin _ m e => decide ((Config.sfuOctaves f neg).2 ≤ floorLog2 m 1 + e) | _ => true
    limitForm (Config.sfuLimit f neg above) x

/-- A G1 evaluation of an input that is not special: a quadratic, without a seam clamp (R278). -/
def sfuQuadratic (f : SfuFn) (x : Word) : Word :=
  match sfuReduce true f (f32 x) with
  | some r =>
    let c := Config.sfuG1 f r.seg
    let step (y : Word) (c : Word) : Word :=
      if Config.sfuG1Fused then fmaAt y r.t c else addRne (toF32 ((f32 y).mul r.t)) c
    reconstruct r (step (step c.c2 c.c1) c.c0)
  | none => limitForm (Config.sfuLimit f x.msb ((f32 x).lt (.fin false 1 0) == x.msb)) x

/-! ## What the rules hold the results to (R271, R273, R277, R279) -/

/-- The range of the result of a finite input: the results of R273 at its ends. -/
def sfuRange (f : SfuFn) (x : Fp) : Fp × Fp :=
  let one : Fp := .fin false 1 0
  match f with
  | .exp => if x.isNeg then (Fp.zero false, one) else (one, .inf false)
  | .exp2 | .softplus => (Fp.zero false, .inf false)
  | .tanh | .erf => if x.isNeg then (.fin true 1 0, Fp.zero true) else (Fp.zero false, one)
  | .sigmoid => (Fp.zero false, one)
  | _ => (.inf true, .inf false)

/-- A result held to the bound of R271 and to the function's range; an infinity stands for ±2^128. -/
def sfuHeld (g1 : Bool) (f : SfuFn) (x : Fp) (w : Word) : Word :=
  let a := sfuAllowed g1 f x
  let (lo, hi) := sfuRange f x
  let most : Int := 2 ^ 128 * fixOne
  let cut (v : Int) : Int := max (min v most) (-most)
  holdWithin (cut (max a.1 (toFix lo)), cut (min a.2 (toFix hi))) (if isNan32 w then zero32 else w)

/-- The correctly rounded result. -/
def roundedAt (f : SfuFn) (x : Fp) : Word := toF32 (ofFix (sfuExact f x).1)

/-- The correctly rounded result; about a turning point, what R271 and R277 both allow: no result lies below that at
t*, and none rises before it. -/
def sfuRounded (f : SfuFn) (x : Fp) : Word :=
  let y := roundedAt f x
  if !turns f then y else
  let turn := f32 (sfuTurn f)
  let least := min (toFix (f32 (roundedAt f turn))) (toFix (f32 (floor32 (sfuAllowed false f (f32 (sfuMin f))).2)))
  if toFix (f32 y) < least ∨ (toFix (f32 (sfuMin f)) ≤ toFix x ∧ toFix x ≤ toFix turn) then toF32 (ofFix least) else y

/-- Is a function marked monotonic not decreasing from an input to the next (R271, R277)? `none`: no guarantee. -/
def sfuRises (f : SfuFn) (x : Word) : Option Bool :=
  match f with
  | .rcp | .rsqrt => some false
  | .geluErf | .geluTanh | .silu => some (decide (toFix (f32 (sfuTurn f)) ≤ toFix (f32 x)))
  | .sin | .cos => none
  | _ => some true

/-- The results do not step backward from an input to the next above it: rcp and rsqrt on each sign. -/
def stepOk (f : SfuFn) (g : Word → Word) (x : Word) : Bool :=
  match sfuRises f x with
  | some true => !(f32 (g (succ32 x))).lt (f32 (g x))
  | some false =>
    !(f32 (g x)).lt (f32 (g (succ32 x))) || ((f = .rcp || f = .rsqrt) && x.msb != (succ32 x).msb)
  | none => true

/-- They step backward by at most one unit in the last place. -/
def stepSmall (f : SfuFn) (g : Word → Word) (x : Word) : Bool :=
  match sfuRises f x with
  | some true => !(f32 (g (succ32 x))).lt (f32 (below32 (g x)))
  | some false => !(f32 (above32 (g x))).lt (f32 (g (succ32 x)))
  | none => true

/-- Subnormals flushed to zero of the same sign (R274). -/
def flush32 (w : Word) : Word := if w.toNat / 2 ^ 23 % 256 = 0 then w &&& 0x80000000 else w

/-- The native result of an input: what its segment gives, held to the bounds. -/
def sfuNative (f : SfuFn) (w : Word) : Word := (sfuSpecial f w).getD (sfuHeld false f (f32 w) (sfuCubic f w))

/-- The native results never step backward (R277). Whether they do is a fact of the published coefficients. -/
abbrev SfuMonotone (f : SfuFn) : Prop :=
  ∀ x : Word, (isNan32 x || isNan32 (succ32 x) || stepOk f (sfuNative f) x) = true

/-- The G1 result of an input whose subnormals are flushed. -/
def sfuG1 (f : SfuFn) (w : Word) : Word :=
  ((sfuSpecial f w).or (g1Known f w)).getD (flush32 (sfuHeld true f (f32 w) (sfuQuadratic f w)))

/-- An input at which a G1 result may step backward (R279): a seam of the table, or for exp one of exp2 that the rounded
product x·log2(e) meets. -/
def g1MayStep (f : SfuFn) (w : Word) : Bool :=
  match f with
  | .exp => (g1Seam .exp2 (log2e32 w)).isSome
  | _ => (g1Seam f w).isSome

/-- The G1 results step backward at the seams of R279, by one unit in the last place, and at no others. -/
abbrev SfuG1Steps (f : SfuFn) : Prop :=
  ∀ x : Word, (isNan32 x || isNan32 (succ32 x) || stepOk f (sfuG1 f ∘ flush32) x ||
    (g1MayStep f (succ32 x) && stepSmall f (sfuG1 f ∘ flush32) x)) = true

/-- Evaluate a function of R271 in the mode in force: special inputs first, then the seams that R279 states, then the
segments. Coefficients that would break R277 or R279 are not those of the hardware: the correctly rounded value stands
in for them. -/
def sfuEval (g1 : Bool) (f : SfuFn) (w : Word) : Word :=
  let w := if g1 then flush32 w else w
  match sfuSpecial f w with
  | some r => r
  | none =>
    if g1 then match g1Known f w with
      | some r => r
      | none => if SfuG1Steps f then sfuG1 f w else flush32 (sfuRounded f (f32 w))
    else if SfuMonotone f then sfuNative f w else sfuRounded f (f32 w)

/-! ## Exact operations and gates (R280, R281) -/

/-- max and min: NaN wins, and −0 is less than +0. -/
def max32 (a b : Word) : Word :=
  if isNan32 a || isNan32 b then nan32
  else if (f32 a).lt (f32 b) then b else if (f32 b).lt (f32 a) then a
  else if a.msb then b else a
def min32 (a b : Word) : Word :=
  if isNan32 a || isNan32 b then nan32
  else if (f32 a).lt (f32 b) then a else if (f32 b).lt (f32 a) then b
  else if a.msb then a else b

/-- A NaN result is the canonical NaN (R189, R274). -/
def canonNan (w : Word) : Word := if isNan32 w then nan32 else w

/-- ReLU of the gate. -/
def relu (b : Word) : Word :=
  if isNan32 b then nan32 else if (f32 (0 : Word)).lt (f32 b) then b else zero32

/-- One element of the fused gate (R280). -/
def gateElem (g1 : Bool) (act : GateAct) (a b : Word) : Word :=
  mulRne a (match act with
    | .silu => sfuEval g1 .silu b
    | .geluErf => sfuEval g1 .geluErf b
    | .geluTanh => sfuEval g1 .geluTanh b
    | .sigmoid => sfuEval g1 .sigmoid b
    | .relu => relu b)

/-! ## Softmax (R282, R283) -/

def softmaxRow (g1 : Bool) (xs : List Word) : List Word :=
  if xs.any fun x => isNan32 x || x = posInf32 then xs.map fun _ => nan32
  else if xs.all (· = negInf32) then xs.map fun _ => zero32
  else
    let m := xs.foldl max32 negInf32
    let e := xs.map fun x => if x = negInf32 then zero32 else sfuEval g1 .exp (subRne x m)
    let c := sfuEval g1 .rcp (canonSum (e.map some))
    e.map fun v => mulRne v c

/-! ## Row statistics and norms (R284–R287) -/

/-- canon_sum in the extended format (R284). -/
def canonExt (l : List Fp) : Fp := canonWith extAdd (Fp.zero false) (l.map some)

/-- Does a row hold a NaN or an infinity? -/
def rowBad (xs : List Word) : Bool := xs.any fun x => (f32 x).isNan || (f32 x).isInf

/-- canon_sum over F32 words; a zero of either sign contributes nothing (R190, R191). -/
def canonWords (xs : List Word) : Word := canonSum (xs.map fun x => if (f32 x).isZero then none else some x)

/-- mean and var in native mode (R285). -/
def nativeStats (xs : List Word) : Word × Word :=
  let n := xs.length
  let x0 := xs.headD 0
  let d := xs.map fun x => extSub (f32 x) (f32 x0)
  let b := extDiv (canonExt d) n
  let s2 := extDiv (canonExt (d.map fun v => extMul v v)) n
  let mean := if b.isZero then x0 else toF32 (extAdd (f32 x0) b)
  let v := extSub s2 (extMul b b)
  (mean, toF32 (if v.isNeg then Fp.zero false else v))

/-- ms in native mode (R286). -/
def nativeMs (xs : List Word) : Word := toF32 (extDiv (canonExt (xs.map fun x => extMul (f32 x) (f32 x))) xs.length)

/-- mean, var and ms in G1 mode (R286, R287). -/
def g1Stats (cn : Word) (xs : List Word) : Word × Word × Word :=
  let m1 := mulRne (canonWords xs) cn
  let m2 := mulRne (canonWords (xs.map fun x => mulRne x x)) cn
  (m1, max32 (subRne m2 (mulRne m1 m1)) zero32, m2)

/-- A statistic of a row; a row with a NaN or an infinity has NaN statistics (R285). -/
def statistic (g1 : Bool) (cn : Word) (what : Statistic) (xs : List Word) : Word :=
  if rowBad xs then nan32 else
  let (mean, var, ms) :=
    if g1 then g1Stats cn xs else ((nativeStats xs).1, (nativeStats xs).2, nativeMs xs)
  match what with
  | .mean => mean
  | .var => var
  | .ms => ms

/-- Layer norm and RMS norm of a row (R286). -/
def normRow (g1 rms : Bool) (xs : List Word) (cn eps : Word) (gamma beta : Option (List Word)) : List Word :=
  let coef (l : Option (List Word)) (i : Nat) : Option Word := l.map fun l => (l[i]?).getD 0
  if rowBad xs then xs.map fun _ => nan32
  else
    let v := addRne (statistic g1 cn (if rms then .ms else .var) xs) eps
    if v = zero32 then xs.mapIdx fun i _ => canonNan ((coef beta i).getD zero32)
    else
      let r := sfuEval g1 .rsqrt v
      let mean := statistic g1 cn .mean xs
      xs.mapIdx fun i x =>
        let t := mulRne (if rms then x else subRne x mean) r
        match coef gamma i, (if rms then none else coef beta i) with
        | some g, some b => fmaRne t g b
        | some g, none => mulRne t g
        | none, some b => addRne t b
        | none, none => t

/-! ## Operations of a tile -/

/-- An operand of the SFU: F32 as it is, BF16 and F16 widened exactly (R268). -/
def widen (xt : ElemType) (v : Int) : Word := if xt = .f32 then BitVec.ofInt 32 v else toF32 (elemFp xt v)

/-- Write SFU results; a NaN among them is one that the SFU produced or passed on (R274). -/
def emitSfu (k : TileEnv) (o : OutSpec) (vs : List Word) : Yield :=
  let vs := k.sfuValues vs
  { emit k o (listItems o (vs.map fun v => .fp v)) with nanSfu := vs.any isNan32 }

/-- select (R281), its predicate an operand or a mask of the elements it writes (R298). -/
def selectElems (k : TileEnv) (o : OutSpec) (p a b : List Word) (mask : Option (Nat × Nat)) : List Word :=
  (a.zip b).mapIdx fun i ab =>
    let takeA : Bool := match mask with
      | some (t, d) => k.maskBit (o.g 0 i) t (o.counter d)
      | none => !(f32 ((p[i]?).getD 0)).isZero
    canonNan (if takeA then ab.1 else ab.2)

/-- Run a select; its mask is drawn element by element. -/
def runSelect (k : TileEnv) (o : OutSpec) (p a b : List Word) (mask : Option (Nat × Nat)) : Yield :=
  let y := emitSfu k o (selectElems k o p a b mask)
  if mask.isSome then { y with draws := y.draws ++ (List.range (a.zip b).length).map fun i => o.g 0 i / 8 } else y

/-- Max or min of a window of a float tensor, in the order of k (R229, R281). -/
def runPool (k : TileEnv) (isMax : Bool) (xt : ElemType) (w : Window) (o : OutSpec) : Yield :=
  emitWindows k w o fun _ p =>
    match (windowTaps xt w true p).map (widen xt) with
    | [] => zero32
    | v :: vs => vs.foldl (if isMax then max32 else min32) (canonNan v)

end Sys2Proof.Machine
end

