-- ==== Sys2Proof/WellFormed.lean ====
section
/-! DEFINITION. Commands that can be sent: operand ranges that the types do not already hold. -/

namespace Sys2Proof

/-- Bounds of the companion memory, the locked window and the outbound space (R329, R320, R127). -/
def addressOk (a n : Nat) : Bool :=
  a + n ≤ 0x8_0000_0000 || (0x10_0000_0000 ≤ a && a + n ≤ 0x10_0100_0000) ||
  (0x80_0000_0000 ≤ a && a + n ≤ 0x100_0000_0000)

/-- The window parameters of R220, R223 and R228, and an output of R221 in each dimension. -/
def Window.wf (w : Window) : Bool :=
  let dim (d : WinDim) : Bool := 1 ≤ d.extent && d.extent ≤ 65535 && 1 ≤ d.kernel && d.kernel ≤ 255 &&
    1 ≤ d.stride && d.stride ≤ 255 && 1 ≤ d.dilation && d.dilation ≤ 255 && d.before ≤ 255 &&
    d.after ≤ 255 && (w.mode != .mirror || (d.before < d.extent && d.after < d.extent)) &&
    (w.transposed || d.dilation * (d.kernel - 1) + 1 ≤ d.extent + d.before + d.after)
  dim w.dimH && dim w.dimW && 1 ≤ w.groups && w.channels % w.groups = 0 && w.cOut % w.groups = 0 &&
  (!w.transposed || w.mode == .zero)

/-- The codes of an integer type (R249). -/
def ElemType.range : ElemType → Int × Int
  | .i4 => (-8, 7)
  | .u4 => (0, 15)
  | .i8 => (-128, 127)
  | .u8 => (0, 255)
  | .i16 => (-32768, 32767)
  | .u16 => (0, 65535)
  | _ => (-131072, 131071)

/-- Types of codes of one byte or less. -/
def ElemType.isByte (t : ElemType) : Bool := t == .i4 || t == .u4 || t == .i8 || t == .u8

/-- A code of a type: an integer in its range, or the bits of its float format. -/
def ElemType.codeOk (t : ElemType) (v : Int) : Bool :=
  let bits : Nat := if t == .e4m3 || t == .e5m2 then 8 else if t == .bf16 || t == .f16 then 16 else 32
  if t.isByte || t == .i16 || t == .u16 then t.range.1 ≤ v && v ≤ t.range.2 else 0 ≤ v && v < 2 ^ bits

/-- The constant code of a window is a code of its tensor's type (R220). -/
def Window.padOk (w : Window) (t : ElemType) : Bool := t.codeOk w.padCode

/-- What an operation delivers to the quantiser: integer sums, F32 values, or elements that are copied. -/
inductive Delivered where
  | ints | floats | copies
  deriving DecidableEq, Repr

/-- Widths and limits of a rescale entry of an output type (R252): BIAS is a signed constant for integer inputs, and
the bits of a binary32 value for float inputs. -/
def Rescale.wf (e : Rescale) (t : ElemType) (d : Delivered) : Bool :=
  -32768 ≤ e.zout && e.zout ≤ 65535 && t.range.1 ≤ e.lo && e.lo ≤ e.zout && e.zout ≤ e.hi && e.hi ≤ t.range.2 &&
  (match d with
    | .ints => -(2 ^ 31) ≤ e.bias && e.bias < 2 ^ 31
    | .floats => 0 ≤ e.bias && e.bias < 2 ^ 32
    | .copies => true) && -128 ≤ e.zw && e.zw ≤ 127

/-- Element types that the quantiser writes (R253), rows of at least one position, and an entry for every channel or
one for all (R252): an operation of a linear tensor has `channels`. -/
def OutSpec.wf (o : OutSpec) (channels : Nat) (d : Delivered) : Bool :=
  let count := match o.layout with
    | .linear => channels
    | .blocked _ c _ _ | .nhwc c _ _ => c
  o.type != .e4m3 && o.type != .e5m2 && 1 ≤ o.region.perRow && o.rescale.all (·.wf o.type d) &&
  (o.raw || o.rescale.length = 1 || count ≤ o.rescale.length)

/-- Operands that a mode takes together (R186, R187, R205, R207). -/
def LaneMode.takes (mode : LaneMode) (x w : ElemType) : Bool :=
  let f8 (t : ElemType) : Bool := t == .e4m3 || t == .e5m2
  match mode with
  | .mac => (x.isByte && w.isByte) || (x == .i16 && w == .i16) || (f8 x && f8 w) ||
      (x == .bf16 && w == .bf16) || (x == .f16 && w == .f16)
  | .l1 | .l2 | .ham => (x == .i8 || x == .u8) && (w == .i8 || w == .u8)
  | _ => x == .i8 && w == .i8

/-- Is a reduction of that depth within its limit (R186, R187, R207)? -/
def LaneMode.depthOk (mode : LaneMode) (x w : ElemType) (k : Nat) : Bool :=
  match mode with
  | .mac =>
    if x == .i16 then k ≤ 2 ^ 16
    else if !x.isByte then true
    else if (x == .i4 || x == .u4) && (w == .i4 || w == .u4) then k ≤ 2 ^ 25 else k ≤ 2 ^ 24
  | _ => k ≤ 2 ^ 24

/-- Weight zero points of an entry fit the weight type; float inputs have none (R252). -/
def OutSpec.weightsOk (o : OutSpec) (w : ElemType) : Bool :=
  o.rescale.all fun e => if w == .i4 || w == .u4 then -8 ≤ e.zw && e.zw ≤ 7
    else if w.isByte || w == .i16 then true else e.zw == 0

/-- Types that the SFU widens to F32 (R268). -/
def ElemType.forSfu (t : ElemType) : Bool := t == .f32 || t == .bf16 || t == .f16

/-- A drain select of a pass of `m` vectors and `c` columns (R210): running pairs are kept for 256 vectors at
most. -/
def Select.wf (sel : Select) (mode : LaneMode) (m c : Nat) : Bool :=
  match sel with
  | .off => true
  | .on _ joins runsOn outIndex seed keep => mode != .mac && outIndex.length = c && outIndex.all (· < 2 ^ 24) &&
    (m ≤ 256 || !(joins || runsOn || seed.isSome || keep.isSome))

/-- A layer that the frequency path serves (R235, R236). -/
def Window.forFrequency (w : Window) (n : Nat) : Bool :=
  let least := if w.groups = w.channels then 7 else 11
  let dim (d : WinDim) : Bool := d.stride = 1 && d.dilation = 1 && least ≤ d.kernel && d.kernel < n
  w.wf && !w.transposed && dim w.dimH && dim w.dimW && (n = 32 || n = 64 || n = 128)

/-- Bytes of the Quay store (R308). -/
def storeBytes : Nat := 6 * 2 ^ 20

/-- A list of 32-bit words lies in the Quay store at its place, where it has one. -/
def storeFits (store : Option Nat) (words : Nat) : Bool := store.all fun a => a + 4 * words ≤ storeBytes

/-- What an array operation in a mode delivers. -/
def LaneMode.delivers (mode : LaneMode) (x : ElemType) : Delivered :=
  if mode = .mac && !(x.isByte || x == .i16 || x == .u16) then .floats else .ints

/-- Combinations of modes and operands that Isian never compiles are no commands (R187, R207, R210, R220,
R228, R235, R252, R268, R282). -/
def TileOp.wf : TileOp → Bool
  | .pass mode x w xs ws inject base _ sel out =>
    out.wf (if sel = .off then ws.length else 1) (mode.delivers x) && mode.takes x w && out.weightsOk w &&
    xs.length ≤ 65536 && 1 ≤ ws.length && (inject.isEmpty || inject.length = xs.length) &&
    xs.all (fun v => mode.depthOk x w (base + v.length)) && sel.wf mode xs.length ws.length
  | .conv mode x w win _ out => out.wf win.cOut (mode.delivers x) && win.wf && win.padOk x && mode.takes x w &&
    out.weightsOk w && mode.depthOk x w (win.dimH.kernel * win.dimW.kernel * (win.channels / win.groups))
  | .pool _ x win out => out.wf win.channels .floats && win.wf && win.padOk x && x.forSfu && !win.transposed
  | .avgPool x win _ _ _ out => out.wf win.channels .floats && win.wf && win.padOk x && !win.transposed &&
    win.dimH.kernel * win.dimW.kernel ≤ 65536
  | .resize x bilinear _ _ c h w oh ow out => out.wf c (if bilinear then LaneMode.mac.delivers x else .copies) &&
    1 ≤ c && 1 ≤ h && 1 ≤ w && 1 ≤ oh && 1 ≤ ow
  | .rearrange _ b _ _ _ _ out => out.wf 1 .copies && 1 ≤ b && b ≤ 16
  | .forward n x _ win chan _ _ _ store => win.forFrequency n && win.padOk x && chan < win.channels &&
    (x == .i8 || x == .u8 || x == .bf16 || x == .f16) && storeFits store (n * (n / 2 + 1))
  | .product depthwise bins _ store => (bins.all fun b => !depthwise || b.2.all (·.length = 1)) &&
    storeFits store (2 * (bins.map fun b => b.1.length * b.2.length).sum)
  | .inverse n win _ _ bins out => win.forFrequency n && bins.length = n * (n / 2 + 1) && out.wf 1 .floats
  | .mask t _ _ _ => t ≤ 65536
  | .softmax x row out => out.wf 1 .floats && x.forSfu && 1 ≤ row.length && row.length ≤ 65536
  | .norm _ x row _ _ _ _ out => out.wf 1 .floats && x.forSfu && 1 ≤ row.length && row.length ≤ 65536
  | .stats _ x row _ out => out.wf 1 .floats && x.forSfu && 1 ≤ row.length && row.length ≤ 65536
  | .sfu _ x _ out | .minMax _ x _ _ out | .clamp x _ _ _ out | .select x _ _ _ _ out => out.wf 1 .floats && x.forSfu
  | .gate _ _ _ out => out.wf 1 .floats

/-- Does the operation run on the array? -/
def TileOp.isPass : TileOp → Bool
  | .pass .. | .conv .. => true
  | .resize _ bilinear _ _ _ _ _ _ _ _ => bilinear
  | .product depthwise .. => !depthwise
  | _ => false

/-- Does the operation run on the SFU? -/
def TileOp.isSfu : TileOp → Bool
  | .pool .. | .avgPool .. | .sfu .. | .gate .. | .minMax .. | .clamp .. | .select .. | .softmax .. | .norm ..
  | .stats .. => true
  | _ => false

/-- A tile's stated and actual length fit the sequencer (R178, R194), it holds at most 4,096 control
words (R178), each operation of the array or the SFU takes a pass at least, and every address lies in its store
(R308). -/
def Tile.wf (t : Tile) : Bool :=
  1 ≤ t.stated && t.stated ≤ 20000 && t.words ≤ 4096 && t.ops.all TileOp.wf &&
  t.ops.countP TileOp.isPass ≤ t.passes && t.ops.countP TileOp.isSfu ≤ t.sfuPasses &&
  t.reads.all (·.at_ < holdUnits) && t.places.all (·.base < holdUnits) && t.holdWrites.all (·.at_ < holdUnits) &&
  t.sources.all fun s => s.at_ + s.length ≤ storeBytes

/-- What Isian never lets a cargo state otherwise: a tile of at most 20,000 cycles (R178), a live image of at most 10 MiB
per Quay (R425), at most 8 deck cores (R397) and at most 255 steps (R260). -/
def Cargo.wf (c : Cargo) : Bool :=
  1 ≤ c.quays && c.quays ≤ 8 && c.arrays ≤ 4 && c.entries.all fun e =>
    e.deckCores ≤ 8 && e.steps ≤ 255 && e.tiles.all fun t => 1 ≤ t.cycles && t.cycles ≤ 20000 && t.live ≤ 10 * 2 ^ 20

/-- A command's operands lie in the ranges the manual gives them. -/
def Instr.wf : Instr → Bool
  | .registerWrite (.bar0 offset) size _ _ _ => offset < 2 ^ 24 && 1 ≤ size && size ≤ 8
  | .registerWrite (.bar4 offset) size _ _ _ => offset < 2 ^ 16 && 1 ≤ size && size ≤ 8
  | .registerWrite (.config _) size _ _ _ => size = 4
  | .bar2Read _ length => 1 ≤ length && length ≤ 4096
  | .bar2Write _ data _ => 1 ≤ data.length && data.length ≤ 512
  | .bar2Resize log2 => 28 ≤ log2 && log2 ≤ 36
  | .bootHoldWrite _ data => 1 ≤ data.length
  | .stage2PageCheck page => page < 8192
  | .harbourAccess _ addr write _ _ _ => match write with
    | some d => 1 ≤ d.length && addr % 128 + d.length ≤ 128 && addressOk addr d.length
    | none => addressOk addr 1
  | .memoryRequest r => addressOk r.addr 1 && !(r.prefetch && r.write)
  | .memoryDataPhase _ _ p => p.intervals.length = 128
  | .dispatch _ _ cargo fallback => cargo.wf && fallback.all Cargo.wf
  | .tileRun _ _ t => t.wf
  | .localisingTile _ _ column mismatch => match mismatch with
    | some c => c.val % 4 = column.val / 16
    | none => true
  | .dbgtoken token => token.length = 0x1050
  | .heartbeat _ writes => writes.all fun w => match w with
    | .count _ => true
    | .seal _ offset data => offset + data.length ≤ 0x40_0000
  | .avsSetpointChange mv => 550 ≤ mv && mv ≤ 800 && mv % 5 = 0
  | _ => true

end Sys2Proof
end

