-- ==== Sys2Proof/Machine/TileOps.lean ====
section
/-! DEFINITION. The operations of a tile, run in order (R178): what they yield, what the checks see of the
faults that strike them, and what the Quay DMA writes in the Hold for them. -/

namespace Sys2Proof.Machine

/-- Run one operation; `running` are the running pairs of the tile (R210). -/
def runOp (k : TileEnv) (running : List (Int × Nat)) : TileOp → Yield × List (Int × Nat)
  | .pass mode xt wt xs ws inject base leaves sel o => runPass k mode xt wt xs ws inject base leaves sel running o
  | .conv mode xt wt win ws o => (runConv k mode xt wt win ws o, running)
  | .pool isMax xt win o => (runPool k isMax xt win o, running)
  | .avgPool xt win countPad zero cn o => (runAvgPool k xt win countPad zero cn o, running)
  | .resize xt bilinear align input c inH inW outH outW o =>
    (runResize k xt bilinear align input c inH inW outH outW o, running)
  | .rearrange toDepth b c h w input o => (runRearrange k toDepth b c h w input o, running)
  | .forward n xt zero win chan ty tx va store => (runForward k n xt zero win chan ty tx va store, running)
  | .product depthwise bins va store => (runProduct k depthwise bins va store, running)
  | .inverse n win ty tx bins o => (runInverse k n win ty tx bins o, running)
  | .mask t count d o => (emitMask k o t count d, running)
  | .sfu f xt xs o => (emitSfu k o (xs.map fun x => sfuEval k.g1 f (widen xt x)), running)
  | .gate act a b o => (emitSfu k o ((a.zip b).map fun p => gateElem k.g1 act p.1 p.2), running)
  | .minMax isMax xt a b o =>
    (emitSfu k o ((a.zip b).map fun p =>
      (if isMax then max32 else min32) (widen xt p.1) (widen xt p.2)), running)
  | .clamp xt xs lo hi o => (emitSfu k o (xs.map fun x => min32 (max32 (widen xt x) lo) hi), running)
  | .select xt p a b m o =>
    (runSelect k o (p.map (widen xt)) (a.map (widen xt)) (b.map (widen xt)) m, running)
  | .softmax xt row o => (emitSfu k o (softmaxRow k.g1 (row.map (widen xt))), running)
  | .norm rms xt row cn eps gamma beta o =>
    (emitSfu k o (normRow k.g1 rms (row.map (widen xt)) cn eps gamma beta), running)
  | .stats what xt row cn o => (emitSfu k o [statistic k.g1 cn what (row.map (widen xt))], running)

/-- Run the operations of a tile, with what faults do to them. Running pairs start empty: they never cross a tile
boundary (R210). -/
def runOps (k : TileEnv) (ops : List TileOp) : Yield :=
  ((ops.zipIdx).foldl (fun (acc : Yield × List (Int × Nat)) op =>
    let (y, running) := runOp { k with op := op.2 } acc.2 op.1
    (acc.1.append y, running)) ({}, [])).1

/-! ## What the checks of a tile see -/

/-- The reduction that forms one output of an operation of the array. -/
def reductionOf (op : TileOp) (out : Nat) : Option Reduction :=
  match op with
  | .pass mode xt wt xs ws inject base leaves _ _ =>
    if 0 < ws.length && out / ws.length < xs.length then
      some (passReduction mode xt wt xs ws inject base leaves (out / ws.length) (out % ws.length))
    else none
  | .conv mode xt wt win ws _ => ((convPositions win)[out]?).map (convReduction mode xt wt win ws)
  | .resize xt true align input c inH inW outH outW _ =>
    ((positions c outH outW)[out]?).bind fun p =>
      (bilinearTaps align input inH inW outH outW p).2.map (bilinearReduction xt)
  | .product false bins .. => (productReductions bins)[out]?
  | _ => none

/-- Is a mode checked by duplicated compares (R214)? -/
def duplicated : LaneMode → Bool
  | .minPlus | .maxPlus | .csMin | .csMax => true
  | _ => false

/-- Does the operation end in a drain select? -/
def opSelects : TileOp → Bool
  | .pass _ _ _ _ _ _ _ _ sel _ => sel != .off
  | _ => false

/-- Does the operation run in the transform engine? -/
def opTransforms : TileOp → Bool
  | .forward .. | .inverse .. => true
  | .product depthwise .. => depthwise
  | _ => false

/-- What the residue check of a reduction sees of the error of a lane (R197, R199): at the drain, and in a re-run at
the first cell row whose tap differs. -/
def laneSeen (r : Reduction) (errs : List LaneErr) (rerun : Bool) (at_ : LanePos) (tap : Nat) : Option Seen :=
  match rerun, r.tapMismatch errs with
  | true, some (row, p) =>
    if tap / 16 = row then
      some (.drain { at_ with row := Fin.ofNat 64 (16 * (row % 4) + at_.row.val % 16) } p.1 p.2)
    else none
  | _, _ => (r.mismatch errs).map fun p => .drain at_ p.1 p.2

/-- What a check sees of a fault (R197–R199, R213, R214, R246, R289, R304), in a tile that is the command's
`tileNo`-th and begins with its `passNo`-th pass and `sfuPassNo`-th SFU pass. -/
def faultSeen (k : TileEnv) (rerun : Bool) (ops : List TileOp) (tileNo passNo sfuPassNo : Nat) (f : TileFault) :
    Option Seen :=
  match f with
  | .lane at_ _ op out tap _ =>
    (ops[op]?).bind (reductionOf · out) |>.bind fun r =>
      laneSeen r (({ k with op } : TileEnv).laneFaults out).errs rerun at_ tap
  | .compare at_ pass op out _ _ =>
    match (ops[op]?).bind (reductionOf · out) with
    | some r => if duplicated r.mode && (passNo + pass) % 16 = at_.col.val % 16 then some (.drain at_ 0 7) else none
    | none => none
  | .select at_ _ op _ _ => if ((ops[op]?).map opSelects).getD false then some (.drain at_ 0 7) else none
  | .sfu berth lane pass op _ flip =>
    if flip != 0 && ((ops[op]?).map TileOp.isSfu).getD false && (sfuPassNo + pass) % 8 = lane.val % 8 then
      some (.sfu berth lane)
    else none
  | .swell berth lane group flip =>
    if flip != 0 && tileNo % 16 = lane.val && (runOps { k with faults := [] } ops).draws.contains group then
      some (.swell berth lane)
    else none
  | .transform op _ flip =>
    if flip != 0 && ((ops[op]?).map opTransforms).getD false then some .transform else none

/-- The weight sets that an operation loads into the array, one after another. -/
def opWeights : TileOp → List (List (List (Option Int)))
  | .pass _ _ _ _ ws _ _ _ _ _ | .conv _ _ _ _ ws _ => [ws]
  | .product false bins .. => bins.map fun b => binWeights b.2
  | _ => []

/-- Where an operation's outputs go, if it ends in the quantiser. -/
def opOut : TileOp → Option OutSpec
  | .pass _ _ _ _ _ _ _ _ _ o | .conv _ _ _ _ _ o | .pool _ _ _ o | .avgPool _ _ _ _ _ o
  | .resize _ _ _ _ _ _ _ _ _ o | .rearrange _ _ _ _ _ _ o | .inverse _ _ _ _ _ o | .mask _ _ _ o
  | .sfu _ _ _ o | .gate _ _ _ o | .minMax _ _ _ _ o | .clamp _ _ _ _ o | .select _ _ _ _ _ o
  | .softmax _ _ o | .norm _ _ _ _ _ _ _ o | .stats _ _ _ _ o => some o
  | .forward .. | .product .. => none

/-- The operands that the SFU reads. -/
def sfuOperands (op : TileOp) : List (List Int) :=
  let words (l : List Word) : List Int := l.map fun w => (w.toNat : Int)
  let coefs (l : Option (List Word)) : List (List Int) := match l with | some l => [words l] | none => []
  match op with
  | .pool _ _ w _ | .avgPool _ w .. => [w.input]
  | .sfu _ _ xs _ | .clamp _ xs .. => [xs]
  | .gate _ a b _ => [words a, words b]
  | .minMax _ _ a b _ => [a, b]
  | .select _ p a b _ _ => [p, a, b]
  | .softmax _ row _ | .stats _ _ row .. => [row]
  | .norm _ _ row _ _ gamma beta _ => row :: (coefs gamma ++ coefs beta)
  | _ => []

/-- The operands that the quantiser reads: the rescale entries (R252), each a vector. -/
def quantOperands (op : TileOp) : List (List Int) :=
  match opOut op with
  | some o => o.rescale.map fun e =>
      [(e.mult.toNat : Int), e.shift.toNat, e.zout, e.lo, e.hi, e.bias, e.zw, e.rmode.toNat]
  | none => []

/-- The stream of an operation that a port reads, vector by vector (R194): activation vectors, one per output position
of each group of a window operator (R224), weight rows, injected partial sums, and the operands of the SFU and the
quantiser. -/
def streamOf (op : TileOp) (port : TagPort) : List (List Int) :=
  let rows (ws : List (List (Option Int))) : List (List Int) :=
    (List.range (ws.headD []).length).map fun i => ws.map fun w => ((w[i]?).getD none).getD 0
  match port, op with
  | .activation, .pass _ _ _ xs .. => xs
  | .activation, .conv _ x _ w _ _ => (List.range w.groups).flatMap fun g =>
      (positions 1 (outExtent w.transposed w.dimH) (outExtent w.transposed w.dimW)).map fun p =>
        (convTaps w x [] (g * (w.cOut / w.groups)) p.2.1 p.2.2).map (·.1)
  | .activation, .resize _ _ _ input .. => [input]
  | .activation, .product false bins .. => bins.flatMap fun b => b.1.map binVector
  | .weight, op => (opWeights op).flatMap rows
  | .partialSum, .pass _ _ _ _ _ inject .. => inject
  | .sfu, op => sfuOperands op ++ quantOperands op
  | _, _ => []

/-- The elements that the Quay DMA writes at a place in the Hold for a command's n-th tile (R181, R194): the stream
of activation row i is displaced by i mod 16 words, and an element's tag is (n + m) mod 4. -/
def placed (ops : List TileOp) (n : Nat) (p : HoldPlace) : List HoldElem :=
  let vecs := match ops[p.op]? with | some op => streamOf op p.port | none => []
  (vecs.mapIdx fun v l => l.mapIdx fun i code =>
    let word := if p.port = .activation then v + displacement i else v
    ({ at_ := p.base + word * p.vecPitch + i * p.elemPitch, code, tag := BitVec.ofNat 2 (n + p.first + v) }
      : HoldElem)).flatten

/-- Elements written to a Hold take the place of what lay at their addresses. -/
def putElems (hold new : List HoldElem) : List HoldElem :=
  new.foldl (fun l e => e :: l.filter (·.at_ ≠ e.at_)) hold

/-- The element that a scheduled write of a command's n-th tile puts in the Hold: an F32 result of the SFU as it is, or
else the quantiser's code (R192, R268). -/
def writtenElem (y : Yield) (n : Nat) (w : HoldWrite) : Option HoldElem :=
  ((y.outs.filter (·.1 = w.op))[w.out]?).map fun o =>
    { at_ := w.at_, code := if w.sfu then (o.2.2 : Int) else o.2.1, tag := BitVec.ofNat 2 (n + w.ordinal) }

/-- The active and the shadow weights after a tile: each pass makes its set active, and the set before it
lies in the registers that are then the shadow (R177). -/
def lastWeights (ops : List TileOp) (active shadow : List (List (Option Int))) :
    List (List (Option Int)) × List (List (Option Int)) :=
  (ops.flatMap opWeights).foldl (fun r ws => (ws, r.1)) (active, shadow)

end Sys2Proof.Machine
end

