-- ==== Sys2Proof/Machine/TileCmds.lean ====
section
/-! DEFINITION. Tiles: their runs, ends and re-runs, the adaptive steps they end, and the watchdogs of
sequencer and Pilot (R178–R200, R246, R260–R266, R289, R304, R309–R313, R403). -/

namespace Sys2Proof.Machine

/-! ## Where a tile runs -/

/-- The array of a Quay's shape that a Berth leads: a tile of a joined array is named at its first Berth
(R161; log entry 23). -/
def State.arrayAt (s : State) (q : QuayId) (b : BerthId) : Option (List Nat) :=
  (shapeArrays s.quays[q].shape.toNat).find? fun a => a.head? = some b.val

/-- Change the Berths of an array. -/
def State.updArray (s : State) (q : QuayId) (a : List Nat) (f : Berth → Berth) : State :=
  a.foldl (fun s n => s.updBerth q (Fin.ofNat 4 n) f) s

/-- The DISPATCH that executes on a Quay, its array part unfinished. -/
def State.quayOwner (s : State) (q : QuayId) : Option Flight :=
  s.flights.find? fun (f : Flight) => f.run.quays.contains q && f.phase = .executing

/-- The Berths of an array are powered, unfenced, and neither running nor stopped by a check (R201, R203). -/
def State.arrayReady (s : State) (q : QuayId) (a : List Nat) : Bool :=
  a.all fun n =>
    let x := s.berth q (Fin.ofNat 4 n)
    !x.fenced && !x.gated && !x.waking && x.tile.isNone && x.seq != .stopped

/-- SEED and STREAM of a DISPATCH, its exponents and the SFU mode (R136, R259, R269). -/
def State.tileEnv (s : State) (f : Flight) : TileEnv :=
  let (seed, stream) := match f.entry.op with
    | .dispatch _ _ stream _ seed => (seed, stream)
    | _ => (0, 0)
  { seed, stream, g1 := s.ready.sfuG1
    exps := match f.run.adaptive <|> f.run.adaptive0 with
      | some l => l.map fun (a : AdaptState) => (a.tensor, a.exp)
      | none => [] }

/-! ## Operands in the Quay store and the Holds (R178, R181, R194, R308) -/

/-- Put bytes in a Quay store, whose unlisted bytes are zero. -/
def putBytes (cells : List Host.Cell) (a : Nat) (bs : List Byte) : List Host.Cell :=
  ((bs.zipIdx).foldl fun l b => putCell l (a + b.2) (if b.1 = 0 then none else some b.1)) cells

/-- What the Quay DMA reads for a tile. -/
def tileSources (t : Tile) : List Source := t.sources.map fun x => ⟨x.va.toNat, x.length, false⟩

/-- The Quay DMA puts a tile's sources into the Quay store, those from host memory as its reads brought them. -/
def State.fetchSources (s : State) (f : Flight) (q : QuayId) (t : Tile) : State :=
  let s' := (t.sources.zipIdx).foldl (fun u (x : TileSource × Nat) => u.updQuay q fun y => { y with
    store := putBytes y.store x.1.at_
      (s.lastSource f ((tileSources t).take x.2) ⟨x.1.va.toNat, x.1.length, false⟩) }) s
  s'.updFlight f.q f.idx ({ · with sources := [], buffer := [] })

/-- It writes the operands in the Holds of the array, with their tags. -/
def State.placeOperands (s : State) (q : QuayId) (n : Nat) (t : Tile) : State :=
  t.places.foldl (fun s p => s.updBerth q p.berth fun x => { x with hold := putElems x.hold (placed t.ops n p) }) s

/-- What of a tile touches the Berths of an array. -/
def tileWithin (a : List Nat) (t : Tile) : Tile :=
  { t with
    places := t.places.filter fun p => a.contains p.berth.val
    reads := t.reads.filter fun r => a.contains r.berth.val
    holdWrites := t.holdWrites.filter fun w => a.contains w.berth.val }

/-! ## Captures and failures -/

/-- The last scheduled write of the tile to a read's element before that read. -/
def writeBefore (t : Tile) (r : HoldRead) : Option HoldWrite :=
  (t.holdWrites.filter fun w => w.berth = r.berth && w.at_ = r.at_ && w.cycle < r.cycle).foldl
    (fun (best : Option HoldWrite) w => match best with
      | some v => if v.cycle ≤ w.cycle then some w else best
      | none => some w) none

/-- The tag that a read of a command's n-th tile finds: that of the tile's own write, or what lay there before. -/
def foundTag (n : Nat) (t : Tile) (x : Berth) (r : HoldRead) : BitVec 2 :=
  match writeBefore t r with
  | some w => BitVec.ofNat 2 (n + w.ordinal)
  | none => ((x.hold.find? (·.at_ = r.at_)).map (·.tag)).getD (Config.holdGarbage r.at_).2

/-- QUAY_BbEPOCH takes the first mismatch until it is cleared (R195, R203). -/
def captureEpoch (x : Berth) (r : HoldRead) (expected found : BitVec 2) : Berth :=
  if x.epoch.valid then x else
  let port : BitVec 2 := match r.port with
    | .activation | .quayDma => 0 | .weight => 1 | .partialSum => 2 | .sfu => 3
  { x with epoch := { valid := true, cell := BitVec.ofNat 4 r.cell.val, port, expected, found
                      cycle := BitVec.ofNat 21 r.cycle } }

/-- QUAY_BbRESIDUE takes the first mismatch until it is cleared (R197, R203); a duplicated compare sets the
sticky bit, which reads 7 (R214). -/
def captureResidue (x : Berth) (at_ : LanePos) (carried computed : BitVec 3) : Berth :=
  if x.residue.valid then x else
  { x with residue := { valid := true, column := BitVec.ofNat 6 at_.col.val, carried, computed } }

/-- The event of a check at a Berth or its Quay. -/
def State.tileEvent (s : State) (f : Flight) (q : QuayId) (b : Option BerthId) (reason : BitVec 16)
    (sev : Severity) (level : BitVec 2) (counted : Bool) : Event :=
  { s.commandEvent f reason sev 0 with
    level, counted, quay := BitVec.ofNat 8 q.val
    berth := match b with | some b => BitVec.ofNat 8 b.val | none => 0xFF }

/-- A check stops a tile: the array stays stopped until the next command is admitted (R203), nothing of the
tile is released, and the command fails (R180, R193, R195, R199, R310). -/
def State.stopTile (s : State) (f : Flight) (q : QuayId) (a : List Nat) (e : Event) : State :=
  let s := s.updArray q a ({ · with seq := .stopped, tile := none })
  (s.report e).failQuiet f.q f.idx e.reason

/-- Tiles of the command on other Berths are stopped in the same way (R195). -/
def State.stopOthers (s : State) (f : Flight) : State :=
  let stop (b : Berth) : Berth :=
    if b.holdOwner = some (f.q, f.idx) ∧ (b.tile.isSome || b.seq == .running) then
      { b with seq := .stopped, tile := none }
    else b
  { s with quays := s.quays.map fun (y : Quay) => { y with berths := y.berths.map stop } }

/-! ## The scheduled reads (R192–R195, R309, R310) -/

/-- Do a scheduled read and a scheduled write of another port claim one bank in one cycle (R193)? -/
def claimsBoth (r : HoldRead) (w : HoldWrite) : Bool :=
  r.port != .quayDma && w.berth = r.berth && w.cycle = r.cycle && holdBank w.at_ = holdBank r.at_ &&
  !(w.sfu && r.port = .sfu)

/-- Another scheduled port claims a read's bank in its cycle (R193). -/
def readConflict (t : Tile) (r : HoldRead) : Bool :=
  r.port != .quayDma && (t.reads.any fun o => o.berth = r.berth && o.cycle = r.cycle &&
    holdBank o.at_ = holdBank r.at_ && o.port != r.port && o.port != .quayDma) || t.holdWrites.any (claimsBoth r)

/-- Another scheduled port claims a write's bank in its cycle (R193). -/
def writeConflict (t : Tile) (w : HoldWrite) : Bool :=
  (t.reads.any (claimsBoth · w)) ||
  t.holdWrites.any fun o => o.berth = w.berth && o.cycle = w.cycle && holdBank o.at_ = holdBank w.at_ && o.sfu != w.sfu

/-- The tag that the schedule of a command's n-th tile expects (R194). -/
def expectedTag (n : Nat) (r : HoldRead) : BitVec 2 := BitVec.ofNat 2 (n + r.ordinal)

/-- A read of one of the four streams finds another tag than the schedule expects (R194, R195). -/
def State.oddRead (s : State) (q : QuayId) (n : Nat) (t : Tile) (r : HoldRead) : Bool :=
  r.port != .quayDma && foundTag n t (s.berth q r.berth) r != expectedTag n r

/-- Does a read stop the tile? -/
def State.readStops (s : State) (q : QuayId) (n : Nat) (t : Tile) (r : HoldRead) : Bool :=
  readConflict t r || r.ecc = .uncorrectable || s.oddRead q n t r

/-- The cycle in which the tile stops. -/
def State.stopCycle (s : State) (q : QuayId) (n : Nat) (t : Tile) : Option Nat :=
  ((t.reads.filter (s.readStops q n t)).map (·.cycle) ++ (t.holdWrites.filter (writeConflict t)).map (·.cycle)).min?

/-- Words corrected up to the stop, each at its Berth (R309). -/
def State.correctReads (s : State) (q : QuayId) (rs : List HoldRead) (stop : Option Nat) : State :=
  (rs.filter fun r => r.ecc = .corrected && match stop with | some c => r.cycle ≤ c | none => true).foldl
    (fun s r => s.holdCorrected q r.berth r.at_) s

/-- The faults that strike the Berths of an array, or its Quay's transform engine. -/
def faultsOn (a : List Nat) (faults : List TileFault) : List TileFault :=
  faults.filter fun f => match f with
    | .lane p _ _ _ _ _ | .compare p _ _ _ _ _ | .select p _ _ _ _ => a.contains p.berth.val
    | .sfu n _ _ _ _ _ | .swell n _ _ _ => a.contains n.val
    | .transform .. => true

/-- What the checks of a tile's run or re-run see of the faults that strike it. -/
def State.seen (s : State) (q : QuayId) (b : BerthId) (env : TileEnv) (rerun : Bool) (t : Tile)
    (faults : List TileFault) : List Seen :=
  let x := s.berth q b
  faults.filterMap (faultSeen { env with faults } rerun t.ops x.tileNo x.passNo x.sfuPassNo)

/-- The first mismatch at a drain. -/
def drainSeen (l : List Seen) : Option (LanePos × BitVec 3 × BitVec 3) :=
  l.findSome? fun d => match d with | .drain p c v => some (p, c, v) | _ => none

/-- Residue mismatches met together with an epoch mismatch are captured and counted (R200). -/
def State.countEarly (s : State) (q : QuayId) (l : List Seen) : State :=
  l.foldl (fun s d => match d with
    | .drain p carried computed =>
      (s.updBerth q p.berth fun x =>
        { captureResidue x p carried computed with countResidue := satInc x.countResidue }).countColumn q p.berth p.col
    | _ => s) s

/-- The reads of a tile stop it in a cycle (R193, R195, R200, R310): a bank conflict comes before an
uncorrectable word, and that before an epoch mismatch (log entry 24). `met` are the mismatches that the checks had
met, those of the first run among them. -/
def State.stopReads (s : State) (f : Flight) (q : QuayId) (b : BerthId) (a : List Nat) (t : Tile) (met : List Seen)
    (cycle : Nat) : State :=
  let n := (s.berth q b).tileNo
  let here := t.reads.filter (·.cycle = cycle)
  let bad := here.filter (·.ecc = .uncorrectable)
  let odd := State.least (fun r => r.cell.val) (here.filter (s.oddRead q n t))
  let clash := ((here.find? (readConflict t)).map (·.berth)).or
    ((t.holdWrites.find? fun w => w.cycle = cycle && writeConflict t w).map (·.berth))
  let s := bad.foldl (fun s r => s.holdBad q r.berth r.at_) s
  let s := match odd with
    | some r => s.updBerth q r.berth fun x => captureEpoch x r (expectedTag n r) (foundTag n t x r)
    | none => s
  match clash, bad, odd with
  | some c, _, _ => s.stopTile f q a (s.tileEvent f q c 0x2004 .contained 1 false)
  | none, r :: _, _ => s.stopTile f q a (s.tileEvent f q r.berth 0x2002 .contained 1 true)
  | none, [], some r =>
    let s := s.updBerth q r.berth fun x => { x with countEpoch := satInc x.countEpoch }
    let s := (s.countEarly q met).stopOthers f
    s.stopTile f q a { s.tileEvent f q r.berth 0x2001 .contained 1 false with cell := BitVec.ofNat 8 r.cell.val }
  | none, [], none => s

/-! ## TILE_RUN -/

/-- The words of the Quay store that are read for a tile (R313): one that is uncorrectable fails the command. -/
def State.storeRead (s : State) (f : Flight) (q : QuayId) (t : Tile) : State × Bool :=
  let s := t.storeReads.foldl (fun s w => s.storeWord { w with quay := q }) s
  if t.storeReads.any (·.ecc = .uncorrectable) then
    ((s.report (s.tileEvent f q none 0x3002 .contained 2 true)).failQuiet f.q f.idx 0x3002, true)
  else (s, false)

/-- The codes of a tile's yield, with the count of clamped outputs (R188, R189, R243, R256, R274). -/
def Yield.info (y : Yield) : List (BitVec 16 × Nat) :=
  (if y.clamped = 0 then [] else [(0xD001, y.clamped)]) ++ (if y.nanArray then [(0xD002, 0)] else []) ++
  (if y.nonFinite then [(0xD003, 0)] else []) ++ (if y.nanQuant then [(0xD004, 0)] else []) ++
  (if y.nanSfu then [(0xD008, 0)] else [])

/-- The tile runs: what it computes leaves the Berth only at its end (R178). -/
def State.startTile (s : State) (f : Flight) (q : QuayId) (b : BerthId) (a : List Nat) (t : Tile) : State :=
  let run : TileRun :=
    { tile := t, cmd := (f.q, f.idx), env := { s.tileEnv f with hold := (s.berth q b).hold }, rerun := false, first := [] }
  let s := s.updArray q a ({ · with seq := .running, holdOwner := some (f.q, f.idx) })
  s.updBerth q b fun x =>
    let w := lastWeights t.ops x.weights x.shadow
    { x with tile := some run, weights := w.1, shadow := w.2 }

/-- Add codes to a command's list: 0xD001 adds its counts, the others stand once. -/
def mergeInfo (l : List (BitVec 16 × Nat)) (c : BitVec 16 × Nat) : List (BitVec 16 × Nat) :=
  if l.any (·.1 = c.1) then l.map fun x => if x.1 = c.1 then (x.1, x.2 + c.2) else x else l ++ [c]

/-- What the command logs of a tile, whether or not its results are released: the NaN that it met, not its clamped
outputs (R188, R243, R256). -/
def State.noteNan (s : State) (f : Flight) (y : Yield) : State :=
  let codes := y.info.filter fun c => c.1 ≠ 0xD001
  s.updFlight f.q f.idx fun f => { f with run := { f.run with info := codes.foldl mergeInfo f.run.info } }

/-- What it logs of a tile whose results are discarded. -/
def State.noteDiscarded (s : State) (f : Flight) (r : TileRun) : State := s.noteNan f (runOps r.env r.tile.ops)

/-- A re-run begins (R199): it reads the operands in their Holds and the store word again, and only its end decides
(R200, R247). -/
def State.rerunTile (s : State) (f : Flight) (q : QuayId) (b : BerthId) (a : List Nat) (r : TileRun) (tile : Tile) :
    State :=
  let (s, failed) := (s.noteDiscarded f r).storeRead f q tile
  if failed then s.updArray q a ({ · with seq := .stopped, tile := none }) else
  let stop := s.stopCycle q (s.berth q b).tileNo tile
  let s := s.correctReads q tile.reads stop
  match stop with
  | some c => s.stopReads f q b a tile (r.first ++ s.seen q b r.env true r.tile (faultsOn a tile.early)) c
  | none => s.updBerth q b fun x => { x with tile := some { r with tile := { r.tile with runs := tile.runs } } }

/-- A tile runs on operands that the Quay DMA has fetched and written. -/
def State.runTile (s : State) (f : Flight) (q : QuayId) (b : BerthId) (a : List Nat) (tile : Tile) : State :=
  let n := (s.berth q b).tileNo
  let s := (s.fetchSources f q tile).placeOperands q n tile
  let (s, failed) := s.storeRead f q tile
  if failed then s else
  let stop := s.stopCycle q n tile
  let s := s.correctReads q tile.reads stop
  match stop with
  | some c => s.stopReads f q b a tile (s.seen q b (s.tileEnv f) false tile (faultsOn a tile.early)) c
  | none => s.startTile f q b a tile

/-- A tile starts for the first time: the Pilot has fetched its program through the context's MMU (R402), and the
Quay DMA reads the sources, those in host memory by outbound reads (R111, R127). -/
def State.firstRun (s : State) (f : Flight) (q : QuayId) (b : BerthId) (a : List Nat) (tile : Tile) : State :=
  let l := tileSources tile
  match s.sourceFault f.entry.ctx (codeSource f ++ l) with
  | some e => s.mmuFail f.q f.idx e
  | none =>
    match s.fetching? f l with
    | some s' => s'
    | none =>
      match s.sourceCode f.entry.ctx l with
      | some reason => s.fail f.q f.idx reason
      | none => s.runTile f q b a tile

/-- TILE_RUN: a tile starts on the array that a Berth leads once both handshakes have completed (R178), the second of
which its Quay's Pilot makes (R402); on a Berth whose tile is held back for its re-run, the re-run reads its operands
again (R199, R200). -/
def execTileRun (q : QuayId) (b : BerthId) (tile : Tile) (s : State) : Result :=
  if !s.fwUp || s.env.power ≠ .d0 || s.quays[q].resetting || s.quays[q].recoveryFence || !s.quays[q].pilotRunning then
    .next s else
  match s.quayOwner q, s.arrayAt q b with
  | some f, some a =>
    let tile := tileWithin a tile
    match (s.berth q b).tile with
    | some r => if !r.rerun then .next s else .next (s.rerunTile f q b a r tile)
    | none =>
      if f.run.arrayDone || State.stopAsked f || !s.arrayReady q a then .next s
      else if !tile.dmaDone || !tile.controlPlaced then
        .next (s.updArray q a ({ · with seq := .handshake, holdOwner := some (f.q, f.idx) }))
      else .next (s.firstRun f q b a tile)
  | _, _ => .next s

/-! ## Adaptive steps (R260, R261, R266) -/

/-- What the rule of R261 finds: the state after the step, the change of a if there is one, and whether a
raise fell due at EXP_MAX. -/
structure StepResult where
  state : AdaptState
  change : Option Bool := none
  atMax : Bool := false
  deriving DecidableEq, Repr

/-- The rule of R261 on a tensor's state and a step's counts. -/
def adaptStep (a : AdaptState) (freezeAll : Bool) (c : AdaptCount) : StepResult :=
  let done (x : AdaptState) : AdaptState := { x with satLast := c.saturated }
  if a.freeze || freezeAll then { state := done a }
  else if a.thresh * c.outputs < c.saturated * 65536 then
    if a.exp < a.expMax then { state := done { a with exp := a.exp + 1, lowRun := 0 }, change := some true }
    else { state := done { a with lowRun := 0 }, atMax := true }
  else if 2 * c.maxMag < c.narrow then
    if a.lowRun + 1 = a.lowSteps then
      if a.expMin < a.exp then { state := done { a with exp := a.exp - 1, lowRun := 0 }, change := some false }
      else { state := done { a with lowRun := 0 } }
    else { state := done { a with lowRun := a.lowRun + 1 } }
  else { state := done { a with lowRun := 0 } }

/-- The exponent that replay's recorded decisions give a step (R266, R467): a step without an entry changed
nothing. `none`: the device decides. -/
def State.recordedStep (s : State) (f : Flight) (t : BitVec 16) (step : Word) (before : Int) : Option Int :=
  if !s.replaying || s.recorder.decide then none else
  match (s.decisionsOn 0x07 f.q f.idx).find? fun (d : Decision) => d.tensor = t && d.step = step with
  | some d => some d.after
  | none => if s.applying then some before else none

/-- One step of a tensor ends (R261). -/
def State.endStep (s : State) (q : QueueId) (idx : Word) (t : BitVec 16) (step : Word) : State :=
  match s.flight? q idx with
  | none => s
  | some f =>
    let r := f.run
    match r.adaptive.bind (·.find? fun (a : AdaptState) => a.tensor == t) with
    | some a =>
      let c := (r.counts.find? fun (c : AdaptCount) => c.tensor == t).getD ⟨t, 0, 0, 0, 0⟩
      let s := s.updFlight q idx fun f => { f with run := { f.run with
        counts := f.run.counts.filter fun (c : AdaptCount) => c.tensor != t
        stepped := if f.run.stepped.contains t then f.run.stepped else f.run.stepped ++ [t] } }
      if c.outputs = 0 then s else
      let out := adaptStep a (match r.home with | some h => h.freezeAll | none => false) c
      let applied := (s.recordedStep f t step a.exp).getD out.state.exp
      let s := if applied = out.state.exp then s
        else (s.report (s.commandEvent f 0xD007 .information 0)).countDiverge
      let steps := if applied = a.exp then [] else [⟨t, a.exp, applied, a.exp < applied, step⟩]
      s.updFlight q idx fun f => { f with run := { f.run with
        adaptive := f.run.adaptive.map fun l => l.map fun (x : AdaptState) =>
          if x.tensor == t then { out.state with exp := applied } else x
        steps := f.run.steps ++ steps
        info := if out.atMax then mergeInfo f.run.info (0xD006, 0) else f.run.info } }
    | none => s

/-! ## Release (R178, R199) -/

/-- The bytes a write stores: a 4-bit code leaves the other half of its byte. -/
def State.writeBytes (s : State) (c : CtxId) (w : TileWrite) : List Byte :=
  match w.half, w.bytes with
  | some high, [v] =>
    let old := ((readVa s c w.va.toNat 1).headD 0).toNat
    [if high then BitVec.ofNat 8 (old % 16 + 16 * v.toNat) else BitVec.ofNat 8 (old / 16 * 16 + v.toNat)]
  | _, bs => bs

/-- The results leave the Berth: the first fault of a page fails the command (R155), and a write that no
outbound window serves fails it with 0x5006 (R127). -/
def State.releaseWrites (s : State) (f : Flight) (ws : List TileWrite) : State × Bool :=
  let c := f.entry.ctx
  match ws.findSome? fun w => firstFault s c w.va.toNat w.bytes.length .write with
  | some e => (s.mmuFail f.q f.idx e, true)
  | none =>
    let out := ws.any fun w => (segments s c w.va.toNat w.bytes.length .write).any fun g =>
      outboundBase ≤ g.addr && !s.windowsHold g.addr g.len false
    let s := ws.foldl (fun s w => writeVa s c w.va.toNat (s.writeBytes c w)) s
    if out then (s.fail f.q f.idx 0x5006, true) else (s, false)

/-- A boundary: a pre-emption asked for takes place once no tile of the command runs (R428), and the
deadline is evaluated (R432). -/
def State.tileBoundary (s : State) (q : QueueId) (idx : Word) : State :=
  match s.flight? q idx with
  | none => s
  | some f =>
    if s.tileRunning q idx then s
    else if f.run.arrayDone && f.run.deckDone then
      s.updFlight q idx fun f => { f with
        haltSuspended := false, shedSuspended := false, run := { f.run with preempt := false } }
    else
      let s := s.evaluate q idx
      match s.flight? q idx with
      | some f =>
        if f.phase = .executing && State.stopAsked f then
          s.suspendDispatch q idx f.haltSuspended f.shedSuspended else s
      | none => s

/-- What a tile leaves in the Holds and the store of its Quay: the outputs that its control words write there, its
final pairs and its spectra (R192, R210, R245, R268). -/
def State.keepResults (s : State) (q : QuayId) (b : BerthId) (t : Tile) (y : Yield) : State :=
  let n := (s.berth q b).tileNo
  let s := t.holdWrites.foldl (fun s w => match writtenElem y n w with
    | some e => s.updBerth q w.berth fun x => { x with hold := putElems x.hold [e] }
    | none => s) s
  let s := s.updBerth q b fun x => { x with hold := putElems x.hold y.kept }
  s.updQuay q fun x => { x with store := y.stored.foldl (fun l (w : Nat × List Byte) => putBytes l w.1 w.2) x.store }

/-- Release a tile's results and count it (R178, R194, R260); its last tile ends the array part (R397). The NaN that it
met are logged whether or not its results can be written (R243, R256). -/
def State.releaseTile (s : State) (f : Flight) (q : QuayId) (b : BerthId) (a : List Nat) (r : TileRun) (y : Yield) :
    State :=
  let s := s.noteNan f y
  let (s, failed) := s.releaseWrites f y.writes
  if failed then s else
  let s := s.keepResults q b r.tile y
  let s := s.updFlight f.q f.idx fun f =>
    let deck := match f.run.entry? with | some e => e.deckCores != 0 | none => false
    { f with run := { f.run with
      tilesDone := f.run.tilesDone + 1
      arrayDone := f.run.arrayDone || r.tile.last
      deckWaiting := f.run.deckWaiting || (r.tile.last && deck && !f.run.deckDone)
      deckFrom := if r.tile.last && !f.run.deckWaiting then s.now else f.run.deckFrom
      counts := y.counts.foldl mergeCount f.run.counts
      info := (y.info.filter fun c => c.1 = 0xD001).foldl mergeInfo f.run.info } }
  let s := r.tile.stepEnds.foldl (fun s (e : BitVec 16 × Nat) =>
    s.endStep f.q f.idx e.1 (BitVec.ofNat 32 (r.tile.stepBase + e.2))) s
  let s := s.updArray q a ({ · with seq := .idle })
  let s := s.updBerth q b fun x => { x with
    tile := none, tileNo := x.tileNo + 1, passNo := x.passNo + r.tile.passes
    sfuPassNo := x.sfuPassNo + r.tile.sfuPasses }
  (s.tileBoundary f.q f.idx).settle

/-! ## TILE_END -/

/-- The tile at a Berth ends now: it ran within the watchdog's length, with its command and its array. -/
def State.endingTile (s : State) (q : QuayId) (b : BerthId) (rerun : Bool) :
    Option (TileRun × Flight × List Nat) :=
  if !s.fwUp || s.quays[q].recoveryFence then none else
  match (s.berth q b).tile, s.arrayAt q b with
  | some r, some a =>
    if r.rerun = rerun && r.tile.runs ≤ r.tile.stated + 4096 then
      (s.flight? r.cmd.1 r.cmd.2).map fun f => (r, f, a)
    else none
  | _, _ => none

/-- TILE_END (R178, R199): the results are released, or held back for one re-run. -/
def execTileEnd (q : QuayId) (b : BerthId) (faults : List TileFault) (s : State) : Result :=
  match s.endingTile q b false with
  | none => .next s
  | some (r, f, a) =>
    let faults := faultsOn a faults
    let seen := s.seen q b r.env false r.tile faults
    if seen.isEmpty then .next (s.releaseTile f q b a r (runOps { r.env with faults } r.tile.ops))
    else
      let captured := match drainSeen seen with
        | some (p, _, _) => if (s.berth q p.berth).residue.valid then none else some p.berth
        | none => none
      let s := match drainSeen seen with
        | some (p, carried, computed) => s.updBerth q p.berth (captureResidue · p carried computed)
        | none => s
      .next (s.updBerth q b fun x => { x with tile := some { r with rerun := true, first := seen, captured } })

/-! ## TILE_RERUN_END -/

/-- Record a check's event and count it at its location. -/
def State.checkEvent (s : State) (e : Event) (loc : RepairLoc) (weight : Nat) : State :=
  (s.report { e with counted := true }).countRepair loc weight e.reason

/-- The re-run agreed: what its first run saw is recorded as corrected (R199, R214, R246, R289, R304). -/
def State.corrected (s : State) (f : Flight) (q : QuayId) (l : List Seen) : State :=
  let s := match drainSeen l with
    | some (p, _, _) =>
      let s := s.updBerth q p.berth fun x => { x with countResidue := satInc x.countResidue }
      (s.report { s.tileEvent f q p.berth 0x1001 .corrected 0 true with
        column := BitVec.ofNat 8 p.col.val }).countColumn q p.berth p.col
    | none => s
  let s := match l.findSome? fun d => match d with | .sfu b n => some (b, n) | _ => none with
    | some (b, n) => s.checkEvent (s.tileEvent f q b 0x2007 .corrected 1 true) (.sfuLane q b n) 1
    | none => s
  let s := match l.findSome? fun d => match d with | .swell b n => some (b, n) | _ => none with
    | some (b, n) => s.checkEvent (s.tileEvent f q b 0x200B .corrected 1 true) (.swellLane q b n) 1
    | none => s
  if l.contains .transform then s.checkEvent (s.tileEvent f q none 0x3010 .corrected 2 true) (.transform q) 1 else s

/-- The re-run mismatched again: what it saw is recorded as contained; the codes, the first of which ends
the command (R199, R214, R246, R289, R304; an uncorrectable event counts as three, R458, R497). QUAY_BbRESIDUE is
located where it holds this tile's mismatch (R203). -/
def State.contained (s : State) (f : Flight) (q : QuayId) (captured : Option BerthId) (l : List Seen) :
    State × List (BitVec 16) :=
  let (s, codes) := match drainSeen l with
    | some (p, carried, computed) =>
      let s := s.updBerth q p.berth fun x =>
        let y := { captureResidue x p carried computed with countResidue := satInc x.countResidue }
        if (!x.residue.valid || captured = some p.berth) && y.residue.column = BitVec.ofNat 6 p.col.val then
          { y with residue := { y.residue with located := true, cell := BitVec.ofNat 4 p.cell.val } }
        else y
      let e := { s.tileEvent f q p.berth 0x1002 .contained 0 true with
        cell := BitVec.ofNat 8 p.cell.val, column := BitVec.ofNat 8 p.col.val }
      (s.checkEvent e (.column q p.berth p.cell (Fin.ofNat 16 p.col.val)) 3, [(0x1002 : BitVec 16)])
    | none => (s, [])
  let (s, codes) := match l.findSome? fun d => match d with | .sfu b n => some (b, n) | _ => none with
    | some (b, n) => (s.checkEvent (s.tileEvent f q b 0x2008 .contained 1 true) (.sfuLane q b n) 1, codes ++ [0x2008])
    | none => (s, codes)
  let (s, codes) := match l.findSome? fun d => match d with | .swell b n => some (b, n) | _ => none with
    | some (b, n) => (s.checkEvent (s.tileEvent f q b 0x200C .contained 1 true) (.swellLane q b n) 1, codes ++ [0x200C])
    | none => (s, codes)
  if l.contains .transform then
    (s.checkEvent (s.tileEvent f q none 0x3011 .contained 2 true) (.transform q) 1, codes ++ [0x3011])
  else (s, codes)

/-- TILE_RERUN_END (R199): a tile is re-run at most once. -/
def execTileRerunEnd (q : QuayId) (b : BerthId) (faults : List TileFault) (s : State) : Result :=
  match s.endingTile q b true with
  | none => .next s
  | some (r, f, a) =>
    let faults := faultsOn a faults
    let seen := s.seen q b r.env true r.tile faults
    if seen.isEmpty then
      .next ((s.corrected f q r.first).releaseTile f q b a r (runOps { r.env with faults } r.tile.ops))
    else
      let (s, codes) := s.contained f q r.captured seen
      let s := (s.noteDiscarded f r).updArray q a ({ · with seq := .stopped, tile := none })
      .next (s.failQuiet f.q f.idx (codes.headD 0x1002))

/-! ## Watchdogs and traps -/

/-- SEQUENCER_WATCHDOG (R180): the tile has run 4,096 cycles past its stated length. -/
def execSequencerWatchdog (q : QuayId) (b : BerthId) (s : State) : Result :=
  if !s.fwUp then .next s else
  match (s.berth q b).tile, s.arrayAt q b with
  | some r, some a =>
    match s.flight? r.cmd.1 r.cmd.2 with
    | some f =>
      if r.tile.stated + 4096 < r.tile.runs then
        .next (s.stopTile f q a (s.tileEvent f q b 0x2003 .contained 1 false))
      else .next s
    | none => .next s
  | _, _ => .next s

/-- The Pilot of a Quay stops its command and is reset alone (R403). -/
def State.stopPilot (s : State) (q : QuayId) (reason : BitVec 16) : State :=
  match s.quayOwner q with
  | some f =>
    if !s.quays[q].pilotRunning || s.quays[q].resetting || f.run.arrayDone then s else
    let s := s.updQuay q ({ · with pilotRunning := false })
    (s.report (s.tileEvent f q none reason .contained 2 false)).failQuiet f.q f.idx reason
  | none => s

/-- PILOT_WATCHDOG. -/
def execPilotWatchdog (q : QuayId) (s : State) : Result :=
  if s.fwUp then .next (s.stopPilot q 0x3001) else .next s

/-- PILOT_TRAP. -/
def execPilotTrap (q : QuayId) (s : State) : Result :=
  if s.fwUp then .next (s.stopPilot q 0x3005) else .next s

end Sys2Proof.Machine
end

