-- ==== Sys2Proof/Machine/Dispatch.lean ====
section
/-! DEFINITION. The meaning of every command: one arm per constructor of `Instr`. -/

namespace Sys2Proof.Machine

def exec (i : Instr) (s : State) : Host.Outcome State Fault Refusal :=
  match i with
  | .supplyPowerUp testen => Sys2Proof.Machine.execSupplyPowerUp testen s
  | .supplyLoss => Sys2Proof.Machine.execSupplyLoss s
  | .testenHigh => Sys2Proof.Machine.execTestenHigh s
  | .perstNAssert hotReset => Sys2Proof.Machine.execPerstNAssert hotReset s
  | .perstNRelease hottest => Sys2Proof.Machine.execPerstNRelease hottest s
  | .tideClockLock => Sys2Proof.Machine.execTideClockLock s
  | .pufDone seed bad => Sys2Proof.Machine.execPufDone seed bad s
  | .bistDone found bad => Sys2Proof.Machine.execBistDone found bad s
  | .trainingDone failing values => Sys2Proof.Machine.execTrainingDone failing values s
  | .alignDone islands => Sys2Proof.Machine.execAlignDone islands s
  | .customsStageTimeout => Sys2Proof.Machine.execCustomsStageTimeout s
  | .dbgtoken token => Sys2Proof.Machine.execDbgtoken token s
  | .bootRelease value => Sys2Proof.Machine.execBootRelease value s
  | .bootHoldWrite offset data => Sys2Proof.Machine.execBootHoldWrite offset data s
  | .checkingDone bad => Sys2Proof.Machine.execCheckingDone bad s
  | .keysDone => Sys2Proof.Machine.execKeysDone s
  | .bootMinverAdvance value => Sys2Proof.Machine.execBootMinverAdvance value s
  | .functionLevelReset passed misread => Sys2Proof.Machine.execFunctionLevelReset passed misread s
  | .functionResetComplete => Sys2Proof.Machine.execFunctionResetComplete s
  | .hostifDevReset value => Sys2Proof.Machine.execHostifDevReset value s
  | .devResetComplete => Sys2Proof.Machine.execDevResetComplete s
  | .quayReset q byFirmware => Sys2Proof.Machine.execQuayReset q byFirmware s
  | .quayResetComplete q => Sys2Proof.Machine.execQuayResetComplete q s
  | .d3hotEntry bad => Sys2Proof.Machine.execD3hotEntry bad s
  | .d0Return => Sys2Proof.Machine.execD0Return s
  | .l12Entry => Sys2Proof.Machine.execL12Entry s
  | .l12Exit => Sys2Proof.Machine.execL12Exit s
  | .refclkLoss => Sys2Proof.Machine.execRefclkLoss s
  | .refclkReturn ticks => Sys2Proof.Machine.execRefclkReturn ticks s
  | .lightIdleEntry q => Sys2Proof.Machine.execLightIdleEntry q s
  | .berthPowerGate q b => Sys2Proof.Machine.execBerthPowerGate q b s
  | .berthWake q b => Sys2Proof.Machine.execBerthWake q b s
  | .slackWaterEntry bad => Sys2Proof.Machine.execSlackWaterEntry bad s
  | .slackWaterExit cause => Sys2Proof.Machine.execSlackWaterExit cause s
  | .registerWrite target size value enables poisoned => Sys2Proof.Machine.execRegisterWrite target size value enables poisoned s
  | .tideCountRead wide => Sys2Proof.Machine.execTideCountRead wide s
  | .bar2Read offset length => Sys2Proof.Machine.execBar2Read offset length s
  | .bar2Write offset data poisoned => Sys2Proof.Machine.execBar2Write offset data poisoned s
  | .bar2Resize log2 => Sys2Proof.Machine.execBar2Resize log2 s
  | .outboundCompletion purpose status => Sys2Proof.Machine.execOutboundCompletion purpose status s
  | .outboundCompletionTimeout purpose => Sys2Proof.Machine.execOutboundCompletionTimeout purpose s
  | .haltAll => Sys2Proof.Machine.execHaltAll s
  | .haltPreempt => Sys2Proof.Machine.execHaltPreempt s
  | .haltRelease => Sys2Proof.Machine.execHaltRelease s
  | .queueSweep => Sys2Proof.Machine.execQueueSweep s
  | .queueEnable q => Sys2Proof.Machine.execQueueEnable q s
  | .queueDisable q => Sys2Proof.Machine.execQueueDisable q s
  | .queueRestart q => Sys2Proof.Machine.execQueueRestart q s
  | .commandEligible q => Sys2Proof.Machine.execCommandEligible q s
  | .nop q idx => Sys2Proof.Machine.execNop q idx s
  | .dispatch q idx cargo fallback => Sys2Proof.Machine.execDispatch q idx cargo fallback s
  | .dispatchAdmit => Sys2Proof.Machine.execDispatchAdmit s
  | .dispatchComplete q idx => Sys2Proof.Machine.execDispatchComplete q idx s
  | .copy q idx => Sys2Proof.Machine.execCopy q idx s
  | .copyDone q idx => Sys2Proof.Machine.execCopyDone q idx s
  | .peerCopy q idx => Sys2Proof.Machine.execPeerCopy q idx s
  | .peerCopyDone q idx => Sys2Proof.Machine.execPeerCopyDone q idx s
  | .flagSet q idx => Sys2Proof.Machine.execFlagSet q idx s
  | .flagAdd q idx => Sys2Proof.Machine.execFlagAdd q idx s
  | .flagWait q idx => Sys2Proof.Machine.execFlagWait q idx s
  | .flagWaitTimeout q idx => Sys2Proof.Machine.execFlagWaitTimeout q idx s
  | .streamBind q idx => Sys2Proof.Machine.execStreamBind q idx s
  | .tableLoad q idx => Sys2Proof.Machine.execTableLoad q idx s
  | .timestamp q idx => Sys2Proof.Machine.execTimestamp q idx s
  | .fence q idx => Sys2Proof.Machine.execFence q idx s
  | .completionSlotFree q => Sys2Proof.Machine.execCompletionSlotFree q s
  | .hostFlagWrite f value => Sys2Proof.Machine.execHostFlagWrite f value s
  | .hostFlagAdd f value => Sys2Proof.Machine.execHostFlagAdd f value s
  | .contextRegister c => Sys2Proof.Machine.execContextRegister c s
  | .contextInvalidate c => Sys2Proof.Machine.execContextInvalidate c s
  | .contextUnregister c => Sys2Proof.Machine.execContextUnregister c s
  | .tableWalkDone c => Sys2Proof.Machine.execTableWalkDone c s
  | .acctClear c => Sys2Proof.Machine.execAcctClear c s
  | .manifestEnable perQuay drain quays => Sys2Proof.Machine.execManifestEnable perQuay drain quays s
  | .manifestCheck image => Sys2Proof.Machine.execManifestCheck image s
  | .manifestQuayApply q => Sys2Proof.Machine.execManifestQuayApply q s
  | .lockedRegionEffect unit => Sys2Proof.Machine.execLockedRegionEffect unit s
  | .triggerFire n => Sys2Proof.Machine.execTriggerFire n s
  | .tileRun q b tile => Sys2Proof.Machine.execTileRun q b tile s
  | .tileEnd q b faults => Sys2Proof.Machine.execTileEnd q b faults s
  | .tileRerunEnd q b faults => Sys2Proof.Machine.execTileRerunEnd q b faults s
  | .sequencerWatchdog q b => Sys2Proof.Machine.execSequencerWatchdog q b s
  | .pilotWatchdog q => Sys2Proof.Machine.execPilotWatchdog q s
  | .pilotTrap q => Sys2Proof.Machine.execPilotTrap q s
  | .deckPartStart => Sys2Proof.Machine.execDeckPartStart s
  | .deckPartEnd q idx stores words => Sys2Proof.Machine.execDeckPartEnd q idx stores words s
  | .deckTrap traps => Sys2Proof.Machine.execDeckTrap traps s
  | .deckWatchdog q idx => Sys2Proof.Machine.execDeckWatchdog q idx s
  | .lighteringDone q idx words holds => Sys2Proof.Machine.execLighteringDone q idx words holds s
  | .restoreDone q idx => Sys2Proof.Machine.execRestoreDone q idx s
  | .contextResident c => Sys2Proof.Machine.execContextResident c s
  | .deadlineEvaluation q idx => Sys2Proof.Machine.execDeadlineEvaluation q idx s
  | .cycleCheck => Sys2Proof.Machine.execCycleCheck s
  | .fwifLoad => Sys2Proof.Machine.execFwifLoad s
  | .stage2LoadDone => Sys2Proof.Machine.execStage2LoadDone s
  | .stage2PageCheck page => Sys2Proof.Machine.execStage2PageCheck page s
  | .negotiate => Sys2Proof.Machine.execNegotiate s
  | .negotiateDone => Sys2Proof.Machine.execNegotiateDone s
  | .sfuMode => Sys2Proof.Machine.execSfuMode s
  | .report => Sys2Proof.Machine.execReport s
  | .commission => Sys2Proof.Machine.execCommission s
  | .memtest corrected uncorrectable => Sys2Proof.Machine.execMemtest corrected uncorrectable s
  | .fwRequestDone => Sys2Proof.Machine.execFwRequestDone s
  | .logRingEnable => Sys2Proof.Machine.execLogRingEnable s
  | .traceRingEnable => Sys2Proof.Machine.execTraceRingEnable s
  | .faultRingEnable => Sys2Proof.Machine.execFaultRingEnable s
  | .heartbeat seq writes => Sys2Proof.Machine.execHeartbeat seq writes s
  | .heartbeatWindowEnd => Sys2Proof.Machine.execHeartbeatWindowEnd s
  | .lockstepMismatch => Sys2Proof.Machine.execLockstepMismatch s
  | .relaunchSelfTestDone passed => Sys2Proof.Machine.execRelaunchSelfTestDone passed s
  | .relaunchDigestDone misread => Sys2Proof.Machine.execRelaunchDigestDone misread s
  | .relaunchComplete => Sys2Proof.Machine.execRelaunchComplete s
  | .quayArbitrationFault q at_ cq idx => Sys2Proof.Machine.execQuayArbitrationFault q at_ cq idx s
  | .deviceArbitrationFault => Sys2Proof.Machine.execDeviceArbitrationFault s
  | .localisingTile q b column mismatch => Sys2Proof.Machine.execLocalisingTile q b column mismatch s
  | .repairApply loc => Sys2Proof.Machine.execRepairApply loc s
  | .repairQuietTimeout loc => Sys2Proof.Machine.execRepairQuietTimeout loc s
  | .repairMapWriteDone => Sys2Proof.Machine.execRepairMapWriteDone s
  | .harbourAccess agent addr write victim ecc command => Sys2Proof.Machine.execHarbourAccess agent addr write victim ecc command s
  | .harbourScrub slice way set ecc => Sys2Proof.Machine.execHarbourScrub slice way set ecc s
  | .memoryRequest req => Sys2Proof.Machine.execMemoryRequest req s
  | .memoryDataPhase ch pick phase => Sys2Proof.Machine.execMemoryDataPhase ch pick phase s
  | .refreshWindow ch bank => Sys2Proof.Machine.execRefreshWindow ch bank s
  | .periodicRetrain ch => Sys2Proof.Machine.execPeriodicRetrain ch s
  | .periodicRetrainEnd ch found drift points => Sys2Proof.Machine.execPeriodicRetrainEnd ch found drift points s
  | .fullFieldRetrainDone ch ok values => Sys2Proof.Machine.execFullFieldRetrainDone ch ok values s
  | .patrolScrub addr result => Sys2Proof.Machine.execPatrolScrub addr result s
  | .hotSet reading => Sys2Proof.Machine.execHotSet reading s
  | .hotClear reading => Sys2Proof.Machine.execHotClear reading s
  | .strictRecoveryExit ch => Sys2Proof.Machine.execStrictRecoveryExit ch s
  | .memctlStrictWrite strict => Sys2Proof.Machine.execMemctlStrictWrite strict s
  | .memctlHiddenWrite hidden => Sys2Proof.Machine.execMemctlHiddenWrite hidden s
  | .csiFrameStart p vc frameNo ecc => Sys2Proof.Machine.execCsiFrameStart p vc frameNo ecc s
  | .csiLongPacket p vc dataType ecc crcOk pixels line fifoOverflow => Sys2Proof.Machine.execCsiLongPacket p vc dataType ecc crcOk pixels line fifoOverflow s
  | .csiFrameEnd p vc ecc => Sys2Proof.Machine.execCsiFrameEnd p vc ecc s
  | .csiPhyError p => Sys2Proof.Machine.execCsiPhyError p s
  | .framePeriodExpiry p => Sys2Proof.Machine.execFramePeriodExpiry p s
  | .csiDeclare p lossFrames => Sys2Proof.Machine.execCsiDeclare p lossFrames s
  | .csiUndeclare p lossFrames => Sys2Proof.Machine.execCsiUndeclare p lossFrames s
  | .csiPortCfgWrite p value => Sys2Proof.Machine.execCsiPortCfgWrite p value s
  | .pipeFrameComplete sc => Sys2Proof.Machine.execPipeFrameComplete sc s
  | .streamBlank sc outLine branchLines => Sys2Proof.Machine.execStreamBlank sc outLine branchLines s
  | .streamUnblank sc => Sys2Proof.Machine.execStreamUnblank sc s
  | .feedGo sc => Sys2Proof.Machine.execFeedGo sc s
  | .feedDone sc => Sys2Proof.Machine.execFeedDone sc s
  | .codecSessionEnable n => Sys2Proof.Machine.execCodecSessionEnable n s
  | .codecSessionDisable n => Sys2Proof.Machine.execCodecSessionDisable n s
  | .forceKey n => Sys2Proof.Machine.execForceKey n s
  | .codecFeedGo n => Sys2Proof.Machine.execCodecFeedGo n s
  | .codecFrameStart n found => Sys2Proof.Machine.execCodecFrameStart n found s
  | .codecChunkDone n => Sys2Proof.Machine.execCodecChunkDone n s
  | .syncInPulse => Sys2Proof.Machine.execSyncInPulse s
  | .syncOutPulse => Sys2Proof.Machine.execSyncOutPulse s
  | .ptmMeasurement masterNs => Sys2Proof.Machine.execPtmMeasurement masterNs s
  | .ptmLock masterNs => Sys2Proof.Machine.execPtmLock masterNs s
  | .recordEnable ctrl => Sys2Proof.Machine.execRecordEnable ctrl s
  | .recordDisable => Sys2Proof.Machine.execRecordDisable s
  | .recordCheckpoint => Sys2Proof.Machine.execRecordCheckpoint s
  | .checkpointStateWrite => Sys2Proof.Machine.execCheckpointStateWrite s
  | .replayEntryApply => Sys2Proof.Machine.execReplayEntryApply s
  | .powerEstimate milliwatts => Sys2Proof.Machine.execPowerEstimate milliwatts s
  | .budgetCompare => Sys2Proof.Machine.execBudgetCompare s
  | .droopDetect island => Sys2Proof.Machine.execDroopDetect island s
  | .droopRelease island => Sys2Proof.Machine.execDroopRelease island s
  | .avsSetpointChange mv => Sys2Proof.Machine.execAvsSetpointChange mv s
  | .avsStatusPoll => Sys2Proof.Machine.execAvsStatusPoll s
  | .avsResponse answer => Sys2Proof.Machine.execAvsResponse answer s
  | .sagEstablished rail mv => Sys2Proof.Machine.execSagEstablished rail mv s
  | .shedStep => Sys2Proof.Machine.execShedStep s
  | .holdLimitFall rail mv => Sys2Proof.Machine.execHoldLimitFall rail mv s
  | .step6Timeout elapsed mv => Sys2Proof.Machine.execStep6Timeout elapsed mv s
  | .sagRecovered core io => Sys2Proof.Machine.execSagRecovered core io s
  | .shedReturn => Sys2Proof.Machine.execShedReturn s
  | .thermalTrip reading => Sys2Proof.Machine.execThermalTrip reading s
  | .thermalHoldRelease reading => Sys2Proof.Machine.execThermalHoldRelease reading s
  | .pcieLinkUp => Sys2Proof.Machine.execPcieLinkUp s
  | .codecFeedDone n => Sys2Proof.Machine.execCodecFeedDone n s
  | .journalSlotFree q => Sys2Proof.Machine.execJournalSlotFree q s
  | .csiUlpsEntry p => Sys2Proof.Machine.execCsiUlpsEntry p s
  | .csiUlpsExit p => Sys2Proof.Machine.execCsiUlpsExit p s
  | .jtagInstruction ins => Sys2Proof.Machine.execJtagInstruction ins s

end Sys2Proof.Machine
end

