-- ==== Sys2Proof/Safety.lean ====
section
/-! DEFINITION. What counts as a safe run: every step answers a next state, and the secure store only
grows. -/

namespace Sys2Proof.Machine

/-- The step answers a next state. -/
def stepsOn (s : State) : Prop := ∃ t, step s = .next t

/-- From `a` to `b` the secure store only grows: BOOT_MINVER never decreases (R75), no rollback bit and no
OWNER_ONLY that the next start takes clears, no owner key goes (R76), the certificate of manufacturing test stays
and no general counter decreases (R82). -/
abbrev Secure.Grows (a b : Secure) : Prop :=
  a.minver.toNat ≤ b.minver.toNat ∧ (a.nextV = true → b.nextV = true) ∧ (a.nextK = true → b.nextK = true) ∧
  (a.nextOwnerOnly = true → b.nextOwnerOnly = true) ∧ (a.nextOwnerSet = true → b.nextOwnerSet = true) ∧
  b.certificate = a.certificate ∧ ∀ i : Fin 16, a.counters[i].toNat ≤ b.counters[i].toNat

/-- The fields of State by name. -/
inductive Field where
  | part | secure | boot | env | cfg | aer | hostif | ltr | ready | fwif | heart | marks | queues
  | flags | ctxs | flights | sched | manifest | quays | mem | harbour | memctl | memhost | portErrs
  | ports | streams | blanks | trigs | sessions | codecs | deckFaults | deckOwner | deckReduced
  | tide | recorder | power | keep | faults | lighthouse | seeds | freeCount | outbox | pending
  deriving DecidableEq, Repr

/-- A field holds the same in two states. -/
def Field.same : Field → State → State → Prop
  | .part, s, t => t.part = s.part
  | .secure, s, t => t.secure = s.secure
  | .boot, s, t => t.boot = s.boot
  | .env, s, t => t.env = s.env
  | .cfg, s, t => t.cfg = s.cfg
  | .aer, s, t => t.aer = s.aer
  | .hostif, s, t => t.hostif = s.hostif
  | .ltr, s, t => t.ltr = s.ltr
  | .ready, s, t => t.ready = s.ready
  | .fwif, s, t => t.fwif = s.fwif
  | .heart, s, t => t.heart = s.heart
  | .marks, s, t => t.marks = s.marks
  | .queues, s, t => t.queues = s.queues
  | .flags, s, t => t.flags = s.flags
  | .ctxs, s, t => t.ctxs = s.ctxs
  | .flights, s, t => t.flights = s.flights
  | .sched, s, t => t.sched = s.sched
  | .manifest, s, t => t.manifest = s.manifest
  | .quays, s, t => t.quays = s.quays
  | .mem, s, t => t.mem = s.mem
  | .harbour, s, t => t.harbour = s.harbour
  | .memctl, s, t => t.memctl = s.memctl
  | .memhost, s, t => t.memhost = s.memhost
  | .portErrs, s, t => t.portErrs = s.portErrs
  | .ports, s, t => t.ports = s.ports
  | .streams, s, t => t.streams = s.streams
  | .blanks, s, t => t.blanks = s.blanks
  | .trigs, s, t => t.trigs = s.trigs
  | .sessions, s, t => t.sessions = s.sessions
  | .codecs, s, t => t.codecs = s.codecs
  | .deckFaults, s, t => t.deckFaults = s.deckFaults
  | .deckOwner, s, t => t.deckOwner = s.deckOwner
  | .deckReduced, s, t => t.deckReduced = s.deckReduced
  | .tide, s, t => t.tide = s.tide
  | .recorder, s, t => t.recorder = s.recorder
  | .power, s, t => t.power = s.power
  | .keep, s, t => t.keep = s.keep
  | .faults, s, t => t.faults = s.faults
  | .lighthouse, s, t => t.lighthouse = s.lighthouse
  | .seeds, s, t => t.seeds = s.seeds
  | .freeCount, s, t => t.freeCount = s.freeCount
  | .outbox, s, t => t.outbox = s.outbox
  | .pending, s, t => t.pending = s.pending

/-- `t` is `s` but for the listed fields: the frame of what led from `s` to `t`. -/
def State.sameBut (l : List Field) (s t : State) : Prop := ∀ f, f ∉ l → f.same s t

/-- What recording a reason code may change (R412, R490, R514, R129). -/
abbrev reporting : List Field := [.cfg, .fwif, .mem, .faults, .outbox]

/-- What the end of a command may change: its record and what it settles (R123, R131, R148, R151). -/
abbrev settling : List Field :=
  reporting ++ [.hostif, .ltr, .queues, .ctxs, .flights, .quays, .deckOwner]

/-- Every field but the listed ones. -/
def allBut (l : List Field) : List Field :=
  [.part, .secure, .boot, .env, .cfg, .aer, .hostif, .ltr, .ready, .fwif, .heart, .marks, .queues, .flags, .ctxs,
    .flights, .sched, .manifest, .quays, .mem, .harbour, .memctl, .memhost, .portErrs, .ports, .streams, .blanks,
    .trigs, .sessions, .codecs, .deckFaults, .deckOwner, .deckReduced, .tide, .recorder, .power, .keep, .faults,
    .lighthouse, .seeds, .freeCount, .outbox, .pending].filter fun f => !l.contains f

/-- The fields a command may change; every other field it leaves as it was. -/
def mayChange (c : Instr) : List Field :=
  match c with
  | .supplyPowerUp .. | .supplyLoss .. | .testenHigh .. => allBut [.part, .freeCount, .outbox, .pending]
  | .perstNAssert .. => allBut [.part, .freeCount, .pending]
  | .perstNRelease .. | .thermalHoldRelease .. => [.boot, .env, .outbox]
  | .tideClockLock .. => [.tide]
  | .pufDone .. | .checkingDone .. => reporting ++ [.secure, .boot]
  | .bistDone .. => reporting ++ [.secure, .boot, .manifest, .quays, .harbour, .memctl]
  | .trainingDone .. => reporting ++ [.boot, .env, .memctl, .lighthouse]
  | .alignDone .. => reporting ++ [.boot, .env, .memctl, .tide, .lighthouse]
  | .customsStageTimeout .. => reporting ++ [.boot, .env, .lighthouse]
  | .dbgtoken .. => [.boot]
  | .bootRelease .. => [.boot, .env, .ltr, .memctl, .outbox]
  | .bootHoldWrite .. | .bar2Write .. => reporting ++ [.boot, .env, .aer, .ltr, .memctl, .recorder]
  | .keysDone .. => [.boot, .heart, .mem, .freeCount]
  | .bootMinverAdvance .. => reporting ++ [.secure, .env, .ltr, .memctl]
  | .functionLevelReset .. => allBut [.part, .secure, .boot, .aer, .marks, .harbour, .portErrs, .blanks,
    .deckFaults, .deckReduced, .power, .seeds, .freeCount, .pending]
  | .functionResetComplete .. => reporting ++ [.env, .heart, .lighthouse]
  | .hostifDevReset .. => allBut [.part, .secure, .boot, .cfg, .aer, .marks, .harbour, .portErrs, .blanks,
    .deckFaults, .deckReduced, .power, .lighthouse, .seeds, .freeCount, .pending]
  | .devResetComplete .. => settling ++ [.env, .heart, .sched]
  | .quayReset .. => settling ++ [.env, .memctl, .tide, .recorder, .seeds]
  | .quayResetComplete .. => [.quays]
  | .d3hotEntry .. => settling ++ [.env, .marks, .flags, .harbour, .memctl, .ports, .streams, .sessions,
    .codecs, .tide, .recorder]
  | .d0Return .. => settling ++ [.env, .sched, .memctl, .sessions]
  | .l12Entry .. => [.env, .fwif, .quays, .sessions, .tide, .recorder]
  | .l12Exit .. | .droopDetect .. | .pcieLinkUp .. => [.env]
  | .refclkLoss .. => [.env, .tide]
  | .refclkReturn .. => reporting ++ [.env, .tide]
  | .lightIdleEntry .. => [.ltr, .quays, .outbox]
  | .berthPowerGate .. => [.quays, .tide]
  | .berthWake .. => [.ltr, .quays, .tide, .outbox]
  | .slackWaterEntry .. => reporting ++ [.env, .ltr, .quays, .harbour, .memctl, .sessions, .tide, .recorder]
  | .slackWaterExit .. => [.env, .ltr, .memctl, .outbox]
  | .registerWrite .. => allBut [.part, .portErrs, .deckReduced, .pending]
  | .tideCountRead .. => [.env, .ltr, .memctl, .tide, .outbox]
  | .bar2Read .. | .fwifLoad .. | .negotiate .. | .logRingEnable .. | .traceRingEnable .. => reporting ++
    [.env, .ltr, .memctl]
  | .bar2Resize .. => [.cfg]
  | .outboundCompletion .. => settling ++ [.aer, .streams, .recorder, .seeds]
  | .outboundCompletionTimeout .. => settling ++ [.aer, .recorder, .seeds]
  | .haltAll .. | .haltPreempt .. | .haltRelease .. => settling ++ [.env, .sched, .memctl]
  | .queueSweep .. => settling ++ [.sched, .tide, .recorder]
  | .queueEnable .. | .queueDisable .. | .queueRestart .. => settling ++ [.env, .memctl, .recorder]
  | .commandEligible .. => settling ++ [.tide, .recorder, .seeds, .freeCount]
  | .nop .. | .fence .. | .completionSlotFree .. | .journalSlotFree .. => settling
  | .dispatch .. | .dispatchComplete .. | .tileEnd .. | .tileRerunEnd .. | .deadlineEvaluation .. => settling
    ++ [.recorder, .seeds]
  | .dispatchAdmit .. => settling ++ [.recorder, .seeds, .freeCount]
  | .copy .. | .copyDone .. | .peerCopy .. | .peerCopyDone .. | .flagWait .. | .timestamp .. |
    .sequencerWatchdog .. | .pilotWatchdog .. | .pilotTrap .. | .deckPartStart .. | .deckPartEnd .. | .restoreDone
    .. | .quayArbitrationFault .. => settling ++ [.seeds]
  | .flagSet .. | .flagAdd .. => settling ++ [.flags]
  | .flagWaitTimeout .. => settling ++ [.tide, .recorder, .seeds]
  | .streamBind .. => settling ++ [.streams, .seeds]
  | .tableLoad .. => settling ++ [.streams, .recorder, .seeds]
  | .hostFlagWrite .. | .hostFlagAdd .. => settling ++ [.env, .flags, .memctl, .recorder]
  | .contextRegister .. | .contextInvalidate .. | .contextUnregister .. => reporting ++ [.env, .ltr, .ctxs,
    .memctl, .recorder]
  | .tableWalkDone .. => [.ctxs, .mem]
  | .acctClear .. => [.env, .ltr, .ctxs, .memctl, .outbox]
  | .manifestEnable .. => reporting ++ [.env, .ltr, .manifest, .memctl]
  | .manifestCheck .. => reporting ++ [.ctxs, .flights, .manifest, .quays, .memctl, .memhost, .ports,
    .streams, .trigs, .deckOwner, .recorder, .seeds]
  | .manifestQuayApply .. => settling ++ [.manifest, .memctl, .memhost, .ports, .streams, .trigs, .tide,
    .recorder, .seeds]
  | .lockedRegionEffect .. => [.mem, .memhost]
  | .triggerFire .. => [.trigs, .tide, .outbox]
  | .tileRun .. => settling ++ [.marks, .seeds]
  | .deckTrap .. | .deckWatchdog .. => settling ++ [.deckFaults, .tide, .seeds]
  | .lighteringDone .. => settling ++ [.marks, .seeds, .freeCount]
  | .contextResident .. => settling ++ [.seeds, .freeCount]
  | .cycleCheck .. => settling ++ [.sched, .recorder, .seeds]
  | .stage2LoadDone .. => reporting
  | .stage2PageCheck .. => reporting ++ [.aer, .hostif, .ltr, .ready, .queues, .flights, .quays, .memctl,
    .deckOwner]
  | .negotiateDone .. => reporting ++ [.ltr, .ready, .queues, .sched, .manifest]
  | .sfuMode .. => [.ready, .fwif]
  | .report .. => [.fwif, .freeCount]
  | .commission .. => [.secure, .fwif]
  | .memtest .. | .memoryDataPhase .. | .patrolScrub .. => settling ++ [.marks, .memctl, .seeds]
  | .fwRequestDone .. | .hotSet .. | .hotClear .. => reporting ++ [.memctl]
  | .faultRingEnable .. => reporting ++ [.env, .ltr, .memctl, .lighthouse]
  | .heartbeat .. => [.secure, .fwif, .heart]
  | .heartbeatWindowEnd .. | .lockstepMismatch .. => allBut [.part, .secure, .marks, .harbour, .portErrs,
    .blanks, .deckFaults, .deckReduced, .power, .seeds, .freeCount, .pending]
  | .relaunchSelfTestDone .. | .relaunchDigestDone .. | .deviceArbitrationFault .. | .step6Timeout .. |
    .thermalTrip .. => allBut [.part, .secure, .boot, .marks, .harbour, .portErrs, .blanks, .deckFaults,
    .deckReduced, .power, .seeds, .freeCount, .pending]
  | .relaunchComplete .. => allBut [.part, .secure, .boot, .aer, .harbour, .portErrs, .blanks, .deckFaults,
    .deckReduced, .power, .freeCount, .pending]
  | .localisingTile .. => [.faults]
  | .repairApply .. => settling ++ [.manifest, .harbour, .tide, .recorder, .seeds]
  | .repairQuietTimeout .. => settling ++ [.tide]
  | .repairMapWriteDone .. => [.secure, .faults]
  | .harbourAccess .. | .harbourScrub .. => allBut [.part, .secure, .portErrs, .blanks, .deckFaults,
    .deckReduced, .power, .freeCount, .pending]
  | .memoryRequest .. => [.memctl]
  | .refreshWindow .. | .strictRecoveryExit .. => [.memctl, .tide]
  | .periodicRetrain .. => reporting ++ [.memctl, .tide]
  | .periodicRetrainEnd .. => allBut [.part, .secure, .boot, .aer, .harbour, .portErrs, .blanks, .deckFaults,
    .deckReduced, .power, .seeds, .freeCount, .pending]
  | .fullFieldRetrainDone .. => allBut [.part, .secure, .boot, .harbour, .portErrs, .blanks, .deckFaults,
    .deckReduced, .power, .seeds, .freeCount, .pending]
  | .memctlStrictWrite .. => reporting ++ [.env, .ltr, .memctl, .memhost]
  | .memctlHiddenWrite .. => [.env, .ltr, .memctl, .memhost, .outbox]
  | .csiFrameStart .. => reporting ++ [.ltr, .marks, .portErrs, .ports, .streams, .blanks, .sessions, .codecs,
    .recorder]
  | .csiLongPacket .. => reporting ++ [.marks, .portErrs, .streams]
  | .csiFrameEnd .. => reporting ++ [.marks, .portErrs, .ports, .streams, .recorder]
  | .csiPhyError .. => [.streams]
  | .framePeriodExpiry .. => reporting ++ [.ltr, .marks, .ports, .streams, .recorder]
  | .csiDeclare .. | .csiUndeclare .. => reporting ++ [.env, .ltr, .marks, .memctl, .ports, .streams,
    .recorder]
  | .csiPortCfgWrite .. => reporting ++ [.env, .ltr, .memctl, .ports]
  | .pipeFrameComplete .. => settling ++ [.marks, .flags, .streams, .sessions, .recorder]
  | .streamBlank .. => reporting ++ [.env, .ltr, .memctl, .streams, .blanks, .recorder]
  | .streamUnblank .. => reporting ++ [.env, .ltr, .memctl, .blanks, .recorder]
  | .feedGo .. => reporting ++ [.env, .ltr, .marks, .memctl, .streams, .blanks, .sessions, .codecs, .recorder]
  | .feedDone .. => reporting ++ [.marks, .streams, .recorder]
  | .codecSessionEnable .. | .codecFeedGo .. => reporting ++ [.env, .ltr, .memctl, .sessions]
  | .codecSessionDisable .. => [.env, .ltr, .memctl, .sessions, .codecs, .outbox]
  | .forceKey .. => [.env, .ltr, .memctl, .sessions, .outbox]
  | .codecFrameStart .. => reporting ++ [.sessions, .codecs]
  | .codecChunkDone .. => settling ++ [.flags, .sessions, .codecs]
  | .syncInPulse .. | .ptmLock .. => reporting ++ [.heart, .ctxs, .flights, .trigs, .tide]
  | .syncOutPulse .. => [.tide, .outbox]
  | .ptmMeasurement .. => reporting ++ [.tide]
  | .recordEnable .. => reporting ++ [.env, .ltr, .memctl, .streams, .recorder]
  | .recordDisable .. => reporting ++ [.env, .ltr, .memctl, .recorder]
  | .recordCheckpoint .. => [.env, .ltr, .memctl, .recorder, .outbox]
  | .checkpointStateWrite .. => reporting ++ [.recorder]
  | .replayEntryApply .. => settling ++ [.marks, .flags, .manifest, .streams, .blanks, .sessions, .codecs,
    .recorder, .seeds]
  | .powerEstimate .. | .budgetCompare .. => [.power]
  | .droopRelease .. | .avsSetpointChange .. | .jtagInstruction .. => [.env, .outbox]
  | .avsStatusPoll .. => [.env, .tide, .outbox]
  | .avsResponse .. => reporting ++ [.env]
  | .sagEstablished .. => settling ++ [.flags, .streams, .sessions, .codecs, .deckReduced, .power]
  | .shedStep .. => settling ++ [.env, .flags, .memctl, .streams, .sessions, .codecs, .deckReduced, .tide,
    .power]
  | .holdLimitFall .. => [.env, .memctl, .power]
  | .sagRecovered .. | .shedReturn .. => allBut [.part, .secure, .boot, .aer, .marks, .harbour, .portErrs,
    .blanks, .deckFaults, .seeds, .freeCount, .pending]
  | .codecFeedDone .. => reporting ++ [.sessions, .recorder]
  | .csiUlpsEntry .. | .csiUlpsExit .. => [.ports]

end Sys2Proof.Machine
end

