-- ==== Sys2Proof/Certificates/Slice0/Obligations.lean ====
section
/-! DEFINITION. The statements for the provers. -/

open Sys2Proof Sys2Proof.Machine

namespace Sys2Proof.Machine

/-- The supplies and pins that a start keeps, and through a host reset the boundary cells, what EXTEST drives (R50) and
the setpoints last commanded and last confirmed (R49). -/
def keptEnv (s : State) (cold : Bool) : Env :=
  { suppliesUp := s.env.suppliesUp, por := s.env.por, mfgHold := s.env.mfgHold, testen := s.env.testen
    perstLow := s.env.perstLow, refclk := s.env.refclk, thermalHold := s.env.thermalHold
    cells := if cold then 0 else s.env.cells, drives := if cold then none else s.env.drives
    avs := if cold then {} else { setpoint := s.env.avs.setpoint, confirmed := s.env.avs.confirmed } }

/-- What a cold start or a host reset leaves (R76, R96, R106): every field at its reset value but the secure
store, in which a committed change now is in effect, and through a host reset the sticky AER status.
Companion memory is undefined. `env` is what stands at supplies and pins. The part, the numbers of free
values, the trail and the queue are the model's own. -/
def started (s : State) (cold : Bool) (env : Env) : State :=
  { State.reset with
    part := s.part
    secure := { s.secure with
      v := s.secure.nextV, k := s.secure.nextK, ownerOnly := s.secure.nextOwnerOnly
      ownerSet := s.secure.nextOwnerSet, ownerHash := s.secure.nextOwnerHash }
    aer := if cold then {} else s.aer
    env := env
    mem := { undef := [⟨0, s.part.memory, s.seeds⟩] }
    seeds := s.seeds + 1
    freeCount := s.freeCount
    outbox := s.outbox
    pending := s.pending }

end Sys2Proof.Machine

/-! ## Steps -/

/-- A step runs the command at the front of the queue on the state with the queue's rest. -/
def Obligations.StepRunsTheFrontCommand : Prop :=
  ∀ (c : Instr) (rest : List Instr) (s : State),
    step { s with pending := c :: rest } = exec c { s with pending := rest }

/-- Every step keeps the canonical form of memory. -/
def Obligations.StepKeepsMemoryCanonical : Prop :=
  ∀ s t : State, step s = .next t → s.mem.wf → t.mem.wf

/-- Memory has its canonical form at reset, no command waits there, and no undefined range is named. -/
def Obligations.ResetMemoryIsCanonical : Prop :=
  State.reset.mem.wf ∧ State.reset.mem.cells = [] ∧ State.reset.mem.undef = [] ∧ State.reset.pending = []

/-- Every step lets the secure store only grow (R75, R76, R82). -/
def Obligations.StepLetsSecureStoreOnlyGrow : Prop :=
  ∀ s t : State, step s = .next t → s.secure.Grows t.secure

/-- Every command completes in every state and changes neither the part nor the queue, and a step takes exactly the
front command out. The model's choice (log entry 5): with no command waiting a step is one tick of a locked Tide and
the log entries whose interval has ended. -/
def Obligations.EveryCommandAnswersANextState : Prop :=
  ((∀ (c : Instr) (s : State), ∃ t, exec c s = .next t ∧ t.part = s.part ∧ t.pending = s.pending) ∧
   ∀ s : State, ∃ t, step s = .next t ∧ t.pending = s.pending.tail ∧ t.part = s.part) ∧
  (∀ s : State, s.pending = [] →
     (s.tide.locked = true →
       step s = .next (State.flushMarks { s with tide := { s.tide with count := s.tide.count + 1 } })) ∧
     (s.tide.locked = false → step s = .next s))

/-- Every command leaves every field as it was but those that `mayChange` names for it. The model's choices in it: log
entries 8, 11. -/
def Obligations.CommandsChangeOnlyTheirFields : Prop :=
  ∀ (c : Instr) (s t : State), exec c s = .next t → s.sameBut (mayChange c) t

/-! ## Supplies, pins and the start -/

/-- Supplies and pins: what each leaves (R35, R43, R45, R46, R47, R49, R58, R61, R96, R106, R485). The model's choices
in it: log entries 9, 10, 29, 30, 101. Completes: supplyPowerUp, supplyLoss, testenHigh, perstNAssert, perstNRelease,
tideClockLock, thermalHoldRelease, pcieLinkUp. -/
def Obligations.SuppliesAndPinsStartTheDevice : Prop :=
  ∀ s : State,
    (∀ testen : Bool, s.env.suppliesUp = false → exec (.supplyPowerUp testen) s =
      .next (started s true { keptEnv s true with
        suppliesUp := true, por := false, testen, mfgHold := testen, perstLow := true })) ∧
    exec .supplyLoss s = .next (started s true { keptEnv s true with
      suppliesUp := false, por := true, perstLow := true }) ∧
    (s.env.suppliesUp = true → s.boot.stage ≠ .reset → exec .testenHigh s =
      .next (started s false { keptEnv s false with testen := true, mfgHold := true })) ∧
    (s.env.suppliesUp = true → s.boot.stage = .reset → exec .testenHigh s =
      .next { s with env := { s.env with testen := true, mfgHold := true, linkUp := false } }) ∧
    (s.env.suppliesUp = true → s.env.perstLow = false → exec (.perstNAssert false) s = .next { started s false { keptEnv s false with
      perstLow := true
      avs := { setpoint := 750, confirmed := s.env.avs.confirmed, queue := [(.voltageWrite 750, 0)], sent := true } } with
      outbox := s.outbox ++ [.avs (.voltageWrite 750)] }) ∧
    (∀ hot : Bool, s.env.suppliesUp = false ∨ s.env.perstLow = true → exec (.perstNAssert hot) s = .next s) ∧
    (s.env.suppliesUp = true → s.env.perstLow = false → s.env.mfgHold = false → s.env.thermalHold = false →
      exec (.perstNAssert true) s = .next { started s false { keptEnv s false with
          avs := { setpoint := 750, confirmed := s.env.avs.confirmed, sent := true
                   queue := [(.voltageWrite 750, 0), (.transRate 2500, 0)] } } with
        outbox := s.outbox ++ [.avs (.voltageWrite 750)], boot := { stage := .puf } }) ∧
    (∀ hottest : Int, s.env.suppliesUp = true → s.env.perstLow = true →
      (s.env.mfgHold = true → exec (.perstNRelease hottest) s =
        .next { s with env := { s.env with perstLow := false } }) ∧
      (s.env.mfgHold = false → exec (.perstNRelease hottest) s = if s.env.thermalHold = true ∧ 90 ≤ hottest then
          .next { s with env := { s.env with perstLow := false, por := true } }
        else .next (State.avsIssue { s with
          env := { s.env with perstLow := false, por := false, thermalHold := false }
          boot := { s.boot with stage := .puf } } (.transRate 2500)))) ∧
    (∀ reading : Int, s.env.suppliesUp = true → s.env.perstLow = false → s.env.mfgHold = false →
      s.env.thermalHold = true → exec (.thermalHoldRelease reading) s = if reading < 90 then
          .next (State.avsIssue { s with
            env := { s.env with por := false, thermalHold := false }
            boot := { s.boot with stage := .puf } } (.transRate 2500))
        else .next s) ∧
    (s.env.suppliesUp = true → s.env.por = false → s.env.perstLow = false → s.env.mfgHold = false →
      exec .pcieLinkUp s = .next { s with env := { s.env with linkUp := true } }) ∧
    (s.env.suppliesUp = true → s.env.por = false → s.env.perstLow = false → s.tide.locked = false →
      exec .tideClockLock s = .next { s with tide := { s.tide with locked := true, count := 0 } })

/-! ## Customs -/

/-- The attempts at the PUF seed, and BIST (R62, R63, R83, R336): a success goes on with the seed, a third failure
sets PUF_FAIL, records 0x7001 and goes on without one, as do lost helper data; BIST merges the stored repair map,
taken as empty when it is lost, with what it finds, nothing else leaves the map, and training begins with every
channel in strict mode. The model's choices in it: log entries 17, 99. Completes: pufDone, bistDone. -/
def Obligations.PufAndBistComeFirst : Prop :=
  (∀ (s : State) (bad : BadCopies), s.boot.stage = .puf →
     let y := s.secure.tested [.helper] bad
     (y.lost .helper = false →
       (∀ seed, exec (.pufDone (some seed) bad) s = .next { s with
         secure := y, boot := { s.boot with stage := .bist, seed := some seed } }) ∧
       (s.boot.pufAttempts < 2 → exec (.pufDone none bad) s = .next { s with
         secure := y, boot := { s.boot with pufAttempts := s.boot.pufAttempts + 1 } }) ∧
       (2 ≤ s.boot.pufAttempts → ∃ t, exec (.pufDone none bad) s = .next t ∧ t.secure = y ∧
         t.boot = { s.boot with
           stage := .bist, pufAttempts := 3, pufFail := true, seed := none, reason := 0x7001 } ∧
         s.sameBut (reporting ++ [.secure, .boot]) t)) ∧
     (y.lost .helper = true → ∀ seed, ∃ t, exec (.pufDone seed bad) s = .next t ∧ t.secure = y ∧
       t.boot = { s.boot with stage := .bist, storeFail := true, pufFail := true, seed := none, reason := 0x7001 } ∧
       s.sameBut (reporting ++ [.secure, .boot]) t)) ∧
  (∀ (s : State) (found : List RepairLoc) (bad : BadCopies), s.boot.stage = .bist →
     let y := s.secure.tested [.repairMap] bad
     ∃ t, exec (.bistDone found bad) s = .next t ∧ t.boot.stage = .training ∧
       (∀ l, l ∈ t.secure.repairMap ↔ l ∈ y.seen.repairMap ∨ l ∈ found) ∧
       (y.lost .repairMap = false → ∀ l ∈ s.secure.repairMap, l ∈ t.secure.repairMap) ∧
       t.secure.lost .repairMap = false ∧
       (∀ c : ChanId, t.memctl.chans[c].strict = [.startup]) ∧
       s.sameBut (mayChange (.bistDone found bad)) t)

/-- Training, the alignment protocol and the watch over the stages (R59, R64, R65, R336, R340, R443, R444): a success
sets the wires of the channels that trained and goes on, three retries of training and two of alignment are made, and
the next failure halts the start with its code; every island stores half its round trip, and a run takes its time on
the Tide; a timed stage that lasts 1 s halts it with 0x7010. The model's choices in it: log entries 11, 17, 144.
Completes: trainingDone, alignDone, customsStageTimeout. -/
def Obligations.StagesRetryThenHalt : Prop :=
  (∀ s : State,
     (∀ values, s.boot.stage = .training → ∃ t, exec (.trainingDone [] values) s = .next t ∧
       t.boot = { s.boot with stage := .align, failing := [], alignFrom := s.now } ∧ t.memctl.trained = true ∧
       (∀ c : ChanId, t.memctl.chans[c] = if s.boot.trainRetries = 0 ∨ c ∈ s.boot.failing then
         { s.memctl.chans[c] with wires := values.get c } else s.memctl.chans[c]) ∧
       s.sameBut [.boot, .memctl] t) ∧
     (∀ (bad : List ChanId) (values), bad ≠ [] → s.boot.stage = .training → s.boot.trainRetries = 0 →
       ∃ t, exec (.trainingDone bad values) s = .next t ∧
         t.boot = { s.boot with trainRetries := 1, failing := bad } ∧
         (∀ c : ChanId, t.memctl.chans[c] = if c ∈ bad then s.memctl.chans[c] else
           { s.memctl.chans[c] with wires := values.get c }) ∧
         s.sameBut [.boot, .memctl] t) ∧
     (∀ (bad : List ChanId) (values), s.boot.stage = .training → s.boot.trainRetries = 3 →
       (∃ c ∈ bad, c ∈ s.boot.failing) → ∃ t, exec (.trainingDone bad values) s = .next t ∧
         t.boot.stage = .halted ∧ t.boot.reason = 0x9002 ∧ t.env.faultN = true) ∧
     (∀ k : Fin 52, s.islandThere k = false ↔
       s.part = .ojq6_16a ∧ (k.val = 10 ∨ k.val = 11 ∨ 36 ≤ k.val ∧ k.val < 44)) ∧
     (∀ islands : Vector IslandEcho 52,
       let agree : Prop := ∀ k : Fin 52, s.islandThere k = true → (islands[k]).off.natAbs ≤ 1
       let stored (t : State) : Prop := ∀ k : Fin 52, s.islandThere k = true →
         islands[k].trip.val ≤ 2 * t.tide.comp[k] ∧ 2 * t.tide.comp[k] ≤ islands[k].trip.val + 1
       let A := s.boot.alignFrom
       (s.boot.stage = .align → s.tide.locked = true → agree → ∃ t, exec (.alignDone islands) s = .next t ∧
         t.boot.stage = .windowOpen ∧ t.tide.aligned = true ∧ stored t ∧
         (s.now.toNat ≤ (A + 16384).toNat → t.now = A + 16384) ∧
         (∀ c : ChanId, StrictCause.startup ∉ t.memctl.chans[c].strict) ∧
         (∀ a, windowBase ≤ a → a < windowBase + holdSize → t.mem.read a = 0) ∧
         (s.mem.wf → ∀ a, a < windowBase ∨ windowBase + holdSize ≤ a → t.mem.read a = s.mem.read a) ∧
         s.sameBut [.tide, .memctl, .boot, .mem] t) ∧
       (s.boot.stage = .align → s.tide.locked = true → ¬agree → s.boot.alignRuns < 2 →
         ∃ t, exec (.alignDone islands) s = .next t ∧ stored t ∧
           t.boot = { s.boot with alignRuns := s.boot.alignRuns + 1, alignFrom := t.now } ∧
           (s.now.toNat ≤ (A + 4096).toNat → t.now = A + 4096) ∧ s.sameBut [.tide, .boot] t) ∧
       (s.boot.stage = .align → s.tide.locked = true → ¬agree → 2 ≤ s.boot.alignRuns →
         ∃ t, exec (.alignDone islands) s = .next t ∧
           t.boot.stage = .halted ∧ t.boot.reason = 0x4030 ∧ t.env.faultN = true) ∧
       (s.boot.stage ≠ .align ∨ s.tide.locked = false → exec (.alignDone islands) s = .next s))) ∧
  (∀ s : State,
     (s.boot.stage ∈ [Stage.puf, .bist, .training, .align, .checking, .keys] →
       ∃ t, exec .customsStageTimeout s = .next t ∧
         t.boot = { s.boot with stage := .halted, reason := 0x7010 } ∧
         t.env = { s.env with faultN := true } ∧ t.lighthouse = { s.lighthouse with state := .halted } ∧
         s.sameBut (reporting ++ [.boot, .env, .lighthouse]) t) ∧
     (s.boot.stage ∈ [Stage.reset, .windowOpen, .running, .halted] → exec .customsStageTimeout s = .next s))

/-- The boot hold while the window is open, its closing, the token shifted in, and JTAG (R50, R65, R66, R67, R81,
R89): a BAR2 write lands at its offset of the hold, one that arrives after the release is dropped and counted; PRELOAD
and EXTEST load the boundary cells and EXTEST drives what they hold; a debug access answers only when an accepted
token opened its scope, and reads the locked ROM as zero. The model's choices in it: log entries 25, 36, 42, 97, 98.
Completes: dbgtoken, bootRelease, bootHoldWrite, bar2Write, jtagInstruction. -/
def Obligations.BootHoldAndJtagBeforeRelease : Prop :=
  (∀ s : State,
     (∀ (off : Nat) (data : List Byte), s.reachable = true → s.lost = false → s.frozen = false →
       s.env.power ≠ .slackWater → s.boot.stage = .windowOpen → data ≠ [] → off + data.length ≤ holdSize →
       s.inAperture off data.length = true →
       exec (.bootHoldWrite off data) s = .next { s with mem := s.mem.store (windowBase + off) data } ∧
       exec (.bar2Write off data false) s = .next { s with mem := s.mem.store (windowBase + off) data }) ∧
     (∀ (off : Nat) (data : List Byte), s.reachable = true → s.lost = false → s.frozen = false →
       s.env.power ≠ .slackWater → s.boot.stage = .checking → data ≠ [] →
       s.inAperture off data.length = true → ∃ t, exec (.bootHoldWrite off data) s = .next t ∧
         t.boot = { s.boot with dropped := satInc s.boot.dropped, reason := 0x7004 } ∧
         s.sameBut (reporting ++ [.boot]) t) ∧
     (∀ v : Word, v.getLsbD 0 = true → s.boot.stage = .windowOpen → s.frozen = false →
       exec (.bootRelease v) s =
         .next { s.wakeSlack with boot := { s.boot with stage := .checking, windowClosed := true } }) ∧
     (∀ v : Word, v.getLsbD 0 = false ∨ s.boot.stage ≠ .windowOpen → exec (.bootRelease v) s = .next s.wakeSlack) ∧
     (∀ d : List Byte, s.env.suppliesUp = true → stageCode s.boot.stage < 6 → s.boot.slotA.state = 0b00 →
       exec (.dbgtoken d) s = .next { s with boot := { s.boot with token := some d } }) ∧
     (∀ d : List Byte, 6 ≤ stageCode s.boot.stage ∨ s.boot.slotA.state ≠ 0b00 → exec (.dbgtoken d) s = .next s)) ∧
  (∀ s : State, s.env.suppliesUp = true →
     let quiet : State := { s with env := { s.env with drives := none } }
     exec (.jtagInstruction .bypass) s = .next (quiet.send (.jtag [0])) ∧
     exec (.jtagInstruction .idcode) s = .next (quiet.send (.jtag [0xD3, 0x8F, 0xE4, 0x10])) ∧
     (∀ balls cells, exec (.jtagInstruction (.samplePreload balls cells)) s =
       .next (State.send { s with env := { s.env with cells, drives := none } } (.jtag (leBytes 23 balls.toNat)))) ∧
     (∀ balls shifted, let cells := Option.getD shifted s.env.cells
       exec (.jtagInstruction (.extest balls shifted)) s =
         .next (State.send { s with env := { s.env with cells, drives := some cells } }
           (.jtag (leBytes 23 balls.toNat)))) ∧
     (∀ sc a n, s.boot.scope = some sc → sc.getLsbD 2 = true →
       exec (.jtagInstruction (.debug 2 (some (.memory a n)))) s = .next (quiet.send (.jtag (s.mem.reads a n))) ∧
       (s.boot.romReadable = false → exec (.jtagInstruction (.debug 2 (some (.rom a n)))) s =
         .next (quiet.send (.jtag (List.replicate n 0))))) ∧
     (∀ bit r, (∀ sc, s.boot.scope = some sc → sc.getLsbD bit.val = false) →
       exec (.jtagInstruction (.debug bit r)) s = .next quiet))

/-- CHECKING judges both slots and selects the one to run, or reopens the window with 0x7003 (R77): a slot that passes
runs before one that fails, whatever the versions; among equals the higher version runs, a tie going to A. It runs
vouched when it passes and the part has its seed. The model's choice in it: log entry 99. Completes: checkingDone. -/
def Obligations.CheckingJudgesAndSelects : Prop :=
  (∀ (s : State) (bad : BadCopies), s.boot.stage = .checking →
     let items := [StoreItem.rollback, .minver, .certificate, .counters]
     let u := (State.noteLost { s with secure := s.secure.tested items bad } items).checkToken
     let atB := windowBase + 0x20_0000
     let slotA := judgeSlot u.secure.seen (parseSlot u.mem windowBase)
       (verifySlot u.mem windowBase (parseSlot u.mem windowBase))
     let slotB := judgeSlot u.secure.seen (parseSlot u.mem atB) (verifySlot u.mem atB (parseSlot u.mem atB))
     ∃ t, exec (.checkingDone bad) s = .next t ∧ t.boot.slotA = slotA ∧ t.boot.slotB = slotB ∧
       (selectSlot slotA slotB = none → t.boot.stage = .windowOpen ∧ t.boot.reason = 0x7003 ∧
         ∀ x, windowBase ≤ x → x < windowBase + holdSize → t.mem.read x = 0) ∧
       (∀ isB passes, selectSlot slotA slotB = some (isB, passes) →
         t.boot.stage = .keys ∧ t.boot.runSlot = (if isB then 0b10 else 0b01) ∧
         t.boot.unvouched = !(passes && u.boot.seed.isSome) ∧
         t.boot.runDigest = (if isB then slotB else slotA).digest ∧
         t.boot.version = (if isB then slotB else slotA).version ∧
         t.boot.signer = (if isB then slotB else slotA).signer) ∧
       s.sameBut (mayChange (.checkingDone bad)) t) ∧
  (∀ a b : Slot, (∀ x ∈ [a, b], x.passed = true → x.state = 0b11) →
     (selectSlot a b = none ↔ a.state ≠ 0b11 ∧ b.state ≠ 0b11) ∧
     (∀ isB passes, selectSlot a b = some (isB, passes) →
       let run := if isB then b else a
       let other := if isB then a else b
       run.state = 0b11 ∧ passes = run.passed ∧ (other.passed = true → run.passed = true) ∧
       (other.state = 0b11 → other.passed = run.passed → other.version.toNat ≤ run.version.toNat ∧
         (other.version = run.version → isB = false))))

/-- The tests of a slot in their order (R73): REASON is the code of the first that fails. -/
def Obligations.SlotReasonIsTheFirstFailedTest : Prop :=
  (∀ (st : Secure) (h : ImageHeader) (c : Signed),
    let x := judgeSlot st (.eligible h) c
    let intact := st.lost .rollback = false ∧ st.lost .minver = false
    let permitted := (h.signer = 1 → st.ownerSet = true) ∧ (st.ownerOnly = true → h.signer = 1)
    let signed := keyAccepted st h.signer c.keyDigest = true ∧ c.sigHolds = true
    let recent := st.v = true → st.minver.toNat ≤ h.version.toNat
    x.state = 0b11 ∧ (x.sigOk = true ↔ signed) ∧ (x.versionOk = true ↔ recent) ∧
    (¬intact → x.reason = 0x700C) ∧ (intact → ¬permitted → x.reason = 0x7007) ∧
    (intact → permitted → ¬signed → x.reason = 0x7005) ∧
    (intact → permitted → signed → ¬recent → x.reason = 0x7006) ∧
    (x.passed = true ↔ intact ∧ permitted ∧ signed ∧ recent)) ∧
  (∀ (st : Secure) (p : SlotParse) (c : Signed), (∀ h, p ≠ .eligible h) →
    (judgeSlot st p c).passed = false ∧ (judgeSlot st p c).sigOk = false ∧
    (judgeSlot st p c).versionOk = false ∧ (judgeSlot st p c).state ≠ 0b11)

/-- Keys are derived, the report and the certificate are written and the image runs (R81, R84–R87, R90): only a
vouched run that is not debug-open gets keys, bound to its version in modes K and VK; firmware obtains the root key of
its own version and, so bound, of every older one, and of no newer one; in the other modes there is the one of version
0. Results of the standards: log entry 7. Completes: keysDone. -/
def Obligations.KeysDoneStartsTheImage : Prop :=
  (∀ s : State, s.boot.stage = .keys →
    let unsigned := s.reportBytes 0 s.nonceBytes []
    exec .keysDone s = .next { s with
      boot := { s.boot with
        stage := .running
        reportAddr := BitVec.ofNat 64 s.part.reserved
        certLen := BitVec.ofNat 16 s.secure.seen.certificate.length
        serial := match s.boot.seed with
          | some seed => BitVec.ofNat 64 (leNat ((deviceIdentity seed).take 8))
          | none => 0
        romReadable := false
        released := s.keysFor }
      heart := { s.heart with window := s.now.toNat / 250000 }
      freeCount := s.freeCount + 1
      mem := (s.mem.store s.part.reserved (s.reportBytes 0 s.nonceBytes (s.reportSignature unsigned))).store
        (s.part.reserved + 0x800) s.secure.seen.certificate } ∧
    (s.boot.seed = none → s.reportSignature unsigned = []) ∧
    (s.boot.seed ≠ none → s.reportSignature unsigned ≠ [] ∧ (s.reportSignature unsigned).length ≤ 1280) ∧
    (s.keysFor ≠ none ↔ s.boot.seed ≠ none ∧ s.boot.unvouched = false ∧ s.boot.debugOpen = false)) ∧
  (∀ (s : State) (w : Nat), let v := if s.secure.seen.k = true then s.boot.version.toNat else 0
    (∀ seed, s.boot.seed = some seed → s.boot.released ≠ none → s.vouched = true → w ≤ v → s.obtainRootKey w =
      some (rootKey seed s.boot.signer (ownerInput s.secure.seen s.boot.signer) w)) ∧
    (v < w ∨ s.vouched = false ∨ s.boot.released = none → s.obtainRootKey w = none))

/-- BOOT_MINVER rises only by a host write of the running version in a vouched run, and never falls (R75). The model's
choice in it: log entry 100. Completes: bootMinverAdvance. -/
def Obligations.MinverRisesOnlyByTheHost : Prop :=
  (∀ (s : State) (v : Word), s.boot.stage = .running → s.boot.unvouched = false → s.lost = false →
    s.frozen = false → s.secure.seen.v = true → v = s.boot.version →
    s.secure.seen.minver.toNat < v.toNat →
    exec (.bootMinverAdvance v) s =
      .next { s.wakeSlack with secure := Secure.written { s.secure with minver := v } .minver }) ∧
  (∀ (s : State) (v : Word), s.boot.stage ≠ .reset → s.lost = false → s.frozen = false →
    ¬(s.vouched = true ∧ s.secure.seen.v = true ∧ v = s.boot.version ∧
      s.secure.seen.minver.toNat < v.toNat) →
    exec (.bootMinverAdvance v) s = .next (s.wakeSlack.note 0x7009 .information 0)) ∧
  (∀ (c : Instr) (s t : State), exec c s = .next t → s.secure.minver.toNat ≤ t.secure.minver.toNat) ∧
  (∀ (c : Instr) (s t : State), exec c s = .next t → t.secure.minver ≠ s.secure.minver →
    ((∃ v, c = .bootMinverAdvance v) ∨ ∃ o n v e p, c = .registerWrite o n v e p) ∧ s.vouched = true ∧
      s.secure.seen.v = true ∧ t.secure.minver = s.boot.version ∧
      s.secure.seen.minver.toNat < s.boot.version.toNat)

/-! ## Resets -/

namespace Sys2Proof.Machine

/-- No re-launch, retraining or shedding step 6 holds a reset. -/
def resetFree (s : State) : Bool :=
  s.lighthouse.state = .normal && !s.frozen && !s.retraining

/-- A Berth that a reset leaves: idle, with no tile, no weights, no owner and an empty Hold (R97, R98). -/
def berthIdle (b : Berth) : Prop :=
  b.seq = .idle ∧ b.tile = none ∧ b.holdOwner = none ∧ b.hold = [] ∧ b.weights = [] ∧ b.shadow = [] ∧
  b.tileNo = 0 ∧ b.passNo = 0 ∧ b.sfuPassNo = 0 ∧ b.waking = false

/-- What a function reset and a device reset lose alike is at its reset value in `t` (R12, R97, R106, R319). -/
def workLost (s t : State) : Prop :=
  t.ready = {} ∧ t.fwif = {} ∧ (∀ q : QueueId, t.queues[q] = {}) ∧ (∀ f : FlagId, t.flags[f] = 0) ∧
  (∀ c : CtxId, t.ctxs[c] = {}) ∧ t.flights = [] ∧ t.sched = {} ∧ t.manifest = {} ∧ t.memhost = {} ∧
  (∀ p : PortId, t.ports[p] = {}) ∧ (∀ i : SctxId, t.streams[i] = {}) ∧ (∀ n : TrigId, t.trigs[n] = {}) ∧
  (∀ n : SessId, t.sessions[n] = {}) ∧ t.recorder = {} ∧ t.keep = {} ∧
  t.tide = { s.tide with ptmOffset := 0, ptmError := 0, ptmAt := none } ∧
  (∀ q : QuayId, t.quays[q].ready = false ∧ t.quays[q].shape = 0 ∧ t.quays[q].store = [] ∧
    ∀ b : BerthId, berthIdle (t.berth q b) ∧ (t.berth q b).gated = true) ∧
  (∀ a, windowBase + holdSize ≤ a → a < windowBase + windowSize → t.mem.read a = 0) ∧
  (s.mem.wf → ∀ a, a < windowBase + holdSize ∨ windowBase + windowSize ≤ a → t.mem.read a = s.mem.read a)

/-- Control of a Quay that is being reset and what its Berths hold then (R96, R98, R203). -/
def quayReset (s t : State) (q : QuayId) : Prop :=
  t.quays[q].resetting = true ∧ t.quays[q].resetAsked = true ∧ t.quays[q].resetHeld = false ∧
  t.quays[q].ready = false ∧ t.quays[q].draining = false ∧ t.quays[q].pilotRunning = false ∧
  t.quays[q].shape = s.quays[q].shape ∧ t.quays[q].storeOwner = [] ∧ t.quays[q].store = [] ∧
  ∀ b : BerthId, berthIdle (t.berth q b)

end Sys2Proof.Machine

/-- A function reset and a device reset (R12, R96, R97, R106, R319): of a running device queues, commands, flags,
contexts, the Manifest, streams, sessions, stage 2 with its rings and record are lost, companion memory and the boot
hold stay; a function reset loses configuration and the HOSTIF registers too, and nothing else before the image runs,
which takes the function back to D0. The model's choices in it: log entries 12, 92. Completes: functionLevelReset,
hostifDevReset. -/
def Obligations.ResetsLoseTheWork : Prop :=
  (∀ (s : State) (passed : BitVec 3) (misread : List (Nat × Byte)),
     (s.boot.stage ≠ .running → exec (.functionLevelReset passed misread) s =
       .next { s with
         cfg := {}, hostif := {}, ltr := none
         env := { s.env with power := .d0, l12 := false, heldD3hot := false } }) ∧
     (s.boot.stage = .running → resetFree s = true → s.env.reset ≠ .function →
       ∃ t, exec (.functionLevelReset passed misread) s = .next t ∧ workLost s t ∧ t.cfg = {} ∧ t.hostif = {} ∧
         t.env.reset = .function ∧ t.env.power = .d0 ∧ t.env.l12 = false ∧ t.memctl.retention = false ∧
         s.sameBut (mayChange (.functionLevelReset passed misread)) t)) ∧
  (∀ (s : State) (v : Word), s.alive = true → s.env.reset = .none → resetFree s = true →
     (v.getLsbD 0 = true → ∃ t, exec (.hostifDevReset v) s = .next t ∧ workLost s t ∧ t.env.reset = .device ∧
       s.sameBut (mayChange (.hostifDevReset v)) t) ∧
     (v.getLsbD 0 = false → exec (.hostifDevReset v) s = .next s.wakeSlack))

/-- Resets held and ended, and a Quay's (R96, R98, R122, R171, R203, R349, R405, R486, R513): one that comes during a
re-launch, a retraining or shedding step 6 changes nothing else; each end lets the device answer again, with the
HALT_ALL write that a device reset held, and a halt with nothing that executes is complete; a Quay reset leaves the
Quay empty, waits for a Manifest load that changes the Quay and for a repair that is due, and its end makes it ready
as its section says. The model's choices in it: log entries 32, 70, 86, 146. Completes: functionLevelReset,
functionResetComplete, hostifDevReset, devResetComplete, quayReset, quayResetComplete. -/
def Obligations.ResetsAreHeldAndEnd : Prop :=
  (∀ s : State, s.boot.stage = .running → s.lost = false → resetFree s = false →
     (∀ (passed : BitVec 3) (misread : List (Nat × Byte)), exec (.functionLevelReset passed misread) s =
       .next { s with env := { s.env with heldFunctionReset := some (passed, misread) } }) ∧
     (∀ v : Word, v.getLsbD 0 = true → s.alive = true → s.env.reset = .none → s.env.power ≠ .slackWater →
       exec (.hostifDevReset v) s = .next { s with env := { s.env with heldDeviceReset := true } })) ∧
  (∀ s : State,
     (s.env.reset = .function → ∃ t, exec .functionResetComplete s = .next t ∧
       t.env = { s.env with reset := .none } ∧ t.heart = { window := s.now.toNat / 250000 } ∧
       t.lighthouse = { s.lighthouse with pendingLossRecord := none } ∧
       (s.lighthouse.pendingLossRecord = none → t.fwif = s.fwif ∧ t.faults = s.faults ∧ t.mem = s.mem) ∧
       s.sameBut (mayChange .functionResetComplete) t) ∧
     (s.env.reset ≠ .function → exec .functionResetComplete s = .next s) ∧
     (s.env.reset = .device → ∃ t, exec .devResetComplete s = .next t ∧
       t.env = { s.env with reset := .none, heldHalt := none } ∧ t.heart = { window := s.now.toNat / 250000 } ∧
       (s.env.heldHalt = none → t.flights = s.flights ∧ t.hostif = { s.hostif with
         halted := s.hostif.halted || (s.hostif.halt && !(s.flights.any (·.holdsHalt))) }) ∧
       (∀ halt preempt, s.env.heldHalt = some (halt, preempt) →
         t.hostif.halt = halt ∧ t.hostif.preempt = preempt) ∧
       s.sameBut (mayChange .devResetComplete) t) ∧
     (s.env.reset ≠ .device → exec .devResetComplete s = .next s) ∧
     (∀ q : QuayId,
       (s.quays[q].resetting = true → exec (.quayResetComplete q) s =
         let ready := s.quays[q].shape ≠ 0 && s.manifest.partition[q].isSome && !s.quays[q].draining
         .next { s with quays := s.quays.set q.val { s.quays[q] with
           resetting := false, ready, resetAsked := s.quays[q].resetAsked && !ready } }) ∧
       (s.quays[q].resetting = false → exec (.quayResetComplete q) s = .next s))) ∧
  (∀ (s : State) (q : QuayId) (byFirmware : Bool), s.alive = true → s.frozen = false →
     s.env.reset = .none → s.quayEnabled q = true → s.quays[q].wholeFenced = false →
     s.quays[q].resetting = false →
     let waits : Prop := (∃ l : Load, s.manifest.load = some l ∧ q ∈ l.changed) ∨ s.repairDue q = true
     (¬waits → (∃ t, exec (.quayReset q byFirmware) s = .next t ∧
       quayReset s t q ∧ s.sameBut (mayChange (.quayReset q byFirmware)) t) ∧
       (s.quays[q].resetHeld = true → quayReset s (s.releaseQuayReset q) q)) ∧
     (waits → exec (.quayReset q byFirmware) s =
       .next ((if byFirmware then s else s.wakeSlack).updQuay q fun y => { y with
         resetHeld := true, resetAsked := true })))

/-! ## Power states -/

namespace Sys2Proof.Machine

/-- Memory has left retention: every wire has re-centred its sampling phase and its reference voltage, and nothing else
of the memory controller has changed (R343; the values: log entry 125). -/
def hasRecentred (s t : State) : Prop :=
  t.memctl = { s.memctl with retention := false, recentres := s.memctl.recentres + 1, chans := t.memctl.chans } ∧
  (∀ c : ChanId, t.memctl.chans[c] = { s.memctl.chans[c] with wires := t.memctl.chans[c].wires }) ∧
  ∀ (c : ChanId) (w : Fin 8), let x := Config.recentred s.memctl.recentres c.val w.val
    t.memctl.chans[c].wires[w] = { s.memctl.chans[c].wires[w] with phase := x.1, reference := x.2 }

end Sys2Proof.Machine

/-- Power states (R12, R101, R103, R104, R117, R201, R319, R326, R338, R343, R394, R445): gating and waking of Quays
and Berths, a gating after 5 ms; L1.2 resets nothing but the values that no event keeps; D3hot and Slack water put
memory into retention, leave the cache empty, a dirty line that turns out bad counted, and lose the Hold of every
Berth without live state, and the return resets nothing. The model's choices in it: log entries 12, 79, 125, 127.
Completes: d3hotEntry, d0Return, l12Entry, l12Exit, lightIdleEntry, berthPowerGate, berthWake, slackWaterEntry,
slackWaterExit. -/
def Obligations.PowerStatesGateAndReturn : Prop :=
  (∀ s : State,
     (s.env.linkUp = true → s.env.l12 = false → ∃ t, exec .l12Entry s = .next t ∧
       t.env = { s.env with l12 := true } ∧ t.fwif = { s.fwif with beat := 0 } ∧
       t.tide = { s.tide with ptmOffset := 0, ptmError := 0, ptmAt := none } ∧
       t.recorder = { s.recorder with checkpoint := false } ∧
       (∀ n : SessId, t.sessions[n] = { s.sessions[n] with forceKey := false }) ∧
       (∀ (q : QuayId) (b : BerthId), (t.berth q b).tile = (s.berth q b).tile ∧
         (t.berth q b).hold = (s.berth q b).hold) ∧
       s.sameBut (mayChange .l12Entry) t) ∧
     (s.env.linkUp = false ∨ s.env.l12 = true → exec .l12Entry s = .next s) ∧
     exec .l12Exit s = .next { s with env := { s.env with l12 := false } } ∧
     (∀ q : QuayId, s.fwUp = true → s.quayEnabled q = true → s.quayFree q = true →
       s.quays[q].wholeFenced = false → exec (.lightIdleEntry q) s =
         .next (s.updQuay q fun y => { y with
           clockGated := true, gatedFrom := if y.clockGated then y.gatedFrom else s.now
           berths := y.berths.map ({ · with clockGated := true }) }).ltrUpdate) ∧
     (∀ (q : QuayId) (b : BerthId), s.fwUp = true → (s.berth q b).tile = none → (s.berth q b).holdOwner = none →
       let unused := s.manifest.partition[q] = none ∨ (s.berth q b).fenced = true ∨ s.quayEnabled q = false
       let gate (u : State) := u.updBerth q b fun x => { x with
         gated := true, waking := false, weights := [], shadow := [], hold := [] }
       (unused → exec (.berthPowerGate q b) s = .next (gate s)) ∧
       (¬unused → s.quays[q].clockGated = true ∨ (s.berth q b).clockGated = true → exec (.berthPowerGate q b) s =
         .next (gate (s.advanceTo (s.quays[q].gatedFrom + 1250000))))) ∧
     (∀ (q : QuayId) (b : BerthId), (s.berth q b).tile ≠ none ∨ (s.berth q b).holdOwner ≠ none →
       exec (.berthPowerGate q b) s = .next s) ∧
     (∀ (q : QuayId) (b : BerthId), s.fwUp = true → s.env.power = .d0 → s.quayEnabled q = true →
       s.quays[q].wholeFenced = false → s.manifest.partition[q].isSome = true → (s.berth q b).fenced = false →
       (s.berth q b).gated = true → (s.berth q b).waking = true →
       ∃ t, exec (.berthWake q b) s = .next t ∧ (t.berth q b).gated = false ∧
         (t.berth q b).waking = false ∧ t.quays[q].clockGated = false ∧
         (∀ p : QuayId, p ≠ q → t.quays[p] = s.quays[p]) ∧ s.sameBut (mayChange (.berthWake q b)) t)) ∧
  (∀ s : State,
     (s.configAnswers = true → s.env.power ≠ .d3hot →
       ∀ bad : List Nat,
       (s.alive = false → exec (.d3hotEntry bad) s = .next { s with env := { s.env with power := .d3hot } }) ∧
       (s.alive = true →
         (∀ c : ChanId, s.memctl.chans[c].paused = false ∧ s.memctl.chans[c].retraining = false) →
         ∃ t, exec (.d3hotEntry bad) s = .next t ∧ t.env.power = .d3hot ∧ t.memctl.retention = true ∧
           t.mem.lines = [] ∧
           (∀ (q : QuayId) (b : BerthId), (t.berth q b).tile = none → (t.berth q b).holdOwner = none →
             (t.berth q b).gated = true ∧ (t.berth q b).hold = []) ∧
           s.sameBut (mayChange (.d3hotEntry bad)) t) ∧
       (s.alive = true → (∃ c : ChanId, s.memctl.chans[c].retraining = true ∨ s.memctl.chans[c].paused = true) →
         let u := s.wakeSlack.writeBackBad bad
         exec (.d3hotEntry bad) s = .next { u with env := { u.env with heldD3hot := true } })) ∧
     (s.configAnswers = false ∨ s.env.power = .d3hot → ∀ bad, exec (.d3hotEntry bad) s = .next s) ∧
     (s.env.power = .d3hot → s.lost = false → ∃ t, exec .d0Return s = .next t ∧
       t.env = { s.env with power := .d0, heldD3hot := false } ∧ hasRecentred s t ∧
       s.sameBut (mayChange .d0Return) t) ∧
     (s.env.power = .d3hot → s.lost = true → exec .d0Return s =
       .next { s with env := { s.env with power := .d0, heldD3hot := false } }) ∧
     (s.env.power ≠ .d3hot → exec .d0Return s = .next { s with env := { s.env with heldD3hot := false } }) ∧
     (∀ bad : List Nat, slackReady s = true → ∃ t, exec (.slackWaterEntry bad) s = .next t ∧
       t.env = { s.env with power := .slackWater } ∧
       t.memctl = { s.memctl with retention := true } ∧ t.mem.lines = [] ∧
       (bad = [] → t.harbour = s.harbour) ∧
       (∀ n l, bad = [n] → s.mem.held n = some l → l.dirty = true → l.bad = false →
         t.harbour.poisonedCount = satInc s.harbour.poisonedCount) ∧
       (∀ (q : QuayId) (b : BerthId), (t.berth q b).tile = none → (t.berth q b).holdOwner = none →
         (t.berth q b).gated = true ∧ (t.berth q b).hold = []) ∧
       s.sameBut (mayChange (.slackWaterEntry bad)) t) ∧
     (slackReady s = false → ∀ bad, exec (.slackWaterEntry bad) s = .next s) ∧
     (∀ cause : WakeCause,
       (s.env.power = .slackWater → ∃ t, exec (.slackWaterExit cause) s = .next t ∧
         t.env = { s.env with power := .d0 } ∧ hasRecentred s t ∧
         s.sameBut (mayChange (.slackWaterExit cause)) t) ∧
       (s.env.power ≠ .slackWater → exec (.slackWaterExit cause) s = .next s)))

/-! ## The Tide -/

/-- The Tide (R105, R446, R448–R454, R469): holdover carries it, SYNC_IN aligns the Group by a step forward to the
armed value, SYNC_OUT fires at its count, and a read of the low half latches the high one. With PTM every 10 ms a
measurement gives the offset; PTM_LOCK steps the count forward to the target or is refused, and while it holds each
measurement corrects the count by at most one tick and judges the residual, the third large one in a row clearing
PTM_LOCKED. The model's choices in it: log entries 11, 40, 41. Completes: refclkLoss, refclkReturn, tideCountRead,
syncInPulse, syncOutPulse, ptmMeasurement, ptmLock. -/
def Obligations.TheTideIsKeptAndAligned : Prop :=
  (∀ s : State,
     (s.env.refclk = true → s.tide.locked = true → exec .refclkLoss s = .next { s with
       env := { s.env with refclk := false }
       tide := { s.tide with
         holdover := true, holdoverFrom := s.now, groupAligned := false, ptmLocked := false
         ptmLock := false } }) ∧
     (∀ n : Nat, s.env.refclk = false → s.tide.holdover = true → ∃ t, exec (.refclkReturn n) s = .next t ∧
       t.tide = { s.tide with count := s.now + BitVec.ofNat 64 n, holdover := false, held := true } ∧
       t.env = { s.env with refclk := true } ∧ s.sameBut (mayChange (.refclkReturn n)) t)) ∧
  (∀ s : State, s.tide.locked = true →
     (s.tide.holdover = true → exec .syncInPulse s = .next s) ∧
     (s.tide.holdover = false → s.tide.syncArm = false →
       exec .syncInPulse s = .next { s with tide := { s.tide with syncSeen := s.now } }) ∧
     (s.tide.holdover = false → s.tide.syncArm = true → s.tide.syncValue.toNat < s.now.toNat + 1 →
       exec .syncInPulse s = .next ({ s with tide := { s.tide with
         syncSeen := s.now, syncArm := false } }.note 0x4031 .information 0)) ∧
     (s.tide.holdover = false → s.tide.syncArm = true → s.tide.syncValue.toNat = s.now.toNat + 1 →
       exec .syncInPulse s = .next { s with tide := { s.tide with
         syncSeen := s.now, syncArm := false, count := s.now + 1, groupAligned := true, ptmLock := false
         ptmLocked := false } }) ∧
     (s.tide.holdover = false → s.tide.syncArm = true → s.now.toNat + 1 < s.tide.syncValue.toNat →
       ∃ t, exec .syncInPulse s = .next t ∧ t.tide = { s.tide with
         syncSeen := s.now, syncArm := false, count := s.tide.syncValue, stepped := true, groupAligned := true
         ptmLock := false, ptmLocked := false } ∧
         t.heart = { s.heart with window := s.tide.syncValue.toNat / 250000, seen := false, valid := false } ∧
         s.sameBut (mayChange .syncInPulse) t)) ∧
  (∀ s : State,
     (s.tide.syncOutEn = true → s.tide.syncOutAt ≠ 0 → s.tide.locked = true →
       s.now.toNat ≤ s.tide.syncOutAt.toNat → exec .syncOutPulse s = .next { s with
         tide := { s.tide with count := s.tide.syncOutAt, syncOutAt := 0 }
         outbox := s.outbox ++ [.syncOut s.tide.syncOutAt s.tide.syncOutWidth.toNat] }) ∧
     (s.running = true → s.lost = false → s.frozen = false → s.env.reset ≠ .function →
       let u := s.wakeSlack
       exec (.tideCountRead true) s = .next (u.send (.readData (leBytes 8 s.now.toNat) false)) ∧
       exec (.tideCountRead false) s = .next (State.send { u with tide := { s.tide with
         latchHi := BitVec.ofNat 32 (s.now.toNat / 2 ^ 32) } }
           (.readData (leBytes 4 (s.now.toNat % 2 ^ 32)) false)))) ∧
  (∀ (s : State) (ns : BitVec 64), s.tide.locked = true → s.cfg.ptmEnable = true →
    let target := ((ns.toNat : Int) - s.tide.ptmEpoch.toNat) / 4
    (s.tide.ptmLock = false →
      (s.tide.syncArm = true ∨ s.tide.groupAligned = true ∨ target < s.now.toNat →
        exec (.ptmLock ns) s = .next (s.note 0x4032 .information 0)) ∧
      (s.tide.syncArm = false → s.tide.groupAligned = false → target = s.now.toNat →
        exec (.ptmLock ns) s = .next { s with tide := { s.tide with ptmLock := true, ptmBad := 0 } }) ∧
      (s.tide.syncArm = false → s.tide.groupAligned = false → s.now.toNat < target →
        ∃ t, exec (.ptmLock ns) s = .next t ∧ t.tide = { s.tide with
          ptmLock := true, ptmBad := 0, count := BitVec.ofInt 64 target, stepped := true } ∧
          s.sameBut (mayChange (.ptmLock ns)) t)) ∧
    (s.tide.ptmLock = true → exec (.ptmLock ns) s = .next s) ∧
    (s.env.l12 = false →
      let u := s.advanceTo (match s.cfg.ptmSent with
        | some sent => sent + 2500000
        | none => s.now)
      let off := target - u.now.toNat
      let residual := ((ns.toNat : Int) - s.tide.ptmEpoch.toNat - 4 * u.now.toNat).natAbs
      (s.tide.ptmLock = false → exec (.ptmMeasurement ns) s = .next { s with
        cfg := { s.cfg with ptmSent := some u.now }
        tide := { s.tide with count := u.now, ptmOffset := BitVec.ofInt 64 off, ptmAt := some u.now }
        outbox := s.outbox ++ [.ptmRequest] }) ∧
      (s.tide.ptmLock = true → ∃ t, exec (.ptmMeasurement ns) s = .next t ∧
        t.tide.ptmOffset = BitVec.ofInt 64 off ∧ t.tide.ptmAt = some u.now ∧
        t.tide.ptmError = BitVec.ofNat 16 (min residual 0xFFFF) ∧
        (residual ≤ 50 → t.tide.ptmLocked = true ∧ t.tide.ptmBad = 0) ∧
        (50 < residual → t.tide.ptmBad = s.tide.ptmBad + 1 ∧
          (2 ≤ s.tide.ptmBad → t.tide.ptmLocked = false) ∧
          (s.tide.ptmBad < 2 → t.tide.ptmLocked = s.tide.ptmLocked)) ∧
        (t.now = u.now ∨ t.now = u.now + 1 ∧ 0 < off ∧ s.tide.ptmCorrectedAt.toNat + 1000 ≤ u.now.toNat) ∧
        s.sameBut (mayChange (.ptmMeasurement ns)) t)))

/-! ## Registers and BAR2 -/

/-- A register write (R60, R112, R113, R116, R117, R130): it ends Slack water; of BAR0 a wrong shape is dropped with
0x5008 at every offset, a right one of 4 bytes reaches its register, and one of 8 bytes is its two halves, the lower
first; one with poisoned data is dropped and reported; of the Command register, Memory Space Enable brings the size of
BAR2 into force. The model's choices in it: log entries 12, 14, 39. Completes: registerWrite. -/
def Obligations.RegisterWritesHaveOneShape : Prop :=
  (∀ (s : State) (off : Nat) (v : BitVec 64) (en : BitVec 8), s.reachable = true → off < 0x100_0000 →
    let u := s.wakeSlack
    (∀ size, ¬(size = 4 ∧ off % 4 = 0 ∧ en.toNat % 16 = 15) → ¬(size = 8 ∧ off % 8 = 0 ∧ en = 0xFF) →
      ∀ poisoned, exec (.registerWrite (.bar0 off) size v en poisoned) s = .next (u.note 0x5008 .information 0)) ∧
    (off % 4 = 0 → en.toNat % 16 = 15 →
      exec (.registerWrite (.bar0 off) 4 v en false) s = .next (u.writeReg off (v.toNat % 2 ^ 32)) ∧
      (s.lost = false → exec (.registerWrite (.bar0 off) 4 v en true) s =
        .next ((u.note 0x5004 .contained 0).sendAer .poisonedTlp))) ∧
    (off % 8 = 0 → en = 0xFF → exec (.registerWrite (.bar0 off) 8 v en false) s =
      .next ((u.writeReg off (v.toNat % 2 ^ 32)).writeReg (off + 4) (v.toNat / 2 ^ 32)))) ∧
  (∀ (s : State) (off : Nat) (v : BitVec 64) (en : BitVec 8), s.bar2Answers = true → off % 4 = 0 →
    en.toNat % 16 = 15 →
    exec (.registerWrite (.bar4 off) 4 v en false) s = .next (s.wakeSlack.writeBar4 off (v.truncate 32)) ∧
    exec (.registerWrite (.bar4 off) 4 v en true) s =
      .next ((s.wakeSlack.note 0x5004 .contained 0).sendAer .poisonedTlp)) ∧
  (∀ (s : State) (size : Nat) (v : BitVec 64) (en : BitVec 8), s.configAnswers = true →
    (∀ r, exec (.registerWrite (.config r) size v en true) s = .next (s.wakeSlack.sendAer .poisonedTlp)) ∧
    let u := s.wakeSlack
    let taken := { u.cfg with memEnable := v.getLsbD 1, busMaster := v.getLsbD 2 }
    exec (.registerWrite (.config .command) size v en false) s =
      .next (if v.getLsbD 1 = true ∧ s.cfg.memEnable = false then
        { u with cfg := taken, hostif := { u.hostif with bar2Log2 := s.cfg.rebar } } else { u with cfg := taken }))

/-- Registers of the writable blocks take what is written (R11, R122, R157, R158, R175, R378, R394, R418, R470, R471,
R487, R514); a field written with a reserved encoding keeps its value, and the write is logged once with how many
fields carried one. The model's choices in it: log entry 34. -/
def Obligations.RegistersTakeTheirFields : Prop :=
  (∀ (s : State) (v : Word), s.answers = true →
     s.writeReg 0x010010 v.toNat = { s with hostif := { s.hostif with
       bar2Reg := (s.hostif.bar2Reg >>> 32 <<< 32) ||| v.zeroExtend 35 } } ∧
     (s.queues[(5 : QueueId)].en = false → s.writeReg 0x020050 v.toNat = s.updQueue 5 fun x => { x with
       hdrAddr := (x.hdrAddr >>> 32 <<< 32) ||| (v &&& 0xFFFF_FFC0).zeroExtend 35 }) ∧
     (s.queues[(5 : QueueId)].en = true → s.writeReg 0x020050 v.toNat = s) ∧
     (s.ctxs[(9 : CtxId)].valid = true → s.writeReg 0x030120 v.toNat = s) ∧
     s.writeReg 0x050010 v.toNat = { s with tide := { s.tide with
       syncValue := (s.tide.syncValue >>> 32 <<< 32) ||| v.zeroExtend 64 } } ∧
     s.writeReg 0x050014 v.toNat = { s with tide := { s.tide with
       syncValue := v.zeroExtend 64 <<< 32 ||| (s.tide.syncValue &&& 0xFFFF_FFFF) } } ∧
     (60 ≤ (v &&& 0xFF).toNat → (v &&& 0xFF).toNat ≤ 220 → s.writeReg 0x060000 v.toNat =
       { s with power := { s.power with budget := v.truncate 8 } }) ∧
     s.writeReg 0x080010 v.toNat = { s with fwif := { s.fwif with drvVersion := v } } ∧
     s.writeReg 0x090014 v.toNat = { s with faults := { s.faults with ring := { s.faults.ring with head := v } } } ∧
     s.writeReg 0x0A0024 v.toNat = { s with recorder := { s.recorder with hostIndex := v } } ∧
     s.writeReg 0x20200C v.toNat = (s.updStream 0 fun x => { x with consumed := v }) ∧
     s.writeReg 0x301010 v.toNat = (s.updSession 0 fun x => { x with dataHead := v }) ∧
     (v.getLsbD 31 = true → s.writeReg 0x400060 v.toNat =
       { s with memctl := { s.memctl with uerrValid := false } })) ∧
  (∀ (s : State) (v : Word), s.answers = true →
     ((v &&& 0xFF).toNat < 60 ∨ 220 < (v &&& 0xFF).toNat →
       s.writeReg 0x060000 v.toNat = s.note 0x500D .information 1) ∧
     ((v &&& 0x7FFF).toNat < 64 ∨ 16000 < (v &&& 0x7FFF).toNat →
       s.writeReg 0x01000C v.toNat = s.note 0x500D .information 1))

/-- IDENT and LIGHTHOUSE answer in every state that requests reach, lost or not, and take no write; when the device is
lost every other block reads as zero and drops writes (R119). -/
def Obligations.OnlyIdentAndLighthouseAnswerWhenLost : Prop :=
  ∀ (s : State) (o v : Nat), o < 0x1_0000 →
    (s.reachable = true → s.readReg o = BitVec.ofNat 32 (s.readIdent o) ∧
      s.readReg (0xF0_0000 + o) = BitVec.ofNat 32 (s.readLighthouse o)) ∧
    s.writeReg o v = s ∧ s.writeReg (0xF0_0000 + o) v = s ∧
    (∀ b, b ≠ 0 → b ≠ 0xF0 → s.lost = true →
      s.readReg (b * 0x1_0000 + o) = 0 ∧ s.writeReg (b * 0x1_0000 + o) v = s)

/-- BAR2 (R65, R96, R113, R117, R126, R130, R317): while the window is open it is the boot hold; once the image runs a
write lands at the window base as far as it lies below the reserved region, the rest being dropped with 0x5007; a
poisoned write is dropped and reported; a read returns the bytes of installed memory and zeros beyond it, with 0x5007;
and the BAR takes its nine sizes. The model's choices in it: log entries 36, 37. Completes: bar2Read, bar2Write,
bar2Resize. -/
def Obligations.Bar2ReachesCompanionMemory : Prop :=
  ∀ s : State, s.reachable = true →
    let u := s.wakeSlack
    (∀ (off : Nat) (bs : List Byte), s.bar2Answers = true → s.inAperture off bs.length = true → bs ≠ [] →
      let a := s.bar2Address off
      let room := s.part.reserved - a
      (s.boot.stage = .running → s.capturing = false →
        (s.replaying = true → (s.captureRuns a (bs.take room)).length = 0) →
        exec (.bar2Write off bs false) s = .next (if s.part.reserved < a + bs.length then
          ({ u with mem := u.mem.store a (bs.take room) } : State).note 0x5007 .information 0
          else { u with mem := u.mem.store a bs })) ∧
      (s.boot.stage = .running → s.capturing = true → ∃ t, exec (.bar2Write off bs false) s = .next t ∧
        t.boot = s.boot ∧ s.sameBut (mayChange (.bar2Write off bs false)) t) ∧
      exec (.bar2Write off bs true) s = .next ((u.note 0x5004 .contained 0).sendAer .poisonedTlp)) ∧
    (∀ off n : Nat, s.bar2Answers = true → s.inAperture off n = true → n ≠ 0 →
      let a := s.bar2Address off
      (s.boot.stage = .running → a + n ≤ s.part.memory → exec (.bar2Read off n) s =
        .next (u.send (.readData (u.mem.reads a n) (u.mem.poisoned a n)))) ∧
      (s.boot.stage = .running → s.part.memory < a + n → ∃ bytes bad, bytes.length = n ∧
        exec (.bar2Read off n) s = .next ((u.send (.readData bytes bad)).note 0x5007 .information 0)) ∧
      (s.boot.stage = .windowOpen → off + n ≤ holdSize → exec (.bar2Read off n) s =
        .next (u.send (.readData (u.mem.reads (windowBase + off) n) false)))) ∧
    (∀ off n : Nat, s.bar2Answers = false → s.inAperture off n = true → n ≠ 0 →
      exec (.bar2Read off n) s = .next (u.send (.readData (List.replicate n 0) false))) ∧
    (∀ k : Nat, s.configAnswers = true →
      (28 ≤ k → k ≤ 36 → exec (.bar2Resize k) s = .next { s with cfg := { s.cfg with rebar := k } }) ∧
      (k < 28 ∨ 36 < k → exec (.bar2Resize k) s = .next s))

/-- Completions of outbound reads (R111, R127, R130, R146): an entry is sampled, bytes gather until a source is whole,
an error sets its AER status and fails the command, and a timeout, unless the host disables it, stops the queue or
fails the command; tags that come free let further requests go out. The model's choices in it: log entry 55.
Completes: outboundCompletion, outboundCompletionTimeout. -/
def Obligations.OutboundReadsComplete : Prop :=
  ∀ s : State, s.alive = true →
    (∀ q : QueueId, s.queues[q].active = true → s.queues[q].stopped = false → s.queues[q].fetching ≠ 0 →
      let u := s.updQueue q fun x => { x with fetching := s.queues[q].fetching - 1 }
      (∀ bs : List Byte, bs.length = 64 → exec (.outboundCompletion (.entry q) (.data bs)) s =
        .next (u.sample q bs)) ∧
      exec (.outboundCompletion (.entry q) .poisoned) s =
        .next ((u.sendAer .poisonedTlp).sampleFailed q 0x5004) ∧
      exec (.outboundCompletion (.entry q) .unsupported) s =
        .next ((u.sendAer .unsupportedRequest).sampleFailed q 0x5006) ∧
      exec (.outboundCompletion (.entry q) .abort) s =
        .next ((u.sendAer .completerAbort).sampleFailed q 0x5006)) ∧
    (∀ (q : QueueId) (idx : Word) (f : Flight), s.flight? q idx = some f → f.awaiting = true → f.ended = false →
      (∀ (src dst : BitVec 64) (len : Word) (bs : List Byte), f.entry.op = .copy src dst len →
        let got := (f.buffer ++ bs).take f.requested
        let u := s.updFlight q idx fun x => { x with
          buffer := got, reads := x.reads.filter fun e => got.length < e }
        let all := f.requested ≤ got.length ∧ (s.sourceDue f ≤ got.length ∨ f.phase.reads = false)
        (¬all → exec (.outboundCompletion (.command q idx) (.data bs)) s = .next u.issueAll) ∧
        (all → exec (.outboundCompletion (.command q idx) (.data bs)) s =
          .next (u.updFlight q idx fun x => { x with awaiting := false, reads := [] }).issueAll)) ∧
      exec (.outboundCompletion (.command q idx) .poisoned) s =
        .next (((s.sendAer .poisonedTlp).recordUnread f).fail q idx 0x5004).issueAll ∧
      exec (.outboundCompletion (.command q idx) .unsupported) s =
        .next (((s.sendAer .unsupportedRequest).recordUnread f).fail q idx 0x5006).issueAll ∧
      exec (.outboundCompletion (.command q idx) .abort) s =
        .next (((s.sendAer .completerAbort).recordUnread f).fail q idx 0x5006).issueAll ∧
      (s.cfg.ctoDisable = false → exec (.outboundCompletionTimeout (.command q idx)) s =
        .next (((s.sendAer .completionTimeout).recordUnread f).fail q idx 0x5005).issueAll)) ∧
    (∀ q : QueueId, s.cfg.ctoDisable = false → s.queues[q].fetching ≠ 0 →
      ∃ t, exec (.outboundCompletionTimeout (.entry q)) s = .next t ∧ t.aer.completionTimeout = true ∧
        t.queues[q].stopped = true ∧ t.queues[q].reason = 0x5005 ∧ t.queues[q].fetching = 0 ∧
        s.sameBut (mayChange (.outboundCompletionTimeout (.entry q))) t) ∧
    (s.cfg.ctoDisable = true → ∀ p, exec (.outboundCompletionTimeout p) s = .next s)

/-! ## Queues -/

/-- Enabling, disabling and restarting a queue by its register (R142, R146, R147, R157, R460, R465): before READY an
enable is held; a good header puts the queue in use at its indices; a bad one leaves EN 0 with 0x5009; a write is
recorded in record mode and dropped in replay. The model's choices in it: log entry 71. Completes: queueEnable,
queueDisable, queueRestart. -/
def Obligations.QueueControlEnablesAndStops : Prop :=
  ∀ (s : State) (q : QueueId), s.answers = true →
    let taken (v : Nat) : State := s.wakeSlack.recordRegWrite (0x2_0000 + 0x10 * q.val + 8) v
    (s.replaying = true → ∀ c ∈ [Instr.queueEnable q, .queueDisable q, .queueRestart q],
      exec c s = .next (s.wakeSlack.note 0x4044 .information 0)) ∧
    (s.replaying = false →
      (s.queues[q].en = false →
        (s.ready.ready = false → exec (.queueEnable q) s =
          .next ((taken 1).updQueue q fun x => { x with en := true, enHeld := true })) ∧
        (∀ h : Header, s.ready.ready = true → (taken 1).readHeader q = some h →
          exec (.queueEnable q) s = .next ((taken 1).updQueue q fun x => { x with
            en := true, enHeld := false, active := true, stopped := false, fetching := 0, hdr := h
            head := (taken 1).headerWord q 0x14, ctail := (taken 1).headerWord q 0x18
            jtail := (taken 1).headerWord q 0x28 }).ltrUpdate) ∧
        (s.ready.ready = true → (taken 1).readHeader q = none →
          exec (.queueEnable q) s = .next (((taken 1).updQueue q fun x => { x with
            en := false, enHeld := false, active := false, reason := 0x5009 }).report
              { reason := 0x5009, severity := .information, queue := BitVec.ofNat 16 q.val })) ∧
        exec (.queueDisable q) s = .next (taken 0)) ∧
      (s.queues[q].en = true →
        exec (.queueEnable q) s = .next (taken 1) ∧
        (s.queues[q].enHeld = true → exec (.queueDisable q) s =
          .next ((taken 0).updQueue q fun x => { x with en := false, enHeld := false })) ∧
        (s.queues[q].enHeld = false → exec (.queueDisable q) s =
          .next (((taken 0).discardUnstarted q).updQueue q fun x => { x with
            en := false, active := false, stopped := false, reason := 0, fetching := 0 }).settle)) ∧
      exec (.queueRestart q) s = .next ((taken (2 + if s.queues[q].en then 1 else 0)).updQueue q fun x =>
        { x with stopped := false }))

/-- The sweep (R123, R144, R447, R465): its interval passes, each enabled queue gets its part, the next sweep starts
after the enabled queue visited first, and no entry is sampled in replay; of one queue it samples what stands between
HEAD and TAIL, at most 16, and a TAIL too far ahead stops the queue. The model's choices in it: log entries 9, 11.
Completes: queueSweep. -/
def Obligations.SweepRotatesOverTheQueues : Prop :=
  (∀ s : State, s.fwUp = true → s.ready.ready = true → s.env.power = .d0 → s.sched.sweepFirst < 256 →
    let distance (q : QueueId) : Nat := (q.val + 256 - s.sched.sweepFirst) % 256
    ∃ t, exec .queueSweep s = .next t ∧
      (∀ q : QueueId, s.queues[q].active = true →
        (∀ p : QueueId, s.queues[p].active = true → distance q ≤ distance p) →
        t.sched.sweepFirst = (q.val + 1) % 256) ∧
      ((∀ q : QueueId, s.queues[q].active = false) → t.sched.sweepFirst = s.sched.sweepFirst) ∧
      t.sched.sweeps = s.sched.sweeps + 1 ∧ t.sched.haltSpans = [] ∧
      t.now = (s.advanceTo s.sched.nextSweep).now ∧
      t.sched.nextSweep = t.now + BitVec.ofNat 64 s.hostif.qsweep.toNat ∧
      (s.replaying = true ∨ (∀ q : QueueId, s.queues[q].active = false) →
        (∀ f ∈ s.flights, f.phase ≠ .waiting) → t.flights = s.flights ∧ t.queues = s.queues) ∧
      s.sameBut (mayChange .queueSweep) t) ∧
  (∀ (s : State) (q : QueueId), s.queues[q].active = true → s.queues[q].stopped = false →
    let waiting := (s.headerWord q 0x10 - s.queues[q].head).toNat
    (waiting ≤ 2 ^ s.queues[q].hdr.ringLog2 → s.queues[q].fetching = 0 →
      s.sweepQueue q = State.sampleSome q (min 16 waiting) s) ∧
    (2 ^ s.queues[q].hdr.ringLog2 < waiting → s.sweepQueue q = (State.stopQueue (s.report
      { reason := 0x500C, severity := .contained, queue := BitVec.ofNat 16 q.val, index := s.queues[q].head })
      q 0x500C).settle))

/-- A command becomes eligible (R139, R140, R465, R467): at its LAUNCH when that comes last, which replay ignores; the
three tests come in their order, then the predicate, once, for which replay waits and takes what was recorded; a
skipped command ends with status 2. The model's choices in it: log entries 11, 51, 52, 53. Completes: commandEligible.
-/
def Obligations.EligibilityTestsInOrder : Prop :=
  ∀ (s : State) (q : QueueId) (f : Flight), s.fwUp = true → s.ready.ready = true → s.haltHolds = false →
    s.env.power = .d0 → s.nextEligible q = some f → s.orderOk f = true →
    let unknown := s.deciding = true ∧ f.entry.predCmp ≠ 0 ∧ s.decision 0x05 q f.idx = none
    let u := if s.replaying then s else s.advanceTo f.entry.launch
    let v := (u.updFlight f.q f.idx fun x => { x with
      eligible := true, eligibleAt := u.now, haltTicks := 0 }).trace 2 (qi f.q f.idx) u.now.toNat
    (s.replaying = false → f.entry.launch.toNat ≤ u.now.toNat) ∧
    (v.decision 0x05 f.q f.idx = none → v.skips f = v.ownSkip f) ∧
    (unknown → exec (.commandEligible q) s = .next s) ∧
    (¬unknown →
      (f.entry.malformed = true →
        exec (.commandEligible q) s = .next ((v.recordBare f).fail f.q f.idx 0x5001)) ∧
      (f.entry.malformed = false → v.featureOk f.entry.op = false →
        exec (.commandEligible q) s = .next ((v.recordBare f).fail f.q f.idx 0x5002)) ∧
      (f.entry.malformed = false → v.featureOk f.entry.op = true → f.entry.op.namesContext = true →
        v.ctxs[f.entry.ctx].valid = false →
        exec (.commandEligible q) s = .next ((v.recordBare f).fail f.q f.idx 0x500A)) ∧
      (v.eligibleFault f = none → f.entry.predCmp = 0 ∨ v.skips f = false →
        exec (.commandEligible q) s = .next ((v.notePredicate f).awaitStart f)) ∧
      (v.eligibleFault f = none → f.entry.predCmp ≠ 0 → v.skips f = true →
        exec (.commandEligible q) s = .next (((((v.notePredicate f).trace 5 (qi f.q f.idx)
          (v.flag f.entry.predFlag).toNat).recordBare f).endFlight f.q f.idx 2 0).settle)))

/-- NOP, FLAG_SET, FLAG_ADD, FENCE, TIMESTAMP and FLAG_WAIT (R127, R137, R138, R149, R150, R467): each has its own
effect and then its record; compares are unsigned; a wait that is not true waits, and its TIMEOUT fails it with
0x8002. The model's choices in it: log entry 11. Completes: nop, flagSet, flagAdd, flagWait, flagWaitTimeout,
timestamp, fence. -/
def Obligations.CommandsWithoutResourcesRun : Prop :=
  (∀ flag value : Word,
     flagTrue 0 flag value = false ∧ (flagTrue 1 flag value = true ↔ flag = value) ∧
     (flagTrue 2 flag value = true ↔ flag ≠ value) ∧
     (flagTrue 3 flag value = true ↔ value ≤ flag) ∧ (flagTrue 4 flag value = true ↔ flag < value)) ∧
  (∀ (s : State) (q : QueueId) (idx : Word) (f : Flight), s.fwUp = true → s.startable? q idx = some f →
     let u := s.startFlight q idx
     (f.entry.op = .nop → exec (.nop q idx) s = .next (u.finish q idx 0)) ∧
     (∀ g v, f.entry.op = .flagSet g v → ∃ t, exec (.flagSet q idx) s = .next t ∧
       t = (u.setFlag g v).finish q idx 0 ∧ t.flags = s.flags.set g.val v ∧
       s.sameBut (mayChange (.flagSet q idx)) t) ∧
     (∀ g v, f.entry.op = .flagAdd g v → ∃ t, exec (.flagAdd q idx) s = .next t ∧
       t = (u.setFlag g (s.flag g + v)).finish q idx 0 ∧ t.flags = s.flags.set g.val (s.flag g + v) ∧
       s.sameBut (mayChange (.flagAdd q idx)) t) ∧
     (∀ scope, f.entry.op = .fence scope → exec (.fence q idx) s = .next u.settle) ∧
     (∀ dst, f.entry.op = .timestamp dst →
       let v := writeVa u f.entry.ctx dst.toNat (leBytes 8 s.now.toNat)
       let out := u.outside f.entry.ctx dst.toNat 8 .write
       (∀ e, firstFault u f.entry.ctx dst.toNat 8 .write = some e →
         exec (.timestamp q idx) s = .next (u.mmuFail q idx e)) ∧
       (firstFault u f.entry.ctx dst.toNat 8 .write = none →
         (out = false → exec (.timestamp q idx) s = .next (v.finish q idx 0)) ∧
         (out = true → exec (.timestamp q idx) s = .next (v.fail q idx 0x5006))))) ∧
  (∀ (s : State) (q : QueueId) (idx : Word) (f : Flight) (g : FlagId) (cmp : BitVec 3) (v : Word)
     (timeout : BitVec 64), s.fwUp = true → f.entry.op = .flagWait g cmp v timeout →
     (s.startable? q idx = some f →
       let u := s.updFlight q idx fun x => { x with phase := .waiting, waitFrom := s.now, startAt := s.now }
       (∀ d, s.decision 0x06 q idx = some d → exec (.flagWait q idx) s = .next (u.fail q idx d.reason)) ∧
       (s.decision 0x06 q idx = none →
         (flagTrue cmp (s.flag g) v = true → exec (.flagWait q idx) s = .next
           (((u.updFlight q idx fun x => { x with started := true }).trace 3 (qi q idx) 0).finish q idx 0)) ∧
         (flagTrue cmp (s.flag g) v = false → exec (.flagWait q idx) s = .next u.noteBlocked))) ∧
     (s.flight? q idx = some f → f.phase = .waiting → s.haltHolds = false → s.deciding = false →
       (timeout ≠ 0 → exec (.flagWaitTimeout q idx) s =
         .next ((s.advanceTo (f.waitFrom + timeout)).failWait q idx 0x8002)) ∧
       (timeout = 0 → exec (.flagWaitTimeout q idx) s = .next s)) ∧
     (s.haltHolds = true ∨ s.deciding = true → exec (.flagWaitTimeout q idx) s = .next s))

/-- A command's end (R145, R148, R151, R152): its record of 32 bytes has its layout and is written at CTAIL, which
moves by one; slots that the host frees release held records, oldest first. Completes: completionSlotFree,
journalSlotFree. -/
def Obligations.RecordsAreWrittenInOrder : Prop :=
  (∀ (f : Flight) (r : Record) (phase : Bool),
    let b := State.recordBytes f r phase
    b.length = 32 ∧ leNat (b.take 2) = r.reason.toNat ∧ b[2]? = some r.status ∧
    b[3]? = some (BitVec.ofNat 8 (r.flags.toNat + if phase then 128 else 0)) ∧
    b[4]? = some (BitVec.ofNat 8 f.q.val) ∧ b[5]? = some (BitVec.ofNat 8 f.entry.ctx.val) ∧
    leNat ((b.drop 8).take 8) = f.startAt.toNat ∧ leNat ((b.drop 16).take 8) = f.endAt.toNat ∧
    leNat ((b.drop 28).take 4) = f.idx.toNat) ∧
  (∀ (s : State) (f : Flight) (r : Record),
     let x := s.queues[f.q]
     let a := x.hdr.compl + 32 * (x.ctail.toNat % 2 ^ x.hdr.complLog2)
     let t := s.writeRecord f r
     t.queues[f.q].ctail = x.ctail + 1 ∧ (∀ p : QueueId, p ≠ f.q → t.queues[p] = s.queues[p]) ∧
     t.flight? f.q f.idx = none ∧
     (s.mem.wf → s.inHostMemory a 32 = true → s.fwif.trace.en = false →
       (∀ i < 4, ¬(a ≤ s.header f.q + 0x18 + i ∧ s.header f.q + 0x18 + i < a + 32)) →
       t.mem.reads a 32 = State.recordBytes f r (phaseBit x.ctail.toNat x.hdr.complLog2))) ∧
  (∀ (s : State) (q : QueueId), s.fwUp = true →
     exec (.completionSlotFree q) s = .next (State.writeHeld q s.flights.length s).settle ∧
     (∀ f r, s.flights = [f] → f.q = q → f.phase = .recordHeld → f.record = some r → s.complFull q = false →
       State.writeHeld q 1 s = s.writeRecord f r) ∧
     (s.queues[q].active = true → exec (.journalSlotFree q) s = .next s.noteBlocked.settle) ∧
     (s.queues[q].active = false → exec (.journalSlotFree q) s = .next s))

/-- Host flag writes and HALT_ALL (R117, R122–R125, R149, R465): the flag takes the value or the sum; in replay they
are dropped with 0x4044; HALT and PREEMPT take what is written, HALTED sets when no command executes, and a device
reset holds the write. Completes: haltAll, haltPreempt, haltRelease, hostFlagWrite, hostFlagAdd. -/
def Obligations.HostFlagsAndHalts : Prop :=
  (∀ (s : State) (g : FlagId) (v : Word), s.answers = true →
     (s.replaying = false →
       (∃ t, exec (.hostFlagWrite g v) s = .next t ∧ t.flags = s.flags.set g.val v ∧
         s.sameBut (mayChange (.hostFlagWrite g v)) t) ∧
       ∃ t, exec (.hostFlagAdd g v) s = .next t ∧ t.flags = s.flags.set g.val (s.flag g + v) ∧
         s.sameBut (mayChange (.hostFlagAdd g v)) t) ∧
     (s.replaying = true → exec (.hostFlagWrite g v) s = .next (s.wakeSlack.note 0x4044 .information 0) ∧
       exec (.hostFlagAdd g v) s = .next (s.wakeSlack.note 0x4044 .information 0))) ∧
  (∀ s : State, s.haltAnswers = true →
     let held (h p : Bool) : State :=
       { s.wakeSlack with env := { s.wakeSlack.env with heldHalt := some (h, p) } }
     (s.env.reset = .device → exec .haltAll s = .next (held true s.hostif.preempt) ∧
       exec .haltPreempt s = .next (held true true) ∧
       exec .haltRelease s = .next (held false s.hostif.preempt)) ∧
     (s.env.reset = .none →
       (∃ t, exec .haltAll s = .next t ∧ t.hostif.halt = true ∧ t.hostif.preempt = s.hostif.preempt ∧
         (s.hostif.preempt = false → (∀ f ∈ s.flights, f.holdsHalt = false) → t.hostif.halted = true) ∧
         s.sameBut (mayChange .haltAll) t) ∧
       (∃ t, exec .haltPreempt s = .next t ∧ t.hostif.halt = true ∧ t.hostif.preempt = true ∧
         s.sameBut (mayChange .haltPreempt) t) ∧
       (s.hostif.halt = true → ∃ t, exec .haltRelease s = .next t ∧ t.hostif.halt = false ∧
         t.hostif.halted = false ∧ t.hostif.preempt = s.hostif.preempt ∧
         s.sameBut (mayChange .haltRelease) t) ∧
       (s.hostif.halt = false → exec .haltRelease s = .next s.wakeSlack)))

/-! ## Copies, tables and bindings -/

/-- COPY and PEER_COPY (R127, R138, R155, R317, R427): on a free channel a copy asks for what its source has outside;
ranges that overlap or fault fail before any byte moves; at the end the bytes are at their destination, a PEER_COPY's
signal after its data, a part that no window serves was not issued and fails the command with 0x5006, and a poisoned
source fails it with 0x4012. The model's choices in it: log entries 57, 103. Completes: copy, copyDone, peerCopy,
peerCopyDone. -/
def Obligations.CopiesMoveTheirBytes : Prop :=
  (∀ (s : State) (q : QueueId) (idx : Word) (f : Flight), s.fwUp = true → s.startable? q idx = some f →
     let u := s.startFlight q idx
     let c := f.entry.ctx
     let asked := (u.askSource q idx).haltUpdate.ltrUpdate
     (∀ src dst len, f.entry.op = .copy src dst len →
       let fault := (firstFault u c src.toNat len.toNat .read).or (firstFault u c dst.toNat len.toNat .write)
       (s.channelFor f = false → exec (.copy q idx) s = .next s) ∧
       (s.channelFor f = true →
         (rangesMeet src.toNat dst.toNat len.toNat = true →
           exec (.copy q idx) s = .next (s.fail q idx 0x5001)) ∧
         (rangesMeet src.toNat dst.toNat len.toNat = false →
           (fault = none → exec (.copy q idx) s = .next asked) ∧
           (∀ e, fault = some e → exec (.copy q idx) s = .next (u.mmuFail q idx e))))) ∧
     (∀ src dst len value signal, f.entry.op = .peerCopy src dst len value signal →
       (s.channelFor f = false → exec (.peerCopy q idx) s = .next s) ∧
       (s.channelFor f = true →
         (firstFault u c src.toNat len.toNat .read = none → exec (.peerCopy q idx) s = .next asked) ∧
         (∀ e, firstFault u c src.toNat len.toNat .read = some e →
           exec (.peerCopy q idx) s = .next (u.mmuFail q idx e))))) ∧
  (∀ (a b n : Nat), rangesMeet a b n = true ↔ 0 < n ∧ ∃ x, a ≤ x ∧ x < a + n ∧ b ≤ x ∧ x < b + n) ∧
  (∀ (s : State) (q : QueueId) (idx : Word) (f : Flight), s.copying? q idx = some f →
     let c := f.entry.ctx
     (∀ src dst len, f.entry.op = .copy src dst len →
       let moved := writeVa s c dst.toNat (s.sourceBytes (segments s c src.toNat len.toNat .read) f.buffer)
       let out := s.outside c src.toNat len.toNat .read || s.outside c dst.toNat len.toNat .write
       (poisonedVa s c src.toNat len.toNat = false → exec (.copyDone q idx) s =
         .next (if out then moved.fail q idx 0x5006 else moved.finish q idx 0)) ∧
       (poisonedVa s c src.toNat len.toNat = true →
         exec (.copyDone q idx) s = .next (s.fail q idx 0x4012))) ∧
     (∀ src dst len value signal, f.entry.op = .peerCopy src dst len value signal →
       let u := s.outboundWrite dst.toNat
         (s.sourceBytes (segments s c src.toNat len.toNat .read) f.buffer) false
       let signalled := u.outboundWrite signal.toNat (leBytes 4 value.toNat) false
       let out := u.outside c src.toNat len.toNat .read || !u.windowsHold dst.toNat len.toNat false
       (poisonedVa s c src.toNat len.toNat = true →
         exec (.peerCopyDone q idx) s = .next (s.fail q idx 0x4012)) ∧
       (poisonedVa s c src.toNat len.toNat = false →
         (out = true → exec (.peerCopyDone q idx) s = .next (u.fail q idx 0x5006)) ∧
         (out = false → signal = 0 → exec (.peerCopyDone q idx) s = .next (u.finish q idx 0)) ∧
         (out = false → signal ≠ 0 → exec (.peerCopyDone q idx) s =
           .next (if u.windowsHold signal.toNat 4 false then signalled.finish q idx 0
             else signalled.fail q idx 0x5006)))))

/-- TABLE_LOAD and STREAM_BIND (R138, R263–R265, R360, R374, R375): a table that is wrong fails with 0xA006 or 0xD005,
one in host memory is read first, else it is accepted; a binding is refused with 0xA004 or 0xA005, else it is in force
at once, or after the frame in progress, or in replay after the recorded frames before it. The model's choices in it:
log entries 59, 66. Completes: streamBind, tableLoad. -/
def Obligations.TablesAndBindingsTakeEffect : Prop :=
  (∀ (s : State) (q : QueueId) (idx : Word) (f : Flight) (cls unit table : Nat) (len : Word) (src : BitVec 64),
     s.fwUp = true → s.startable? q idx = some f → f.entry.op = .tableLoad cls unit table len src →
     let u := s.startFlight q idx
     let c := f.entry.ctx
     (s.channelFor f = false → exec (.tableLoad q idx) s = .next s) ∧
     (s.channelFor f = true →
       (∀ code, u.tableCode cls unit table len.toNat = some code →
         exec (.tableLoad q idx) s = .next ((u.recordBare f).fail q idx code)) ∧
       (u.tableCode cls unit table len.toNat = none → f.carried = [] →
         (∀ e, firstFault u c src.toNat len.toNat .read = some e →
           exec (.tableLoad q idx) s = .next ((u.recordBare f).mmuFail q idx e)) ∧
         (firstFault u c src.toNat len.toNat .read = none →
           (poisonedVa u c src.toNat len.toNat = true →
             exec (.tableLoad q idx) s = .next ((u.recordBare f).fail q idx 0x4012)) ∧
           (poisonedVa u c src.toNat len.toNat = false →
             let due := u.dueOf c [⟨src.toNat, len.toNat, false⟩]
             (due ≠ 0 →
               exec (.tableLoad q idx) s = .next (u.askSource q idx).haltUpdate.ltrUpdate) ∧
             (due = 0 → u.outside c src.toNat len.toNat .read = true →
               exec (.tableLoad q idx) s = .next ((u.recordBare f).fail q idx 0x5006)) ∧
             (due = 0 → u.outside c src.toNat len.toNat .read = false →
               exec (.tableLoad q idx) s = .next (u.loadTable f (readVa u c src.toNat len.toNat)))))) ∧
       (u.tableCode cls unit table len.toNat = none → 0 < len.toNat → len.toNat ≤ f.carried.length →
         exec (.tableLoad q idx) s = .next (u.loadTable f (f.carried.take len.toNat))))) ∧
  (∀ (s : State) (f : Flight) (cls unit table : Nat) (len : Word) (src : BitVec 64) (b : List Byte),
     f.entry.op = .tableLoad cls unit table len src →
     let v := s.recordCommand f.q f.idx b
     (cls = 1 → s.loadTable f b = if tableBodyOk table b then
       (v.acceptTable (Fin.ofNat 24 unit) table b (v.actsAt f)).finish f.q f.idx 0 else v.fail f.q f.idx 0xA006) ∧
     (cls ≠ 1 → s.loadTable f b = if adaptTableOk b then
       (v.acceptAdapt f.entry.ctx src b).finish f.q f.idx 0 else v.fail f.q f.idx 0xD005)) ∧
  (∀ (s : State) (q : QueueId) (idx : Word) (f : Flight) (sctx : Nat) (bind : Bool) (flag : FlagId)
     (count : Nat) (va : BitVec 64) (stride : Word), s.fwUp = true → s.startable? q idx = some f →
     f.entry.op = .streamBind sctx bind flag count va stride →
     let i : SctxId := Fin.ofNat 24 sctx
     let u := s.startFlight q idx
     let b : Binding := { ctx := f.entry.ctx, flag, count, va, stride, queue := q }
     (s.definedAs i = none → exec (.streamBind q idx) s = .next (u.fail q idx 0xA004)) ∧
     (∀ d, s.definedAs i = some d → bind = false →
       exec (.streamBind q idx) s = .next ((u.endBinding i).finish q idx 0)) ∧
     (∀ d, s.definedAs i = some d → bind = true → stride.toNat < defSize d + 0x1_0000 →
       exec (.streamBind q idx) s = .next (u.fail q idx 0xA005)) ∧
     (∀ d, s.definedAs i = some d → bind = true → defSize d + 0x1_0000 ≤ stride.toNat →
       let waits := s.streams[i].frame ≠ none ∨ (f.recordedAt ≠ none ∧ s.streams[i].binding ≠ none)
       ∃ t, exec (.streamBind q idx) s = .next t ∧
         (¬waits → t.streams[i].binding = some b ∧ t.streams[i].frames = 0 ∧ t.streams[i].consumed = 0) ∧
         (waits → t.streams[i] = { s.streams[i] with
           nextBinding := some (some b), nextBindAt := f.recordedAt.getD s.now }) ∧
         (∀ j : SctxId, j ≠ i → t.streams[j] = s.streams[j]) ∧ s.sameBut (mayChange (.streamBind q idx)) t))

/-! ## DISPATCH -/

/-- DISPATCH from its checks to its end (R111, R127, R138, R141, R151, R153, R154, R265, R432, R435, R467): its cargo
and its argument block are asked of host memory where they lie there; one that cannot be read, or a failed check, ends
it, else it waits for admission at its first tile; when its parts are done its adaptive state goes home, a part of it
that no window serves failing it, and it ends with its journal and its record. The model's choices in it: log entries
54, 64, 66, 72, 119. Completes: dispatch, dispatchComplete. -/
def Obligations.DispatchWaitsAndCompletes : Prop :=
  (∀ (s : State) (q : QueueId) (idx : Word) (f : Flight) (cargo : Cargo) (fallback : Option Cargo)
     (cva args seed : BitVec 64) (entry stream : Word), s.checkable? q idx = some f →
     f.entry.op = .dispatch cva entry stream args seed →
     let c := f.entry.ctx
     let back := if f.entry.fallback = 0 then none else fallback
     let stated := ((cargo.entries[entry.toNat]?).map (·.argLen)).getD 0
     let args : Source := ⟨args.toNat, if stated ≤ f.carried.length then 0 else stated, false⟩
     let code : List Source := ⟨cva.toNat, cargo.length, true⟩ :: (match back with
       | some b => [⟨f.entry.fallback.toNat, b.length, true⟩]
       | none => [])
     let all := code ++ [args]
     let come := s.dueOf c all = 0 ∨ f.awaiting = false ∧ f.sources = all
     let u := s.recordCommand q idx (s.lastSource f code args)
     let run : Run := { Run.load {} cargo entry.toNat with fallback := back }
     let v := u.updFlight q idx fun f => { f with
       phase := .admitWait, sources := [], buffer := []
       run := { run with need := imageNeed run, deckFrom := u.now } }
     (∀ e, s.sourceFault c all = some e →
       exec (.dispatch q idx cargo fallback) s = .next ((s.recordBare f).mmuFail q idx e)) ∧
     (s.sourceFault c all = none → ¬come →
       (f.awaiting = true → exec (.dispatch q idx cargo fallback) s = .next s) ∧
       (f.awaiting = false → exec (.dispatch q idx cargo fallback) s = .next (s.askFor q idx all))) ∧
     (∀ reason, s.sourceFault c all = none → come → s.sourceCode c all = some reason →
       exec (.dispatch q idx cargo fallback) s = .next ((s.recordBare f).fail q idx reason)) ∧
     (s.sourceFault c all = none → come → s.sourceCode c all = none →
       (∀ code, u.dispatchCheck f entry.toNat cargo back = some code →
         exec (.dispatch q idx cargo fallback) s = .next (u.fail q idx code)) ∧
       (u.dispatchCheck f entry.toNat cargo back = none →
         (v.decision 0x08 q idx = none → exec (.dispatch q idx cargo fallback) s = .next (v.evaluate q idx)) ∧
         (v.decision 0x08 q idx ≠ none → exec (.dispatch q idx cargo fallback) s = .next (v.abandon q idx)) ∧
         (f.entry.budget = 0 ∨ back = none → v.evaluate q idx = v)))) ∧
  (∀ (s : State) (q : QueueId) (idx : Word) (f : Flight) (cva args seed : BitVec 64) (entry stream : Word),
     s.fwUp = true → s.flight? q idx = some f → f.entry.op = .dispatch cva entry stream args seed →
     let ready := f.phase = .executing ∧ f.run.arrayDone = true ∧ f.run.deckDone = true ∧
       s.tileRunning q idx = false
     let late := f.entry.budget ≠ 0 && (f.entry.fallback = 0 || f.run.onFallback) &&
       s.deadline f < s.now.toNat * 4
     let v := ((s.writeHome f.entry.ctx f.run).commitAdaptive f).updFlight q idx fun f => { f with
       late, jcount := f.run.steps.length }
     (¬ready → exec (.dispatchComplete q idx) s = .next s) ∧
     (ready → ∀ e, s.homeFault f.entry.ctx f.run = some e →
       exec (.dispatchComplete q idx) s = .next (s.mmuFail q idx e)) ∧
     (ready → s.homeFault f.entry.ctx f.run = none → s.homeOutside f.entry.ctx f.run = true →
       exec (.dispatchComplete q idx) s = .next ((s.writeHome f.entry.ctx f.run).fail q idx 0x5006)) ∧
     (ready → s.homeFault f.entry.ctx f.run = none → s.homeOutside f.entry.ctx f.run = false →
       ∀ g, v.flight? q idx = some g →
       exec (.dispatchComplete q idx) s =
         .next ((v.writeJournal g).finish q idx (if f.run.onFallback then 0x8005 else 0))))

/-- Admission (R111, R201, R422–R426, R428, R430, R436): a DISPATCH let in takes its Quays and executes or restores,
or wakes gated Berths first, at most eight in any 1 µs; DISPATCH_ADMIT acts on the first in the order of classes that
calls for an act; a context takes a free slot of the 64, or the command that wanted it fails when its state cannot be
read back. The model's choices in it: log entries 48, 64, 111. Completes: dispatchAdmit, contextResident. -/
def Obligations.AdmissionIsRanked : Prop :=
  (∀ (s : State) (f : Flight) (qs : List QuayId), s.flight? f.q f.idx = some f →
     (s.asleep qs ≠ [] → s.letIn f qs = s.beginWakes (s.asleep qs) ∧ ((s.asleep qs).length ≤ s.wakesLeft →
       ∀ x ∈ s.asleep qs, ((s.letIn f qs).berth x.1 x.2).waking = true)) ∧
     (s.asleep qs = [] → f.phase = .admitWait → s.saveHolds f = false →
       s.letIn f qs = s.fail f.q f.idx 0x8006) ∧
     (s.asleep qs = [] → f.phase = .admitWait → s.saveHolds f = true → f.started = false →
       let u := (((s.claim qs f.q f.idx).updFlight f.q f.idx fun x => { x with
         run := { x.run with quays := qs } }).startFlight f.q f.idx).takeAdaptive f.q f.idx
       s.letIn f qs = u.wakeAll.haltUpdate.noteBlocked.ltrUpdate ∧
       ∃ g, u.flight? f.q f.idx = some g ∧ g.phase = .executing ∧ g.run.quays = qs ∧ g.started = true ∧
         ∀ y ∈ qs, u.quays[y].storeOwner = [(f.q, f.idx)]) ∧
     (s.asleep qs = [] → f.phase = .suspended → ∃ g,
       (s.letIn f qs).flight? f.q f.idx = some g ∧ g.phase = .restoring ∧ g.run.quays = qs ∧
       ∀ y ∈ qs, (s.letIn f qs).quays[y].storeOwner = [(f.q, f.idx)])) ∧
  (∀ s : State, s.fwUp = true →
     let v := s.noteBlocked.flights.foldl (fun u f =>
       if (f.phase = .admitWait || f.phase = .suspended || f.phase = .slotWait) && f.entry.op.needsResident then
         u.askSlot f.entry.ctx else u) s.noteBlocked
     let waiting := State.sortBy v.admittedBefore (v.flights.filter fun f => v.mayAdmit f)
     (∀ u, waiting.findSome? v.recordedRestore = some u → exec .dispatchAdmit s = .next u) ∧
     (waiting.findSome? v.recordedRestore = none →
       exec .dispatchAdmit s = .next (v.admitFrom waiting []))) ∧
  (∀ (s : State) (f : Flight) (fs : List Flight) (taken : List QuayId),
     s.admitFrom [] taken = s ∧
     (∀ qs, s.verdict f taken = .letIn qs → s.admitFrom (f :: fs) taken = s.letIn f qs) ∧
     (f.phase ≠ .suspended → s.verdict f taken = .refuse →
       s.admitFrom (f :: fs) taken = s.fail f.q f.idx 0x8003) ∧
     (f.phase = .suspended → s.verdict f taken = .refuse → s.admitFrom (f :: fs) taken = s.refuseRestore f) ∧
     (∀ vs, s.verdict f taken = .preempt vs →
       s.admitFrom (f :: fs) taken = vs.foldl (fun u v => u.preemptFlight v false false) s) ∧
     (∀ p, s.verdict f taken = .wait p → s.admitFrom (f :: fs) taken = s.admitFrom fs (taken ++ p))) ∧
  (∀ (s : State) (c : CtxId),
     (s.fwUp = true → s.residents.length < 64 → s.nextSlot = some c →
       let state := s.residentSource c
       let come (f : Flight) := s.dueOf f.entry.ctx state = 0 ∨ f.awaiting = false ∧ f.sources = state
       (s.returnFails c = none → ∀ f, s.slotUser c = some f → ¬come f →
         (f.awaiting = true → exec (.contextResident c) s = .next s) ∧
         (f.awaiting = false → exec (.contextResident c) s = .next (s.askFor f.q f.idx state))) ∧
       (s.returnFails c = none → (∀ f, s.slotUser c = some f → come f) →
         ∃ t, exec (.contextResident c) s = .next t ∧ t.ctxs[c].resident = true ∧
         t.ctxs[c].slotWaiting = false ∧ t.ctxs[c].saved = false ∧
         (∀ d : CtxId, d ≠ c → t.ctxs[d] = s.ctxs[d]) ∧
         t.flights = s.flights.map (fun f : Flight =>
           if f.entry.ctx = c ∧ f.phase = .slotWait then { f with phase := .sampled } else f) ∧
         s.sameBut (mayChange (.contextResident c)) t) ∧
       (∀ e f, s.returnFails c = some (.inl e) → s.slotUser c = some f →
         exec (.contextResident c) s = .next (s.mmuFail f.q f.idx e)) ∧
       (∀ code f, s.returnFails c = some (.inr code) → s.slotUser c = some f →
         exec (.contextResident c) s = .next (s.fail f.q f.idx code))) ∧
     (s.nextSlot ≠ some c ∨ 64 ≤ s.residents.length → exec (.contextResident c) s = .next s))

/-- Lightering, deadlines and the cycle check (R127, R310, R313, R425, R429, R430, R432, R433, R437, R438, R467): the
save area is written and read, its fault fails the command, and so does a bad Hold word that the Quay DMA meets, or a
bad store word its image carries when it returns; a projection past the deadline abandons the primary for its boosted
fallback; a closed path of waits that stood twice is reported and stops. The model's choices in it: log entries 56,
64, 65. Completes: lighteringDone, restoreDone, deadlineEvaluation, cycleCheck. -/
def Obligations.SchedulingSuspendsAndAbandons : Prop :=
  (∀ (s : State) (q : QueueId) (idx : Word) (f : Flight), s.flight? q idx = some f →
     (s.alive = true → f.phase = .lightering → ∀ (ws : List StoreWord) (hs : List HoldWord),
       let c := f.entry.ctx
       let at_ := s.saveBase c + 0x1_0000
       (∀ e, s.saveFault c .write = some e →
         exec (.lighteringDone q idx ws hs) s = .next (s.mmuFail q idx e)) ∧
       (s.saveFault c .write = none → s.outside c at_ (s.imageBytes c) .write = true →
         exec (.lighteringDone q idx ws hs) s =
           .next ((s.saveVa c at_ (s.imageBytes c)).fail q idx 0x5006)) ∧
       (s.saveFault c .write = none → s.outside c at_ (s.imageBytes c) .write = false →
         let words := ws.filter fun w => f.run.quays.contains w.quay
         let holds := hs.filter fun w => f.run.quays.contains w.quay
         let v := holds.foldl (fun s w => s.holdWord w) (words.foldl (fun s w => s.storeWord w)
           ((s.chargePhase f).saveVa c at_ (s.imageBytes c)))
         let w := (v.releaseUnits q idx).updFlight q idx fun g => { g with
           phase := .suspended, phaseFrom := v.now
           run := { g.run with
             quays := [], images := f.run.quays.map v.quayImage
             badWord := g.run.badWord <|> (words.find? (·.ecc = .uncorrectable)).map (·.quay) } }
         (∀ x, holds.find? (·.ecc = .uncorrectable) = some x → exec (.lighteringDone q idx ws hs) s =
           .next ((v.report { v.commandEvent f 0x2002 .contained 0 with
             level := 1, counted := true, quay := BitVec.ofNat 8 x.quay.val
             berth := BitVec.ofNat 8 x.berth.val }).failQuiet q idx 0x2002)) ∧
         (holds.find? (·.ecc = .uncorrectable) = none → exec (.lighteringDone q idx ws hs) s =
           .next (w.trace 34 (qi q idx) (liveBytes f)).makeRoom.settle) ∧
         ∃ g, w.flight? q idx = some g ∧ g.phase = .suspended ∧ g.run.quays = [])) ∧
     (f.phase ≠ .lightering → ∀ ws hs, exec (.lighteringDone q idx ws hs) s = .next s) ∧
     (f.awaiting = true → exec (.restoreDone q idx) s = .next s) ∧
     (s.fwUp = true → f.phase = .restoring → f.awaiting = false →
       let c := f.entry.ctx
       let out := s.outside c (s.saveBase c + 0x1_0000) (s.imageBytes c) .read
       (∀ e, s.saveFault c .read = some e → exec (.restoreDone q idx) s = .next (s.mmuFail q idx e)) ∧
       (s.saveFault c .read = none →
         (poisonedVa s c (s.saveBase c + 0x1_0000) (s.imageBytes c) = true →
           exec (.restoreDone q idx) s = .next (s.fail q idx 0x4012)) ∧
         (poisonedVa s c (s.saveBase c + 0x1_0000) (s.imageBytes c) = false → out = true →
           exec (.restoreDone q idx) s = .next (s.fail q idx 0x5006)) ∧
         (poisonedVa s c (s.saveBase c + 0x1_0000) (s.imageBytes c) = false → out = false →
           (∀ y, f.run.badWord = some y → exec (.restoreDone q idx) s =
             .next ((s.report { s.commandEvent f 0x3002 .contained 0 with
               level := 2, counted := true, quay := BitVec.ofNat 8 y.val }).failQuiet q idx 0x3002)) ∧
           (f.run.badWord = none → ∃ u, exec (.restoreDone q idx) s =
               .next (u.trace 35 (qi q idx) 1).wakeAll.noteBlocked.ltrUpdate ∧
             (∃ g, u.flight? q idx = some g ∧ g.phase = .executing ∧ g.run.quays = f.run.quays) ∧
             (∀ y m, f.run.quays = [y] → f.run.images = [m] → u.quays[y].store = m.store) ∧
             s.sameBut [.ctxs, .flights, .quays] u)))) ∧
     (f.phase ≠ .restoring → exec (.restoreDone q idx) s = .next s)) ∧
  (∀ (s : State) (q : QueueId) (idx : Word) (f : Flight), s.flight? q idx = some f →
     let given := f.entry.budget ≠ 0 ∧ f.run.fallback ≠ none ∧ s.haltHolds = false ∧ s.replaying = false ∧
       s.late? f = true
     (s.fwUp = true → f.phase ∈ [Phase.admitWait, .suspended, .lightering, .restoring] →
       (given → exec (.deadlineEvaluation q idx) s = .next (s.abandon q idx).settle) ∧
       (¬given → exec (.deadlineEvaluation q idx) s = .next s.settle)) ∧
     (∀ c, f.run.fallback = some c → ∃ g, (s.abandon q idx).flight? q idx = some g ∧ g.phase = .admitWait ∧
       g.run.onFallback = true ∧ g.run.boosted = true ∧ g.run.cargo = some c ∧ g.run.quays = [])) ∧
  (∀ s : State, s.fwUp = true → s.haltHolds = false → s.deciding = false →
     let both := s.waitEdges.filter fun e => s.sched.lastCycles.contains e
     ((∀ q : QueueId, cycleLength both q.val = none) →
       exec .cycleCheck s = .next { s with sched := { s.sched with lastCycles := s.waitEdges } }) ∧
     (∀ q : QueueId, cycleLength both q.val ≠ none → ∃ t, exec .cycleCheck s = .next t ∧
       t.sched.lastCycles = s.waitEdges ∧ t.sched.cycleValid = true ∧
       (s.sched.cycleValid = false → t.sched.queueA.toNat ≤ q.val) ∧ s.sameBut (mayChange .cycleCheck) t))

/-! ## Contexts -/

/-- Registering, invalidating and unregistering a context, its walk and its counters (R107, R156, R158, R421, R439,
R465): a change of one context leaves the others; a clear of VALID is dropped with 0x500B while a command of the
context is in flight; replay drops the writes; the walk zeroes each mapped page that was not cleared yet. Completes:
contextRegister, contextInvalidate, contextUnregister, tableWalkDone, acctClear. -/
def Obligations.ContextsRegisterAndWalk : Prop :=
  ∀ (s : State) (c : CtxId),
    (s.answers = true → s.replaying = true →
      ∀ i ∈ [Instr.contextRegister c, .contextInvalidate c, .contextUnregister c],
        exec i s = .next (s.wakeSlack.note 0x4044 .information 0)) ∧
    (s.answers = true → s.replaying = false →
      (∃ t, exec (.contextRegister c) s = .next t ∧ t.ctxs[c].valid = true ∧
        (s.ctxs[c].valid = false → t.ctxs[c] = { s.ctxs[c] with
          valid := true, busy := true, waitTicks := 0, lighterTicks := 0, preempts := 0, fallbacks := 0
          evictions := 0, acctFrom := s.now }) ∧
        (s.ctxs[c].valid = true → t.ctxs[c] = s.ctxs[c]) ∧
        (∀ d : CtxId, d ≠ c → t.ctxs[d] = s.ctxs[d]) ∧ s.sameBut (mayChange (.contextRegister c)) t) ∧
      (∃ t, exec (.contextInvalidate c) s = .next t ∧
        t.ctxs[c] = (if s.ctxs[c].valid then { s.ctxs[c] with busy := true, inval := true } else s.ctxs[c]) ∧
        (∀ d : CtxId, d ≠ c → t.ctxs[d] = s.ctxs[d]) ∧ s.sameBut (mayChange (.contextInvalidate c)) t) ∧
      (s.ctxs[c].valid = true → (∀ f ∈ s.flights, f.entry.ctx ≠ c) →
        ∃ t, exec (.contextUnregister c) s = .next t ∧ t.ctxs[c] = { s.ctxs[c] with
          valid := false, busy := false, inval := false, resident := false, slotWaiting := false
          saved := false, adaptive := [], home := none, freezeAll := false } ∧
          (∀ d : CtxId, d ≠ c → t.ctxs[d] = s.ctxs[d]) ∧ s.sameBut (mayChange (.contextUnregister c)) t) ∧
      (s.ctxs[c].valid = true → (∃ f ∈ s.flights, f.entry.ctx = c) → exec (.contextUnregister c) s =
        .next (s.wakeSlack.report
          { reason := 0x500B, severity := .information, ctx := BitVec.ofNat 16 c.val }))) ∧
    (s.answers = true → exec (.acctClear c) s = .next (s.wakeSlack.updCtx c fun x => { x with
      waitTicks := 0, lighterTicks := 0, preempts := 0, fallbacks := 0, evictions := 0, acctFrom := s.now })) ∧
    (s.fwUp = true → s.ctxs[c].busy = true →
      let pages := (mappedPages s (fun _ => true) 4 (s.ctxs[c].root.toNat / 2048 * 2048)).filter fun p =>
        !(s.mem.cleared.contains p)
      ∃ t, exec (.tableWalkDone c) s = .next t ∧
        t.ctxs[c] = { s.ctxs[c] with busy := false, inval := false } ∧
        (∀ d : CtxId, d ≠ c → t.ctxs[d] = s.ctxs[d]) ∧
        (∀ p ∈ pages, ∀ a, p * 0x1_0000 ≤ a → a < (p + 1) * 0x1_0000 → t.mem.read a = 0) ∧
        (s.mem.wf → ∀ a, a / 0x1_0000 ∉ pages → t.mem.read a = s.mem.read a) ∧
        s.sameBut (mayChange (.tableWalkDone c)) t) ∧
    (s.ctxs[c].busy = false → exec (.tableWalkDone c) s = .next s)

/-! ## Deck parts -/

/-- Deck parts (R127, R162, R397–R401): the first waiting part takes the lowest free cores it needs, its tasks
starting in user mode and rounding to nearest-even, once its code can be fetched; its end makes its stores the
memory's, through the context's MMU, and frees its cores, or fails the command on an uncorrectable L2 word; a trap or
a watchdog captures the first fault of a core and fails the command, the first trap in Tide order naming it, a
counter's access trapping as an illegal instruction. The model's choices in it: log entries 11, 50, 91, 108, 120.
Completes: deckPartStart, deckPartEnd, deckTrap, deckWatchdog. -/
def Obligations.DeckPartsTakeAndFreeCores : Prop :=
  (∀ (s : State) (f : Flight) (rest : List Flight), s.fwUp = true → s.env.power = .d0 →
    State.sortBy s.deckBefore (s.flights.filter s.deckReady) = f :: rest →
    let n := ((f.run.entry?).map (·.deckCores)).getD 0
    (n ≤ s.freeCores.length →
      (∀ code, s.deckRefused f = some code → exec .deckPartStart s = .next (s.fail f.q f.idx code)) ∧
      (∀ e, s.deckRefused f = none → s.sourceFault f.entry.ctx (codeSource f) = some e →
        exec .deckPartStart s = .next (s.mmuFail f.q f.idx e)) ∧
      (s.deckRefused f = none → s.sourceFault f.entry.ctx (codeSource f) = none → ∃ u,
        exec .deckPartStart s = .next u.wakeAll.haltUpdate.noteBlocked.ltrUpdate ∧
        (∀ i ∈ s.freeCores.take n, u.deckOwner[i] = some (f.q, f.idx)) ∧
        (∀ i : DeckId, i ∉ s.freeCores.take n → u.deckOwner[i] = s.deckOwner[i]) ∧
        (s.flight? f.q f.idx = some f → ∃ g, u.flight? f.q f.idx = some g ∧ g.phase = .executing ∧
          g.run.deckWaiting = false ∧ g.run.deckCores = s.freeCores.take n ∧ g.run.deckFrom = s.now ∧
          (f.run.deckTasks = [] → ∀ x ∈ g.run.deckTasks, x.user = true ∧ x.rounding = .nearestEven)) ∧
        s.sameBut (mayChange .deckPartStart) u)) ∧
    (s.freeCores.length < n → exec .deckPartStart s = .next s)) ∧
  (∀ (s : State) (q : QueueId) (idx : Word) (f : Flight), s.deckRunning? q idx = some f →
    (s.env.reset = .none → s.frozen = false →
      ∀ (stores : List DeckStore) (words : List (Nat × EccResult)),
      let bad := words.find? (·.2 = .uncorrectable)
      let c := f.entry.ctx
      let r := ((words.filter (·.2 = .corrected)).foldl (fun u _ => u.countL2) s).deckStores c f.run.deckTasks stores
      (∀ w, bad = some w → exec (.deckPartEnd q idx stores words) s =
        .next ((r.1.report { r.1.commandEvent f 0x4022 .contained 0 with counted := true }).countRepair
          (.l2Line w.1) 3 0x4022 |>.failQuiet q idx 0x4022)) ∧
      (∀ e, bad = none → r.2 = some (.inl e) →
        exec (.deckPartEnd q idx stores words) s = .next (r.1.mmuFail q idx e)) ∧
      (∀ code, bad = none → r.2 = some (.inr code) →
        exec (.deckPartEnd q idx stores words) s = .next (r.1.fail q idx code)) ∧
      (bad = none → r.2 = none → ∃ t, exec (.deckPartEnd q idx stores words) s = .next t ∧
        (∀ n : DeckId, s.deckOwner[n] = some (q, idx) → t.deckOwner[n] = none) ∧
        (∀ n : DeckId, s.deckOwner[n] ≠ some (q, idx) → t.deckOwner[n] = s.deckOwner[n]) ∧
        (∃ g, t.flight? q idx = some g ∧ g.run.deckDone = true ∧ g.run.deckCores = []) ∧
        (stores = [] → t.mem = s.mem) ∧
        (∀ x, stores = [x] → t.mem = (writeVa s c x.va.toNat (deckData x f.run.deckTasks)).mem) ∧
        s.sameBut [.flights, .deckOwner, .mem, .outbox, .faults] t)) ∧
    (∀ traps : List TrapSeen, (traps.findSome? fun t => s.deckOwner[t.core]) = some (q, idx) →
      let mine := traps.filter fun t => s.deckOwner[t.core] = some (q, idx)
      ∃ t ∈ mine, (∀ x ∈ mine, t.tide.toNat < x.tide.toNat ∨ t.tide = x.tide ∧ t.core ≤ x.core) ∧
        exec (.deckTrap traps) s = .next ((mine.foldl (fun u x => u.captureDeck x.core (trapCause x.why))
          (s.advanceTo t.tide)).failWith q idx 0x4020 .contained t.pc.toNat)) ∧
    (∀ core ∈ f.run.deckCores, (∀ n ∈ f.run.deckCores, core ≤ n) → ∃ t, exec (.deckWatchdog q idx) s = .next t ∧
      t.now = (s.advanceTo (f.run.deckFrom + BitVec.ofNat 64
        (2 * ((f.run.entry?).map (·.deckTicks)).getD 0 + 250000 - f.run.deckRan))).now ∧
      t.deckFaults[core] = (if s.deckFaults[core].valid then s.deckFaults[core]
        else { valid := true, cause := 0xFF }) ∧
      (∀ n : DeckId, n ≠ core → t.deckFaults[n] = s.deckFaults[n]) ∧
      s.sameBut (mayChange (.deckWatchdog q idx)) t)) ∧
  (∀ (s : State) (core : DeckId) (cause : Byte),
    (s.deckFaults[core].valid = true → s.captureDeck core cause = s) ∧
    (s.deckFaults[core].valid = false → s.captureDeck core cause =
      { s with deckFaults := s.deckFaults.set core.val { valid := true, cause } })) ∧
  (∀ c : DeckCounter, trapCause (.counter c) = 2)

/-! ## Manifest, locked regions, triggers -/

/-- The Manifest (R142, R160, R168, R169, R171, R173, R175, R465): one load at a time, held before READY; a refused
one leaves everything in force as it was, with its reason; an accepted one applies each changed Quay when it has
drained, lowest first, a Quay reset that it held following, and ends with the last. The model's choices in it: log
entries 60, 69. Completes: manifestEnable, manifestCheck, manifestQuayApply. -/
def Obligations.ManifestLoadsWholeOrNotAtAll : Prop :=
  (∀ (s : State) (perQuay drain : Bool) (quays : BitVec 8), s.answers = true →
     let u := s.wakeSlack
     let taken := { s.manifest with perQuay := perQuay, drain := drain, quaysSel := quays }
     (s.replaying = true → exec (.manifestEnable perQuay drain quays) s =
       .next (u.note 0x4044 .information 0)) ∧
     (s.replaying = false → s.manifest.enable = true → exec (.manifestEnable perQuay drain quays) s =
       .next (u.note 0x6060 .information 0)) ∧
     (s.replaying = false → s.manifest.enable = false → s.ready.ready = false →
       exec (.manifestEnable perQuay drain quays) s =
         .next { u with manifest := { taken with enable := true, held := true } }) ∧
     (s.replaying = false → s.manifest.enable = false → s.ready.ready = true →
       ∃ t, exec (.manifestEnable perQuay drain quays) s = .next t ∧
         t.manifest = { taken with
           enable := true, held := false
           load := some { fenceMap := s.fenceMap, carries := s.ports.toList.map portCarries } } ∧
         s.sameBut (mayChange (.manifestEnable perQuay drain quays)) t)) ∧
  (∀ (s : State) (l : Load) (image : ManifestImage), s.fwUp = true → s.manifest.load = some l → l.image = none →
     (∀ code sec, s.manifestChecks l image = some (code, sec) →
       ∃ t, exec (.manifestCheck image) s = .next t ∧
         t.manifest = { s.manifest with
           load := none, enable := false, refused := true, reason := code, section_ := sec
           item := if sec = 0xFF then 0 else image.item
           countRefused := satInc s.manifest.countRefused } ∧
         s.sameBut (reporting ++ [.recorder, .manifest]) t) ∧
     (s.manifestChecks l image = none → exec (.manifestCheck image) s =
       .next (((s.recordManifest 0).trace 65 0 0).acceptManifest l image))) ∧
  (∀ (s : State) (l : Load) (q : QuayId) (x : QuaySection), s.fwUp = true → s.manifest.load = some l →
     l.image.isSome = true → s.newSection q = some x →
     (q ∈ l.changed → (∀ p ∈ l.changed, q.val ≤ p.val) → s.quayFree q = true →
       let part := if s.quays[q].wholeFenced then none else x.partition
       ∃ t, exec (.manifestQuayApply q) s = .next t ∧ t.quays[q].shape = BitVec.ofNat 4 x.shape ∧
         t.manifest.partition[q] = part ∧ t.quays[q].draining = false ∧
         (∀ p : QuayId, p ≠ q → t.manifest.partition[p] = s.manifest.partition[p]) ∧
         (s.quays[q].resetHeld = false → t.quays[q].ready = (part.isSome && !s.quays[q].resetting) ∧
           ∀ p : QuayId, p ≠ q → t.quays[p] = s.quays[p]) ∧
         (l.changed.length ≠ 1 →
           (t.manifest.load.map (·.changed)) = some (l.changed.filter (· ≠ q)) ∧
           t.manifest.enable = s.manifest.enable ∧ t.manifest.countAccepted = s.manifest.countAccepted) ∧
         (l.changed.length = 1 → t.manifest.load = none ∧ t.manifest.enable = false ∧
           t.manifest.refused = false ∧ t.manifest.countAccepted = satInc s.manifest.countAccepted) ∧
         s.sameBut (mayChange (.manifestQuayApply q)) t) ∧
     (q ∉ l.changed ∨ (∃ p ∈ l.changed, p.val < q.val) ∨ s.quayFree q = false →
       exec (.manifestQuayApply q) s = .next s))

/-- A region of the locked window passes to its pending user, cleared, once no frame of the users keeps it; a trigger
fires at its count, which the Tide reaches, and is programmed for its next (R165, R166, R368). The model's choices in
it: log entries 11, 73. Completes: lockedRegionEffect, triggerFire. -/
def Obligations.RegionsPassAndTriggersFire : Prop :=
  ∀ s : State,
    (∀ unit : Fin 64, s.fwUp = true → s.memhost.pendingUser[unit] ≠ none →
      let units := (s.regionUnits unit).filter fun u => s.memhost.pendingUser[u].isSome
      let quiet := ∀ u ∈ units, s.userBusy s.memhost.lockUser[u] = false ∧
        ∀ v, s.memhost.pendingUser[u] = some v → s.userBusy v = false
      (quiet → ∃ t, exec (.lockedRegionEffect unit) s = .next t ∧ unit ∈ units ∧
        (∀ u ∈ units, t.memhost.pendingUser[u] = none ∧ s.memhost.pendingUser[u] = some t.memhost.lockUser[u] ∧
          ∀ a, windowBase + u.val * 0x4_0000 ≤ a → a < windowBase + (u.val + 1) * 0x4_0000 → t.mem.read a = 0) ∧
        (∀ u : Fin 64, u ∉ units → t.memhost.lockUser[u] = s.memhost.lockUser[u] ∧
          t.memhost.pendingUser[u] = s.memhost.pendingUser[u]) ∧
        (s.mem.wf → ∀ a, (∀ u ∈ units, a < windowBase + u.val * 0x4_0000 ∨
          windowBase + (u.val + 1) * 0x4_0000 ≤ a) → t.mem.read a = s.mem.read a) ∧
        s.sameBut (mayChange (.lockedRegionEffect unit)) t) ∧
      (¬quiet → exec (.lockedRegionEffect unit) s = .next s)) ∧
    (∀ unit : Fin 64, s.memhost.pendingUser[unit] = none → exec (.lockedRegionEffect unit) s = .next s) ∧
    (∀ (n : TrigId) (p : Trigger), s.trigs[n].prog = some p → s.trigs[n].next ≠ 0 →
      s.running = true →
      exec (.triggerFire n) s = .next { s with
        tide := { s.tide with count := if s.now.toNat < s.trigs[n].next.toNat then s.trigs[n].next else s.now }
        outbox := s.outbox ++ [.camTrig n s.trigs[n].next p.width]
        trigs := s.trigs.set n.val { s.trigs[n] with
          next := if p.period = 0 then 0 else s.trigs[n].next + BitVec.ofNat 64 p.period
          rose := s.trigs[n].next, falls := s.trigs[n].next + BitVec.ofNat 64 p.width } }) ∧
    (∀ n : TrigId, s.trigs[n].prog = none ∨ s.trigs[n].next = 0 → exec (.triggerFire n) s = .next s)

/-! ## Tiles, their checks and their watchdogs -/

/-- Tiles (R111, R127, R155, R178, R180, R192–R195, R197, R199, R200, R203, R309, R310, R313, R402): no tile runs
without its Quay's Pilot, before both handshakes, or before its sources in host memory have come; its operands come
into the Quay store and the Holds first; a read with a bank conflict, an uncorrectable word or a wrong tag stops it in
its cycle; at its end it is released, or held for one re-run, which releases it or stops the Berth. The model's
choices in it: log entries 7, 24, 90, 106. Completes: tileRun, tileEnd, tileRerunEnd. -/
def Obligations.TilesRunBehindTheirChecks : Prop :=
  (∀ (s : State) (q : QuayId) (b : BerthId) (tile : Tile) (f : Flight) (a : List Nat), s.fwUp = true →
     s.env.power = .d0 → s.quays[q].resetting = false → s.quays[q].recoveryFence = false →
     s.quays[q].pilotRunning = true → s.quayOwner q = some f → s.arrayAt q b = some a →
     let here := tileWithin a tile
     let c := f.entry.ctx
     let l := tileSources here
     let all := codeSource f ++ l
     let come := s.dueOf c l = 0 ∨ f.awaiting = false ∧ f.sources = l
     let mayRun := f.run.arrayDone = false ∧ State.stopAsked f = false ∧ s.arrayReady q a = true
     (∀ r, (s.berth q b).tile = some r → exec (.tileRun q b tile) s =
       .next (if r.rerun then s.rerunTile f q b a r here else s)) ∧
     ((s.berth q b).tile = none →
       (¬mayRun → exec (.tileRun q b tile) s = .next s) ∧
       (mayRun → tile.dmaDone = false ∨ tile.controlPlaced = false → exec (.tileRun q b tile) s =
         .next (s.updArray q a ({ · with seq := .handshake, holdOwner := some (f.q, f.idx) }))) ∧
       (mayRun → tile.dmaDone = true → tile.controlPlaced = true →
         (∀ e, s.sourceFault c all = some e → exec (.tileRun q b tile) s = .next (s.mmuFail f.q f.idx e)) ∧
         (s.sourceFault c all = none → ¬come →
           (f.awaiting = true → exec (.tileRun q b tile) s = .next s) ∧
           (f.awaiting = false → exec (.tileRun q b tile) s = .next (s.askFor f.q f.idx l))) ∧
         (∀ reason, s.sourceFault c all = none → come → s.sourceCode c l = some reason →
           exec (.tileRun q b tile) s = .next (s.fail f.q f.idx reason)) ∧
         (s.sourceFault c all = none → come → s.sourceCode c l = none →
           let n := (s.berth q b).tileNo
           let u := ((s.fetchSources f q here).placeOperands q n here).storeRead f q here
           let stop := u.1.stopCycle q n here
           let v := u.1.correctReads q here.reads stop
           ((∃ w ∈ tile.storeReads, w.ecc = .uncorrectable) → exec (.tileRun q b tile) s = .next u.1) ∧
           ((∀ w ∈ tile.storeReads, w.ecc ≠ .uncorrectable) →
             (stop = none → exec (.tileRun q b tile) s = .next (v.startTile f q b a here) ∧
               ∃ r, ((v.startTile f q b a here).berth q b).tile = some r ∧ r.cmd = (f.q, f.idx) ∧
                 r.rerun = false ∧ (v.startTile f q b a here).mem = v.mem) ∧
             (∀ k, stop = some k → exec (.tileRun q b tile) s = .next (v.stopReads f q b a here
               (v.seen q b (v.tileEnv f) false here (faultsOn a here.early)) k))))))) ∧
  (∀ (s : State) (q : QuayId) (b : BerthId) (tile : Tile), s.quays[q].pilotRunning = false →
     exec (.tileRun q b tile) s = .next s) ∧
  (∀ (s : State) (q : QuayId) (n : Nat) (t : Tile),
     (s.stopCycle q n t = none ↔
       (∀ r ∈ t.reads, r.ecc ≠ .uncorrectable ∧ (∀ w ∈ t.holdWrites, claimsBoth r w = false) ∧
         (r.port ≠ .quayDma → foundTag n t (s.berth q r.berth) r = BitVec.ofNat 2 (n + r.ordinal) ∧
           ∀ o ∈ t.reads, o.berth = r.berth → o.cycle = r.cycle → holdBank o.at_ = holdBank r.at_ →
             o.port = r.port ∨ o.port = .quayDma)) ∧
       ∀ w ∈ t.holdWrites, ∀ o ∈ t.holdWrites, o.berth = w.berth → o.cycle = w.cycle →
         holdBank o.at_ = holdBank w.at_ → o.sfu = w.sfu) ∧
     (∀ c, s.stopCycle q n t = some c →
       ((∃ r ∈ t.reads, r.cycle = c ∧ s.readStops q n t r = true) ∨
        ∃ w ∈ t.holdWrites, w.cycle = c ∧ writeConflict t w = true) ∧
       (∀ r ∈ t.reads, s.readStops q n t r = true → c ≤ r.cycle) ∧
       ∀ w ∈ t.holdWrites, writeConflict t w = true → c ≤ w.cycle)) ∧
  (∀ (s : State) (q : QuayId) (b : BerthId) (faults : List TileFault) (r : TileRun) (f : Flight) (a : List Nat),
     let struck := faultsOn a faults
     let seen (again : Bool) := s.seen q b r.env again r.tile struck
     let out := runOps { r.env with faults := struck } r.tile.ops
     (faults = [] → ∀ again, seen again = []) ∧
     (s.endingTile q b false = some (r, f, a) →
       (seen false = [] → exec (.tileEnd q b faults) s = .next (s.releaseTile f q b a r out)) ∧
       (seen false ≠ [] → ∃ t k, exec (.tileEnd q b faults) s = .next t ∧
         (t.berth q b).tile = some { r with rerun := true, first := seen false, captured := k } ∧
         (∀ p carried computed, drainSeen (seen false) = some (p, carried, computed) →
           (k = some p.berth ↔ (s.berth q p.berth).residue.valid = false) ∧
           ((s.berth q p.berth).residue.valid = false → (t.berth q p.berth).residue =
             { valid := true, column := BitVec.ofNat 6 p.col.val, carried, computed })) ∧
         t.mem = s.mem ∧ s.sameBut [.quays] t)) ∧
     (s.endingTile q b true = some (r, f, a) →
       (seen true = [] → exec (.tileRerunEnd q b faults) s =
         .next ((s.corrected f q r.first).releaseTile f q b a r out)) ∧
       (seen true ≠ [] → let x := s.contained f q r.captured (seen true)
         exec (.tileRerunEnd q b faults) s = .next (((x.1.noteDiscarded f r).updArray q a
           ({ · with seq := .stopped, tile := none })).failQuiet f.q f.idx (x.2.headD 0x1002)))) ∧
     (s.endingTile q b false = none → exec (.tileEnd q b faults) s = .next s) ∧
     (s.endingTile q b true = none → exec (.tileRerunEnd q b faults) s = .next s))

/-- Watchdogs of sequencer and Pilot, the Pilot's trap, and arbitration faults (R180, R403, R494): each fails one
command with its code; a device arbiter's fault loses the device with 0x4003. The model's choices in it: log entry 89.
Completes: sequencerWatchdog, pilotWatchdog, pilotTrap, quayArbitrationFault, deviceArbitrationFault. -/
def Obligations.WatchdogsAndArbitersFailOneCommand : Prop :=
  (∀ (s : State) (q : QuayId), s.fwUp = true →
     (∀ (b : BerthId) (r : TileRun) (f : Flight) (a : List Nat), (s.berth q b).tile = some r →
       s.arrayAt q b = some a → s.flight? r.cmd.1 r.cmd.2 = some f →
       (r.tile.stated + 4096 < r.tile.runs → exec (.sequencerWatchdog q b) s =
         .next (s.stopTile f q a (s.tileEvent f q b 0x2003 .contained 1 false))) ∧
       (r.tile.runs ≤ r.tile.stated + 4096 → exec (.sequencerWatchdog q b) s = .next s)) ∧
     (∀ f : Flight, s.quayOwner q = some f → s.quays[q].pilotRunning = true →
       s.quays[q].resetting = false → f.run.arrayDone = false →
       let u := s.updQuay q ({ · with pilotRunning := false })
       exec (.pilotWatchdog q) s =
         .next ((u.report (u.tileEvent f q none 0x3001 .contained 2 false)).failQuiet f.q f.idx 0x3001) ∧
       exec (.pilotTrap q) s =
         .next ((u.report (u.tileEvent f q none 0x3005 .contained 2 false)).failQuiet f.q f.idx 0x3005))) ∧
  (∀ s : State,
     (∀ (q : QuayId) (at_ : QuayArb) (cq : QueueId) (idx : Word) (f : Flight), s.fwUp = true →
       s.flight? cq idx = some f → q ∈ f.run.quays → f.ended = false → f.phase ≠ .suspended →
       ∃ e : Event, e.reason = 0x3006 ∧ e.severity = .contained ∧ e.level = 2 ∧
         e.quay = BitVec.ofNat 8 q.val ∧ exec (.quayArbitrationFault q at_ cq idx) s =
           .next (((s.report e).countRepair (.arbiter q) 1 0x3006).failQuiet cq idx 0x3006)) ∧
     (s.alive = true → s.frozen = false → ∃ t, exec .deviceArbitrationFault s = .next t ∧
       (s.env.heldFunctionReset = none → t.lighthouse.state = .lost ∧ t.lighthouse.cause = 0x4003 ∧
         t.env.faultN = true ∧ t.memctl.retention = true ∧ ∀ q : QuayId, t.quays[q].recoveryFence = true) ∧
       (s.env.heldFunctionReset ≠ none → t.env.reset = .function ∧ t.lighthouse.state = .normal) ∧
       s.sameBut (mayChange .deviceArbitrationFault) t))

/-! ## Firmware -/

/-- Stage 2 and negotiation (R80, R142, R168, R406–R409, R417, R418): the pages are loaded, a page that differs from
its leaf fails the load and after READY stops the firmware; negotiation is refused by state, queue or version, and
else sets the common features and READY, with the queue enables and the Manifest that waited for it. The model's
choices in it: log entries 16, 104. Completes: fwifLoad, stage2LoadDone, stage2PageCheck, negotiate, negotiateDone. -/
def Obligations.StageTwoLoadsAndNegotiates : Prop :=
  (∀ s : State, s.answers = true →
     let u := s.wakeSlack
     let refused (code : BitVec 16) : State :=
       State.note { u with fwif := { u.fwif with reason := code } } code .information 0
     let area := s.boot.stage2Pages * 4096
     let base := s.fwif.s2Addr.toNat / 0x1_0000 * 0x1_0000
     (s.fwif.state ≠ .wait → exec .fwifLoad s = .next (refused 0xE003)) ∧
     (s.fwif.state = .wait → area = 0 → exec .fwifLoad s = .next u.stage2Loaded) ∧
     (s.fwif.state = .wait → area ≠ 0 → s.inHostMemory base area = false →
       exec .fwifLoad s = .next (refused 0xE008)) ∧
     (s.fwif.state = .wait → area ≠ 0 → s.inHostMemory base area = true → exec .fwifLoad s =
       .next { u with fwif := { u.fwif with
         state := .loading, s2Base := base, s2Area := area } }) ∧
     (s.fwif.negotiating ≠ none ∨ s.fwif.state ≠ .loaded ∧ s.fwif.state ≠ .ready →
       exec .negotiate s = .next (refused 0xE003)) ∧
     (s.fwif.negotiating = none →
       let v1 := s.fwif.drvVersion.toNat / 0x1_0000 = 1 ∧ s.fwif.drvFeat.getLsbD 0 = true
       (s.fwif.state = .ready → (∃ q : QueueId, s.queues[q].en = true) →
         exec .negotiate s = .next (refused 0xE002)) ∧
       (s.fwif.state = .loaded ∨ s.fwif.state = .ready ∧ (∀ q : QueueId, s.queues[q].en = false) →
         (¬v1 → exec .negotiate s = .next (refused 0xE001)) ∧
         (v1 → exec .negotiate s = .next { u with fwif := { u.fwif with
           negotiating := some (s.fwif.drvVersion, s.fwif.drvFeat) } })))) ∧
  (∀ s : State, s.fwUp = true →
     (s.fwif.state = .loading →
       ((∀ i < s.boot.stage2Pages, s.pageGood i = true) → ∃ t, exec .stage2LoadDone s = .next t ∧
         t.fwif.state = .loaded ∧ t.fwif.fwVersion = BitVec.ofNat 32 (0x1_0000 + Config.fwMinor.toNat) ∧
         s.sameBut [.fwif] t) ∧
       (∀ i < s.boot.stage2Pages, s.pageGood i = false → exec .stage2LoadDone s = .next s.failStage2)) ∧
     (s.fwif.state ≠ .loading → exec .stage2LoadDone s = .next s) ∧
     (∀ page < s.boot.stage2Pages,
       (s.fwif.state ∈ [FwState.ready, .loaded] → s.pageGood page = true →
         exec (.stage2PageCheck page) s = .next (s.keepPage page)) ∧
       (s.fwif.state = .loaded → s.pageGood page = false →
         exec (.stage2PageCheck page) s = .next s.failStage2) ∧
       (s.fwif.state = .ready → s.pageGood page = false → ∃ t, exec (.stage2PageCheck page) s = .next t ∧
         t.fwif.state = .failed ∧ t.fwif.reason = 0x700E ∧ t.fwif.reqGo = false ∧ t.ready.ready = false ∧
         t.flights = [] ∧ t.aer.internal = true ∧ s.sameBut (mayChange (.stage2PageCheck page)) t) ∧
       (s.fwif.state ∉ [FwState.ready, .loaded] → exec (.stage2PageCheck page) s = .next s)) ∧
     (∀ v feat, s.fwif.negotiating = some (v, feat) → ∃ t, exec .negotiateDone s = .next t ∧
       t.ready = { s.ready with ready := true } ∧ t.fwif.state = .ready ∧ t.fwif.feat = feat &&& 0x7FF ∧
       t.fwif.negotiating = none ∧
       (s.ready.ready = false → (∀ q : QueueId, t.queues[q].enHeld = false) ∧
         t.sched.nextSweep = s.now + BitVec.ofNat 64 s.hostif.qsweep.toNat ∧
         (s.manifest.held = true → t.manifest.enable = true ∧ t.manifest.held = false ∧
           t.manifest.load ≠ none)) ∧
       (s.ready.ready = true → t.queues = s.queues ∧ t.sched = s.sched ∧ t.manifest = s.manifest) ∧
       s.sameBut (mayChange .negotiateDone) t) ∧
     (s.fwif.negotiating = none → exec .negotiateDone s = .next s))

/-- The four requests do their work (R76, R86–R88, R269, R336, R410, R411, R417): their end writes what they answer in
their block, clears GO and shows RESULT, and a refused one ends with its code. The model's choices in it: log entries
7, 17, 43, 45, 100. Completes: sfuMode, report, commission, memtest, fwRequestDone. -/
def Obligations.RequestsWorkAndEnd : Prop :=
  ∀ s : State,
    (s.reqOpen 1 = true →
      (s.dispatchInFlight = true → exec .sfuMode s = .next (s.reqWorked 0x200A)) ∧
      (s.dispatchInFlight = false → exec .sfuMode s = .next (State.reqWorked { s with
        ready := { s.ready with sfuG1 := s.reqField 0x40 1 = 1 }
        fwif := { s.fwif with reqUndo := some s.ready.sfuG1 } } 0))) ∧
    (s.reqOpen 2 = true →
      (s.vouched = false ∨ s.boot.released = none → exec .report s = .next (s.reqWorked 0x7008)) ∧
      (s.vouched = true → s.boot.released ≠ none → exec .report s =
        .next ((State.reqAnswer { s with freeCount := s.freeCount + 1 } 0x800
          (s.signedReport 1 (s.mem.reads (s.fwif.reqTaken + 0x40) 16))).reqWorked 0))) ∧
    (s.reqOpen 3 = true →
      (∀ y, s.commissioned = some y → s.secure.Grows y ∧
        exec .commission s = .next (State.reqWorked { s with secure := y.written .rollback } 0)) ∧
      (s.commissioned = none → exec .commission s = .next (s.reqWorked 0x700F))) ∧
    (s.reqOpen 4 = true → s.memoryUp = true → ∀ corrected uncorrectable : List Nat,
      ∃ t, exec (.memtest corrected uncorrectable) s = .next t ∧ t.fwif.reqWork = some 0 ∧
        t.fwif.reqOut = s.fwif.reqOut ++
          [(s.fwif.reqTaken + 0x80, leBytes 4 (s.memtested corrected).length),
           (s.fwif.reqTaken + 0x84, leBytes 4 (s.memtested uncorrectable).length)] ∧
        (∀ c : ChanId, (s.reqField 0x40 4).testBit c.val = true →
          StrictCause.memtest ∈ t.memctl.chans[c].strict) ∧
        s.sameBut (mayChange (.memtest corrected uncorrectable)) t) ∧
    (∀ result, s.reqServed = true → s.fwif.reqWork.or s.reqRefusal = some result → ∃ t,
      exec .fwRequestDone s = .next t ∧ t.fwif.reqGo = false ∧ t.fwif.reqDone = true ∧
      t.fwif.reqResult = result ∧ t.fwif.reqWork = none ∧ s.sameBut (mayChange .fwRequestDone) t ∧
      (s.reqPlaced 64 = true → s.mem.wf → result = 0 →
        t.mem.reads (s.fwif.reqTaken + 8) 2 = leBytes 2 result.toNat)) ∧
    (s.reqServed = false → exec .fwRequestDone s = .next s)

/-- The three rings begin, with what was held first, or are refused with 0xE007 (R412–R415, R492, R511, R518); a
heartbeat is good when its number follows the last, heartbeats are judged by windows of one millisecond, and the third
miss in a row starts recovery (R405, R418, R504, R507). The model's choices in it: log entries 11, 46, 47, 105.
Completes: logRingEnable, traceRingEnable, faultRingEnable, heartbeat, heartbeatWindowEnd. -/
def Obligations.RingsBeginAndHeartbeatsAreJudged : Prop :=
  (∀ s : State, s.answers = true →
    let u := s.wakeSlack
    (s.fwif.log.en = true → exec .logRingEnable s = .next u) ∧
    (s.fwif.log.en = false →
      (s.ringFits s.fwif.log.base.toNat s.fwif.log.log2.toNat 32 = false →
        exec .logRingEnable s = .next (u.note 0xE007 .information 0x8_0040)) ∧
      (s.ringFits s.fwif.log.base.toNat s.fwif.log.log2.toNat 32 = true →
        ∃ t, exec .logRingEnable s = .next t ∧ t.fwif.log.en = true ∧ t.fwif.log.held = [] ∧
          (s.fwif.log.held = [] → s.fwif.log.lostBefore = false →
            t.fwif.log = { s.fwif.log with en := true } ∧ t.mem = s.mem) ∧
          s.sameBut (mayChange .logRingEnable) t)) ∧
    (s.fwif.feat.getLsbD 10 = false → exec .traceRingEnable s = .next (u.note 0x5002 .information 0)) ∧
    (s.fwif.feat.getLsbD 10 = true → s.fwif.trace.en = true → exec .traceRingEnable s = .next u) ∧
    (s.fwif.trace.en = false →
      (s.fwif.feat.getLsbD 10 = true →
        s.ringFits s.fwif.trace.base.toNat s.fwif.trace.log2.toNat 32 = false →
        exec .traceRingEnable s = .next (u.note 0xE007 .information 0x8_0060)) ∧
      (s.fwif.feat.getLsbD 10 = true →
        s.ringFits s.fwif.trace.base.toNat s.fwif.trace.log2.toNat 32 = true →
        exec .traceRingEnable s = .next { u with fwif := { u.fwif with
          trace := { u.fwif.trace with en := true, lostBefore := false }, traceSeq := 0 } })) ∧
    (s.faults.active = true → exec .faultRingEnable s = .next u) ∧
    (s.faults.active = false →
      (s.ringFits s.faults.ring.base.toNat s.faults.ring.log2.toNat 32 = false →
        exec .faultRingEnable s = .next (u.note 0xE007 .information 0x9_0008)) ∧
      (s.ringFits s.faults.ring.base.toNat s.faults.ring.log2.toNat 32 = true →
        ∃ t, exec .faultRingEnable s = .next t ∧ t.faults.active = true ∧ t.faults.ring.en = true ∧
          t.faults.ring.held = [] ∧ t.lighthouse = { s.lighthouse with pendingLossRecord := none } ∧
          (s.faults.ring.held = [] → s.lighthouse.pendingLossRecord = none →
            t.faults.ring = { s.faults.ring with en := true } ∧ t.faults.gap = false ∧ t.mem = s.mem) ∧
          s.sameBut (mayChange .faultRingEnable) t))) ∧
  (∀ s : State, s.fwUp = true →
    (∀ (seq : BitVec 16) (writes : List StoreWrite),
      let w := s.now.toNat / 250000
      let h := s.heart
      let good := !h.started || seq = h.seq + 1
      exec (.heartbeat seq writes) s = .next { (writes.foldl State.storeWrite s) with
        heart := if w < h.window then { h with seq, started := true }
          else { h with
            seq, started := true, window := w, seen := true
            valid := good || (h.window = w && h.valid) }
        fwif := { s.fwif with beat := seq } }) ∧
    (let h := s.heart
     let w := max h.window (s.now.toNat / 250000)
     let missed := if h.window = w ∧ h.valid = true then 0 else h.missed + 1
     let u : State := { s.advanceTo (BitVec.ofNat 64 ((w + 1) * 250000)) with
       heart := { h with window := w + 1, seen := false, valid := false, missed } }
     (missed < 3 → exec .heartbeatWindowEnd s = .next u) ∧
     (3 ≤ missed → ∃ t, exec .heartbeatWindowEnd s = .next t ∧
       (u.triggerTooSoon = false → t.lighthouse.state = .relaunching ∧ t.ready.ready = false) ∧
       (u.triggerTooSoon = true → s.env.heldFunctionReset = none →
         t.lighthouse.state = .lost ∧ t.lighthouse.cause = 0x4006) ∧
       s.sameBut (mayChange .heartbeatWindowEnd) t)))

/-! ## The Lighthouse -/

/-- A re-launch (R404, R504–R507, R513, R517): a mismatch of the pair fences the Quays and begins it, or halts a start
in progress; two cores that pass form the pair, a digest that matches goes on, and the end releases the fence and
counts the re-launch; a core too few, another digest, or a trigger that comes too soon loses the device with 0x4006, a
boot hold with an error with 0x4013. The model's choices in it: log entry 32. Completes: lockstepMismatch,
relaunchSelfTestDone, relaunchDigestDone, relaunchComplete. -/
def Obligations.RelaunchRecoversOrLosesTheDevice : Prop :=
  ∀ s : State,
    let lostFor (code : BitVec 16) (t : State) : Prop := s.env.heldFunctionReset = none →
      t.lighthouse.state = .lost ∧ t.lighthouse.cause = code ∧ t.env.faultN = true
    (s.env.suppliesUp = true → s.env.perstLow = false → s.frozen = false → s.lost = false →
      ∃ t, exec .lockstepMismatch s = .next t ∧
        (s.running = true → s.triggerTooSoon = false →
          t.lighthouse = { s.lighthouse with state := .relaunching, step := 0, bootHoldError := false } ∧
          t.ready = { s.ready with ready := false } ∧
          (∀ (q : QuayId) (b : BerthId), t.quays[q].recoveryFence = true ∧ (t.berth q b).tile = none) ∧
          s.sameBut [.ready, .quays, .lighthouse] t) ∧
        (s.running = true → s.triggerTooSoon = true → lostFor 0x4006 t) ∧
        (s.boot.stage ∈ [Stage.puf, .bist, .training, .align, .windowOpen, .checking, .keys] →
          t.boot.stage = .halted ∧ t.boot.reason = 0x4006) ∧
        s.sameBut (mayChange .lockstepMismatch) t) ∧
    (∀ passed : BitVec 3, s.relaunchAt 0 = true →
      let count := (List.finRange 3).countP fun c => passed.getLsbD c.val
      (2 ≤ count → ∃ t, exec (.relaunchSelfTestDone passed) s = .next t ∧ t.lighthouse.step = 1 ∧
        t.lighthouse.passed = passed ∧ t.lighthouse.state = .relaunching ∧
        passed.getLsbD t.lighthouse.coreA.toNat = true ∧ passed.getLsbD t.lighthouse.coreB.toNat = true ∧
        t.lighthouse.coreA.toNat < t.lighthouse.coreB.toNat ∧ s.sameBut [.lighthouse] t) ∧
      (count < 2 → ∃ t, exec (.relaunchSelfTestDone passed) s = .next t ∧ lostFor 0x4006 t ∧
        s.sameBut (mayChange (.relaunchSelfTestDone passed)) t)) ∧
    (∀ misread : List (Nat × Byte), s.relaunchAt 1 = true → ∃ t,
      exec (.relaunchDigestDone misread) s = .next t ∧
        (s.lighthouse.bootHoldError = true → lostFor 0x4013 t) ∧
        (s.lighthouse.bootHoldError = false → s.digestMatches misread = true →
          t = { s with lighthouse := { s.lighthouse with step := 2 } }) ∧
        (s.lighthouse.bootHoldError = false → s.digestMatches misread = false → lostFor 0x4006 t) ∧
        s.sameBut (mayChange (.relaunchDigestDone misread)) t) ∧
    (s.relaunchAt 2 = true → ∃ t, exec .relaunchComplete s = .next t ∧
      (s.env.heldFunctionReset = none → s.env.heldDeviceReset = false →
        t.lighthouse.state = .normal ∧ t.lighthouse.relaunches = satInc s.lighthouse.relaunches ∧
        t.lighthouse.completedAt = some s.now ∧ (∀ q : QuayId, t.quays[q].recoveryFence = false) ∧
        (∀ q : QueueId, t.queues[q].fetching = 0) ∧ (t.ready.ready = true ↔ s.fwif.state = .ready)) ∧
      s.sameBut (mayChange .relaunchComplete) t) ∧
    (s.lighthouse.state ≠ .relaunching ∨ s.frozen = true →
      (∀ passed, exec (.relaunchSelfTestDone passed) s = .next s) ∧
      (∀ misread, exec (.relaunchDigestDone misread) s = .next s) ∧ exec .relaunchComplete s = .next s)

/-- Self-repair (R82, R171, R498–R502, R513): a localising tile names the location or clears the count; a pending
repair is made at its quiet point, never while a Manifest loads, and a Quay reset that waited for it goes on; 50 ms
after the decision what keeps the quiet point away is pre-empted; the map keeps every location it holds. The model's
choices in it: log entries 89, 90. Completes: localisingTile, repairApply, repairQuietTimeout, repairMapWriteDone. -/
def Obligations.RepairsAreMadeAtQuietPoints : Prop :=
  ∀ s : State, s.fwUp = true →
    (∀ (q : QuayId) (b : BerthId) (col : Fin 64) (m : Option CellId),
      ((q, b, col) ∈ s.faults.localising → s.berthQuiet q b = true →
        ∃ t, exec (.localisingTile q b col m) s = .next t ∧ (q, b, col) ∉ t.faults.localising ∧
          (∀ c ∈ t.faults.columnCounts, c.1 ≠ (q, b, col)) ∧
          (m = none → t.faults.pending = s.faults.pending) ∧
          (∀ c, m = some c →
            ∃ p ∈ t.faults.pending, p.1 = .column q b c (Fin.ofNat 16 col.val)) ∧
          s.sameBut [.faults] t) ∧
      ((q, b, col) ∉ s.faults.localising ∨ s.berthQuiet q b = false →
        exec (.localisingTile q b col m) s = .next s)) ∧
    (∀ (loc : RepairLoc) (code : BitVec 16) (decided : Tick),
      s.faults.pending.find? (fun p => p.1 = loc) = some (loc, code, decided) →
      let may : Prop := s.manifest.enable = false ∧ s.manifest.load = none ∧ s.locQuiet loc = true
      (may → ∃ t u, exec (.repairApply loc) s = .next t ∧
          (quayOf loc = none → t = u) ∧ (∀ q, quayOf loc = some q → t = u.releaseQuayReset q) ∧
          (∀ q : QuayId, u.quays[q].resetHeld = s.quays[q].resetHeld ∧
            (u.quays[q].resetHeld = false → u.releaseQuayReset q = u)) ∧
          u.faults.made = satInc s.faults.made ∧ (∀ p ∈ u.faults.pending, p.1 ≠ loc) ∧
          loc ∈ u.faults.bad ∧ s.sameBut (mayChange (.repairApply loc)) t) ∧
      (¬may → exec (.repairApply loc) s = .next s) ∧
      (s.locQuiet loc = true → exec (.repairQuietTimeout loc) s = .next s) ∧
      (∀ q : QuayId, s.locQuiet loc = false → quayOf loc = some q →
        let u := s.advanceTo (decided + 12_500_000)
        exec (.repairQuietTimeout loc) s = .next (s.flights.foldl (fun s (f : Flight) =>
          if f.run.quays.contains q && (f.phase = .executing || f.phase = .restoring) then
            s.preemptFlight f false false else s) u).settle)) ∧
    (∀ loc : RepairLoc, (∀ p ∈ s.faults.pending, p.1 ≠ loc) →
      exec (.repairApply loc) s = .next s ∧ exec (.repairQuietTimeout loc) s = .next s) ∧
    (s.faults.writing = true → exec .repairMapWriteDone s = .next { s with
      secure := Secure.written { s.secure with repairMap := s.secure.repairMap ++
        (beyond s.secure.repairMap s.faults.bad) } .repairMap
      faults := { s.faults with writing := false } }) ∧
    (s.faults.writing = false → exec .repairMapWriteDone s = .next s)

/-! ## Harbour and the memory controller -/

/-- Where an address lies (R315, R320, R332, R333): a location is within its stack's bounds, under the default masks
every address has its own, and a line of the locked window lies in the slice, way and set it is named by. -/
def Obligations.EveryLineHasItsOwnPlace : Prop :=
  (∀ (m : Masks) (a : Nat), (locate m a).channel < 32 ∧ (locate m a).bank < 16 ∧ (locate m a).column < 8 ∧
    (locate m a).byte = a % 128 ∧ (a < 2 ^ 35 → (locate m a).row < 2 ^ 16)) ∧
  (∀ a b : Nat, a < 2 ^ 35 → b < 2 ^ 35 → locate defaultMasks a = locate defaultMasks b → a = b) ∧
  (∀ slice way set : Nat, slice < 32 → 8 ≤ way → way < 16 → set < 512 →
    let o := lockedOffset slice way set
    o < windowSize ∧ o % 128 = 0 ∧ sliceOf o = slice ∧ lockedWay o = way ∧ setOf o = set ∧
      o / 0x4_0000 = lockedUnit way set)

/-- The Harbour cache (R86, R314, R315, R317, R318, R320, R321, R498): a write stores its bytes and leaves its line
dirty, but another's to the reserved region does nothing; a miss places its line where replacement says, as the stacks
hold it; a read meets the line's ECC or its poison; the window answers its unit's user alone; a clean line is fetched
again, a dirty or locked one poisoned, one of the boot hold begins a re-launch; a scrub passes over poison. The
model's choices in it: log entry 93. Completes: harbourAccess, harbourScrub. -/
def Obligations.HarbourAccessesAndTheirErrors : Prop :=
  (∀ (s : State) (agent : Agent) (addr : Nat) (victim : Fin 16) (ecc : EccResult) (cmd : Option (QueueId × Word)),
     let kind (l : CacheLine) : State.LineKind := if l.dirty then .dirty else .clean
     let run (w : Option (List Byte)) (e : EccResult) := exec (.harbourAccess agent addr w victim e cmd) s
     let free : Prop := s.wayLocked victim.val (setOf addr) = false ∧
       (sliceOf addr, victim.val, setOf addr) ∉ s.harbour.disabled
     s.memoryUp = true →
     (addr < s.part.memory →
       (∀ bs : List Byte, s.reaches agent addr true = true →
         (s.part.reserved ≤ addr → agent ≠ .harbourmaster → run (some bs) .ok = .next s) ∧
         (addr < s.part.reserved ∨ agent = .harbourmaster → ∃ t, run (some bs) .ok = .next t ∧
           (∀ a, t.mem.read a = (s.mem.store addr bs).read a) ∧
           (∀ l, bs ≠ [] → s.mem.held (lineOf addr) = some l → ∃ l', t.mem.held (lineOf addr) = some l' ∧
             l'.way = l.way ∧ l'.dirty = true) ∧
           (s.mem.held (lineOf addr) = none → free → ∃ l', t.mem.held (lineOf addr) = some l' ∧
             l'.way = victim.val ∧ l'.dirty = true ∧
             (l'.bad = true ↔ lineOf addr ∈ (s.mem.store addr bs).poison)) ∧
           s.sameBut [.mem] t) ∧
         (s.mem.held (lineOf addr) = none ∨ bs.length = 128 ∨ s.mem.bad (lineOf addr) = true →
           run (some bs) ecc = run (some bs) .ok) ∧
         (∀ l, s.mem.held (lineOf addr) = some l → bs.length ≠ 128 → l.bad = false →
           addr < s.part.reserved ∨ agent = .harbourmaster → run (some bs) ecc = .next
             ((s.harbourEcc l.slice l.way l.set (lineOf addr) (kind l) ecc none).updMem (·.store addr bs)))) ∧
       (s.reaches agent addr false = true →
         (s.mem.held (lineOf addr) = none → lineOf addr ∉ s.mem.poison → ∃ t, run none ecc = .next t ∧
           (∀ a, t.mem.read a = s.mem.read a) ∧ s.sameBut [.mem] t ∧ (¬free → t = s) ∧
           (free → t.mem.held (lineOf addr) =
             some ⟨sliceOf addr, setOf addr, victim.val, lineOf addr, false, false⟩)) ∧
         (∀ l, s.mem.held (lineOf addr) = some l → l.bad = false → run none .ok = .next s ∧ run none ecc =
           .next ((s.harbourEcc l.slice l.way l.set (lineOf addr) (kind l) ecc cmd).placeLine addr false
             victim.val)) ∧
         (∀ (q : QueueId) (idx : Word) (f : Flight), s.mem.bad (lineOf addr) = true → cmd = some (q, idx) →
           s.flight? q idx = some f → f.ended = false → run none ecc =
             .next ((s.fail q idx 0x4012).placeLine addr false victim.val))) ∧
       (∀ w : Option (List Byte), s.reaches agent addr w.isSome = false → run w ecc = .next s)) ∧
     (windowBase ≤ addr → addr < windowBase + windowSize →
       let o := addr % windowSize
       let owner := s.unitOwner (o / 0x4_0000)
       let user : Prop := owner ≠ 0 ∧ owner = userCode agent ∨ owner = 8 ∧ agent = .harbourmaster
       let check (u : State) (e : EccResult) (c : Option (QueueId × Word)) :=
         u.harbourEcc (sliceOf o) (lockedWay o) (setOf o) (lineOf addr) (if owner = 8 then .bootHold else .locked) e c
       (user → (∀ bs : List Byte,
           (bs.length = 128 ∨ lineOf addr ∈ s.mem.poison → run (some bs) ecc =
             .next { s with mem := s.mem.store addr bs }) ∧
           (bs.length ≠ 128 → lineOf addr ∉ s.mem.poison → run (some bs) ecc =
             .next (check { s with mem := s.mem.store addr bs } ecc none))) ∧
         (lineOf addr ∉ s.mem.poison → run none ecc = .next (check s ecc cmd)) ∧
         (∀ (q : QueueId) (idx : Word) (f : Flight), lineOf addr ∈ s.mem.poison → cmd = some (q, idx) →
           s.flight? q idx = some f → f.ended = false → run none ecc = .next (s.fail q idx 0x4012))) ∧
       (¬user → (∀ bs : List Byte, run (some bs) ecc = .next (s.note 0x4014 .information 0)) ∧
         run none ecc = .next s)) ∧
     (outboundBase ≤ addr → run none ecc = .next s ∧
       ∀ bs : List Byte, run (some bs) ecc = .next (s.outboundWrite addr bs false)) ∧
     (s.part.memory ≤ addr ∧ addr < windowBase ∨ windowBase + windowSize ≤ addr ∧ addr < outboundBase →
       ∀ w : Option (List Byte), run w ecc = .next s)) ∧
  (∀ s : State,
     (∀ (slice way set line : Nat) (cmd : Option (QueueId × Word)),
       (s.harbourEcc slice way set line .clean .uncorrectable none).harbour.refetched =
         satInc s.harbour.refetched ∧
       (line ∉ s.mem.poison → s.harbourEcc slice way set line .clean .uncorrectable cmd =
         s.harbourEcc slice way set line .clean .uncorrectable none) ∧
       (s.poisonHarbour slice way set line).mem.bad line = true ∧
       (∀ kind ∈ [State.LineKind.dirty, .locked], s.harbourEcc slice way set line kind .uncorrectable cmd =
         ((((s.poisonHarbour slice way set line).report
           { (s.poisonHarbour slice way set line).eventFor cmd 0x4012 .contained with counted := true }).countLine
             slice way set 3 0x4012).failFor cmd 0x4012)) ∧
       (s.harbourEcc slice way set line .dirty .uncorrectable none).harbour.poisonedCount =
         satInc s.harbour.poisonedCount ∧
       s.harbourEcc slice way set line .bootHold .uncorrectable cmd =
         (s.poisonHarbour slice way set line).startRecovery true ∧
       (∀ kind : State.LineKind, s.harbourEcc slice way set line kind .ok cmd = s ∧
         (s.harbourEcc slice way set line kind .corrected cmd).harbour.corrected = satInc s.harbour.corrected)) ∧
     (∀ (slice : SliceId) (way : Fin 16) (set : Fin 512) (ecc : EccResult), s.memoryUp = true →
       (s.wayLocked way.val set.val = true →
         let line := lineOf (windowBase + lockedOffset slice.val way.val set.val)
         (line ∈ s.mem.poison → exec (.harbourScrub slice way set ecc) s = .next s) ∧
         (line ∉ s.mem.poison → exec (.harbourScrub slice way set ecc) s = .next (s.harbourEcc slice.val
           way.val set.val line (if s.unitOwner (lockedUnit way.val set.val) = 8 then .bootHold else .locked)
           ecc none))) ∧
       (s.wayLocked way.val set.val = false →
         let held := s.mem.lines.find? fun x => x.slice == slice.val && x.way == way.val && x.set == set.val
         (held = none → exec (.harbourScrub slice way set ecc) s = .next s) ∧
         ∀ l : CacheLine, held = some l →
           (l.bad = true → exec (.harbourScrub slice way set ecc) s = .next s) ∧
           (l.bad = false → exec (.harbourScrub slice way set ecc) s = .next (s.harbourEcc slice.val
             way.val set.val l.line (if l.dirty then .dirty else .clean) ecc none)))))

/-- Requests and their phases (R330, R331, R334–R337, R341, R344–R346): a request joins its channel's queue; one is
served only if no older one of its source waits on any channel, nor one to its bank that has waited 1 µs, nor in
strict mode one to its row, a request whose phase is tried again going first; phases whose CRC is that of their bits
are taken, others tried again four times and then bring full field retraining; a read acts on what on-die ECC finds, a
prefetch or scrub of poison on nothing. The model's choices in it: log entries 94, 109, 126. Completes: memoryRequest,
memoryDataPhase, patrolScrub. -/
def Obligations.RequestsAreServedInSourceOrder : Prop :=
  ∀ s : State, s.memoryUp = true →
    (∀ req : MemReq,
      (req.addr < s.part.memory → ∃ t, exec (.memoryRequest req) s = .next t ∧
        (let c := chanId (locate s.memctl.masks req.addr).channel
        t.memctl.chans[c] = { s.memctl.chans[c] with
            requests := s.memctl.chans[c].requests ++ [{ req := req, since := s.now, seq := s.memctl.issued }] } ∧
          ∀ d : ChanId, d ≠ c → t.memctl.chans[d] = s.memctl.chans[d]) ∧
        t.memctl.issued = s.memctl.issued + 1 ∧ s.sameBut [.memctl] t) ∧
      (s.part.memory ≤ req.addr → exec (.memoryRequest req) s = .next s)) ∧
    (∀ (r : MemReq) (p : DataPhase),
      let asked := leBytes 6 (commandBits s.memctl.masks r).toNat
      let bytes := s.mem.reads (lineOf r.addr * 128) 128
      let met (sent flips : List Byte) := crc16 (wireBits (sent.zipWith (· ^^^ ·) flips))
      (s.phasesGood r p = true ↔
        met asked (leBytes 6 p.command.toNat) = crc16 (wireBits asked) ^^^ p.commandCrc ∧
        met bytes p.intervals = crc16 (wireBits bytes) ^^^ p.crc) ∧
      s.phasesGood r ⟨0, 0, List.replicate 128 0, 0, p.ecc⟩ = true ∧
      (p.crc ≠ 0 → p.intervals = List.replicate 128 0 → s.phasesGood r p = false)) ∧
    (∀ (ch : ChanId) (pick : Nat) (e : Waiting), s.memctl.chans[ch].requests[pick]? = some e →
      let x := s.memctl.chans[ch]
      let l := locate s.memctl.masks e.req.addr
      (s.servable ch pick e = true ↔ x.paused = false ∧ x.retraining = false ∧
        (s.memhost.hidden = false → ∀ b ∈ x.refreshing, b.val = l.bank → x.windows[b].toNat + 33 ≤ s.now.toNat) ∧
        (x.retried = some pick ∨ x.retried = none ∧
          (∀ (k : Nat) (d : Waiting), k < pick → x.requests[k]? = some d →
            let m := locate s.memctl.masks d.req.addr
            m.bank = l.bank → (s.now - d.since).toNat < 250 ∧ (s.strictNow ch = true → m.row ≠ l.row)) ∧
          ∀ (c : ChanId), ∀ d ∈ s.memctl.chans[c].requests, d.seq < e.seq → d.req.agent ≠ e.req.agent)) ∧
      (s.servable ch pick e = false → ∀ phase, exec (.memoryDataPhase ch pick phase) s = .next s) ∧
      (s.servable ch pick e = true → ∀ phase : DataPhase,
        (s.phasesGood e.req phase = false →
          (x.attempts < 4 → exec (.memoryDataPhase ch pick phase) s =
            .next (s.updChan ch fun x => { x with attempts := x.attempts + 1, retried := some pick })) ∧
          (4 ≤ x.attempts → ∃ t, exec (.memoryDataPhase ch pick phase) s = .next t ∧
            t.memctl.chans[ch].retraining = true ∧ t.memctl.chans[ch].requests = x.requests ∧
            t.memctl.chans[ch].retried = none ∧ StrictCause.fullRetrain ∈ t.memctl.chans[ch].strict ∧
            s.sameBut (mayChange (.memoryDataPhase ch pick phase)) t)) ∧
        (s.phasesGood e.req phase = true →
          (e.req.write = true → exec (.memoryDataPhase ch pick phase) s = .next (s.served ch pick)) ∧
          (e.req.write = false → exec (.memoryDataPhase ch pick phase) s =
            .next ((s.served ch pick).burstRead e.req phase.ecc)))) ∧
      (let t := s.served ch pick
      t.memctl.chans[ch] = { x with
          requests := x.requests.take pick ++ x.requests.drop (pick + 1), attempts := 0, retried := none
          retries := if x.attempts = 0 then x.retries else satInc x.retries } ∧
        s.sameBut (mayChange (.memoryDataPhase ch pick ⟨0, 0, [], 0, .ok⟩)) t)) ∧
    (∀ (ch : ChanId) (pick : Nat) (phase : DataPhase), s.memctl.chans[ch].requests[pick]? = none →
      exec (.memoryDataPhase ch pick phase) s = .next s) ∧
    (∀ (r : MemReq), lineOf r.addr ∉ s.mem.poison →
      s.burstRead r .ok = s ∧ s.burstRead r .corrected = s.memCorrected r.addr ∧
      s.burstRead r .uncorrectable =
        (if r.prefetch then s else s.memUncorrectable r.addr (agentCode r.agent) r.command)) ∧
    (∀ (r : MemReq) (ecc : EccResult), lineOf r.addr ∈ s.mem.poison →
      (r.prefetch = true → s.burstRead r ecc = s) ∧
      ∀ (q : QueueId) (idx : Word) (f : Flight), r.prefetch = false → r.command = some (q, idx) →
        s.flight? q idx = some f → f.ended = false → s.burstRead r ecc = s.fail q idx 0x4012) ∧
    (∀ (addr source : Nat) (cmd : Option (QueueId × Word)),
      let t := s.memUncorrectable addr source cmd
      let c := chanId (locate s.memctl.masks addr).channel
      t.memctl.uerrValid = true ∧
        (s.memctl.uerrValid = false → t.memctl.uerrSource = BitVec.ofNat 4 source ∧
          t.memctl.uerrAddr = BitVec.ofNat 35 (addr / 128 * 128)) ∧
        t.memctl.chans[c].uncorr = satInc s.memctl.chans[c].uncorr ∧ t.memctl.chans[c].lastUncorr = s.now ∧
        StrictCause.uncorrectable ∈ t.memctl.chans[c].strict ∧ s.sameBut (mayChange (.patrolScrub addr .ok)) t ∧
        (s.memCorrected addr).memctl.chans[c].corrected = satInc s.memctl.chans[c].corrected) ∧
    (∀ (addr : Nat) (ecc : EccResult),
      let x := s.memctl.chans[chanId (locate s.memctl.masks addr).channel]
      (addr < s.part.memory → lineOf addr ∉ s.mem.poison → x.paused = false → x.retraining = false →
        exec (.patrolScrub addr .ok) s = .next s ∧
        exec (.patrolScrub addr .corrected) s = .next (s.memCorrected addr) ∧
        exec (.patrolScrub addr .uncorrectable) s = .next (s.memUncorrectable addr 7 (s.readerOf addr))) ∧
      (s.part.memory ≤ addr ∨ lineOf addr ∈ s.mem.poison ∨ x.paused = true ∨ x.retraining = true →
        exec (.patrolScrub addr ecc) s = .next s))

/-- Refresh, training in the field, strict mode and the hot condition (R336–R342, R349): a refresh window opens at its
interval, one bank at a time or two while hot; a retraining pause comes at its channel's slot, between two windows,
and a passing point re-centres each wire; three failed periods bring full field retraining, which sets the trained
values again and whose failure loses the device; strict causes come and go with what brings them. The model's choices
in it: log entries 11, 17. Completes: refreshWindow, periodicRetrain, periodicRetrainEnd, fullFieldRetrainDone,
hotSet, hotClear, strictRecoveryExit, memctlStrictWrite, memctlHiddenWrite. -/
def Obligations.RefreshAndTrainingKeepTheirTimes : Prop :=
  ∀ (s : State) (ch : ChanId),
    let x := s.memctl.chans[ch]
    (∀ bank : BankId,
      (s.memoryUp = true → s.memhost.hidden = false → x.paused = false → x.retraining = false →
        s.now.toNat < 2 ^ 62 → (∀ b : BankId, x.windows[b].toNat < 2 ^ 62) →
        let due := max s.now.toNat (x.windows[bank].toNat + if bank ∈ x.hotBanks then 487 else 975)
        ∃ t, exec (.refreshWindow ch bank) s = .next t ∧
          (let y := t.memctl.chans[ch]
          due ≤ y.windows[bank].toNat ∧ t.now = y.windows[bank] ∧
            ((∀ b ∈ x.refreshing, b ≠ bank → x.windows[b].toNat + 33 ≤ due) → y.windows[bank].toNat = due) ∧
            (∀ b : BankId, b ≠ bank → y.windows[b] = x.windows[b]) ∧ bank ∈ y.refreshing ∧
            (∀ b ∈ x.refreshing, b ≠ bank → y.windows[bank].toNat < x.windows[b].toNat + 33 → b ∈ y.refreshing) ∧
            (s.memctl.hot = false → y.refreshing = [bank]) ∧
            (x.refreshing.length ≤ 2 → y.refreshing.length ≤ 2) ∧
            (bank ∈ y.hotBanks ↔ s.memctl.hot = true)) ∧
          s.sameBut [.tide, .memctl] t) ∧
      (s.memoryUp = false ∨ s.memhost.hidden = true ∨ x.paused = true ∨ x.retraining = true →
        exec (.refreshWindow ch bank) s = .next s)) ∧
    (s.memoryUp = true → x.paused = false → x.retraining = false →
      s.now.toNat < 2 ^ 62 → x.retrainFrom < 2 ^ 62 → (∀ b : BankId, x.windows[b].toNat < 2 ^ 62) →
      ∃ t slot, exec (.periodicRetrain ch) s = .next t ∧
        t.memctl.chans[ch].paused = true ∧ t.memctl.chans[ch].refreshing = [] ∧
        StrictCause.periodic ∈ t.memctl.chans[ch].strict ∧ t.memctl.chans[ch].retrainFrom = slot + 1 ∧
        max s.now.toNat x.retrainFrom ≤ slot ∧ slot < max s.now.toNat x.retrainFrom + 4_000_000 ∧
        slot % 4_000_000 = ch.val % 16 * 250_000 ∧ slot ≤ t.now.toNat ∧
        (s.memhost.hidden = true ∨ (∀ b ∈ x.refreshing, x.windows[b].toNat + 33 ≤ slot) → t.now.toNat = slot) ∧
        (s.memhost.hidden = false → ∀ b ∈ x.refreshing, x.windows[b].toNat + 33 ≤ t.now.toNat) ∧
        s.sameBut (mayChange (.periodicRetrain ch)) t) ∧
    (s.memoryUp = false ∨ x.paused = true ∨ x.retraining = true → exec (.periodicRetrain ch) s = .next s) ∧
    (∀ (found : Bool) (drift : BitVec 8) (points : Vector (Nat × Nat) 8),
      (s.memoryUp = true → x.paused = true →
        ∃ t, exec (.periodicRetrainEnd ch found drift points) s = .next t ∧
          (s.env.heldFunctionReset = none → s.env.heldDeviceReset = false → s.env.heldD3hot = false →
            t.memctl.chans[ch].paused = false ∧ StrictCause.periodic ∉ t.memctl.chans[ch].strict ∧
            (found = true → t.memctl.chans[ch].drift = drift ∧ t.memctl.chans[ch].failedPeriods = 0) ∧
            (∀ w : Fin 8, t.memctl.chans[ch].wires[w] = if found then { x.wires[w] with
              phase := points[w].1, reference := points[w].2 } else x.wires[w]) ∧
            (found = false → t.memctl.chans[ch].drift = x.drift) ∧
            (found = false → x.failedPeriods + 1 ≠ 3 → t.memctl.chans[ch].failedPeriods = x.failedPeriods + 1) ∧
            (found = false → x.failedPeriods + 1 = 3 → x.retraining = false →
              t.memctl.chans[ch].retraining = true ∧ StrictCause.fullRetrain ∈ t.memctl.chans[ch].strict)) ∧
          s.sameBut (mayChange (.periodicRetrainEnd ch found drift points)) t) ∧
      (s.memoryUp = false ∨ x.paused = false → exec (.periodicRetrainEnd ch found drift points) s = .next s)) ∧
    (∀ (ok : Bool) (values : Vector WireTraining 8),
      (s.memoryUp = true → x.retraining = true → ∃ t, exec (.fullFieldRetrainDone ch ok values) s = .next t ∧
        (s.env.heldFunctionReset = none → s.env.heldDeviceReset = false → s.env.heldD3hot = false →
          t.memctl.chans[ch].retraining = false ∧ t.memctl.chans[ch].requests = x.requests ∧
          t.memctl.chans[ch].fullRetrains = satInc x.fullRetrains ∧
          t.memctl.chans[ch].wires = (if ok then values else x.wires) ∧
          StrictCause.fullRetrain ∉ t.memctl.chans[ch].strict ∧
          (ok = false → t.lighthouse.state = .lost ∧ t.lighthouse.cause = 0x9002)) ∧
        s.sameBut (mayChange (.fullFieldRetrainDone ch ok values)) t) ∧
      (s.memoryUp = false ∨ x.retraining = false → exec (.fullFieldRetrainDone ch ok values) s = .next s)) ∧
    (s.memoryUp = true → StrictCause.uncorrectable ∈ x.strict →
      ∃ t, exec (.strictRecoveryExit ch) s = .next t ∧
        (∀ c : StrictCause, c ∈ t.memctl.chans[ch].strict ↔ c ∈ x.strict ∧ c ≠ .uncorrectable) ∧
        (x.lastUncorr + 250_000).toNat ≤ t.now.toNat ∧ s.sameBut [.tide, .memctl] t) ∧
    (s.memoryUp = false ∨ StrictCause.uncorrectable ∉ x.strict → exec (.strictRecoveryExit ch) s = .next s) ∧
    (∀ reading : Int,
      (s.env.suppliesUp = true → s.lost = false → s.memctl.hot = false → 85 < reading →
        exec (.hotSet reading) s =
          .next ({ s with memctl := { s.memctl with hot := true } }.note 0x9007 .information 0)) ∧
      (s.env.suppliesUp = true → s.lost = false → s.memctl.hot = true → reading ≤ 82 →
        exec (.hotClear reading) s =
          .next ({ s with memctl := { s.memctl with hot := false } }.note 0x9007 .information 0)) ∧
      (s.env.suppliesUp = false ∨ s.lost = true ∨ s.memctl.hot = true ∨ reading ≤ 85 →
        exec (.hotSet reading) s = .next s) ∧
      (s.env.suppliesUp = false ∨ s.lost = true ∨ s.memctl.hot = false ∨ 82 < reading →
        exec (.hotClear reading) s = .next s)) ∧
    (let u := s.wakeSlack
    ∀ b : Bool,
      (u.answers = true →
        exec (.memctlHiddenWrite b) s = .next { u with memhost := { u.memhost with hidden := b } } ∧
        (b = u.memhost.strict → exec (.memctlStrictWrite b) s = .next u) ∧
        (b ≠ u.memhost.strict → ∃ t, exec (.memctlStrictWrite b) s = .next t ∧
          t.memhost.strict = b ∧ (∀ c : ChanId, StrictCause.host ∈ t.memctl.chans[c].strict ↔ b = true) ∧
          s.sameBut (mayChange (.memctlStrictWrite b)) t)) ∧
      (u.answers = false → exec (.memctlHiddenWrite b) s = .next u ∧ exec (.memctlStrictWrite b) s = .next u))

/-! ## Cameras and streams -/

/-- Packets at the ports (R352, R357, R358, R364, R366): a header that cannot be corrected discards its packet and
tears the frame it is of; a frame start begins the frame of the stream its channel is the first of, with the pending
definition and binding; a line counts, and is checked; the last exposure's end ends the frame, torn where its line
counts are wrong. The model's choices in it: log entry 74. Completes: csiFrameStart, csiLongPacket, csiFrameEnd,
csiPhyError. -/
def Obligations.FramesEnterByThePorts : Prop :=
  ∀ (s : State) (p : PortId) (vc : Fin 32) (no : BitVec 16) (ecc : EccResult) (dt : Byte) (crcOk fifo : Bool)
      (pixels : Nat) (line : List Byte),
    let u := s.headerSeen p ecc
    let long := exec (.csiLongPacket p vc dt ecc crcOk pixels line fifo) s
    (s.portListens p = false → exec (.csiFrameStart p vc no ecc) s = .next s ∧ long = .next s ∧
      exec (.csiFrameEnd p vc ecc) s = .next s ∧ exec (.csiPhyError p) s = .next s) ∧
    (ecc = .ok → u = s) ∧
    (ecc = .corrected → u.portErrs[p].eccCorrected = satInc s.portErrs[p].eccCorrected ∧ u.streams = s.streams) ∧
    (s.portListens p = true →
      (ecc = .uncorrectable →
        let t := s.tearFed (s.feeds p vc) 0
        exec (.csiFrameStart p vc no ecc) s = .next t ∧ long = .next t ∧ exec (.csiFrameEnd p vc ecc) s = .next t) ∧
      (ecc ≠ .uncorrectable → 4 ≤ vc.val →
        exec (.csiFrameStart p vc no ecc) s = .next u ∧ long = .next u ∧ exec (.csiFrameEnd p vc ecc) s = .next u) ∧
      (ecc ≠ .uncorrectable → vc.val < 4 →
        (u.startsOn p vc = none → exec (.csiFrameStart p vc no ecc) s =
          .next (u.reportLimited (State.markKey 0xA008 p.val) { reason := 0xA008, severity := .information })) ∧
        (∀ (i : SctxId) (d : StreamDef), u.startsOn p vc = some (i, 0) → u.definedAs i = some d → ∃ t g,
          exec (.csiFrameStart p vc no ecc) s = .next t ∧ t.streams[i].frame = some g ∧
          g.start = u.now ∧ g.csiFrame = no ∧ g.defn = d ∧ g.torn = 0 ∧ g.ended = false ∧
          (g.expo[0]).begun = true ∧ g.binding = u.streams[i].nextBinding.getD u.streams[i].binding ∧
          g.blankFrom = (if u.blanks[i].blank then some 0 else none) ∧
          (u.blanks[i].pendingClear = true → g.historyReset = true) ∧ t.blanks[i].pendingClear = false ∧
          (∀ b : Binding, u.streams[i].nextBinding = some (some b) →
            t.streams[i].frames = 0 ∧ t.streams[i].consumed = 0) ∧
          t.ports[p].inFrame = true ∧ s.sameBut (mayChange (.csiFrameStart p vc no ecc)) t) ∧
        (∀ (i : SctxId) (e : Fin 3), e ≠ 0 → u.startsOn p vc = some (i, e) →
          (u.feeds p vc = none → exec (.csiFrameStart p vc no ecc) s = .next u) ∧
          ∀ (j : SctxId) (e : Fin 3), u.feeds p vc = some (j, e) →
            ((u.exposure j e).begun = true → exec (.csiFrameStart p vc no ecc) s = .next (u.tearAll j 3)) ∧
            ((u.exposure j e).begun = false → ∃ t, exec (.csiFrameStart p vc no ecc) s = .next t ∧
              (t.exposure j e).begun = true ∧ t.sameBut [.streams] u)) ∧
        (dt ∉ imageTypes → long = .next u) ∧
        (dt ∈ imageTypes →
          let v := if crcOk then u else (u.noteCrc p).tearFed (u.feeds p vc) 0
          (crcOk = false → v.portErrs[p].crcErrors = satInc u.portErrs[p].crcErrors) ∧
          (u.feeds p vc = none → long = .next v) ∧
          ∀ (i : SctxId) (e : Fin 3), u.feeds p vc = some (i, e) → ∃ t f g, long = .next t ∧
            u.streams[i].frame = some f ∧ t.streams[i].frame = some g ∧
            (i ∉ u.branches i → (g.expo[e]).lines = (f.expo[e]).lines + 1 ∧
              g.received = f.received ++ [⟨e.val, if s.blanked i then List.replicate line.length 0 else line,
                s.blanked i⟩]) ∧
            g.torn = f.torn ||| (if crcOk then 0 else 1) ||| (if pixels = f.defn.width then 0 else 4) |||
              (if (f.expo[e]).begun ∧ ¬(f.expo[e]).done then 0 else 8) ||| (if fifo then 32 else 0) ∧
            s.sameBut (mayChange (.csiLongPacket p vc dt ecc crcOk pixels line fifo)) t) ∧
        (u.feeds p vc = none → exec (.csiFrameEnd p vc ecc) s = .next u) ∧
        (∀ (i : SctxId) (e : Fin 3) (f : Frame), u.feeds p vc = some (i, e) → u.streams[i].frame = some f →
          ∃ t g, exec (.csiFrameEnd p vc ecc) s = .next t ∧ t.streams[i].frame = some g ∧
            (g.expo[e]).done = true ∧ s.sameBut (mayChange (.csiFrameEnd p vc ecc)) t ∧
            (e.val + 1 ≠ f.defn.exposures ∨ (∃ k : Fin 3, k.val < f.defn.exposures ∧ k ≠ e ∧
                (f.expo[k]).begun = true ∧ (f.expo[k]).done = false) →
              g.ended = false ∧ g.torn = f.torn ∧ t.sameBut [.streams] u) ∧
            (e.val + 1 = f.defn.exposures → (∀ k : Fin 3, k.val < f.defn.exposures → k ≠ e →
                (f.expo[k]).begun = true → (f.expo[k]).done = true) →
              g.ended = true ∧ g.endAt = u.now ∧
              (g.torn = 0 ↔ f.torn = 0 ∧ ∀ k : Fin 3, k.val < f.defn.exposures →
                (f.expo[k]).begun = true ∧ (f.expo[k]).lines = f.defn.height) ∧
              (g.torn = 0 → t.ports[p].lossCount = 0) ∧ (g.torn ≠ 0 →
                t.streams[i].tornCount = satInc u.streams[i].tornCount)))) ∧
      (∃ t, exec (.csiPhyError p) s = .next t ∧
        (∀ (i : SctxId) (f : Frame), i ∈ s.streamsOfPort p → s.streams[i].frame = some f → f.ended = false →
          t.streams[i].frame = some { f with torn := f.torn ||| 0x80 }) ∧
        (∀ i : SctxId, i ∉ s.streamsOfPort p → t.streams[i] = s.streams[i]) ∧ s.sameBut [.streams] t))

/-- Ports (R11, R50, R353, R355–R357, R378, R409): each frame period that expires counts towards the loss of the port,
whose streams then idle, their frames torn and their pipes empty; declaring begins it again where streams are
negotiated, undeclaring tears the frame and ends the bindings; PORTCFG is written only while the port is absent, with
values the Manifest in force fits; ULPS follows the lanes. The model's choices in it: log entry 76. Completes:
framePeriodExpiry, csiDeclare, csiUndeclare, csiPortCfgWrite, csiUlpsEntry, csiUlpsExit. -/
def Obligations.PortsAreDeclaredAndLost : Prop :=
  ∀ (s : State) (p : PortId),
    let u := s.wakeSlack
    (let named : Prop := ∃ (i : SctxId) (d : StreamDef) (vc : Nat), s.definedAs i = some d ∧ d.source = .port p.val vc
    (s.portListens p = true → named →
      (s.ports[p].lossCount + 1 < s.ports[p].lossFrames.toNat → exec (.framePeriodExpiry p) s =
        .next (s.updPort p fun x => { x with lossCount := s.ports[p].lossCount + 1 })) ∧
      (s.ports[p].lossFrames.toNat ≤ s.ports[p].lossCount + 1 → ∃ t, exec (.framePeriodExpiry p) s = .next t ∧
        t.ports[p].lost = true ∧ t.ports[p].inFrame = false ∧ (∀ o : PortId, o ≠ p → t.ports[o] = s.ports[o]) ∧
        (∀ i ∈ s.streamsOfPort p, t.streams[i].idleLost = true ∧ t.streams[i].frame = none ∧
          t.streams[i].unwritten = [] ∧ t.streams[i].frames = s.streams[i].frames ∧
          ∀ f, s.streams[i].frame = some f → f.ended = false →
            t.streams[i].tornCount = satInc s.streams[i].tornCount) ∧
        s.sameBut (mayChange (.framePeriodExpiry p)) t)) ∧
    (s.portListens p = false ∨ ¬named → exec (.framePeriodExpiry p) s = .next s)) ∧
    (∀ n : Byte, u.answers = true →
      (∃ t, exec (.csiDeclare p n) s = .next t ∧ t.ports[p].lossFrames = (if n = 0 then s.ports[p].lossFrames else n) ∧
        (s.fwif.feat.getLsbD 2 = true → t.ports[p].present = true ∧ t.ports[p].lost = false ∧
          t.ports[p].lossCount = 0 ∧ ∀ i ∈ s.streamsOfPort p, t.streams[i] = { s.streams[i] with idleLost := false }) ∧
        (s.fwif.feat.getLsbD 2 = false → t.ports[p].present = s.ports[p].present ∧ t.streams = s.streams) ∧
        (∀ o : PortId, o ≠ p → t.ports[o] = s.ports[o]) ∧ s.sameBut (mayChange (.csiDeclare p n)) t) ∧
      (∃ t, exec (.csiUndeclare p n) s = .next t ∧ t.ports[p].present = false ∧
        t.ports[p].lossFrames = (if n = 0 then s.ports[p].lossFrames else n) ∧
        t.ports[p].inFrame = false ∧ (∀ i ∈ s.streamsOfPort p,
          (t.streams[i].binding = none ∨ t.streams[i].nextBinding = some none) ∧
          ∀ f : Frame, s.streams[i].frame = some f → f.ended = false → ∃ g, t.streams[i].frame = some g ∧
            g.ended = true ∧ g.torn.getLsbD 4 = true) ∧
        s.sameBut (mayChange (.csiUndeclare p n)) t)) ∧
    (∀ n : Byte, u.answers = false → exec (.csiDeclare p n) s = .next u ∧ exec (.csiUndeclare p n) s = .next u) ∧
    (∀ v : Word,
      let phy : Bool := v.getLsbD 0
      let lanes := v.toNat / 2 % 4
      let rate := v.toNat / 0x100 % 0x100
      let x := u.ports[p]
      let y : Port := { x with
        phy, rate := if 1 ≤ rate ∧ rate ≤ 45 then BitVec.ofNat 8 rate else x.rate
        lanes := if lanes < 3 then BitVec.ofNat 2 lanes else x.lanes }
      let bad := (if 1 ≤ rate ∧ rate ≤ 45 then 0 else 1) + if lanes < 3 then 0 else 1
      let fits : Prop := payload ((u.manifest.device.map (·.streams)).getD []) p.val ≤ portCarries y
      (u.answers = true →
        (x.present = true → exec (.csiPortCfgWrite p v) s = .next (u.note 0xA009 .information 0)) ∧
        (x.present = false → phy = true → 31 ≤ rate → rate ≤ 45 → exec (.csiPortCfgWrite p v) s =
          .next (u.noteReserved (1 + if lanes < 3 then 0 else 1))) ∧
        (x.present = false → (phy = false ∨ rate < 31 ∨ 45 < rate) →
          (¬fits → exec (.csiPortCfgWrite p v) s = .next (u.note 0xA009 .information 0)) ∧
          (fits → exec (.csiPortCfgWrite p v) s = .next ((u.updPort p fun _ => y).noteReserved bad)))) ∧
      (u.answers = false → exec (.csiPortCfgWrite p v) s = .next u)) ∧
    (s.alive = true → (s.ports[p].present = true → exec (.csiUlpsEntry p) s =
        .next (s.updPort p ({ · with ulps := true }))) ∧
      exec (.csiUlpsExit p) s = .next (s.updPort p ({ · with ulps := false }))) ∧
    (s.alive = false ∨ s.ports[p].present = false → exec (.csiUlpsEntry p) s = .next s) ∧
    (s.alive = false → exec (.csiUlpsExit p) s = .next s)

/-- A frame leaves its pipe (R155, R357, R359–R363, R365, R366, R377, R387, R409, R462, R465): it is dropped without a
binding, shed, torn or on a full ring, and else it is written to its buffer and counted, and FRAME_FLAG is added to;
blanking takes effect at once on what is not yet written, its clearing at the next frame start; a host feed starts a
frame and ends it with the lines it read. The model's choices in it: log entries 4, 75, 77, 135. Completes:
pipeFrameComplete, streamBlank, streamUnblank, feedGo, feedDone. -/
def Obligations.FramesAreDeliveredOrDropped : Prop :=
  ∀ (s : State) (i : SctxId),
    let u := s.wakeSlack
    (∀ f : Frame, s.pipesUp = true → s.finishable i = some f →
      let no := f.index.getD s.streams[i].frames
      let run := exec (.pipeFrameComplete i) s
      (f.binding = none ∨ f.dropped = true ∨ (f.torn ≠ 0 ∧ s.streams[i].deliverTorn = false) →
        run = .next (s.retire i).ltrUpdate) ∧
      (∀ b : Binding, f.binding = some b → f.dropped = false → (f.torn = 0 ∨ s.streams[i].deliverTorn = true) →
        (s.streams[i].full = true → (s.streams[i].frames - s.streams[i].consumed).toNat = b.count →
          s.ringFull i b no = true) ∧
        (s.streams[i].full = false → s.encodersOf i = [] → s.ringFull i b no = false) ∧
        (s.ringFull i b no = true → ∃ t, run = .next t ∧
          t.streams[i].droppedCount = satInc s.streams[i].droppedCount ∧ t.flags = s.flags ∧
          t.streams[i].frames = s.streams[i].frames ∧ (∀ j : SctxId, j ≠ i → t.streams[j] = s.streams[j]) ∧
          s.sameBut (mayChange (.pipeFrameComplete i)) t) ∧
        (s.ringFull i b no = false →
          let writes := s.frameWrites i f b no
          (∀ e, s.writesFault b.ctx writes = some e → run = .next ((s.retire i).faultBinding i b e).ltrUpdate) ∧
          (s.writesFault b.ctx writes = none →
            let w := writes.foldl (fun u w => writeVa u b.ctx w.1 w.2) (s.retire i)
            ∃ t, run = .next t ∧
            t = ((if s.captures i true then w.recordPipeFrame i f b no else w).deliver i f b no).ltrUpdate ∧
            t.streams[i].frames = (if f.index = none then s.streams[i].frames + 1 else s.streams[i].frames) ∧
            t.flags = s.flags.set b.flag.val (s.flag b.flag + 1) ∧
            (∀ j : SctxId, j ≠ i → t.streams[j] = s.streams[j]) ∧
            s.sameBut (mayChange (.pipeFrameComplete i)) t)))) ∧
    (s.pipesUp = false ∨ s.finishable i = none → exec (.pipeFrameComplete i) s = .next s) ∧
    (∀ (line : BitVec 16) (branchLines : List (SctxId × BitVec 16)),
      let at_ (j : SctxId) := if j = i then line else ((branchLines.find? fun l => l.1 = j).map (·.2)).getD 0
      (u.answers = true → ∃ t, exec (.streamBlank i line branchLines) s = .next t ∧
        t.blanks[i] = { blank := true, pendingClear := false, inForce := true } ∧
        (∀ j ∈ i :: s.branches i, ∀ f : Frame, s.streams[j].frame = some f → f.blankFrom = none →
          ∃ g, t.streams[j].frame = some g ∧
            (s.streams[j].unwritten = [] → (at_ j).toNat < f.defn.outH → g.blankFrom = some (at_ j)) ∧
            (s.streams[j].unwritten ≠ [] → 0 < f.defn.outH → g.blankFrom = some 0)) ∧
        (∀ j ∈ i :: s.branches i, ∀ (f : Frame) (fs : List Frame), s.streams[j].unwritten = f :: fs →
          f.blankFrom = none → (at_ j).toNat < f.defn.outH →
          ∃ g gs, t.streams[j].unwritten = g :: gs ∧ g.blankFrom = some (at_ j)) ∧
        s.sameBut (mayChange (.streamBlank i line branchLines)) t) ∧
      (u.answers = false → exec (.streamBlank i line branchLines) s = .next u)) ∧
    (u.answers = true →
      (u.replaying = false → ∃ t, exec (.streamUnblank i) s = .next t ∧
        t.blanks[i] = { u.blanks[i] with blank := false, pendingClear := true } ∧ t.streams = s.streams ∧
        s.sameBut (mayChange (.streamUnblank i)) t) ∧
      (u.replaying = true → exec (.streamUnblank i) s = .next u.replayDrop ∧
        exec (.feedGo i) s = .next u.replayDrop) ∧
      (u.replaying = false → u.fwif.feat.getLsbD 2 = false →
        exec (.feedGo i) s = .next (u.note 0x5002 .information 0)) ∧
      (u.replaying = false → u.fwif.feat.getLsbD 2 = true →
        u.streams[i].feedBusy = true ∨ (∀ d, u.definedAs i = some d → d.source ≠ .host) →
        exec (.feedGo i) s = .next (u.note 0xA007 .information 0)) ∧
      (∀ d : StreamDef, u.replaying = false → u.fwif.feat.getLsbD 2 = true → u.streams[i].feedBusy = false →
        u.definedAs i = some d → d.source = .host → ∃ t g, exec (.feedGo i) s = .next t ∧ t.streams[i].feedBusy = true ∧
          t.streams[i].frame = some g ∧ g.start = u.now ∧ g.defn = d ∧ g.csiFrame = 0 ∧ g.ended = false ∧
          s.sameBut (mayChange (.feedGo i)) t)) ∧
    (u.answers = false → exec (.streamUnblank i) s = .next u ∧ exec (.feedGo i) s = .next u) ∧
    (s.pipesUp = true → s.streams[i].feedBusy = true →
      (s.streams[i].frame = none → exec (.feedDone i) s =
        .next (s.updStream i ({ · with feedBusy := false }))) ∧
      ∀ f : Frame, s.streams[i].frame = some f → ∃ t g, exec (.feedDone i) s = .next t ∧
        t.streams[i].feedBusy = false ∧ t.streams[i].frame = some g ∧ s.sameBut (mayChange (.feedDone i)) t ∧
        (f.ended = false → g.ended = true ∧ g.endAt = s.now ∧
          g.received = (s.feedLines i f.defn).map (s.lineSeen i 0))) ∧
    (s.pipesUp = false ∨ s.streams[i].feedBusy = false → exec (.feedDone i) s = .next s)

/-! ## Codec sessions -/

/-- Codec sessions (R382–R390, R392–R394, R409, R465): an enable is refused where codecs are not negotiated, its
descriptor is wrong or the unit has no room, and else begins the session; FORCE_KEY and GO act on an active one; an
encoder takes its next frame, as a key frame where one is due, and codes it in chunks within its rate control's bound,
each with its record and FLAG, and one that finds no room is abandoned with 0xB003; the decoder discards a broken
access unit and its input up to the next random access point, and outputs what it decoded, whole and with clean P010
samples, while a frame buffer is free. The model's choices in it: log entries 18, 19, 80, 107. Completes:
codecSessionEnable, codecSessionDisable, forceKey, codecFeedGo, codecFrameStart, codecChunkDone, codecFeedDone. -/
def Obligations.SessionsCodeFrames : Prop :=
  ∀ (s : State) (n : SessId),
    (let u := s.wakeSlack
    let x := u.sessions[n]
    (u.answers = true →
      (u.fwif.feat.getLsbD 6 = false → exec (.codecSessionEnable n) s = .next (u.note 0x5002 .information 0)) ∧
      (u.fwif.feat.getLsbD 6 = true → x.en = true → exec (.codecSessionEnable n) s = .next u) ∧
      (x.en = false → u.fwif.feat.getLsbD 6 = true →
        let a := x.descAddr.toNat / 64 * 64
        let d := u.readDesc a
        let sound := u.descBytesOk a && State.formatOk d && State.modeOk d && u.areasOk d && u.streamOk d
        (sound = false → exec (.codecSessionEnable n) s = .next (u.refuseSession n 0xB001)) ∧
        (sound = true → u.capacityOk d = false →
          exec (.codecSessionEnable n) s = .next (u.refuseSession n 0xB002)) ∧
        (sound = true → u.capacityOk d = true → ∃ t, exec (.codecSessionEnable n) s = .next t ∧
          t.sessions[n].en = true ∧ t.sessions[n].active = true ∧ t.sessions[n].desc = some d ∧
          t.sessions[n].recTail = 0 ∧ t.sessions[n].frameNo = 0 ∧ t.sessions[n].coding = none ∧
          t.sessions[n].queue = [] ∧ t.sessions[n].dataHead = 0 ∧ t.sessions[n].recHead = 0 ∧
          t.sessions[n].history = [] ∧ t.sessions[n].decoded = [] ∧
          (∀ m : SessId, m ≠ n → t.sessions[m] = s.sessions[m]) ∧
          s.sameBut (mayChange (.codecSessionEnable n)) t)) ∧
      (x.en = true → ∃ t, exec (.codecSessionDisable n) s = .next t ∧ t.sessions[n].en = false ∧
        t.sessions[n].active = false ∧ t.sessions[n].coding = none ∧ t.sessions[n].queue = [] ∧
        (∀ m : SessId, m ≠ n → t.sessions[m] = s.sessions[m]) ∧
        s.sameBut (mayChange (.codecSessionDisable n)) t) ∧
      (x.en = false → exec (.codecSessionDisable n) s = .next u) ∧
      (x.active = true → exec (.forceKey n) s = .next (u.updSession n ({ · with forceKey := true }))) ∧
      (x.active = false → exec (.forceKey n) s = .next u) ∧
      (u.replaying = true → exec (.codecFeedGo n) s = .next u.replayDrop) ∧
      (u.replaying = false → x.active = false ∨ x.desc = none → exec (.codecFeedGo n) s = .next u) ∧
      (∀ d : SessDesc, u.replaying = false → x.active = true → x.desc = some d →
        (x.feedBusy = true ∨ d.source = 1 → exec (.codecFeedGo n) s = .next (u.note 0xB001 .information 0)) ∧
        (x.feedBusy = false → d.source ≠ 1 → exec (.codecFeedGo n) s = .next (u.updSession n fun y => { y with
          feedBusy := true
          queue := if d.unit = 2 then y.queue else y.queue ++ [{
            tideSrc := u.now, blankFrom := none, torn := false, buffer := x.feedAddr.toNat / 256 * 256 }] })))) ∧
    (u.answers = false → exec (.codecSessionEnable n) s = .next u ∧ exec (.codecSessionDisable n) s = .next u ∧
      exec (.forceKey n) s = .next u ∧ exec (.codecFeedGo n) s = .next u)) ∧
    (let x := s.sessions[n]
    (s.serves n = none → (∀ found, exec (.codecFrameStart n found) s = .next s) ∧
      exec (.codecChunkDone n) s = .next s) ∧
    (∀ d, s.serves n = some d → x.coding = none → d.unit ≠ 2 → exec (.codecChunkDone n) s = .next s) ∧
    (∀ (d : SessDesc) (found : CodecStart), s.serves n = some d →
      let run := exec (.codecFrameStart n found) s
      (s.unitBusy d.unit = true ∨ x.coding ≠ none → run = .next s) ∧
      (s.unitBusy d.unit = false → x.coding = none → d.unit ≠ 2 →
        (x.forceKey = true ∨ x.keyOwed = true ∨ x.frameNo = 0 → x.keyDue d = true ∧ x.codesNext d = 0) ∧
        (d.keyint = 0 → x.forceKey = false → x.keyOwed = false → x.frameNo ≠ 0 → x.keyDue d = false) ∧
        (x.bDue d = true → x.keyDue d = false ∧ bRun x.history < d.bframes) ∧
        (x.queue[x.codesNext d]? = none → run = .next s) ∧
        ∀ src, x.queue[x.codesNext d]? = some src → ∃ t, run = .next t ∧
          t.sessions[n].coding = some src ∧ t.sessions[n].queue = x.queue.eraseIdx (x.codesNext d) ∧
          t.sessions[n].keyFrame = x.keyDue d ∧ t.sessions[n].bFrame = x.bDue d ∧
          t.sessions[n].forceKey = false ∧ t.sessions[n].keyOwed = false ∧
          (d.unit < 2 → t.unitBusy d.unit = true) ∧
          (∀ m : SessId, m ≠ n → t.sessions[m] = s.sessions[m]) ∧ s.sameBut [.sessions, .codecs] t) ∧
      (s.unitBusy 2 = false → x.coding = none → d.unit = 2 →
        (x.queue = [] ∨ x.full d = true → run = .next s) ∧
        ∀ src rest, x.queue = src :: rest → x.full d = false → ∃ t, run = .next t ∧
          t.sessions[n].queue = rest ∧ s.sameBut (mayChange (.codecFrameStart n found)) t ∧
          (found = .bitstreamError → t.sessions[n].skipToAccess = true ∧ t.sessions[n].coding = none ∧
            t.faults.contained = satInc s.faults.contained) ∧
          (found = .ready → x.skipToAccess = true → t.sessions[n].coding = none ∧
            t.sessions[n].skipToAccess = true) ∧
          (found = .ready ∧ x.skipToAccess = false ∨ found = .randomAccessPoint →
            t.sessions[n].coding = some src ∧ t.sessions[n].skipToAccess = false ∧ t.unitBusy 2 = true))) ∧
    (∀ (d : SessDesc) (src : SrcFrame), s.serves n = some d → x.coding = some src → d.unit ≠ 2 →
        let skip := s.skipsFrame n d src
        let c := if skip then Config.codecSkip d x.history x.chunk else s.chunkOf n d src x.chunk
        let bytes := chunkData d x.history (chunkBytes d c x.keyFrame x.chunk) x.written
        let off := chunkOffset d x.offset bytes.length
        let free := 2 ^ d.dataLog2 - (BitVec.ofNat 32 off - x.dataHead).toNat
        let last := lastChunk d x.chunk
        (free < bytes.length ∨ State.recordsFree x = 0 →
          exec (.codecChunkDone n) s = .next ((s.abandonFrame n).note 0xB003 .information 0)) ∧
        (bytes.length ≤ free → State.recordsFree x ≠ 0 → ∃ t, exec (.codecChunkDone n) s = .next t ∧
          t.sessions[n].offset = off + bytes.length ∧ t.sessions[n].recTail = x.recTail + 1 ∧
          t.flags = s.flags.set d.flag.val (s.flag d.flag + 1) ∧
          (last = true → t.sessions[n].coding = none ∧ t.sessions[n].frameNo = x.frameNo + 1) ∧
          (last = false → t.sessions[n].coding = some src ∧ t.sessions[n].chunk = x.chunk + 1 ∧
            t.sessions[n].frameNo = x.frameNo) ∧
          s.sameBut (mayChange (.codecChunkDone n)) t) ∧
        (∀ most, frameBound d x.history = some most → x.written ≤ most → x.written + bytes.length ≤ most) ∧
        (d.rc = 3 → frameBound d x.history = some (1500 * d.target * d.fpsDen / (8 * d.fpsNum))) ∧
        (frameBound d x.history = none → d.codec ≠ 2 → c.units ≠ [] → bytes.take 4 = [0, 0, 0, 1])) ∧
    (∀ d : SessDesc, s.serves n = some d → d.unit = 2 →
      let v := s.unitDecoded n d
      let y := v.sessions[n]
      exec (.codecChunkDone n) s = .next (v.frameShown n d) ∧
      s.sameBut (mayChange (.codecChunkDone n)) (v.frameShown n d) ∧
      (x.coding = none → v = s) ∧
      (∀ src, x.coding = some src → let c := s.chunkOf n d src 0
        y = { x with
          coding := none, chunk := 0
          decoded := x.decoded ++ [⟨src.tideSrc, decodedImage d c.bytes, c.key, c.grainOmitted⟩] } ∧
        v.unitBusy 2 = false ∧ s.sameBut [.sessions, .codecs] v) ∧
      (y.full d = true ∨ Config.codecShown d y.history y.decoded.length = none → v.frameShown n d = v) ∧
      (∀ k f, y.full d = false → Config.codecShown d y.history y.decoded.length = some k → y.decoded[k]? = some f →
        y.desc = some d →
        let t := v.frameShown n d
        t.sessions[n].decoded = y.decoded.eraseIdx k ∧ t.sessions[n].frameNo = y.frameNo + 1 ∧
        t.sessions[n].recTail = y.recTail + 1 ∧ t.flags = v.flags.set d.flag.val (v.flag d.flag + 1) ∧
        (State.recordsFree y ≠ 0 → t.sessions[n].shown = y.shown + 1 ∧ t.sessions[n].gaps = y.gaps) ∧
        (State.recordsFree y = 0 → t.sessions[n].shown = y.shown ∧ t.sessions[n].gaps = y.recTail :: y.gaps))) ∧
    (∀ (d : SessDesc) (bytes : List Byte), (decodedImage d bytes).length = sessFrame d ∧
      (d.depth = 10 → ∀ k b, k % 2 = 0 → (decodedImage d bytes)[k]? = some b → b &&& 0x3F = 0)) ∧
    (let t := s.abandonFrame n
    ∀ (d : SessDesc) (src : SrcFrame), x.desc = some d → x.coding = some src →
      t.sessions[n].coding = none ∧ t.sessions[n].frameNo = x.frameNo + 1 ∧
      (d.unit ≠ 2 → t.sessions[n].keyOwed = true) ∧ (d.unit = 2 → t.sessions[n].skipToAccess = true) ∧
      t.sessions[n].recTail = x.recTail + 1) ∧
    (∀ d : SessDesc, x.desc = some d → s.pipesUp = true → x.feedBusy = true →
      ∃ t, exec (.codecFeedDone n) s = .next t ∧ t.sessions[n].feedBusy = false ∧
        (d.unit = 2 → ∃ new : Nat, t.sessions[n].queue = x.queue ++ List.replicate new
          { tideSrc := s.now, blankFrom := none, torn := false, buffer := 0 }) ∧
        (d.unit ≠ 2 → (∀ f ∈ t.sessions[n].queue, f.image ≠ none) ∧
          t.sessions[n].queue.length = x.queue.length) ∧
        (∀ m : SessId, m ≠ n → t.sessions[m] = s.sessions[m]) ∧ s.sameBut (mayChange (.codecFeedDone n)) t) ∧
    (x.desc = none ∨ s.pipesUp = false ∨ x.feedBusy = false → exec (.codecFeedDone n) s = .next s))

/-! ## Record and replay -/

/-- RECORD_CTRL, checkpoints and replay's entries (R409, R459, R460, R464–R468, R471): EN is refused where record is
not negotiated or its ring does not fit, capture begins with its counts at 0, its end leaves it off, a checkpoint is
asked for in record mode only and written while no adaptive DISPATCH runs; the apply point takes entries in SEQ order,
waits for one that is not there or whose turn has not come, and stops at one that cannot be. The model's choices in
it: log entries 46, 66, 67. Completes: recordEnable, recordDisable, recordCheckpoint, checkpointStateWrite,
replayEntryApply. -/
def Obligations.RecordingAndReplayAdvance : Prop :=
  ∀ s : State,
    (let u := s.wakeSlack
    (u.answers = true →
      (∀ v : Word,
        let r := { u.recorder with decide := v.getLsbD 3, pos := v.getLsbD 2, mode := v.getLsbD 1 }
        (u.recorder.en = true → exec (.recordEnable v) s =
          .next (if v.getLsbD 4 = true ∧ u.recorder.mode = false then
            { u with recorder := { u.recorder with checkpoint := true } } else u)) ∧
        (u.recorder.en = false →
          (u.fwif.feat.getLsbD 4 = false → exec (.recordEnable v) s =
            .next ({ u with recorder := r }.note 0x5002 .information 0)) ∧
          (u.fwif.feat.getLsbD 4 = true → u.ringFits r.base.toNat r.sizeLog2.toNat 1 = false →
            exec (.recordEnable v) s = .next ({ u with recorder := r }.note 0xE007 .information 0xA_0010)) ∧
          (u.fwif.feat.getLsbD 4 = true → u.ringFits r.base.toNat r.sizeLog2.toNat 1 = true →
            ∃ t, exec (.recordEnable v) s = .next t ∧ t.recorder.en = true ∧ t.recorder.active = true ∧
              t.recorder.mode = v.getLsbD 1 ∧ t.recorder.pos = v.getLsbD 2 ∧ t.recorder.decide = v.getLsbD 3 ∧
              t.recorder.checkpoint = (v.getLsbD 4 && !v.getLsbD 1) ∧ t.recorder.stopped = false ∧
              t.recorder.ended = false ∧ t.recorder.diverge = 0 ∧
              (v.getLsbD 1 = true → t.recorder.seq = 0 ∧ t.recorder.lost = 0 ∧ t.mem = s.mem) ∧
              (∀ i : SctxId, t.streams[i] = { s.streams[i] with captured := false }) ∧
              s.sameBut (mayChange (.recordEnable v)) t))) ∧
      (u.recorder.en = true → ∃ t, exec .recordDisable s = .next t ∧ t.recorder.en = false ∧
        t.recorder.active = false ∧ t.recorder.checkpoint = false ∧ s.sameBut (mayChange .recordDisable) t) ∧
      (u.recorder.en = false → exec .recordDisable s = .next u) ∧
      (u.recorder.en = true → u.recorder.mode = false → exec .recordCheckpoint s =
        .next { u with recorder := { u.recorder with checkpoint := true } }) ∧
      (u.recorder.en = false ∨ u.recorder.mode = true → exec .recordCheckpoint s = .next u)) ∧
    (u.answers = false → (∀ v, exec (.recordEnable v) s = .next u) ∧ exec .recordDisable s = .next u ∧
      exec .recordCheckpoint s = .next u)) ∧
    (s.fwUp = true → s.capturing = true → s.recorder.checkpoint = true → s.adaptiveBusy = false →
      ∃ t, exec .checkpointStateWrite s = .next t ∧ t.recorder.checkpoint = false ∧
        ((∀ c : CtxId, s.ctxs[c].adaptive = []) →
          t = { s with recorder := { s.recorder with checkpoint := false } }) ∧
        s.sameBut (mayChange .checkpointStateWrite) t) ∧
    (s.fwUp = false ∨ s.capturing = false ∨ s.recorder.checkpoint = false ∨ s.adaptiveBusy = true →
      exec .checkpointStateWrite s = .next s) ∧
    (s.fwUp = false ∨ s.applying = false ∨ s.env.power ≠ .d0 → exec .replayEntryApply s = .next s) ∧
    (s.fwUp = true → s.applying = true → s.env.power = .d0 →
      let at_ := s.recorder.devIndex.toNat
      let e := s.logEntry at_
      let room := (s.recorder.hostIndex - s.recorder.devIndex).toNat
      let waits : Prop := exec .replayEntryApply s = .next { s with recorder := { s.recorder with waiting := true } }
      let fits : Prop := 64 ≤ e.length ∧ e.length % 64 = 0 ∧ at_ % s.recUnits + e.length / 64 ≤ s.recUnits
      let sound : Prop := s.entryOk e (s.replayUnit at_) = true ∧ (s.recorder.seqSet = true → e.seq = s.recorder.seq) ∧
        e.kind ≠ 0x10
      (room = 0 → waits) ∧
      (room ≠ 0 → ¬fits → exec .replayEntryApply s = .next s.stopReplay) ∧
      (room ≠ 0 → fits → room < e.length / 64 → waits) ∧
      (fits → e.length / 64 ≤ room →
        (¬sound → exec .replayEntryApply s = .next s.stopReplay) ∧
        (sound → s.applyEntry at_ e = none → waits) ∧
        (∀ u, sound → s.applyEntry at_ e = some u →
          (u.recorder.stopped = true → exec .replayEntryApply s = .next u) ∧
          (u.recorder.stopped = false → exec .replayEntryApply s = .next (u.passEntry e).settle ∧
            (u.passEntry e).recorder.seq = e.seq + 1 ∧ (u.passEntry e).recorder.waiting = false ∧
            (u.passEntry e).recorder.devIndex = u.recorder.devIndex + BitVec.ofNat 32 (e.length / 64)))) ∧
      s.stopReplay.recorder.stopped = true ∧ s.stopReplay.recorder.reason = 0x4041) ∧
    (∀ (at_ : Nat) (e : State.LogEntry),
      let i : SctxId := Fin.ofNat 24 (e.arg 0 1)
      (e.kind = 0x04 → s.replaysStream i = false → s.applyEntry at_ e = some s) ∧
      (e.kind = 0x04 → s.replaysStream i = true → s.quietFor = false → s.applyEntry at_ e = none) ∧
      (e.kind = 0x09 ∨ e.kind = 0x0B → s.quietFor = false → s.applyEntry at_ e = none) ∧
      (e.kind = 0x02 → let q : QueueId := Fin.ofNat 256 (e.arg 0 1)
        s.queues[q].active = true → s.queues[q].stopped = false → 64 ≤ s.inFlight q → s.applyEntry at_ e = none) ∧
      (e.kind = 0x0A → s.applyEntry at_ e = some
        (if e.arg 1 1 = 1 then s.blank i (BitVec.ofNat 16 (e.arg 2 2)) [] else s.applyUnblank i)) ∧
      (e.kind = 0x0D → s.manifest.enable = true ∨ s.ready.ready = false → s.applyEntry at_ e = none) ∧
      (e.kind = 0x0F → s.applyEntry at_ e = some s) ∧
      (e.kind = 0x11 → s.applyEntry at_ e = some { s with recorder := { s.recorder with ended := true } }) ∧
      (e.kind ∈ [0x05, 0x06, 0x07, 0x08, 0x0E] → s.recorder.decide = true → s.applyEntry at_ e = some s))

/-! ## Power -/

/-- Budget, droop and AVSBus (R1, R19, R46–R49, R474, R479): a comparison moves the issue fraction by one within 8 and
64; commands go out one at a time, a setpoint change only while no clock is stretched, and the setpoint is commanded
as it goes; a confirmed write is read back at once, and one more than 3 % off or a command without an answer three
times ends the use of the bus. The model's choices in it: log entries 83, 96, 101. Completes: powerEstimate,
budgetCompare, droopDetect, droopRelease, avsSetpointChange, avsStatusPoll, avsResponse. -/
def Obligations.PowerFollowsBudgetAndRail : Prop :=
  ((∀ (s : State) (mw : Nat),
     (s.powered = true → s.lost = false → s.frozen = false → ∃ t, exec (.powerEstimate mw) s = .next t ∧
       (∀ h, h ∈ t.power.history ↔ h = (s.now, mw) ∨
         h ∈ s.power.history ∧ s.now.toNat < h.1.toNat + 15_000_000_000) ∧ s.sameBut [.power] t) ∧
     (s.powered = true → s.lost = false → s.frozen = false →
       exec .budgetCompare s = .next { s with power := { s.power with
         fraction := nextFraction s.power.fraction (s.power.budget.toNat * 250) s.inWindow } }) ∧
     (s.powered = false ∨ s.lost = true ∨ s.frozen = true →
       exec (.powerEstimate mw) s = .next s ∧ exec .budgetCompare s = .next s)) ∧
   (∀ (n budget : Nat) (hs : List Nat), hs ≠ [] → 8 ≤ n → n ≤ 64 →
     let m := nextFraction n budget hs
     (budget * hs.length < hs.sum → m = if n = 8 then 8 else n - 1) ∧
     (hs.sum ≤ budget * hs.length → 95 * (budget * hs.length) ≤ 100 * hs.sum → m = n) ∧
     (100 * hs.sum < 95 * (budget * hs.length) → m = if n = 64 then 64 else n + 1))) ∧
  (∀ (s : State) (i : Island),
     (s.hasIsland i = true ↔ ∀ q : QuayId, (i = .quay q ∨ ∃ b, i = .berth q b) → s.quayEnabled q = true) ∧
     (s.powered = true → s.hasIsland i = true → ∃ t, exec (.droopDetect i) s = .next t ∧ i ∈ t.env.stretched ∧
       (∀ j, j ≠ i → (j ∈ t.env.stretched ↔ j ∈ s.env.stretched)) ∧ s.sameBut [.env] t) ∧
     (s.powered = false ∨ s.hasIsland i = false → exec (.droopDetect i) s = .next s) ∧
     (let u : State := { s with env := { s.env with stretched := s.env.stretched.filter (· != i) } }
     exec (.droopRelease i) s = .next u.avsKick ∧ (∀ j, j ∈ u.avsKick.env.stretched ↔ j ∈ s.env.stretched ∧ j ≠ i) ∧
       s.sameBut [.env, .outbox] u.avsKick)) ∧
  (∀ s : State,
     let a := s.env.avs
     let next (l : List (AvsCmd × Nat)) : State := (s.setAvs { a with queue := l, sent := false }).avsKick
     (∀ c : AvsCmd, s.avsMayGo c = true ↔ ∀ mv, c = .voltageWrite mv → s.env.stretched = []) ∧
     (a.sent = true ∨ (∀ c ∈ a.queue, s.avsMayGo c.1 = false) → s.avsKick = s) ∧
     (∀ (before after : List (AvsCmd × Nat)) (c : AvsCmd) (k : Nat), a.sent = false →
       a.queue = before ++ (c, k) :: after → (∀ x ∈ before, s.avsMayGo x.1 = false) → s.avsMayGo c = true →
       s.avsKick.env = { s.env with avs := { a with
         setpoint := s.avsKick.env.avs.setpoint, queue := (c, k) :: (before ++ after), sent := true } } ∧
       s.avsKick.outbox = s.outbox ++ [.avs c] ∧ s.sameBut [.env, .outbox] s.avsKick ∧
       (∀ mv, c = .voltageWrite mv → s.avsKick.env.avs.setpoint = mv) ∧
       ((∀ mv, c ≠ .voltageWrite mv) → s.avsKick.env.avs.setpoint = a.setpoint)) ∧
     (∀ mv : Nat,
       (s.powered = true → a.stopped = false → 550 ≤ mv → mv ≤ 800 → mv % 5 = 0 →
         exec (.avsSetpointChange mv) s =
           .next (s.setAvs { a with queue := a.queue ++ [(.voltageWrite mv, 0)] }).avsKick ∧
         (a.queue = [] → a.sent = false → s.env.stretched = [] → exec (.avsSetpointChange mv) s = .next { s with
           env := { s.env with avs := { a with setpoint := mv, queue := [(.voltageWrite mv, 0)], sent := true } }
           outbox := s.outbox ++ [.avs (.voltageWrite mv)] })) ∧
       (s.powered = false ∨ a.stopped = true ∨ mv < 550 ∨ 800 < mv ∨ mv % 5 ≠ 0 →
         exec (.avsSetpointChange mv) s = .next s)) ∧
     (s.powered = true → a.stopped = false → ∃ u, exec .avsStatusPoll s = .next (u.avsIssue .status) ∧
       u.env = { s.env with avs := { a with polled := some u.now } } ∧ s.now.toNat ≤ u.now.toNat ∧
       (∀ p, s.tide.locked = true → a.polled = some p → (p + 250_000).toNat ≤ u.now.toNat) ∧
       s.sameBut [.env, .tide] u) ∧
     (s.powered = false ∨ a.stopped = true → exec .avsStatusPoll s = .next s) ∧
     (∀ answer : AvsAnswer, s.env.suppliesUp = false ∨ a.sent = false ∨ a.queue = [] →
       exec (.avsResponse answer) s = .next s) ∧
     (∀ (c : AvsCmd) (failures : Nat) (rest : List (AvsCmd × Nat)) (answer : AvsAnswer), s.env.suppliesUp = true →
       a.sent = true → a.queue = (c, failures) :: rest →
       let valid : Prop := if c = .voltageRead then ∃ mv, answer = .voltage mv else answer = .ack
       let off (mv : Nat) : Prop := 3 * a.setpoint < 100 * (mv - a.setpoint) ∨
         3 * a.setpoint < 100 * (a.setpoint - mv)
       (¬valid →
         (failures < 2 → exec (.avsResponse answer) s = .next (next ((c, failures + 1) :: rest))) ∧
         (2 ≤ failures → ∃ t, exec (.avsResponse answer) s = .next t ∧
           t.env.avs = { a with stopped := true, queue := [], sent := false, setpoint := a.confirmed } ∧
           s.sameBut (mayChange (.avsResponse answer)) t)) ∧
       (valid →
         (∀ mv, c = .voltageWrite mv → exec (.avsResponse answer) s = .next (s.setAvs { a with
           confirmed := mv, queue := if a.stopped then [] else (.voltageRead, 0) :: rest, sent := false }).avsKick) ∧
         (∀ mv, answer = .voltage mv → off mv → ∃ t, exec (.avsResponse answer) s = .next t ∧
           t.env.avs.stopped = true ∧ t.env.avs.queue = [(.voltageWrite 750, 0)] ∧
           (s.env.stretched = [] → t.env.avs.setpoint = 750 ∧ t.env.avs.sent = true) ∧
           (s.env.stretched ≠ [] → t.env.avs.setpoint = a.setpoint ∧ t.env.avs.sent = false) ∧
           s.sameBut (mayChange (.avsResponse answer)) t) ∧
         ((∀ mv, answer = .voltage mv → ¬off mv) → (∀ mv, c ≠ .voltageWrite mv) →
           exec (.avsResponse answer) s = .next (next rest)))))

/-- Sag shedding and the thermal trip (R48, R480–R483, R485, R486, R488, R513): steps follow each other and return one
by one, step 6 keeps state and drives FAULT_N, and its limit loses the device with 0xC006; the trip loses it with
0xC020. The model's choices in it: log entries 11, 20, 31, 81, 82. Completes: sagEstablished, shedStep, holdLimitFall,
step6Timeout, sagRecovered, shedReturn, thermalTrip. -/
def Obligations.SheddingStepsUpAndReturns : Prop :=
  (∀ (s : State) (rail : Rail) (mv : Nat),
     let sags : Prop := if rail = .core then 100 * mv < 94 * s.env.avs.setpoint else mv < 1680
     let falls : Prop := if rail = .core then 100 * mv < 90 * s.env.avs.setpoint else mv < 1620
     (s.powered = true → sags → ∃ t, exec (.sagEstablished rail mv) s = .next t ∧
       t.power.sags = satInc s.power.sags ∧ (t.power.sagCore = true ↔ s.power.sagCore = true ∨ rail = .core) ∧
       (t.power.sagIo = true ↔ s.power.sagIo = true ∨ rail = .io) ∧
       (s.lost = false → s.running = true → s.power.step = 0 → t.power.step = 1 ∧ t.power.stepAt = s.now) ∧
       (s.power.step ≠ 0 ∨ s.lost = true ∨ s.running = false → t.power.step = s.power.step ∧ s.sameBut [.power] t) ∧
       (s.lost = false → s.running = true → s.power.step ≠ 0 → s.power.returning = true →
         t.power.returning = false ∧ t.power.stepAt = s.now) ∧
       s.sameBut (mayChange (.sagEstablished rail mv)) t) ∧
     (s.powered = false ∨ ¬sags → exec (.sagEstablished rail mv) s = .next s) ∧
     (s.powered = true → falls → ∃ t, exec (.holdLimitFall rail mv) s = .next t ∧
       (t.power.sagCore = true ↔ s.power.sagCore = true ∨ rail = .core) ∧
       (t.power.sagIo = true ↔ s.power.sagIo = true ∨ rail = .io) ∧
       (s.lost = false → s.frozen = false → t.power.step = 6 ∧ t.power.step6From = s.now ∧
         t.power.heldCount = satInc s.power.heldCount ∧ t.env.faultN = true ∧ t.memctl.retention = true) ∧
       (s.lost = true ∨ s.frozen = true → s.sameBut [.power] t ∧ t.power.step = s.power.step) ∧
       s.sameBut [.power, .memctl, .env] t) ∧
     (s.powered = false ∨ ¬falls → exec (.holdLimitFall rail mv) s = .next s)) ∧
  (∀ s : State, let p := s.power
     (s.powered = true → s.lost = false → s.running = true → p.sagCore = true ∨ p.sagIo = true →
       p.returning = false → 1 ≤ p.step → p.step ≤ 5 → ∃ t, exec .shedStep s = .next t ∧
         t.power.step = p.step + 1 ∧ (p.stepAt + 25_000).toNat ≤ t.now.toNat ∧
         s.now.toNat ≤ t.now.toNat ∧ (p.step = 5 → t.env.faultN = true ∧ t.memctl.retention = true) ∧
         s.sameBut (mayChange .shedStep) t) ∧
     (s.powered = false ∨ s.lost = true ∨ s.running = false ∨ (p.sagCore = false ∧ p.sagIo = false) ∨
       p.returning = true ∨ p.step < 1 ∨ 5 < p.step → exec .shedStep s = .next s) ∧
     (∀ (elapsed : Bool) (mv : Nat),
       (s.powered = true → s.lost = false → s.frozen = true → elapsed = true ∨ mv < 500 →
         ∃ t, exec (.step6Timeout elapsed mv) s = .next t ∧
           (s.env.heldFunctionReset = none → s.env.heldDeviceReset = false →
             t.lighthouse.state = .lost ∧ t.lighthouse.cause = 0xC006 ∧ t.env.faultN = true ∧
             (elapsed = true → (p.step6From + 25_000_000).toNat ≤ t.now.toNat)) ∧
           s.sameBut (mayChange (.step6Timeout elapsed mv)) t) ∧
       (s.powered = false ∨ s.lost = true ∨ s.frozen = false ∨ (elapsed = false ∧ 500 ≤ mv) →
         exec (.step6Timeout elapsed mv) s = .next s)) ∧
     (∀ core io : Nat,
       let above : Prop := (p.sagCore = true → 96 * s.env.avs.setpoint < 100 * core) ∧ (p.sagIo = true → 1720 < io)
       (s.powered = true → p.sagCore = true ∨ p.sagIo = true → above → ∃ t, exec (.sagRecovered core io) s = .next t ∧
         (s.env.heldFunctionReset = none → s.env.heldDeviceReset = false →
           t.power.sagCore = false ∧ t.power.sagIo = false ∧ (p.step = 0 → t.power.step = 0) ∧
           (p.step = 6 → s.running = true → t.power.step = 5 ∧ t.power.returning = true ∧
             (s.lost = false → t.env.faultN = false ∧ (s.env.power = .d0 → t.memctl.retention = false))) ∧
           (p.step = 6 → s.running = false → t.power.step = 0 ∧ t.power.returning = false) ∧
           (1 ≤ p.step → p.step ≤ 5 → t.power.step = p.step - 1 ∧ (t.power.returning = true ↔ p.step ≠ 1))) ∧
         s.sameBut (mayChange (.sagRecovered core io)) t) ∧
       (s.powered = false ∨ (p.sagCore = false ∧ p.sagIo = false) ∨ ¬above →
         exec (.sagRecovered core io) s = .next s)) ∧
     (s.powered = true → p.returning = true → 1 ≤ p.step → p.step ≤ 5 → ∃ t, exec .shedReturn s = .next t ∧
       t.power.step = p.step - 1 ∧ (t.power.returning = true ↔ p.step ≠ 1) ∧
       (p.stepAt + 250_000).toNat ≤ t.now.toNat ∧ s.sameBut (mayChange .shedReturn) t) ∧
     (s.powered = false ∨ p.returning = false ∨ p.step < 1 ∨ 5 < p.step → exec .shedReturn s = .next s)) ∧
  (∀ (s : State) (reading : Int),
     let trip : Int := if s.part = .ojq8_32i then 115 else 110
     (s.powered = true → trip ≤ reading → ∃ t, exec (.thermalTrip reading) s = .next t ∧
       t.env.thermalHold = true ∧ t.lighthouse.cause = 0xC020 ∧
       (s.env.heldFunctionReset = none → s.env.heldDeviceReset = false → t.lighthouse.state = .lost ∧
         (s.lost = false → t.env.faultN = true ∧ ∀ q : QuayId, t.quays[q].recoveryFence = true)) ∧
       s.sameBut (mayChange (.thermalTrip reading)) t) ∧
     (s.powered = false ∨ reading < trip → exec (.thermalTrip reading) s = .next s))

/-! ## Reports -/

/-- A recorded code (R116, R412–R414, R482, R489–R492, R514): while the device is lost nothing is recorded, and at
shedding step 6 it waits; else its log entry goes to the ring, or is held, or is lost and counted, and above
information it counts and its fault record goes the same way. -/
def Obligations.ReportsReachTheirRings : Prop :=
  ∀ (s : State) (e : Event),
    let at_ := { e with tide := s.now }
    let r := s.fwif.log
    let t := s.report e
    (s.lost = true → t = s) ∧
    (s.lost = false → s.frozen = true →
      t = { s with fwif := { s.fwif with stopped := s.fwif.stopped ++ [at_] } }) ∧
    (s.lost = false → s.frozen = false → e.severity = .information →
      (r.en = false → r.held.length < 256 → t.fwif.log = { r with held := r.held ++ [at_] }) ∧
      (r.en = false → 256 ≤ r.held.length → t.fwif.log = { r with lost := satInc r.lost, lostBefore := true }) ∧
      (r.en = true → s.fwif.logMinsev = 0 → r.full = true →
        t.fwif.log = { r with lost := satInc r.lost, lostBefore := true } ∧ t.mem = s.mem) ∧
      (r.en = true → s.fwif.logMinsev = 0 → r.full = false → t.fwif.log.tail = r.tail + 1 ∧
        (s.mem.wf → t.mem.reads r.slot 32 = at_.logBytes r.phase r.lostBefore false) ∧
        (s.mem.wf → ∀ a, a < r.slot ∨ r.slot + 32 ≤ a → t.mem.read a = s.mem.read a)) ∧
      t.faults = s.faults) ∧
    (s.lost = false → s.frozen = false → e.severity ≠ .information →
      t.faults.corrected = (if e.severity = .corrected then satInc s.faults.corrected else s.faults.corrected) ∧
      t.faults.contained = (if e.severity = .contained then satInc s.faults.contained else s.faults.contained) ∧
      t.faults.fatal = (if e.severity = .fatal then satInc s.faults.fatal else s.faults.fatal) ∧
      (s.faults.active = false → s.faults.ring.held.length < 64 →
        t.faults.ring = { s.faults.ring with held := s.faults.ring.held ++ [at_] }) ∧
      (s.faults.active = true → s.faults.ring.full = false →
        t.faults.ring.tail = s.faults.ring.tail + 1 ∧ t.faults.ring.lostBefore = false) ∧
      (s.faults.active = true → s.faults.ring.full = true →
        t.faults.gap = true ∧ t.faults.ring.lost = satInc s.faults.ring.lost))

/-! ## Arithmetic -/

/-- The order-free reductions (R188, R190, R205, R206, R208, R209): a multiply-accumulate of bytes delivers the exact
sum of its products clamped once, and no integer mode but compare-select depends on the order of its terms or on how
they are split; of two partial pairs compare-select keeps the same one whichever is injected. The model's choices in
it: log entries 87, 123. -/
def Obligations.ReductionsAreExact : Prop :=
  (∀ (xt wt : ElemType) (base : Nat) (taps : List Tap), xt ∈ [ElemType.i8, .u8, .i4, .u4] →
    let sum := (taps.map fun t => match t.2 with | some w => t.1 * w | none => 0).sum
    reduce .mac xt wt base none taps =
      { v := .int (min (max sum (-2147483648)) 2147483647)
        clamped := decide (sum < -2147483648 ∨ 2147483647 < sum) }) ∧
  (∀ (mode : LaneMode) (xt wt : ElemType) (base : Nat) (north : Option (Int × Nat)) (a b : List Tap),
    xt.isInt = true → mode ∈ [LaneMode.mac, .l1, .l2, .ham, .minPlus, .maxPlus] → a.Perm b →
    reduce mode xt wt base north a = reduce mode xt wt base north b) ∧
  (∀ (xt wt : ElemType) (base : Nat) (a b : List Tap), xt ∈ [ElemType.i8, .u8, .i4, .u4] →
    reduce .mac xt wt base (some (exactSum (· * ·) 0 a, 0)) b = reduce .mac xt wt base none (a ++ b)) ∧
  (∀ (isMax : Bool) (v : Int) (i : Nat) (ts : List Tap),
    ∃ w n, compareSelect isMax i (v, 0xFFFF_FFFF) ts = (w, n) ∧ (if isMax then v ≤ w else w ≤ v) ∧
      (n = 0xFFFF_FFFF ∨ i ≤ n ∧ n < i + ts.length)) ∧
  (∀ (isMax : Bool) (p own : Int × Nat), p.1 ≠ own.1 ∨ p.2 ≠ own.2 →
    withNorth isMax (some p) own = withNorth isMax (some own) p ∧
    (p.1 = own.1 → p.2 < own.2 → withNorth isMax (some p) own = p) ∧
    (p.1 ≠ own.1 → (withNorth isMax (some p) own).1 = if isMax then max p.1 own.1 else min p.1 own.1))

/-- The quantiser and the adaptive exponent (R253, R255, R261): an integer code lies within its limits, stochastic
rounding gives one of the two neighbours and an exact value itself, and a step's rule moves the exponent by at most
one, within its limits, and not at all when frozen. The model's choices in it: log entry 85. -/
def Obligations.QuantisedCodesAndExponentsKeepTheirLimits : Prop :=
  (∀ (k : TileEnv) (o : OutSpec) (g : Nat) (e : Rescale) (a : Int) (v : Val), o.type.isInt = true →
    e.lo ≤ e.zout → e.zout ≤ e.hi →
    e.lo ≤ (quantise k o g e a v).code ∧ (quantise k o g e a v).code ≤ e.hi) ∧
  (∀ (neg : Bool) (m : Nat) (r : Nat) (bits : Nat → Nat), bits (min r 24) < 2 ^ min r 24 →
    let p := Fp.signed neg m
    let y := roundStochastic neg m 0 r bits
    (p / 2 ^ r ≤ y ∧ y ≤ p / 2 ^ r + 1) ∧ (p % 2 ^ r = 0 → y = p / 2 ^ r)) ∧
  (∀ (x : AdaptState) (freezeAll : Bool) (c : AdaptCount), x.expMin ≤ x.exp → x.exp ≤ x.expMax →
    let y := (adaptStep x freezeAll c).state
    y.expMin ≤ y.exp ∧ y.exp ≤ y.expMax ∧ (y.exp - x.exp).natAbs ≤ 1 ∧ y.satLast = c.saturated ∧
    (x.freeze = true ∨ freezeAll = true → y = { x with satLast := c.saturated }) ∧
    (x.freeze = false → freezeAll = false → x.thresh * c.outputs < c.saturated * 65536 →
      y.lowRun = 0 ∧ y.exp = min (x.exp + 1) x.expMax))

/-- The rounding modes (R254): p ÷ 2^r is rounded once, to nearest with a tie to even, to nearest with a tie away from
zero, or toward zero; for r = 0 an integer stays as it is in every mode, a fraction is rounded by modes 0 to 2 as for
any r, and mode 3 draws no bits and gives its floor. -/
def Obligations.RoundingModesFollowTheirTable : Prop :=
  (∀ (num : Int) (r : Nat),
    (2 * (roundMode 0 num r * 2 ^ r - num).natAbs ≤ 2 ^ r ∧
      (2 * (roundMode 0 num r * 2 ^ r - num).natAbs = 2 ^ r → roundMode 0 num r % 2 = 0)) ∧
    (2 * (roundMode 1 num r * 2 ^ r - num).natAbs ≤ 2 ^ r ∧
      (2 * (roundMode 1 num r * 2 ^ r - num).natAbs = 2 ^ r → num.natAbs < (roundMode 1 num r).natAbs * 2 ^ r)) ∧
    roundMode 2 num r = num.tdiv (2 ^ r)) ∧
  (∀ (mode : BitVec 2) (num : Int), mode ≠ 3 → roundMode mode num 0 = num) ∧
  (∀ (neg : Bool) (m : Nat) (e : Int) (bits : Nat → Nat), bits 0 = 0 →
    roundStochastic neg m e 0 bits = floorFp neg m e ∧ (e = 0 → floorFp neg m e = Fp.signed neg m)) ∧
  (∀ (k : TileEnv) (o : OutSpec) (g : Nat) (e : Rescale) (a : Int) (v : Val) (n : Bool) (m : Nat) (x : Int),
    o.type.isInt = true → o.mask = none → rescaleInput e a v = .fin n m x →
    let r := outShift o k e
    (e.rmode ≠ 3 → (quantise k o g e a v).code = min (max (roundMode e.rmode
      (Fp.signed n (m * e.mult.toNat) * 2 ^ x.toNat) (r + (-x).toNat) + e.zout) e.lo) e.hi) ∧
    (e.rmode = 3 → (quantise k o g e a v).code = min (max (roundStochastic n (m * e.mult.toNat) x r
      (fun b => k.roundBits g b (o.counter o.draw)) + e.zout) e.lo) e.hi)) ∧
  (∀ (k : TileEnv) (g c : Nat), k.roundBits g 0 c = 0)
end

