-- ==== Sys2Proof/Laws/Memory.lean ====
section
/-! SUPPORT. Memory: what each operation reads back as, and that each keeps the canonical form. -/

namespace Sys2Proof.Machine

/-! ## One cell -/

theorem mem_putCell {cs : List Host.Cell} {a : Nat} {v : Option Byte} {c : Host.Cell}
    (h : c ∈ putCell cs a v) : (c.1 = a ∧ v = some c.2) ∨ (c ∈ cs) := by
  induction cs with
  | nil => cases v <;> simp_all [putCell]
  | cons d ds ih =>
    unfold putCell at h
    split at h
    · cases v <;> simp_all
      rcases h with h | h | h <;> simp_all
    · split at h
      · cases v <;> simp_all
        rcases h with h | h <;> simp_all
      · simp only [List.mem_cons] at h
        rcases h with h | h
        · exact .inr (by simp [h])
        · rcases ih h with h | h
          · exact .inl h
          · exact .inr (by simp [h])

theorem putCell_pairwise {cs : List Host.Cell} {a : Nat} {v : Option Byte}
    (h : cs.Pairwise fun x y => x.1 < y.1) : (putCell cs a v).Pairwise fun x y => x.1 < y.1 := by
  induction cs with
  | nil => cases v <;> simp [putCell]
  | cons d ds ih =>
    obtain ⟨hd, hds⟩ := List.pairwise_cons.1 h
    unfold putCell
    split
    · cases v
      · simpa using h
      · simp only [Option.toList_some, List.map_cons, List.map_nil, List.singleton_append,
          List.pairwise_cons]
        refine ⟨?_, hd, hds⟩
        intro c hc
        rcases List.mem_cons.1 hc with rfl | hc
        · assumption
        · exact Nat.lt_trans ‹_› (hd c hc)
    · split
      · rename_i h1 h2
        cases v
        · simpa using hds
        · simp only [Option.toList_some, List.map_cons, List.map_nil, List.singleton_append,
            List.pairwise_cons]
          exact ⟨fun c hc => h2 ▸ hd c hc, hds⟩
      · rename_i h1 h2
        refine List.pairwise_cons.2 ⟨?_, ih hds⟩
        intro c hc
        rcases mem_putCell hc with ⟨h3, -⟩ | h3
        · omega
        · exact hd c h3

theorem not_mem_putCell {cs : List Host.Cell} {a : Nat} (h : cs.Pairwise fun x y => x.1 < y.1)
    {c : Host.Cell} (hc : c ∈ putCell cs a none) : c.1 ≠ a := by
  induction cs with
  | nil => simp [putCell] at hc
  | cons d ds ih =>
    obtain ⟨hd, hds⟩ := List.pairwise_cons.1 h
    unfold putCell at hc
    split at hc
    · simp only [Option.toList_none, List.map_nil, List.nil_append, List.mem_cons] at hc
      rcases hc with rfl | hc
      · omega
      · have := hd c hc; omega
    · split at hc
      · simp only [Option.toList_none, List.map_nil, List.nil_append] at hc
        have := hd c hc; omega
      · simp only [List.mem_cons] at hc
        rcases hc with rfl | hc
        · assumption
        · exact ih hds hc

theorem mem_putCell_other {cs : List Host.Cell} {a : Nat} {v : Option Byte} {c : Host.Cell}
    (h : c ∈ cs) (hc : c.1 ≠ a) : c ∈ putCell cs a v := by
  induction cs with
  | nil => simp at h
  | cons d ds ih =>
    unfold putCell
    split
    · exact List.mem_append_right _ h
    · split
      · refine List.mem_append_right _ ?_
        rcases List.mem_cons.1 h with rfl | h
        · exact absurd ‹_› hc
        · exact h
      · rcases List.mem_cons.1 h with rfl | h
        · simp
        · exact List.mem_cons_of_mem _ (ih h)

theorem mem_putCell_self (cs : List Host.Cell) (a : Nat) (b : Byte) : (a, b) ∈ putCell cs a (some b) := by
  induction cs with
  | nil => simp [putCell]
  | cons d ds ih =>
    unfold putCell
    split
    · simp
    · split
      · simp
      · exact List.mem_cons_of_mem _ ih

/-- In a rising list the cell found is the one listed. -/
theorem cellAt_eq_some {cs : List Host.Cell} {a : Nat} {b : Byte}
    (h : cs.Pairwise fun x y => x.1 < y.1) : cellAt cs a = some b ↔ (a, b) ∈ cs := by
  induction cs with
  | nil => simp [cellAt]
  | cons d ds ih =>
    obtain ⟨hd, hds⟩ := List.pairwise_cons.1 h
    have later : ∀ {x : Byte}, (a, x) ∈ ds → d.1 < a := fun hx => hd _ hx
    simp only [cellAt, List.mem_cons]
    split
    · rename_i h1
      constructor
      · intro h2
        simp only [Option.some.injEq] at h2
        exact .inl (by rw [← h1, ← h2])
      · rintro (h2 | h2)
        · rw [← h2]
        · have := later h2; omega
    · rename_i h1
      have hne : (a, b) ≠ d := fun h2 => h1 (by rw [← h2])
      split
      · constructor
        · intro h2; simp at h2
        · rintro (h2 | h2)
          · exact absurd h2 hne
          · have := later h2; omega
      · simp [ih hds, hne]

/-- Reading the cell just put, and any other. -/
theorem cellAt_putCell {cs : List Host.Cell} (a b : Nat) (v : Option Byte)
    (h : cs.Pairwise fun x y => x.1 < y.1) :
    cellAt (putCell cs a v) b = if b = a then v else cellAt cs b := by
  have hp : (putCell cs a v).Pairwise fun x y => x.1 < y.1 := putCell_pairwise h
  ext x
  rw [cellAt_eq_some hp]
  split
  · rename_i hb
    subst hb
    constructor
    · intro hm
      cases v with
      | none => exact absurd rfl (not_mem_putCell h hm)
      | some w =>
        have h2 := (cellAt_eq_some hp).2 hm
        rw [(cellAt_eq_some hp).2 (mem_putCell_self cs b w)] at h2
        exact h2
    · intro hv
      rw [show v = some x from hv]
      exact mem_putCell_self cs b x
  · rename_i hb
    rw [cellAt_eq_some h]
    constructor
    · intro hm
      rcases mem_putCell hm with ⟨h3, -⟩ | h3
      · exact absurd h3 hb
      · exact h3
    · intro hm
      exact mem_putCell_other hm hb

/-! ## Undefined ranges -/

theorem has_of_mem_cut {r u : UndefRange} {lo hi a : Nat} (h : u ∈ r.cut lo hi) (ha : u.has a = true) :
    r.has a = true ∧ (a < lo ∨ hi ≤ a) := by
  unfold UndefRange.cut at h
  unfold UndefRange.has at ha ⊢
  simp only [Bool.and_eq_true, decide_eq_true_eq] at ha ⊢
  split at h
  · simp only [List.mem_singleton] at h
    subst h
    omega
  · simp only [List.mem_append] at h
    rcases h with h | h <;> split at h <;> simp_all <;> omega

theorem not_has_cut {us : List UndefRange} {lo hi a : Nat} (h : ∀ u ∈ us, u.has a = false) :
    ∀ u ∈ us.flatMap (·.cut lo hi), u.has a = false := by
  intro u hu
  obtain ⟨r, hr, hu⟩ := List.mem_flatMap.1 hu
  cases hx : u.has a
  · rfl
  · have := (has_of_mem_cut hu hx).1
    simp_all

theorem not_has_cut_inside {us : List UndefRange} {lo hi a : Nat} (h1 : lo ≤ a) (h2 : a < hi) :
    ∀ u ∈ us.flatMap (·.cut lo hi), u.has a = false := by
  intro u hu
  obtain ⟨r, hr, hu⟩ := List.mem_flatMap.1 hu
  cases hx : u.has a
  · rfl
  · have := (has_of_mem_cut hu hx).2
    omega

/-! ## The canonical form -/

namespace Memory

theorem wf_write {m : Memory} (h : m.wf) (a : Nat) (b : Byte) : (m.write a b).wf := by
  obtain ⟨h1, h2⟩ := h
  refine ⟨putCell_pairwise h1, ?_⟩
  intro c hc
  simp only [write] at hc ⊢
  rcases mem_putCell hc with ⟨h3, h4⟩ | h3
  · split at h4
    · cases h4
    · simp only [Option.some.injEq] at h4
      exact ⟨h4 ▸ ‹_›, not_has_cut_inside (by omega) (by omega)⟩
  · exact ⟨(h2 c h3).1, not_has_cut (h2 c h3).2⟩

theorem wf_writes {bs : List Byte} : ∀ {m : Memory} (_ : m.wf) (a : Nat), (m.writes a bs).wf := by
  induction bs with
  | nil => exact fun h _ => h
  | cons b bs ih => exact fun h a => ih (wf_write h a b) (a + 1)

theorem wf_clear {m : Memory} (h : m.wf) (lo hi : Nat) : (m.clear lo hi).wf := by
  refine ⟨h.1.filter _, ?_⟩
  intro c hc
  have hc := (List.mem_filter.1 hc).1
  exact ⟨(h.2 c hc).1, not_has_cut (h.2 c hc).2⟩

theorem wf_forget {m : Memory} (h : m.wf) (lo hi seed : Nat) : (m.forget lo hi seed).wf := by
  unfold forget
  split
  · exact h
  · have hw := wf_clear h lo hi
    refine ⟨hw.1, ?_⟩
    intro c hc
    refine ⟨(hw.2 c hc).1, ?_⟩
    intro u hu
    rcases List.mem_append.1 hu with hu | hu
    · exact (hw.2 c hc).2 u hu
    · simp only [List.mem_singleton] at hu
      subst hu
      have := (List.mem_filter.1 hc).2
      simp only [UndefRange.has]
      revert this
      cases h1 : decide (lo ≤ c.1) <;> cases h2 : decide (c.1 < hi) <;> simp

theorem wf_setPoison {m : Memory} (h : m.wf) (l : Nat) (p : Bool) : (m.setPoison l p).wf := h

theorem wf_unpoison {m : Memory} (h : m.wf) (a n : Nat) : (m.unpoisonCovered a n).wf := h

theorem wf_spoil {m : Memory} (h : m.wf) (l : Nat) : (m.spoil l).wf := by
  unfold spoil
  split <;> exact h

theorem wf_refetch {m : Memory} (h : m.wf) (l : Nat) : (m.refetch l).wf := h

theorem wf_dropLines {m : Memory} (h : m.wf) (p : CacheLine → Bool) : (m.dropLines p).wf := h

theorem wf_fill {m : Memory} (h : m.wf) (a way : Nat) (dirty : Bool) : (m.fill a way dirty).wf := h

theorem wf_store {m : Memory} (h : m.wf) (a : Nat) (bs : List Byte) : (m.store a bs).wf :=
  wf_unpoison (wf_writes h a) a bs.length

/-- No entry equals what its address reads as unlisted. -/
theorem wf_canonical {m : Memory} (h : m.wf) {c : Host.Cell} (hc : c ∈ m.cells) :
    c.2 ≠ m.unlisted c.1 := by
  obtain ⟨h1, h2⟩ := h.2 c hc
  unfold unlisted
  rw [List.find?_eq_none.2 (by simpa using h2)]
  exact h1

/-! ## Reading back -/

theorem read_write_self {m : Memory} (h : m.wf) (a : Nat) (b : Byte) : (m.write a b).read a = b := by
  have hc : cellAt (m.write a b).cells a = if b = 0 then none else some b := by
    have := cellAt_putCell a a (if b = 0 then none else some b) h.1
    simpa [write] using this
  unfold read
  rw [hc]
  split
  · rename_i hb
    have hu : (m.write a b).unlisted a = 0 := by
      unfold unlisted
      rw [List.find?_eq_none.2]
      intro u hu
      have := not_has_cut_inside (us := m.undef) (lo := a) (hi := a + 1) (a := a) (by omega) (by omega) u hu
      simp [this]
    rw [hu, hb]; rfl
  · rfl

theorem find_cut_other (us : List UndefRange) (lo hi x : Nat) (hx : x < lo ∨ hi ≤ x) :
    ((us.flatMap (·.cut lo hi)).find? (·.has x)).map (·.seed) = (us.find? (·.has x)).map (·.seed) := by
  induction us with
  | nil => rfl
  | cons u us ih =>
    simp only [List.flatMap_cons, List.find?_append]
    have key : ((u.cut lo hi).find? (·.has x)).map (·.seed) = if u.has x then some u.seed else none := by
      unfold UndefRange.cut
      split
      · by_cases h : u.has x <;> simp [h]
      · rename_i hne
        simp only [not_or, Nat.not_le] at hne
        by_cases h1 : u.lo < lo <;> by_cases h2 : hi < u.hi <;>
          simp only [h1, h2, if_true, if_false, List.append_nil, List.nil_append, List.singleton_append,
            List.find?_cons, List.find?_nil, UndefRange.has]
        · by_cases h3 : u.lo ≤ x <;> by_cases h4 : x < lo <;> by_cases h5 : hi ≤ x <;>
            by_cases h6 : x < u.hi <;> simp [h3, h4, h5, h6] <;> omega
        · by_cases h3 : u.lo ≤ x <;> by_cases h4 : x < lo <;> by_cases h6 : x < u.hi <;>
            simp [h3, h4, h6] <;> omega
        · by_cases h3 : u.lo ≤ x <;> by_cases h5 : hi ≤ x <;> by_cases h6 : x < u.hi <;>
            simp [h3, h5, h6] <;> omega
        · by_cases h3 : u.lo ≤ x <;> by_cases h6 : x < u.hi <;> simp [h3, h6] <;> omega
    by_cases h : u.has x
    · simp only [h, if_true, List.find?_cons] at key ⊢
      cases hf : (u.cut lo hi).find? (·.has x)
      · simp [hf] at key
      · simp only [hf, Option.map_some] at key
        simp [key]
    · simp only [h, List.find?_cons] at key ⊢
      cases hf : (u.cut lo hi).find? (·.has x)
      · simpa using ih
      · simp [hf] at key

theorem unlisted_eq (m : Memory) (x : Nat) :
    m.unlisted x = match (m.undef.find? (·.has x)).map (·.seed) with
      | some k => Config.freeByte k x
      | none => 0 := by
  unfold unlisted
  cases m.undef.find? (·.has x) <;> rfl

theorem read_write_other {m : Memory} (h : m.wf) {a x : Nat} (hx : x ≠ a) (b : Byte) :
    (m.write a b).read x = m.read x := by
  have hc : cellAt (m.write a b).cells x = cellAt m.cells x := by
    have := cellAt_putCell a x (if b = 0 then none else some b) h.1
    simpa [write, hx] using this
  have hu : (m.write a b).unlisted x = m.unlisted x := by
    rw [unlisted_eq, unlisted_eq]
    simp only [write, find_cut_other _ a (a + 1) x (by omega)]
  simp [read, hc, hu]

theorem cellAt_mem {cs : List Host.Cell} {a : Nat} {b : Byte} (h : cellAt cs a = some b) : (a, b) ∈ cs := by
  induction cs with
  | nil => simp [cellAt] at h
  | cons d ds ih =>
    simp only [cellAt] at h
    split at h
    · rename_i h1
      simp only [Option.some.injEq] at h
      exact List.mem_cons.2 (.inl (by rw [← h1, ← h]))
    · split at h
      · simp at h
      · exact List.mem_cons_of_mem _ (ih h)

/-- A cleared byte reads zero. -/
theorem read_clear_inside (m : Memory) {lo hi a : Nat} (h1 : lo ≤ a) (h2 : a < hi) : (m.clear lo hi).read a = 0 := by
  have hc : cellAt (m.clear lo hi).cells a = none := by
    cases hx : cellAt (m.clear lo hi).cells a
    · rfl
    · have := cellAt_mem hx
      simp [clear] at this
      omega
  have hu : (m.clear lo hi).unlisted a = 0 := by
    unfold unlisted
    rw [List.find?_eq_none.2]
    intro u hu
    simp [not_has_cut_inside h1 h2 u hu]
  simp [read, hc, hu]

/-- A byte outside what is cleared reads as before. -/
theorem read_clear_other {m : Memory} (h : m.wf) {lo hi a : Nat} (hx : a < lo ∨ hi ≤ a) :
    (m.clear lo hi).read a = m.read a := by
  have hp : (m.clear lo hi).cells.Pairwise fun x y => x.1 < y.1 := (wf_clear h lo hi).1
  have hc : cellAt (m.clear lo hi).cells a = cellAt m.cells a := by
    ext x
    rw [cellAt_eq_some hp, cellAt_eq_some h.1]
    simp [clear]
    omega
  have hu : (m.clear lo hi).unlisted a = m.unlisted a := by
    rw [unlisted_eq, unlisted_eq]
    simp only [clear, find_cut_other _ lo hi a hx]
  simp [read, hc, hu]

/-- A byte outside what is written reads as before. -/
theorem read_writes_other {bs : List Byte} : ∀ {m : Memory} (_ : m.wf) {a x : Nat}
    (_ : x < a ∨ a + bs.length ≤ x), (m.writes a bs).read x = m.read x := by
  induction bs with
  | nil => intro m h a x hx; rfl
  | cons b bs ih =>
    intro m h a x hx
    simp only [List.length_cons] at hx
    rw [writes, ih (wf_write h a b) (by omega), read_write_other h (by omega)]

/-- A byte that is written reads as written. -/
theorem read_writes_self {bs : List Byte} : ∀ {m : Memory} (_ : m.wf) {a i : Nat} (hi : i < bs.length),
    (m.writes a bs).read (a + i) = bs[i] := by
  induction bs with
  | nil => intro m h a i hi; simp at hi
  | cons b bs ih =>
    intro m h a i hi
    cases i with
    | zero =>
      rw [writes, read_writes_other (wf_write h a b) (by omega)]
      simpa using read_write_self h a b
    | succ i =>
      rw [writes, show a + (i + 1) = a + 1 + i by omega, ih (wf_write h a b) (by simpa using hi)]
      simp

@[simp] theorem read_unpoison (m : Memory) (a n x : Nat) : (m.unpoisonCovered a n).read x = m.read x := rfl

@[simp] theorem read_setPoison (m : Memory) (l : Nat) (p : Bool) (x : Nat) :
    (m.setPoison l p).read x = m.read x := rfl

theorem read_store_other {m : Memory} (h : m.wf) {a x : Nat} {bs : List Byte}
    (hx : x < a ∨ a + bs.length ≤ x) : (m.store a bs).read x = m.read x := by
  simp [store, read_writes_other h hx]

theorem read_store_self {m : Memory} (h : m.wf) {a i : Nat} {bs : List Byte} (hi : i < bs.length) :
    (m.store a bs).read (a + i) = bs[i] := by
  simp [store, read_writes_self h hi]

theorem reads_store_self {m : Memory} (h : m.wf) (a : Nat) (bs : List Byte) :
    (m.store a bs).reads a bs.length = bs := by
  have key : ∀ (n i : Nat), i + n = bs.length → (m.store a bs).reads (a + i) n = bs.drop i := by
    intro n
    induction n with
    | zero => intro i hi; simp [reads, ← hi]
    | succ n ih =>
      intro i hi
      have hlt : i < bs.length := by omega
      rw [reads, read_store_self h hlt, show a + i + 1 = a + (i + 1) by omega, ih (i + 1) (by omega)]
      simp
  simpa using key bs.length 0 (by omega)

theorem reads_store_other {m : Memory} (h : m.wf) {a : Nat} {bs : List Byte} :
    ∀ {n x : Nat}, x + n ≤ a ∨ a + bs.length ≤ x → (m.store a bs).reads x n = m.reads x n
  | 0, _, _ => rfl
  | n + 1, x, hx => by
    rw [reads, reads, read_store_other h (by omega), reads_store_other h (n := n) (by omega)]

end Memory

end Sys2Proof.Machine
end

