-- ==== Sys2Proof/Laws/State.lean ====
section
/-! SUPPORT. One lemma per field per update of one unit, true by definition, and the laws of a bank of
like registers. -/

namespace Sys2Proof

/-- The entry changed, and any other. -/
theorem updAt_self {α : Type} {n : Nat} (v : Vector α n) (i : Fin n) (f : α → α) :
    (updAt v i f)[i] = f v[i] := by simp [updAt]

theorem updAt_other {α : Type} {n : Nat} (v : Vector α n) {i j : Fin n} (f : α → α) (h : j ≠ i) :
    (updAt v i f)[j] = v[j] := by
  have h2 : i.val ≠ j.val := fun h3 => h (Fin.ext h3.symm)
  simp [updAt, h2]

theorem updAt_get {α : Type} {n : Nat} (v : Vector α n) (i j : Fin n) (f : α → α) :
    (updAt v i f)[j] = if j = i then f v[i] else v[j] := by
  split
  · rename_i h; subst h; exact updAt_self v j f
  · exact updAt_other v f ‹_›

namespace Machine.State

variable (s : State)

@[simp] theorem updQueue_part (q : QueueId) (f : Queue → Queue) : (s.updQueue q f).part = s.part := rfl
@[simp] theorem updQueue_secure (q : QueueId) (f : Queue → Queue) : (s.updQueue q f).secure = s.secure := rfl
@[simp] theorem updQueue_boot (q : QueueId) (f : Queue → Queue) : (s.updQueue q f).boot = s.boot := rfl
@[simp] theorem updQueue_env (q : QueueId) (f : Queue → Queue) : (s.updQueue q f).env = s.env := rfl
@[simp] theorem updQueue_cfg (q : QueueId) (f : Queue → Queue) : (s.updQueue q f).cfg = s.cfg := rfl
@[simp] theorem updQueue_aer (q : QueueId) (f : Queue → Queue) : (s.updQueue q f).aer = s.aer := rfl
@[simp] theorem updQueue_hostif (q : QueueId) (f : Queue → Queue) : (s.updQueue q f).hostif = s.hostif := rfl
@[simp] theorem updQueue_ltr (q : QueueId) (f : Queue → Queue) : (s.updQueue q f).ltr = s.ltr := rfl
@[simp] theorem updQueue_ready (q : QueueId) (f : Queue → Queue) : (s.updQueue q f).ready = s.ready := rfl
@[simp] theorem updQueue_fwif (q : QueueId) (f : Queue → Queue) : (s.updQueue q f).fwif = s.fwif := rfl
@[simp] theorem updQueue_heart (q : QueueId) (f : Queue → Queue) : (s.updQueue q f).heart = s.heart := rfl
@[simp] theorem updQueue_marks (q : QueueId) (f : Queue → Queue) : (s.updQueue q f).marks = s.marks := rfl
@[simp] theorem updQueue_queues (q : QueueId) (f : Queue → Queue) :
    (s.updQueue q f).queues = updAt s.queues q f := rfl
@[simp] theorem updQueue_flags (q : QueueId) (f : Queue → Queue) : (s.updQueue q f).flags = s.flags := rfl
@[simp] theorem updQueue_ctxs (q : QueueId) (f : Queue → Queue) : (s.updQueue q f).ctxs = s.ctxs := rfl
@[simp] theorem updQueue_flights (q : QueueId) (f : Queue → Queue) : (s.updQueue q f).flights = s.flights := rfl
@[simp] theorem updQueue_sched (q : QueueId) (f : Queue → Queue) : (s.updQueue q f).sched = s.sched := rfl
@[simp] theorem updQueue_manifest (q : QueueId) (f : Queue → Queue) : (s.updQueue q f).manifest = s.manifest := rfl
@[simp] theorem updQueue_quays (q : QueueId) (f : Queue → Queue) : (s.updQueue q f).quays = s.quays := rfl
@[simp] theorem updQueue_mem (q : QueueId) (f : Queue → Queue) : (s.updQueue q f).mem = s.mem := rfl
@[simp] theorem updQueue_harbour (q : QueueId) (f : Queue → Queue) : (s.updQueue q f).harbour = s.harbour := rfl
@[simp] theorem updQueue_memctl (q : QueueId) (f : Queue → Queue) : (s.updQueue q f).memctl = s.memctl := rfl
@[simp] theorem updQueue_memhost (q : QueueId) (f : Queue → Queue) : (s.updQueue q f).memhost = s.memhost := rfl
@[simp] theorem updQueue_portErrs (q : QueueId) (f : Queue → Queue) : (s.updQueue q f).portErrs = s.portErrs := rfl
@[simp] theorem updQueue_ports (q : QueueId) (f : Queue → Queue) : (s.updQueue q f).ports = s.ports := rfl
@[simp] theorem updQueue_streams (q : QueueId) (f : Queue → Queue) : (s.updQueue q f).streams = s.streams := rfl
@[simp] theorem updQueue_blanks (q : QueueId) (f : Queue → Queue) : (s.updQueue q f).blanks = s.blanks := rfl
@[simp] theorem updQueue_trigs (q : QueueId) (f : Queue → Queue) : (s.updQueue q f).trigs = s.trigs := rfl
@[simp] theorem updQueue_sessions (q : QueueId) (f : Queue → Queue) : (s.updQueue q f).sessions = s.sessions := rfl
@[simp] theorem updQueue_codecs (q : QueueId) (f : Queue → Queue) : (s.updQueue q f).codecs = s.codecs := rfl
@[simp] theorem updQueue_deckFaults (q : QueueId) (f : Queue → Queue) : (s.updQueue q f).deckFaults = s.deckFaults := rfl
@[simp] theorem updQueue_deckOwner (q : QueueId) (f : Queue → Queue) : (s.updQueue q f).deckOwner = s.deckOwner := rfl
@[simp] theorem updQueue_deckReduced (q : QueueId) (f : Queue → Queue) : (s.updQueue q f).deckReduced = s.deckReduced := rfl
@[simp] theorem updQueue_tide (q : QueueId) (f : Queue → Queue) : (s.updQueue q f).tide = s.tide := rfl
@[simp] theorem updQueue_recorder (q : QueueId) (f : Queue → Queue) : (s.updQueue q f).recorder = s.recorder := rfl
@[simp] theorem updQueue_power (q : QueueId) (f : Queue → Queue) : (s.updQueue q f).power = s.power := rfl
@[simp] theorem updQueue_keep (q : QueueId) (f : Queue → Queue) : (s.updQueue q f).keep = s.keep := rfl
@[simp] theorem updQueue_faults (q : QueueId) (f : Queue → Queue) : (s.updQueue q f).faults = s.faults := rfl
@[simp] theorem updQueue_lighthouse (q : QueueId) (f : Queue → Queue) : (s.updQueue q f).lighthouse = s.lighthouse := rfl
@[simp] theorem updQueue_seeds (q : QueueId) (f : Queue → Queue) : (s.updQueue q f).seeds = s.seeds := rfl
@[simp] theorem updQueue_freeCount (q : QueueId) (f : Queue → Queue) : (s.updQueue q f).freeCount = s.freeCount := rfl
@[simp] theorem updQueue_outbox (q : QueueId) (f : Queue → Queue) : (s.updQueue q f).outbox = s.outbox := rfl
@[simp] theorem updQueue_pending (q : QueueId) (f : Queue → Queue) : (s.updQueue q f).pending = s.pending := rfl

@[simp] theorem updCtx_part (c : CtxId) (f : Ctx → Ctx) : (s.updCtx c f).part = s.part := rfl
@[simp] theorem updCtx_secure (c : CtxId) (f : Ctx → Ctx) : (s.updCtx c f).secure = s.secure := rfl
@[simp] theorem updCtx_boot (c : CtxId) (f : Ctx → Ctx) : (s.updCtx c f).boot = s.boot := rfl
@[simp] theorem updCtx_env (c : CtxId) (f : Ctx → Ctx) : (s.updCtx c f).env = s.env := rfl
@[simp] theorem updCtx_cfg (c : CtxId) (f : Ctx → Ctx) : (s.updCtx c f).cfg = s.cfg := rfl
@[simp] theorem updCtx_aer (c : CtxId) (f : Ctx → Ctx) : (s.updCtx c f).aer = s.aer := rfl
@[simp] theorem updCtx_hostif (c : CtxId) (f : Ctx → Ctx) : (s.updCtx c f).hostif = s.hostif := rfl
@[simp] theorem updCtx_ltr (c : CtxId) (f : Ctx → Ctx) : (s.updCtx c f).ltr = s.ltr := rfl
@[simp] theorem updCtx_ready (c : CtxId) (f : Ctx → Ctx) : (s.updCtx c f).ready = s.ready := rfl
@[simp] theorem updCtx_fwif (c : CtxId) (f : Ctx → Ctx) : (s.updCtx c f).fwif = s.fwif := rfl
@[simp] theorem updCtx_heart (c : CtxId) (f : Ctx → Ctx) : (s.updCtx c f).heart = s.heart := rfl
@[simp] theorem updCtx_marks (c : CtxId) (f : Ctx → Ctx) : (s.updCtx c f).marks = s.marks := rfl
@[simp] theorem updCtx_queues (c : CtxId) (f : Ctx → Ctx) : (s.updCtx c f).queues = s.queues := rfl
@[simp] theorem updCtx_flags (c : CtxId) (f : Ctx → Ctx) : (s.updCtx c f).flags = s.flags := rfl
@[simp] theorem updCtx_ctxs (c : CtxId) (f : Ctx → Ctx) :
    (s.updCtx c f).ctxs = updAt s.ctxs c f := rfl
@[simp] theorem updCtx_flights (c : CtxId) (f : Ctx → Ctx) : (s.updCtx c f).flights = s.flights := rfl
@[simp] theorem updCtx_sched (c : CtxId) (f : Ctx → Ctx) : (s.updCtx c f).sched = s.sched := rfl
@[simp] theorem updCtx_manifest (c : CtxId) (f : Ctx → Ctx) : (s.updCtx c f).manifest = s.manifest := rfl
@[simp] theorem updCtx_quays (c : CtxId) (f : Ctx → Ctx) : (s.updCtx c f).quays = s.quays := rfl
@[simp] theorem updCtx_mem (c : CtxId) (f : Ctx → Ctx) : (s.updCtx c f).mem = s.mem := rfl
@[simp] theorem updCtx_harbour (c : CtxId) (f : Ctx → Ctx) : (s.updCtx c f).harbour = s.harbour := rfl
@[simp] theorem updCtx_memctl (c : CtxId) (f : Ctx → Ctx) : (s.updCtx c f).memctl = s.memctl := rfl
@[simp] theorem updCtx_memhost (c : CtxId) (f : Ctx → Ctx) : (s.updCtx c f).memhost = s.memhost := rfl
@[simp] theorem updCtx_portErrs (c : CtxId) (f : Ctx → Ctx) : (s.updCtx c f).portErrs = s.portErrs := rfl
@[simp] theorem updCtx_ports (c : CtxId) (f : Ctx → Ctx) : (s.updCtx c f).ports = s.ports := rfl
@[simp] theorem updCtx_streams (c : CtxId) (f : Ctx → Ctx) : (s.updCtx c f).streams = s.streams := rfl
@[simp] theorem updCtx_blanks (c : CtxId) (f : Ctx → Ctx) : (s.updCtx c f).blanks = s.blanks := rfl
@[simp] theorem updCtx_trigs (c : CtxId) (f : Ctx → Ctx) : (s.updCtx c f).trigs = s.trigs := rfl
@[simp] theorem updCtx_sessions (c : CtxId) (f : Ctx → Ctx) : (s.updCtx c f).sessions = s.sessions := rfl
@[simp] theorem updCtx_codecs (c : CtxId) (f : Ctx → Ctx) : (s.updCtx c f).codecs = s.codecs := rfl
@[simp] theorem updCtx_deckFaults (c : CtxId) (f : Ctx → Ctx) : (s.updCtx c f).deckFaults = s.deckFaults := rfl
@[simp] theorem updCtx_deckOwner (c : CtxId) (f : Ctx → Ctx) : (s.updCtx c f).deckOwner = s.deckOwner := rfl
@[simp] theorem updCtx_deckReduced (c : CtxId) (f : Ctx → Ctx) : (s.updCtx c f).deckReduced = s.deckReduced := rfl
@[simp] theorem updCtx_tide (c : CtxId) (f : Ctx → Ctx) : (s.updCtx c f).tide = s.tide := rfl
@[simp] theorem updCtx_recorder (c : CtxId) (f : Ctx → Ctx) : (s.updCtx c f).recorder = s.recorder := rfl
@[simp] theorem updCtx_power (c : CtxId) (f : Ctx → Ctx) : (s.updCtx c f).power = s.power := rfl
@[simp] theorem updCtx_keep (c : CtxId) (f : Ctx → Ctx) : (s.updCtx c f).keep = s.keep := rfl
@[simp] theorem updCtx_faults (c : CtxId) (f : Ctx → Ctx) : (s.updCtx c f).faults = s.faults := rfl
@[simp] theorem updCtx_lighthouse (c : CtxId) (f : Ctx → Ctx) : (s.updCtx c f).lighthouse = s.lighthouse := rfl
@[simp] theorem updCtx_seeds (c : CtxId) (f : Ctx → Ctx) : (s.updCtx c f).seeds = s.seeds := rfl
@[simp] theorem updCtx_freeCount (c : CtxId) (f : Ctx → Ctx) : (s.updCtx c f).freeCount = s.freeCount := rfl
@[simp] theorem updCtx_outbox (c : CtxId) (f : Ctx → Ctx) : (s.updCtx c f).outbox = s.outbox := rfl
@[simp] theorem updCtx_pending (c : CtxId) (f : Ctx → Ctx) : (s.updCtx c f).pending = s.pending := rfl

@[simp] theorem updQuay_part (q : QuayId) (f : Quay → Quay) : (s.updQuay q f).part = s.part := rfl
@[simp] theorem updQuay_secure (q : QuayId) (f : Quay → Quay) : (s.updQuay q f).secure = s.secure := rfl
@[simp] theorem updQuay_boot (q : QuayId) (f : Quay → Quay) : (s.updQuay q f).boot = s.boot := rfl
@[simp] theorem updQuay_env (q : QuayId) (f : Quay → Quay) : (s.updQuay q f).env = s.env := rfl
@[simp] theorem updQuay_cfg (q : QuayId) (f : Quay → Quay) : (s.updQuay q f).cfg = s.cfg := rfl
@[simp] theorem updQuay_aer (q : QuayId) (f : Quay → Quay) : (s.updQuay q f).aer = s.aer := rfl
@[simp] theorem updQuay_hostif (q : QuayId) (f : Quay → Quay) : (s.updQuay q f).hostif = s.hostif := rfl
@[simp] theorem updQuay_ltr (q : QuayId) (f : Quay → Quay) : (s.updQuay q f).ltr = s.ltr := rfl
@[simp] theorem updQuay_ready (q : QuayId) (f : Quay → Quay) : (s.updQuay q f).ready = s.ready := rfl
@[simp] theorem updQuay_fwif (q : QuayId) (f : Quay → Quay) : (s.updQuay q f).fwif = s.fwif := rfl
@[simp] theorem updQuay_heart (q : QuayId) (f : Quay → Quay) : (s.updQuay q f).heart = s.heart := rfl
@[simp] theorem updQuay_marks (q : QuayId) (f : Quay → Quay) : (s.updQuay q f).marks = s.marks := rfl
@[simp] theorem updQuay_queues (q : QuayId) (f : Quay → Quay) : (s.updQuay q f).queues = s.queues := rfl
@[simp] theorem updQuay_flags (q : QuayId) (f : Quay → Quay) : (s.updQuay q f).flags = s.flags := rfl
@[simp] theorem updQuay_ctxs (q : QuayId) (f : Quay → Quay) : (s.updQuay q f).ctxs = s.ctxs := rfl
@[simp] theorem updQuay_flights (q : QuayId) (f : Quay → Quay) : (s.updQuay q f).flights = s.flights := rfl
@[simp] theorem updQuay_sched (q : QuayId) (f : Quay → Quay) : (s.updQuay q f).sched = s.sched := rfl
@[simp] theorem updQuay_manifest (q : QuayId) (f : Quay → Quay) : (s.updQuay q f).manifest = s.manifest := rfl
@[simp] theorem updQuay_quays (q : QuayId) (f : Quay → Quay) :
    (s.updQuay q f).quays = updAt s.quays q f := rfl
@[simp] theorem updQuay_mem (q : QuayId) (f : Quay → Quay) : (s.updQuay q f).mem = s.mem := rfl
@[simp] theorem updQuay_harbour (q : QuayId) (f : Quay → Quay) : (s.updQuay q f).harbour = s.harbour := rfl
@[simp] theorem updQuay_memctl (q : QuayId) (f : Quay → Quay) : (s.updQuay q f).memctl = s.memctl := rfl
@[simp] theorem updQuay_memhost (q : QuayId) (f : Quay → Quay) : (s.updQuay q f).memhost = s.memhost := rfl
@[simp] theorem updQuay_portErrs (q : QuayId) (f : Quay → Quay) : (s.updQuay q f).portErrs = s.portErrs := rfl
@[simp] theorem updQuay_ports (q : QuayId) (f : Quay → Quay) : (s.updQuay q f).ports = s.ports := rfl
@[simp] theorem updQuay_streams (q : QuayId) (f : Quay → Quay) : (s.updQuay q f).streams = s.streams := rfl
@[simp] theorem updQuay_blanks (q : QuayId) (f : Quay → Quay) : (s.updQuay q f).blanks = s.blanks := rfl
@[simp] theorem updQuay_trigs (q : QuayId) (f : Quay → Quay) : (s.updQuay q f).trigs = s.trigs := rfl
@[simp] theorem updQuay_sessions (q : QuayId) (f : Quay → Quay) : (s.updQuay q f).sessions = s.sessions := rfl
@[simp] theorem updQuay_codecs (q : QuayId) (f : Quay → Quay) : (s.updQuay q f).codecs = s.codecs := rfl
@[simp] theorem updQuay_deckFaults (q : QuayId) (f : Quay → Quay) : (s.updQuay q f).deckFaults = s.deckFaults := rfl
@[simp] theorem updQuay_deckOwner (q : QuayId) (f : Quay → Quay) : (s.updQuay q f).deckOwner = s.deckOwner := rfl
@[simp] theorem updQuay_deckReduced (q : QuayId) (f : Quay → Quay) : (s.updQuay q f).deckReduced = s.deckReduced := rfl
@[simp] theorem updQuay_tide (q : QuayId) (f : Quay → Quay) : (s.updQuay q f).tide = s.tide := rfl
@[simp] theorem updQuay_recorder (q : QuayId) (f : Quay → Quay) : (s.updQuay q f).recorder = s.recorder := rfl
@[simp] theorem updQuay_power (q : QuayId) (f : Quay → Quay) : (s.updQuay q f).power = s.power := rfl
@[simp] theorem updQuay_keep (q : QuayId) (f : Quay → Quay) : (s.updQuay q f).keep = s.keep := rfl
@[simp] theorem updQuay_faults (q : QuayId) (f : Quay → Quay) : (s.updQuay q f).faults = s.faults := rfl
@[simp] theorem updQuay_lighthouse (q : QuayId) (f : Quay → Quay) : (s.updQuay q f).lighthouse = s.lighthouse := rfl
@[simp] theorem updQuay_seeds (q : QuayId) (f : Quay → Quay) : (s.updQuay q f).seeds = s.seeds := rfl
@[simp] theorem updQuay_freeCount (q : QuayId) (f : Quay → Quay) : (s.updQuay q f).freeCount = s.freeCount := rfl
@[simp] theorem updQuay_outbox (q : QuayId) (f : Quay → Quay) : (s.updQuay q f).outbox = s.outbox := rfl
@[simp] theorem updQuay_pending (q : QuayId) (f : Quay → Quay) : (s.updQuay q f).pending = s.pending := rfl

@[simp] theorem updBerth_part (q : QuayId) (b : BerthId) (f : Berth → Berth) : (s.updBerth q b f).part = s.part := rfl
@[simp] theorem updBerth_secure (q : QuayId) (b : BerthId) (f : Berth → Berth) : (s.updBerth q b f).secure = s.secure := rfl
@[simp] theorem updBerth_boot (q : QuayId) (b : BerthId) (f : Berth → Berth) : (s.updBerth q b f).boot = s.boot := rfl
@[simp] theorem updBerth_env (q : QuayId) (b : BerthId) (f : Berth → Berth) : (s.updBerth q b f).env = s.env := rfl
@[simp] theorem updBerth_cfg (q : QuayId) (b : BerthId) (f : Berth → Berth) : (s.updBerth q b f).cfg = s.cfg := rfl
@[simp] theorem updBerth_aer (q : QuayId) (b : BerthId) (f : Berth → Berth) : (s.updBerth q b f).aer = s.aer := rfl
@[simp] theorem updBerth_hostif (q : QuayId) (b : BerthId) (f : Berth → Berth) : (s.updBerth q b f).hostif = s.hostif := rfl
@[simp] theorem updBerth_ltr (q : QuayId) (b : BerthId) (f : Berth → Berth) : (s.updBerth q b f).ltr = s.ltr := rfl
@[simp] theorem updBerth_ready (q : QuayId) (b : BerthId) (f : Berth → Berth) : (s.updBerth q b f).ready = s.ready := rfl
@[simp] theorem updBerth_fwif (q : QuayId) (b : BerthId) (f : Berth → Berth) : (s.updBerth q b f).fwif = s.fwif := rfl
@[simp] theorem updBerth_heart (q : QuayId) (b : BerthId) (f : Berth → Berth) : (s.updBerth q b f).heart = s.heart := rfl
@[simp] theorem updBerth_marks (q : QuayId) (b : BerthId) (f : Berth → Berth) : (s.updBerth q b f).marks = s.marks := rfl
@[simp] theorem updBerth_queues (q : QuayId) (b : BerthId) (f : Berth → Berth) : (s.updBerth q b f).queues = s.queues := rfl
@[simp] theorem updBerth_flags (q : QuayId) (b : BerthId) (f : Berth → Berth) : (s.updBerth q b f).flags = s.flags := rfl
@[simp] theorem updBerth_ctxs (q : QuayId) (b : BerthId) (f : Berth → Berth) : (s.updBerth q b f).ctxs = s.ctxs := rfl
@[simp] theorem updBerth_flights (q : QuayId) (b : BerthId) (f : Berth → Berth) : (s.updBerth q b f).flights = s.flights := rfl
@[simp] theorem updBerth_sched (q : QuayId) (b : BerthId) (f : Berth → Berth) : (s.updBerth q b f).sched = s.sched := rfl
@[simp] theorem updBerth_manifest (q : QuayId) (b : BerthId) (f : Berth → Berth) : (s.updBerth q b f).manifest = s.manifest := rfl
@[simp] theorem updBerth_quays (q : QuayId) (b : BerthId) (f : Berth → Berth) :
    (s.updBerth q b f).quays = updAt s.quays q fun y => { y with berths := updAt y.berths b f } := rfl
@[simp] theorem updBerth_mem (q : QuayId) (b : BerthId) (f : Berth → Berth) : (s.updBerth q b f).mem = s.mem := rfl
@[simp] theorem updBerth_harbour (q : QuayId) (b : BerthId) (f : Berth → Berth) : (s.updBerth q b f).harbour = s.harbour := rfl
@[simp] theorem updBerth_memctl (q : QuayId) (b : BerthId) (f : Berth → Berth) : (s.updBerth q b f).memctl = s.memctl := rfl
@[simp] theorem updBerth_memhost (q : QuayId) (b : BerthId) (f : Berth → Berth) : (s.updBerth q b f).memhost = s.memhost := rfl
@[simp] theorem updBerth_portErrs (q : QuayId) (b : BerthId) (f : Berth → Berth) : (s.updBerth q b f).portErrs = s.portErrs := rfl
@[simp] theorem updBerth_ports (q : QuayId) (b : BerthId) (f : Berth → Berth) : (s.updBerth q b f).ports = s.ports := rfl
@[simp] theorem updBerth_streams (q : QuayId) (b : BerthId) (f : Berth → Berth) : (s.updBerth q b f).streams = s.streams := rfl
@[simp] theorem updBerth_blanks (q : QuayId) (b : BerthId) (f : Berth → Berth) : (s.updBerth q b f).blanks = s.blanks := rfl
@[simp] theorem updBerth_trigs (q : QuayId) (b : BerthId) (f : Berth → Berth) : (s.updBerth q b f).trigs = s.trigs := rfl
@[simp] theorem updBerth_sessions (q : QuayId) (b : BerthId) (f : Berth → Berth) : (s.updBerth q b f).sessions = s.sessions := rfl
@[simp] theorem updBerth_codecs (q : QuayId) (b : BerthId) (f : Berth → Berth) : (s.updBerth q b f).codecs = s.codecs := rfl
@[simp] theorem updBerth_deckFaults (q : QuayId) (b : BerthId) (f : Berth → Berth) : (s.updBerth q b f).deckFaults = s.deckFaults := rfl
@[simp] theorem updBerth_deckOwner (q : QuayId) (b : BerthId) (f : Berth → Berth) : (s.updBerth q b f).deckOwner = s.deckOwner := rfl
@[simp] theorem updBerth_deckReduced (q : QuayId) (b : BerthId) (f : Berth → Berth) : (s.updBerth q b f).deckReduced = s.deckReduced := rfl
@[simp] theorem updBerth_tide (q : QuayId) (b : BerthId) (f : Berth → Berth) : (s.updBerth q b f).tide = s.tide := rfl
@[simp] theorem updBerth_recorder (q : QuayId) (b : BerthId) (f : Berth → Berth) : (s.updBerth q b f).recorder = s.recorder := rfl
@[simp] theorem updBerth_power (q : QuayId) (b : BerthId) (f : Berth → Berth) : (s.updBerth q b f).power = s.power := rfl
@[simp] theorem updBerth_keep (q : QuayId) (b : BerthId) (f : Berth → Berth) : (s.updBerth q b f).keep = s.keep := rfl
@[simp] theorem updBerth_faults (q : QuayId) (b : BerthId) (f : Berth → Berth) : (s.updBerth q b f).faults = s.faults := rfl
@[simp] theorem updBerth_lighthouse (q : QuayId) (b : BerthId) (f : Berth → Berth) : (s.updBerth q b f).lighthouse = s.lighthouse := rfl
@[simp] theorem updBerth_seeds (q : QuayId) (b : BerthId) (f : Berth → Berth) : (s.updBerth q b f).seeds = s.seeds := rfl
@[simp] theorem updBerth_freeCount (q : QuayId) (b : BerthId) (f : Berth → Berth) : (s.updBerth q b f).freeCount = s.freeCount := rfl
@[simp] theorem updBerth_outbox (q : QuayId) (b : BerthId) (f : Berth → Berth) : (s.updBerth q b f).outbox = s.outbox := rfl
@[simp] theorem updBerth_pending (q : QuayId) (b : BerthId) (f : Berth → Berth) : (s.updBerth q b f).pending = s.pending := rfl

@[simp] theorem updPort_part (p : PortId) (f : Port → Port) : (s.updPort p f).part = s.part := rfl
@[simp] theorem updPort_secure (p : PortId) (f : Port → Port) : (s.updPort p f).secure = s.secure := rfl
@[simp] theorem updPort_boot (p : PortId) (f : Port → Port) : (s.updPort p f).boot = s.boot := rfl
@[simp] theorem updPort_env (p : PortId) (f : Port → Port) : (s.updPort p f).env = s.env := rfl
@[simp] theorem updPort_cfg (p : PortId) (f : Port → Port) : (s.updPort p f).cfg = s.cfg := rfl
@[simp] theorem updPort_aer (p : PortId) (f : Port → Port) : (s.updPort p f).aer = s.aer := rfl
@[simp] theorem updPort_hostif (p : PortId) (f : Port → Port) : (s.updPort p f).hostif = s.hostif := rfl
@[simp] theorem updPort_ltr (p : PortId) (f : Port → Port) : (s.updPort p f).ltr = s.ltr := rfl
@[simp] theorem updPort_ready (p : PortId) (f : Port → Port) : (s.updPort p f).ready = s.ready := rfl
@[simp] theorem updPort_fwif (p : PortId) (f : Port → Port) : (s.updPort p f).fwif = s.fwif := rfl
@[simp] theorem updPort_heart (p : PortId) (f : Port → Port) : (s.updPort p f).heart = s.heart := rfl
@[simp] theorem updPort_marks (p : PortId) (f : Port → Port) : (s.updPort p f).marks = s.marks := rfl
@[simp] theorem updPort_queues (p : PortId) (f : Port → Port) : (s.updPort p f).queues = s.queues := rfl
@[simp] theorem updPort_flags (p : PortId) (f : Port → Port) : (s.updPort p f).flags = s.flags := rfl
@[simp] theorem updPort_ctxs (p : PortId) (f : Port → Port) : (s.updPort p f).ctxs = s.ctxs := rfl
@[simp] theorem updPort_flights (p : PortId) (f : Port → Port) : (s.updPort p f).flights = s.flights := rfl
@[simp] theorem updPort_sched (p : PortId) (f : Port → Port) : (s.updPort p f).sched = s.sched := rfl
@[simp] theorem updPort_manifest (p : PortId) (f : Port → Port) : (s.updPort p f).manifest = s.manifest := rfl
@[simp] theorem updPort_quays (p : PortId) (f : Port → Port) : (s.updPort p f).quays = s.quays := rfl
@[simp] theorem updPort_mem (p : PortId) (f : Port → Port) : (s.updPort p f).mem = s.mem := rfl
@[simp] theorem updPort_harbour (p : PortId) (f : Port → Port) : (s.updPort p f).harbour = s.harbour := rfl
@[simp] theorem updPort_memctl (p : PortId) (f : Port → Port) : (s.updPort p f).memctl = s.memctl := rfl
@[simp] theorem updPort_memhost (p : PortId) (f : Port → Port) : (s.updPort p f).memhost = s.memhost := rfl
@[simp] theorem updPort_portErrs (p : PortId) (f : Port → Port) : (s.updPort p f).portErrs = s.portErrs := rfl
@[simp] theorem updPort_ports (p : PortId) (f : Port → Port) :
    (s.updPort p f).ports = updAt s.ports p f := rfl
@[simp] theorem updPort_streams (p : PortId) (f : Port → Port) : (s.updPort p f).streams = s.streams := rfl
@[simp] theorem updPort_blanks (p : PortId) (f : Port → Port) : (s.updPort p f).blanks = s.blanks := rfl
@[simp] theorem updPort_trigs (p : PortId) (f : Port → Port) : (s.updPort p f).trigs = s.trigs := rfl
@[simp] theorem updPort_sessions (p : PortId) (f : Port → Port) : (s.updPort p f).sessions = s.sessions := rfl
@[simp] theorem updPort_codecs (p : PortId) (f : Port → Port) : (s.updPort p f).codecs = s.codecs := rfl
@[simp] theorem updPort_deckFaults (p : PortId) (f : Port → Port) : (s.updPort p f).deckFaults = s.deckFaults := rfl
@[simp] theorem updPort_deckOwner (p : PortId) (f : Port → Port) : (s.updPort p f).deckOwner = s.deckOwner := rfl
@[simp] theorem updPort_deckReduced (p : PortId) (f : Port → Port) : (s.updPort p f).deckReduced = s.deckReduced := rfl
@[simp] theorem updPort_tide (p : PortId) (f : Port → Port) : (s.updPort p f).tide = s.tide := rfl
@[simp] theorem updPort_recorder (p : PortId) (f : Port → Port) : (s.updPort p f).recorder = s.recorder := rfl
@[simp] theorem updPort_power (p : PortId) (f : Port → Port) : (s.updPort p f).power = s.power := rfl
@[simp] theorem updPort_keep (p : PortId) (f : Port → Port) : (s.updPort p f).keep = s.keep := rfl
@[simp] theorem updPort_faults (p : PortId) (f : Port → Port) : (s.updPort p f).faults = s.faults := rfl
@[simp] theorem updPort_lighthouse (p : PortId) (f : Port → Port) : (s.updPort p f).lighthouse = s.lighthouse := rfl
@[simp] theorem updPort_seeds (p : PortId) (f : Port → Port) : (s.updPort p f).seeds = s.seeds := rfl
@[simp] theorem updPort_freeCount (p : PortId) (f : Port → Port) : (s.updPort p f).freeCount = s.freeCount := rfl
@[simp] theorem updPort_outbox (p : PortId) (f : Port → Port) : (s.updPort p f).outbox = s.outbox := rfl
@[simp] theorem updPort_pending (p : PortId) (f : Port → Port) : (s.updPort p f).pending = s.pending := rfl

@[simp] theorem updStream_part (i : SctxId) (f : Stream → Stream) : (s.updStream i f).part = s.part := rfl
@[simp] theorem updStream_secure (i : SctxId) (f : Stream → Stream) : (s.updStream i f).secure = s.secure := rfl
@[simp] theorem updStream_boot (i : SctxId) (f : Stream → Stream) : (s.updStream i f).boot = s.boot := rfl
@[simp] theorem updStream_env (i : SctxId) (f : Stream → Stream) : (s.updStream i f).env = s.env := rfl
@[simp] theorem updStream_cfg (i : SctxId) (f : Stream → Stream) : (s.updStream i f).cfg = s.cfg := rfl
@[simp] theorem updStream_aer (i : SctxId) (f : Stream → Stream) : (s.updStream i f).aer = s.aer := rfl
@[simp] theorem updStream_hostif (i : SctxId) (f : Stream → Stream) : (s.updStream i f).hostif = s.hostif := rfl
@[simp] theorem updStream_ltr (i : SctxId) (f : Stream → Stream) : (s.updStream i f).ltr = s.ltr := rfl
@[simp] theorem updStream_ready (i : SctxId) (f : Stream → Stream) : (s.updStream i f).ready = s.ready := rfl
@[simp] theorem updStream_fwif (i : SctxId) (f : Stream → Stream) : (s.updStream i f).fwif = s.fwif := rfl
@[simp] theorem updStream_heart (i : SctxId) (f : Stream → Stream) : (s.updStream i f).heart = s.heart := rfl
@[simp] theorem updStream_marks (i : SctxId) (f : Stream → Stream) : (s.updStream i f).marks = s.marks := rfl
@[simp] theorem updStream_queues (i : SctxId) (f : Stream → Stream) : (s.updStream i f).queues = s.queues := rfl
@[simp] theorem updStream_flags (i : SctxId) (f : Stream → Stream) : (s.updStream i f).flags = s.flags := rfl
@[simp] theorem updStream_ctxs (i : SctxId) (f : Stream → Stream) : (s.updStream i f).ctxs = s.ctxs := rfl
@[simp] theorem updStream_flights (i : SctxId) (f : Stream → Stream) : (s.updStream i f).flights = s.flights := rfl
@[simp] theorem updStream_sched (i : SctxId) (f : Stream → Stream) : (s.updStream i f).sched = s.sched := rfl
@[simp] theorem updStream_manifest (i : SctxId) (f : Stream → Stream) : (s.updStream i f).manifest = s.manifest := rfl
@[simp] theorem updStream_quays (i : SctxId) (f : Stream → Stream) : (s.updStream i f).quays = s.quays := rfl
@[simp] theorem updStream_mem (i : SctxId) (f : Stream → Stream) : (s.updStream i f).mem = s.mem := rfl
@[simp] theorem updStream_harbour (i : SctxId) (f : Stream → Stream) : (s.updStream i f).harbour = s.harbour := rfl
@[simp] theorem updStream_memctl (i : SctxId) (f : Stream → Stream) : (s.updStream i f).memctl = s.memctl := rfl
@[simp] theorem updStream_memhost (i : SctxId) (f : Stream → Stream) : (s.updStream i f).memhost = s.memhost := rfl
@[simp] theorem updStream_portErrs (i : SctxId) (f : Stream → Stream) : (s.updStream i f).portErrs = s.portErrs := rfl
@[simp] theorem updStream_ports (i : SctxId) (f : Stream → Stream) : (s.updStream i f).ports = s.ports := rfl
@[simp] theorem updStream_streams (i : SctxId) (f : Stream → Stream) :
    (s.updStream i f).streams = updAt s.streams i f := rfl
@[simp] theorem updStream_blanks (i : SctxId) (f : Stream → Stream) : (s.updStream i f).blanks = s.blanks := rfl
@[simp] theorem updStream_trigs (i : SctxId) (f : Stream → Stream) : (s.updStream i f).trigs = s.trigs := rfl
@[simp] theorem updStream_sessions (i : SctxId) (f : Stream → Stream) : (s.updStream i f).sessions = s.sessions := rfl
@[simp] theorem updStream_codecs (i : SctxId) (f : Stream → Stream) : (s.updStream i f).codecs = s.codecs := rfl
@[simp] theorem updStream_deckFaults (i : SctxId) (f : Stream → Stream) : (s.updStream i f).deckFaults = s.deckFaults := rfl
@[simp] theorem updStream_deckOwner (i : SctxId) (f : Stream → Stream) : (s.updStream i f).deckOwner = s.deckOwner := rfl
@[simp] theorem updStream_deckReduced (i : SctxId) (f : Stream → Stream) : (s.updStream i f).deckReduced = s.deckReduced := rfl
@[simp] theorem updStream_tide (i : SctxId) (f : Stream → Stream) : (s.updStream i f).tide = s.tide := rfl
@[simp] theorem updStream_recorder (i : SctxId) (f : Stream → Stream) : (s.updStream i f).recorder = s.recorder := rfl
@[simp] theorem updStream_power (i : SctxId) (f : Stream → Stream) : (s.updStream i f).power = s.power := rfl
@[simp] theorem updStream_keep (i : SctxId) (f : Stream → Stream) : (s.updStream i f).keep = s.keep := rfl
@[simp] theorem updStream_faults (i : SctxId) (f : Stream → Stream) : (s.updStream i f).faults = s.faults := rfl
@[simp] theorem updStream_lighthouse (i : SctxId) (f : Stream → Stream) : (s.updStream i f).lighthouse = s.lighthouse := rfl
@[simp] theorem updStream_seeds (i : SctxId) (f : Stream → Stream) : (s.updStream i f).seeds = s.seeds := rfl
@[simp] theorem updStream_freeCount (i : SctxId) (f : Stream → Stream) : (s.updStream i f).freeCount = s.freeCount := rfl
@[simp] theorem updStream_outbox (i : SctxId) (f : Stream → Stream) : (s.updStream i f).outbox = s.outbox := rfl
@[simp] theorem updStream_pending (i : SctxId) (f : Stream → Stream) : (s.updStream i f).pending = s.pending := rfl

@[simp] theorem updSession_part (i : SessId) (f : Session → Session) : (s.updSession i f).part = s.part := rfl
@[simp] theorem updSession_secure (i : SessId) (f : Session → Session) : (s.updSession i f).secure = s.secure := rfl
@[simp] theorem updSession_boot (i : SessId) (f : Session → Session) : (s.updSession i f).boot = s.boot := rfl
@[simp] theorem updSession_env (i : SessId) (f : Session → Session) : (s.updSession i f).env = s.env := rfl
@[simp] theorem updSession_cfg (i : SessId) (f : Session → Session) : (s.updSession i f).cfg = s.cfg := rfl
@[simp] theorem updSession_aer (i : SessId) (f : Session → Session) : (s.updSession i f).aer = s.aer := rfl
@[simp] theorem updSession_hostif (i : SessId) (f : Session → Session) : (s.updSession i f).hostif = s.hostif := rfl
@[simp] theorem updSession_ltr (i : SessId) (f : Session → Session) : (s.updSession i f).ltr = s.ltr := rfl
@[simp] theorem updSession_ready (i : SessId) (f : Session → Session) : (s.updSession i f).ready = s.ready := rfl
@[simp] theorem updSession_fwif (i : SessId) (f : Session → Session) : (s.updSession i f).fwif = s.fwif := rfl
@[simp] theorem updSession_heart (i : SessId) (f : Session → Session) : (s.updSession i f).heart = s.heart := rfl
@[simp] theorem updSession_marks (i : SessId) (f : Session → Session) : (s.updSession i f).marks = s.marks := rfl
@[simp] theorem updSession_queues (i : SessId) (f : Session → Session) : (s.updSession i f).queues = s.queues := rfl
@[simp] theorem updSession_flags (i : SessId) (f : Session → Session) : (s.updSession i f).flags = s.flags := rfl
@[simp] theorem updSession_ctxs (i : SessId) (f : Session → Session) : (s.updSession i f).ctxs = s.ctxs := rfl
@[simp] theorem updSession_flights (i : SessId) (f : Session → Session) : (s.updSession i f).flights = s.flights := rfl
@[simp] theorem updSession_sched (i : SessId) (f : Session → Session) : (s.updSession i f).sched = s.sched := rfl
@[simp] theorem updSession_manifest (i : SessId) (f : Session → Session) : (s.updSession i f).manifest = s.manifest := rfl
@[simp] theorem updSession_quays (i : SessId) (f : Session → Session) : (s.updSession i f).quays = s.quays := rfl
@[simp] theorem updSession_mem (i : SessId) (f : Session → Session) : (s.updSession i f).mem = s.mem := rfl
@[simp] theorem updSession_harbour (i : SessId) (f : Session → Session) : (s.updSession i f).harbour = s.harbour := rfl
@[simp] theorem updSession_memctl (i : SessId) (f : Session → Session) : (s.updSession i f).memctl = s.memctl := rfl
@[simp] theorem updSession_memhost (i : SessId) (f : Session → Session) : (s.updSession i f).memhost = s.memhost := rfl
@[simp] theorem updSession_portErrs (i : SessId) (f : Session → Session) : (s.updSession i f).portErrs = s.portErrs := rfl
@[simp] theorem updSession_ports (i : SessId) (f : Session → Session) : (s.updSession i f).ports = s.ports := rfl
@[simp] theorem updSession_streams (i : SessId) (f : Session → Session) : (s.updSession i f).streams = s.streams := rfl
@[simp] theorem updSession_blanks (i : SessId) (f : Session → Session) : (s.updSession i f).blanks = s.blanks := rfl
@[simp] theorem updSession_trigs (i : SessId) (f : Session → Session) : (s.updSession i f).trigs = s.trigs := rfl
@[simp] theorem updSession_sessions (i : SessId) (f : Session → Session) :
    (s.updSession i f).sessions = updAt s.sessions i f := rfl
@[simp] theorem updSession_codecs (i : SessId) (f : Session → Session) : (s.updSession i f).codecs = s.codecs := rfl
@[simp] theorem updSession_deckFaults (i : SessId) (f : Session → Session) : (s.updSession i f).deckFaults = s.deckFaults := rfl
@[simp] theorem updSession_deckOwner (i : SessId) (f : Session → Session) : (s.updSession i f).deckOwner = s.deckOwner := rfl
@[simp] theorem updSession_deckReduced (i : SessId) (f : Session → Session) : (s.updSession i f).deckReduced = s.deckReduced := rfl
@[simp] theorem updSession_tide (i : SessId) (f : Session → Session) : (s.updSession i f).tide = s.tide := rfl
@[simp] theorem updSession_recorder (i : SessId) (f : Session → Session) : (s.updSession i f).recorder = s.recorder := rfl
@[simp] theorem updSession_power (i : SessId) (f : Session → Session) : (s.updSession i f).power = s.power := rfl
@[simp] theorem updSession_keep (i : SessId) (f : Session → Session) : (s.updSession i f).keep = s.keep := rfl
@[simp] theorem updSession_faults (i : SessId) (f : Session → Session) : (s.updSession i f).faults = s.faults := rfl
@[simp] theorem updSession_lighthouse (i : SessId) (f : Session → Session) : (s.updSession i f).lighthouse = s.lighthouse := rfl
@[simp] theorem updSession_seeds (i : SessId) (f : Session → Session) : (s.updSession i f).seeds = s.seeds := rfl
@[simp] theorem updSession_freeCount (i : SessId) (f : Session → Session) : (s.updSession i f).freeCount = s.freeCount := rfl
@[simp] theorem updSession_outbox (i : SessId) (f : Session → Session) : (s.updSession i f).outbox = s.outbox := rfl
@[simp] theorem updSession_pending (i : SessId) (f : Session → Session) : (s.updSession i f).pending = s.pending := rfl

@[simp] theorem updChan_part (c : ChanId) (f : Channel → Channel) : (s.updChan c f).part = s.part := rfl
@[simp] theorem updChan_secure (c : ChanId) (f : Channel → Channel) : (s.updChan c f).secure = s.secure := rfl
@[simp] theorem updChan_boot (c : ChanId) (f : Channel → Channel) : (s.updChan c f).boot = s.boot := rfl
@[simp] theorem updChan_env (c : ChanId) (f : Channel → Channel) : (s.updChan c f).env = s.env := rfl
@[simp] theorem updChan_cfg (c : ChanId) (f : Channel → Channel) : (s.updChan c f).cfg = s.cfg := rfl
@[simp] theorem updChan_aer (c : ChanId) (f : Channel → Channel) : (s.updChan c f).aer = s.aer := rfl
@[simp] theorem updChan_hostif (c : ChanId) (f : Channel → Channel) : (s.updChan c f).hostif = s.hostif := rfl
@[simp] theorem updChan_ltr (c : ChanId) (f : Channel → Channel) : (s.updChan c f).ltr = s.ltr := rfl
@[simp] theorem updChan_ready (c : ChanId) (f : Channel → Channel) : (s.updChan c f).ready = s.ready := rfl
@[simp] theorem updChan_fwif (c : ChanId) (f : Channel → Channel) : (s.updChan c f).fwif = s.fwif := rfl
@[simp] theorem updChan_heart (c : ChanId) (f : Channel → Channel) : (s.updChan c f).heart = s.heart := rfl
@[simp] theorem updChan_marks (c : ChanId) (f : Channel → Channel) : (s.updChan c f).marks = s.marks := rfl
@[simp] theorem updChan_queues (c : ChanId) (f : Channel → Channel) : (s.updChan c f).queues = s.queues := rfl
@[simp] theorem updChan_flags (c : ChanId) (f : Channel → Channel) : (s.updChan c f).flags = s.flags := rfl
@[simp] theorem updChan_ctxs (c : ChanId) (f : Channel → Channel) : (s.updChan c f).ctxs = s.ctxs := rfl
@[simp] theorem updChan_flights (c : ChanId) (f : Channel → Channel) : (s.updChan c f).flights = s.flights := rfl
@[simp] theorem updChan_sched (c : ChanId) (f : Channel → Channel) : (s.updChan c f).sched = s.sched := rfl
@[simp] theorem updChan_manifest (c : ChanId) (f : Channel → Channel) : (s.updChan c f).manifest = s.manifest := rfl
@[simp] theorem updChan_quays (c : ChanId) (f : Channel → Channel) : (s.updChan c f).quays = s.quays := rfl
@[simp] theorem updChan_mem (c : ChanId) (f : Channel → Channel) : (s.updChan c f).mem = s.mem := rfl
@[simp] theorem updChan_harbour (c : ChanId) (f : Channel → Channel) : (s.updChan c f).harbour = s.harbour := rfl
@[simp] theorem updChan_memctl (c : ChanId) (f : Channel → Channel) :
    (s.updChan c f).memctl = { s.memctl with chans := updAt s.memctl.chans c f } := rfl
@[simp] theorem updChan_memhost (c : ChanId) (f : Channel → Channel) : (s.updChan c f).memhost = s.memhost := rfl
@[simp] theorem updChan_portErrs (c : ChanId) (f : Channel → Channel) : (s.updChan c f).portErrs = s.portErrs := rfl
@[simp] theorem updChan_ports (c : ChanId) (f : Channel → Channel) : (s.updChan c f).ports = s.ports := rfl
@[simp] theorem updChan_streams (c : ChanId) (f : Channel → Channel) : (s.updChan c f).streams = s.streams := rfl
@[simp] theorem updChan_blanks (c : ChanId) (f : Channel → Channel) : (s.updChan c f).blanks = s.blanks := rfl
@[simp] theorem updChan_trigs (c : ChanId) (f : Channel → Channel) : (s.updChan c f).trigs = s.trigs := rfl
@[simp] theorem updChan_sessions (c : ChanId) (f : Channel → Channel) : (s.updChan c f).sessions = s.sessions := rfl
@[simp] theorem updChan_codecs (c : ChanId) (f : Channel → Channel) : (s.updChan c f).codecs = s.codecs := rfl
@[simp] theorem updChan_deckFaults (c : ChanId) (f : Channel → Channel) : (s.updChan c f).deckFaults = s.deckFaults := rfl
@[simp] theorem updChan_deckOwner (c : ChanId) (f : Channel → Channel) : (s.updChan c f).deckOwner = s.deckOwner := rfl
@[simp] theorem updChan_deckReduced (c : ChanId) (f : Channel → Channel) : (s.updChan c f).deckReduced = s.deckReduced := rfl
@[simp] theorem updChan_tide (c : ChanId) (f : Channel → Channel) : (s.updChan c f).tide = s.tide := rfl
@[simp] theorem updChan_recorder (c : ChanId) (f : Channel → Channel) : (s.updChan c f).recorder = s.recorder := rfl
@[simp] theorem updChan_power (c : ChanId) (f : Channel → Channel) : (s.updChan c f).power = s.power := rfl
@[simp] theorem updChan_keep (c : ChanId) (f : Channel → Channel) : (s.updChan c f).keep = s.keep := rfl
@[simp] theorem updChan_faults (c : ChanId) (f : Channel → Channel) : (s.updChan c f).faults = s.faults := rfl
@[simp] theorem updChan_lighthouse (c : ChanId) (f : Channel → Channel) : (s.updChan c f).lighthouse = s.lighthouse := rfl
@[simp] theorem updChan_seeds (c : ChanId) (f : Channel → Channel) : (s.updChan c f).seeds = s.seeds := rfl
@[simp] theorem updChan_freeCount (c : ChanId) (f : Channel → Channel) : (s.updChan c f).freeCount = s.freeCount := rfl
@[simp] theorem updChan_outbox (c : ChanId) (f : Channel → Channel) : (s.updChan c f).outbox = s.outbox := rfl
@[simp] theorem updChan_pending (c : ChanId) (f : Channel → Channel) : (s.updChan c f).pending = s.pending := rfl

@[simp] theorem updMem_part (f : Memory → Memory) : (s.updMem f).part = s.part := rfl
@[simp] theorem updMem_secure (f : Memory → Memory) : (s.updMem f).secure = s.secure := rfl
@[simp] theorem updMem_boot (f : Memory → Memory) : (s.updMem f).boot = s.boot := rfl
@[simp] theorem updMem_env (f : Memory → Memory) : (s.updMem f).env = s.env := rfl
@[simp] theorem updMem_cfg (f : Memory → Memory) : (s.updMem f).cfg = s.cfg := rfl
@[simp] theorem updMem_aer (f : Memory → Memory) : (s.updMem f).aer = s.aer := rfl
@[simp] theorem updMem_hostif (f : Memory → Memory) : (s.updMem f).hostif = s.hostif := rfl
@[simp] theorem updMem_ltr (f : Memory → Memory) : (s.updMem f).ltr = s.ltr := rfl
@[simp] theorem updMem_ready (f : Memory → Memory) : (s.updMem f).ready = s.ready := rfl
@[simp] theorem updMem_fwif (f : Memory → Memory) : (s.updMem f).fwif = s.fwif := rfl
@[simp] theorem updMem_heart (f : Memory → Memory) : (s.updMem f).heart = s.heart := rfl
@[simp] theorem updMem_marks (f : Memory → Memory) : (s.updMem f).marks = s.marks := rfl
@[simp] theorem updMem_queues (f : Memory → Memory) : (s.updMem f).queues = s.queues := rfl
@[simp] theorem updMem_flags (f : Memory → Memory) : (s.updMem f).flags = s.flags := rfl
@[simp] theorem updMem_ctxs (f : Memory → Memory) : (s.updMem f).ctxs = s.ctxs := rfl
@[simp] theorem updMem_flights (f : Memory → Memory) : (s.updMem f).flights = s.flights := rfl
@[simp] theorem updMem_sched (f : Memory → Memory) : (s.updMem f).sched = s.sched := rfl
@[simp] theorem updMem_manifest (f : Memory → Memory) : (s.updMem f).manifest = s.manifest := rfl
@[simp] theorem updMem_quays (f : Memory → Memory) : (s.updMem f).quays = s.quays := rfl
@[simp] theorem updMem_mem (f : Memory → Memory) :
    (s.updMem f).mem = f s.mem := rfl
@[simp] theorem updMem_harbour (f : Memory → Memory) : (s.updMem f).harbour = s.harbour := rfl
@[simp] theorem updMem_memctl (f : Memory → Memory) : (s.updMem f).memctl = s.memctl := rfl
@[simp] theorem updMem_memhost (f : Memory → Memory) : (s.updMem f).memhost = s.memhost := rfl
@[simp] theorem updMem_portErrs (f : Memory → Memory) : (s.updMem f).portErrs = s.portErrs := rfl
@[simp] theorem updMem_ports (f : Memory → Memory) : (s.updMem f).ports = s.ports := rfl
@[simp] theorem updMem_streams (f : Memory → Memory) : (s.updMem f).streams = s.streams := rfl
@[simp] theorem updMem_blanks (f : Memory → Memory) : (s.updMem f).blanks = s.blanks := rfl
@[simp] theorem updMem_trigs (f : Memory → Memory) : (s.updMem f).trigs = s.trigs := rfl
@[simp] theorem updMem_sessions (f : Memory → Memory) : (s.updMem f).sessions = s.sessions := rfl
@[simp] theorem updMem_codecs (f : Memory → Memory) : (s.updMem f).codecs = s.codecs := rfl
@[simp] theorem updMem_deckFaults (f : Memory → Memory) : (s.updMem f).deckFaults = s.deckFaults := rfl
@[simp] theorem updMem_deckOwner (f : Memory → Memory) : (s.updMem f).deckOwner = s.deckOwner := rfl
@[simp] theorem updMem_deckReduced (f : Memory → Memory) : (s.updMem f).deckReduced = s.deckReduced := rfl
@[simp] theorem updMem_tide (f : Memory → Memory) : (s.updMem f).tide = s.tide := rfl
@[simp] theorem updMem_recorder (f : Memory → Memory) : (s.updMem f).recorder = s.recorder := rfl
@[simp] theorem updMem_power (f : Memory → Memory) : (s.updMem f).power = s.power := rfl
@[simp] theorem updMem_keep (f : Memory → Memory) : (s.updMem f).keep = s.keep := rfl
@[simp] theorem updMem_faults (f : Memory → Memory) : (s.updMem f).faults = s.faults := rfl
@[simp] theorem updMem_lighthouse (f : Memory → Memory) : (s.updMem f).lighthouse = s.lighthouse := rfl
@[simp] theorem updMem_seeds (f : Memory → Memory) : (s.updMem f).seeds = s.seeds := rfl
@[simp] theorem updMem_freeCount (f : Memory → Memory) : (s.updMem f).freeCount = s.freeCount := rfl
@[simp] theorem updMem_outbox (f : Memory → Memory) : (s.updMem f).outbox = s.outbox := rfl
@[simp] theorem updMem_pending (f : Memory → Memory) : (s.updMem f).pending = s.pending := rfl

@[simp] theorem send_part (m : Message) : (s.send m).part = s.part := rfl
@[simp] theorem send_secure (m : Message) : (s.send m).secure = s.secure := rfl
@[simp] theorem send_boot (m : Message) : (s.send m).boot = s.boot := rfl
@[simp] theorem send_env (m : Message) : (s.send m).env = s.env := rfl
@[simp] theorem send_cfg (m : Message) : (s.send m).cfg = s.cfg := rfl
@[simp] theorem send_aer (m : Message) : (s.send m).aer = s.aer := rfl
@[simp] theorem send_hostif (m : Message) : (s.send m).hostif = s.hostif := rfl
@[simp] theorem send_ltr (m : Message) : (s.send m).ltr = s.ltr := rfl
@[simp] theorem send_ready (m : Message) : (s.send m).ready = s.ready := rfl
@[simp] theorem send_fwif (m : Message) : (s.send m).fwif = s.fwif := rfl
@[simp] theorem send_heart (m : Message) : (s.send m).heart = s.heart := rfl
@[simp] theorem send_marks (m : Message) : (s.send m).marks = s.marks := rfl
@[simp] theorem send_queues (m : Message) : (s.send m).queues = s.queues := rfl
@[simp] theorem send_flags (m : Message) : (s.send m).flags = s.flags := rfl
@[simp] theorem send_ctxs (m : Message) : (s.send m).ctxs = s.ctxs := rfl
@[simp] theorem send_flights (m : Message) : (s.send m).flights = s.flights := rfl
@[simp] theorem send_sched (m : Message) : (s.send m).sched = s.sched := rfl
@[simp] theorem send_manifest (m : Message) : (s.send m).manifest = s.manifest := rfl
@[simp] theorem send_quays (m : Message) : (s.send m).quays = s.quays := rfl
@[simp] theorem send_mem (m : Message) : (s.send m).mem = s.mem := rfl
@[simp] theorem send_harbour (m : Message) : (s.send m).harbour = s.harbour := rfl
@[simp] theorem send_memctl (m : Message) : (s.send m).memctl = s.memctl := rfl
@[simp] theorem send_memhost (m : Message) : (s.send m).memhost = s.memhost := rfl
@[simp] theorem send_portErrs (m : Message) : (s.send m).portErrs = s.portErrs := rfl
@[simp] theorem send_ports (m : Message) : (s.send m).ports = s.ports := rfl
@[simp] theorem send_streams (m : Message) : (s.send m).streams = s.streams := rfl
@[simp] theorem send_blanks (m : Message) : (s.send m).blanks = s.blanks := rfl
@[simp] theorem send_trigs (m : Message) : (s.send m).trigs = s.trigs := rfl
@[simp] theorem send_sessions (m : Message) : (s.send m).sessions = s.sessions := rfl
@[simp] theorem send_codecs (m : Message) : (s.send m).codecs = s.codecs := rfl
@[simp] theorem send_deckFaults (m : Message) : (s.send m).deckFaults = s.deckFaults := rfl
@[simp] theorem send_deckOwner (m : Message) : (s.send m).deckOwner = s.deckOwner := rfl
@[simp] theorem send_deckReduced (m : Message) : (s.send m).deckReduced = s.deckReduced := rfl
@[simp] theorem send_tide (m : Message) : (s.send m).tide = s.tide := rfl
@[simp] theorem send_recorder (m : Message) : (s.send m).recorder = s.recorder := rfl
@[simp] theorem send_power (m : Message) : (s.send m).power = s.power := rfl
@[simp] theorem send_keep (m : Message) : (s.send m).keep = s.keep := rfl
@[simp] theorem send_faults (m : Message) : (s.send m).faults = s.faults := rfl
@[simp] theorem send_lighthouse (m : Message) : (s.send m).lighthouse = s.lighthouse := rfl
@[simp] theorem send_seeds (m : Message) : (s.send m).seeds = s.seeds := rfl
@[simp] theorem send_freeCount (m : Message) : (s.send m).freeCount = s.freeCount := rfl
@[simp] theorem send_outbox (m : Message) :
    (s.send m).outbox = s.outbox ++ [m] := rfl
@[simp] theorem send_pending (m : Message) : (s.send m).pending = s.pending := rfl

@[simp] theorem putFlag_part (f : FlagId) (v : Word) : (s.putFlag f v).part = s.part := rfl
@[simp] theorem putFlag_secure (f : FlagId) (v : Word) : (s.putFlag f v).secure = s.secure := rfl
@[simp] theorem putFlag_boot (f : FlagId) (v : Word) : (s.putFlag f v).boot = s.boot := rfl
@[simp] theorem putFlag_env (f : FlagId) (v : Word) : (s.putFlag f v).env = s.env := rfl
@[simp] theorem putFlag_cfg (f : FlagId) (v : Word) : (s.putFlag f v).cfg = s.cfg := rfl
@[simp] theorem putFlag_aer (f : FlagId) (v : Word) : (s.putFlag f v).aer = s.aer := rfl
@[simp] theorem putFlag_hostif (f : FlagId) (v : Word) : (s.putFlag f v).hostif = s.hostif := rfl
@[simp] theorem putFlag_ltr (f : FlagId) (v : Word) : (s.putFlag f v).ltr = s.ltr := rfl
@[simp] theorem putFlag_ready (f : FlagId) (v : Word) : (s.putFlag f v).ready = s.ready := rfl
@[simp] theorem putFlag_fwif (f : FlagId) (v : Word) : (s.putFlag f v).fwif = s.fwif := rfl
@[simp] theorem putFlag_heart (f : FlagId) (v : Word) : (s.putFlag f v).heart = s.heart := rfl
@[simp] theorem putFlag_marks (f : FlagId) (v : Word) : (s.putFlag f v).marks = s.marks := rfl
@[simp] theorem putFlag_queues (f : FlagId) (v : Word) : (s.putFlag f v).queues = s.queues := rfl
@[simp] theorem putFlag_flags (f : FlagId) (v : Word) :
    (s.putFlag f v).flags = s.flags.set f.val v := rfl
@[simp] theorem putFlag_ctxs (f : FlagId) (v : Word) : (s.putFlag f v).ctxs = s.ctxs := rfl
@[simp] theorem putFlag_flights (f : FlagId) (v : Word) : (s.putFlag f v).flights = s.flights := rfl
@[simp] theorem putFlag_sched (f : FlagId) (v : Word) : (s.putFlag f v).sched = s.sched := rfl
@[simp] theorem putFlag_manifest (f : FlagId) (v : Word) : (s.putFlag f v).manifest = s.manifest := rfl
@[simp] theorem putFlag_quays (f : FlagId) (v : Word) : (s.putFlag f v).quays = s.quays := rfl
@[simp] theorem putFlag_mem (f : FlagId) (v : Word) : (s.putFlag f v).mem = s.mem := rfl
@[simp] theorem putFlag_harbour (f : FlagId) (v : Word) : (s.putFlag f v).harbour = s.harbour := rfl
@[simp] theorem putFlag_memctl (f : FlagId) (v : Word) : (s.putFlag f v).memctl = s.memctl := rfl
@[simp] theorem putFlag_memhost (f : FlagId) (v : Word) : (s.putFlag f v).memhost = s.memhost := rfl
@[simp] theorem putFlag_portErrs (f : FlagId) (v : Word) : (s.putFlag f v).portErrs = s.portErrs := rfl
@[simp] theorem putFlag_ports (f : FlagId) (v : Word) : (s.putFlag f v).ports = s.ports := rfl
@[simp] theorem putFlag_streams (f : FlagId) (v : Word) : (s.putFlag f v).streams = s.streams := rfl
@[simp] theorem putFlag_blanks (f : FlagId) (v : Word) : (s.putFlag f v).blanks = s.blanks := rfl
@[simp] theorem putFlag_trigs (f : FlagId) (v : Word) : (s.putFlag f v).trigs = s.trigs := rfl
@[simp] theorem putFlag_sessions (f : FlagId) (v : Word) : (s.putFlag f v).sessions = s.sessions := rfl
@[simp] theorem putFlag_codecs (f : FlagId) (v : Word) : (s.putFlag f v).codecs = s.codecs := rfl
@[simp] theorem putFlag_deckFaults (f : FlagId) (v : Word) : (s.putFlag f v).deckFaults = s.deckFaults := rfl
@[simp] theorem putFlag_deckOwner (f : FlagId) (v : Word) : (s.putFlag f v).deckOwner = s.deckOwner := rfl
@[simp] theorem putFlag_deckReduced (f : FlagId) (v : Word) : (s.putFlag f v).deckReduced = s.deckReduced := rfl
@[simp] theorem putFlag_tide (f : FlagId) (v : Word) : (s.putFlag f v).tide = s.tide := rfl
@[simp] theorem putFlag_recorder (f : FlagId) (v : Word) : (s.putFlag f v).recorder = s.recorder := rfl
@[simp] theorem putFlag_power (f : FlagId) (v : Word) : (s.putFlag f v).power = s.power := rfl
@[simp] theorem putFlag_keep (f : FlagId) (v : Word) : (s.putFlag f v).keep = s.keep := rfl
@[simp] theorem putFlag_faults (f : FlagId) (v : Word) : (s.putFlag f v).faults = s.faults := rfl
@[simp] theorem putFlag_lighthouse (f : FlagId) (v : Word) : (s.putFlag f v).lighthouse = s.lighthouse := rfl
@[simp] theorem putFlag_seeds (f : FlagId) (v : Word) : (s.putFlag f v).seeds = s.seeds := rfl
@[simp] theorem putFlag_freeCount (f : FlagId) (v : Word) : (s.putFlag f v).freeCount = s.freeCount := rfl
@[simp] theorem putFlag_outbox (f : FlagId) (v : Word) : (s.putFlag f v).outbox = s.outbox := rfl
@[simp] theorem putFlag_pending (f : FlagId) (v : Word) : (s.putFlag f v).pending = s.pending := rfl

end Machine.State

end Sys2Proof
end

