-- ==== Sys2Proof/Laws/KeepsOps.lean ====
section
/-! SUPPORT. `Keeps L r s`: from `r` to `s` only the fields `L` change, the secure store only grows, and memory
stays canonical. One lemma per operation says which fields it may change. -/

namespace Sys2Proof.Machine

theorem Secure.Grows.refl (a : Secure) : a.Grows a := by simp [Secure.Grows]
theorem Secure.Grows.trans {a b c : Secure} (h : a.Grows b) (k : b.Grows c) : a.Grows c := by
  obtain ⟨h1, h2, h3, h4, h5, h6, h7⟩ := h
  obtain ⟨k1, k2, k3, k4, k5, k6, k7⟩ := k
  exact ⟨h1.trans k1, fun x => k2 (h2 x), fun x => k3 (h3 x), fun x => k4 (h4 x), fun x => k5 (h5 x),
    k6.trans h6, fun i => (h7 i).trans (k7 i)⟩

theorem Secure.grows_tested (x : Secure) (read : List StoreItem) (bad : BadCopies) : x.Grows (x.tested read bad) :=
  ⟨Nat.le_refl _, id, id, id, id, rfl, fun _ => Nat.le_refl _⟩
theorem Secure.Grows.written {a b : Secure} (h : a.Grows b) (i : StoreItem) : a.Grows (b.written i) := h
theorem Secure.grows_map (x : Secure) (m : List RepairLoc) (i : StoreItem) :
    x.Grows ({ x with repairMap := m }.written i) := ⟨Nat.le_refl _, id, id, id, id, rfl, fun _ => Nat.le_refl _⟩
theorem le_satInc {w : Nat} (v : BitVec w) : v.toNat ≤ (satInc v).toNat := by
  unfold satInc
  split
  · exact Nat.le_refl _
  · rename_i h
    have h1 : v.toNat ≠ 2 ^ w - 1 := fun k => h (by apply BitVec.eq_of_toNat_eq; simp [k])
    have h2 : v.toNat + 1 < 2 ^ w := by have := v.isLt; omega
    rw [BitVec.toNat_add, show BitVec.toNat (1 : BitVec w) = 1 % 2 ^ w from rfl, Nat.add_mod_mod, Nat.mod_eq_of_lt h2]
    exact Nat.le_succ _
theorem Secure.grows_count (x : Secure) (n : Fin 16) (i : StoreItem) :
    x.Grows ({ x with counters := updAt x.counters n satInc }.written i) :=
  ⟨Nat.le_refl _, id, id, id, id, rfl, fun j => by
    show _ ≤ ((updAt x.counters n satInc)[j]).toNat
    rw [updAt_get]
    split
    · subst j; exact le_satInc _
    · exact Nat.le_refl _⟩

/-- The number of a field, as the lemmas below number them. -/
def Field.bit : Field → Nat
  | .part => 0
  | .secure => 1
  | .boot => 2
  | .env => 3
  | .cfg => 4
  | .aer => 5
  | .hostif => 6
  | .ltr => 7
  | .ready => 8
  | .fwif => 9
  | .heart => 10
  | .marks => 11
  | .queues => 12
  | .flags => 13
  | .ctxs => 14
  | .flights => 15
  | .sched => 16
  | .manifest => 17
  | .quays => 18
  | .mem => 19
  | .harbour => 20
  | .memctl => 21
  | .memhost => 22
  | .portErrs => 23
  | .ports => 24
  | .streams => 25
  | .blanks => 26
  | .trigs => 27
  | .sessions => 28
  | .codecs => 29
  | .deckFaults => 30
  | .deckOwner => 31
  | .deckReduced => 32
  | .tide => 33
  | .recorder => 34
  | .power => 35
  | .keep => 36
  | .faults => 37
  | .lighthouse => 38
  | .seeds => 39
  | .freeCount => 40
  | .outbox => 41
  | .pending => 42

/-- A set of fields as one number: bit `f.bit` is 1 when the field is in it. -/
def Field.mask : List Field → Nat
  | [] => 0
  | f :: l => 2 ^ f.bit ||| Field.mask l

/-- Every field of the set `a` is in the set `b`. -/
abbrev Sub (a b : Nat) : Prop := a &&& b = a

theorem within {a b c : Nat} (h : Sub b c) (k : Sub a b) : Sub a c := by
  unfold Sub at *
  rw [← k, Nat.and_assoc, h]

theorem Sub.testBit {a b : Nat} (h : Sub a b) {i : Nat} (k : b.testBit i = false) : a.testBit i = false := by
  rw [← h, Nat.testBit_and, k, Bool.and_false]

theorem Field.bit_inj {f g : Field} (h : f.bit = g.bit) : f = g := by
  cases f <;> cases g <;> first | rfl | exact absurd h (by decide)

theorem Field.mask_testBit (l : List Field) (f : Field) : (Field.mask l).testBit f.bit = decide (f ∈ l) := by
  induction l with
  | nil => simp [Field.mask]
  | cons g l ih =>
    rw [Field.mask, Nat.testBit_or, ih, Nat.testBit_two_pow]
    by_cases h : g = f
    · simp [h]
    · simp [Ne.symm h, show ¬ g.bit = f.bit from fun k => h (Field.bit_inj k)]

theorem Field.same_refl (f : Field) (s : State) : f.same s s := by cases f <;> rfl
theorem Field.same_trans {f : Field} {r s t : State} (h : f.same r s) (k : f.same s t) : f.same r t := by
  cases f <;> exact Eq.trans k h

/-- From `r` to `s` only the fields `L` change, the secure store only grows, memory stays canonical. -/
structure Keeps (L : Nat) (r s : State) : Prop where
  same : ∀ f : Field, L.testBit f.bit = false → f.same r s
  secure : r.secure.Grows s.secure
  mem : r.mem.wf → s.mem.wf

/-- The outcome is a next state that keeps. -/
def KeepsR (L : Nat) (r : State) (o : Result) : Prop := ∃ t, o = .next t ∧ Keeps L r t

theorem Keeps.refl (L : Nat) (s : State) : Keeps L s s := ⟨fun f _ => f.same_refl s, .refl _, id⟩
theorem Keeps.trans {L : Nat} {r s t : State} (h : Keeps L r s) (k : Keeps L s t) : Keeps L r t :=
  ⟨fun f hf => Field.same_trans (h.same f hf) (k.same f hf), h.secure.trans k.secure, fun w => k.mem (h.mem w)⟩
theorem Keeps.mono {L M : Nat} {r s : State} (h : Keeps L r s) (k : Sub L M) : Keeps M r s :=
  ⟨fun f hf => h.same f (k.testBit hf), h.secure, h.mem⟩
theorem Keeps.sameBut {L : Nat} {r s : State} (h : Keeps L r s) {l : List Field} (k : Field.mask l = L) : r.sameBut l s :=
  fun f hf => h.same f (by rw [← k, Field.mask_testBit]; exact decide_eq_false hf)
theorem keepsR_next {L : Nat} {r s : State} (h : Keeps L r s) : KeepsR L r (.next s) := ⟨s, rfl, h⟩

theorem keeps_foldl {L : Nat} {α : Type} {r : State} {f : State → α → State} {l : List α} {s : State}
    (h : Keeps L r s) (hf : ∀ s x, Keeps L r s → Keeps L r (f s x)) : Keeps L r (l.foldl f s) := by
  induction l generalizing s with
  | nil => exact h
  | cons a l ih => exact ih (hf _ _ h)

/-! One lemma per set of fields that a record update changes. -/

theorem keeps_set_aer {L : Nat} {r x : State} (hL : Sub 0x20 L) (h : Keeps L r x) {aer'} : Keeps L r (State.mk
    x.part x.secure x.boot x.env x.cfg aer' x.hostif x.ltr x.ready x.fwif x.heart x.marks x.queues x.flags x.ctxs
    x.flights x.sched x.manifest x.quays x.mem x.harbour x.memctl x.memhost x.portErrs x.ports x.streams x.blanks
    x.trigs x.sessions x.codecs x.deckFaults x.deckOwner x.deckReduced x.tide x.recorder x.power x.keep x.faults
    x.lighthouse x.seeds x.freeCount x.outbox x.pending) :=
  ⟨fun f hf => by cases f <;> first | exact h.same _ hf | exact (nomatch hL.testBit hf), h.secure, h.mem⟩

theorem keeps_set_blanks {L : Nat} {r x : State} (hL : Sub 0x4000000 L) (h : Keeps L r x) {blanks'} : Keeps L
    r (State.mk x.part x.secure x.boot x.env x.cfg x.aer x.hostif x.ltr x.ready x.fwif x.heart x.marks x.queues
    x.flags x.ctxs x.flights x.sched x.manifest x.quays x.mem x.harbour x.memctl x.memhost x.portErrs x.ports
    x.streams blanks' x.trigs x.sessions x.codecs x.deckFaults x.deckOwner x.deckReduced x.tide x.recorder x.power
    x.keep x.faults x.lighthouse x.seeds x.freeCount x.outbox x.pending) :=
  ⟨fun f hf => by cases f <;> first | exact h.same _ hf | exact (nomatch hL.testBit hf), h.secure, h.mem⟩

theorem keeps_set_boot {L : Nat} {r x : State} (hL : Sub 0x4 L) (h : Keeps L r x) {boot'} : Keeps L r
    (State.mk x.part x.secure boot' x.env x.cfg x.aer x.hostif x.ltr x.ready x.fwif x.heart x.marks x.queues
    x.flags x.ctxs x.flights x.sched x.manifest x.quays x.mem x.harbour x.memctl x.memhost x.portErrs x.ports
    x.streams x.blanks x.trigs x.sessions x.codecs x.deckFaults x.deckOwner x.deckReduced x.tide x.recorder
    x.power x.keep x.faults x.lighthouse x.seeds x.freeCount x.outbox x.pending) :=
  ⟨fun f hf => by cases f <;> first | exact h.same _ hf | exact (nomatch hL.testBit hf), h.secure, h.mem⟩

theorem keeps_set_cfg {L : Nat} {r x : State} (hL : Sub 0x10 L) (h : Keeps L r x) {cfg'} : Keeps L r (State.mk
    x.part x.secure x.boot x.env cfg' x.aer x.hostif x.ltr x.ready x.fwif x.heart x.marks x.queues x.flags x.ctxs
    x.flights x.sched x.manifest x.quays x.mem x.harbour x.memctl x.memhost x.portErrs x.ports x.streams x.blanks
    x.trigs x.sessions x.codecs x.deckFaults x.deckOwner x.deckReduced x.tide x.recorder x.power x.keep x.faults
    x.lighthouse x.seeds x.freeCount x.outbox x.pending) :=
  ⟨fun f hf => by cases f <;> first | exact h.same _ hf | exact (nomatch hL.testBit hf), h.secure, h.mem⟩

theorem keeps_set_codecs {L : Nat} {r x : State} (hL : Sub 0x20000000 L) (h : Keeps L r x) {codecs'} : Keeps L
    r (State.mk x.part x.secure x.boot x.env x.cfg x.aer x.hostif x.ltr x.ready x.fwif x.heart x.marks x.queues
    x.flags x.ctxs x.flights x.sched x.manifest x.quays x.mem x.harbour x.memctl x.memhost x.portErrs x.ports
    x.streams x.blanks x.trigs x.sessions codecs' x.deckFaults x.deckOwner x.deckReduced x.tide x.recorder x.power
    x.keep x.faults x.lighthouse x.seeds x.freeCount x.outbox x.pending) :=
  ⟨fun f hf => by cases f <;> first | exact h.same _ hf | exact (nomatch hL.testBit hf), h.secure, h.mem⟩

theorem keeps_set_ctxs {L : Nat} {r x : State} (hL : Sub 0x4000 L) (h : Keeps L r x) {ctxs'} : Keeps L r
    (State.mk x.part x.secure x.boot x.env x.cfg x.aer x.hostif x.ltr x.ready x.fwif x.heart x.marks x.queues
    x.flags ctxs' x.flights x.sched x.manifest x.quays x.mem x.harbour x.memctl x.memhost x.portErrs x.ports
    x.streams x.blanks x.trigs x.sessions x.codecs x.deckFaults x.deckOwner x.deckReduced x.tide x.recorder
    x.power x.keep x.faults x.lighthouse x.seeds x.freeCount x.outbox x.pending) :=
  ⟨fun f hf => by cases f <;> first | exact h.same _ hf | exact (nomatch hL.testBit hf), h.secure, h.mem⟩

theorem keeps_set_deckFaults {L : Nat} {r x : State} (hL : Sub 0x40000000 L) (h : Keeps L r x) {deckFaults'} :
    Keeps L r (State.mk x.part x.secure x.boot x.env x.cfg x.aer x.hostif x.ltr x.ready x.fwif x.heart x.marks
    x.queues x.flags x.ctxs x.flights x.sched x.manifest x.quays x.mem x.harbour x.memctl x.memhost x.portErrs
    x.ports x.streams x.blanks x.trigs x.sessions x.codecs deckFaults' x.deckOwner x.deckReduced x.tide x.recorder
    x.power x.keep x.faults x.lighthouse x.seeds x.freeCount x.outbox x.pending) :=
  ⟨fun f hf => by cases f <;> first | exact h.same _ hf | exact (nomatch hL.testBit hf), h.secure, h.mem⟩

theorem keeps_set_deckOwner {L : Nat} {r x : State} (hL : Sub 0x80000000 L) (h : Keeps L r x) {deckOwner'} :
    Keeps L r (State.mk x.part x.secure x.boot x.env x.cfg x.aer x.hostif x.ltr x.ready x.fwif x.heart x.marks
    x.queues x.flags x.ctxs x.flights x.sched x.manifest x.quays x.mem x.harbour x.memctl x.memhost x.portErrs
    x.ports x.streams x.blanks x.trigs x.sessions x.codecs x.deckFaults deckOwner' x.deckReduced x.tide x.recorder
    x.power x.keep x.faults x.lighthouse x.seeds x.freeCount x.outbox x.pending) :=
  ⟨fun f hf => by cases f <;> first | exact h.same _ hf | exact (nomatch hL.testBit hf), h.secure, h.mem⟩

theorem keeps_set_deckReduced {L : Nat} {r x : State} (hL : Sub 0x100000000 L) (h : Keeps L r x)
    {deckReduced'} : Keeps L r (State.mk x.part x.secure x.boot x.env x.cfg x.aer x.hostif x.ltr x.ready x.fwif
    x.heart x.marks x.queues x.flags x.ctxs x.flights x.sched x.manifest x.quays x.mem x.harbour x.memctl
    x.memhost x.portErrs x.ports x.streams x.blanks x.trigs x.sessions x.codecs x.deckFaults x.deckOwner
    deckReduced' x.tide x.recorder x.power x.keep x.faults x.lighthouse x.seeds x.freeCount x.outbox x.pending) :=
  ⟨fun f hf => by cases f <;> first | exact h.same _ hf | exact (nomatch hL.testBit hf), h.secure, h.mem⟩

theorem keeps_set_env {L : Nat} {r x : State} (hL : Sub 0x8 L) (h : Keeps L r x) {env'} : Keeps L r (State.mk
    x.part x.secure x.boot env' x.cfg x.aer x.hostif x.ltr x.ready x.fwif x.heart x.marks x.queues x.flags x.ctxs
    x.flights x.sched x.manifest x.quays x.mem x.harbour x.memctl x.memhost x.portErrs x.ports x.streams x.blanks
    x.trigs x.sessions x.codecs x.deckFaults x.deckOwner x.deckReduced x.tide x.recorder x.power x.keep x.faults
    x.lighthouse x.seeds x.freeCount x.outbox x.pending) :=
  ⟨fun f hf => by cases f <;> first | exact h.same _ hf | exact (nomatch hL.testBit hf), h.secure, h.mem⟩

theorem keeps_set_faults {L : Nat} {r x : State} (hL : Sub 0x2000000000 L) (h : Keeps L r x) {faults'} : Keeps
    L r (State.mk x.part x.secure x.boot x.env x.cfg x.aer x.hostif x.ltr x.ready x.fwif x.heart x.marks x.queues
    x.flags x.ctxs x.flights x.sched x.manifest x.quays x.mem x.harbour x.memctl x.memhost x.portErrs x.ports
    x.streams x.blanks x.trigs x.sessions x.codecs x.deckFaults x.deckOwner x.deckReduced x.tide x.recorder
    x.power x.keep faults' x.lighthouse x.seeds x.freeCount x.outbox x.pending) :=
  ⟨fun f hf => by cases f <;> first | exact h.same _ hf | exact (nomatch hL.testBit hf), h.secure, h.mem⟩

theorem keeps_set_flags {L : Nat} {r x : State} (hL : Sub 0x2000 L) (h : Keeps L r x) {flags'} : Keeps L r
    (State.mk x.part x.secure x.boot x.env x.cfg x.aer x.hostif x.ltr x.ready x.fwif x.heart x.marks x.queues
    flags' x.ctxs x.flights x.sched x.manifest x.quays x.mem x.harbour x.memctl x.memhost x.portErrs x.ports
    x.streams x.blanks x.trigs x.sessions x.codecs x.deckFaults x.deckOwner x.deckReduced x.tide x.recorder
    x.power x.keep x.faults x.lighthouse x.seeds x.freeCount x.outbox x.pending) :=
  ⟨fun f hf => by cases f <;> first | exact h.same _ hf | exact (nomatch hL.testBit hf), h.secure, h.mem⟩

theorem keeps_set_flights {L : Nat} {r x : State} (hL : Sub 0x8000 L) (h : Keeps L r x) {flights'} : Keeps L r
    (State.mk x.part x.secure x.boot x.env x.cfg x.aer x.hostif x.ltr x.ready x.fwif x.heart x.marks x.queues
    x.flags x.ctxs flights' x.sched x.manifest x.quays x.mem x.harbour x.memctl x.memhost x.portErrs x.ports
    x.streams x.blanks x.trigs x.sessions x.codecs x.deckFaults x.deckOwner x.deckReduced x.tide x.recorder
    x.power x.keep x.faults x.lighthouse x.seeds x.freeCount x.outbox x.pending) :=
  ⟨fun f hf => by cases f <;> first | exact h.same _ hf | exact (nomatch hL.testBit hf), h.secure, h.mem⟩

theorem keeps_set_freeCount {L : Nat} {r x : State} (hL : Sub 0x10000000000 L) (h : Keeps L r x) {freeCount'}
    : Keeps L r (State.mk x.part x.secure x.boot x.env x.cfg x.aer x.hostif x.ltr x.ready x.fwif x.heart x.marks
    x.queues x.flags x.ctxs x.flights x.sched x.manifest x.quays x.mem x.harbour x.memctl x.memhost x.portErrs
    x.ports x.streams x.blanks x.trigs x.sessions x.codecs x.deckFaults x.deckOwner x.deckReduced x.tide
    x.recorder x.power x.keep x.faults x.lighthouse x.seeds freeCount' x.outbox x.pending) :=
  ⟨fun f hf => by cases f <;> first | exact h.same _ hf | exact (nomatch hL.testBit hf), h.secure, h.mem⟩

theorem keeps_set_fwif {L : Nat} {r x : State} (hL : Sub 0x200 L) (h : Keeps L r x) {fwif'} : Keeps L r
    (State.mk x.part x.secure x.boot x.env x.cfg x.aer x.hostif x.ltr x.ready fwif' x.heart x.marks x.queues
    x.flags x.ctxs x.flights x.sched x.manifest x.quays x.mem x.harbour x.memctl x.memhost x.portErrs x.ports
    x.streams x.blanks x.trigs x.sessions x.codecs x.deckFaults x.deckOwner x.deckReduced x.tide x.recorder
    x.power x.keep x.faults x.lighthouse x.seeds x.freeCount x.outbox x.pending) :=
  ⟨fun f hf => by cases f <;> first | exact h.same _ hf | exact (nomatch hL.testBit hf), h.secure, h.mem⟩

theorem keeps_set_harbour {L : Nat} {r x : State} (hL : Sub 0x100000 L) (h : Keeps L r x) {harbour'} : Keeps L
    r (State.mk x.part x.secure x.boot x.env x.cfg x.aer x.hostif x.ltr x.ready x.fwif x.heart x.marks x.queues
    x.flags x.ctxs x.flights x.sched x.manifest x.quays x.mem harbour' x.memctl x.memhost x.portErrs x.ports
    x.streams x.blanks x.trigs x.sessions x.codecs x.deckFaults x.deckOwner x.deckReduced x.tide x.recorder
    x.power x.keep x.faults x.lighthouse x.seeds x.freeCount x.outbox x.pending) :=
  ⟨fun f hf => by cases f <;> first | exact h.same _ hf | exact (nomatch hL.testBit hf), h.secure, h.mem⟩

theorem keeps_set_heart {L : Nat} {r x : State} (hL : Sub 0x400 L) (h : Keeps L r x) {heart'} : Keeps L r
    (State.mk x.part x.secure x.boot x.env x.cfg x.aer x.hostif x.ltr x.ready x.fwif heart' x.marks x.queues
    x.flags x.ctxs x.flights x.sched x.manifest x.quays x.mem x.harbour x.memctl x.memhost x.portErrs x.ports
    x.streams x.blanks x.trigs x.sessions x.codecs x.deckFaults x.deckOwner x.deckReduced x.tide x.recorder
    x.power x.keep x.faults x.lighthouse x.seeds x.freeCount x.outbox x.pending) :=
  ⟨fun f hf => by cases f <;> first | exact h.same _ hf | exact (nomatch hL.testBit hf), h.secure, h.mem⟩

theorem keeps_set_hostif {L : Nat} {r x : State} (hL : Sub 0x40 L) (h : Keeps L r x) {hostif'} : Keeps L r
    (State.mk x.part x.secure x.boot x.env x.cfg x.aer hostif' x.ltr x.ready x.fwif x.heart x.marks x.queues
    x.flags x.ctxs x.flights x.sched x.manifest x.quays x.mem x.harbour x.memctl x.memhost x.portErrs x.ports
    x.streams x.blanks x.trigs x.sessions x.codecs x.deckFaults x.deckOwner x.deckReduced x.tide x.recorder
    x.power x.keep x.faults x.lighthouse x.seeds x.freeCount x.outbox x.pending) :=
  ⟨fun f hf => by cases f <;> first | exact h.same _ hf | exact (nomatch hL.testBit hf), h.secure, h.mem⟩

theorem keeps_set_keep {L : Nat} {r x : State} (hL : Sub 0x1000000000 L) (h : Keeps L r x) {keep'} : Keeps L r
    (State.mk x.part x.secure x.boot x.env x.cfg x.aer x.hostif x.ltr x.ready x.fwif x.heart x.marks x.queues
    x.flags x.ctxs x.flights x.sched x.manifest x.quays x.mem x.harbour x.memctl x.memhost x.portErrs x.ports
    x.streams x.blanks x.trigs x.sessions x.codecs x.deckFaults x.deckOwner x.deckReduced x.tide x.recorder
    x.power keep' x.faults x.lighthouse x.seeds x.freeCount x.outbox x.pending) :=
  ⟨fun f hf => by cases f <;> first | exact h.same _ hf | exact (nomatch hL.testBit hf), h.secure, h.mem⟩

theorem keeps_set_lighthouse {L : Nat} {r x : State} (hL : Sub 0x4000000000 L) (h : Keeps L r x) {lighthouse'}
    : Keeps L r (State.mk x.part x.secure x.boot x.env x.cfg x.aer x.hostif x.ltr x.ready x.fwif x.heart x.marks
    x.queues x.flags x.ctxs x.flights x.sched x.manifest x.quays x.mem x.harbour x.memctl x.memhost x.portErrs
    x.ports x.streams x.blanks x.trigs x.sessions x.codecs x.deckFaults x.deckOwner x.deckReduced x.tide
    x.recorder x.power x.keep x.faults lighthouse' x.seeds x.freeCount x.outbox x.pending) :=
  ⟨fun f hf => by cases f <;> first | exact h.same _ hf | exact (nomatch hL.testBit hf), h.secure, h.mem⟩

theorem keeps_set_ltr {L : Nat} {r x : State} (hL : Sub 0x80 L) (h : Keeps L r x) {ltr'} : Keeps L r (State.mk
    x.part x.secure x.boot x.env x.cfg x.aer x.hostif ltr' x.ready x.fwif x.heart x.marks x.queues x.flags x.ctxs
    x.flights x.sched x.manifest x.quays x.mem x.harbour x.memctl x.memhost x.portErrs x.ports x.streams x.blanks
    x.trigs x.sessions x.codecs x.deckFaults x.deckOwner x.deckReduced x.tide x.recorder x.power x.keep x.faults
    x.lighthouse x.seeds x.freeCount x.outbox x.pending) :=
  ⟨fun f hf => by cases f <;> first | exact h.same _ hf | exact (nomatch hL.testBit hf), h.secure, h.mem⟩

theorem keeps_set_manifest {L : Nat} {r x : State} (hL : Sub 0x20000 L) (h : Keeps L r x) {manifest'} : Keeps
    L r (State.mk x.part x.secure x.boot x.env x.cfg x.aer x.hostif x.ltr x.ready x.fwif x.heart x.marks x.queues
    x.flags x.ctxs x.flights x.sched manifest' x.quays x.mem x.harbour x.memctl x.memhost x.portErrs x.ports
    x.streams x.blanks x.trigs x.sessions x.codecs x.deckFaults x.deckOwner x.deckReduced x.tide x.recorder
    x.power x.keep x.faults x.lighthouse x.seeds x.freeCount x.outbox x.pending) :=
  ⟨fun f hf => by cases f <;> first | exact h.same _ hf | exact (nomatch hL.testBit hf), h.secure, h.mem⟩

theorem keeps_set_marks {L : Nat} {r x : State} (hL : Sub 0x800 L) (h : Keeps L r x) {marks'} : Keeps L r
    (State.mk x.part x.secure x.boot x.env x.cfg x.aer x.hostif x.ltr x.ready x.fwif x.heart marks' x.queues
    x.flags x.ctxs x.flights x.sched x.manifest x.quays x.mem x.harbour x.memctl x.memhost x.portErrs x.ports
    x.streams x.blanks x.trigs x.sessions x.codecs x.deckFaults x.deckOwner x.deckReduced x.tide x.recorder
    x.power x.keep x.faults x.lighthouse x.seeds x.freeCount x.outbox x.pending) :=
  ⟨fun f hf => by cases f <;> first | exact h.same _ hf | exact (nomatch hL.testBit hf), h.secure, h.mem⟩

theorem keeps_set_mem {L : Nat} {r x : State} (hL : Sub 0x80000 L) (h : Keeps L r x) {mem'} (hm : x.mem.wf →
    mem'.wf) : Keeps L r (State.mk x.part x.secure x.boot x.env x.cfg x.aer x.hostif x.ltr x.ready x.fwif x.heart
    x.marks x.queues x.flags x.ctxs x.flights x.sched x.manifest x.quays mem' x.harbour x.memctl x.memhost
    x.portErrs x.ports x.streams x.blanks x.trigs x.sessions x.codecs x.deckFaults x.deckOwner x.deckReduced
    x.tide x.recorder x.power x.keep x.faults x.lighthouse x.seeds x.freeCount x.outbox x.pending) :=
  ⟨fun f hf => by cases f <;> first | exact h.same _ hf | exact (nomatch hL.testBit hf), h.secure, fun w => hm (h.mem w)⟩

theorem keeps_set_memctl {L : Nat} {r x : State} (hL : Sub 0x200000 L) (h : Keeps L r x) {memctl'} : Keeps L r
    (State.mk x.part x.secure x.boot x.env x.cfg x.aer x.hostif x.ltr x.ready x.fwif x.heart x.marks x.queues
    x.flags x.ctxs x.flights x.sched x.manifest x.quays x.mem x.harbour memctl' x.memhost x.portErrs x.ports
    x.streams x.blanks x.trigs x.sessions x.codecs x.deckFaults x.deckOwner x.deckReduced x.tide x.recorder
    x.power x.keep x.faults x.lighthouse x.seeds x.freeCount x.outbox x.pending) :=
  ⟨fun f hf => by cases f <;> first | exact h.same _ hf | exact (nomatch hL.testBit hf), h.secure, h.mem⟩

theorem keeps_set_memhost {L : Nat} {r x : State} (hL : Sub 0x400000 L) (h : Keeps L r x) {memhost'} : Keeps L
    r (State.mk x.part x.secure x.boot x.env x.cfg x.aer x.hostif x.ltr x.ready x.fwif x.heart x.marks x.queues
    x.flags x.ctxs x.flights x.sched x.manifest x.quays x.mem x.harbour x.memctl memhost' x.portErrs x.ports
    x.streams x.blanks x.trigs x.sessions x.codecs x.deckFaults x.deckOwner x.deckReduced x.tide x.recorder
    x.power x.keep x.faults x.lighthouse x.seeds x.freeCount x.outbox x.pending) :=
  ⟨fun f hf => by cases f <;> first | exact h.same _ hf | exact (nomatch hL.testBit hf), h.secure, h.mem⟩

theorem keeps_set_outbox {L : Nat} {r x : State} (hL : Sub 0x20000000000 L) (h : Keeps L r x) {outbox'} :
    Keeps L r (State.mk x.part x.secure x.boot x.env x.cfg x.aer x.hostif x.ltr x.ready x.fwif x.heart x.marks
    x.queues x.flags x.ctxs x.flights x.sched x.manifest x.quays x.mem x.harbour x.memctl x.memhost x.portErrs
    x.ports x.streams x.blanks x.trigs x.sessions x.codecs x.deckFaults x.deckOwner x.deckReduced x.tide
    x.recorder x.power x.keep x.faults x.lighthouse x.seeds x.freeCount outbox' x.pending) :=
  ⟨fun f hf => by cases f <;> first | exact h.same _ hf | exact (nomatch hL.testBit hf), h.secure, h.mem⟩

theorem keeps_set_pending {L : Nat} {r x : State} (hL : Sub 0x40000000000 L) (h : Keeps L r x) {pending'} :
    Keeps L r (State.mk x.part x.secure x.boot x.env x.cfg x.aer x.hostif x.ltr x.ready x.fwif x.heart x.marks
    x.queues x.flags x.ctxs x.flights x.sched x.manifest x.quays x.mem x.harbour x.memctl x.memhost x.portErrs
    x.ports x.streams x.blanks x.trigs x.sessions x.codecs x.deckFaults x.deckOwner x.deckReduced x.tide
    x.recorder x.power x.keep x.faults x.lighthouse x.seeds x.freeCount x.outbox pending') :=
  ⟨fun f hf => by cases f <;> first | exact h.same _ hf | exact (nomatch hL.testBit hf), h.secure, h.mem⟩

theorem keeps_set_portErrs {L : Nat} {r x : State} (hL : Sub 0x800000 L) (h : Keeps L r x) {portErrs'} : Keeps
    L r (State.mk x.part x.secure x.boot x.env x.cfg x.aer x.hostif x.ltr x.ready x.fwif x.heart x.marks x.queues
    x.flags x.ctxs x.flights x.sched x.manifest x.quays x.mem x.harbour x.memctl x.memhost portErrs' x.ports
    x.streams x.blanks x.trigs x.sessions x.codecs x.deckFaults x.deckOwner x.deckReduced x.tide x.recorder
    x.power x.keep x.faults x.lighthouse x.seeds x.freeCount x.outbox x.pending) :=
  ⟨fun f hf => by cases f <;> first | exact h.same _ hf | exact (nomatch hL.testBit hf), h.secure, h.mem⟩

theorem keeps_set_ports {L : Nat} {r x : State} (hL : Sub 0x1000000 L) (h : Keeps L r x) {ports'} : Keeps L r
    (State.mk x.part x.secure x.boot x.env x.cfg x.aer x.hostif x.ltr x.ready x.fwif x.heart x.marks x.queues
    x.flags x.ctxs x.flights x.sched x.manifest x.quays x.mem x.harbour x.memctl x.memhost x.portErrs ports'
    x.streams x.blanks x.trigs x.sessions x.codecs x.deckFaults x.deckOwner x.deckReduced x.tide x.recorder
    x.power x.keep x.faults x.lighthouse x.seeds x.freeCount x.outbox x.pending) :=
  ⟨fun f hf => by cases f <;> first | exact h.same _ hf | exact (nomatch hL.testBit hf), h.secure, h.mem⟩

theorem keeps_set_power {L : Nat} {r x : State} (hL : Sub 0x800000000 L) (h : Keeps L r x) {power'} : Keeps L
    r (State.mk x.part x.secure x.boot x.env x.cfg x.aer x.hostif x.ltr x.ready x.fwif x.heart x.marks x.queues
    x.flags x.ctxs x.flights x.sched x.manifest x.quays x.mem x.harbour x.memctl x.memhost x.portErrs x.ports
    x.streams x.blanks x.trigs x.sessions x.codecs x.deckFaults x.deckOwner x.deckReduced x.tide x.recorder power'
    x.keep x.faults x.lighthouse x.seeds x.freeCount x.outbox x.pending) :=
  ⟨fun f hf => by cases f <;> first | exact h.same _ hf | exact (nomatch hL.testBit hf), h.secure, h.mem⟩

theorem keeps_set_quays {L : Nat} {r x : State} (hL : Sub 0x40000 L) (h : Keeps L r x) {quays'} : Keeps L r
    (State.mk x.part x.secure x.boot x.env x.cfg x.aer x.hostif x.ltr x.ready x.fwif x.heart x.marks x.queues
    x.flags x.ctxs x.flights x.sched x.manifest quays' x.mem x.harbour x.memctl x.memhost x.portErrs x.ports
    x.streams x.blanks x.trigs x.sessions x.codecs x.deckFaults x.deckOwner x.deckReduced x.tide x.recorder
    x.power x.keep x.faults x.lighthouse x.seeds x.freeCount x.outbox x.pending) :=
  ⟨fun f hf => by cases f <;> first | exact h.same _ hf | exact (nomatch hL.testBit hf), h.secure, h.mem⟩

theorem keeps_set_queues {L : Nat} {r x : State} (hL : Sub 0x1000 L) (h : Keeps L r x) {queues'} : Keeps L r
    (State.mk x.part x.secure x.boot x.env x.cfg x.aer x.hostif x.ltr x.ready x.fwif x.heart x.marks queues'
    x.flags x.ctxs x.flights x.sched x.manifest x.quays x.mem x.harbour x.memctl x.memhost x.portErrs x.ports
    x.streams x.blanks x.trigs x.sessions x.codecs x.deckFaults x.deckOwner x.deckReduced x.tide x.recorder
    x.power x.keep x.faults x.lighthouse x.seeds x.freeCount x.outbox x.pending) :=
  ⟨fun f hf => by cases f <;> first | exact h.same _ hf | exact (nomatch hL.testBit hf), h.secure, h.mem⟩

theorem keeps_set_ready {L : Nat} {r x : State} (hL : Sub 0x100 L) (h : Keeps L r x) {ready'} : Keeps L r
    (State.mk x.part x.secure x.boot x.env x.cfg x.aer x.hostif x.ltr ready' x.fwif x.heart x.marks x.queues
    x.flags x.ctxs x.flights x.sched x.manifest x.quays x.mem x.harbour x.memctl x.memhost x.portErrs x.ports
    x.streams x.blanks x.trigs x.sessions x.codecs x.deckFaults x.deckOwner x.deckReduced x.tide x.recorder
    x.power x.keep x.faults x.lighthouse x.seeds x.freeCount x.outbox x.pending) :=
  ⟨fun f hf => by cases f <;> first | exact h.same _ hf | exact (nomatch hL.testBit hf), h.secure, h.mem⟩

theorem keeps_set_recorder {L : Nat} {r x : State} (hL : Sub 0x400000000 L) (h : Keeps L r x) {recorder'} :
    Keeps L r (State.mk x.part x.secure x.boot x.env x.cfg x.aer x.hostif x.ltr x.ready x.fwif x.heart x.marks
    x.queues x.flags x.ctxs x.flights x.sched x.manifest x.quays x.mem x.harbour x.memctl x.memhost x.portErrs
    x.ports x.streams x.blanks x.trigs x.sessions x.codecs x.deckFaults x.deckOwner x.deckReduced x.tide recorder'
    x.power x.keep x.faults x.lighthouse x.seeds x.freeCount x.outbox x.pending) :=
  ⟨fun f hf => by cases f <;> first | exact h.same _ hf | exact (nomatch hL.testBit hf), h.secure, h.mem⟩

theorem keeps_set_sched {L : Nat} {r x : State} (hL : Sub 0x10000 L) (h : Keeps L r x) {sched'} : Keeps L r
    (State.mk x.part x.secure x.boot x.env x.cfg x.aer x.hostif x.ltr x.ready x.fwif x.heart x.marks x.queues
    x.flags x.ctxs x.flights sched' x.manifest x.quays x.mem x.harbour x.memctl x.memhost x.portErrs x.ports
    x.streams x.blanks x.trigs x.sessions x.codecs x.deckFaults x.deckOwner x.deckReduced x.tide x.recorder
    x.power x.keep x.faults x.lighthouse x.seeds x.freeCount x.outbox x.pending) :=
  ⟨fun f hf => by cases f <;> first | exact h.same _ hf | exact (nomatch hL.testBit hf), h.secure, h.mem⟩

theorem keeps_set_secure {L : Nat} {r x : State} (hL : Sub 0x2 L) (h : Keeps L r x) {secure'} (hc :
    x.secure.Grows secure') : Keeps L r (State.mk x.part secure' x.boot x.env x.cfg x.aer x.hostif x.ltr x.ready
    x.fwif x.heart x.marks x.queues x.flags x.ctxs x.flights x.sched x.manifest x.quays x.mem x.harbour x.memctl
    x.memhost x.portErrs x.ports x.streams x.blanks x.trigs x.sessions x.codecs x.deckFaults x.deckOwner
    x.deckReduced x.tide x.recorder x.power x.keep x.faults x.lighthouse x.seeds x.freeCount x.outbox x.pending)
    :=
  ⟨fun f hf => by cases f <;> first | exact h.same _ hf | exact (nomatch hL.testBit hf), h.secure.trans hc, h.mem⟩

theorem keeps_set_seeds {L : Nat} {r x : State} (hL : Sub 0x8000000000 L) (h : Keeps L r x) {seeds'} : Keeps L
    r (State.mk x.part x.secure x.boot x.env x.cfg x.aer x.hostif x.ltr x.ready x.fwif x.heart x.marks x.queues
    x.flags x.ctxs x.flights x.sched x.manifest x.quays x.mem x.harbour x.memctl x.memhost x.portErrs x.ports
    x.streams x.blanks x.trigs x.sessions x.codecs x.deckFaults x.deckOwner x.deckReduced x.tide x.recorder
    x.power x.keep x.faults x.lighthouse seeds' x.freeCount x.outbox x.pending) :=
  ⟨fun f hf => by cases f <;> first | exact h.same _ hf | exact (nomatch hL.testBit hf), h.secure, h.mem⟩

theorem keeps_set_sessions {L : Nat} {r x : State} (hL : Sub 0x10000000 L) (h : Keeps L r x) {sessions'} :
    Keeps L r (State.mk x.part x.secure x.boot x.env x.cfg x.aer x.hostif x.ltr x.ready x.fwif x.heart x.marks
    x.queues x.flags x.ctxs x.flights x.sched x.manifest x.quays x.mem x.harbour x.memctl x.memhost x.portErrs
    x.ports x.streams x.blanks x.trigs sessions' x.codecs x.deckFaults x.deckOwner x.deckReduced x.tide x.recorder
    x.power x.keep x.faults x.lighthouse x.seeds x.freeCount x.outbox x.pending) :=
  ⟨fun f hf => by cases f <;> first | exact h.same _ hf | exact (nomatch hL.testBit hf), h.secure, h.mem⟩

theorem keeps_set_streams {L : Nat} {r x : State} (hL : Sub 0x2000000 L) (h : Keeps L r x) {streams'} : Keeps
    L r (State.mk x.part x.secure x.boot x.env x.cfg x.aer x.hostif x.ltr x.ready x.fwif x.heart x.marks x.queues
    x.flags x.ctxs x.flights x.sched x.manifest x.quays x.mem x.harbour x.memctl x.memhost x.portErrs x.ports
    streams' x.blanks x.trigs x.sessions x.codecs x.deckFaults x.deckOwner x.deckReduced x.tide x.recorder x.power
    x.keep x.faults x.lighthouse x.seeds x.freeCount x.outbox x.pending) :=
  ⟨fun f hf => by cases f <;> first | exact h.same _ hf | exact (nomatch hL.testBit hf), h.secure, h.mem⟩

theorem keeps_set_tide {L : Nat} {r x : State} (hL : Sub 0x200000000 L) (h : Keeps L r x) {tide'} : Keeps L r
    (State.mk x.part x.secure x.boot x.env x.cfg x.aer x.hostif x.ltr x.ready x.fwif x.heart x.marks x.queues
    x.flags x.ctxs x.flights x.sched x.manifest x.quays x.mem x.harbour x.memctl x.memhost x.portErrs x.ports
    x.streams x.blanks x.trigs x.sessions x.codecs x.deckFaults x.deckOwner x.deckReduced tide' x.recorder x.power
    x.keep x.faults x.lighthouse x.seeds x.freeCount x.outbox x.pending) :=
  ⟨fun f hf => by cases f <;> first | exact h.same _ hf | exact (nomatch hL.testBit hf), h.secure, h.mem⟩

theorem keeps_set_trigs {L : Nat} {r x : State} (hL : Sub 0x8000000 L) (h : Keeps L r x) {trigs'} : Keeps L r
    (State.mk x.part x.secure x.boot x.env x.cfg x.aer x.hostif x.ltr x.ready x.fwif x.heart x.marks x.queues
    x.flags x.ctxs x.flights x.sched x.manifest x.quays x.mem x.harbour x.memctl x.memhost x.portErrs x.ports
    x.streams x.blanks trigs' x.sessions x.codecs x.deckFaults x.deckOwner x.deckReduced x.tide x.recorder x.power
    x.keep x.faults x.lighthouse x.seeds x.freeCount x.outbox x.pending) :=
  ⟨fun f hf => by cases f <;> first | exact h.same _ hf | exact (nomatch hL.testBit hf), h.secure, h.mem⟩

theorem keeps_set_boot_heart {L : Nat} {r x : State} (hL : Sub 0x404 L) (h : Keeps L r x) {boot' heart'} :
    Keeps L r (State.mk x.part x.secure boot' x.env x.cfg x.aer x.hostif x.ltr x.ready x.fwif heart' x.marks
    x.queues x.flags x.ctxs x.flights x.sched x.manifest x.quays x.mem x.harbour x.memctl x.memhost x.portErrs
    x.ports x.streams x.blanks x.trigs x.sessions x.codecs x.deckFaults x.deckOwner x.deckReduced x.tide
    x.recorder x.power x.keep x.faults x.lighthouse x.seeds x.freeCount x.outbox x.pending) :=
  ⟨fun f hf => by cases f <;> first | exact h.same _ hf | exact (nomatch hL.testBit hf), h.secure, h.mem⟩

theorem keeps_set_boot_mem {L : Nat} {r x : State} (hL : Sub 0x80004 L) (h : Keeps L r x) {boot' mem'} (hm :
    x.mem.wf → mem'.wf) : Keeps L r (State.mk x.part x.secure boot' x.env x.cfg x.aer x.hostif x.ltr x.ready
    x.fwif x.heart x.marks x.queues x.flags x.ctxs x.flights x.sched x.manifest x.quays mem' x.harbour x.memctl
    x.memhost x.portErrs x.ports x.streams x.blanks x.trigs x.sessions x.codecs x.deckFaults x.deckOwner
    x.deckReduced x.tide x.recorder x.power x.keep x.faults x.lighthouse x.seeds x.freeCount x.outbox x.pending)
    :=
  ⟨fun f hf => by cases f <;> first | exact h.same _ hf | exact (nomatch hL.testBit hf), h.secure, fun w => hm (h.mem w)⟩

theorem keeps_set_boot_memctl {L : Nat} {r x : State} (hL : Sub 0x200004 L) (h : Keeps L r x) {boot' memctl'}
    : Keeps L r (State.mk x.part x.secure boot' x.env x.cfg x.aer x.hostif x.ltr x.ready x.fwif x.heart x.marks
    x.queues x.flags x.ctxs x.flights x.sched x.manifest x.quays x.mem x.harbour memctl' x.memhost x.portErrs
    x.ports x.streams x.blanks x.trigs x.sessions x.codecs x.deckFaults x.deckOwner x.deckReduced x.tide
    x.recorder x.power x.keep x.faults x.lighthouse x.seeds x.freeCount x.outbox x.pending) :=
  ⟨fun f hf => by cases f <;> first | exact h.same _ hf | exact (nomatch hL.testBit hf), h.secure, h.mem⟩

theorem keeps_set_env_heart {L : Nat} {r x : State} (hL : Sub 0x408 L) (h : Keeps L r x) {env' heart'} : Keeps
    L r (State.mk x.part x.secure x.boot env' x.cfg x.aer x.hostif x.ltr x.ready x.fwif heart' x.marks x.queues
    x.flags x.ctxs x.flights x.sched x.manifest x.quays x.mem x.harbour x.memctl x.memhost x.portErrs x.ports
    x.streams x.blanks x.trigs x.sessions x.codecs x.deckFaults x.deckOwner x.deckReduced x.tide x.recorder
    x.power x.keep x.faults x.lighthouse x.seeds x.freeCount x.outbox x.pending) :=
  ⟨fun f hf => by cases f <;> first | exact h.same _ hf | exact (nomatch hL.testBit hf), h.secure, h.mem⟩

theorem keeps_set_env_lighthouse {L : Nat} {r x : State} (hL : Sub 0x4000000008 L) (h : Keeps L r x) {env'
    lighthouse'} : Keeps L r (State.mk x.part x.secure x.boot env' x.cfg x.aer x.hostif x.ltr x.ready x.fwif
    x.heart x.marks x.queues x.flags x.ctxs x.flights x.sched x.manifest x.quays x.mem x.harbour x.memctl
    x.memhost x.portErrs x.ports x.streams x.blanks x.trigs x.sessions x.codecs x.deckFaults x.deckOwner
    x.deckReduced x.tide x.recorder x.power x.keep x.faults lighthouse' x.seeds x.freeCount x.outbox x.pending) :=
  ⟨fun f hf => by cases f <;> first | exact h.same _ hf | exact (nomatch hL.testBit hf), h.secure, h.mem⟩

theorem keeps_set_env_memctl {L : Nat} {r x : State} (hL : Sub 0x200008 L) (h : Keeps L r x) {env' memctl'} :
    Keeps L r (State.mk x.part x.secure x.boot env' x.cfg x.aer x.hostif x.ltr x.ready x.fwif x.heart x.marks
    x.queues x.flags x.ctxs x.flights x.sched x.manifest x.quays x.mem x.harbour memctl' x.memhost x.portErrs
    x.ports x.streams x.blanks x.trigs x.sessions x.codecs x.deckFaults x.deckOwner x.deckReduced x.tide
    x.recorder x.power x.keep x.faults x.lighthouse x.seeds x.freeCount x.outbox x.pending) :=
  ⟨fun f hf => by cases f <;> first | exact h.same _ hf | exact (nomatch hL.testBit hf), h.secure, h.mem⟩

theorem keeps_set_env_tide {L : Nat} {r x : State} (hL : Sub 0x200000008 L) (h : Keeps L r x) {env' tide'} :
    Keeps L r (State.mk x.part x.secure x.boot env' x.cfg x.aer x.hostif x.ltr x.ready x.fwif x.heart x.marks
    x.queues x.flags x.ctxs x.flights x.sched x.manifest x.quays x.mem x.harbour x.memctl x.memhost x.portErrs
    x.ports x.streams x.blanks x.trigs x.sessions x.codecs x.deckFaults x.deckOwner x.deckReduced tide' x.recorder
    x.power x.keep x.faults x.lighthouse x.seeds x.freeCount x.outbox x.pending) :=
  ⟨fun f hf => by cases f <;> first | exact h.same _ hf | exact (nomatch hL.testBit hf), h.secure, h.mem⟩

theorem keeps_set_fwif_heart {L : Nat} {r x : State} (hL : Sub 0x600 L) (h : Keeps L r x) {fwif' heart'} :
    Keeps L r (State.mk x.part x.secure x.boot x.env x.cfg x.aer x.hostif x.ltr x.ready fwif' heart' x.marks
    x.queues x.flags x.ctxs x.flights x.sched x.manifest x.quays x.mem x.harbour x.memctl x.memhost x.portErrs
    x.ports x.streams x.blanks x.trigs x.sessions x.codecs x.deckFaults x.deckOwner x.deckReduced x.tide
    x.recorder x.power x.keep x.faults x.lighthouse x.seeds x.freeCount x.outbox x.pending) :=
  ⟨fun f hf => by cases f <;> first | exact h.same _ hf | exact (nomatch hL.testBit hf), h.secure, h.mem⟩

theorem keeps_set_fwif_mem {L : Nat} {r x : State} (hL : Sub 0x80200 L) (h : Keeps L r x) {fwif' mem'} (hm :
    x.mem.wf → mem'.wf) : Keeps L r (State.mk x.part x.secure x.boot x.env x.cfg x.aer x.hostif x.ltr x.ready
    fwif' x.heart x.marks x.queues x.flags x.ctxs x.flights x.sched x.manifest x.quays mem' x.harbour x.memctl
    x.memhost x.portErrs x.ports x.streams x.blanks x.trigs x.sessions x.codecs x.deckFaults x.deckOwner
    x.deckReduced x.tide x.recorder x.power x.keep x.faults x.lighthouse x.seeds x.freeCount x.outbox x.pending)
    :=
  ⟨fun f hf => by cases f <;> first | exact h.same _ hf | exact (nomatch hL.testBit hf), h.secure, fun w => hm (h.mem w)⟩

theorem keeps_set_manifest_memctl {L : Nat} {r x : State} (hL : Sub 0x220000 L) (h : Keeps L r x) {manifest'
    memctl'} : Keeps L r (State.mk x.part x.secure x.boot x.env x.cfg x.aer x.hostif x.ltr x.ready x.fwif x.heart
    x.marks x.queues x.flags x.ctxs x.flights x.sched manifest' x.quays x.mem x.harbour memctl' x.memhost
    x.portErrs x.ports x.streams x.blanks x.trigs x.sessions x.codecs x.deckFaults x.deckOwner x.deckReduced
    x.tide x.recorder x.power x.keep x.faults x.lighthouse x.seeds x.freeCount x.outbox x.pending) :=
  ⟨fun f hf => by cases f <;> first | exact h.same _ hf | exact (nomatch hL.testBit hf), h.secure, h.mem⟩

theorem keeps_set_mem_faults {L : Nat} {r x : State} (hL : Sub 0x2000080000 L) (h : Keeps L r x) {mem'
    faults'} (hm : x.mem.wf → mem'.wf) : Keeps L r (State.mk x.part x.secure x.boot x.env x.cfg x.aer x.hostif
    x.ltr x.ready x.fwif x.heart x.marks x.queues x.flags x.ctxs x.flights x.sched x.manifest x.quays mem'
    x.harbour x.memctl x.memhost x.portErrs x.ports x.streams x.blanks x.trigs x.sessions x.codecs x.deckFaults
    x.deckOwner x.deckReduced x.tide x.recorder x.power x.keep faults' x.lighthouse x.seeds x.freeCount x.outbox
    x.pending) :=
  ⟨fun f hf => by cases f <;> first | exact h.same _ hf | exact (nomatch hL.testBit hf), h.secure, fun w => hm (h.mem w)⟩

theorem keeps_set_mem_harbour {L : Nat} {r x : State} (hL : Sub 0x180000 L) (h : Keeps L r x) {mem' harbour'}
    (hm : x.mem.wf → mem'.wf) : Keeps L r (State.mk x.part x.secure x.boot x.env x.cfg x.aer x.hostif x.ltr
    x.ready x.fwif x.heart x.marks x.queues x.flags x.ctxs x.flights x.sched x.manifest x.quays mem' harbour'
    x.memctl x.memhost x.portErrs x.ports x.streams x.blanks x.trigs x.sessions x.codecs x.deckFaults x.deckOwner
    x.deckReduced x.tide x.recorder x.power x.keep x.faults x.lighthouse x.seeds x.freeCount x.outbox x.pending)
    :=
  ⟨fun f hf => by cases f <;> first | exact h.same _ hf | exact (nomatch hL.testBit hf), h.secure, fun w => hm (h.mem w)⟩

theorem keeps_set_mem_memctl {L : Nat} {r x : State} (hL : Sub 0x280000 L) (h : Keeps L r x) {mem' memctl'}
    (hm : x.mem.wf → mem'.wf) : Keeps L r (State.mk x.part x.secure x.boot x.env x.cfg x.aer x.hostif x.ltr
    x.ready x.fwif x.heart x.marks x.queues x.flags x.ctxs x.flights x.sched x.manifest x.quays mem' x.harbour
    memctl' x.memhost x.portErrs x.ports x.streams x.blanks x.trigs x.sessions x.codecs x.deckFaults x.deckOwner
    x.deckReduced x.tide x.recorder x.power x.keep x.faults x.lighthouse x.seeds x.freeCount x.outbox x.pending)
    :=
  ⟨fun f hf => by cases f <;> first | exact h.same _ hf | exact (nomatch hL.testBit hf), h.secure, fun w => hm (h.mem w)⟩

theorem keeps_set_mem_memhost {L : Nat} {r x : State} (hL : Sub 0x480000 L) (h : Keeps L r x) {mem' memhost'}
    (hm : x.mem.wf → mem'.wf) : Keeps L r (State.mk x.part x.secure x.boot x.env x.cfg x.aer x.hostif x.ltr
    x.ready x.fwif x.heart x.marks x.queues x.flags x.ctxs x.flights x.sched x.manifest x.quays mem' x.harbour
    x.memctl memhost' x.portErrs x.ports x.streams x.blanks x.trigs x.sessions x.codecs x.deckFaults x.deckOwner
    x.deckReduced x.tide x.recorder x.power x.keep x.faults x.lighthouse x.seeds x.freeCount x.outbox x.pending)
    :=
  ⟨fun f hf => by cases f <;> first | exact h.same _ hf | exact (nomatch hL.testBit hf), h.secure, fun w => hm (h.mem w)⟩

theorem keeps_set_mem_recorder {L : Nat} {r x : State} (hL : Sub 0x400080000 L) (h : Keeps L r x) {mem'
    recorder'} (hm : x.mem.wf → mem'.wf) : Keeps L r (State.mk x.part x.secure x.boot x.env x.cfg x.aer x.hostif
    x.ltr x.ready x.fwif x.heart x.marks x.queues x.flags x.ctxs x.flights x.sched x.manifest x.quays mem'
    x.harbour x.memctl x.memhost x.portErrs x.ports x.streams x.blanks x.trigs x.sessions x.codecs x.deckFaults
    x.deckOwner x.deckReduced x.tide recorder' x.power x.keep x.faults x.lighthouse x.seeds x.freeCount x.outbox
    x.pending) :=
  ⟨fun f hf => by cases f <;> first | exact h.same _ hf | exact (nomatch hL.testBit hf), h.secure, fun w => hm (h.mem w)⟩

theorem keeps_set_mem_seeds {L : Nat} {r x : State} (hL : Sub 0x8000080000 L) (h : Keeps L r x) {mem' seeds'}
    (hm : x.mem.wf → mem'.wf) : Keeps L r (State.mk x.part x.secure x.boot x.env x.cfg x.aer x.hostif x.ltr
    x.ready x.fwif x.heart x.marks x.queues x.flags x.ctxs x.flights x.sched x.manifest x.quays mem' x.harbour
    x.memctl x.memhost x.portErrs x.ports x.streams x.blanks x.trigs x.sessions x.codecs x.deckFaults x.deckOwner
    x.deckReduced x.tide x.recorder x.power x.keep x.faults x.lighthouse seeds' x.freeCount x.outbox x.pending) :=
  ⟨fun f hf => by cases f <;> first | exact h.same _ hf | exact (nomatch hL.testBit hf), h.secure, fun w => hm (h.mem w)⟩

theorem keeps_set_memctl_tide {L : Nat} {r x : State} (hL : Sub 0x200200000 L) (h : Keeps L r x) {memctl'
    tide'} : Keeps L r (State.mk x.part x.secure x.boot x.env x.cfg x.aer x.hostif x.ltr x.ready x.fwif x.heart
    x.marks x.queues x.flags x.ctxs x.flights x.sched x.manifest x.quays x.mem x.harbour memctl' x.memhost
    x.portErrs x.ports x.streams x.blanks x.trigs x.sessions x.codecs x.deckFaults x.deckOwner x.deckReduced tide'
    x.recorder x.power x.keep x.faults x.lighthouse x.seeds x.freeCount x.outbox x.pending) :=
  ⟨fun f hf => by cases f <;> first | exact h.same _ hf | exact (nomatch hL.testBit hf), h.secure, h.mem⟩

theorem keeps_set_ports_streams {L : Nat} {r x : State} (hL : Sub 0x3000000 L) (h : Keeps L r x) {ports'
    streams'} : Keeps L r (State.mk x.part x.secure x.boot x.env x.cfg x.aer x.hostif x.ltr x.ready x.fwif x.heart
    x.marks x.queues x.flags x.ctxs x.flights x.sched x.manifest x.quays x.mem x.harbour x.memctl x.memhost
    x.portErrs ports' streams' x.blanks x.trigs x.sessions x.codecs x.deckFaults x.deckOwner x.deckReduced x.tide
    x.recorder x.power x.keep x.faults x.lighthouse x.seeds x.freeCount x.outbox x.pending) :=
  ⟨fun f hf => by cases f <;> first | exact h.same _ hf | exact (nomatch hL.testBit hf), h.secure, h.mem⟩

theorem keeps_set_quays_deckOwner {L : Nat} {r x : State} (hL : Sub 0x80040000 L) (h : Keeps L r x) {quays'
    deckOwner'} : Keeps L r (State.mk x.part x.secure x.boot x.env x.cfg x.aer x.hostif x.ltr x.ready x.fwif
    x.heart x.marks x.queues x.flags x.ctxs x.flights x.sched x.manifest quays' x.mem x.harbour x.memctl x.memhost
    x.portErrs x.ports x.streams x.blanks x.trigs x.sessions x.codecs x.deckFaults deckOwner' x.deckReduced x.tide
    x.recorder x.power x.keep x.faults x.lighthouse x.seeds x.freeCount x.outbox x.pending) :=
  ⟨fun f hf => by cases f <;> first | exact h.same _ hf | exact (nomatch hL.testBit hf), h.secure, h.mem⟩

theorem keeps_set_queues_flights {L : Nat} {r x : State} (hL : Sub 0x9000 L) (h : Keeps L r x) {queues'
    flights'} : Keeps L r (State.mk x.part x.secure x.boot x.env x.cfg x.aer x.hostif x.ltr x.ready x.fwif x.heart
    x.marks queues' x.flags x.ctxs flights' x.sched x.manifest x.quays x.mem x.harbour x.memctl x.memhost
    x.portErrs x.ports x.streams x.blanks x.trigs x.sessions x.codecs x.deckFaults x.deckOwner x.deckReduced
    x.tide x.recorder x.power x.keep x.faults x.lighthouse x.seeds x.freeCount x.outbox x.pending) :=
  ⟨fun f hf => by cases f <;> first | exact h.same _ hf | exact (nomatch hL.testBit hf), h.secure, h.mem⟩

theorem keeps_set_ready_fwif {L : Nat} {r x : State} (hL : Sub 0x300 L) (h : Keeps L r x) {ready' fwif'} :
    Keeps L r (State.mk x.part x.secure x.boot x.env x.cfg x.aer x.hostif x.ltr ready' fwif' x.heart x.marks
    x.queues x.flags x.ctxs x.flights x.sched x.manifest x.quays x.mem x.harbour x.memctl x.memhost x.portErrs
    x.ports x.streams x.blanks x.trigs x.sessions x.codecs x.deckFaults x.deckOwner x.deckReduced x.tide
    x.recorder x.power x.keep x.faults x.lighthouse x.seeds x.freeCount x.outbox x.pending) :=
  ⟨fun f hf => by cases f <;> first | exact h.same _ hf | exact (nomatch hL.testBit hf), h.secure, h.mem⟩

theorem keeps_set_ready_lighthouse {L : Nat} {r x : State} (hL : Sub 0x4000000100 L) (h : Keeps L r x) {ready'
    lighthouse'} : Keeps L r (State.mk x.part x.secure x.boot x.env x.cfg x.aer x.hostif x.ltr ready' x.fwif
    x.heart x.marks x.queues x.flags x.ctxs x.flights x.sched x.manifest x.quays x.mem x.harbour x.memctl
    x.memhost x.portErrs x.ports x.streams x.blanks x.trigs x.sessions x.codecs x.deckFaults x.deckOwner
    x.deckReduced x.tide x.recorder x.power x.keep x.faults lighthouse' x.seeds x.freeCount x.outbox x.pending) :=
  ⟨fun f hf => by cases f <;> first | exact h.same _ hf | exact (nomatch hL.testBit hf), h.secure, h.mem⟩

theorem keeps_set_ready_sched {L : Nat} {r x : State} (hL : Sub 0x10100 L) (h : Keeps L r x) {ready' sched'} :
    Keeps L r (State.mk x.part x.secure x.boot x.env x.cfg x.aer x.hostif x.ltr ready' x.fwif x.heart x.marks
    x.queues x.flags x.ctxs x.flights sched' x.manifest x.quays x.mem x.harbour x.memctl x.memhost x.portErrs
    x.ports x.streams x.blanks x.trigs x.sessions x.codecs x.deckFaults x.deckOwner x.deckReduced x.tide
    x.recorder x.power x.keep x.faults x.lighthouse x.seeds x.freeCount x.outbox x.pending) :=
  ⟨fun f hf => by cases f <;> first | exact h.same _ hf | exact (nomatch hL.testBit hf), h.secure, h.mem⟩

theorem keeps_set_secure_boot {L : Nat} {r x : State} (hL : Sub 0x6 L) (h : Keeps L r x) {secure' boot'} (hc :
    x.secure.Grows secure') : Keeps L r (State.mk x.part secure' boot' x.env x.cfg x.aer x.hostif x.ltr x.ready
    x.fwif x.heart x.marks x.queues x.flags x.ctxs x.flights x.sched x.manifest x.quays x.mem x.harbour x.memctl
    x.memhost x.portErrs x.ports x.streams x.blanks x.trigs x.sessions x.codecs x.deckFaults x.deckOwner
    x.deckReduced x.tide x.recorder x.power x.keep x.faults x.lighthouse x.seeds x.freeCount x.outbox x.pending)
    :=
  ⟨fun f hf => by cases f <;> first | exact h.same _ hf | exact (nomatch hL.testBit hf), h.secure.trans hc, h.mem⟩

theorem keeps_set_secure_faults {L : Nat} {r x : State} (hL : Sub 0x2000000002 L) (h : Keeps L r x) {secure'
    faults'} (hc : x.secure.Grows secure') : Keeps L r (State.mk x.part secure' x.boot x.env x.cfg x.aer x.hostif
    x.ltr x.ready x.fwif x.heart x.marks x.queues x.flags x.ctxs x.flights x.sched x.manifest x.quays x.mem
    x.harbour x.memctl x.memhost x.portErrs x.ports x.streams x.blanks x.trigs x.sessions x.codecs x.deckFaults
    x.deckOwner x.deckReduced x.tide x.recorder x.power x.keep faults' x.lighthouse x.seeds x.freeCount x.outbox
    x.pending) :=
  ⟨fun f hf => by cases f <;> first | exact h.same _ hf | exact (nomatch hL.testBit hf), h.secure.trans hc, h.mem⟩

theorem keeps_set_streams_recorder {L : Nat} {r x : State} (hL : Sub 0x402000000 L) (h : Keeps L r x)
    {streams' recorder'} : Keeps L r (State.mk x.part x.secure x.boot x.env x.cfg x.aer x.hostif x.ltr x.ready
    x.fwif x.heart x.marks x.queues x.flags x.ctxs x.flights x.sched x.manifest x.quays x.mem x.harbour x.memctl
    x.memhost x.portErrs x.ports streams' x.blanks x.trigs x.sessions x.codecs x.deckFaults x.deckOwner
    x.deckReduced x.tide recorder' x.power x.keep x.faults x.lighthouse x.seeds x.freeCount x.outbox x.pending) :=
  ⟨fun f hf => by cases f <;> first | exact h.same _ hf | exact (nomatch hL.testBit hf), h.secure, h.mem⟩

theorem keeps_set_boot_env_lighthouse {L : Nat} {r x : State} (hL : Sub 0x400000000c L) (h : Keeps L r x)
    {boot' env' lighthouse'} : Keeps L r (State.mk x.part x.secure boot' env' x.cfg x.aer x.hostif x.ltr x.ready
    x.fwif x.heart x.marks x.queues x.flags x.ctxs x.flights x.sched x.manifest x.quays x.mem x.harbour x.memctl
    x.memhost x.portErrs x.ports x.streams x.blanks x.trigs x.sessions x.codecs x.deckFaults x.deckOwner
    x.deckReduced x.tide x.recorder x.power x.keep x.faults lighthouse' x.seeds x.freeCount x.outbox x.pending) :=
  ⟨fun f hf => by cases f <;> first | exact h.same _ hf | exact (nomatch hL.testBit hf), h.secure, h.mem⟩

theorem keeps_set_env_memctl_power {L : Nat} {r x : State} (hL : Sub 0x800200008 L) (h : Keeps L r x) {env'
    memctl' power'} : Keeps L r (State.mk x.part x.secure x.boot env' x.cfg x.aer x.hostif x.ltr x.ready x.fwif
    x.heart x.marks x.queues x.flags x.ctxs x.flights x.sched x.manifest x.quays x.mem x.harbour memctl' x.memhost
    x.portErrs x.ports x.streams x.blanks x.trigs x.sessions x.codecs x.deckFaults x.deckOwner x.deckReduced
    x.tide x.recorder power' x.keep x.faults x.lighthouse x.seeds x.freeCount x.outbox x.pending) :=
  ⟨fun f hf => by cases f <;> first | exact h.same _ hf | exact (nomatch hL.testBit hf), h.secure, h.mem⟩

theorem keeps_set_fwif_tide_recorder {L : Nat} {r x : State} (hL : Sub 0x600000200 L) (h : Keeps L r x) {fwif'
    tide' recorder'} : Keeps L r (State.mk x.part x.secure x.boot x.env x.cfg x.aer x.hostif x.ltr x.ready fwif'
    x.heart x.marks x.queues x.flags x.ctxs x.flights x.sched x.manifest x.quays x.mem x.harbour x.memctl
    x.memhost x.portErrs x.ports x.streams x.blanks x.trigs x.sessions x.codecs x.deckFaults x.deckOwner
    x.deckReduced tide' recorder' x.power x.keep x.faults x.lighthouse x.seeds x.freeCount x.outbox x.pending) :=
  ⟨fun f hf => by cases f <;> first | exact h.same _ hf | exact (nomatch hL.testBit hf), h.secure, h.mem⟩

theorem keeps_set_heart_ctxs_flights {L : Nat} {r x : State} (hL : Sub 0xc400 L) (h : Keeps L r x) {heart'
    ctxs' flights'} : Keeps L r (State.mk x.part x.secure x.boot x.env x.cfg x.aer x.hostif x.ltr x.ready x.fwif
    heart' x.marks x.queues x.flags ctxs' flights' x.sched x.manifest x.quays x.mem x.harbour x.memctl x.memhost
    x.portErrs x.ports x.streams x.blanks x.trigs x.sessions x.codecs x.deckFaults x.deckOwner x.deckReduced
    x.tide x.recorder x.power x.keep x.faults x.lighthouse x.seeds x.freeCount x.outbox x.pending) :=
  ⟨fun f hf => by cases f <;> first | exact h.same _ hf | exact (nomatch hL.testBit hf), h.secure, h.mem⟩

theorem keeps_set_manifest_quays_memctl {L : Nat} {r x : State} (hL : Sub 0x260000 L) (h : Keeps L r x)
    {manifest' quays' memctl'} : Keeps L r (State.mk x.part x.secure x.boot x.env x.cfg x.aer x.hostif x.ltr
    x.ready x.fwif x.heart x.marks x.queues x.flags x.ctxs x.flights x.sched manifest' quays' x.mem x.harbour
    memctl' x.memhost x.portErrs x.ports x.streams x.blanks x.trigs x.sessions x.codecs x.deckFaults x.deckOwner
    x.deckReduced x.tide x.recorder x.power x.keep x.faults x.lighthouse x.seeds x.freeCount x.outbox x.pending)
    :=
  ⟨fun f hf => by cases f <;> first | exact h.same _ hf | exact (nomatch hL.testBit hf), h.secure, h.mem⟩

theorem keeps_set_ready_fwif_memctl {L : Nat} {r x : State} (hL : Sub 0x200300 L) (h : Keeps L r x) {ready'
    fwif' memctl'} : Keeps L r (State.mk x.part x.secure x.boot x.env x.cfg x.aer x.hostif x.ltr ready' fwif'
    x.heart x.marks x.queues x.flags x.ctxs x.flights x.sched x.manifest x.quays x.mem x.harbour memctl' x.memhost
    x.portErrs x.ports x.streams x.blanks x.trigs x.sessions x.codecs x.deckFaults x.deckOwner x.deckReduced
    x.tide x.recorder x.power x.keep x.faults x.lighthouse x.seeds x.freeCount x.outbox x.pending) :=
  ⟨fun f hf => by cases f <;> first | exact h.same _ hf | exact (nomatch hL.testBit hf), h.secure, h.mem⟩

theorem keeps_set_secure_env_aer {L : Nat} {r x : State} (hL : Sub 0x2a L) (h : Keeps L r x) {secure' env'
    aer'} (hc : x.secure.Grows secure') : Keeps L r (State.mk x.part secure' x.boot env' x.cfg aer' x.hostif x.ltr
    x.ready x.fwif x.heart x.marks x.queues x.flags x.ctxs x.flights x.sched x.manifest x.quays x.mem x.harbour
    x.memctl x.memhost x.portErrs x.ports x.streams x.blanks x.trigs x.sessions x.codecs x.deckFaults x.deckOwner
    x.deckReduced x.tide x.recorder x.power x.keep x.faults x.lighthouse x.seeds x.freeCount x.outbox x.pending)
    :=
  ⟨fun f hf => by cases f <;> first | exact h.same _ hf | exact (nomatch hL.testBit hf), h.secure.trans hc, h.mem⟩

theorem keeps_set_env_cfg_hostif_ltr {L : Nat} {r x : State} (hL : Sub 0xd8 L) (h : Keeps L r x) {env' cfg'
    hostif' ltr'} : Keeps L r (State.mk x.part x.secure x.boot env' cfg' x.aer hostif' ltr' x.ready x.fwif x.heart
    x.marks x.queues x.flags x.ctxs x.flights x.sched x.manifest x.quays x.mem x.harbour x.memctl x.memhost
    x.portErrs x.ports x.streams x.blanks x.trigs x.sessions x.codecs x.deckFaults x.deckOwner x.deckReduced
    x.tide x.recorder x.power x.keep x.faults x.lighthouse x.seeds x.freeCount x.outbox x.pending) :=
  ⟨fun f hf => by cases f <;> first | exact h.same _ hf | exact (nomatch hL.testBit hf), h.secure, h.mem⟩

theorem keeps_set_env_quays_memctl_lighthouse {L : Nat} {r x : State} (hL : Sub 0x4000240008 L) (h : Keeps L r
    x) {env' quays' memctl' lighthouse'} : Keeps L r (State.mk x.part x.secure x.boot env' x.cfg x.aer x.hostif
    x.ltr x.ready x.fwif x.heart x.marks x.queues x.flags x.ctxs x.flights x.sched x.manifest quays' x.mem
    x.harbour memctl' x.memhost x.portErrs x.ports x.streams x.blanks x.trigs x.sessions x.codecs x.deckFaults
    x.deckOwner x.deckReduced x.tide x.recorder x.power x.keep x.faults lighthouse' x.seeds x.freeCount x.outbox
    x.pending) :=
  ⟨fun f hf => by cases f <;> first | exact h.same _ hf | exact (nomatch hL.testBit hf), h.secure, h.mem⟩

theorem keeps_set_ready_heart_quays_lighthouse {L : Nat} {r x : State} (hL : Sub 0x4000040500 L) (h : Keeps L
    r x) {ready' heart' quays' lighthouse'} : Keeps L r (State.mk x.part x.secure x.boot x.env x.cfg x.aer
    x.hostif x.ltr ready' x.fwif heart' x.marks x.queues x.flags x.ctxs x.flights x.sched x.manifest quays' x.mem
    x.harbour x.memctl x.memhost x.portErrs x.ports x.streams x.blanks x.trigs x.sessions x.codecs x.deckFaults
    x.deckOwner x.deckReduced x.tide x.recorder x.power x.keep x.faults lighthouse' x.seeds x.freeCount x.outbox
    x.pending) :=
  ⟨fun f hf => by cases f <;> first | exact h.same _ hf | exact (nomatch hL.testBit hf), h.secure, h.mem⟩

theorem
    keeps_set_ready_fwif_heart_queues_flags_ctxs_flights_sched_manifest_quays_mem_memctl_memhost_ports_streams_trigs_sessions_codecs_deckOwner_recorder_keep_faults
    {L : Nat} {r x : State} (hL : Sub 0x34bb6ff700 L) (h : Keeps L r x) {ready' fwif' heart' queues' flags' ctxs'
    flights' sched' manifest' quays' mem' memctl' memhost' ports' streams' trigs' sessions' codecs' deckOwner'
    recorder' keep' faults'} (hm : x.mem.wf → mem'.wf) : Keeps L r (State.mk x.part x.secure x.boot x.env x.cfg
    x.aer x.hostif x.ltr ready' fwif' heart' x.marks queues' flags' ctxs' flights' sched' manifest' quays' mem'
    x.harbour memctl' memhost' x.portErrs ports' streams' x.blanks trigs' sessions' codecs' x.deckFaults
    deckOwner' x.deckReduced x.tide recorder' x.power keep' faults' x.lighthouse x.seeds x.freeCount x.outbox
    x.pending) :=
  ⟨fun f hf => by cases f <;> first | exact h.same _ hf | exact (nomatch hL.testBit hf), h.secure, fun w => hm (h.mem w)⟩

theorem keeps_updQueue {L : Nat} {r s : State} (hL : Sub 0x1000 L) (h : Keeps L r s)
    (q : QueueId) (f : Queue → Queue) :
    Keeps L r (State.updQueue s q f) := by
  unfold State.updQueue
  try dsimp only
  repeat' first
    | with_reducible assumption | with_reducible apply keepsR_next | with_reducible apply keeps_foldl
    | exact within hL rfl | intro _ | split
    | (fail_if_no_progress with_reducible apply keeps_set_queues (within hL rfl))

theorem keeps_updCtx {L : Nat} {r s : State} (hL : Sub 0x4000 L) (h : Keeps L r s) (c : CtxId) (f : Ctx → Ctx) :
    Keeps L r (State.updCtx s c f) := by
  unfold State.updCtx
  try dsimp only
  repeat' first
    | with_reducible assumption | with_reducible apply keepsR_next | with_reducible apply keeps_foldl
    | exact within hL rfl | intro _ | split
    | (fail_if_no_progress with_reducible apply keeps_set_ctxs (within hL rfl))

theorem keeps_updQuay {L : Nat} {r s : State} (hL : Sub 0x40000 L) (h : Keeps L r s)
    (q : QuayId) (f : Quay → Quay) :
    Keeps L r (State.updQuay s q f) := by
  unfold State.updQuay
  try dsimp only
  repeat' first
    | with_reducible assumption | with_reducible apply keepsR_next | with_reducible apply keeps_foldl
    | exact within hL rfl | intro _ | split
    | (fail_if_no_progress with_reducible apply keeps_set_quays (within hL rfl))

theorem keeps_updBerth {L : Nat} {r s : State} (hL : Sub 0x40000 L) (h : Keeps L r s)
    (q : QuayId) (b : BerthId) (f : Berth → Berth) :
    Keeps L r (State.updBerth s q b f) := by
  unfold State.updBerth
  try dsimp only
  repeat' first
    | with_reducible assumption | with_reducible apply keepsR_next | with_reducible apply keeps_foldl
    | with_reducible apply keeps_updQuay

theorem keeps_updPort {L : Nat} {r s : State} (hL : Sub 0x1000000 L) (h : Keeps L r s)
    (p : PortId) (f : Port → Port) :
    Keeps L r (State.updPort s p f) := by
  unfold State.updPort
  try dsimp only
  repeat' first
    | with_reducible assumption | with_reducible apply keepsR_next | with_reducible apply keeps_foldl
    | exact within hL rfl | intro _ | split
    | (fail_if_no_progress with_reducible apply keeps_set_ports (within hL rfl))

theorem keeps_updStream {L : Nat} {r s : State} (hL : Sub 0x2000000 L) (h : Keeps L r s)
    (i : SctxId) (f : Stream → Stream) :
    Keeps L r (State.updStream s i f) := by
  unfold State.updStream
  try dsimp only
  repeat' first
    | with_reducible assumption | with_reducible apply keepsR_next | with_reducible apply keeps_foldl
    | exact within hL rfl | intro _ | split
    | (fail_if_no_progress with_reducible apply keeps_set_streams (within hL rfl))

theorem keeps_updSession {L : Nat} {r s : State} (hL : Sub 0x10000000 L) (h : Keeps L r s)
    (i : SessId) (f : Session → Session) :
    Keeps L r (State.updSession s i f) := by
  unfold State.updSession
  try dsimp only
  repeat' first
    | with_reducible assumption | with_reducible apply keepsR_next | with_reducible apply keeps_foldl
    | exact within hL rfl | intro _ | split
    | (fail_if_no_progress with_reducible apply keeps_set_sessions (within hL rfl))

theorem keeps_updChan {L : Nat} {r s : State} (hL : Sub 0x200000 L) (h : Keeps L r s)
    (c : ChanId) (f : Channel → Channel) :
    Keeps L r (State.updChan s c f) := by
  unfold State.updChan
  try dsimp only
  repeat' first
    | with_reducible assumption | with_reducible apply keepsR_next | with_reducible apply keeps_foldl
    | exact within hL rfl | intro _ | split
    | (fail_if_no_progress with_reducible apply keeps_set_memctl (within hL rfl))

theorem keeps_updMem {L : Nat} {r s : State} (hL : Sub 0x80000 L) (h : Keeps L r s) (f : Memory → Memory) (hf : s.mem.wf → (f s.mem).wf) :
    Keeps L r (s.updMem f) := keeps_set_mem hL h hf

theorem keeps_updMem_store {L : Nat} {r s : State} (hL : Sub 0x80000 L) (h : Keeps L r s) (a : Nat) (bs : List Byte) :
    Keeps L r (s.updMem fun m => m.store a bs) := keeps_updMem (within hL rfl) h _ fun w => Memory.wf_store w _ _

theorem keeps_send {L : Nat} {r s : State} (hL : Sub 0x20000000000 L) (h : Keeps L r s) (m : Message) :
    Keeps L r (State.send s m) := by
  unfold State.send
  try dsimp only
  repeat' first
    | with_reducible assumption | with_reducible apply keepsR_next | with_reducible apply keeps_foldl
    | exact within hL rfl | intro _ | split
    | (fail_if_no_progress with_reducible apply keeps_set_outbox (within hL rfl))

theorem keeps_setPba {L : Nat} {r s : State} (hL : Sub 0x10 L) (h : Keeps L r s) (v : Nat) (p : Bool) :
    Keeps L r (State.setPba s v p) := by
  unfold State.setPba
  try dsimp only
  repeat' first
    | with_reducible assumption | with_reducible apply keepsR_next | with_reducible apply keeps_foldl
    | exact within hL rfl | intro _ | split
    | (fail_if_no_progress with_reducible apply keeps_set_cfg (within hL rfl))

theorem keeps_sendMsix {L : Nat} {r s : State} (hL : Sub 0x20000000010 L) (h : Keeps L r s) (v : Nat) :
    Keeps L r (State.sendMsix s v) := by
  unfold State.sendMsix
  try dsimp only
  repeat' first
    | with_reducible assumption | with_reducible apply keepsR_next | with_reducible apply keeps_foldl
    | with_reducible apply keeps_send | with_reducible apply keeps_setPba | exact within hL rfl | intro _
    | split

theorem keeps_flushMsix {L : Nat} {r s : State} (hL : Sub 0x20000000010 L) (h : Keeps L r s) :
    Keeps L r (State.flushMsix s) := by
  unfold State.flushMsix
  try dsimp only
  repeat' first
    | with_reducible assumption | with_reducible apply keepsR_next | with_reducible apply keeps_foldl
    | with_reducible apply keeps_sendMsix | with_reducible apply keeps_setPba | exact within hL rfl | intro _
    | split

theorem keeps_sendAer {L : Nat} {r s : State} (hL : Sub 0x20000000020 L) (h : Keeps L r s) (k : AerKind) :
    Keeps L r (State.sendAer s k) := by
  unfold State.sendAer
  try dsimp only
  repeat' first
    | with_reducible assumption | with_reducible apply keepsR_next | with_reducible apply keeps_foldl
    | with_reducible apply keeps_send | exact within hL rfl | intro _ | split
    | (fail_if_no_progress with_reducible apply keeps_set_aer (within hL rfl))

theorem keeps_advanceTo {L : Nat} {r s : State} (hL : Sub 0x200000000 L) (h : Keeps L r s) (t : Tick) :
    Keeps L r (State.advanceTo s t) := by
  unfold State.advanceTo
  try dsimp only
  repeat' first
    | with_reducible assumption | with_reducible apply keepsR_next | with_reducible apply keeps_foldl
    | exact within hL rfl | intro _ | split
    | (fail_if_no_progress with_reducible apply keeps_set_tide (within hL rfl))

theorem keeps_takeFree {L : Nat} {r s : State} (hL : Sub 0x10000000000 L) (h : Keeps L r s) : Keeps L r s.takeFree.2 := keeps_set_freeCount (within hL rfl) h

theorem keeps_State_forget {L : Nat} {r s : State} (hL : Sub 0x8000080000 L) (h : Keeps L r s) (lo hi : Nat) :
    Keeps L r (s.forget lo hi) := keeps_set_mem_seeds hL h fun w => Memory.wf_forget w _ _ _

theorem keeps_outboundWrite {L : Nat} {r s : State} (hL : Sub 0x20000000000 L) (h : Keeps L r s)
    (a : Nat) (bs : List Byte) (noSnoop : Bool) :
    Keeps L r (State.outboundWrite s a bs noSnoop) := by
  unfold State.outboundWrite
  try dsimp only
  repeat' first
    | with_reducible assumption | with_reducible apply keepsR_next | with_reducible apply keeps_foldl
    | with_reducible apply keeps_send | exact within hL rfl | intro _

theorem keeps_deviceWrite {L : Nat} {r s : State} (hL : Sub 0x20000080000 L) (h : Keeps L r s)
    (a : Nat) (bs : List Byte) (noSnoop : Bool) :
    Keeps L r (State.deviceWrite s a bs noSnoop) := by
  unfold State.deviceWrite
  try dsimp only
  repeat' first
    | with_reducible assumption | with_reducible apply keepsR_next | with_reducible apply keeps_foldl
    | with_reducible apply keeps_outboundWrite | with_reducible apply keeps_updMem_store
    | with_reducible apply keeps_updMem | exact within hL rfl | intro _ | split

theorem keeps_trace {L : Nat} {r s : State} (hL : Sub 0x80200 L) (h : Keeps L r s)
    (point : Nat) (arg0 : Nat) (arg1 : Nat) :
    Keeps L r (State.trace s point arg0 arg1) := by
  unfold State.trace
  try dsimp only
  repeat' first
    | with_reducible assumption | with_reducible apply keepsR_next | with_reducible apply keeps_foldl
    | exact within hL rfl | intro _ | split
    | (fail_if_no_progress with_reducible apply keeps_set_fwif (within hL rfl))
    | with_reducible apply keeps_set_fwif_mem (within hL rfl) | with_reducible apply Memory.wf_store

theorem keeps_logPut {L : Nat} {r s : State} (hL : Sub 0x20000080210 L) (h : Keeps L r s)
    (e : Event) (buffered : Bool) :
    Keeps L r (State.logPut s e buffered) := by
  unfold State.logPut
  try dsimp only
  repeat' first
    | with_reducible assumption | with_reducible apply keepsR_next | with_reducible apply keeps_foldl
    | with_reducible apply keeps_sendMsix | exact within hL rfl | intro _ | split
    | (fail_if_no_progress with_reducible apply keeps_set_fwif (within hL rfl))
    | with_reducible apply keeps_set_fwif_mem (within hL rfl) | with_reducible apply Memory.wf_store

theorem keeps_logEvent {L : Nat} {r s : State} (hL : Sub 0x20000080210 L) (h : Keeps L r s) (e : Event) :
    Keeps L r (State.logEvent s e) := by
  unfold State.logEvent
  try dsimp only
  repeat' first
    | with_reducible assumption | with_reducible apply keepsR_next | with_reducible apply keeps_foldl
    | with_reducible apply keeps_logPut | exact within hL rfl | intro _ | split
    | (fail_if_no_progress with_reducible apply keeps_set_fwif (within hL rfl))

theorem keeps_faultPut {L : Nat} {r s : State} (hL : Sub 0x22000080210 L) (h : Keeps L r s)
    (e : Event) (buffered : Bool) :
    Keeps L r (State.faultPut s e buffered) := by
  unfold State.faultPut
  try dsimp only
  repeat' first
    | with_reducible assumption | with_reducible apply keepsR_next | with_reducible apply keeps_foldl
    | with_reducible apply keeps_sendMsix | with_reducible apply keeps_trace | exact within hL rfl | intro _
    | split | (fail_if_no_progress with_reducible apply keeps_set_faults (within hL rfl))
    | with_reducible apply keeps_set_mem_faults (within hL rfl) | with_reducible apply Memory.wf_store

theorem keeps_faultEvent {L : Nat} {r s : State} (hL : Sub 0x22000080210 L) (h : Keeps L r s) (e : Event) :
    Keeps L r (State.faultEvent s e) := by
  unfold State.faultEvent
  try dsimp only
  repeat' first
    | with_reducible assumption | with_reducible apply keepsR_next | with_reducible apply keeps_foldl
    | with_reducible apply keeps_faultPut | exact within hL rfl | intro _ | split
    | (fail_if_no_progress with_reducible apply keeps_set_faults (within hL rfl))

theorem keeps_countFault {L : Nat} {r s : State} (hL : Sub 0x2000000000 L) (h : Keeps L r s) (sev : Severity) :
    Keeps L r (State.countFault s sev) := by
  unfold State.countFault
  try dsimp only
  repeat' first
    | with_reducible assumption | with_reducible apply keepsR_next | with_reducible apply keeps_foldl
    | exact within hL rfl | intro _ | split
    | (fail_if_no_progress with_reducible apply keeps_set_faults (within hL rfl))

theorem keeps_sendAreaMsix {L : Nat} {r s : State} (hL : Sub 0x20000000010 L) (h : Keeps L r s)
    (reason : BitVec 16) :
    Keeps L r (State.sendAreaMsix s reason) := by
  unfold State.sendAreaMsix
  try dsimp only
  repeat' first
    | with_reducible assumption | with_reducible apply keepsR_next | with_reducible apply keeps_foldl
    | with_reducible apply keeps_sendMsix | exact within hL rfl | intro _ | split

theorem keeps_report {L : Nat} {r s : State} (hL : Sub 0x22000080210 L) (h : Keeps L r s) (e : Event) :
    Keeps L r (State.report s e) := by
  unfold State.report
  try dsimp only
  repeat' first
    | with_reducible assumption | with_reducible apply keepsR_next | with_reducible apply keeps_foldl
    | with_reducible apply keeps_countFault | with_reducible apply keeps_faultEvent
    | with_reducible apply keeps_sendAreaMsix | with_reducible apply keeps_logEvent | exact within hL rfl
    | intro _ | split | (fail_if_no_progress with_reducible apply keeps_set_fwif (within hL rfl))

theorem keeps_note {L : Nat} {r s : State} (hL : Sub 0x22000080210 L) (h : Keeps L r s)
    (reason : BitVec 16) (sev : Severity) (detail : Nat) :
    Keeps L r (State.note s reason sev detail) := by
  unfold State.note
  try dsimp only
  repeat' first
    | with_reducible assumption | with_reducible apply keepsR_next | with_reducible apply keeps_foldl
    | with_reducible apply keeps_report

theorem keeps_noteReserved {L : Nat} {r s : State} (hL : Sub 0x22000080210 L) (h : Keeps L r s) (n : Nat) :
    Keeps L r (State.noteReserved s n) := by
  unfold State.noteReserved
  try dsimp only
  repeat' first
    | with_reducible assumption | with_reducible apply keepsR_next | with_reducible apply keeps_foldl
    | with_reducible apply keeps_note | exact within hL rfl | intro _ | split

theorem keeps_reportLimited {L : Nat} {r s : State} (hL : Sub 0x22000080a10 L) (h : Keeps L r s)
    (key : Nat) (e : Event) :
    Keeps L r (State.reportLimited s key e) := by
  unfold State.reportLimited
  try dsimp only
  repeat' first
    | with_reducible assumption | with_reducible apply keepsR_next | with_reducible apply keeps_foldl
    | with_reducible apply keeps_report | exact within hL rfl | intro _ | split
    | (fail_if_no_progress with_reducible apply keeps_set_marks (within hL rfl))

theorem keeps_flushMarks {L : Nat} {r s : State} (hL : Sub 0x22000080a10 L) (h : Keeps L r s) :
    Keeps L r (State.flushMarks s) := by
  unfold State.flushMarks
  try dsimp only
  repeat' first
    | with_reducible assumption | with_reducible apply keepsR_next | with_reducible apply keeps_foldl
    | with_reducible apply keeps_report | exact within hL rfl | intro _ | split
    | (fail_if_no_progress with_reducible apply keeps_set_marks (within hL rfl))

theorem keeps_bootReport {L : Nat} {r s : State} (hL : Sub 0x22000080214 L) (h : Keeps L r s)
    (reason : BitVec 16) (sev : Severity) (detail : Nat) :
    Keeps L r (State.bootReport s reason sev detail) := by
  unfold State.bootReport
  try dsimp only
  repeat' first
    | with_reducible assumption | with_reducible apply keepsR_next | with_reducible apply keeps_foldl
    | with_reducible apply keeps_note | exact within hL rfl | intro _ | split
    | (fail_if_no_progress with_reducible apply keeps_set_boot (within hL rfl))

theorem keeps_bootHalt {L : Nat} {r s : State} (hL : Sub 0x2600008021c L) (h : Keeps L r s)
    (reason : BitVec 16) (detail : Nat) :
    Keeps L r (State.bootHalt s reason detail) := by
  unfold State.bootHalt
  try dsimp only
  repeat' first
    | with_reducible assumption | with_reducible apply keepsR_next | with_reducible apply keeps_foldl
    | with_reducible apply keeps_bootReport | exact within hL rfl | intro _ | split
    | (fail_if_no_progress with_reducible apply keeps_set_boot_env_lighthouse (within hL rfl))

theorem keeps_zeroPage {L : Nat} {r s : State} (hL : Sub 0x80000 L) (h : Keeps L r s) (a : Nat) :
    Keeps L r (zeroPage s a) := by
  unfold zeroPage
  refine keeps_updMem hL h _ fun w => ?_
  exact Memory.wf_clear w (a / 0x1_0000 * 0x1_0000) ((a / 0x1_0000 + 1) * 0x1_0000)

theorem keeps_writeVa {L : Nat} {r s : State} (hL : Sub 0x20000080000 L) (h : Keeps L r s)
    (c : CtxId) (va : Nat) (bs : List Byte) :
    Keeps L r (writeVa s c va bs) := by
  unfold writeVa
  try dsimp only
  repeat' first
    | with_reducible assumption | with_reducible apply keepsR_next | with_reducible apply keeps_foldl
    | with_reducible apply keeps_deviceWrite | with_reducible apply keeps_zeroPage | exact within hL rfl
    | intro _ | split

theorem keeps_putFlag {L : Nat} {r s : State} (hL : Sub 0x2000 L) (h : Keeps L r s) (f : FlagId) (v : Word) :
    Keeps L r (State.putFlag s f v) := by
  unfold State.putFlag
  try dsimp only
  repeat' first
    | with_reducible assumption | with_reducible apply keepsR_next | with_reducible apply keeps_foldl
    | exact within hL rfl | intro _ | split
    | (fail_if_no_progress with_reducible apply keeps_set_flags (within hL rfl))

theorem keeps_recWrite {L : Nat} {r s : State} (hL : Sub 0x400080000 L) (h : Keeps L r s) (bytes : List Byte) :
    Keeps L r (State.recWrite s bytes) := by
  unfold State.recWrite
  try dsimp only
  repeat' first
    | with_reducible assumption | with_reducible apply keepsR_next | with_reducible apply keeps_foldl
    | exact within hL rfl | intro _ | split | with_reducible apply keeps_set_mem_recorder (within hL rfl)
    | with_reducible apply Memory.wf_store

theorem keeps_recPlace {L : Nat} {r s : State} (hL : Sub 0x400080000 L) (h : Keeps L r s)
    (kind : Nat) (flags : Nat) (args : List Byte) (payload : List Byte) :
    Keeps L r (State.recPlace s kind flags args payload) := by
  unfold State.recPlace
  try dsimp only
  repeat' first
    | with_reducible assumption | with_reducible apply keepsR_next | with_reducible apply keeps_foldl
    | with_reducible apply keeps_recWrite | exact within hL rfl | intro _ | split

theorem keeps_record {L : Nat} {r s : State} (hL : Sub 0x22400080210 L) (h : Keeps L r s)
    (kind : Nat) (flags : Nat) (args : List Byte) (payload : List Byte) :
    Keeps L r (State.record s kind flags args payload) := by
  unfold State.record
  try dsimp only
  repeat' first
    | with_reducible assumption | with_reducible apply keepsR_next | with_reducible apply keeps_foldl
    | with_reducible apply keeps_note | with_reducible apply keeps_recPlace | exact within hL rfl | intro _
    | split | (fail_if_no_progress with_reducible apply keeps_set_recorder (within hL rfl))

end Sys2Proof.Machine
end

