-- ==== Sys2Proof/Laws/KeepsQueue.lean ====
section
/-! SUPPORT. `Keeps` of the operations of QueueOps, ReadOps, SchedOps, StreamOps, PipeOps, RepairOps. -/

namespace Sys2Proof.Machine

theorem keeps_updFlight {L : Nat} {r s : State} (hL : Sub 0x8000 L) (h : Keeps L r s)
    (q : QueueId) (idx : Word) (f : Flight → Flight) :
    Keeps L r (State.updFlight s q idx f) := by
  unfold State.updFlight
  try dsimp only
  repeat' first
    | with_reducible assumption | with_reducible apply keepsR_next | with_reducible apply keeps_foldl
    | exact within hL rfl | intro _ | split
    | (fail_if_no_progress with_reducible apply keeps_set_flights (within hL rfl))

theorem keeps_dropFlight {L : Nat} {r s : State} (hL : Sub 0x8000 L) (h : Keeps L r s)
    (q : QueueId) (idx : Word) :
    Keeps L r (State.dropFlight s q idx) := by
  unfold State.dropFlight
  try dsimp only
  repeat' first
    | with_reducible assumption | with_reducible apply keepsR_next | with_reducible apply keeps_foldl
    | exact within hL rfl | intro _ | split
    | (fail_if_no_progress with_reducible apply keeps_set_flights (within hL rfl))

theorem keeps_putHeaderWord {L : Nat} {r s : State} (hL : Sub 0x80000 L) (h : Keeps L r s)
    (q : QueueId) (off : Nat) (v : Word) :
    Keeps L r (State.putHeaderWord s q off v) := by
  unfold State.putHeaderWord
  try dsimp only
  repeat' first
    | with_reducible assumption | with_reducible apply keepsR_next | with_reducible apply keeps_foldl
    | with_reducible apply keeps_updMem_store

theorem keeps_setHead {L : Nat} {r s : State} (hL : Sub 0x81000 L) (h : Keeps L r s) (q : QueueId) (v : Word) :
    Keeps L r (State.setHead s q v) := by
  unfold State.setHead
  try dsimp only
  repeat' first
    | with_reducible assumption | with_reducible apply keepsR_next | with_reducible apply keeps_foldl
    | with_reducible apply keeps_updQueue | with_reducible apply keeps_putHeaderWord | exact within hL rfl

theorem keeps_haltUpdate {L : Nat} {r s : State} (hL : Sub 0x40 L) (h : Keeps L r s) :
    Keeps L r (State.haltUpdate s) := by
  unfold State.haltUpdate
  try dsimp only
  repeat' first
    | with_reducible assumption | with_reducible apply keepsR_next | with_reducible apply keeps_foldl
    | exact within hL rfl | intro _ | split
    | (fail_if_no_progress with_reducible apply keeps_set_hostif (within hL rfl))

theorem keeps_ltrUpdate {L : Nat} {r s : State} (hL : Sub 0x20000000080 L) (h : Keeps L r s) :
    Keeps L r (State.ltrUpdate s) := by
  unfold State.ltrUpdate
  try dsimp only
  repeat' first
    | with_reducible assumption | with_reducible apply keepsR_next | with_reducible apply keeps_foldl
    | with_reducible apply keeps_send | exact within hL rfl | intro _ | split
    | (fail_if_no_progress with_reducible apply keeps_set_ltr (within hL rfl))

theorem keeps_writeRecord {L : Nat} {r s : State} (hL : Sub 0x2000008d210 L) (h : Keeps L r s)
    (fl : Flight) (x2 : Record) :
    Keeps L r (State.writeRecord s fl x2) := by
  unfold State.writeRecord
  try dsimp only
  repeat' first
    | with_reducible assumption | with_reducible apply keepsR_next | with_reducible apply keeps_foldl
    | with_reducible apply keeps_sendMsix | with_reducible apply keeps_putHeaderWord
    | with_reducible apply keeps_trace | with_reducible apply keeps_dropFlight
    | with_reducible apply keeps_deviceWrite | with_reducible apply keeps_updQueue
    | with_reducible apply keeps_updCtx | exact within hL rfl | intro _ | split

theorem keeps_writeJournal {L : Nat} {r s : State} (hL : Sub 0x22400081210 L) (h : Keeps L r s) (fl : Flight) :
    Keeps L r (State.writeJournal s fl) := by
  unfold State.writeJournal
  try dsimp only
  repeat' first
    | with_reducible assumption | with_reducible apply keepsR_next | with_reducible apply keeps_foldl
    | with_reducible apply keeps_putHeaderWord | with_reducible apply keeps_record
    | with_reducible apply keeps_deviceWrite | with_reducible apply keeps_updQueue | exact within hL rfl
    | intro _ | split

theorem keeps_keepCounts {L : Nat} {r s : State} (hL : Sub 0x8000 L) (h : Keeps L r s)
    (q : QueueId) (idx : Word) :
    Keeps L r (State.keepCounts s q idx) := by
  unfold State.keepCounts
  try dsimp only
  repeat' first
    | with_reducible assumption | with_reducible apply keepsR_next | with_reducible apply keeps_foldl
    | with_reducible apply keeps_updFlight

theorem keeps_releaseUnits {L : Nat} {r s : State} (hL : Sub 0x80048000 L) (h : Keeps L r s)
    (q : QueueId) (idx : Word) :
    Keeps L r (State.releaseUnits s q idx) := by
  unfold State.releaseUnits
  try dsimp only
  repeat' first
    | with_reducible assumption | with_reducible apply keepsR_next | with_reducible apply keeps_foldl
    | with_reducible apply keeps_keepCounts | exact within hL rfl | intro _ | split
    | (fail_if_no_progress with_reducible apply keeps_set_quays_deckOwner (within hL rfl))

theorem keeps_reportInfo {L : Nat} {r s : State} (hL : Sub 0x22000080210 L) (h : Keeps L r s) (fl : Flight) :
    Keeps L r (State.reportInfo s fl) := by
  unfold State.reportInfo
  try dsimp only
  repeat' first
    | with_reducible assumption | with_reducible apply keepsR_next | with_reducible apply keeps_foldl
    | with_reducible apply keeps_report | exact within hL rfl | intro _

theorem keeps_chargePhase {L : Nat} {r s : State} (hL : Sub 0x4000 L) (h : Keeps L r s) (fl : Flight) :
    Keeps L r (State.chargePhase s fl) := by
  unfold State.chargePhase
  try dsimp only
  repeat' first
    | with_reducible assumption | with_reducible apply keepsR_next | with_reducible apply keeps_foldl
    | with_reducible apply keeps_updCtx | exact within hL rfl | intro _ | split

theorem keeps_endFlight {L : Nat} {r s : State} (hL : Sub 0x220800cd210 L) (h : Keeps L r s)
    (q : QueueId) (idx : Word) (status : Byte) (reason : BitVec 16) :
    Keeps L r (State.endFlight s q idx status reason) := by
  unfold State.endFlight
  try dsimp only
  repeat' first
    | with_reducible assumption | with_reducible apply keepsR_next | with_reducible apply keeps_foldl
    | with_reducible apply keeps_releaseUnits | with_reducible apply keeps_writeRecord
    | with_reducible apply keeps_chargePhase | with_reducible apply keeps_dropFlight
    | with_reducible apply keeps_reportInfo | exact within hL rfl | intro _ | split
    | (fail_if_no_progress with_reducible apply keeps_set_flights (within hL rfl))

theorem keeps_idleSeqs {L : Nat} {r s : State} (hL : Sub 0x40000 L) (h : Keeps L r s) :
    Keeps L r (State.idleSeqs s) := by
  unfold State.idleSeqs
  try dsimp only
  repeat' first
    | with_reducible assumption | with_reducible apply keepsR_next | with_reducible apply keeps_foldl
    | exact within hL rfl | intro _ | split
    | (fail_if_no_progress with_reducible apply keeps_set_quays (within hL rfl))

theorem keeps_gateQuays {L : Nat} {r s : State} (hL : Sub 0x40000 L) (h : Keeps L r s) :
    Keeps L r (State.gateQuays s) := by
  unfold State.gateQuays
  try dsimp only
  repeat' first
    | with_reducible assumption | with_reducible apply keepsR_next | with_reducible apply keeps_foldl
    | exact within hL rfl | intro _ | split
    | (fail_if_no_progress with_reducible apply keeps_set_quays (within hL rfl))

theorem keeps_regate {L : Nat} {r s : State} (hL : Sub 0x40000 L) (h : Keeps L r s) :
    Keeps L r (State.regate s) := by
  unfold State.regate
  try dsimp only
  repeat' first
    | with_reducible assumption | with_reducible apply keepsR_next | with_reducible apply keeps_foldl
    | with_reducible apply keeps_gateQuays | exact within hL rfl | intro _ | split

theorem keeps_settleFences {L : Nat} (hL : Sub 0x220800cd210 L) (x0 : Nat) :
    ∀ {r s : State} (_ : Keeps L r s), Keeps L r (State.settleFences x0 s) := by
  induction x0 with
  | zero =>
    intro r s h 
    unfold State.settleFences
    try dsimp only
    repeat' first
    | with_reducible assumption
  | succ x0 ih =>
    intro r s h 
    unfold State.settleFences
    try dsimp only
    repeat' first
      | with_reducible assumption | with_reducible apply keepsR_next | with_reducible apply keeps_foldl
      | with_reducible apply keeps_endFlight | with_reducible apply keeps_endFlight | with_reducible apply ih
      | exact within hL rfl | intro _ | split

theorem keeps_noteBlocked {L : Nat} {r s : State} (hL : Sub 0x4000 L) (h : Keeps L r s) :
    Keeps L r (State.noteBlocked s) := by
  unfold State.noteBlocked
  try dsimp only
  repeat' first
    | with_reducible assumption | with_reducible apply keepsR_next | with_reducible apply keeps_foldl
    | exact within hL rfl | intro _ | split
    | (fail_if_no_progress with_reducible apply keeps_set_ctxs (within hL rfl))

theorem keeps_settle {L : Nat} {r s : State} (hL : Sub 0x220800cd2d0 L) (h : Keeps L r s) :
    Keeps L r (State.settle s) := by
  unfold State.settle
  try dsimp only
  repeat' first
    | with_reducible assumption | with_reducible apply keepsR_next | with_reducible apply keeps_foldl
    | with_reducible apply keeps_noteBlocked | with_reducible apply keeps_settleFences
    | with_reducible apply keeps_haltUpdate | with_reducible apply keeps_regate
    | with_reducible apply keeps_ltrUpdate | exact within hL rfl

theorem keeps_startFlight {L : Nat} {r s : State} (hL : Sub 0x88200 L) (h : Keeps L r s)
    (q : QueueId) (idx : Word) :
    Keeps L r (State.startFlight s q idx) := by
  unfold State.startFlight
  try dsimp only
  repeat' first
    | with_reducible assumption | with_reducible apply keepsR_next | with_reducible apply keeps_foldl
    | with_reducible apply keeps_updFlight | with_reducible apply keeps_trace | exact within hL rfl

theorem keeps_finish {L : Nat} {r s : State} (hL : Sub 0x220800cd2d0 L) (h : Keeps L r s)
    (q : QueueId) (idx : Word) (reason : BitVec 16) :
    Keeps L r (State.finish s q idx reason) := by
  unfold State.finish
  try dsimp only
  repeat' first
    | with_reducible assumption | with_reducible apply keepsR_next | with_reducible apply keeps_foldl
    | with_reducible apply keeps_settle | with_reducible apply keeps_endFlight | exact within hL rfl

theorem keeps_discardUnstarted {L : Nat} {r s : State} (hL : Sub 0x89000 L) (h : Keeps L r s) (q : QueueId) :
    Keeps L r (State.discardUnstarted s q) := by
  unfold State.discardUnstarted
  try dsimp only
  repeat' first
    | with_reducible assumption | with_reducible apply keepsR_next | with_reducible apply keeps_foldl
    | with_reducible apply keeps_setHead | exact within hL rfl | intro _ | split
    | (fail_if_no_progress with_reducible apply keeps_set_flights (within hL rfl))

theorem keeps_stopQueue {L : Nat} {r s : State} (hL : Sub 0x89000 L) (h : Keeps L r s)
    (q : QueueId) (reason : BitVec 16) :
    Keeps L r (State.stopQueue s q reason) := by
  unfold State.stopQueue
  try dsimp only
  repeat' first
    | with_reducible assumption | with_reducible apply keepsR_next | with_reducible apply keeps_foldl
    | with_reducible apply keeps_updQueue | with_reducible apply keeps_discardUnstarted | exact within hL rfl

theorem keeps_forgetVa {L : Nat} {r s : State} (hL : Sub 0x8000080000 L) (h : Keeps L r s)
    (c : CtxId) (va : Nat) (n : Nat) :
    Keeps L r (State.forgetVa s c va n) := by
  unfold State.forgetVa
  try dsimp only
  repeat' first
    | with_reducible assumption | with_reducible apply keepsR_next | with_reducible apply keeps_foldl
    | with_reducible apply keeps_State_forget | exact within hL rfl | intro _ | split

theorem keeps_saveVa {L : Nat} {r s : State} (hL : Sub 0x28000080000 L) (h : Keeps L r s)
    (c : CtxId) (va : Nat) (n : Nat) :
    Keeps L r (State.saveVa s c va n) := by
  unfold State.saveVa
  try dsimp only
  repeat' first
    | with_reducible assumption | with_reducible apply keepsR_next | with_reducible apply keeps_foldl
    | with_reducible apply keeps_State_forget | with_reducible apply keeps_updMem_store
    | with_reducible apply keeps_updMem | with_reducible apply keeps_outboundWrite | exact within hL rfl
    | intro _ | split | (fail_if_no_progress with_reducible apply keeps_set_seeds (within hL rfl))
    | with_reducible apply Memory.wf_store | with_reducible apply Memory.wf_clear
    | with_reducible apply Memory.wf_forget | with_reducible apply Memory.wf_setPoison
    | with_reducible apply Memory.wf_spoil | with_reducible apply Memory.wf_refetch
    | with_reducible apply Memory.wf_dropLines | with_reducible apply Memory.wf_fill
    | with_reducible apply Memory.wf_unpoison

theorem keeps_forgetOutputs {L : Nat} {r s : State} (hL : Sub 0x8000080000 L) (h : Keeps L r s) (f : Flight) :
    Keeps L r (State.forgetOutputs s f) := by
  unfold State.forgetOutputs
  try dsimp only
  repeat' first
    | with_reducible assumption | with_reducible apply keepsR_next | with_reducible apply keeps_foldl
    | with_reducible apply keeps_State_forget | with_reducible apply keeps_forgetVa | exact within hL rfl
    | intro _ | split

theorem keeps_failQuiet {L : Nat} {r s : State} (hL : Sub 0x2a0800cd2d0 L) (h : Keeps L r s)
    (q : QueueId) (idx : Word) (reason : BitVec 16) :
    Keeps L r (State.failQuiet s q idx reason) := by
  unfold State.failQuiet
  try dsimp only
  repeat' first
    | with_reducible assumption | with_reducible apply keepsR_next | with_reducible apply keeps_foldl
    | with_reducible apply keeps_stopQueue | with_reducible apply keeps_settle
    | with_reducible apply keeps_endFlight | with_reducible apply keeps_updFlight
    | with_reducible apply keeps_forgetOutputs | exact within hL rfl | intro _ | split

theorem keeps_failWith {L : Nat} {r s : State} (hL : Sub 0x2a0800cd2d0 L) (h : Keeps L r s)
    (q : QueueId) (idx : Word) (reason : BitVec 16) (sev : Severity) (detail : Nat) :
    Keeps L r (State.failWith s q idx reason sev detail) := by
  unfold State.failWith
  try dsimp only
  repeat' first
    | with_reducible assumption | with_reducible apply keepsR_next | with_reducible apply keeps_foldl
    | with_reducible apply keeps_failQuiet | with_reducible apply keeps_report | exact within hL rfl | intro _
    | split

theorem keeps_fail {L : Nat} {r s : State} (hL : Sub 0x2a0800cd2d0 L) (h : Keeps L r s)
    (q : QueueId) (idx : Word) (reason : BitVec 16) :
    Keeps L r (State.fail s q idx reason) := by
  unfold State.fail
  try dsimp only
  repeat' first
    | with_reducible assumption | with_reducible apply keepsR_next | with_reducible apply keeps_foldl
    | with_reducible apply keeps_failWith

theorem keeps_captureMmu {L : Nat} {r s : State} (hL : Sub 0x4000 L) (h : Keeps L r s)
    (c : CtxId) (q : QueueId) (e : MmuFault) :
    Keeps L r (State.captureMmu s c q e) := by
  unfold State.captureMmu
  try dsimp only
  repeat' first
    | with_reducible assumption | with_reducible apply keepsR_next | with_reducible apply keeps_foldl
    | with_reducible apply keeps_updCtx

theorem keeps_mmuFail {L : Nat} {r s : State} (hL : Sub 0x2a0800cd2d0 L) (h : Keeps L r s)
    (q : QueueId) (idx : Word) (e : MmuFault) :
    Keeps L r (State.mmuFail s q idx e) := by
  unfold State.mmuFail
  try dsimp only
  repeat' first
    | with_reducible assumption | with_reducible apply keepsR_next | with_reducible apply keeps_foldl
    | with_reducible apply keeps_captureMmu | with_reducible apply keeps_fail | exact within hL rfl | intro _
    | split

theorem keeps_wakeWaits {L : Nat} (hL : Sub 0x220800cd2d0 L) (x1 : Nat) :
    ∀ {r s : State} (_ : Keeps L r s) (f : FlagId), Keeps L r (State.wakeWaits f x1 s) := by
  induction x1 with
  | zero =>
    intro r s h f
    unfold State.wakeWaits
    try dsimp only
    repeat' first
    | with_reducible assumption
  | succ x1 ih =>
    intro r s h f
    unfold State.wakeWaits
    try dsimp only
    repeat' first
      | with_reducible assumption | with_reducible apply keepsR_next | with_reducible apply keeps_foldl
      | with_reducible apply keeps_trace | with_reducible apply keeps_updFlight
      | with_reducible apply keeps_finish | with_reducible apply keeps_finish
      | with_reducible apply keeps_updFlight | with_reducible apply ih | exact within hL rfl | intro _ | split

theorem keeps_setFlag {L : Nat} {r s : State} (hL : Sub 0x220800cf2d0 L) (h : Keeps L r s)
    (f : FlagId) (v : Word) :
    Keeps L r (State.setFlag s f v) := by
  unfold State.setFlag
  try dsimp only
  repeat' first
    | with_reducible assumption | with_reducible apply keepsR_next | with_reducible apply keeps_foldl
    | with_reducible apply keeps_wakeWaits | with_reducible apply keeps_putFlag | exact within hL rfl

theorem keeps_wakeAll {L : Nat} {r s : State} (hL : Sub 0x220800cd2d0 L) (h : Keeps L r s) :
    Keeps L r (State.wakeAll s) := by
  unfold State.wakeAll
  try dsimp only
  repeat' first
    | with_reducible assumption | with_reducible apply keepsR_next | with_reducible apply keeps_foldl
    | with_reducible apply keeps_wakeWaits | exact within hL rfl | intro _ | split

theorem keeps_addFlag {L : Nat} {r s : State} (hL : Sub 0x220800cf2d0 L) (h : Keeps L r s)
    (f : FlagId) (v : Word) :
    Keeps L r (State.addFlag s f v) := by
  unfold State.addFlag
  try dsimp only
  repeat' first
    | with_reducible assumption | with_reducible apply keepsR_next | with_reducible apply keeps_foldl
    | with_reducible apply keeps_setFlag

theorem keeps_issueReads {L : Nat} (hL : Sub 0x20000008000 L) (x2 : Nat) :
    ∀ {r s : State} (_ : Keeps L r s) (q : QueueId) (idx : Word), Keeps L r (State.issueReads q idx x2 s) := by
  induction x2 with
  | zero =>
    intro r s h q idx
    unfold State.issueReads
    try dsimp only
    repeat' first
    | with_reducible assumption
  | succ x2 ih =>
    intro r s h q idx
    unfold State.issueReads
    try dsimp only
    repeat' first
      | with_reducible assumption | with_reducible apply keepsR_next | with_reducible apply keeps_foldl
      | with_reducible apply keeps_send | with_reducible apply keeps_updFlight | with_reducible apply ih
      | exact within hL rfl | intro _ | split

theorem keeps_issueAll {L : Nat} {r s : State} (hL : Sub 0x20000008000 L) (h : Keeps L r s) :
    Keeps L r (State.issueAll s) := by
  unfold State.issueAll
  try dsimp only
  repeat' first
    | with_reducible assumption | with_reducible apply keepsR_next | with_reducible apply keeps_foldl
    | with_reducible apply keeps_issueReads | exact within hL rfl | intro _

theorem keeps_askFor {L : Nat} {r s : State} (hL : Sub 0x20000008000 L) (h : Keeps L r s)
    (q : QueueId) (idx : Word) (l : List Source) :
    Keeps L r (State.askFor s q idx l) := by
  unfold State.askFor
  try dsimp only
  repeat' first
    | with_reducible assumption | with_reducible apply keepsR_next | with_reducible apply keeps_foldl
    | with_reducible apply keeps_updFlight | with_reducible apply keeps_issueReads | exact within hL rfl
    | intro _ | split

theorem keeps_askSource {L : Nat} {r s : State} (hL : Sub 0x20000008000 L) (h : Keeps L r s)
    (q : QueueId) (idx : Word) :
    Keeps L r (State.askSource s q idx) := by
  unfold State.askSource
  try dsimp only
  repeat' first
    | with_reducible assumption | with_reducible apply keepsR_next | with_reducible apply keeps_foldl
    | with_reducible apply keeps_askFor | exact within hL rfl | intro _ | split

theorem keeps_fetching? {L : Nat} {r s t : State} (hL : Sub 0x20000008000 L) (h : Keeps L r s) (f : Flight) (l : List Source)
    (ht : s.fetching? f l = some t) : Keeps L r t := by
  unfold State.fetching? at ht
  split at ht
  · cases ht
  · split at ht
    · cases ht; exact h
    · split at ht
      · cases ht
      · cases ht; exact keeps_askFor (within hL rfl) h _ _ _

theorem keeps_fetchingD {L : Nat} {r s t : State} (hL : Sub 0x20000008000 L) (h : Keeps L r s) (ht : Keeps L r t) (f : Flight)
    (l : List Source) : Keeps L r ((s.fetching? f l).getD t) := by
  cases hx : s.fetching? f l
  · exact ht
  · exact keeps_fetching? (within hL rfl) h f l hx

theorem keeps_tracePreempt {L : Nat} {r s : State} (hL : Sub 0x80200 L) (h : Keeps L r s) (f : Flight) :
    Keeps L r (State.tracePreempt s f) := by
  unfold State.tracePreempt
  try dsimp only
  repeat' first
    | with_reducible assumption | with_reducible apply keepsR_next | with_reducible apply keeps_foldl
    | with_reducible apply keeps_trace | exact within hL rfl | intro _ | split

theorem keeps_suspendDispatch {L : Nat} {r s : State} (hL : Sub 0x8008c200 L) (h : Keeps L r s)
    (q : QueueId) (idx : Word) (byHalt : Bool) (byShed : Bool) :
    Keeps L r (State.suspendDispatch s q idx byHalt byShed) := by
  unfold State.suspendDispatch
  try dsimp only
  repeat' first
    | with_reducible assumption | with_reducible apply keepsR_next | with_reducible apply keeps_foldl
    | with_reducible apply keeps_trace | with_reducible apply keeps_updCtx
    | with_reducible apply keeps_chargePhase | with_reducible apply keeps_updFlight | exact within hL rfl
    | intro _ | split | (fail_if_no_progress with_reducible apply keeps_set_deckOwner (within hL rfl))

theorem keeps_preemptFlight {L : Nat} {r s : State} (hL : Sub 0x8008c200 L) (h : Keeps L r s)
    (f : Flight) (byHalt : Bool) (byShed : Bool) :
    Keeps L r (State.preemptFlight s f byHalt byShed) := by
  unfold State.preemptFlight
  try dsimp only
  repeat' first
    | with_reducible assumption | with_reducible apply keepsR_next | with_reducible apply keeps_foldl
    | with_reducible apply keeps_suspendDispatch | with_reducible apply keeps_updCtx
    | with_reducible apply keeps_updFlight | with_reducible apply keeps_tracePreempt | exact within hL rfl
    | intro _ | split

theorem keeps_preemptAll {L : Nat} {r s : State} (hL : Sub 0x2008008c2c0 L) (h : Keeps L r s) :
    Keeps L r (State.preemptAll s) := by
  unfold State.preemptAll
  try dsimp only
  repeat' first
    | with_reducible assumption | with_reducible apply keepsR_next | with_reducible apply keeps_foldl
    | with_reducible apply keeps_haltUpdate | with_reducible apply keeps_ltrUpdate
    | with_reducible apply keeps_preemptFlight | exact within hL rfl | intro _

theorem keeps_resumeFlights {L : Nat} {r s : State} (hL : Sub 0x2000000c000 L) (h : Keeps L r s)
    (sel : Flight → Bool) (clear : Flight → Flight) :
    Keeps L r (State.resumeFlights s sel clear) := by
  unfold State.resumeFlights
  try dsimp only
  repeat' first
    | with_reducible assumption | with_reducible apply keepsR_next | with_reducible apply keeps_foldl
    | with_reducible apply keeps_issueAll | with_reducible apply keeps_updFlight
    | with_reducible apply keeps_chargePhase | exact within hL rfl | intro _ | split

theorem keeps_rearmWaits {L : Nat} {r s : State} (hL : Sub 0x220800cd2d0 L) (h : Keeps L r s) :
    Keeps L r (State.rearmWaits s) := by
  unfold State.rearmWaits
  try dsimp only
  repeat' first
    | with_reducible assumption | with_reducible apply keepsR_next | with_reducible apply keeps_foldl
    | with_reducible apply keeps_wakeAll | exact within hL rfl | intro _ | split
    | (fail_if_no_progress with_reducible apply keeps_set_flights (within hL rfl))

theorem keeps_chargeTransfer {L : Nat} {r s : State} (hL : Sub 0x10000004000 L) (h : Keeps L r s)
    (c : CtxId) (ticks : Nat) :
    Keeps L r (State.chargeTransfer s c ticks) := by
  unfold State.chargeTransfer
  try dsimp only
  repeat' first
    | with_reducible assumption | with_reducible apply keepsR_next | with_reducible apply keeps_foldl
    | with_reducible apply keeps_updCtx | exact within hL rfl | intro _ | split
    | (fail_if_no_progress with_reducible apply keeps_set_freeCount (within hL rfl))

theorem keeps_evict {L : Nat} {r s : State} (hL : Sub 0x3a000084210 L) (h : Keeps L r s) (c : CtxId) :
    Keeps L r (State.evict s c) := by
  unfold State.evict
  try dsimp only
  repeat' first
    | with_reducible assumption | with_reducible apply keepsR_next | with_reducible apply keeps_foldl
    | with_reducible apply keeps_saveVa | with_reducible apply keeps_report | with_reducible apply keeps_updCtx
    | with_reducible apply keeps_chargeTransfer | exact within hL rfl | intro _ | split

theorem keeps_makeRoom {L : Nat} {r s : State} (hL : Sub 0x3a08008c210 L) (h : Keeps L r s) :
    Keeps L r (State.makeRoom s) := by
  unfold State.makeRoom
  try dsimp only
  repeat' first
    | with_reducible assumption | with_reducible apply keepsR_next | with_reducible apply keeps_foldl
    | with_reducible apply keeps_evict | with_reducible apply keeps_preemptFlight | exact within hL rfl
    | intro _ | split

theorem keeps_askSlot {L : Nat} {r s : State} (hL : Sub 0x3a08008c210 L) (h : Keeps L r s) (c : CtxId) :
    Keeps L r (State.askSlot s c) := by
  unfold State.askSlot
  try dsimp only
  repeat' first
    | with_reducible assumption | with_reducible apply keepsR_next | with_reducible apply keeps_foldl
    | with_reducible apply keeps_makeRoom | with_reducible apply keeps_updCtx | exact within hL rfl | intro _
    | split

theorem keeps_tear {L : Nat} {r s : State} (hL : Sub 0x2000000 L) (h : Keeps L r s) (i : SctxId) (bit : Nat) :
    Keeps L r (State.tear s i bit) := by
  unfold State.tear
  try dsimp only
  repeat' first
    | with_reducible assumption | with_reducible apply keepsR_next | with_reducible apply keeps_foldl
    | with_reducible apply keeps_updStream

theorem keeps_countTorn {L : Nat} {r s : State} (hL : Sub 0x22002080a10 L) (h : Keeps L r s)
    (i : SctxId) (quiet : Bool) :
    Keeps L r (State.countTorn s i quiet) := by
  unfold State.countTorn
  try dsimp only
  repeat' first
    | with_reducible assumption | with_reducible apply keepsR_next | with_reducible apply keeps_foldl
    | with_reducible apply keeps_reportLimited | with_reducible apply keeps_updStream | exact within hL rfl
    | intro _ | split

theorem keeps_recordPortFrame {L : Nat} {r s : State} (hL : Sub 0x22400080210 L) (h : Keeps L r s)
    (i : SctxId) :
    Keeps L r (State.recordPortFrame s i) := by
  unfold State.recordPortFrame
  try dsimp only
  repeat' first
    | with_reducible assumption | with_reducible apply keepsR_next | with_reducible apply keeps_foldl
    | with_reducible apply keeps_record | exact within hL rfl | intro _ | split

theorem keeps_endFrame {L : Nat} {r s : State} (hL : Sub 0x22402080a10 L) (h : Keeps L r s)
    (i : SctxId) (quiet : Bool) :
    Keeps L r (State.endFrame s i quiet) := by
  unfold State.endFrame
  try dsimp only
  repeat' first
    | with_reducible assumption | with_reducible apply keepsR_next | with_reducible apply keeps_foldl
    | with_reducible apply keeps_trace | with_reducible apply keeps_countTorn
    | with_reducible apply keeps_updStream | with_reducible apply keeps_recordPortFrame | exact within hL rfl
    | intro _ | split

theorem keeps_endBinding {L : Nat} {r s : State} (hL : Sub 0x2000000 L) (h : Keeps L r s) (i : SctxId) :
    Keeps L r (State.endBinding s i) := by
  unfold State.endBinding
  try dsimp only
  repeat' first
    | with_reducible assumption | with_reducible apply keepsR_next | with_reducible apply keeps_foldl
    | with_reducible apply keeps_updStream

theorem keeps_beginFrame {L : Nat} {r s : State} (hL : Sub 0x2080200 L) (h : Keeps L r s)
    (i : SctxId) (csiFrame : BitVec 16) (asOf : Option Tick) :
    Keeps L r (State.beginFrame s i csiFrame asOf) := by
  unfold State.beginFrame
  try dsimp only
  repeat' first
    | with_reducible assumption | with_reducible apply keepsR_next | with_reducible apply keeps_foldl
    | with_reducible apply keeps_trace | with_reducible apply keeps_updStream | exact within hL rfl

theorem keeps_stopSession {L : Nat} {r s : State} (hL : Sub 0x30000000 L) (h : Keeps L r s) (n : SessId) :
    Keeps L r (State.stopSession s n) := by
  unfold State.stopSession
  try dsimp only
  repeat' first
    | with_reducible assumption | with_reducible apply keepsR_next | with_reducible apply keeps_foldl
    | with_reducible apply keeps_updSession | exact within hL rfl | intro _ | split
    | (fail_if_no_progress with_reducible apply keeps_set_codecs (within hL rfl))

theorem keeps_checkSources {L : Nat} {r s : State} (hL : Sub 0x22030080210 L) (h : Keeps L r s) (i : SctxId) :
    Keeps L r (State.checkSources s i) := by
  unfold State.checkSources
  try dsimp only
  repeat' first
    | with_reducible assumption | with_reducible apply keepsR_next | with_reducible apply keeps_foldl
    | with_reducible apply keeps_stopSession | with_reducible apply keeps_report
    | with_reducible apply keeps_updSession | exact within hL rfl | intro _ | split

theorem keeps_cutFrame {L : Nat} {r s : State} (hL : Sub 0x22402080a10 L) (h : Keeps L r s) (i : SctxId) :
    Keeps L r (State.cutFrame s i) := by
  unfold State.cutFrame
  try dsimp only
  repeat' first
    | with_reducible assumption | with_reducible apply keepsR_next | with_reducible apply keeps_foldl
    | with_reducible apply keeps_endFrame | with_reducible apply keeps_tear | exact within hL rfl | intro _
    | split

theorem keeps_startFrame {L : Nat} {r s : State} (hL : Sub 0x22436080a10 L) (h : Keeps L r s)
    (i : SctxId) (csiFrame : BitVec 16) :
    Keeps L r (State.startFrame s i csiFrame) := by
  unfold State.startFrame
  try dsimp only
  repeat' first
    | with_reducible assumption | with_reducible apply keepsR_next | with_reducible apply keeps_foldl
    | with_reducible apply keeps_cutFrame | with_reducible apply keeps_beginFrame
    | with_reducible apply keeps_checkSources | exact within hL rfl | intro _ | split
    | (fail_if_no_progress with_reducible apply keeps_set_blanks (within hL rfl))

theorem keeps_codecRecord {L : Nat} {r s : State} (hL : Sub 0x220900cf2d0 L) (h : Keeps L r s)
    (n : SessId) (offset : Nat) (length : Nat) (src : SrcFrame) (frame : Nat) (slice : Byte) (qp : Byte) (flags : Nat) (blanked : Bool) :
    Keeps L r (State.codecRecord s n offset length src frame slice qp flags blanked) := by
  unfold State.codecRecord
  try dsimp only
  repeat' first
    | with_reducible assumption | with_reducible apply keepsR_next | with_reducible apply keeps_foldl
    | with_reducible apply keeps_addFlag | with_reducible apply keeps_trace
    | with_reducible apply keeps_updSession | with_reducible apply keeps_updMem_store
    | with_reducible apply keeps_updMem | exact within hL rfl | intro _ | split

theorem keeps_noteCoded {L : Nat} {r s : State} (hL : Sub 0x10000000 L) (h : Keeps L r s)
    (n : SessId) (d : SessDesc) (src : SrcFrame) (abandoned : Bool) :
    Keeps L r (State.noteCoded s n d src abandoned) := by
  unfold State.noteCoded
  try dsimp only
  repeat' first
    | with_reducible assumption | with_reducible apply keepsR_next | with_reducible apply keeps_foldl
    | with_reducible apply keeps_updSession | exact within hL rfl | intro _ | split

theorem keeps_abandonRecord {L : Nat} {r s : State} (hL : Sub 0x220900cf2d0 L) (h : Keeps L r s)
    (n : SessId) (d : SessDesc) (src : SrcFrame) :
    Keeps L r (State.abandonRecord s n d src) := by
  unfold State.abandonRecord
  try dsimp only
  repeat' first
    | with_reducible assumption | with_reducible apply keepsR_next | with_reducible apply keeps_foldl
    | with_reducible apply keeps_codecRecord | with_reducible apply keeps_updSession | exact within hL rfl

theorem keeps_abandonFrame {L : Nat} {r s : State} (hL : Sub 0x220b00cf2d0 L) (h : Keeps L r s) (n : SessId) :
    Keeps L r (State.abandonFrame s n) := by
  unfold State.abandonFrame
  try dsimp only
  repeat' first
    | with_reducible assumption | with_reducible apply keepsR_next | with_reducible apply keeps_foldl
    | with_reducible apply keeps_updSession | with_reducible apply keeps_abandonRecord
    | with_reducible apply keeps_noteCoded | exact within hL rfl | intro _ | split
    | (fail_if_no_progress with_reducible apply keeps_set_codecs (within hL rfl))

theorem keeps_suspendUnit {L : Nat} {r s : State} (hL : Sub 0x220b00cf2d0 L) (h : Keeps L r s) (u : Nat) :
    Keeps L r (State.suspendUnit s u) := by
  unfold State.suspendUnit
  try dsimp only
  repeat' first
    | with_reducible assumption | with_reducible apply keepsR_next | with_reducible apply keeps_foldl
    | with_reducible apply keeps_abandonFrame | with_reducible apply keeps_updSession | exact within hL rfl
    | intro _

theorem keeps_resumeUnit {L : Nat} {r s : State} (hL : Sub 0x10000000 L) (h : Keeps L r s) (u : Nat) :
    Keeps L r (State.resumeUnit s u) := by
  unfold State.resumeUnit
  try dsimp only
  repeat' first
    | with_reducible assumption | with_reducible apply keepsR_next | with_reducible apply keeps_foldl
    | with_reducible apply keeps_updSession | exact within hL rfl | intro _

theorem keeps_setShed {L : Nat} {r s : State} (hL : Sub 0x220b00cf2d0 L) (h : Keeps L r s)
    (u : Fin 3) (shed : Bool) :
    Keeps L r (State.setShed s u shed) := by
  unfold State.setShed
  try dsimp only
  repeat' first
    | with_reducible assumption | with_reducible apply keepsR_next | with_reducible apply keeps_foldl
    | with_reducible apply keeps_resumeUnit | with_reducible apply keeps_suspendUnit | exact within hL rfl
    | intro _ | split | (fail_if_no_progress with_reducible apply keeps_set_codecs (within hL rfl))

theorem keeps_resetTriggers {L : Nat} {r s : State} (hL : Sub 0x8000000 L) (h : Keeps L r s) (n : Nat) :
    Keeps L r (State.resetTriggers s n) := by
  unfold State.resetTriggers
  try dsimp only
  repeat' first
    | with_reducible assumption | with_reducible apply keepsR_next | with_reducible apply keeps_foldl
    | exact within hL rfl | intro _ | split
    | (fail_if_no_progress with_reducible apply keeps_set_trigs (within hL rfl))

theorem keeps_stepTide {L : Nat} {r s : State} (hL : Sub 0x2220808c610 L) (h : Keeps L r s) (t : Tick) :
    Keeps L r (State.stepTide s t) := by
  unfold State.stepTide
  try dsimp only
  repeat' first
    | with_reducible assumption | with_reducible apply keepsR_next | with_reducible apply keeps_foldl
    | with_reducible apply keeps_resetTriggers | with_reducible apply keeps_note | exact within hL rfl | intro _
    | split | (fail_if_no_progress with_reducible apply keeps_set_tide (within hL rfl))
    | (fail_if_no_progress with_reducible apply keeps_set_heart_ctxs_flights (within hL rfl))

theorem keeps_retire {L : Nat} {r s : State} (hL : Sub 0x2000000 L) (h : Keeps L r s) (i : SctxId) :
    Keeps L r (State.retire s i) := by
  unfold State.retire
  try dsimp only
  repeat' first
    | with_reducible assumption | with_reducible apply keepsR_next | with_reducible apply keeps_foldl
    | with_reducible apply keeps_updStream

theorem keeps_faultBinding {L : Nat} {r s : State} (hL : Sub 0x22002084210 L) (h : Keeps L r s)
    (i : SctxId) (b : Binding) (e : MmuFault) :
    Keeps L r (State.faultBinding s i b e) := by
  unfold State.faultBinding
  try dsimp only
  repeat' first
    | with_reducible assumption | with_reducible apply keepsR_next | with_reducible apply keeps_foldl
    | with_reducible apply keeps_captureMmu | with_reducible apply keeps_report
    | with_reducible apply keeps_updStream | exact within hL rfl

theorem keeps_deliver {L : Nat} {r s : State} (hL : Sub 0x220920cf2d0 L) (h : Keeps L r s)
    (i : SctxId) (f : Frame) (b : Binding) (no : Word) :
    Keeps L r (State.deliver s i f b no) := by
  unfold State.deliver
  try dsimp only
  repeat' first
    | with_reducible assumption | with_reducible apply keepsR_next | with_reducible apply keeps_foldl
    | with_reducible apply keeps_addFlag | with_reducible apply keeps_updSession
    | with_reducible apply keeps_updStream | exact within hL rfl | intro _ | split

theorem keeps_recordPipeFrame {L : Nat} {r s : State} (hL : Sub 0x22400080210 L) (h : Keeps L r s)
    (i : SctxId) (f : Frame) (b : Binding) (no : Word) :
    Keeps L r (State.recordPipeFrame s i f b no) := by
  unfold State.recordPipeFrame
  try dsimp only
  repeat' first
    | with_reducible assumption | with_reducible apply keepsR_next | with_reducible apply keeps_foldl
    | with_reducible apply keeps_record

theorem keeps_completeFrame {L : Nat} {r s : State} (hL : Sub 0x224920cfad0 L) (h : Keeps L r s) (i : SctxId) :
    Keeps L r (State.completeFrame s i) := by
  unfold State.completeFrame
  try dsimp only
  repeat' first
    | with_reducible assumption | with_reducible apply keepsR_next | with_reducible apply keeps_foldl
    | with_reducible apply keeps_writeVa | with_reducible apply keeps_retire
    | with_reducible apply keeps_faultBinding | with_reducible apply keeps_deliver
    | with_reducible apply keeps_recordPipeFrame | with_reducible apply keeps_reportLimited
    | with_reducible apply keeps_updStream | exact within hL rfl | intro _ | split

theorem keeps_drainPipe {L : Nat} {r s : State} (hL : Sub 0x224920cfad0 L) (h : Keeps L r s) (i : SctxId) :
    Keeps L r (State.drainPipe s i) := by
  unfold State.drainPipe
  try dsimp only
  repeat' first
    | with_reducible assumption | with_reducible apply keepsR_next | with_reducible apply keeps_foldl
    | with_reducible apply keeps_completeFrame | exact within hL rfl | intro _

theorem keeps_emptyPipe {L : Nat} {r s : State} (hL : Sub 0x2000000 L) (h : Keeps L r s) (i : SctxId) :
    Keeps L r (State.emptyPipe s i) := by
  unfold State.emptyPipe
  try dsimp only
  repeat' first
    | with_reducible assumption | with_reducible apply keepsR_next | with_reducible apply keeps_foldl
    | with_reducible apply keeps_retire | with_reducible apply keeps_updStream

theorem keeps_stopStreams {L : Nat} {r s : State} (hL : Sub 0x224930cfad0 L) (h : Keeps L r s) :
    Keeps L r (State.stopStreams s) := by
  unfold State.stopStreams
  try dsimp only
  repeat' first
    | with_reducible assumption | with_reducible apply keepsR_next | with_reducible apply keeps_foldl
    | with_reducible apply keeps_drainPipe | with_reducible apply keeps_endFrame
    | with_reducible apply keeps_tear | exact within hL rfl | intro _ | split
    | (fail_if_no_progress with_reducible apply keeps_set_ports_streams (within hL rfl))

theorem keeps_fenceQuay {L : Nat} {r s : State} (hL : Sub 0x220000e0210 L) (h : Keeps L r s)
    (q : QuayId) (code : BitVec 16) :
    Keeps L r (State.fenceQuay s q code) := by
  unfold State.fenceQuay
  try dsimp only
  repeat' first
    | with_reducible assumption | with_reducible apply keepsR_next | with_reducible apply keeps_foldl
    | with_reducible apply keeps_trace | with_reducible apply keeps_updQuay | with_reducible apply keeps_report
    | exact within hL rfl | intro _ | split
    | (fail_if_no_progress with_reducible apply keeps_set_manifest (within hL rfl))

theorem keeps_fenceBerth {L : Nat} {r s : State} (hL : Sub 0x220000e0210 L) (h : Keeps L r s)
    (q : QuayId) (b : BerthId) (code : BitVec 16) :
    Keeps L r (State.fenceBerth s q b code) := by
  unfold State.fenceBerth
  try dsimp only
  repeat' first
    | with_reducible assumption | with_reducible apply keepsR_next | with_reducible apply keeps_foldl
    | with_reducible apply keeps_report | with_reducible apply keeps_trace
    | with_reducible apply keeps_fenceQuay | with_reducible apply keeps_updBerth | exact within hL rfl | intro _
    | split

theorem keeps_noteSpare {L : Nat} {r s : State} (hL : Sub 0x22000080210 L) (h : Keeps L r s)
    (loc : RepairLoc) (reason : BitVec 16) (level : BitVec 2) (field : Bool) :
    Keeps L r (State.noteSpare s loc reason level field) := by
  unfold State.noteSpare
  try dsimp only
  repeat' first
    | with_reducible assumption | with_reducible apply keepsR_next | with_reducible apply keeps_foldl
    | with_reducible apply keeps_trace | with_reducible apply keeps_report | exact within hL rfl | intro _
    | split

theorem keeps_replaceCell {L : Nat} {r s : State} (hL : Sub 0x220000e0210 L) (h : Keeps L r s)
    (loc : RepairLoc) (q : QuayId) (b : BerthId) (c : CellId) (field : Bool) :
    Keeps L r (State.replaceCell s loc q b c field) := by
  unfold State.replaceCell
  try dsimp only
  repeat' first
    | with_reducible assumption | with_reducible apply keepsR_next | with_reducible apply keeps_foldl
    | with_reducible apply keeps_noteSpare | with_reducible apply keeps_fenceBerth
    | with_reducible apply keeps_updBerth | exact within hL rfl | intro _ | split

theorem keeps_substitute {L : Nat} {r s : State} (hL : Sub 0x220001e0210 L) (h : Keeps L r s)
    (loc : RepairLoc) (code : BitVec 16) (field : Bool) : Keeps L r (State.substitute s loc code field) := by
  unfold State.substitute
  refine keeps_set_faults (within hL rfl) ?_
  repeat' first
    | with_reducible assumption | with_reducible apply keeps_updBerth | with_reducible apply keeps_fenceQuay
    | with_reducible apply keeps_fenceBerth | with_reducible apply keeps_replaceCell
    | with_reducible apply keeps_noteSpare | exact within hL rfl | intro _ | split
    | exact keeps_set_mem_harbour (within hL rfl) h fun w => Memory.wf_dropLines w _

theorem keeps_decideRepair {L : Nat} {r s : State} (hL : Sub 0x2000000000 L) (h : Keeps L r s)
    (loc : RepairLoc) (code : BitVec 16) :
    Keeps L r (State.decideRepair s loc code) := by
  unfold State.decideRepair
  try dsimp only
  repeat' first
    | with_reducible assumption | with_reducible apply keepsR_next | with_reducible apply keeps_foldl
    | exact within hL rfl | intro _ | split
    | (fail_if_no_progress with_reducible apply keeps_set_faults (within hL rfl))

theorem keeps_countRepair {L : Nat} {r s : State} (hL : Sub 0x2000000000 L) (h : Keeps L r s)
    (loc : RepairLoc) (weight : Nat) (code : BitVec 16) :
    Keeps L r (State.countRepair s loc weight code) := by
  unfold State.countRepair
  try dsimp only
  repeat' first
    | with_reducible assumption | with_reducible apply keepsR_next | with_reducible apply keeps_foldl
    | with_reducible apply keeps_decideRepair | exact within hL rfl | intro _ | split
    | (fail_if_no_progress with_reducible apply keeps_set_faults (within hL rfl))

theorem keeps_storeWord {L : Nat} {r s : State} (hL : Sub 0x220000c0a10 L) (h : Keeps L r s) (w : StoreWord) :
    Keeps L r (State.storeWord s w) := by
  unfold State.storeWord
  try dsimp only
  repeat' first
    | with_reducible assumption | with_reducible apply keepsR_next | with_reducible apply keeps_foldl
    | with_reducible apply keeps_reportLimited | with_reducible apply keeps_countRepair
    | with_reducible apply keeps_updQuay | exact within hL rfl | intro _ | split

theorem keeps_holdCorrected {L : Nat} {r s : State} (hL : Sub 0x220000c0a10 L) (h : Keeps L r s)
    (q : QuayId) (b : BerthId) (at_ : Nat) :
    Keeps L r (State.holdCorrected s q b at_) := by
  unfold State.holdCorrected
  try dsimp only
  repeat' first
    | with_reducible assumption | with_reducible apply keepsR_next | with_reducible apply keeps_foldl
    | with_reducible apply keeps_reportLimited | with_reducible apply keeps_countRepair
    | with_reducible apply keeps_updBerth | exact within hL rfl

theorem keeps_holdBad {L : Nat} {r s : State} (hL : Sub 0x2000040000 L) (h : Keeps L r s)
    (q : QuayId) (b : BerthId) (at_ : Nat) :
    Keeps L r (State.holdBad s q b at_) := by
  unfold State.holdBad
  try dsimp only
  repeat' first
    | with_reducible assumption | with_reducible apply keepsR_next | with_reducible apply keeps_foldl
    | with_reducible apply keeps_countRepair | with_reducible apply keeps_updBerth | exact within hL rfl

theorem keeps_holdWord {L : Nat} {r s : State} (hL : Sub 0x220000c0a10 L) (h : Keeps L r s) (w : HoldWord) :
    Keeps L r (State.holdWord s w) := by
  unfold State.holdWord
  try dsimp only
  repeat' first
    | with_reducible assumption | with_reducible apply keepsR_next | with_reducible apply keeps_foldl
    | with_reducible apply keeps_holdCorrected | with_reducible apply keeps_holdBad | exact within hL rfl
    | intro _ | split

end Sys2Proof.Machine
end

