-- ==== Sys2Proof/Laws/KeepsReset.lean ====
section
/-! SUPPORT. `Keeps` of the operations of ResetOps, HaltOps, PcieOps, RecoveryOps, MemoryOps, BootOps, StartCmds, PowerStateCmds, TideCmds. -/

namespace Sys2Proof.Machine

theorem keeps_setAvs {L : Nat} {r s : State} (hL : Sub 0x8 L) (h : Keeps L r s) (a : Avs) :
    Keeps L r (State.setAvs s a) := by
  unfold State.setAvs
  try dsimp only
  repeat' first
    | with_reducible assumption | with_reducible apply keepsR_next | with_reducible apply keeps_foldl
    | exact within hL rfl | intro _ | split
    | (fail_if_no_progress with_reducible apply keeps_set_env (within hL rfl))

theorem keeps_avsKick {L : Nat} {r s : State} (hL : Sub 0x20000000008 L) (h : Keeps L r s) :
    Keeps L r (State.avsKick s) := by
  unfold State.avsKick
  try dsimp only
  repeat' first
    | with_reducible assumption | with_reducible apply keepsR_next | with_reducible apply keeps_foldl
    | with_reducible apply keeps_send | with_reducible apply keeps_setAvs | exact within hL rfl | intro _
    | split

theorem keeps_avsIssue {L : Nat} {r s : State} (hL : Sub 0x20000000008 L) (h : Keeps L r s) (c : AvsCmd) :
    Keeps L r (State.avsIssue s c) := by
  unfold State.avsIssue
  try dsimp only
  repeat' first
    | with_reducible assumption | with_reducible apply keepsR_next | with_reducible apply keeps_foldl
    | with_reducible apply keeps_setAvs | with_reducible apply keeps_avsKick | exact within hL rfl | intro _
    | split

theorem keeps_dropUnkept {L : Nat} {r s : State} (hL : Sub 0x600000200 L) (h : Keeps L r s) :
    Keeps L r (State.dropUnkept s) := by
  unfold State.dropUnkept
  try dsimp only
  repeat' first
    | with_reducible assumption | with_reducible apply keepsR_next | with_reducible apply keeps_foldl
    | exact within hL rfl | intro _ | split
    | (fail_if_no_progress with_reducible apply keeps_set_fwif_tide_recorder (within hL rfl))

theorem keeps_dropForPower {L : Nat} {r s : State} (hL : Sub 0x610000200 L) (h : Keeps L r s) :
    Keeps L r (State.dropForPower s) := by
  unfold State.dropForPower
  try dsimp only
  repeat' first
    | with_reducible assumption | with_reducible apply keepsR_next | with_reducible apply keeps_foldl
    | with_reducible apply keeps_dropUnkept | exact within hL rfl | intro _ | split
    | (fail_if_no_progress with_reducible apply keeps_set_sessions (within hL rfl))

theorem keeps_loseWork {L : Nat} {r s : State} (hL : Sub 0x36bb6ff700 L) (h : Keeps L r s) :
    Keeps L r (State.loseWork s) := by
  unfold State.loseWork
  try dsimp only
  repeat' first
    | with_reducible assumption | with_reducible apply keepsR_next | with_reducible apply keeps_foldl
    | with_reducible apply keeps_dropUnkept | exact within hL rfl | intro _ | split
    | with_reducible apply keeps_set_ready_fwif_heart_queues_flags_ctxs_flights_sched_manifest_quays_mem_memctl_memhost_ports_streams_trigs_sessions_codecs_deckOwner_recorder_keep_faults (within hL rfl)
    | with_reducible apply Memory.wf_store | with_reducible apply Memory.wf_clear

theorem keeps_loseConfig {L : Nat} {r s : State} (hL : Sub 0xd8 L) (h : Keeps L r s) :
    Keeps L r (State.loseConfig s) := by
  unfold State.loseConfig
  try dsimp only
  repeat' first
    | with_reducible assumption | with_reducible apply keepsR_next | with_reducible apply keeps_foldl
    | exact within hL rfl | intro _ | split
    | (fail_if_no_progress with_reducible apply keeps_set_env_cfg_hostif_ltr (within hL rfl))

theorem keeps_restart {L : Nat} {r s : State} (hL : Sub 0xfffffffffe L) (h : Keeps L r s) (cold : Bool) :
    Keeps L r (s.restart cold) := by
  unfold State.restart
  dsimp only
  refine ⟨fun f hf => ?_, h.secure.trans ⟨Nat.le_refl _, id, id, id, id, rfl, fun _ => Nat.le_refl _⟩, fun _ => Memory.wf_forget ⟨List.Pairwise.nil, by simp [State.reset]⟩ _ _ _⟩
  cases f <;> first | exact absurd (hL.testBit hf) (by decide) | exact h.same _ hf

theorem keeps_beginStart {L : Nat} {r s : State} (hL : Sub 0x2000000000c L) (h : Keeps L r s) :
    Keeps L r (State.beginStart s) := by
  unfold State.beginStart
  try dsimp only
  repeat' first
    | with_reducible assumption | with_reducible apply keepsR_next | with_reducible apply keeps_foldl
    | with_reducible apply keeps_avsIssue | exact within hL rfl | intro _ | split
    | (fail_if_no_progress with_reducible apply keeps_set_boot (within hL rfl))

theorem keeps_leaveRetention {L : Nat} {r s : State} (hL : Sub 0x200000 L) (h : Keeps L r s) :
    Keeps L r (State.leaveRetention s) := by
  unfold State.leaveRetention
  try dsimp only
  repeat' first
    | with_reducible assumption | with_reducible apply keepsR_next | with_reducible apply keeps_foldl
    | exact within hL rfl | intro _ | split
    | (fail_if_no_progress with_reducible apply keeps_set_memctl (within hL rfl))

theorem keeps_endRetention {L : Nat} {r s : State} (hL : Sub 0x200000 L) (h : Keeps L r s) :
    Keeps L r (State.endRetention s) := by
  unfold State.endRetention
  try dsimp only
  repeat' first
    | with_reducible assumption | with_reducible apply keepsR_next | with_reducible apply keeps_foldl
    | with_reducible apply keeps_leaveRetention | exact within hL rfl | intro _ | split

theorem keeps_startFunctionReset {L : Nat} {r s : State} (hL : Sub 0x36bb6ff7d8 L) (h : Keeps L r s) :
    Keeps L r (State.startFunctionReset s) := by
  unfold State.startFunctionReset
  try dsimp only
  repeat' first
    | with_reducible assumption | with_reducible apply keepsR_next | with_reducible apply keeps_foldl
    | with_reducible apply keeps_endRetention | with_reducible apply keeps_loseConfig
    | with_reducible apply keeps_loseWork | exact within hL rfl | intro _ | split
    | (fail_if_no_progress with_reducible apply keeps_set_env (within hL rfl))

theorem keeps_startDeviceReset {L : Nat} {r s : State} (hL : Sub 0x36bb6ff708 L) (h : Keeps L r s) :
    Keeps L r (State.startDeviceReset s) := by
  unfold State.startDeviceReset
  try dsimp only
  repeat' first
    | with_reducible assumption | with_reducible apply keepsR_next | with_reducible apply keeps_foldl
    | with_reducible apply keeps_loseWork | exact within hL rfl | intro _ | split
    | (fail_if_no_progress with_reducible apply keeps_set_env (within hL rfl))

theorem keeps_declareLost {L : Nat} {r s : State} (hL : Sub 0x26000240028 L) (h : Keeps L r s)
    (cause : BitVec 16) :
    Keeps L r (State.declareLost s cause) := by
  unfold State.declareLost
  try dsimp only
  repeat' first
    | with_reducible assumption | with_reducible apply keepsR_next | with_reducible apply keeps_foldl
    | with_reducible apply keeps_countFault | with_reducible apply keeps_sendAer | exact within hL rfl | intro _
    | split | (fail_if_no_progress with_reducible apply keeps_set_env_quays_memctl_lighthouse (within hL rfl))

theorem keeps_formPair {L : Nat} {r s : State} (hL : Sub 0x4000000000 L) (h : Keeps L r s) (passed : BitVec 3) :
    Keeps L r (State.formPair s passed) := by
  unfold State.formPair
  try dsimp only
  repeat' first
    | with_reducible assumption | with_reducible apply keepsR_next | with_reducible apply keeps_foldl
    | exact within hL rfl | intro _ | split
    | (fail_if_no_progress with_reducible apply keeps_set_lighthouse (within hL rfl))

theorem keeps_functionReset {L : Nat} {r s : State} (hL : Sub 0x276bb6ff7d8 L) (h : Keeps L r s)
    (passed : BitVec 3) (misread : List (Nat × Byte)) :
    Keeps L r (State.functionReset s passed misread) := by
  unfold State.functionReset
  try dsimp only
  repeat' first
    | with_reducible assumption | with_reducible apply keepsR_next | with_reducible apply keeps_foldl
    | with_reducible apply keeps_ltrUpdate | with_reducible apply keeps_formPair
    | with_reducible apply keeps_startFunctionReset | with_reducible apply keeps_loseConfig
    | exact within hL rfl | intro _ | split
    | (fail_if_no_progress with_reducible apply keeps_set_env (within hL rfl))
    | (fail_if_no_progress with_reducible apply keeps_set_env_lighthouse (within hL rfl))

theorem keeps_releaseHeldReset {L : Nat} {r s : State} (hL : Sub 0x276bb6ff7d8 L) (h : Keeps L r s) :
    Keeps L r (State.releaseHeldReset s) := by
  unfold State.releaseHeldReset
  try dsimp only
  repeat' first
    | with_reducible assumption | with_reducible apply keepsR_next | with_reducible apply keeps_foldl
    | with_reducible apply keeps_startDeviceReset | with_reducible apply keeps_haltUpdate
    | with_reducible apply keeps_ltrUpdate | with_reducible apply keeps_functionReset | exact within hL rfl
    | intro _ | split | (fail_if_no_progress with_reducible apply keeps_set_env (within hL rfl))

theorem keeps_writeLossRecord {L : Nat} {r s : State} (hL : Sub 0x26000080210 L) (h : Keeps L r s) :
    Keeps L r (State.writeLossRecord s) := by
  unfold State.writeLossRecord
  try dsimp only
  repeat' first
    | with_reducible assumption | with_reducible apply keepsR_next | with_reducible apply keeps_foldl
    | with_reducible apply keeps_faultPut | with_reducible apply keeps_faultEvent
    | with_reducible apply keeps_logEvent | exact within hL rfl | intro _ | split
    | (fail_if_no_progress with_reducible apply keeps_set_lighthouse (within hL rfl))

theorem keeps_noteLost {L : Nat} {r s : State} (hL : Sub 0x22000080214 L) (h : Keeps L r s)
    (items : List StoreItem) :
    Keeps L r (State.noteLost s items) := by
  unfold State.noteLost
  try dsimp only
  repeat' first
    | with_reducible assumption | with_reducible apply keepsR_next | with_reducible apply keeps_foldl
    | with_reducible apply keeps_bootReport | exact within hL rfl | intro _ | split
    | (fail_if_no_progress with_reducible apply keeps_set_boot (within hL rfl))

theorem keeps_openWindow {L : Nat} {r s : State} (hL : Sub 0x80004 L) (h : Keeps L r s) :
    Keeps L r (State.openWindow s) := by
  unfold State.openWindow
  try dsimp only
  repeat' first
    | with_reducible assumption | with_reducible apply keepsR_next | with_reducible apply keeps_foldl
    | exact within hL rfl | intro _ | split | with_reducible apply keeps_set_boot_mem (within hL rfl)
    | with_reducible apply Memory.wf_store | with_reducible apply Memory.wf_clear

theorem keeps_checkToken {L : Nat} {r s : State} (hL : Sub 0x22000080216 L) (h : Keeps L r s) :
    Keeps L r (State.checkToken s) := by
  unfold State.checkToken
  try dsimp only
  repeat' first
    | with_reducible assumption | with_reducible apply keepsR_next | with_reducible apply keeps_foldl
    | with_reducible apply keeps_bootReport | exact within hL rfl | intro _ | split
    | (fail_if_no_progress with_reducible apply keeps_set_boot (within hL rfl))
    | with_reducible apply keeps_set_secure_boot (within hL rfl)
    | exact ⟨Nat.le_refl _, id, id, id, id, rfl, fun _ => Nat.le_refl _⟩

theorem keeps_storeWrite {L : Nat} {r s : State} (hL : Sub 0x2 L) (h : Keeps L r s) (w : StoreWrite) :
    Keeps L r (State.storeWrite s w) := by
  unfold State.storeWrite
  try dsimp only
  repeat' first
    | with_reducible assumption | with_reducible apply keepsR_next | with_reducible apply keeps_foldl
    | exact within hL rfl | intro _ | split | with_reducible apply keeps_set_secure (within hL rfl)
    | exact Secure.grows_count _ _ _ | exact ⟨Nat.le_refl _, id, id, id, id, rfl, fun _ => Nat.le_refl _⟩

theorem keeps_dropHoldWrite {L : Nat} {r s : State} (hL : Sub 0x22000080214 L) (h : Keeps L r s) :
    Keeps L r (State.dropHoldWrite s) := by
  unfold State.dropHoldWrite
  try dsimp only
  repeat' first
    | with_reducible assumption | with_reducible apply keepsR_next | with_reducible apply keeps_foldl
    | with_reducible apply keeps_note | with_reducible apply keeps_bootReport | exact within hL rfl | intro _
    | split | (fail_if_no_progress with_reducible apply keeps_set_boot (within hL rfl))

theorem keeps_haltFrom {L : Nat} {r s : State} (hL : Sub 0x40 L) (h : Keeps L r s) :
    Keeps L r (State.haltFrom s) := by
  unfold State.haltFrom
  try dsimp only
  repeat' first
    | with_reducible assumption | with_reducible apply keepsR_next | with_reducible apply keeps_foldl
    | exact within hL rfl | intro _ | split
    | (fail_if_no_progress with_reducible apply keeps_set_hostif (within hL rfl))

theorem keeps_stopAsking {L : Nat} {r s : State} (hL : Sub 0x8000 L) (h : Keeps L r s) :
    Keeps L r (State.stopAsking s) := by
  unfold State.stopAsking
  try dsimp only
  repeat' first
    | with_reducible assumption | with_reducible apply keepsR_next | with_reducible apply keeps_foldl
    | exact within hL rfl | intro _ | split
    | (fail_if_no_progress with_reducible apply keeps_set_flights (within hL rfl))

theorem keeps_haltOn {L : Nat} {r s : State} (hL : Sub 0x2008008c2c0 L) (h : Keeps L r s) (preempt : Bool) :
    Keeps L r (State.haltOn s preempt) := by
  unfold State.haltOn
  try dsimp only
  repeat' first
    | with_reducible assumption | with_reducible apply keepsR_next | with_reducible apply keeps_foldl
    | with_reducible apply keeps_haltFrom | with_reducible apply keeps_stopAsking
    | with_reducible apply keeps_preemptAll | with_reducible apply keeps_haltUpdate | exact within hL rfl
    | intro _ | split | (fail_if_no_progress with_reducible apply keeps_set_hostif (within hL rfl))

theorem keeps_creditHalt {L : Nat} {r s : State} (hL : Sub 0x8000 L) (h : Keeps L r s) :
    Keeps L r (State.creditHalt s) := by
  unfold State.creditHalt
  try dsimp only
  repeat' first
    | with_reducible assumption | with_reducible apply keepsR_next | with_reducible apply keeps_foldl
    | exact within hL rfl | intro _ | split
    | (fail_if_no_progress with_reducible apply keeps_set_flights (within hL rfl))

theorem keeps_letGo {L : Nat} {r s : State} (hL : Sub 0x220800dd2d0 L) (h : Keeps L r s) :
    Keeps L r (State.letGo s) := by
  unfold State.letGo
  try dsimp only
  repeat' first
    | with_reducible assumption | with_reducible apply keepsR_next | with_reducible apply keeps_foldl
    | with_reducible apply keeps_creditHalt | with_reducible apply keeps_resumeFlights
    | with_reducible apply keeps_rearmWaits | with_reducible apply keeps_settle | exact within hL rfl | intro _
    | split | (fail_if_no_progress with_reducible apply keeps_set_sched (within hL rfl))

theorem keeps_haltOff {L : Nat} {r s : State} (hL : Sub 0x220800dd2d0 L) (h : Keeps L r s) (preempt : Bool) :
    Keeps L r (State.haltOff s preempt) := by
  unfold State.haltOff
  try dsimp only
  repeat' first
    | with_reducible assumption | with_reducible apply keepsR_next | with_reducible apply keeps_foldl
    | with_reducible apply keeps_letGo | exact within hL rfl | intro _ | split
    | (fail_if_no_progress with_reducible apply keeps_set_hostif (within hL rfl))

theorem keeps_writeHalt {L : Nat} {r s : State} (hL : Sub 0x220800dd2d8 L) (h : Keeps L r s)
    (halt : Bool) (preempt : Bool) :
    Keeps L r (State.writeHalt s halt preempt) := by
  unfold State.writeHalt
  try dsimp only
  repeat' first
    | with_reducible assumption | with_reducible apply keepsR_next | with_reducible apply keeps_foldl
    | with_reducible apply keeps_haltOn | with_reducible apply keeps_haltOff | exact within hL rfl | intro _
    | split | (fail_if_no_progress with_reducible apply keeps_set_env (within hL rfl))

theorem keeps_flushCache {L : Nat} {r s : State} (hL : Sub 0x80000 L) (h : Keeps L r s) :
    Keeps L r (State.flushCache s) := by
  unfold State.flushCache
  try dsimp only
  repeat' first
    | with_reducible assumption | with_reducible apply keepsR_next | with_reducible apply keeps_foldl
    | with_reducible apply keeps_updMem_store | with_reducible apply keeps_updMem | exact within hL rfl
    | intro _ | split | with_reducible apply Memory.wf_store | with_reducible apply Memory.wf_clear
    | with_reducible apply Memory.wf_forget | with_reducible apply Memory.wf_setPoison
    | with_reducible apply Memory.wf_spoil | with_reducible apply Memory.wf_refetch
    | with_reducible apply Memory.wf_dropLines

theorem keeps_enterD3hot {L : Nat} {r s : State} (hL : Sub 0x226b32cfad8 L) (h : Keeps L r s) :
    Keeps L r (State.enterD3hot s) := by
  unfold State.enterD3hot
  try dsimp only
  repeat' first
    | with_reducible assumption | with_reducible apply keepsR_next | with_reducible apply keeps_foldl
    | with_reducible apply keeps_idleSeqs | with_reducible apply keeps_stopStreams
    | with_reducible apply keeps_haltFrom | with_reducible apply keeps_gateQuays
    | with_reducible apply keeps_preemptAll | with_reducible apply keeps_suspendUnit
    | with_reducible apply keeps_flushCache | with_reducible apply keeps_dropForPower
    | with_reducible apply keeps_ltrUpdate | exact within hL rfl | intro _ | split
    | (fail_if_no_progress with_reducible apply keeps_set_env (within hL rfl))
    | (fail_if_no_progress with_reducible apply keeps_set_memctl (within hL rfl))

theorem keeps_releaseHeld {L : Nat} {r s : State} (hL : Sub 0x276bb6fffd8 L) (h : Keeps L r s) :
    Keeps L r (State.releaseHeld s) := by
  unfold State.releaseHeld
  try dsimp only
  repeat' first
    | with_reducible assumption | with_reducible apply keepsR_next | with_reducible apply keeps_foldl
    | with_reducible apply keeps_enterD3hot | with_reducible apply keeps_releaseHeldReset | exact within hL rfl
    | intro _ | split

theorem keeps_wakeSlack {L : Nat} {r s : State} (hL : Sub 0x20000200088 L) (h : Keeps L r s) :
    Keeps L r (State.wakeSlack s) := by
  unfold State.wakeSlack
  try dsimp only
  repeat' first
    | with_reducible assumption | with_reducible apply keepsR_next | with_reducible apply keeps_foldl
    | with_reducible apply keeps_leaveRetention | with_reducible apply keeps_ltrUpdate | exact within hL rfl
    | intro _ | split | (fail_if_no_progress with_reducible apply keeps_set_env (within hL rfl))

theorem keeps_requestDeviceReset {L : Nat} {r s : State} (hL : Sub 0x236bb6ff7c8 L) (h : Keeps L r s) :
    Keeps L r (State.requestDeviceReset s) := by
  unfold State.requestDeviceReset
  try dsimp only
  repeat' first
    | with_reducible assumption | with_reducible apply keepsR_next | with_reducible apply keeps_foldl
    | with_reducible apply keeps_startDeviceReset | with_reducible apply keeps_haltUpdate
    | with_reducible apply keeps_ltrUpdate | exact within hL rfl | intro _ | split
    | (fail_if_no_progress with_reducible apply keeps_set_env (within hL rfl))

theorem keeps_startQuayReset {L : Nat} {r s : State} (hL : Sub 0x2a6800cd2d0 L) (h : Keeps L r s) (q : QuayId) :
    Keeps L r (State.startQuayReset s q) := by
  unfold State.startQuayReset
  try dsimp only
  repeat' first
    | with_reducible assumption | with_reducible apply keepsR_next | with_reducible apply keeps_foldl
    | with_reducible apply keeps_updQuay | with_reducible apply keeps_chargePhase
    | with_reducible apply keeps_failQuiet | with_reducible apply keeps_dropUnkept
    | with_reducible apply keeps_updFlight | with_reducible apply keeps_report | exact within hL rfl | intro _
    | split

theorem keeps_releaseQuayReset {L : Nat} {r s : State} (hL : Sub 0x2a6800cd2d0 L) (h : Keeps L r s)
    (q : QuayId) :
    Keeps L r (State.releaseQuayReset s q) := by
  unfold State.releaseQuayReset
  try dsimp only
  repeat' first
    | with_reducible assumption | with_reducible apply keepsR_next | with_reducible apply keeps_foldl
    | with_reducible apply keeps_updQuay | with_reducible apply keeps_startQuayReset | exact within hL rfl
    | intro _ | split

theorem keeps_execSupplyPowerUp {L : Nat} {r s : State} (hL : Sub 0xfffffffffe L) (h : Keeps L r s)
    (testen : Bool) :
    KeepsR L r (execSupplyPowerUp testen s) := by
  unfold execSupplyPowerUp
  try dsimp only
  repeat' first
    | with_reducible assumption | with_reducible apply keepsR_next | with_reducible apply keeps_foldl
    | with_reducible apply keeps_restart | exact within hL rfl | intro _ | split
    | (fail_if_no_progress with_reducible apply keeps_set_env (within hL rfl))

theorem keeps_execSupplyLoss {L : Nat} {r s : State} (hL : Sub 0xfffffffffe L) (h : Keeps L r s) :
    KeepsR L r (execSupplyLoss s) := by
  unfold execSupplyLoss
  try dsimp only
  repeat' first
    | with_reducible assumption | with_reducible apply keepsR_next | with_reducible apply keeps_foldl
    | with_reducible apply keeps_restart | exact within hL rfl | intro _ | split
    | (fail_if_no_progress with_reducible apply keeps_set_env (within hL rfl))

theorem keeps_execTestenHigh {L : Nat} {r s : State} (hL : Sub 0xfffffffffe L) (h : Keeps L r s) :
    KeepsR L r (execTestenHigh s) := by
  unfold execTestenHigh
  try dsimp only
  repeat' first
    | with_reducible assumption | with_reducible apply keepsR_next | with_reducible apply keeps_foldl
    | with_reducible apply keeps_restart | exact within hL rfl | intro _ | split
    | (fail_if_no_progress with_reducible apply keeps_set_env (within hL rfl))

theorem keeps_execPerstNAssert {L : Nat} {r s : State} (hL : Sub 0x2fffffffffe L) (h : Keeps L r s)
    (hotReset : Bool) :
    KeepsR L r (execPerstNAssert hotReset s) := by
  unfold execPerstNAssert
  try dsimp only
  repeat' first
    | with_reducible assumption | with_reducible apply keepsR_next | with_reducible apply keeps_foldl
    | with_reducible apply keeps_avsIssue | with_reducible apply keeps_restart
    | with_reducible apply keeps_beginStart | exact within hL rfl | intro _ | split
    | (fail_if_no_progress with_reducible apply keeps_set_env (within hL rfl))

theorem keeps_execPerstNRelease {L : Nat} {r s : State} (hL : Sub 0x2000000000c L) (h : Keeps L r s)
    (hottest : Int) :
    KeepsR L r (execPerstNRelease hottest s) := by
  unfold execPerstNRelease
  try dsimp only
  repeat' first
    | with_reducible assumption | with_reducible apply keepsR_next | with_reducible apply keeps_foldl
    | with_reducible apply keeps_beginStart | exact within hL rfl | intro _ | split
    | (fail_if_no_progress with_reducible apply keeps_set_env (within hL rfl))

theorem keeps_execThermalHoldRelease {L : Nat} {r s : State} (hL : Sub 0x2000000000c L) (h : Keeps L r s)
    (reading : Int) :
    KeepsR L r (execThermalHoldRelease reading s) := by
  unfold execThermalHoldRelease
  try dsimp only
  repeat' first
    | with_reducible assumption | with_reducible apply keepsR_next | with_reducible apply keeps_foldl
    | with_reducible apply keeps_beginStart | exact within hL rfl | intro _ | split
    | (fail_if_no_progress with_reducible apply keeps_set_env (within hL rfl))

theorem keeps_execTideClockLock {L : Nat} {r s : State} (hL : Sub 0x200000000 L) (h : Keeps L r s) :
    KeepsR L r (execTideClockLock s) := by
  unfold execTideClockLock
  try dsimp only
  repeat' first
    | with_reducible assumption | with_reducible apply keepsR_next | with_reducible apply keeps_foldl
    | exact within hL rfl | intro _ | split
    | (fail_if_no_progress with_reducible apply keeps_set_tide (within hL rfl))

theorem keeps_execPufDone {L : Nat} {r s : State} (hL : Sub 0x22000080216 L) (h : Keeps L r s)
    (seed : Option (BitVec 256)) (bad : BadCopies) :
    KeepsR L r (execPufDone seed bad s) := by
  unfold execPufDone
  try dsimp only
  repeat' first
    | with_reducible assumption | with_reducible apply keepsR_next | with_reducible apply keeps_foldl
    | with_reducible apply keeps_noteLost | with_reducible apply keeps_bootReport | exact within hL rfl
    | intro _ | split | (fail_if_no_progress with_reducible apply keeps_set_boot (within hL rfl))
    | with_reducible apply keeps_set_secure (within hL rfl)
    | with_reducible apply keeps_set_secure_boot (within hL rfl) | exact Secure.grows_tested _ _ _

theorem keeps_execBistDone {L : Nat} {r s : State} (hL : Sub 0x220003e0216 L) (h : Keeps L r s) (found : List RepairLoc)
    (bad : BadCopies) : KeepsR L r (execBistDone found bad s) := by
  unfold execBistDone
  split
  · exact keepsR_next h
  · extract_lets s1 s2 stored added merged y s3 s4 s5
    have h1 : Keeps L r s2 := keeps_noteLost (within hL rfl) (keeps_set_secure (within hL rfl) h
      (s.secure.grows_tested [.repairMap] bad)) [.repairMap]
    clear_value s2
    have h3 : Keeps L r s3 := keeps_set_secure (within hL rfl) h1 (s2.secure.grows_map merged .repairMap)
    have h4 : Keeps L r s4 := by
      unfold s4
      split
      · exact h3
      · exact keeps_bootReport (within hL rfl) h3 _ _ _
    exact keepsR_next (keeps_set_boot_memctl (within hL rfl)
      (keeps_foldl h4 fun _ _ hx => keeps_substitute (within hL rfl) hx _ _ _))

theorem keeps_execTrainingDone {L : Nat} {r s : State} (hL : Sub 0x2600028021c L) (h : Keeps L r s)
    (failing : List ChanId) (values : Vector (Vector WireTraining 8) 32) :
    KeepsR L r (execTrainingDone failing values s) := by
  unfold execTrainingDone
  try dsimp only
  repeat' first
    | with_reducible assumption | with_reducible apply keepsR_next | with_reducible apply keeps_foldl
    | with_reducible apply keeps_bootHalt | exact within hL rfl | intro _ | split
    | (fail_if_no_progress with_reducible apply keeps_set_memctl (within hL rfl))
    | (fail_if_no_progress with_reducible apply keeps_set_boot_memctl (within hL rfl))

theorem keeps_execAlignDone {L : Nat} {r s : State} (hL : Sub 0x2620028021c L) (h : Keeps L r s)
    (islands : Vector IslandEcho 52) :
    KeepsR L r (execAlignDone islands s) := by
  unfold execAlignDone
  try dsimp only
  repeat' first
    | with_reducible assumption | with_reducible apply keepsR_next | with_reducible apply keeps_foldl
    | with_reducible apply keeps_advanceTo | with_reducible apply keeps_openWindow
    | with_reducible apply keeps_bootHalt | exact within hL rfl | intro _ | split
    | (fail_if_no_progress with_reducible apply keeps_set_tide (within hL rfl))
    | (fail_if_no_progress with_reducible apply keeps_set_memctl_tide (within hL rfl))
    | (fail_if_no_progress with_reducible apply keeps_set_boot (within hL rfl))

theorem keeps_execCustomsStageTimeout {L : Nat} {r s : State} (hL : Sub 0x2600008021c L) (h : Keeps L r s) :
    KeepsR L r (execCustomsStageTimeout s) := by
  unfold execCustomsStageTimeout
  try dsimp only
  repeat' first
    | with_reducible assumption | with_reducible apply keepsR_next | with_reducible apply keeps_foldl
    | with_reducible apply keeps_bootHalt | exact within hL rfl | intro _ | split

theorem keeps_execDbgtoken {L : Nat} {r s : State} (hL : Sub 0x4 L) (h : Keeps L r s) (token : List Byte) :
    KeepsR L r (execDbgtoken token s) := by
  unfold execDbgtoken
  try dsimp only
  repeat' first
    | with_reducible assumption | with_reducible apply keepsR_next | with_reducible apply keeps_foldl
    | exact within hL rfl | intro _ | split
    | (fail_if_no_progress with_reducible apply keeps_set_boot (within hL rfl))

theorem keeps_writeRelease {L : Nat} {r s : State} (hL : Sub 0x4 L) (h : Keeps L r s) (value : Word) :
    Keeps L r (State.writeRelease s value) := by
  unfold State.writeRelease
  try dsimp only
  repeat' first
    | with_reducible assumption | with_reducible apply keepsR_next | with_reducible apply keeps_foldl
    | exact within hL rfl | intro _ | split
    | (fail_if_no_progress with_reducible apply keeps_set_boot (within hL rfl))

theorem keeps_execBootRelease {L : Nat} {r s : State} (hL : Sub 0x2000020008c L) (h : Keeps L r s)
    (value : Word) :
    KeepsR L r (execBootRelease value s) := by
  unfold execBootRelease
  try dsimp only
  repeat' first
    | with_reducible assumption | with_reducible apply keepsR_next | with_reducible apply keeps_foldl
    | with_reducible apply keeps_wakeSlack | with_reducible apply keeps_writeRelease | exact within hL rfl

theorem keeps_execCheckingDone {L : Nat} {r s : State} (hL : Sub 0x22000080216 L) (h : Keeps L r s)
    (bad : BadCopies) :
    KeepsR L r (execCheckingDone bad s) := by
  unfold execCheckingDone
  try dsimp only
  repeat' first
    | with_reducible assumption | with_reducible apply keepsR_next | with_reducible apply keeps_foldl
    | with_reducible apply keeps_noteLost | with_reducible apply keeps_checkToken
    | with_reducible apply keeps_openWindow | with_reducible apply keeps_bootReport | exact within hL rfl
    | intro _ | split | (fail_if_no_progress with_reducible apply keeps_set_boot (within hL rfl))
    | with_reducible apply keeps_set_secure (within hL rfl) | exact Secure.grows_tested _ _ _

theorem keeps_execKeysDone {L : Nat} {r s : State} (hL : Sub 0x10000080404 L) (h : Keeps L r s) :
    KeepsR L r (execKeysDone s) := by
  unfold execKeysDone
  try dsimp only
  repeat' first
    | with_reducible assumption | with_reducible apply keepsR_next | with_reducible apply keeps_foldl
    | with_reducible apply keeps_updMem_store | with_reducible apply keeps_updMem | exact within hL rfl
    | intro _ | split | (fail_if_no_progress with_reducible apply keeps_set_freeCount (within hL rfl))
    | (fail_if_no_progress with_reducible apply keeps_set_boot_heart (within hL rfl))
    | with_reducible apply Memory.wf_store

theorem keeps_execPcieLinkUp {L : Nat} {r s : State} (hL : Sub 0x8 L) (h : Keeps L r s) :
    KeepsR L r (execPcieLinkUp s) := by
  unfold execPcieLinkUp
  try dsimp only
  repeat' first
    | with_reducible assumption | with_reducible apply keepsR_next | with_reducible apply keeps_foldl
    | exact within hL rfl | intro _ | split
    | (fail_if_no_progress with_reducible apply keeps_set_env (within hL rfl))

theorem grows_minver {a : Secure} {v : Word} (h : a.seen.minver.toNat < v.toNat) :
    a.Grows { a with minver := v } := by
  refine ⟨?_, id, id, id, id, rfl, fun _ => Nat.le_refl _⟩
  dsimp only
  have hs : a.minver.toNat ≤ a.seen.minver.toNat := by
    unfold Secure.seen
    dsimp only
    repeat' split
    all_goals first | exact Nat.le_refl _ | (have := a.minver.isLt; simp; omega)
  omega

theorem keeps_writeMinver {L : Nat} {r s : State} (hL : Sub 0x22000080212 L) (h : Keeps L r s) (value : Word) :
    Keeps L r (s.writeMinver value) := by
  unfold State.writeMinver
  dsimp only
  split
  · exact h
  · split
    · rename_i hc
      simp only [Bool.and_eq_true, decide_eq_true_eq] at hc
      exact keeps_set_secure (within hL rfl) h (grows_minver hc.2)
    · exact keeps_note (within hL rfl) h _ _ _

theorem keeps_execBootMinverAdvance {L : Nat} {r s : State} (hL : Sub 0x2200028029a L) (h : Keeps L r s)
    (value : Word) :
    KeepsR L r (execBootMinverAdvance value s) := by
  unfold execBootMinverAdvance
  try dsimp only
  repeat' first
    | with_reducible assumption | with_reducible apply keepsR_next | with_reducible apply keeps_foldl
    | with_reducible apply keeps_writeMinver | with_reducible apply keeps_wakeSlack | exact within hL rfl

theorem keeps_execJtagInstruction {L : Nat} {r s : State} (hL : Sub 0x20000000008 L) (h : Keeps L r s)
    (i : JtagInstr) :
    KeepsR L r (execJtagInstruction i s) := by
  unfold execJtagInstruction
  try dsimp only
  repeat' first
    | with_reducible assumption | with_reducible apply keepsR_next | with_reducible apply keeps_foldl
    | with_reducible apply keeps_send | exact within hL rfl | intro _ | split
    | (fail_if_no_progress with_reducible apply keeps_set_env (within hL rfl))

theorem keeps_setCfg {L : Nat} {r s : State} (hL : Sub 0x10 L) (h : Keeps L r s) (f : PcieCfg → PcieCfg) :
    Keeps L r (State.setCfg s f) := by
  unfold State.setCfg
  try dsimp only
  repeat' first
    | with_reducible assumption | with_reducible apply keepsR_next | with_reducible apply keeps_foldl
    | exact within hL rfl | intro _ | split
    | (fail_if_no_progress with_reducible apply keeps_set_cfg (within hL rfl))

theorem keeps_resizeBar2 {L : Nat} {r s : State} (hL : Sub 0x10 L) (h : Keeps L r s) (log2 : Nat) :
    Keeps L r (State.resizeBar2 s log2) := by
  unfold State.resizeBar2
  try dsimp only
  repeat' first
    | with_reducible assumption | with_reducible apply keepsR_next | with_reducible apply keeps_foldl
    | with_reducible apply keeps_setCfg | exact within hL rfl | intro _ | split

theorem keeps_writeConfig {L : Nat} {r s : State} (hL : Sub 0x200000000f0 L) (h : Keeps L r s)
    (x1 : CfgReg) (v : Word) :
    Keeps L r (State.writeConfig s x1 v) := by
  unfold State.writeConfig
  try dsimp only
  repeat' first
    | with_reducible assumption | with_reducible apply keepsR_next | with_reducible apply keeps_foldl
    | with_reducible apply keeps_flushMsix | with_reducible apply keeps_resizeBar2
    | with_reducible apply keeps_ltrUpdate | with_reducible apply keeps_setCfg | exact within hL rfl | intro _
    | split | (fail_if_no_progress with_reducible apply keeps_set_hostif (within hL rfl))
    | (fail_if_no_progress with_reducible apply keeps_set_aer (within hL rfl))

theorem keeps_writeBar4 {L : Nat} {r s : State} (hL : Sub 0x20000000010 L) (h : Keeps L r s)
    (off : Nat) (v : Word) :
    Keeps L r (State.writeBar4 s off v) := by
  unfold State.writeBar4
  try dsimp only
  repeat' first
    | with_reducible assumption | with_reducible apply keepsR_next | with_reducible apply keeps_foldl
    | with_reducible apply keeps_flushMsix | with_reducible apply keeps_setCfg | exact within hL rfl | intro _
    | split

theorem keeps_loseDevice {L : Nat} {r s : State} (hL : Sub 0x276bb6ff7f8 L) (h : Keeps L r s)
    (cause : BitVec 16) :
    Keeps L r (State.loseDevice s cause) := by
  unfold State.loseDevice
  try dsimp only
  repeat' first
    | with_reducible assumption | with_reducible apply keepsR_next | with_reducible apply keeps_foldl
    | with_reducible apply keeps_declareLost | with_reducible apply keeps_releaseHeldReset | exact within hL rfl
    | intro _ | split

theorem keeps_placeRecoveryFence {L : Nat} {r s : State} (hL : Sub 0x40000 L) (h : Keeps L r s) :
    Keeps L r (State.placeRecoveryFence s) := by
  unfold State.placeRecoveryFence
  try dsimp only
  repeat' first
    | with_reducible assumption | with_reducible apply keepsR_next | with_reducible apply keeps_foldl
    | exact within hL rfl | intro _ | split
    | (fail_if_no_progress with_reducible apply keeps_set_quays (within hL rfl))

theorem keeps_startRecovery {L : Nat} {r s : State} (hL : Sub 0x276bb6ff7fc L) (h : Keeps L r s) (hold : Bool) :
    Keeps L r (State.startRecovery s hold) := by
  unfold State.startRecovery
  try dsimp only
  repeat' first
    | with_reducible assumption | with_reducible apply keepsR_next | with_reducible apply keeps_foldl
    | with_reducible apply keeps_placeRecoveryFence | with_reducible apply keeps_bootHalt
    | with_reducible apply keeps_loseDevice | exact within hL rfl | intro _ | split
    | (fail_if_no_progress with_reducible apply keeps_set_ready_lighthouse (within hL rfl))

theorem keeps_countColumn {L : Nat} {r s : State} (hL : Sub 0x2000000000 L) (h : Keeps L r s)
    (q : QuayId) (b : BerthId) (col : Fin 64) :
    Keeps L r (State.countColumn s q b col) := by
  unfold State.countColumn
  try dsimp only
  repeat' first
    | with_reducible assumption | with_reducible apply keepsR_next | with_reducible apply keeps_foldl
    | exact within hL rfl | intro _ | split
    | (fail_if_no_progress with_reducible apply keeps_set_faults (within hL rfl))

theorem keeps_discardAll {L : Nat} {r s : State} (hL : Sub 0x80049000 L) (h : Keeps L r s) :
    Keeps L r (State.discardAll s) := by
  unfold State.discardAll
  try dsimp only
  repeat' first
    | with_reducible assumption | with_reducible apply keepsR_next | with_reducible apply keeps_foldl
    | with_reducible apply keeps_releaseUnits | exact within hL rfl | intro _ | split
    | (fail_if_no_progress with_reducible apply keeps_set_queues_flights (within hL rfl))

theorem keeps_stopFirmware {L : Nat} {r s : State} (hL : Sub 0x220802c93f0 L) (h : Keeps L r s) :
    Keeps L r (State.stopFirmware s) := by
  unfold State.stopFirmware
  try dsimp only
  repeat' first
    | with_reducible assumption | with_reducible apply keepsR_next | with_reducible apply keeps_foldl
    | with_reducible apply keeps_haltUpdate | with_reducible apply keeps_ltrUpdate
    | with_reducible apply keeps_discardAll | with_reducible apply keeps_note
    | with_reducible apply keeps_sendAer | exact within hL rfl | intro _ | split
    | (fail_if_no_progress with_reducible apply keeps_set_ready_fwif_memctl (within hL rfl))

theorem keeps_failFor {L : Nat} {r s : State} (hL : Sub 0x2a0800cd2d0 L) (h : Keeps L r s)
    (command : Option (QueueId × Word)) (reason : BitVec 16) :
    Keeps L r (State.failFor s command reason) := by
  unfold State.failFor
  try dsimp only
  repeat' first
    | with_reducible assumption | with_reducible apply keepsR_next | with_reducible apply keeps_foldl
    | with_reducible apply keeps_failQuiet | exact within hL rfl | intro _ | split

theorem keeps_readPoisoned {L : Nat} {r s : State} (hL : Sub 0x2a0800cd2d0 L) (h : Keeps L r s)
    (command : Option (QueueId × Word)) :
    Keeps L r (State.readPoisoned s command) := by
  unfold State.readPoisoned
  try dsimp only
  repeat' first
    | with_reducible assumption | with_reducible apply keepsR_next | with_reducible apply keeps_foldl
    | with_reducible apply keeps_fail | exact within hL rfl | intro _ | split

theorem keeps_countLine {L : Nat} {r s : State} (hL : Sub 0x2000000000 L) (h : Keeps L r s)
    (slice : Nat) (way : Nat) (set : Nat) (weight : Nat) (code : BitVec 16) :
    Keeps L r (State.countLine s slice way set weight code) := by
  unfold State.countLine
  try dsimp only
  repeat' first
    | with_reducible assumption | with_reducible apply keepsR_next | with_reducible apply keeps_foldl
    | with_reducible apply keeps_countRepair

theorem keeps_poisonHarbour {L : Nat} {r s : State} (hL : Sub 0x180000 L) (h : Keeps L r s)
    (slice : Nat) (way : Nat) (set : Nat) (line : Nat) :
    Keeps L r (State.poisonHarbour s slice way set line) := by
  unfold State.poisonHarbour
  try dsimp only
  repeat' first
    | with_reducible assumption | with_reducible apply keepsR_next | with_reducible apply keeps_foldl
    | exact within hL rfl | intro _ | split | with_reducible apply keeps_set_mem_harbour (within hL rfl)
    | with_reducible apply Memory.wf_store | with_reducible apply Memory.wf_clear
    | with_reducible apply Memory.wf_forget | with_reducible apply Memory.wf_setPoison
    | with_reducible apply Memory.wf_spoil

theorem keeps_lineLost {L : Nat} {r s : State} (hL : Sub 0x22000180210 L) (h : Keeps L r s)
    (slice : Nat) (way : Nat) (set : Nat) (line : Nat) (command : Option (QueueId × Word)) :
    Keeps L r (State.lineLost s slice way set line command) := by
  unfold State.lineLost
  try dsimp only
  repeat' first
    | with_reducible assumption | with_reducible apply keepsR_next | with_reducible apply keeps_foldl
    | with_reducible apply keeps_countLine | with_reducible apply keeps_poisonHarbour
    | with_reducible apply keeps_report | exact within hL rfl

theorem keeps_harbourEcc {L : Nat} {r s : State} (hL : Sub 0x2f6bb7ffffc L) (h : Keeps L r s)
    (slice : Nat) (way : Nat) (set : Nat) (line : Nat) (kind : State.LineKind) (ecc : EccResult) (command : Option (QueueId × Word)) :
    Keeps L r (State.harbourEcc s slice way set line kind ecc command) := by
  unfold State.harbourEcc
  try dsimp only
  repeat' first
    | with_reducible assumption | with_reducible apply keepsR_next | with_reducible apply keeps_foldl
    | with_reducible apply keeps_lineLost | with_reducible apply keeps_poisonHarbour
    | with_reducible apply keeps_countLine | with_reducible apply keeps_startRecovery
    | with_reducible apply keeps_reportLimited | with_reducible apply keeps_failFor
    | with_reducible apply keeps_readPoisoned | exact within hL rfl | intro _ | split
    | (fail_if_no_progress with_reducible apply keeps_set_harbour (within hL rfl))
    | with_reducible apply keeps_set_mem_harbour (within hL rfl) | with_reducible apply Memory.wf_store
    | with_reducible apply Memory.wf_clear | with_reducible apply Memory.wf_forget
    | with_reducible apply Memory.wf_setPoison | with_reducible apply Memory.wf_spoil
    | with_reducible apply Memory.wf_refetch

theorem keeps_writeBackBad {L : Nat} {r s : State} (hL : Sub 0x22000180210 L) (h : Keeps L r s)
    (bad : List Nat) :
    Keeps L r (State.writeBackBad s bad) := by
  unfold State.writeBackBad
  try dsimp only
  repeat' first
    | with_reducible assumption | with_reducible apply keepsR_next | with_reducible apply keeps_foldl
    | with_reducible apply keeps_lineLost | exact within hL rfl | intro _ | split

theorem keeps_enterStrict {L : Nat} {r s : State} (hL : Sub 0x22000280210 L) (h : Keeps L r s)
    (c : ChanId) (cause : StrictCause) (marked : Bool) :
    Keeps L r (State.enterStrict s c cause marked) := by
  unfold State.enterStrict
  try dsimp only
  repeat' first
    | with_reducible assumption | with_reducible apply keepsR_next | with_reducible apply keeps_foldl
    | with_reducible apply keeps_note | with_reducible apply keeps_updChan | exact within hL rfl | intro _
    | split

theorem keeps_leaveStrict {L : Nat} {r s : State} (hL : Sub 0x200000 L) (h : Keeps L r s)
    (c : ChanId) (cause : StrictCause) :
    Keeps L r (State.leaveStrict s c cause) := by
  unfold State.leaveStrict
  try dsimp only
  repeat' first
    | with_reducible assumption | with_reducible apply keepsR_next | with_reducible apply keeps_foldl
    | with_reducible apply keeps_updChan

theorem keeps_startFieldRetrain {L : Nat} {r s : State} (hL : Sub 0x22000280210 L) (h : Keeps L r s)
    (c : ChanId) :
    Keeps L r (State.startFieldRetrain s c) := by
  unfold State.startFieldRetrain
  try dsimp only
  repeat' first
    | with_reducible assumption | with_reducible apply keepsR_next | with_reducible apply keeps_foldl
    | with_reducible apply keeps_enterStrict | with_reducible apply keeps_updChan | exact within hL rfl
    | intro _ | split

theorem keeps_memUncorrectable {L : Nat} {r s : State} (hL : Sub 0x2a0802cd2d0 L) (h : Keeps L r s)
    (addr : Nat) (source : Nat) (command : Option (QueueId × Word)) :
    Keeps L r (State.memUncorrectable s addr source command) := by
  unfold State.memUncorrectable
  try dsimp only
  repeat' first
    | with_reducible assumption | with_reducible apply keepsR_next | with_reducible apply keeps_foldl
    | with_reducible apply keeps_enterStrict | with_reducible apply keeps_report
    | with_reducible apply keeps_failFor | with_reducible apply keeps_updChan | exact within hL rfl | intro _
    | split | with_reducible apply keeps_set_mem_memctl (within hL rfl) | with_reducible apply Memory.wf_store
    | with_reducible apply Memory.wf_clear | with_reducible apply Memory.wf_forget
    | with_reducible apply Memory.wf_setPoison

theorem keeps_memCorrected {L : Nat} {r s : State} (hL : Sub 0x22000280a10 L) (h : Keeps L r s) (addr : Nat) :
    Keeps L r (State.memCorrected s addr) := by
  unfold State.memCorrected
  try dsimp only
  repeat' first
    | with_reducible assumption | with_reducible apply keepsR_next | with_reducible apply keeps_foldl
    | with_reducible apply keeps_reportLimited | with_reducible apply keeps_updChan | exact within hL rfl

theorem keeps_memRead {L : Nat} {r s : State} (hL : Sub 0x2a0802cdad0 L) (h : Keeps L r s)
    (addr : Nat) (source : Nat) (result : EccResult) (command : Option (QueueId × Word)) :
    Keeps L r (State.memRead s addr source result command) := by
  unfold State.memRead
  try dsimp only
  repeat' first
    | with_reducible assumption | with_reducible apply keepsR_next | with_reducible apply keeps_foldl
    | with_reducible apply keeps_memUncorrectable | with_reducible apply keeps_memCorrected
    | with_reducible apply keeps_readPoisoned | exact within hL rfl | intro _ | split

theorem keeps_testRead {L : Nat} {r s : State} (hL : Sub 0x2a0802cdad0 L) (h : Keeps L r s)
    (addr : Nat) (source : Nat) (result : EccResult) :
    Keeps L r (State.testRead s addr source result) := by
  unfold State.testRead
  try dsimp only
  repeat' first
    | with_reducible assumption | with_reducible apply keepsR_next | with_reducible apply keeps_foldl
    | with_reducible apply keeps_memRead | exact within hL rfl | intro _ | split

theorem keeps_execFunctionLevelReset {L : Nat} {r s : State} (hL : Sub 0x276bb6ff7d8 L) (h : Keeps L r s)
    (passed : BitVec 3) (misread : List (Nat × Byte)) :
    KeepsR L r (execFunctionLevelReset passed misread s) := by
  unfold execFunctionLevelReset
  try dsimp only
  repeat' first
    | with_reducible assumption | with_reducible apply keepsR_next | with_reducible apply keeps_foldl
    | with_reducible apply keeps_functionReset

theorem keeps_execFunctionResetComplete {L : Nat} {r s : State} (hL : Sub 0x26000080618 L) (h : Keeps L r s) :
    KeepsR L r (execFunctionResetComplete s) := by
  unfold execFunctionResetComplete
  try dsimp only
  repeat' first
    | with_reducible assumption | with_reducible apply keepsR_next | with_reducible apply keeps_foldl
    | with_reducible apply keeps_writeLossRecord | exact within hL rfl | intro _ | split
    | (fail_if_no_progress with_reducible apply keeps_set_env_heart (within hL rfl))

theorem keeps_execHostifDevReset {L : Nat} {r s : State} (hL : Sub 0x236bb6ff7c8 L) (h : Keeps L r s)
    (value : Word) :
    KeepsR L r (execHostifDevReset value s) := by
  unfold execHostifDevReset
  try dsimp only
  repeat' first
    | with_reducible assumption | with_reducible apply keepsR_next | with_reducible apply keeps_foldl
    | with_reducible apply keeps_wakeSlack | with_reducible apply keeps_requestDeviceReset | exact within hL rfl
    | intro _ | split

theorem keeps_execDevResetComplete {L : Nat} {r s : State} (hL : Sub 0x220800dd6d8 L) (h : Keeps L r s) :
    KeepsR L r (execDevResetComplete s) := by
  unfold execDevResetComplete
  try dsimp only
  repeat' first
    | with_reducible assumption | with_reducible apply keepsR_next | with_reducible apply keeps_foldl
    | with_reducible apply keeps_writeHalt | with_reducible apply keeps_haltUpdate | exact within hL rfl
    | intro _ | split | (fail_if_no_progress with_reducible apply keeps_set_env_heart (within hL rfl))

theorem keeps_execQuayReset {L : Nat} {r s : State} (hL : Sub 0x2a6802cd2d8 L) (h : Keeps L r s)
    (q : QuayId) (byFirmware : Bool) :
    KeepsR L r (execQuayReset q byFirmware s) := by
  unfold execQuayReset
  try dsimp only
  repeat' first
    | with_reducible assumption | with_reducible apply keepsR_next | with_reducible apply keeps_foldl
    | with_reducible apply keeps_wakeSlack | with_reducible apply keeps_startQuayReset | exact within hL rfl
    | intro _ | split

theorem keeps_execQuayResetComplete {L : Nat} {r s : State} (hL : Sub 0x40000 L) (h : Keeps L r s)
    (q : QuayId) :
    KeepsR L r (execQuayResetComplete q s) := by
  unfold execQuayResetComplete
  try dsimp only
  repeat' first
    | with_reducible assumption | with_reducible apply keepsR_next | with_reducible apply keeps_foldl
    | with_reducible apply keeps_updQuay | exact within hL rfl | intro _ | split

theorem keeps_execD3hotEntry {L : Nat} {r s : State} (hL : Sub 0x226b33cfad8 L) (h : Keeps L r s)
    (bad : List Nat) :
    KeepsR L r (execD3hotEntry bad s) := by
  unfold execD3hotEntry
  try dsimp only
  repeat' first
    | with_reducible assumption | with_reducible apply keepsR_next | with_reducible apply keeps_foldl
    | with_reducible apply keeps_enterD3hot | with_reducible apply keeps_writeBackBad
    | with_reducible apply keeps_wakeSlack | exact within hL rfl | intro _ | split
    | (fail_if_no_progress with_reducible apply keeps_set_env (within hL rfl))

theorem keeps_execD0Return {L : Nat} {r s : State} (hL : Sub 0x220902dd2d8 L) (h : Keeps L r s) :
    KeepsR L r (execD0Return s) := by
  unfold execD0Return
  try dsimp only
  repeat' first
    | with_reducible assumption | with_reducible apply keepsR_next | with_reducible apply keeps_foldl
    | with_reducible apply keeps_resumeUnit | with_reducible apply keeps_leaveRetention
    | with_reducible apply keeps_letGo | with_reducible apply keeps_ltrUpdate | exact within hL rfl | intro _
    | split | (fail_if_no_progress with_reducible apply keeps_set_env (within hL rfl))

theorem keeps_execL12Entry {L : Nat} {r s : State} (hL : Sub 0x610040208 L) (h : Keeps L r s) :
    KeepsR L r (execL12Entry s) := by
  unfold execL12Entry
  try dsimp only
  repeat' first
    | with_reducible assumption | with_reducible apply keepsR_next | with_reducible apply keeps_foldl
    | with_reducible apply keeps_idleSeqs | with_reducible apply keeps_dropForPower | exact within hL rfl
    | intro _ | split | (fail_if_no_progress with_reducible apply keeps_set_env (within hL rfl))

theorem keeps_execL12Exit {L : Nat} {r s : State} (hL : Sub 0x8 L) (h : Keeps L r s) :
    KeepsR L r (execL12Exit s) := by
  unfold execL12Exit
  try dsimp only
  repeat' first
    | with_reducible assumption | with_reducible apply keepsR_next | with_reducible apply keeps_foldl
    | exact within hL rfl | intro _ | split
    | (fail_if_no_progress with_reducible apply keeps_set_env (within hL rfl))

theorem keeps_execLightIdleEntry {L : Nat} {r s : State} (hL : Sub 0x20000040080 L) (h : Keeps L r s)
    (q : QuayId) :
    KeepsR L r (execLightIdleEntry q s) := by
  unfold execLightIdleEntry
  try dsimp only
  repeat' first
    | with_reducible assumption | with_reducible apply keepsR_next | with_reducible apply keeps_foldl
    | with_reducible apply keeps_updQuay | with_reducible apply keeps_ltrUpdate | exact within hL rfl | intro _
    | split

theorem keeps_execBerthPowerGate {L : Nat} {r s : State} (hL : Sub 0x200040000 L) (h : Keeps L r s)
    (q : QuayId) (b : BerthId) :
    KeepsR L r (execBerthPowerGate q b s) := by
  unfold execBerthPowerGate
  try dsimp only
  repeat' first
    | with_reducible assumption | with_reducible apply keepsR_next | with_reducible apply keeps_foldl
    | with_reducible apply keeps_advanceTo | with_reducible apply keeps_updBerth | exact within hL rfl | intro _
    | split

theorem keeps_execBerthWake {L : Nat} {r s : State} (hL : Sub 0x20200040080 L) (h : Keeps L r s)
    (q : QuayId) (b : BerthId) :
    KeepsR L r (execBerthWake q b s) := by
  unfold execBerthWake
  try dsimp only
  repeat' first
    | with_reducible assumption | with_reducible apply keepsR_next | with_reducible apply keeps_foldl
    | with_reducible apply keeps_advanceTo | with_reducible apply keeps_updQuay
    | with_reducible apply keeps_updBerth | with_reducible apply keeps_ltrUpdate | exact within hL rfl | intro _
    | split

theorem keeps_execSlackWaterEntry {L : Nat} {r s : State} (hL : Sub 0x226103c0298 L) (h : Keeps L r s)
    (bad : List Nat) :
    KeepsR L r (execSlackWaterEntry bad s) := by
  unfold execSlackWaterEntry
  try dsimp only
  repeat' first
    | with_reducible assumption | with_reducible apply keepsR_next | with_reducible apply keeps_foldl
    | with_reducible apply keeps_idleSeqs | with_reducible apply keeps_writeBackBad
    | with_reducible apply keeps_gateQuays | with_reducible apply keeps_flushCache
    | with_reducible apply keeps_dropForPower | with_reducible apply keeps_ltrUpdate | exact within hL rfl
    | intro _ | split | (fail_if_no_progress with_reducible apply keeps_set_env_memctl (within hL rfl))

theorem keeps_execSlackWaterExit {L : Nat} {r s : State} (hL : Sub 0x20000200088 L) (h : Keeps L r s)
    (cause : WakeCause) :
    KeepsR L r (execSlackWaterExit cause s) := by
  unfold execSlackWaterExit
  try dsimp only
  repeat' first
    | with_reducible assumption | with_reducible apply keepsR_next | with_reducible apply keeps_foldl
    | with_reducible apply keeps_wakeSlack | exact within hL rfl | intro _ | split

theorem keeps_execRefclkLoss {L : Nat} {r s : State} (hL : Sub 0x200000008 L) (h : Keeps L r s) :
    KeepsR L r (execRefclkLoss s) := by
  unfold execRefclkLoss
  try dsimp only
  repeat' first
    | with_reducible assumption | with_reducible apply keepsR_next | with_reducible apply keeps_foldl
    | exact within hL rfl | intro _ | split
    | (fail_if_no_progress with_reducible apply keeps_set_env (within hL rfl))
    | (fail_if_no_progress with_reducible apply keeps_set_tide (within hL rfl))
    | (fail_if_no_progress with_reducible apply keeps_set_env_tide (within hL rfl))

theorem keeps_execRefclkReturn {L : Nat} {r s : State} (hL : Sub 0x22200080218 L) (h : Keeps L r s)
    (ticks : Nat) :
    KeepsR L r (execRefclkReturn ticks s) := by
  unfold execRefclkReturn
  try dsimp only
  repeat' first
    | with_reducible assumption | with_reducible apply keepsR_next | with_reducible apply keeps_foldl
    | with_reducible apply keeps_note | exact within hL rfl | intro _ | split
    | (fail_if_no_progress with_reducible apply keeps_set_env (within hL rfl))
    | (fail_if_no_progress with_reducible apply keeps_set_tide (within hL rfl))
    | (fail_if_no_progress with_reducible apply keeps_set_env_tide (within hL rfl))

theorem keeps_execSyncInPulse {L : Nat} {r s : State} (hL : Sub 0x2220808c610 L) (h : Keeps L r s) :
    KeepsR L r (execSyncInPulse s) := by
  unfold execSyncInPulse
  try dsimp only
  repeat' first
    | with_reducible assumption | with_reducible apply keepsR_next | with_reducible apply keeps_foldl
    | with_reducible apply keeps_stepTide | with_reducible apply keeps_note | exact within hL rfl | intro _
    | split | (fail_if_no_progress with_reducible apply keeps_set_tide (within hL rfl))

theorem keeps_execSyncOutPulse {L : Nat} {r s : State} (hL : Sub 0x20200000000 L) (h : Keeps L r s) :
    KeepsR L r (execSyncOutPulse s) := by
  unfold execSyncOutPulse
  try dsimp only
  repeat' first
    | with_reducible assumption | with_reducible apply keepsR_next | with_reducible apply keeps_foldl
    | with_reducible apply keeps_advanceTo | with_reducible apply keeps_send | exact within hL rfl | intro _
    | split | (fail_if_no_progress with_reducible apply keeps_set_tide (within hL rfl))

theorem keeps_lockPtm {L : Nat} {r s : State} (hL : Sub 0x2220808c610 L) (h : Keeps L r s) (target : Int) :
    Keeps L r (State.lockPtm s target) := by
  unfold State.lockPtm
  try dsimp only
  repeat' first
    | with_reducible assumption | with_reducible apply keepsR_next | with_reducible apply keeps_foldl
    | with_reducible apply keeps_stepTide | with_reducible apply keeps_note | exact within hL rfl | intro _
    | split | (fail_if_no_progress with_reducible apply keeps_set_tide (within hL rfl))

theorem keeps_execPtmLock {L : Nat} {r s : State} (hL : Sub 0x2220808c610 L) (h : Keeps L r s)
    (masterNs : BitVec 64) :
    KeepsR L r (execPtmLock masterNs s) := by
  unfold execPtmLock
  try dsimp only
  repeat' first
    | with_reducible assumption | with_reducible apply keepsR_next | with_reducible apply keeps_foldl
    | with_reducible apply keeps_lockPtm | exact within hL rfl | intro _ | split

theorem keeps_execPtmMeasurement {L : Nat} {r s : State} (hL : Sub 0x22200080210 L) (h : Keeps L r s) (masterNs : BitVec 64) :
    KeepsR L r (execPtmMeasurement masterNs s) := by
  unfold execPtmMeasurement
  split
  · exact keepsR_next h
  · extract_lets s1 c1 s2 offset t1 s3 residual bad correct t2 s4
    have h3 : Keeps L r s3 := keeps_set_tide (within hL rfl) (keeps_send (within hL rfl)
      (keeps_set_cfg (within hL rfl) (keeps_advanceTo (within hL rfl) h _)) _)
    split
    · exact keepsR_next h3
    · have h4 : Keeps L r s4 := keeps_set_tide (within hL rfl) h3
      apply keepsR_next
      split
      · exact keeps_note (within hL rfl) h4 _ _ _
      · exact h4

theorem keeps_execTideCountRead {L : Nat} {r s : State} (hL : Sub 0x20200200088 L) (h : Keeps L r s)
    (wide : Bool) :
    KeepsR L r (execTideCountRead wide s) := by
  unfold execTideCountRead
  try dsimp only
  repeat' first
    | with_reducible assumption | with_reducible apply keepsR_next | with_reducible apply keeps_foldl
    | with_reducible apply keeps_send | with_reducible apply keeps_wakeSlack | exact within hL rfl | intro _
    | split | (fail_if_no_progress with_reducible apply keeps_set_tide (within hL rfl))

theorem keeps_idleTick {L : Nat} {r s : State} (hL : Sub 0x22200080a10 L) (h : Keeps L r s) :
    Keeps L r (idleTick s) := by
  unfold idleTick
  try dsimp only
  repeat' first
    | with_reducible assumption | with_reducible apply keepsR_next | with_reducible apply keeps_foldl
    | with_reducible apply keeps_flushMarks | exact within hL rfl | intro _ | split
    | (fail_if_no_progress with_reducible apply keeps_set_tide (within hL rfl))

end Sys2Proof.Machine
end

