-- ==== Sys2Proof/Laws/KeepsQueueCmds.lean ====
section
/-! SUPPORT. `Keeps` of the operations of QueueCmds, MemoryCmds, DispatchOps, DispatchCmds, CopyCmds. -/

namespace Sys2Proof.Machine

theorem keeps_countDiverge {L : Nat} {r s : State} (hL : Sub 0x400000000 L) (h : Keeps L r s) :
    Keeps L r (State.countDiverge s) := by
  unfold State.countDiverge
  try dsimp only
  repeat' first
    | with_reducible assumption | with_reducible apply keepsR_next | with_reducible apply keeps_foldl
    | exact within hL rfl | intro _ | split
    | (fail_if_no_progress with_reducible apply keeps_set_recorder (within hL rfl))

theorem keeps_diverge {L : Nat} {r s : State} (hL : Sub 0x22400080210 L) (h : Keeps L r s) :
    Keeps L r (State.diverge s) := by
  unfold State.diverge
  try dsimp only
  repeat' first
    | with_reducible assumption | with_reducible apply keepsR_next | with_reducible apply keeps_foldl
    | with_reducible apply keeps_note | with_reducible apply keeps_countDiverge | exact within hL rfl

theorem keeps_replayDrop {L : Nat} {r s : State} (hL : Sub 0x22000080210 L) (h : Keeps L r s) :
    Keeps L r (State.replayDrop s) := by
  unfold State.replayDrop
  try dsimp only
  repeat' first
    | with_reducible assumption | with_reducible apply keepsR_next | with_reducible apply keeps_foldl
    | with_reducible apply keeps_note

theorem keeps_recordCommand {L : Nat} {r s : State} (hL : Sub 0x22400080210 L) (h : Keeps L r s)
    (q : QueueId) (idx : Word) (extra : List Byte) :
    Keeps L r (State.recordCommand s q idx extra) := by
  unfold State.recordCommand
  try dsimp only
  repeat' first
    | with_reducible assumption | with_reducible apply keepsR_next | with_reducible apply keeps_foldl
    | with_reducible apply keeps_record | exact within hL rfl | intro _ | split

theorem keeps_takeEnable {L : Nat} {r s : State} (hL : Sub 0x22000081290 L) (h : Keeps L r s) (q : QueueId) :
    Keeps L r (State.takeEnable s q) := by
  unfold State.takeEnable
  try dsimp only
  repeat' first
    | with_reducible assumption | with_reducible apply keepsR_next | with_reducible apply keeps_foldl
    | with_reducible apply keeps_updQueue | with_reducible apply keeps_ltrUpdate
    | with_reducible apply keeps_report | exact within hL rfl | intro _ | split

theorem keeps_enableQueue {L : Nat} {r s : State} (hL : Sub 0x22000081290 L) (h : Keeps L r s) (q : QueueId) :
    Keeps L r (State.enableQueue s q) := by
  unfold State.enableQueue
  try dsimp only
  repeat' first
    | with_reducible assumption | with_reducible apply keepsR_next | with_reducible apply keeps_foldl
    | with_reducible apply keeps_updQueue | with_reducible apply keeps_takeEnable | exact within hL rfl
    | intro _ | split

theorem keeps_disableQueue {L : Nat} {r s : State} (hL : Sub 0x220800cd2d0 L) (h : Keeps L r s) (q : QueueId) :
    Keeps L r (State.disableQueue s q) := by
  unfold State.disableQueue
  try dsimp only
  repeat' first
    | with_reducible assumption | with_reducible apply keepsR_next | with_reducible apply keeps_foldl
    | with_reducible apply keeps_updQueue | with_reducible apply keeps_discardUnstarted
    | with_reducible apply keeps_settle | exact within hL rfl | intro _ | split

theorem keeps_restartQueue {L : Nat} {r s : State} (hL : Sub 0x1000 L) (h : Keeps L r s) (q : QueueId) :
    Keeps L r (State.restartQueue s q) := by
  unfold State.restartQueue
  try dsimp only
  repeat' first
    | with_reducible assumption | with_reducible apply keepsR_next | with_reducible apply keeps_foldl
    | with_reducible apply keeps_updQueue

theorem keeps_recordRegWrite {L : Nat} {r s : State} (hL : Sub 0x22400080210 L) (h : Keeps L r s)
    (offset : Nat) (value : Nat) :
    Keeps L r (State.recordRegWrite s offset value) := by
  unfold State.recordRegWrite
  try dsimp only
  repeat' first
    | with_reducible assumption | with_reducible apply keepsR_next | with_reducible apply keeps_foldl
    | with_reducible apply keeps_record

theorem keeps_applyQueueCtrl {L : Nat} {r s : State} (hL : Sub 0x224800cd2d0 L) (h : Keeps L r s)
    (q : QueueId) (v : Nat) :
    Keeps L r (State.applyQueueCtrl s q v) := by
  unfold State.applyQueueCtrl
  try dsimp only
  repeat' first
    | with_reducible assumption | with_reducible apply keepsR_next | with_reducible apply keeps_foldl
    | with_reducible apply keeps_enableQueue | with_reducible apply keeps_restartQueue
    | with_reducible apply keeps_recordRegWrite | with_reducible apply keeps_disableQueue | exact within hL rfl
    | intro _ | split

theorem keeps_writeQueueCtrl {L : Nat} {r s : State} (hL : Sub 0x224800cd2d0 L) (h : Keeps L r s)
    (q : QueueId) (v : Nat) :
    Keeps L r (State.writeQueueCtrl s q v) := by
  unfold State.writeQueueCtrl
  try dsimp only
  repeat' first
    | with_reducible assumption | with_reducible apply keepsR_next | with_reducible apply keeps_foldl
    | with_reducible apply keeps_replayDrop | with_reducible apply keeps_applyQueueCtrl | exact within hL rfl
    | intro _ | split

theorem keeps_execQueueEnable {L : Nat} {r s : State} (hL : Sub 0x224802cd2d8 L) (h : Keeps L r s)
    (q : QueueId) :
    KeepsR L r (execQueueEnable q s) := by
  unfold execQueueEnable
  try dsimp only
  repeat' first
    | with_reducible assumption | with_reducible apply keepsR_next | with_reducible apply keeps_foldl
    | with_reducible apply keeps_wakeSlack | with_reducible apply keeps_writeQueueCtrl | exact within hL rfl
    | intro _ | split

theorem keeps_execQueueDisable {L : Nat} {r s : State} (hL : Sub 0x224802cd2d8 L) (h : Keeps L r s)
    (q : QueueId) :
    KeepsR L r (execQueueDisable q s) := by
  unfold execQueueDisable
  try dsimp only
  repeat' first
    | with_reducible assumption | with_reducible apply keepsR_next | with_reducible apply keeps_foldl
    | with_reducible apply keeps_wakeSlack | with_reducible apply keeps_writeQueueCtrl | exact within hL rfl
    | intro _ | split

theorem keeps_execQueueRestart {L : Nat} {r s : State} (hL : Sub 0x224802cd2d8 L) (h : Keeps L r s)
    (q : QueueId) :
    KeepsR L r (execQueueRestart q s) := by
  unfold execQueueRestart
  try dsimp only
  repeat' first
    | with_reducible assumption | with_reducible apply keepsR_next | with_reducible apply keeps_foldl
    | with_reducible apply keeps_wakeSlack | with_reducible apply keeps_writeQueueCtrl | exact within hL rfl
    | intro _ | split

theorem keeps_sample {L : Nat} {r s : State} (hL : Sub 0x2240008d210 L) (h : Keeps L r s)
    (q : QueueId) (bytes : List Byte) :
    Keeps L r (State.sample s q bytes) := by
  unfold State.sample
  try dsimp only
  repeat' first
    | with_reducible assumption | with_reducible apply keepsR_next | with_reducible apply keeps_foldl
    | with_reducible apply keeps_setHead | with_reducible apply keeps_record | with_reducible apply keeps_trace
    | with_reducible apply keeps_noteBlocked | exact within hL rfl | intro _ | split
    | (fail_if_no_progress with_reducible apply keeps_set_flights (within hL rfl))

theorem keeps_sampleSome {L : Nat} (hL : Sub 0x2240008d210 L) (x1 : Nat) :
    ∀ {r s : State} (_ : Keeps L r s) (q : QueueId), Keeps L r (State.sampleSome q x1 s) := by
  induction x1 with
  | zero =>
    intro r s h q
    unfold State.sampleSome
    try dsimp only
    repeat' first
    | with_reducible assumption
  | succ x1 ih =>
    intro r s h q
    unfold State.sampleSome
    try dsimp only
    repeat' first
      | with_reducible assumption | with_reducible apply keepsR_next | with_reducible apply keeps_foldl
      | with_reducible apply keeps_updQueue | with_reducible apply keeps_send | with_reducible apply keeps_sample
      | with_reducible apply keeps_sample | with_reducible apply keeps_send | with_reducible apply keeps_updQueue
      | with_reducible apply ih | exact within hL rfl | intro _ | split

theorem keeps_sweepQueue {L : Nat} {r s : State} (hL : Sub 0x224800cd2d0 L) (h : Keeps L r s) (q : QueueId) :
    Keeps L r (State.sweepQueue s q) := by
  unfold State.sweepQueue
  try dsimp only
  repeat' first
    | with_reducible assumption | with_reducible apply keepsR_next | with_reducible apply keeps_foldl
    | with_reducible apply keeps_settle | with_reducible apply keeps_stopQueue
    | with_reducible apply keeps_sampleSome | with_reducible apply keeps_report | exact within hL rfl | intro _
    | split

theorem keeps_execQueueSweep {L : Nat} {r s : State} (hL : Sub 0x226800dd2d0 L) (h : Keeps L r s) :
    KeepsR L r (execQueueSweep s) := by
  unfold execQueueSweep
  try dsimp only
  repeat' first
    | with_reducible assumption | with_reducible apply keepsR_next | with_reducible apply keeps_foldl
    | with_reducible apply keeps_sweepQueue | with_reducible apply keeps_advanceTo
    | with_reducible apply keeps_trace | with_reducible apply keeps_wakeAll | exact within hL rfl | intro _
    | split | (fail_if_no_progress with_reducible apply keeps_set_sched (within hL rfl))

theorem keeps_recordBare {L : Nat} {r s : State} (hL : Sub 0x22400080210 L) (h : Keeps L r s) (f : Flight) :
    Keeps L r (State.recordBare s f) := by
  unfold State.recordBare
  try dsimp only
  repeat' first
    | with_reducible assumption | with_reducible apply keepsR_next | with_reducible apply keeps_foldl
    | with_reducible apply keeps_recordCommand | exact within hL rfl | intro _ | split

theorem keeps_notePredicate {L : Nat} {r s : State} (hL : Sub 0x22400080210 L) (h : Keeps L r s) (f : Flight) :
    Keeps L r (State.notePredicate s f) := by
  unfold State.notePredicate
  try dsimp only
  repeat' first
    | with_reducible assumption | with_reducible apply keepsR_next | with_reducible apply keeps_foldl
    | with_reducible apply keeps_record | with_reducible apply keeps_diverge | exact within hL rfl | intro _
    | split

theorem keeps_awaitStart {L : Nat} {r s : State} (hL : Sub 0x3a08008c210 L) (h : Keeps L r s) (f : Flight) :
    Keeps L r (State.awaitStart s f) := by
  unfold State.awaitStart
  try dsimp only
  repeat' first
    | with_reducible assumption | with_reducible apply keepsR_next | with_reducible apply keeps_foldl
    | with_reducible apply keeps_noteBlocked | with_reducible apply keeps_updFlight
    | with_reducible apply keeps_askSlot | exact within hL rfl | intro _ | split

theorem keeps_becomeEligible {L : Nat} {r s : State} (hL : Sub 0x3a4800cd2d0 L) (h : Keeps L r s) (f : Flight) :
    Keeps L r (State.becomeEligible s f) := by
  unfold State.becomeEligible
  try dsimp only
  repeat' first
    | with_reducible assumption | with_reducible apply keepsR_next | with_reducible apply keeps_foldl
    | with_reducible apply keeps_settle | with_reducible apply keeps_trace
    | with_reducible apply keeps_endFlight | with_reducible apply keeps_recordBare
    | with_reducible apply keeps_awaitStart | with_reducible apply keeps_updFlight
    | with_reducible apply keeps_notePredicate | with_reducible apply keeps_fail | exact within hL rfl | intro _
    | split

theorem keeps_execCommandEligible {L : Nat} {r s : State} (hL : Sub 0x3a6800cd2d0 L) (h : Keeps L r s)
    (q : QueueId) :
    KeepsR L r (execCommandEligible q s) := by
  unfold execCommandEligible
  try dsimp only
  repeat' first
    | with_reducible assumption | with_reducible apply keepsR_next | with_reducible apply keeps_foldl
    | with_reducible apply keeps_advanceTo | with_reducible apply keeps_becomeEligible | exact within hL rfl
    | intro _ | split

theorem keeps_onStart {L : Nat} {r s : State} (hL : Sub 0x0 L) (h : Keeps L r s) (q : QueueId) (idx : Word) (body : Flight → State → State)
    (hb : ∀ f x, Keeps L r x → Keeps L r (body f x)) : Keeps L r (s.onStart q idx body) := by
  unfold State.onStart
  repeat' split
  all_goals first | exact hb _ _ h | exact h

theorem keeps_execNop {L : Nat} {r s : State} (hL : Sub 0x220800cd2d0 L) (h : Keeps L r s)
    (q : QueueId) (idx : Word) :
    KeepsR L r (execNop q idx s) := by
  unfold execNop
  try dsimp only
  repeat' first
    | with_reducible assumption | with_reducible apply keepsR_next | with_reducible apply keeps_foldl
    | with_reducible apply keeps_startFlight | with_reducible apply keeps_onStart
    | with_reducible apply keeps_finish | exact within hL rfl | intro _ | split

theorem keeps_execFlagSet {L : Nat} {r s : State} (hL : Sub 0x220800cf2d0 L) (h : Keeps L r s)
    (q : QueueId) (idx : Word) :
    KeepsR L r (execFlagSet q idx s) := by
  unfold execFlagSet
  try dsimp only
  repeat' first
    | with_reducible assumption | with_reducible apply keepsR_next | with_reducible apply keeps_foldl
    | with_reducible apply keeps_setFlag | with_reducible apply keeps_startFlight
    | with_reducible apply keeps_onStart | with_reducible apply keeps_finish | exact within hL rfl | intro _
    | split

theorem keeps_execFlagAdd {L : Nat} {r s : State} (hL : Sub 0x220800cf2d0 L) (h : Keeps L r s)
    (q : QueueId) (idx : Word) :
    KeepsR L r (execFlagAdd q idx s) := by
  unfold execFlagAdd
  try dsimp only
  repeat' first
    | with_reducible assumption | with_reducible apply keepsR_next | with_reducible apply keeps_foldl
    | with_reducible apply keeps_startFlight | with_reducible apply keeps_addFlag
    | with_reducible apply keeps_onStart | with_reducible apply keeps_finish | exact within hL rfl | intro _
    | split

theorem keeps_execFlagWait {L : Nat} {r s : State} (hL : Sub 0x2a0800cd2d0 L) (h : Keeps L r s)
    (q : QueueId) (idx : Word) :
    KeepsR L r (execFlagWait q idx s) := by
  unfold execFlagWait
  try dsimp only
  repeat' first
    | with_reducible assumption | with_reducible apply keepsR_next | with_reducible apply keeps_foldl
    | with_reducible apply keeps_trace | with_reducible apply keeps_noteBlocked
    | with_reducible apply keeps_updFlight | with_reducible apply keeps_onStart
    | with_reducible apply keeps_fail | with_reducible apply keeps_finish | exact within hL rfl | intro _
    | split

theorem keeps_failWait {L : Nat} {r s : State} (hL : Sub 0x2a4800cd2d0 L) (h : Keeps L r s)
    (q : QueueId) (idx : Word) (reason : BitVec 16) :
    Keeps L r (State.failWait s q idx reason) := by
  unfold State.failWait
  try dsimp only
  repeat' first
    | with_reducible assumption | with_reducible apply keepsR_next | with_reducible apply keeps_foldl
    | with_reducible apply keeps_record | with_reducible apply keeps_fail | exact within hL rfl

theorem keeps_execFlagWaitTimeout {L : Nat} {r s : State} (hL : Sub 0x2a6800cd2d0 L) (h : Keeps L r s)
    (q : QueueId) (idx : Word) :
    KeepsR L r (execFlagWaitTimeout q idx s) := by
  unfold execFlagWaitTimeout
  try dsimp only
  repeat' first
    | with_reducible assumption | with_reducible apply keepsR_next | with_reducible apply keeps_foldl
    | with_reducible apply keeps_advanceTo | with_reducible apply keeps_failWait | exact within hL rfl | intro _
    | split

theorem keeps_execFence {L : Nat} {r s : State} (hL : Sub 0x220800cd2d0 L) (h : Keeps L r s)
    (q : QueueId) (idx : Word) :
    KeepsR L r (execFence q idx s) := by
  unfold execFence
  try dsimp only
  repeat' first
    | with_reducible assumption | with_reducible apply keepsR_next | with_reducible apply keeps_foldl
    | with_reducible apply keeps_settle | with_reducible apply keeps_startFlight
    | with_reducible apply keeps_onStart | exact within hL rfl | intro _ | split

theorem keeps_execTimestamp {L : Nat} {r s : State} (hL : Sub 0x2a0800cd2d0 L) (h : Keeps L r s)
    (q : QueueId) (idx : Word) :
    KeepsR L r (execTimestamp q idx s) := by
  unfold execTimestamp
  try dsimp only
  repeat' first
    | with_reducible assumption | with_reducible apply keepsR_next | with_reducible apply keeps_foldl
    | with_reducible apply keeps_mmuFail | with_reducible apply keeps_writeVa
    | with_reducible apply keeps_startFlight | with_reducible apply keeps_onStart
    | with_reducible apply keeps_fail | with_reducible apply keeps_finish | exact within hL rfl | intro _
    | split

theorem keeps_writeHeld {L : Nat} (hL : Sub 0x2000008d210 L) (x1 : Nat) :
    ∀ {r s : State} (_ : Keeps L r s) (q : QueueId), Keeps L r (State.writeHeld q x1 s) := by
  induction x1 with
  | zero =>
    intro r s h q
    unfold State.writeHeld
    try dsimp only
    repeat' first
    | with_reducible assumption
  | succ x1 ih =>
    intro r s h q
    unfold State.writeHeld
    try dsimp only
    repeat' first
      | with_reducible assumption | with_reducible apply keepsR_next | with_reducible apply keeps_foldl
      | with_reducible apply keeps_writeRecord | with_reducible apply keeps_writeRecord | with_reducible apply ih
      | exact within hL rfl | intro _ | split

theorem keeps_execCompletionSlotFree {L : Nat} {r s : State} (hL : Sub 0x220800cd2d0 L) (h : Keeps L r s)
    (q : QueueId) :
    KeepsR L r (execCompletionSlotFree q s) := by
  unfold execCompletionSlotFree
  try dsimp only
  repeat' first
    | with_reducible assumption | with_reducible apply keepsR_next | with_reducible apply keeps_foldl
    | with_reducible apply keeps_settle | with_reducible apply keeps_writeHeld | exact within hL rfl | intro _
    | split

theorem keeps_execJournalSlotFree {L : Nat} {r s : State} (hL : Sub 0x220800cd2d0 L) (h : Keeps L r s)
    (q : QueueId) :
    KeepsR L r (execJournalSlotFree q s) := by
  unfold execJournalSlotFree
  try dsimp only
  repeat' first
    | with_reducible assumption | with_reducible apply keepsR_next | with_reducible apply keeps_foldl
    | with_reducible apply keeps_settle | with_reducible apply keeps_noteBlocked | exact within hL rfl | intro _
    | split

theorem keeps_applyHostFlag {L : Nat} {r s : State} (hL : Sub 0x224800cf2d0 L) (h : Keeps L r s)
    (f : FlagId) (add : Bool) (v : Word) :
    Keeps L r (State.applyHostFlag s f add v) := by
  unfold State.applyHostFlag
  try dsimp only
  repeat' first
    | with_reducible assumption | with_reducible apply keepsR_next | with_reducible apply keeps_foldl
    | with_reducible apply keeps_record | with_reducible apply keeps_addFlag
    | with_reducible apply keeps_setFlag | exact within hL rfl | intro _ | split

theorem keeps_hostFlag {L : Nat} {r s : State} (hL : Sub 0x224800cf2d0 L) (h : Keeps L r s)
    (f : FlagId) (add : Bool) (v : Word) :
    Keeps L r (State.hostFlag s f add v) := by
  unfold State.hostFlag
  try dsimp only
  repeat' first
    | with_reducible assumption | with_reducible apply keepsR_next | with_reducible apply keeps_foldl
    | with_reducible apply keeps_applyHostFlag | with_reducible apply keeps_replayDrop | exact within hL rfl
    | intro _ | split

theorem keeps_execHostFlagWrite {L : Nat} {r s : State} (hL : Sub 0x224802cf2d8 L) (h : Keeps L r s)
    (f : FlagId) (value : Word) :
    KeepsR L r (execHostFlagWrite f value s) := by
  unfold execHostFlagWrite
  try dsimp only
  repeat' first
    | with_reducible assumption | with_reducible apply keepsR_next | with_reducible apply keeps_foldl
    | with_reducible apply keeps_wakeSlack | with_reducible apply keeps_hostFlag | exact within hL rfl | intro _
    | split

theorem keeps_execHostFlagAdd {L : Nat} {r s : State} (hL : Sub 0x224802cf2d8 L) (h : Keeps L r s)
    (f : FlagId) (value : Word) :
    KeepsR L r (execHostFlagAdd f value s) := by
  unfold execHostFlagAdd
  try dsimp only
  repeat' first
    | with_reducible assumption | with_reducible apply keepsR_next | with_reducible apply keeps_foldl
    | with_reducible apply keeps_wakeSlack | with_reducible apply keeps_hostFlag | exact within hL rfl | intro _
    | split

theorem keeps_execHaltAll {L : Nat} {r s : State} (hL : Sub 0x220802dd2d8 L) (h : Keeps L r s) :
    KeepsR L r (execHaltAll s) := by
  unfold execHaltAll
  try dsimp only
  repeat' first
    | with_reducible assumption | with_reducible apply keepsR_next | with_reducible apply keeps_foldl
    | with_reducible apply keeps_writeHalt | with_reducible apply keeps_wakeSlack | exact within hL rfl
    | intro _ | split

theorem keeps_execHaltPreempt {L : Nat} {r s : State} (hL : Sub 0x220802dd2d8 L) (h : Keeps L r s) :
    KeepsR L r (execHaltPreempt s) := by
  unfold execHaltPreempt
  try dsimp only
  repeat' first
    | with_reducible assumption | with_reducible apply keepsR_next | with_reducible apply keeps_foldl
    | with_reducible apply keeps_writeHalt | with_reducible apply keeps_wakeSlack | exact within hL rfl
    | intro _ | split

theorem keeps_execHaltRelease {L : Nat} {r s : State} (hL : Sub 0x220802dd2d8 L) (h : Keeps L r s) :
    KeepsR L r (execHaltRelease s) := by
  unfold execHaltRelease
  try dsimp only
  repeat' first
    | with_reducible assumption | with_reducible apply keepsR_next | with_reducible apply keeps_foldl
    | with_reducible apply keeps_writeHalt | with_reducible apply keeps_wakeSlack | exact within hL rfl
    | intro _ | split

theorem keeps_abandon {L : Nat} {r s : State} (hL : Sub 0x2a4800cc210 L) (h : Keeps L r s)
    (q : QueueId) (idx : Word) :
    Keeps L r (State.abandon s q idx) := by
  unfold State.abandon
  try dsimp only
  repeat' first
    | with_reducible assumption | with_reducible apply keepsR_next | with_reducible apply keeps_foldl
    | with_reducible apply keeps_record | with_reducible apply keeps_trace
    | with_reducible apply keeps_releaseUnits | with_reducible apply keeps_updCtx
    | with_reducible apply keeps_forgetOutputs | with_reducible apply keeps_chargePhase
    | with_reducible apply keeps_updFlight | with_reducible apply keeps_report | exact within hL rfl | intro _
    | split

theorem keeps_evaluate {L : Nat} {r s : State} (hL : Sub 0x2a4800cc210 L) (h : Keeps L r s)
    (q : QueueId) (idx : Word) :
    Keeps L r (State.evaluate s q idx) := by
  unfold State.evaluate
  try dsimp only
  repeat' first
    | with_reducible assumption | with_reducible apply keepsR_next | with_reducible apply keeps_foldl
    | with_reducible apply keeps_abandon | exact within hL rfl | intro _ | split

theorem keeps_takeAdaptive {L : Nat} {r s : State} (hL : Sub 0x8000 L) (h : Keeps L r s)
    (q : QueueId) (idx : Word) :
    Keeps L r (State.takeAdaptive s q idx) := by
  unfold State.takeAdaptive
  try dsimp only
  repeat' first
    | with_reducible assumption | with_reducible apply keepsR_next | with_reducible apply keeps_foldl
    | with_reducible apply keeps_updFlight | exact within hL rfl | intro _ | split

theorem keeps_claim {L : Nat} {r s : State} (hL : Sub 0x40000 L) (h : Keeps L r s)
    (qs : List QuayId) (q : QueueId) (idx : Word) :
    Keeps L r (State.claim s qs q idx) := by
  unfold State.claim
  try dsimp only
  repeat' first
    | with_reducible assumption | with_reducible apply keepsR_next | with_reducible apply keeps_foldl
    | with_reducible apply keeps_updQuay | exact within hL rfl | intro _

theorem keeps_beginWakes {L : Nat} {r s : State} (hL : Sub 0x40000 L) (h : Keeps L r s)
    (l : List (QuayId × BerthId)) :
    Keeps L r (State.beginWakes s l) := by
  unfold State.beginWakes
  try dsimp only
  repeat' first
    | with_reducible assumption | with_reducible apply keepsR_next | with_reducible apply keeps_foldl
    | with_reducible apply keeps_updBerth | exact within hL rfl | intro _

theorem keeps_letIn {L : Nat} {r s : State} (hL : Sub 0x2a0800cd2d0 L) (h : Keeps L r s)
    (f : Flight) (qs : List QuayId) :
    Keeps L r (State.letIn s f qs) := by
  unfold State.letIn
  try dsimp only
  repeat' first
    | with_reducible assumption | with_reducible apply keepsR_next | with_reducible apply keeps_foldl
    | with_reducible apply keeps_startFlight | with_reducible apply keeps_askFor
    | with_reducible apply keeps_wakeAll | with_reducible apply keeps_takeAdaptive
    | with_reducible apply keeps_noteBlocked | with_reducible apply keeps_haltUpdate
    | with_reducible apply keeps_beginWakes | with_reducible apply keeps_updFlight
    | with_reducible apply keeps_claim | with_reducible apply keeps_ltrUpdate | with_reducible apply keeps_fail
    | with_reducible apply keeps_chargePhase | exact within hL rfl | intro _ | split

theorem keeps_refuseRestore {L : Nat} {r s : State} (hL : Sub 0x2a4800cd2d0 L) (h : Keeps L r s) (f : Flight) :
    Keeps L r (State.refuseRestore s f) := by
  unfold State.refuseRestore
  try dsimp only
  repeat' first
    | with_reducible assumption | with_reducible apply keepsR_next | with_reducible apply keeps_foldl
    | with_reducible apply keeps_record | with_reducible apply keeps_trace
    | with_reducible apply keeps_updFlight | with_reducible apply keeps_report | with_reducible apply keeps_fail
    | with_reducible apply keeps_chargePhase | exact within hL rfl | intro _ | split

theorem keeps_admitFrom {L : Nat} {r s : State} (hL : Sub 0x2a4800cd2d0 L) (h : Keeps L r s) (l : List Flight) (taken : List QuayId) :
    Keeps L r (s.admitFrom l taken) := by
  induction l generalizing taken with
  | nil => exact h
  | cons f fs ih =>
    unfold State.admitFrom
    split
    · exact keeps_letIn (within hL rfl) h _ _
    · split
      · exact keeps_refuseRestore (within hL rfl) h _
      · exact keeps_fail (within hL rfl) h _ _ _
    · exact keeps_foldl h fun s x hx => keeps_preemptFlight (within hL rfl) hx _ _ _
    · exact ih _

theorem keeps_commitAdaptive {L : Nat} {r s : State} (hL : Sub 0x4000 L) (h : Keeps L r s) (f : Flight) :
    Keeps L r (State.commitAdaptive s f) := by
  unfold State.commitAdaptive
  try dsimp only
  repeat' first
    | with_reducible assumption | with_reducible apply keepsR_next | with_reducible apply keeps_foldl
    | with_reducible apply keeps_updCtx | exact within hL rfl | intro _ | split

theorem keeps_execDispatch {L : Nat} {r s : State} (hL : Sub 0x2a4800cd2d0 L) (h : Keeps L r s)
    (q : QueueId) (idx : Word) (cargo : Cargo) (fallback : Option Cargo) :
    KeepsR L r (execDispatch q idx cargo fallback s) := by
  unfold execDispatch
  try dsimp only
  repeat' first
    | with_reducible assumption | with_reducible apply keepsR_next | with_reducible apply keeps_foldl
    | with_reducible apply keeps_mmuFail | with_reducible apply keeps_recordCommand
    | with_reducible apply keeps_recordBare | with_reducible apply keeps_abandon
    | with_reducible apply keeps_updFlight | with_reducible apply keeps_evaluate
    | with_reducible apply keeps_fail | exact keeps_fetching? (within hL rfl) h _ _ ‹_› | exact within hL rfl
    | intro _ | split

theorem keeps_recordedRestore {L : Nat} {r s t : State} (hL : Sub 0x2a0800cd2d0 L) (h : Keeps L r s) (f : Flight)
    (ht : s.recordedRestore f = some t) : Keeps L r t := by
  unfold State.recordedRestore at ht
  split at ht
  · cases ht
  · split at ht
    · cases ht
    · split at ht <;> cases ht
      · exact keeps_updFlight (within hL rfl) h _ _ _
      · exact keeps_fail (within hL rfl) h _ _ _

theorem keeps_findRestore {L : Nat} {r s t : State} (hL : Sub 0x2a0800cd2d0 L) (h : Keeps L r s) (l : List Flight)
    (ht : l.findSome? s.recordedRestore = some t) : Keeps L r t := by
  obtain ⟨f, -, hf⟩ := List.exists_of_findSome?_eq_some ht
  exact keeps_recordedRestore (within hL rfl) h f hf

theorem keeps_execDispatchAdmit {L : Nat} {r s : State} (hL : Sub 0x3a4800cd2d0 L) (h : Keeps L r s) :
    KeepsR L r (execDispatchAdmit s) := by
  unfold execDispatchAdmit
  split
  · exact keepsR_next h
  · extract_lets s1 s2 waiting
    have h' : Keeps L r s2 := keeps_foldl (keeps_noteBlocked (within hL rfl) h) fun s x hx => by
      split
      · exact keeps_askSlot (within hL rfl) hx _
      · exact hx
    split
    · exact keepsR_next (keeps_findRestore (within hL rfl) h' _ ‹_›)
    · exact keepsR_next (keeps_admitFrom (within hL rfl) h' _ _)

theorem keeps_writeHome {L : Nat} {r s : State} (hL : Sub 0x20000080000 L) (h : Keeps L r s)
    (c : CtxId) (x2 : Run) :
    Keeps L r (State.writeHome s c x2) := by
  unfold State.writeHome
  try dsimp only
  repeat' first
    | with_reducible assumption | with_reducible apply keepsR_next | with_reducible apply keeps_foldl
    | with_reducible apply keeps_writeVa | exact within hL rfl | intro _

theorem keeps_execDispatchComplete {L : Nat} {r s : State} (hL : Sub 0x2a4800cd2d0 L) (h : Keeps L r s)
    (q : QueueId) (idx : Word) :
    KeepsR L r (execDispatchComplete q idx s) := by
  unfold execDispatchComplete
  try dsimp only
  repeat' first
    | with_reducible assumption | with_reducible apply keepsR_next | with_reducible apply keeps_foldl
    | with_reducible apply keeps_writeHome | with_reducible apply keeps_mmuFail
    | with_reducible apply keeps_updFlight | with_reducible apply keeps_writeJournal
    | with_reducible apply keeps_fail | with_reducible apply keeps_finish
    | with_reducible apply keeps_commitAdaptive | exact within hL rfl | intro _ | split

theorem keeps_execLighteringDone {L : Nat} {r s : State} (hL : Sub 0x3a0800cdad0 L) (h : Keeps L r s)
    (q : QueueId) (idx : Word) (words : List StoreWord) (holds : List HoldWord) :
    KeepsR L r (execLighteringDone q idx words holds s) := by
  unfold execLighteringDone
  try dsimp only
  repeat' first
    | with_reducible assumption | with_reducible apply keepsR_next | with_reducible apply keeps_foldl
    | with_reducible apply keeps_trace | with_reducible apply keeps_releaseUnits
    | with_reducible apply keeps_mmuFail | with_reducible apply keeps_holdWord
    | with_reducible apply keeps_saveVa | with_reducible apply keeps_chargePhase
    | with_reducible apply keeps_settle | with_reducible apply keeps_failQuiet
    | with_reducible apply keeps_makeRoom | with_reducible apply keeps_storeWord
    | with_reducible apply keeps_updFlight | with_reducible apply keeps_report | with_reducible apply keeps_fail
    | exact within hL rfl | intro _ | split

theorem keeps_unpack {L : Nat} {r s : State} (hL : Sub 0x40000 L) (h : Keeps L r s)
    (cmd : QueueId × Word) (x2 : Run) :
    Keeps L r (State.unpack s cmd x2) := by
  unfold State.unpack
  try dsimp only
  repeat' first
    | with_reducible assumption | with_reducible apply keepsR_next | with_reducible apply keeps_foldl
    | with_reducible apply keeps_updQuay | exact within hL rfl | intro _

theorem keeps_execRestoreDone {L : Nat} {r s : State} (hL : Sub 0x2a0800cd2d0 L) (h : Keeps L r s)
    (q : QueueId) (idx : Word) :
    KeepsR L r (execRestoreDone q idx s) := by
  unfold execRestoreDone
  try dsimp only
  repeat' first
    | with_reducible assumption | with_reducible apply keepsR_next | with_reducible apply keeps_foldl
    | with_reducible apply keeps_trace | with_reducible apply keeps_wakeAll | with_reducible apply keeps_mmuFail
    | with_reducible apply keeps_noteBlocked | with_reducible apply keeps_ltrUpdate
    | with_reducible apply keeps_chargePhase | with_reducible apply keeps_unpack
    | with_reducible apply keeps_failQuiet | with_reducible apply keeps_updFlight
    | with_reducible apply keeps_report | with_reducible apply keeps_fail | exact within hL rfl | intro _
    | split

theorem keeps_takeSlot {L : Nat} {r s : State} (hL : Sub 0x1000000c000 L) (h : Keeps L r s) (c : CtxId) :
    Keeps L r (State.takeSlot s c) := by
  unfold State.takeSlot
  try dsimp only
  repeat' first
    | with_reducible assumption | with_reducible apply keepsR_next | with_reducible apply keeps_foldl
    | with_reducible apply keeps_updCtx | with_reducible apply keeps_chargeTransfer | exact within hL rfl
    | intro _ | split | (fail_if_no_progress with_reducible apply keeps_set_flights (within hL rfl))

theorem keeps_execContextResident {L : Nat} {r s : State} (hL : Sub 0x3a0800cd2d0 L) (h : Keeps L r s)
    (c : CtxId) :
    KeepsR L r (execContextResident c s) := by
  unfold execContextResident
  try dsimp only
  repeat' first
    | with_reducible assumption | with_reducible apply keepsR_next | with_reducible apply keeps_foldl
    | with_reducible apply keeps_mmuFail | with_reducible apply keeps_takeSlot | with_reducible apply keeps_fail
    | exact keeps_fetching? (within hL rfl) h _ _ ‹_› | with_reducible apply keeps_fetchingD
    | exact within hL rfl | intro _ | split

theorem keeps_execDeadlineEvaluation {L : Nat} {r s : State} (hL : Sub 0x2a4800cd2d0 L) (h : Keeps L r s)
    (q : QueueId) (idx : Word) :
    KeepsR L r (execDeadlineEvaluation q idx s) := by
  unfold execDeadlineEvaluation
  try dsimp only
  repeat' first
    | with_reducible assumption | with_reducible apply keepsR_next | with_reducible apply keeps_foldl
    | with_reducible apply keeps_settle | with_reducible apply keeps_evaluate | exact within hL rfl | intro _
    | split

theorem keeps_execCycleCheck {L : Nat} {r s : State} (hL : Sub 0x2a4800dd2d0 L) (h : Keeps L r s) :
    KeepsR L r (execCycleCheck s) := by
  unfold execCycleCheck
  try dsimp only
  repeat' first
    | with_reducible assumption | with_reducible apply keepsR_next | with_reducible apply keeps_foldl
    | with_reducible apply keeps_failWait | exact within hL rfl | intro _ | split
    | (fail_if_no_progress with_reducible apply keeps_set_sched (within hL rfl))

theorem keeps_registerCtx {L : Nat} {r s : State} (hL : Sub 0x4000 L) (h : Keeps L r s) (c : CtxId) :
    Keeps L r (State.registerCtx s c) := by
  unfold State.registerCtx
  try dsimp only
  repeat' first
    | with_reducible assumption | with_reducible apply keepsR_next | with_reducible apply keeps_foldl
    | with_reducible apply keeps_updCtx | exact within hL rfl | intro _ | split

theorem keeps_invalidateCtx {L : Nat} {r s : State} (hL : Sub 0x4000 L) (h : Keeps L r s) (c : CtxId) :
    Keeps L r (State.invalidateCtx s c) := by
  unfold State.invalidateCtx
  try dsimp only
  repeat' first
    | with_reducible assumption | with_reducible apply keepsR_next | with_reducible apply keeps_foldl
    | with_reducible apply keeps_updCtx | exact within hL rfl | intro _ | split

theorem keeps_unregisterCtx {L : Nat} {r s : State} (hL : Sub 0x4000 L) (h : Keeps L r s) (c : CtxId) :
    Keeps L r (State.unregisterCtx s c) := by
  unfold State.unregisterCtx
  try dsimp only
  repeat' first
    | with_reducible assumption | with_reducible apply keepsR_next | with_reducible apply keeps_foldl
    | with_reducible apply keeps_updCtx | exact within hL rfl | intro _ | split

theorem keeps_applyCtxCtrl {L : Nat} {r s : State} (hL : Sub 0x22400084210 L) (h : Keeps L r s)
    (c : CtxId) (v : Nat) :
    Keeps L r (State.applyCtxCtrl s c v) := by
  unfold State.applyCtxCtrl
  try dsimp only
  repeat' first
    | with_reducible assumption | with_reducible apply keepsR_next | with_reducible apply keeps_foldl
    | with_reducible apply keeps_registerCtx | with_reducible apply keeps_recordRegWrite
    | with_reducible apply keeps_report | with_reducible apply keeps_updCtx
    | with_reducible apply keeps_unregisterCtx | with_reducible apply keeps_invalidateCtx | exact within hL rfl
    | intro _ | split

theorem keeps_writeCtxCtrl {L : Nat} {r s : State} (hL : Sub 0x22400084210 L) (h : Keeps L r s)
    (c : CtxId) (v : Nat) :
    Keeps L r (State.writeCtxCtrl s c v) := by
  unfold State.writeCtxCtrl
  try dsimp only
  repeat' first
    | with_reducible assumption | with_reducible apply keepsR_next | with_reducible apply keeps_foldl
    | with_reducible apply keeps_applyCtxCtrl | with_reducible apply keeps_replayDrop | exact within hL rfl
    | intro _ | split

theorem keeps_execContextRegister {L : Nat} {r s : State} (hL : Sub 0x22400284298 L) (h : Keeps L r s)
    (c : CtxId) :
    KeepsR L r (execContextRegister c s) := by
  unfold execContextRegister
  try dsimp only
  repeat' first
    | with_reducible assumption | with_reducible apply keepsR_next | with_reducible apply keeps_foldl
    | with_reducible apply keeps_wakeSlack | with_reducible apply keeps_writeCtxCtrl | exact within hL rfl
    | intro _ | split

theorem keeps_execContextInvalidate {L : Nat} {r s : State} (hL : Sub 0x22400284298 L) (h : Keeps L r s)
    (c : CtxId) :
    KeepsR L r (execContextInvalidate c s) := by
  unfold execContextInvalidate
  try dsimp only
  repeat' first
    | with_reducible assumption | with_reducible apply keepsR_next | with_reducible apply keeps_foldl
    | with_reducible apply keeps_wakeSlack | with_reducible apply keeps_writeCtxCtrl | exact within hL rfl
    | intro _ | split

theorem keeps_execContextUnregister {L : Nat} {r s : State} (hL : Sub 0x22400284298 L) (h : Keeps L r s)
    (c : CtxId) :
    KeepsR L r (execContextUnregister c s) := by
  unfold execContextUnregister
  try dsimp only
  repeat' first
    | with_reducible assumption | with_reducible apply keepsR_next | with_reducible apply keeps_foldl
    | with_reducible apply keeps_wakeSlack | with_reducible apply keeps_writeCtxCtrl | exact within hL rfl
    | intro _ | split

theorem keeps_execTableWalkDone {L : Nat} {r s : State} (hL : Sub 0x84000 L) (h : Keeps L r s) (c : CtxId) :
    KeepsR L r (execTableWalkDone c s) := by
  unfold execTableWalkDone
  try dsimp only
  repeat' first
    | with_reducible assumption | with_reducible apply keepsR_next | with_reducible apply keeps_foldl
    | with_reducible apply keeps_zeroPage | with_reducible apply keeps_updCtx | exact within hL rfl | intro _
    | split

theorem keeps_clearAcct {L : Nat} {r s : State} (hL : Sub 0x4000 L) (h : Keeps L r s) (c : CtxId) :
    Keeps L r (State.clearAcct s c) := by
  unfold State.clearAcct
  try dsimp only
  repeat' first
    | with_reducible assumption | with_reducible apply keepsR_next | with_reducible apply keeps_foldl
    | with_reducible apply keeps_updCtx

theorem keeps_execAcctClear {L : Nat} {r s : State} (hL : Sub 0x20000204088 L) (h : Keeps L r s) (c : CtxId) :
    KeepsR L r (execAcctClear c s) := by
  unfold execAcctClear
  try dsimp only
  repeat' first
    | with_reducible assumption | with_reducible apply keepsR_next | with_reducible apply keeps_foldl
    | with_reducible apply keeps_clearAcct | with_reducible apply keeps_wakeSlack | exact within hL rfl
    | intro _ | split

theorem keeps_takeCores {L : Nat} {r s : State} (hL : Sub 0x80088200 L) (h : Keeps L r s)
    (f : Flight) (cores : List DeckId) :
    Keeps L r (State.takeCores s f cores) := by
  unfold State.takeCores
  try dsimp only
  repeat' first
    | with_reducible assumption | with_reducible apply keepsR_next | with_reducible apply keeps_foldl
    | with_reducible apply keeps_startFlight | with_reducible apply keeps_takeAdaptive
    | with_reducible apply keeps_updFlight | exact within hL rfl | intro _ | split
    | (fail_if_no_progress with_reducible apply keeps_set_deckOwner (within hL rfl))

theorem keeps_execDeckPartStart {L : Nat} {r s : State} (hL : Sub 0x2a0800cd2d0 L) (h : Keeps L r s) :
    KeepsR L r (execDeckPartStart s) := by
  unfold execDeckPartStart
  try dsimp only
  repeat' first
    | with_reducible assumption | with_reducible apply keepsR_next | with_reducible apply keeps_foldl
    | with_reducible apply keeps_mmuFail | with_reducible apply keeps_noteBlocked
    | with_reducible apply keeps_haltUpdate | with_reducible apply keeps_ltrUpdate
    | with_reducible apply keeps_takeCores | with_reducible apply keeps_fail
    | with_reducible apply keeps_wakeAll | exact within hL rfl | intro _ | split

theorem keeps_deckStores {L : Nat} (hL : Sub 0x20000080000 L) (c : CtxId) (tasks : List DeckTask) (l : List DeckStore) :
    ∀ {r s : State} (_ : Keeps L r s), Keeps L r (s.deckStores c tasks l).1 := by
  induction l with
  | nil => exact fun h => h
  | cons x xs ih =>
    intro r s h
    unfold State.deckStores
    dsimp only
    repeat' first
      | with_reducible assumption | with_reducible apply ih | with_reducible apply keeps_writeVa
      | exact within hL rfl | split

theorem keeps_countL2 {L : Nat} {r s : State} (hL : Sub 0x2000000000 L) (h : Keeps L r s) :
    Keeps L r (State.countL2 s) := by
  unfold State.countL2
  try dsimp only
  repeat' first
    | with_reducible assumption | with_reducible apply keepsR_next | with_reducible apply keeps_foldl
    | exact within hL rfl | intro _ | split
    | (fail_if_no_progress with_reducible apply keeps_set_faults (within hL rfl))

theorem keeps_execDeckPartEnd {L : Nat} {r s : State} (hL : Sub 0x2a0800cd2d0 L) (h : Keeps L r s)
    (q : QueueId) (idx : Word) (stores : List DeckStore) (words : List (Nat × EccResult)) :
    KeepsR L r (execDeckPartEnd q idx stores words s) := by
  unfold execDeckPartEnd
  try dsimp only
  repeat' first
    | with_reducible assumption | with_reducible apply keepsR_next | with_reducible apply keeps_foldl
    | with_reducible apply keeps_countRepair | with_reducible apply keeps_mmuFail
    | with_reducible apply keeps_failQuiet | with_reducible apply keeps_countL2
    | with_reducible apply keeps_updFlight | with_reducible apply keeps_report | with_reducible apply keeps_fail
    | with_reducible apply keeps_deckStores | exact within hL rfl | intro _ | split
    | (fail_if_no_progress with_reducible apply keeps_set_deckOwner (within hL rfl))

theorem keeps_captureDeck {L : Nat} {r s : State} (hL : Sub 0x40000000 L) (h : Keeps L r s)
    (core : DeckId) (cause : Byte) :
    Keeps L r (State.captureDeck s core cause) := by
  unfold State.captureDeck
  try dsimp only
  repeat' first
    | with_reducible assumption | with_reducible apply keepsR_next | with_reducible apply keeps_foldl
    | exact within hL rfl | intro _ | split
    | (fail_if_no_progress with_reducible apply keeps_set_deckFaults (within hL rfl))

theorem keeps_execDeckTrap {L : Nat} {r s : State} (hL : Sub 0x2a2c00cd2d0 L) (h : Keeps L r s)
    (traps : List TrapSeen) :
    KeepsR L r (execDeckTrap traps s) := by
  unfold execDeckTrap
  try dsimp only
  repeat' first
    | with_reducible assumption | with_reducible apply keepsR_next | with_reducible apply keeps_foldl
    | with_reducible apply keeps_captureDeck | with_reducible apply keeps_failWith
    | with_reducible apply keeps_advanceTo | exact within hL rfl | intro _ | split

theorem keeps_execDeckWatchdog {L : Nat} {r s : State} (hL : Sub 0x2a2c00cd2d0 L) (h : Keeps L r s)
    (q : QueueId) (idx : Word) :
    KeepsR L r (execDeckWatchdog q idx s) := by
  unfold execDeckWatchdog
  try dsimp only
  repeat' first
    | with_reducible assumption | with_reducible apply keepsR_next | with_reducible apply keeps_foldl
    | with_reducible apply keeps_captureDeck | with_reducible apply keeps_failWith
    | with_reducible apply keeps_advanceTo | exact within hL rfl | intro _ | split

theorem keeps_finishIssued {L : Nat} {r s : State} (hL : Sub 0x2a0800cd2d0 L) (h : Keeps L r s)
    (q : QueueId) (idx : Word) (outside : Bool) :
    Keeps L r (State.finishIssued s q idx outside) := by
  unfold State.finishIssued
  try dsimp only
  repeat' first
    | with_reducible assumption | with_reducible apply keepsR_next | with_reducible apply keeps_foldl
    | with_reducible apply keeps_finish | with_reducible apply keeps_fail | exact within hL rfl | intro _
    | split

theorem keeps_execCopy {L : Nat} {r s : State} (hL : Sub 0x2a0800cd2d0 L) (h : Keeps L r s)
    (q : QueueId) (idx : Word) :
    KeepsR L r (execCopy q idx s) := by
  unfold execCopy
  try dsimp only
  repeat' first
    | with_reducible assumption | with_reducible apply keepsR_next | with_reducible apply keeps_foldl
    | with_reducible apply keeps_mmuFail | with_reducible apply keeps_startFlight
    | with_reducible apply keeps_askSource | with_reducible apply keeps_haltUpdate
    | with_reducible apply keeps_onStart | with_reducible apply keeps_ltrUpdate
    | with_reducible apply keeps_fail | exact within hL rfl | intro _ | split

theorem keeps_execCopyDone {L : Nat} {r s : State} (hL : Sub 0x2a0800cd2d0 L) (h : Keeps L r s)
    (q : QueueId) (idx : Word) :
    KeepsR L r (execCopyDone q idx s) := by
  unfold execCopyDone
  try dsimp only
  repeat' first
    | with_reducible assumption | with_reducible apply keepsR_next | with_reducible apply keeps_foldl
    | with_reducible apply keeps_finishIssued | with_reducible apply keeps_writeVa
    | with_reducible apply keeps_fail | exact within hL rfl | intro _ | split

theorem keeps_execPeerCopy {L : Nat} {r s : State} (hL : Sub 0x2a0800cd2d0 L) (h : Keeps L r s)
    (q : QueueId) (idx : Word) :
    KeepsR L r (execPeerCopy q idx s) := by
  unfold execPeerCopy
  try dsimp only
  repeat' first
    | with_reducible assumption | with_reducible apply keepsR_next | with_reducible apply keeps_foldl
    | with_reducible apply keeps_mmuFail | with_reducible apply keeps_startFlight
    | with_reducible apply keeps_askSource | with_reducible apply keeps_haltUpdate
    | with_reducible apply keeps_onStart | with_reducible apply keeps_ltrUpdate | exact within hL rfl | intro _
    | split

theorem keeps_execPeerCopyDone {L : Nat} {r s : State} (hL : Sub 0x2a0800cd2d0 L) (h : Keeps L r s)
    (q : QueueId) (idx : Word) :
    KeepsR L r (execPeerCopyDone q idx s) := by
  unfold execPeerCopyDone
  try dsimp only
  repeat' first
    | with_reducible assumption | with_reducible apply keepsR_next | with_reducible apply keeps_foldl
    | with_reducible apply keeps_finishIssued | with_reducible apply keeps_fail
    | with_reducible apply keeps_outboundWrite | exact within hL rfl | intro _ | split

theorem keeps_acceptAdapt {L : Nat} {r s : State} (hL : Sub 0x4000 L) (h : Keeps L r s)
    (c : CtxId) (va : BitVec 64) (b : List Byte) :
    Keeps L r (State.acceptAdapt s c va b) := by
  unfold State.acceptAdapt
  try dsimp only
  repeat' first
    | with_reducible assumption | with_reducible apply keepsR_next | with_reducible apply keeps_foldl
    | with_reducible apply keeps_updCtx

theorem keeps_acceptTable {L : Nat} {r s : State} (hL : Sub 0x2000000 L) (h : Keeps L r s)
    (i : SctxId) (table : Nat) (b : List Byte) (at_ : Tick) :
    Keeps L r (State.acceptTable s i table b at_) := by
  unfold State.acceptTable
  try dsimp only
  repeat' first
    | with_reducible assumption | with_reducible apply keepsR_next | with_reducible apply keeps_foldl
    | with_reducible apply keeps_updStream

theorem keeps_loadTable {L : Nat} {r s : State} (hL : Sub 0x2a4820cd2d0 L) (h : Keeps L r s)
    (f : Flight) (b : List Byte) :
    Keeps L r (State.loadTable s f b) := by
  unfold State.loadTable
  try dsimp only
  repeat' first
    | with_reducible assumption | with_reducible apply keepsR_next | with_reducible apply keeps_foldl
    | with_reducible apply keeps_recordCommand | with_reducible apply keeps_acceptTable
    | with_reducible apply keeps_acceptAdapt | with_reducible apply keeps_fail
    | with_reducible apply keeps_finish | exact within hL rfl | intro _ | split

theorem keeps_execTableLoad {L : Nat} {r s : State} (hL : Sub 0x2a4820cd2d0 L) (h : Keeps L r s)
    (q : QueueId) (idx : Word) :
    KeepsR L r (execTableLoad q idx s) := by
  unfold execTableLoad
  try dsimp only
  repeat' first
    | with_reducible assumption | with_reducible apply keepsR_next | with_reducible apply keeps_foldl
    | with_reducible apply keeps_mmuFail | with_reducible apply keeps_startFlight
    | with_reducible apply keeps_askSource | with_reducible apply keeps_haltUpdate
    | with_reducible apply keeps_loadTable | with_reducible apply keeps_onStart
    | with_reducible apply keeps_ltrUpdate | with_reducible apply keeps_fail
    | with_reducible apply keeps_recordBare | exact within hL rfl | intro _ | split

theorem keeps_bindStream {L : Nat} {r s : State} (hL : Sub 0x2000000 L) (h : Keeps L r s)
    (i : SctxId) (b : Binding) (recordedAt : Option Tick) :
    Keeps L r (State.bindStream s i b recordedAt) := by
  unfold State.bindStream
  try dsimp only
  repeat' first
    | with_reducible assumption | with_reducible apply keepsR_next | with_reducible apply keeps_foldl
    | with_reducible apply keeps_updStream

theorem keeps_execStreamBind {L : Nat} {r s : State} (hL : Sub 0x2a0820cd2d0 L) (h : Keeps L r s)
    (q : QueueId) (idx : Word) :
    KeepsR L r (execStreamBind q idx s) := by
  unfold execStreamBind
  try dsimp only
  repeat' first
    | with_reducible assumption | with_reducible apply keepsR_next | with_reducible apply keeps_foldl
    | with_reducible apply keeps_startFlight | with_reducible apply keeps_bindStream
    | with_reducible apply keeps_endBinding | with_reducible apply keeps_onStart
    | with_reducible apply keeps_fail | with_reducible apply keeps_finish | exact within hL rfl | intro _
    | split

theorem keeps_sampleFailed {L : Nat} {r s : State} (hL : Sub 0x2a0800cd2d0 L) (h : Keeps L r s)
    (q : QueueId) (reason : BitVec 16) :
    Keeps L r (State.sampleFailed s q reason) := by
  unfold State.sampleFailed
  try dsimp only
  repeat' first
    | with_reducible assumption | with_reducible apply keepsR_next | with_reducible apply keeps_foldl
    | with_reducible apply keeps_setHead | with_reducible apply keeps_fail | exact within hL rfl | intro _
    | split | (fail_if_no_progress with_reducible apply keeps_set_flights (within hL rfl))

theorem keeps_sourceCame {L : Nat} {r s : State} (hL : Sub 0x2a4820cd2d0 L) (h : Keeps L r s)
    (q : QueueId) (idx : Word) :
    Keeps L r (State.sourceCame s q idx) := by
  unfold State.sourceCame
  try dsimp only
  repeat' first
    | with_reducible assumption | with_reducible apply keepsR_next | with_reducible apply keeps_foldl
    | with_reducible apply keeps_loadTable | with_reducible apply keeps_recordBare
    | with_reducible apply keeps_updFlight | with_reducible apply keeps_fail | exact within hL rfl | intro _
    | split

theorem keeps_recordUnread {L : Nat} {r s : State} (hL : Sub 0x22400080210 L) (h : Keeps L r s) (f : Flight) :
    Keeps L r (State.recordUnread s f) := by
  unfold State.recordUnread
  try dsimp only
  repeat' first
    | with_reducible assumption | with_reducible apply keepsR_next | with_reducible apply keeps_foldl
    | with_reducible apply keeps_recordBare | exact within hL rfl | intro _ | split

theorem keeps_execOutboundCompletion {L : Nat} {r s : State} (hL : Sub 0x2a4820cd2f0 L) (h : Keeps L r s)
    (purpose : CplFor) (status : CplStatus) :
    KeepsR L r (execOutboundCompletion purpose status s) := by
  unfold execOutboundCompletion
  try dsimp only
  repeat' first
    | with_reducible assumption | with_reducible apply keepsR_next | with_reducible apply keeps_foldl
    | with_reducible apply keeps_issueAll | with_reducible apply keeps_recordUnread
    | with_reducible apply keeps_sourceCame | with_reducible apply keeps_sampleFailed
    | with_reducible apply keeps_sample | with_reducible apply keeps_sendAer
    | with_reducible apply keeps_updFlight | with_reducible apply keeps_updQueue
    | with_reducible apply keeps_fail | exact within hL rfl | intro _ | split

theorem keeps_execOutboundCompletionTimeout {L : Nat} {r s : State} (hL : Sub 0x2a4800cd2f0 L) (h : Keeps L r s)
    (purpose : CplFor) :
    KeepsR L r (execOutboundCompletionTimeout purpose s) := by
  unfold execOutboundCompletionTimeout
  try dsimp only
  repeat' first
    | with_reducible assumption | with_reducible apply keepsR_next | with_reducible apply keeps_foldl
    | with_reducible apply keeps_issueAll | with_reducible apply keeps_settle
    | with_reducible apply keeps_stopQueue | with_reducible apply keeps_sendAer
    | with_reducible apply keeps_report | with_reducible apply keeps_recordUnread
    | with_reducible apply keeps_fail | exact within hL rfl | intro _ | split

theorem keeps_windowWrite {L : Nat} {r s : State} (hL : Sub 0x22000080210 L) (h : Keeps L r s)
    (agent : Agent) (addr : Nat) (bytes : List Byte) :
    Keeps L r (State.windowWrite s agent addr bytes) := by
  unfold State.windowWrite
  try dsimp only
  repeat' first
    | with_reducible assumption | with_reducible apply keepsR_next | with_reducible apply keeps_foldl
    | with_reducible apply keeps_note | with_reducible apply keeps_updMem_store
    | with_reducible apply keeps_updMem | exact within hL rfl | intro _ | split

theorem keeps_windowAccess {L : Nat} {r s : State} (hL : Sub 0x2f6bb7ffffc L) (h : Keeps L r s)
    (agent : Agent) (addr : Nat) (write : Option (List Byte)) (ecc : EccResult) (command : Option (QueueId × Word)) :
    Keeps L r (State.windowAccess s agent addr write ecc command) := by
  unfold State.windowAccess
  try dsimp only
  repeat' first
    | with_reducible assumption | with_reducible apply keepsR_next | with_reducible apply keeps_foldl
    | with_reducible apply keeps_harbourEcc | with_reducible apply keeps_readPoisoned
    | with_reducible apply keeps_windowWrite | exact within hL rfl | intro _ | split

theorem keeps_lineCheck {L : Nat} {r s : State} (hL : Sub 0x2f6bb7ffffc L) (h : Keeps L r s)
    (addr : Nat) (write : Option (List Byte)) (ecc : EccResult) (command : Option (QueueId × Word)) :
    Keeps L r (State.lineCheck s addr write ecc command) := by
  unfold State.lineCheck
  try dsimp only
  repeat' first
    | with_reducible assumption | with_reducible apply keepsR_next | with_reducible apply keeps_foldl
    | with_reducible apply keeps_harbourEcc | with_reducible apply keeps_readPoisoned | exact within hL rfl
    | intro _ | split

theorem keeps_placeLine {L : Nat} {r s : State} (hL : Sub 0x80000 L) (h : Keeps L r s)
    (addr : Nat) (write : Bool) (victim : Nat) :
    Keeps L r (State.placeLine s addr write victim) := by
  unfold State.placeLine
  try dsimp only
  repeat' first
    | with_reducible assumption | with_reducible apply keepsR_next | with_reducible apply keeps_foldl
    | with_reducible apply keeps_updMem_store | with_reducible apply keeps_updMem | exact within hL rfl
    | intro _ | split | with_reducible apply Memory.wf_store | with_reducible apply Memory.wf_clear
    | with_reducible apply Memory.wf_forget | with_reducible apply Memory.wf_setPoison
    | with_reducible apply Memory.wf_spoil | with_reducible apply Memory.wf_refetch
    | with_reducible apply Memory.wf_dropLines | with_reducible apply Memory.wf_fill

theorem keeps_cacheAccess {L : Nat} {r s : State} (hL : Sub 0x2f6bb7ffffc L) (h : Keeps L r s)
    (agent : Agent) (addr : Nat) (write : Option (List Byte)) (victim : Nat) (ecc : EccResult) (command : Option (QueueId × Word)) :
    Keeps L r (State.cacheAccess s agent addr write victim ecc command) := by
  unfold State.cacheAccess
  try dsimp only
  repeat' first
    | with_reducible assumption | with_reducible apply keepsR_next | with_reducible apply keeps_foldl
    | with_reducible apply keeps_placeLine | with_reducible apply keeps_updMem_store
    | with_reducible apply keeps_updMem | with_reducible apply keeps_lineCheck | exact within hL rfl | intro _
    | split

theorem keeps_execHarbourAccess {L : Nat} {r s : State} (hL : Sub 0x2f6bb7ffffc L) (h : Keeps L r s)
    (agent : Agent) (addr : Nat) (write : Option (List Byte)) (victim : Fin 16) (ecc : EccResult) (command : Option (QueueId × Word)) :
    KeepsR L r (execHarbourAccess agent addr write victim ecc command s) := by
  unfold execHarbourAccess
  try dsimp only
  repeat' first
    | with_reducible assumption | with_reducible apply keepsR_next | with_reducible apply keeps_foldl
    | with_reducible apply keeps_windowAccess | with_reducible apply keeps_outboundWrite
    | with_reducible apply keeps_cacheAccess | exact within hL rfl | intro _ | split

theorem keeps_execHarbourScrub {L : Nat} {r s : State} (hL : Sub 0x2f6bb7ffffc L) (h : Keeps L r s)
    (slice : SliceId) (way : Fin 16) (set : Fin 512) (ecc : EccResult) :
    KeepsR L r (execHarbourScrub slice way set ecc s) := by
  unfold execHarbourScrub
  try dsimp only
  repeat' first
    | with_reducible assumption | with_reducible apply keepsR_next | with_reducible apply keeps_foldl
    | with_reducible apply keeps_harbourEcc | exact within hL rfl | intro _ | split

theorem keeps_execMemoryRequest {L : Nat} {r s : State} (hL : Sub 0x200000 L) (h : Keeps L r s) (req : MemReq) :
    KeepsR L r (execMemoryRequest req s) := by
  unfold execMemoryRequest
  try dsimp only
  repeat' first
    | with_reducible assumption | with_reducible apply keepsR_next | with_reducible apply keeps_foldl
    | with_reducible apply keeps_updChan | exact within hL rfl | intro _ | split
    | (fail_if_no_progress with_reducible apply keeps_set_memctl (within hL rfl))

theorem keeps_retryPhase {L : Nat} {r s : State} (hL : Sub 0x22000280210 L) (h : Keeps L r s)
    (ch : ChanId) (pick : Nat) :
    Keeps L r (State.retryPhase s ch pick) := by
  unfold State.retryPhase
  try dsimp only
  repeat' first
    | with_reducible assumption | with_reducible apply keepsR_next | with_reducible apply keeps_foldl
    | with_reducible apply keeps_startFieldRetrain | with_reducible apply keeps_updChan | exact within hL rfl
    | intro _ | split

theorem keeps_served {L : Nat} {r s : State} (hL : Sub 0x22000280a10 L) (h : Keeps L r s)
    (ch : ChanId) (pick : Nat) :
    Keeps L r (State.served s ch pick) := by
  unfold State.served
  try dsimp only
  repeat' first
    | with_reducible assumption | with_reducible apply keepsR_next | with_reducible apply keeps_foldl
    | with_reducible apply keeps_reportLimited | with_reducible apply keeps_updChan | exact within hL rfl
    | intro _ | split

theorem keeps_burstRead {L : Nat} {r s : State} (hL : Sub 0x2a0802cdad0 L) (h : Keeps L r s)
    (x1 : MemReq) (ecc : EccResult) :
    Keeps L r (State.burstRead s x1 ecc) := by
  unfold State.burstRead
  try dsimp only
  repeat' first
    | with_reducible assumption | with_reducible apply keepsR_next | with_reducible apply keeps_foldl
    | with_reducible apply keeps_memRead | exact within hL rfl | intro _ | split

theorem keeps_execMemoryDataPhase {L : Nat} {r s : State} (hL : Sub 0x2a0802cdad0 L) (h : Keeps L r s)
    (ch : ChanId) (pick : Nat) (phase : DataPhase) :
    KeepsR L r (execMemoryDataPhase ch pick phase s) := by
  unfold execMemoryDataPhase
  try dsimp only
  repeat' first
    | with_reducible assumption | with_reducible apply keepsR_next | with_reducible apply keeps_foldl
    | with_reducible apply keeps_served | with_reducible apply keeps_retryPhase
    | with_reducible apply keeps_burstRead | exact within hL rfl | intro _ | split

theorem keeps_execRefreshWindow {L : Nat} {r s : State} (hL : Sub 0x200200000 L) (h : Keeps L r s)
    (ch : ChanId) (bank : BankId) :
    KeepsR L r (execRefreshWindow ch bank s) := by
  unfold execRefreshWindow
  try dsimp only
  repeat' first
    | with_reducible assumption | with_reducible apply keepsR_next | with_reducible apply keeps_foldl
    | with_reducible apply keeps_advanceTo | with_reducible apply keeps_updChan | exact within hL rfl | intro _
    | split

theorem keeps_execPeriodicRetrain {L : Nat} {r s : State} (hL : Sub 0x22200280210 L) (h : Keeps L r s)
    (ch : ChanId) :
    KeepsR L r (execPeriodicRetrain ch s) := by
  unfold execPeriodicRetrain
  try dsimp only
  repeat' first
    | with_reducible assumption | with_reducible apply keepsR_next | with_reducible apply keeps_foldl
    | with_reducible apply keeps_enterStrict | with_reducible apply keeps_advanceTo
    | with_reducible apply keeps_updChan | exact within hL rfl | intro _ | split

theorem keeps_execPeriodicRetrainEnd {L : Nat} {r s : State} (hL : Sub 0x276bb6fffd8 L) (h : Keeps L r s)
    (ch : ChanId) (found : Bool) (drift : BitVec 8) (points : Vector (Nat × Nat) 8) :
    KeepsR L r (execPeriodicRetrainEnd ch found drift points s) := by
  unfold execPeriodicRetrainEnd
  try dsimp only
  repeat' first
    | with_reducible assumption | with_reducible apply keepsR_next | with_reducible apply keeps_foldl
    | with_reducible apply keeps_leaveStrict | with_reducible apply keeps_startFieldRetrain
    | with_reducible apply keeps_releaseHeld | with_reducible apply keeps_updChan | exact within hL rfl
    | intro _ | split

theorem keeps_execFullFieldRetrainDone {L : Nat} {r s : State} (hL : Sub 0x276bb6ffff8 L) (h : Keeps L r s)
    (ch : ChanId) (ok : Bool) (values : Vector WireTraining 8) :
    KeepsR L r (execFullFieldRetrainDone ch ok values s) := by
  unfold execFullFieldRetrainDone
  try dsimp only
  repeat' first
    | with_reducible assumption | with_reducible apply keepsR_next | with_reducible apply keeps_foldl
    | with_reducible apply keeps_note | with_reducible apply keeps_leaveStrict
    | with_reducible apply keeps_releaseHeld | with_reducible apply keeps_loseDevice
    | with_reducible apply keeps_updChan | exact within hL rfl | intro _ | split

theorem keeps_execPatrolScrub {L : Nat} {r s : State} (hL : Sub 0x2a0802cdad0 L) (h : Keeps L r s)
    (addr : Nat) (result : EccResult) :
    KeepsR L r (execPatrolScrub addr result s) := by
  unfold execPatrolScrub
  try dsimp only
  repeat' first
    | with_reducible assumption | with_reducible apply keepsR_next | with_reducible apply keeps_foldl
    | with_reducible apply keeps_testRead | exact within hL rfl | intro _ | split

theorem keeps_execHotSet {L : Nat} {r s : State} (hL : Sub 0x22000280210 L) (h : Keeps L r s) (reading : Int) :
    KeepsR L r (execHotSet reading s) := by
  unfold execHotSet
  try dsimp only
  repeat' first
    | with_reducible assumption | with_reducible apply keepsR_next | with_reducible apply keeps_foldl
    | with_reducible apply keeps_note | exact within hL rfl | intro _ | split
    | (fail_if_no_progress with_reducible apply keeps_set_memctl (within hL rfl))

theorem keeps_execHotClear {L : Nat} {r s : State} (hL : Sub 0x22000280210 L) (h : Keeps L r s)
    (reading : Int) :
    KeepsR L r (execHotClear reading s) := by
  unfold execHotClear
  try dsimp only
  repeat' first
    | with_reducible assumption | with_reducible apply keepsR_next | with_reducible apply keeps_foldl
    | with_reducible apply keeps_note | exact within hL rfl | intro _ | split
    | (fail_if_no_progress with_reducible apply keeps_set_memctl (within hL rfl))

theorem keeps_execStrictRecoveryExit {L : Nat} {r s : State} (hL : Sub 0x200200000 L) (h : Keeps L r s)
    (ch : ChanId) :
    KeepsR L r (execStrictRecoveryExit ch s) := by
  unfold execStrictRecoveryExit
  try dsimp only
  repeat' first
    | with_reducible assumption | with_reducible apply keepsR_next | with_reducible apply keeps_foldl
    | with_reducible apply keeps_leaveStrict | with_reducible apply keeps_advanceTo | exact within hL rfl
    | intro _ | split

theorem keeps_writeStrict {L : Nat} {r s : State} (hL : Sub 0x22000680210 L) (h : Keeps L r s) (strict : Bool) :
    Keeps L r (State.writeStrict s strict) := by
  unfold State.writeStrict
  try dsimp only
  repeat' first
    | with_reducible assumption | with_reducible apply keepsR_next | with_reducible apply keeps_foldl
    | with_reducible apply keeps_enterStrict | with_reducible apply keeps_leaveStrict
    | with_reducible apply keeps_note | exact within hL rfl | intro _ | split
    | (fail_if_no_progress with_reducible apply keeps_set_memhost (within hL rfl))

theorem keeps_execMemctlStrictWrite {L : Nat} {r s : State} (hL : Sub 0x22000680298 L) (h : Keeps L r s)
    (strict : Bool) :
    KeepsR L r (execMemctlStrictWrite strict s) := by
  unfold execMemctlStrictWrite
  try dsimp only
  repeat' first
    | with_reducible assumption | with_reducible apply keepsR_next | with_reducible apply keeps_foldl
    | with_reducible apply keeps_wakeSlack | with_reducible apply keeps_writeStrict | exact within hL rfl
    | intro _ | split

theorem keeps_writeHidden {L : Nat} {r s : State} (hL : Sub 0x400000 L) (h : Keeps L r s) (hidden : Bool) :
    Keeps L r (State.writeHidden s hidden) := by
  unfold State.writeHidden
  try dsimp only
  repeat' first
    | with_reducible assumption | with_reducible apply keepsR_next | with_reducible apply keeps_foldl
    | exact within hL rfl | intro _ | split
    | (fail_if_no_progress with_reducible apply keeps_set_memhost (within hL rfl))

theorem keeps_execMemctlHiddenWrite {L : Nat} {r s : State} (hL : Sub 0x20000600088 L) (h : Keeps L r s)
    (hidden : Bool) :
    KeepsR L r (execMemctlHiddenWrite hidden s) := by
  unfold execMemctlHiddenWrite
  try dsimp only
  repeat' first
    | with_reducible assumption | with_reducible apply keepsR_next | with_reducible apply keeps_foldl
    | with_reducible apply keeps_wakeSlack | with_reducible apply keeps_writeHidden | exact within hL rfl
    | intro _ | split

end Sys2Proof.Machine
end

