-- ==== Sys2Proof/Laws/Frames.lean ====
section
/-! SUPPORT. What the shared operations leave unchanged, field by field. -/

namespace Sys2Proof.Machine

/-! `report` -/

section
variable (s : State) (e : Event)
@[simp] theorem report_part : (s.report e).part = s.part :=
  (keeps_report (L := 0x22000080210) rfl (.refl _ s) _).same .part rfl
@[simp] theorem report_secure : (s.report e).secure = s.secure :=
  (keeps_report (L := 0x22000080210) rfl (.refl _ s) _).same .secure rfl
@[simp] theorem report_boot : (s.report e).boot = s.boot :=
  (keeps_report (L := 0x22000080210) rfl (.refl _ s) _).same .boot rfl
@[simp] theorem report_env : (s.report e).env = s.env :=
  (keeps_report (L := 0x22000080210) rfl (.refl _ s) _).same .env rfl
@[simp] theorem report_aer : (s.report e).aer = s.aer :=
  (keeps_report (L := 0x22000080210) rfl (.refl _ s) _).same .aer rfl
@[simp] theorem report_hostif : (s.report e).hostif = s.hostif :=
  (keeps_report (L := 0x22000080210) rfl (.refl _ s) _).same .hostif rfl
@[simp] theorem report_ltr : (s.report e).ltr = s.ltr :=
  (keeps_report (L := 0x22000080210) rfl (.refl _ s) _).same .ltr rfl
@[simp] theorem report_ready : (s.report e).ready = s.ready :=
  (keeps_report (L := 0x22000080210) rfl (.refl _ s) _).same .ready rfl
@[simp] theorem report_heart : (s.report e).heart = s.heart :=
  (keeps_report (L := 0x22000080210) rfl (.refl _ s) _).same .heart rfl
@[simp] theorem report_marks : (s.report e).marks = s.marks :=
  (keeps_report (L := 0x22000080210) rfl (.refl _ s) _).same .marks rfl
@[simp] theorem report_queues : (s.report e).queues = s.queues :=
  (keeps_report (L := 0x22000080210) rfl (.refl _ s) _).same .queues rfl
@[simp] theorem report_flags : (s.report e).flags = s.flags :=
  (keeps_report (L := 0x22000080210) rfl (.refl _ s) _).same .flags rfl
@[simp] theorem report_ctxs : (s.report e).ctxs = s.ctxs :=
  (keeps_report (L := 0x22000080210) rfl (.refl _ s) _).same .ctxs rfl
@[simp] theorem report_flights : (s.report e).flights = s.flights :=
  (keeps_report (L := 0x22000080210) rfl (.refl _ s) _).same .flights rfl
@[simp] theorem report_sched : (s.report e).sched = s.sched :=
  (keeps_report (L := 0x22000080210) rfl (.refl _ s) _).same .sched rfl
@[simp] theorem report_manifest : (s.report e).manifest = s.manifest :=
  (keeps_report (L := 0x22000080210) rfl (.refl _ s) _).same .manifest rfl
@[simp] theorem report_quays : (s.report e).quays = s.quays :=
  (keeps_report (L := 0x22000080210) rfl (.refl _ s) _).same .quays rfl
@[simp] theorem report_harbour : (s.report e).harbour = s.harbour :=
  (keeps_report (L := 0x22000080210) rfl (.refl _ s) _).same .harbour rfl
@[simp] theorem report_memctl : (s.report e).memctl = s.memctl :=
  (keeps_report (L := 0x22000080210) rfl (.refl _ s) _).same .memctl rfl
@[simp] theorem report_memhost : (s.report e).memhost = s.memhost :=
  (keeps_report (L := 0x22000080210) rfl (.refl _ s) _).same .memhost rfl
@[simp] theorem report_portErrs : (s.report e).portErrs = s.portErrs :=
  (keeps_report (L := 0x22000080210) rfl (.refl _ s) _).same .portErrs rfl
@[simp] theorem report_ports : (s.report e).ports = s.ports :=
  (keeps_report (L := 0x22000080210) rfl (.refl _ s) _).same .ports rfl
@[simp] theorem report_streams : (s.report e).streams = s.streams :=
  (keeps_report (L := 0x22000080210) rfl (.refl _ s) _).same .streams rfl
@[simp] theorem report_blanks : (s.report e).blanks = s.blanks :=
  (keeps_report (L := 0x22000080210) rfl (.refl _ s) _).same .blanks rfl
@[simp] theorem report_trigs : (s.report e).trigs = s.trigs :=
  (keeps_report (L := 0x22000080210) rfl (.refl _ s) _).same .trigs rfl
@[simp] theorem report_sessions : (s.report e).sessions = s.sessions :=
  (keeps_report (L := 0x22000080210) rfl (.refl _ s) _).same .sessions rfl
@[simp] theorem report_codecs : (s.report e).codecs = s.codecs :=
  (keeps_report (L := 0x22000080210) rfl (.refl _ s) _).same .codecs rfl
@[simp] theorem report_deckFaults : (s.report e).deckFaults = s.deckFaults :=
  (keeps_report (L := 0x22000080210) rfl (.refl _ s) _).same .deckFaults rfl
@[simp] theorem report_deckOwner : (s.report e).deckOwner = s.deckOwner :=
  (keeps_report (L := 0x22000080210) rfl (.refl _ s) _).same .deckOwner rfl
@[simp] theorem report_deckReduced : (s.report e).deckReduced = s.deckReduced :=
  (keeps_report (L := 0x22000080210) rfl (.refl _ s) _).same .deckReduced rfl
@[simp] theorem report_tide : (s.report e).tide = s.tide :=
  (keeps_report (L := 0x22000080210) rfl (.refl _ s) _).same .tide rfl
@[simp] theorem report_recorder : (s.report e).recorder = s.recorder :=
  (keeps_report (L := 0x22000080210) rfl (.refl _ s) _).same .recorder rfl
@[simp] theorem report_power : (s.report e).power = s.power :=
  (keeps_report (L := 0x22000080210) rfl (.refl _ s) _).same .power rfl
@[simp] theorem report_keep : (s.report e).keep = s.keep :=
  (keeps_report (L := 0x22000080210) rfl (.refl _ s) _).same .keep rfl
@[simp] theorem report_lighthouse : (s.report e).lighthouse = s.lighthouse :=
  (keeps_report (L := 0x22000080210) rfl (.refl _ s) _).same .lighthouse rfl
@[simp] theorem report_seeds : (s.report e).seeds = s.seeds :=
  (keeps_report (L := 0x22000080210) rfl (.refl _ s) _).same .seeds rfl
@[simp] theorem report_freeCount : (s.report e).freeCount = s.freeCount :=
  (keeps_report (L := 0x22000080210) rfl (.refl _ s) _).same .freeCount rfl
@[simp] theorem report_pending : (s.report e).pending = s.pending :=
  (keeps_report (L := 0x22000080210) rfl (.refl _ s) _).same .pending rfl
end

/-! `note` -/

section
variable (s : State) (reason : BitVec 16) (sev : Severity) (detail : Nat)
@[simp] theorem note_part : (s.note reason sev detail).part = s.part :=
  (keeps_note (L := 0x22000080210) rfl (.refl _ s) _ _ _).same .part rfl
@[simp] theorem note_secure : (s.note reason sev detail).secure = s.secure :=
  (keeps_note (L := 0x22000080210) rfl (.refl _ s) _ _ _).same .secure rfl
@[simp] theorem note_boot : (s.note reason sev detail).boot = s.boot :=
  (keeps_note (L := 0x22000080210) rfl (.refl _ s) _ _ _).same .boot rfl
@[simp] theorem note_env : (s.note reason sev detail).env = s.env :=
  (keeps_note (L := 0x22000080210) rfl (.refl _ s) _ _ _).same .env rfl
@[simp] theorem note_aer : (s.note reason sev detail).aer = s.aer :=
  (keeps_note (L := 0x22000080210) rfl (.refl _ s) _ _ _).same .aer rfl
@[simp] theorem note_hostif : (s.note reason sev detail).hostif = s.hostif :=
  (keeps_note (L := 0x22000080210) rfl (.refl _ s) _ _ _).same .hostif rfl
@[simp] theorem note_ltr : (s.note reason sev detail).ltr = s.ltr :=
  (keeps_note (L := 0x22000080210) rfl (.refl _ s) _ _ _).same .ltr rfl
@[simp] theorem note_ready : (s.note reason sev detail).ready = s.ready :=
  (keeps_note (L := 0x22000080210) rfl (.refl _ s) _ _ _).same .ready rfl
@[simp] theorem note_heart : (s.note reason sev detail).heart = s.heart :=
  (keeps_note (L := 0x22000080210) rfl (.refl _ s) _ _ _).same .heart rfl
@[simp] theorem note_marks : (s.note reason sev detail).marks = s.marks :=
  (keeps_note (L := 0x22000080210) rfl (.refl _ s) _ _ _).same .marks rfl
@[simp] theorem note_queues : (s.note reason sev detail).queues = s.queues :=
  (keeps_note (L := 0x22000080210) rfl (.refl _ s) _ _ _).same .queues rfl
@[simp] theorem note_flags : (s.note reason sev detail).flags = s.flags :=
  (keeps_note (L := 0x22000080210) rfl (.refl _ s) _ _ _).same .flags rfl
@[simp] theorem note_ctxs : (s.note reason sev detail).ctxs = s.ctxs :=
  (keeps_note (L := 0x22000080210) rfl (.refl _ s) _ _ _).same .ctxs rfl
@[simp] theorem note_flights : (s.note reason sev detail).flights = s.flights :=
  (keeps_note (L := 0x22000080210) rfl (.refl _ s) _ _ _).same .flights rfl
@[simp] theorem note_sched : (s.note reason sev detail).sched = s.sched :=
  (keeps_note (L := 0x22000080210) rfl (.refl _ s) _ _ _).same .sched rfl
@[simp] theorem note_manifest : (s.note reason sev detail).manifest = s.manifest :=
  (keeps_note (L := 0x22000080210) rfl (.refl _ s) _ _ _).same .manifest rfl
@[simp] theorem note_quays : (s.note reason sev detail).quays = s.quays :=
  (keeps_note (L := 0x22000080210) rfl (.refl _ s) _ _ _).same .quays rfl
@[simp] theorem note_harbour : (s.note reason sev detail).harbour = s.harbour :=
  (keeps_note (L := 0x22000080210) rfl (.refl _ s) _ _ _).same .harbour rfl
@[simp] theorem note_memctl : (s.note reason sev detail).memctl = s.memctl :=
  (keeps_note (L := 0x22000080210) rfl (.refl _ s) _ _ _).same .memctl rfl
@[simp] theorem note_memhost : (s.note reason sev detail).memhost = s.memhost :=
  (keeps_note (L := 0x22000080210) rfl (.refl _ s) _ _ _).same .memhost rfl
@[simp] theorem note_portErrs : (s.note reason sev detail).portErrs = s.portErrs :=
  (keeps_note (L := 0x22000080210) rfl (.refl _ s) _ _ _).same .portErrs rfl
@[simp] theorem note_ports : (s.note reason sev detail).ports = s.ports :=
  (keeps_note (L := 0x22000080210) rfl (.refl _ s) _ _ _).same .ports rfl
@[simp] theorem note_streams : (s.note reason sev detail).streams = s.streams :=
  (keeps_note (L := 0x22000080210) rfl (.refl _ s) _ _ _).same .streams rfl
@[simp] theorem note_blanks : (s.note reason sev detail).blanks = s.blanks :=
  (keeps_note (L := 0x22000080210) rfl (.refl _ s) _ _ _).same .blanks rfl
@[simp] theorem note_trigs : (s.note reason sev detail).trigs = s.trigs :=
  (keeps_note (L := 0x22000080210) rfl (.refl _ s) _ _ _).same .trigs rfl
@[simp] theorem note_sessions : (s.note reason sev detail).sessions = s.sessions :=
  (keeps_note (L := 0x22000080210) rfl (.refl _ s) _ _ _).same .sessions rfl
@[simp] theorem note_codecs : (s.note reason sev detail).codecs = s.codecs :=
  (keeps_note (L := 0x22000080210) rfl (.refl _ s) _ _ _).same .codecs rfl
@[simp] theorem note_deckFaults : (s.note reason sev detail).deckFaults = s.deckFaults :=
  (keeps_note (L := 0x22000080210) rfl (.refl _ s) _ _ _).same .deckFaults rfl
@[simp] theorem note_deckOwner : (s.note reason sev detail).deckOwner = s.deckOwner :=
  (keeps_note (L := 0x22000080210) rfl (.refl _ s) _ _ _).same .deckOwner rfl
@[simp] theorem note_deckReduced : (s.note reason sev detail).deckReduced = s.deckReduced :=
  (keeps_note (L := 0x22000080210) rfl (.refl _ s) _ _ _).same .deckReduced rfl
@[simp] theorem note_tide : (s.note reason sev detail).tide = s.tide :=
  (keeps_note (L := 0x22000080210) rfl (.refl _ s) _ _ _).same .tide rfl
@[simp] theorem note_recorder : (s.note reason sev detail).recorder = s.recorder :=
  (keeps_note (L := 0x22000080210) rfl (.refl _ s) _ _ _).same .recorder rfl
@[simp] theorem note_power : (s.note reason sev detail).power = s.power :=
  (keeps_note (L := 0x22000080210) rfl (.refl _ s) _ _ _).same .power rfl
@[simp] theorem note_keep : (s.note reason sev detail).keep = s.keep :=
  (keeps_note (L := 0x22000080210) rfl (.refl _ s) _ _ _).same .keep rfl
@[simp] theorem note_lighthouse : (s.note reason sev detail).lighthouse = s.lighthouse :=
  (keeps_note (L := 0x22000080210) rfl (.refl _ s) _ _ _).same .lighthouse rfl
@[simp] theorem note_seeds : (s.note reason sev detail).seeds = s.seeds :=
  (keeps_note (L := 0x22000080210) rfl (.refl _ s) _ _ _).same .seeds rfl
@[simp] theorem note_freeCount : (s.note reason sev detail).freeCount = s.freeCount :=
  (keeps_note (L := 0x22000080210) rfl (.refl _ s) _ _ _).same .freeCount rfl
@[simp] theorem note_pending : (s.note reason sev detail).pending = s.pending :=
  (keeps_note (L := 0x22000080210) rfl (.refl _ s) _ _ _).same .pending rfl
end

/-! `noteReserved` -/

section
variable (s : State) (n : Nat)
@[simp] theorem noteReserved_part : (s.noteReserved n).part = s.part :=
  (keeps_noteReserved (L := 0x22000080210) rfl (.refl _ s) _).same .part rfl
@[simp] theorem noteReserved_secure : (s.noteReserved n).secure = s.secure :=
  (keeps_noteReserved (L := 0x22000080210) rfl (.refl _ s) _).same .secure rfl
@[simp] theorem noteReserved_boot : (s.noteReserved n).boot = s.boot :=
  (keeps_noteReserved (L := 0x22000080210) rfl (.refl _ s) _).same .boot rfl
@[simp] theorem noteReserved_env : (s.noteReserved n).env = s.env :=
  (keeps_noteReserved (L := 0x22000080210) rfl (.refl _ s) _).same .env rfl
@[simp] theorem noteReserved_aer : (s.noteReserved n).aer = s.aer :=
  (keeps_noteReserved (L := 0x22000080210) rfl (.refl _ s) _).same .aer rfl
@[simp] theorem noteReserved_hostif : (s.noteReserved n).hostif = s.hostif :=
  (keeps_noteReserved (L := 0x22000080210) rfl (.refl _ s) _).same .hostif rfl
@[simp] theorem noteReserved_ltr : (s.noteReserved n).ltr = s.ltr :=
  (keeps_noteReserved (L := 0x22000080210) rfl (.refl _ s) _).same .ltr rfl
@[simp] theorem noteReserved_ready : (s.noteReserved n).ready = s.ready :=
  (keeps_noteReserved (L := 0x22000080210) rfl (.refl _ s) _).same .ready rfl
@[simp] theorem noteReserved_heart : (s.noteReserved n).heart = s.heart :=
  (keeps_noteReserved (L := 0x22000080210) rfl (.refl _ s) _).same .heart rfl
@[simp] theorem noteReserved_marks : (s.noteReserved n).marks = s.marks :=
  (keeps_noteReserved (L := 0x22000080210) rfl (.refl _ s) _).same .marks rfl
@[simp] theorem noteReserved_queues : (s.noteReserved n).queues = s.queues :=
  (keeps_noteReserved (L := 0x22000080210) rfl (.refl _ s) _).same .queues rfl
@[simp] theorem noteReserved_flags : (s.noteReserved n).flags = s.flags :=
  (keeps_noteReserved (L := 0x22000080210) rfl (.refl _ s) _).same .flags rfl
@[simp] theorem noteReserved_ctxs : (s.noteReserved n).ctxs = s.ctxs :=
  (keeps_noteReserved (L := 0x22000080210) rfl (.refl _ s) _).same .ctxs rfl
@[simp] theorem noteReserved_flights : (s.noteReserved n).flights = s.flights :=
  (keeps_noteReserved (L := 0x22000080210) rfl (.refl _ s) _).same .flights rfl
@[simp] theorem noteReserved_sched : (s.noteReserved n).sched = s.sched :=
  (keeps_noteReserved (L := 0x22000080210) rfl (.refl _ s) _).same .sched rfl
@[simp] theorem noteReserved_manifest : (s.noteReserved n).manifest = s.manifest :=
  (keeps_noteReserved (L := 0x22000080210) rfl (.refl _ s) _).same .manifest rfl
@[simp] theorem noteReserved_quays : (s.noteReserved n).quays = s.quays :=
  (keeps_noteReserved (L := 0x22000080210) rfl (.refl _ s) _).same .quays rfl
@[simp] theorem noteReserved_harbour : (s.noteReserved n).harbour = s.harbour :=
  (keeps_noteReserved (L := 0x22000080210) rfl (.refl _ s) _).same .harbour rfl
@[simp] theorem noteReserved_memctl : (s.noteReserved n).memctl = s.memctl :=
  (keeps_noteReserved (L := 0x22000080210) rfl (.refl _ s) _).same .memctl rfl
@[simp] theorem noteReserved_memhost : (s.noteReserved n).memhost = s.memhost :=
  (keeps_noteReserved (L := 0x22000080210) rfl (.refl _ s) _).same .memhost rfl
@[simp] theorem noteReserved_portErrs : (s.noteReserved n).portErrs = s.portErrs :=
  (keeps_noteReserved (L := 0x22000080210) rfl (.refl _ s) _).same .portErrs rfl
@[simp] theorem noteReserved_ports : (s.noteReserved n).ports = s.ports :=
  (keeps_noteReserved (L := 0x22000080210) rfl (.refl _ s) _).same .ports rfl
@[simp] theorem noteReserved_streams : (s.noteReserved n).streams = s.streams :=
  (keeps_noteReserved (L := 0x22000080210) rfl (.refl _ s) _).same .streams rfl
@[simp] theorem noteReserved_blanks : (s.noteReserved n).blanks = s.blanks :=
  (keeps_noteReserved (L := 0x22000080210) rfl (.refl _ s) _).same .blanks rfl
@[simp] theorem noteReserved_trigs : (s.noteReserved n).trigs = s.trigs :=
  (keeps_noteReserved (L := 0x22000080210) rfl (.refl _ s) _).same .trigs rfl
@[simp] theorem noteReserved_sessions : (s.noteReserved n).sessions = s.sessions :=
  (keeps_noteReserved (L := 0x22000080210) rfl (.refl _ s) _).same .sessions rfl
@[simp] theorem noteReserved_codecs : (s.noteReserved n).codecs = s.codecs :=
  (keeps_noteReserved (L := 0x22000080210) rfl (.refl _ s) _).same .codecs rfl
@[simp] theorem noteReserved_deckFaults : (s.noteReserved n).deckFaults = s.deckFaults :=
  (keeps_noteReserved (L := 0x22000080210) rfl (.refl _ s) _).same .deckFaults rfl
@[simp] theorem noteReserved_deckOwner : (s.noteReserved n).deckOwner = s.deckOwner :=
  (keeps_noteReserved (L := 0x22000080210) rfl (.refl _ s) _).same .deckOwner rfl
@[simp] theorem noteReserved_deckReduced : (s.noteReserved n).deckReduced = s.deckReduced :=
  (keeps_noteReserved (L := 0x22000080210) rfl (.refl _ s) _).same .deckReduced rfl
@[simp] theorem noteReserved_tide : (s.noteReserved n).tide = s.tide :=
  (keeps_noteReserved (L := 0x22000080210) rfl (.refl _ s) _).same .tide rfl
@[simp] theorem noteReserved_recorder : (s.noteReserved n).recorder = s.recorder :=
  (keeps_noteReserved (L := 0x22000080210) rfl (.refl _ s) _).same .recorder rfl
@[simp] theorem noteReserved_power : (s.noteReserved n).power = s.power :=
  (keeps_noteReserved (L := 0x22000080210) rfl (.refl _ s) _).same .power rfl
@[simp] theorem noteReserved_keep : (s.noteReserved n).keep = s.keep :=
  (keeps_noteReserved (L := 0x22000080210) rfl (.refl _ s) _).same .keep rfl
@[simp] theorem noteReserved_lighthouse : (s.noteReserved n).lighthouse = s.lighthouse :=
  (keeps_noteReserved (L := 0x22000080210) rfl (.refl _ s) _).same .lighthouse rfl
@[simp] theorem noteReserved_seeds : (s.noteReserved n).seeds = s.seeds :=
  (keeps_noteReserved (L := 0x22000080210) rfl (.refl _ s) _).same .seeds rfl
@[simp] theorem noteReserved_freeCount : (s.noteReserved n).freeCount = s.freeCount :=
  (keeps_noteReserved (L := 0x22000080210) rfl (.refl _ s) _).same .freeCount rfl
@[simp] theorem noteReserved_pending : (s.noteReserved n).pending = s.pending :=
  (keeps_noteReserved (L := 0x22000080210) rfl (.refl _ s) _).same .pending rfl
end

/-! `bootReport` -/

section
variable (s : State) (reason : BitVec 16) (sev : Severity) (detail : Nat)
@[simp] theorem bootReport_part : (s.bootReport reason sev detail).part = s.part :=
  (keeps_bootReport (L := 0x22000080214) rfl (.refl _ s) _ _ _).same .part rfl
@[simp] theorem bootReport_secure : (s.bootReport reason sev detail).secure = s.secure :=
  (keeps_bootReport (L := 0x22000080214) rfl (.refl _ s) _ _ _).same .secure rfl
@[simp] theorem bootReport_env : (s.bootReport reason sev detail).env = s.env :=
  (keeps_bootReport (L := 0x22000080214) rfl (.refl _ s) _ _ _).same .env rfl
@[simp] theorem bootReport_aer : (s.bootReport reason sev detail).aer = s.aer :=
  (keeps_bootReport (L := 0x22000080214) rfl (.refl _ s) _ _ _).same .aer rfl
@[simp] theorem bootReport_hostif : (s.bootReport reason sev detail).hostif = s.hostif :=
  (keeps_bootReport (L := 0x22000080214) rfl (.refl _ s) _ _ _).same .hostif rfl
@[simp] theorem bootReport_ltr : (s.bootReport reason sev detail).ltr = s.ltr :=
  (keeps_bootReport (L := 0x22000080214) rfl (.refl _ s) _ _ _).same .ltr rfl
@[simp] theorem bootReport_ready : (s.bootReport reason sev detail).ready = s.ready :=
  (keeps_bootReport (L := 0x22000080214) rfl (.refl _ s) _ _ _).same .ready rfl
@[simp] theorem bootReport_heart : (s.bootReport reason sev detail).heart = s.heart :=
  (keeps_bootReport (L := 0x22000080214) rfl (.refl _ s) _ _ _).same .heart rfl
@[simp] theorem bootReport_marks : (s.bootReport reason sev detail).marks = s.marks :=
  (keeps_bootReport (L := 0x22000080214) rfl (.refl _ s) _ _ _).same .marks rfl
@[simp] theorem bootReport_queues : (s.bootReport reason sev detail).queues = s.queues :=
  (keeps_bootReport (L := 0x22000080214) rfl (.refl _ s) _ _ _).same .queues rfl
@[simp] theorem bootReport_flags : (s.bootReport reason sev detail).flags = s.flags :=
  (keeps_bootReport (L := 0x22000080214) rfl (.refl _ s) _ _ _).same .flags rfl
@[simp] theorem bootReport_ctxs : (s.bootReport reason sev detail).ctxs = s.ctxs :=
  (keeps_bootReport (L := 0x22000080214) rfl (.refl _ s) _ _ _).same .ctxs rfl
@[simp] theorem bootReport_flights : (s.bootReport reason sev detail).flights = s.flights :=
  (keeps_bootReport (L := 0x22000080214) rfl (.refl _ s) _ _ _).same .flights rfl
@[simp] theorem bootReport_sched : (s.bootReport reason sev detail).sched = s.sched :=
  (keeps_bootReport (L := 0x22000080214) rfl (.refl _ s) _ _ _).same .sched rfl
@[simp] theorem bootReport_manifest : (s.bootReport reason sev detail).manifest = s.manifest :=
  (keeps_bootReport (L := 0x22000080214) rfl (.refl _ s) _ _ _).same .manifest rfl
@[simp] theorem bootReport_quays : (s.bootReport reason sev detail).quays = s.quays :=
  (keeps_bootReport (L := 0x22000080214) rfl (.refl _ s) _ _ _).same .quays rfl
@[simp] theorem bootReport_harbour : (s.bootReport reason sev detail).harbour = s.harbour :=
  (keeps_bootReport (L := 0x22000080214) rfl (.refl _ s) _ _ _).same .harbour rfl
@[simp] theorem bootReport_memctl : (s.bootReport reason sev detail).memctl = s.memctl :=
  (keeps_bootReport (L := 0x22000080214) rfl (.refl _ s) _ _ _).same .memctl rfl
@[simp] theorem bootReport_memhost : (s.bootReport reason sev detail).memhost = s.memhost :=
  (keeps_bootReport (L := 0x22000080214) rfl (.refl _ s) _ _ _).same .memhost rfl
@[simp] theorem bootReport_portErrs : (s.bootReport reason sev detail).portErrs = s.portErrs :=
  (keeps_bootReport (L := 0x22000080214) rfl (.refl _ s) _ _ _).same .portErrs rfl
@[simp] theorem bootReport_ports : (s.bootReport reason sev detail).ports = s.ports :=
  (keeps_bootReport (L := 0x22000080214) rfl (.refl _ s) _ _ _).same .ports rfl
@[simp] theorem bootReport_streams : (s.bootReport reason sev detail).streams = s.streams :=
  (keeps_bootReport (L := 0x22000080214) rfl (.refl _ s) _ _ _).same .streams rfl
@[simp] theorem bootReport_blanks : (s.bootReport reason sev detail).blanks = s.blanks :=
  (keeps_bootReport (L := 0x22000080214) rfl (.refl _ s) _ _ _).same .blanks rfl
@[simp] theorem bootReport_trigs : (s.bootReport reason sev detail).trigs = s.trigs :=
  (keeps_bootReport (L := 0x22000080214) rfl (.refl _ s) _ _ _).same .trigs rfl
@[simp] theorem bootReport_sessions : (s.bootReport reason sev detail).sessions = s.sessions :=
  (keeps_bootReport (L := 0x22000080214) rfl (.refl _ s) _ _ _).same .sessions rfl
@[simp] theorem bootReport_codecs : (s.bootReport reason sev detail).codecs = s.codecs :=
  (keeps_bootReport (L := 0x22000080214) rfl (.refl _ s) _ _ _).same .codecs rfl
@[simp] theorem bootReport_deckFaults : (s.bootReport reason sev detail).deckFaults = s.deckFaults :=
  (keeps_bootReport (L := 0x22000080214) rfl (.refl _ s) _ _ _).same .deckFaults rfl
@[simp] theorem bootReport_deckOwner : (s.bootReport reason sev detail).deckOwner = s.deckOwner :=
  (keeps_bootReport (L := 0x22000080214) rfl (.refl _ s) _ _ _).same .deckOwner rfl
@[simp] theorem bootReport_deckReduced : (s.bootReport reason sev detail).deckReduced = s.deckReduced :=
  (keeps_bootReport (L := 0x22000080214) rfl (.refl _ s) _ _ _).same .deckReduced rfl
@[simp] theorem bootReport_tide : (s.bootReport reason sev detail).tide = s.tide :=
  (keeps_bootReport (L := 0x22000080214) rfl (.refl _ s) _ _ _).same .tide rfl
@[simp] theorem bootReport_recorder : (s.bootReport reason sev detail).recorder = s.recorder :=
  (keeps_bootReport (L := 0x22000080214) rfl (.refl _ s) _ _ _).same .recorder rfl
@[simp] theorem bootReport_power : (s.bootReport reason sev detail).power = s.power :=
  (keeps_bootReport (L := 0x22000080214) rfl (.refl _ s) _ _ _).same .power rfl
@[simp] theorem bootReport_keep : (s.bootReport reason sev detail).keep = s.keep :=
  (keeps_bootReport (L := 0x22000080214) rfl (.refl _ s) _ _ _).same .keep rfl
@[simp] theorem bootReport_lighthouse : (s.bootReport reason sev detail).lighthouse = s.lighthouse :=
  (keeps_bootReport (L := 0x22000080214) rfl (.refl _ s) _ _ _).same .lighthouse rfl
@[simp] theorem bootReport_seeds : (s.bootReport reason sev detail).seeds = s.seeds :=
  (keeps_bootReport (L := 0x22000080214) rfl (.refl _ s) _ _ _).same .seeds rfl
@[simp] theorem bootReport_freeCount : (s.bootReport reason sev detail).freeCount = s.freeCount :=
  (keeps_bootReport (L := 0x22000080214) rfl (.refl _ s) _ _ _).same .freeCount rfl
@[simp] theorem bootReport_pending : (s.bootReport reason sev detail).pending = s.pending :=
  (keeps_bootReport (L := 0x22000080214) rfl (.refl _ s) _ _ _).same .pending rfl
end

/-! `reportLimited` -/

section
variable (s : State) (key : Nat) (e : Event)
@[simp] theorem reportLimited_part : (s.reportLimited key e).part = s.part :=
  (keeps_reportLimited (L := 0x22000080a10) rfl (.refl _ s) _ _).same .part rfl
@[simp] theorem reportLimited_secure : (s.reportLimited key e).secure = s.secure :=
  (keeps_reportLimited (L := 0x22000080a10) rfl (.refl _ s) _ _).same .secure rfl
@[simp] theorem reportLimited_boot : (s.reportLimited key e).boot = s.boot :=
  (keeps_reportLimited (L := 0x22000080a10) rfl (.refl _ s) _ _).same .boot rfl
@[simp] theorem reportLimited_env : (s.reportLimited key e).env = s.env :=
  (keeps_reportLimited (L := 0x22000080a10) rfl (.refl _ s) _ _).same .env rfl
@[simp] theorem reportLimited_aer : (s.reportLimited key e).aer = s.aer :=
  (keeps_reportLimited (L := 0x22000080a10) rfl (.refl _ s) _ _).same .aer rfl
@[simp] theorem reportLimited_hostif : (s.reportLimited key e).hostif = s.hostif :=
  (keeps_reportLimited (L := 0x22000080a10) rfl (.refl _ s) _ _).same .hostif rfl
@[simp] theorem reportLimited_ltr : (s.reportLimited key e).ltr = s.ltr :=
  (keeps_reportLimited (L := 0x22000080a10) rfl (.refl _ s) _ _).same .ltr rfl
@[simp] theorem reportLimited_ready : (s.reportLimited key e).ready = s.ready :=
  (keeps_reportLimited (L := 0x22000080a10) rfl (.refl _ s) _ _).same .ready rfl
@[simp] theorem reportLimited_heart : (s.reportLimited key e).heart = s.heart :=
  (keeps_reportLimited (L := 0x22000080a10) rfl (.refl _ s) _ _).same .heart rfl
@[simp] theorem reportLimited_queues : (s.reportLimited key e).queues = s.queues :=
  (keeps_reportLimited (L := 0x22000080a10) rfl (.refl _ s) _ _).same .queues rfl
@[simp] theorem reportLimited_flags : (s.reportLimited key e).flags = s.flags :=
  (keeps_reportLimited (L := 0x22000080a10) rfl (.refl _ s) _ _).same .flags rfl
@[simp] theorem reportLimited_ctxs : (s.reportLimited key e).ctxs = s.ctxs :=
  (keeps_reportLimited (L := 0x22000080a10) rfl (.refl _ s) _ _).same .ctxs rfl
@[simp] theorem reportLimited_flights : (s.reportLimited key e).flights = s.flights :=
  (keeps_reportLimited (L := 0x22000080a10) rfl (.refl _ s) _ _).same .flights rfl
@[simp] theorem reportLimited_sched : (s.reportLimited key e).sched = s.sched :=
  (keeps_reportLimited (L := 0x22000080a10) rfl (.refl _ s) _ _).same .sched rfl
@[simp] theorem reportLimited_manifest : (s.reportLimited key e).manifest = s.manifest :=
  (keeps_reportLimited (L := 0x22000080a10) rfl (.refl _ s) _ _).same .manifest rfl
@[simp] theorem reportLimited_quays : (s.reportLimited key e).quays = s.quays :=
  (keeps_reportLimited (L := 0x22000080a10) rfl (.refl _ s) _ _).same .quays rfl
@[simp] theorem reportLimited_harbour : (s.reportLimited key e).harbour = s.harbour :=
  (keeps_reportLimited (L := 0x22000080a10) rfl (.refl _ s) _ _).same .harbour rfl
@[simp] theorem reportLimited_memctl : (s.reportLimited key e).memctl = s.memctl :=
  (keeps_reportLimited (L := 0x22000080a10) rfl (.refl _ s) _ _).same .memctl rfl
@[simp] theorem reportLimited_memhost : (s.reportLimited key e).memhost = s.memhost :=
  (keeps_reportLimited (L := 0x22000080a10) rfl (.refl _ s) _ _).same .memhost rfl
@[simp] theorem reportLimited_portErrs : (s.reportLimited key e).portErrs = s.portErrs :=
  (keeps_reportLimited (L := 0x22000080a10) rfl (.refl _ s) _ _).same .portErrs rfl
@[simp] theorem reportLimited_ports : (s.reportLimited key e).ports = s.ports :=
  (keeps_reportLimited (L := 0x22000080a10) rfl (.refl _ s) _ _).same .ports rfl
@[simp] theorem reportLimited_streams : (s.reportLimited key e).streams = s.streams :=
  (keeps_reportLimited (L := 0x22000080a10) rfl (.refl _ s) _ _).same .streams rfl
@[simp] theorem reportLimited_blanks : (s.reportLimited key e).blanks = s.blanks :=
  (keeps_reportLimited (L := 0x22000080a10) rfl (.refl _ s) _ _).same .blanks rfl
@[simp] theorem reportLimited_trigs : (s.reportLimited key e).trigs = s.trigs :=
  (keeps_reportLimited (L := 0x22000080a10) rfl (.refl _ s) _ _).same .trigs rfl
@[simp] theorem reportLimited_sessions : (s.reportLimited key e).sessions = s.sessions :=
  (keeps_reportLimited (L := 0x22000080a10) rfl (.refl _ s) _ _).same .sessions rfl
@[simp] theorem reportLimited_codecs : (s.reportLimited key e).codecs = s.codecs :=
  (keeps_reportLimited (L := 0x22000080a10) rfl (.refl _ s) _ _).same .codecs rfl
@[simp] theorem reportLimited_deckFaults : (s.reportLimited key e).deckFaults = s.deckFaults :=
  (keeps_reportLimited (L := 0x22000080a10) rfl (.refl _ s) _ _).same .deckFaults rfl
@[simp] theorem reportLimited_deckOwner : (s.reportLimited key e).deckOwner = s.deckOwner :=
  (keeps_reportLimited (L := 0x22000080a10) rfl (.refl _ s) _ _).same .deckOwner rfl
@[simp] theorem reportLimited_deckReduced : (s.reportLimited key e).deckReduced = s.deckReduced :=
  (keeps_reportLimited (L := 0x22000080a10) rfl (.refl _ s) _ _).same .deckReduced rfl
@[simp] theorem reportLimited_tide : (s.reportLimited key e).tide = s.tide :=
  (keeps_reportLimited (L := 0x22000080a10) rfl (.refl _ s) _ _).same .tide rfl
@[simp] theorem reportLimited_recorder : (s.reportLimited key e).recorder = s.recorder :=
  (keeps_reportLimited (L := 0x22000080a10) rfl (.refl _ s) _ _).same .recorder rfl
@[simp] theorem reportLimited_power : (s.reportLimited key e).power = s.power :=
  (keeps_reportLimited (L := 0x22000080a10) rfl (.refl _ s) _ _).same .power rfl
@[simp] theorem reportLimited_keep : (s.reportLimited key e).keep = s.keep :=
  (keeps_reportLimited (L := 0x22000080a10) rfl (.refl _ s) _ _).same .keep rfl
@[simp] theorem reportLimited_lighthouse : (s.reportLimited key e).lighthouse = s.lighthouse :=
  (keeps_reportLimited (L := 0x22000080a10) rfl (.refl _ s) _ _).same .lighthouse rfl
@[simp] theorem reportLimited_seeds : (s.reportLimited key e).seeds = s.seeds :=
  (keeps_reportLimited (L := 0x22000080a10) rfl (.refl _ s) _ _).same .seeds rfl
@[simp] theorem reportLimited_freeCount : (s.reportLimited key e).freeCount = s.freeCount :=
  (keeps_reportLimited (L := 0x22000080a10) rfl (.refl _ s) _ _).same .freeCount rfl
@[simp] theorem reportLimited_pending : (s.reportLimited key e).pending = s.pending :=
  (keeps_reportLimited (L := 0x22000080a10) rfl (.refl _ s) _ _).same .pending rfl
end

/-! `trace` -/

section
variable (s : State) (point : Nat) (arg0 : Nat) (arg1 : Nat)
@[simp] theorem trace_part : (s.trace point arg0 arg1).part = s.part :=
  (keeps_trace (L := 0x80200) rfl (.refl _ s) _ _ _).same .part rfl
@[simp] theorem trace_secure : (s.trace point arg0 arg1).secure = s.secure :=
  (keeps_trace (L := 0x80200) rfl (.refl _ s) _ _ _).same .secure rfl
@[simp] theorem trace_boot : (s.trace point arg0 arg1).boot = s.boot :=
  (keeps_trace (L := 0x80200) rfl (.refl _ s) _ _ _).same .boot rfl
@[simp] theorem trace_env : (s.trace point arg0 arg1).env = s.env :=
  (keeps_trace (L := 0x80200) rfl (.refl _ s) _ _ _).same .env rfl
@[simp] theorem trace_cfg : (s.trace point arg0 arg1).cfg = s.cfg :=
  (keeps_trace (L := 0x80200) rfl (.refl _ s) _ _ _).same .cfg rfl
@[simp] theorem trace_aer : (s.trace point arg0 arg1).aer = s.aer :=
  (keeps_trace (L := 0x80200) rfl (.refl _ s) _ _ _).same .aer rfl
@[simp] theorem trace_hostif : (s.trace point arg0 arg1).hostif = s.hostif :=
  (keeps_trace (L := 0x80200) rfl (.refl _ s) _ _ _).same .hostif rfl
@[simp] theorem trace_ltr : (s.trace point arg0 arg1).ltr = s.ltr :=
  (keeps_trace (L := 0x80200) rfl (.refl _ s) _ _ _).same .ltr rfl
@[simp] theorem trace_ready : (s.trace point arg0 arg1).ready = s.ready :=
  (keeps_trace (L := 0x80200) rfl (.refl _ s) _ _ _).same .ready rfl
@[simp] theorem trace_heart : (s.trace point arg0 arg1).heart = s.heart :=
  (keeps_trace (L := 0x80200) rfl (.refl _ s) _ _ _).same .heart rfl
@[simp] theorem trace_marks : (s.trace point arg0 arg1).marks = s.marks :=
  (keeps_trace (L := 0x80200) rfl (.refl _ s) _ _ _).same .marks rfl
@[simp] theorem trace_queues : (s.trace point arg0 arg1).queues = s.queues :=
  (keeps_trace (L := 0x80200) rfl (.refl _ s) _ _ _).same .queues rfl
@[simp] theorem trace_flags : (s.trace point arg0 arg1).flags = s.flags :=
  (keeps_trace (L := 0x80200) rfl (.refl _ s) _ _ _).same .flags rfl
@[simp] theorem trace_ctxs : (s.trace point arg0 arg1).ctxs = s.ctxs :=
  (keeps_trace (L := 0x80200) rfl (.refl _ s) _ _ _).same .ctxs rfl
@[simp] theorem trace_flights : (s.trace point arg0 arg1).flights = s.flights :=
  (keeps_trace (L := 0x80200) rfl (.refl _ s) _ _ _).same .flights rfl
@[simp] theorem trace_sched : (s.trace point arg0 arg1).sched = s.sched :=
  (keeps_trace (L := 0x80200) rfl (.refl _ s) _ _ _).same .sched rfl
@[simp] theorem trace_manifest : (s.trace point arg0 arg1).manifest = s.manifest :=
  (keeps_trace (L := 0x80200) rfl (.refl _ s) _ _ _).same .manifest rfl
@[simp] theorem trace_quays : (s.trace point arg0 arg1).quays = s.quays :=
  (keeps_trace (L := 0x80200) rfl (.refl _ s) _ _ _).same .quays rfl
@[simp] theorem trace_harbour : (s.trace point arg0 arg1).harbour = s.harbour :=
  (keeps_trace (L := 0x80200) rfl (.refl _ s) _ _ _).same .harbour rfl
@[simp] theorem trace_memctl : (s.trace point arg0 arg1).memctl = s.memctl :=
  (keeps_trace (L := 0x80200) rfl (.refl _ s) _ _ _).same .memctl rfl
@[simp] theorem trace_memhost : (s.trace point arg0 arg1).memhost = s.memhost :=
  (keeps_trace (L := 0x80200) rfl (.refl _ s) _ _ _).same .memhost rfl
@[simp] theorem trace_portErrs : (s.trace point arg0 arg1).portErrs = s.portErrs :=
  (keeps_trace (L := 0x80200) rfl (.refl _ s) _ _ _).same .portErrs rfl
@[simp] theorem trace_ports : (s.trace point arg0 arg1).ports = s.ports :=
  (keeps_trace (L := 0x80200) rfl (.refl _ s) _ _ _).same .ports rfl
@[simp] theorem trace_streams : (s.trace point arg0 arg1).streams = s.streams :=
  (keeps_trace (L := 0x80200) rfl (.refl _ s) _ _ _).same .streams rfl
@[simp] theorem trace_blanks : (s.trace point arg0 arg1).blanks = s.blanks :=
  (keeps_trace (L := 0x80200) rfl (.refl _ s) _ _ _).same .blanks rfl
@[simp] theorem trace_trigs : (s.trace point arg0 arg1).trigs = s.trigs :=
  (keeps_trace (L := 0x80200) rfl (.refl _ s) _ _ _).same .trigs rfl
@[simp] theorem trace_sessions : (s.trace point arg0 arg1).sessions = s.sessions :=
  (keeps_trace (L := 0x80200) rfl (.refl _ s) _ _ _).same .sessions rfl
@[simp] theorem trace_codecs : (s.trace point arg0 arg1).codecs = s.codecs :=
  (keeps_trace (L := 0x80200) rfl (.refl _ s) _ _ _).same .codecs rfl
@[simp] theorem trace_deckFaults : (s.trace point arg0 arg1).deckFaults = s.deckFaults :=
  (keeps_trace (L := 0x80200) rfl (.refl _ s) _ _ _).same .deckFaults rfl
@[simp] theorem trace_deckOwner : (s.trace point arg0 arg1).deckOwner = s.deckOwner :=
  (keeps_trace (L := 0x80200) rfl (.refl _ s) _ _ _).same .deckOwner rfl
@[simp] theorem trace_deckReduced : (s.trace point arg0 arg1).deckReduced = s.deckReduced :=
  (keeps_trace (L := 0x80200) rfl (.refl _ s) _ _ _).same .deckReduced rfl
@[simp] theorem trace_tide : (s.trace point arg0 arg1).tide = s.tide :=
  (keeps_trace (L := 0x80200) rfl (.refl _ s) _ _ _).same .tide rfl
@[simp] theorem trace_recorder : (s.trace point arg0 arg1).recorder = s.recorder :=
  (keeps_trace (L := 0x80200) rfl (.refl _ s) _ _ _).same .recorder rfl
@[simp] theorem trace_power : (s.trace point arg0 arg1).power = s.power :=
  (keeps_trace (L := 0x80200) rfl (.refl _ s) _ _ _).same .power rfl
@[simp] theorem trace_keep : (s.trace point arg0 arg1).keep = s.keep :=
  (keeps_trace (L := 0x80200) rfl (.refl _ s) _ _ _).same .keep rfl
@[simp] theorem trace_faults : (s.trace point arg0 arg1).faults = s.faults :=
  (keeps_trace (L := 0x80200) rfl (.refl _ s) _ _ _).same .faults rfl
@[simp] theorem trace_lighthouse : (s.trace point arg0 arg1).lighthouse = s.lighthouse :=
  (keeps_trace (L := 0x80200) rfl (.refl _ s) _ _ _).same .lighthouse rfl
@[simp] theorem trace_seeds : (s.trace point arg0 arg1).seeds = s.seeds :=
  (keeps_trace (L := 0x80200) rfl (.refl _ s) _ _ _).same .seeds rfl
@[simp] theorem trace_freeCount : (s.trace point arg0 arg1).freeCount = s.freeCount :=
  (keeps_trace (L := 0x80200) rfl (.refl _ s) _ _ _).same .freeCount rfl
@[simp] theorem trace_outbox : (s.trace point arg0 arg1).outbox = s.outbox :=
  (keeps_trace (L := 0x80200) rfl (.refl _ s) _ _ _).same .outbox rfl
@[simp] theorem trace_pending : (s.trace point arg0 arg1).pending = s.pending :=
  (keeps_trace (L := 0x80200) rfl (.refl _ s) _ _ _).same .pending rfl
end

/-! `sendMsix` -/

section
variable (s : State) (v : Nat)
@[simp] theorem sendMsix_part : (s.sendMsix v).part = s.part :=
  (keeps_sendMsix (L := 0x20000000010) rfl (.refl _ s) _).same .part rfl
@[simp] theorem sendMsix_secure : (s.sendMsix v).secure = s.secure :=
  (keeps_sendMsix (L := 0x20000000010) rfl (.refl _ s) _).same .secure rfl
@[simp] theorem sendMsix_boot : (s.sendMsix v).boot = s.boot :=
  (keeps_sendMsix (L := 0x20000000010) rfl (.refl _ s) _).same .boot rfl
@[simp] theorem sendMsix_env : (s.sendMsix v).env = s.env :=
  (keeps_sendMsix (L := 0x20000000010) rfl (.refl _ s) _).same .env rfl
@[simp] theorem sendMsix_aer : (s.sendMsix v).aer = s.aer :=
  (keeps_sendMsix (L := 0x20000000010) rfl (.refl _ s) _).same .aer rfl
@[simp] theorem sendMsix_hostif : (s.sendMsix v).hostif = s.hostif :=
  (keeps_sendMsix (L := 0x20000000010) rfl (.refl _ s) _).same .hostif rfl
@[simp] theorem sendMsix_ltr : (s.sendMsix v).ltr = s.ltr :=
  (keeps_sendMsix (L := 0x20000000010) rfl (.refl _ s) _).same .ltr rfl
@[simp] theorem sendMsix_ready : (s.sendMsix v).ready = s.ready :=
  (keeps_sendMsix (L := 0x20000000010) rfl (.refl _ s) _).same .ready rfl
@[simp] theorem sendMsix_fwif : (s.sendMsix v).fwif = s.fwif :=
  (keeps_sendMsix (L := 0x20000000010) rfl (.refl _ s) _).same .fwif rfl
@[simp] theorem sendMsix_heart : (s.sendMsix v).heart = s.heart :=
  (keeps_sendMsix (L := 0x20000000010) rfl (.refl _ s) _).same .heart rfl
@[simp] theorem sendMsix_marks : (s.sendMsix v).marks = s.marks :=
  (keeps_sendMsix (L := 0x20000000010) rfl (.refl _ s) _).same .marks rfl
@[simp] theorem sendMsix_queues : (s.sendMsix v).queues = s.queues :=
  (keeps_sendMsix (L := 0x20000000010) rfl (.refl _ s) _).same .queues rfl
@[simp] theorem sendMsix_flags : (s.sendMsix v).flags = s.flags :=
  (keeps_sendMsix (L := 0x20000000010) rfl (.refl _ s) _).same .flags rfl
@[simp] theorem sendMsix_ctxs : (s.sendMsix v).ctxs = s.ctxs :=
  (keeps_sendMsix (L := 0x20000000010) rfl (.refl _ s) _).same .ctxs rfl
@[simp] theorem sendMsix_flights : (s.sendMsix v).flights = s.flights :=
  (keeps_sendMsix (L := 0x20000000010) rfl (.refl _ s) _).same .flights rfl
@[simp] theorem sendMsix_sched : (s.sendMsix v).sched = s.sched :=
  (keeps_sendMsix (L := 0x20000000010) rfl (.refl _ s) _).same .sched rfl
@[simp] theorem sendMsix_manifest : (s.sendMsix v).manifest = s.manifest :=
  (keeps_sendMsix (L := 0x20000000010) rfl (.refl _ s) _).same .manifest rfl
@[simp] theorem sendMsix_quays : (s.sendMsix v).quays = s.quays :=
  (keeps_sendMsix (L := 0x20000000010) rfl (.refl _ s) _).same .quays rfl
@[simp] theorem sendMsix_mem : (s.sendMsix v).mem = s.mem :=
  (keeps_sendMsix (L := 0x20000000010) rfl (.refl _ s) _).same .mem rfl
@[simp] theorem sendMsix_harbour : (s.sendMsix v).harbour = s.harbour :=
  (keeps_sendMsix (L := 0x20000000010) rfl (.refl _ s) _).same .harbour rfl
@[simp] theorem sendMsix_memctl : (s.sendMsix v).memctl = s.memctl :=
  (keeps_sendMsix (L := 0x20000000010) rfl (.refl _ s) _).same .memctl rfl
@[simp] theorem sendMsix_memhost : (s.sendMsix v).memhost = s.memhost :=
  (keeps_sendMsix (L := 0x20000000010) rfl (.refl _ s) _).same .memhost rfl
@[simp] theorem sendMsix_portErrs : (s.sendMsix v).portErrs = s.portErrs :=
  (keeps_sendMsix (L := 0x20000000010) rfl (.refl _ s) _).same .portErrs rfl
@[simp] theorem sendMsix_ports : (s.sendMsix v).ports = s.ports :=
  (keeps_sendMsix (L := 0x20000000010) rfl (.refl _ s) _).same .ports rfl
@[simp] theorem sendMsix_streams : (s.sendMsix v).streams = s.streams :=
  (keeps_sendMsix (L := 0x20000000010) rfl (.refl _ s) _).same .streams rfl
@[simp] theorem sendMsix_blanks : (s.sendMsix v).blanks = s.blanks :=
  (keeps_sendMsix (L := 0x20000000010) rfl (.refl _ s) _).same .blanks rfl
@[simp] theorem sendMsix_trigs : (s.sendMsix v).trigs = s.trigs :=
  (keeps_sendMsix (L := 0x20000000010) rfl (.refl _ s) _).same .trigs rfl
@[simp] theorem sendMsix_sessions : (s.sendMsix v).sessions = s.sessions :=
  (keeps_sendMsix (L := 0x20000000010) rfl (.refl _ s) _).same .sessions rfl
@[simp] theorem sendMsix_codecs : (s.sendMsix v).codecs = s.codecs :=
  (keeps_sendMsix (L := 0x20000000010) rfl (.refl _ s) _).same .codecs rfl
@[simp] theorem sendMsix_deckFaults : (s.sendMsix v).deckFaults = s.deckFaults :=
  (keeps_sendMsix (L := 0x20000000010) rfl (.refl _ s) _).same .deckFaults rfl
@[simp] theorem sendMsix_deckOwner : (s.sendMsix v).deckOwner = s.deckOwner :=
  (keeps_sendMsix (L := 0x20000000010) rfl (.refl _ s) _).same .deckOwner rfl
@[simp] theorem sendMsix_deckReduced : (s.sendMsix v).deckReduced = s.deckReduced :=
  (keeps_sendMsix (L := 0x20000000010) rfl (.refl _ s) _).same .deckReduced rfl
@[simp] theorem sendMsix_tide : (s.sendMsix v).tide = s.tide :=
  (keeps_sendMsix (L := 0x20000000010) rfl (.refl _ s) _).same .tide rfl
@[simp] theorem sendMsix_recorder : (s.sendMsix v).recorder = s.recorder :=
  (keeps_sendMsix (L := 0x20000000010) rfl (.refl _ s) _).same .recorder rfl
@[simp] theorem sendMsix_power : (s.sendMsix v).power = s.power :=
  (keeps_sendMsix (L := 0x20000000010) rfl (.refl _ s) _).same .power rfl
@[simp] theorem sendMsix_keep : (s.sendMsix v).keep = s.keep :=
  (keeps_sendMsix (L := 0x20000000010) rfl (.refl _ s) _).same .keep rfl
@[simp] theorem sendMsix_faults : (s.sendMsix v).faults = s.faults :=
  (keeps_sendMsix (L := 0x20000000010) rfl (.refl _ s) _).same .faults rfl
@[simp] theorem sendMsix_lighthouse : (s.sendMsix v).lighthouse = s.lighthouse :=
  (keeps_sendMsix (L := 0x20000000010) rfl (.refl _ s) _).same .lighthouse rfl
@[simp] theorem sendMsix_seeds : (s.sendMsix v).seeds = s.seeds :=
  (keeps_sendMsix (L := 0x20000000010) rfl (.refl _ s) _).same .seeds rfl
@[simp] theorem sendMsix_freeCount : (s.sendMsix v).freeCount = s.freeCount :=
  (keeps_sendMsix (L := 0x20000000010) rfl (.refl _ s) _).same .freeCount rfl
@[simp] theorem sendMsix_pending : (s.sendMsix v).pending = s.pending :=
  (keeps_sendMsix (L := 0x20000000010) rfl (.refl _ s) _).same .pending rfl
end

/-! `ltrUpdate` -/

section
variable (s : State) 
@[simp] theorem ltrUpdate_part : (s.ltrUpdate).part = s.part :=
  (keeps_ltrUpdate (L := 0x20000000080) rfl (.refl _ s)).same .part rfl
@[simp] theorem ltrUpdate_secure : (s.ltrUpdate).secure = s.secure :=
  (keeps_ltrUpdate (L := 0x20000000080) rfl (.refl _ s)).same .secure rfl
@[simp] theorem ltrUpdate_boot : (s.ltrUpdate).boot = s.boot :=
  (keeps_ltrUpdate (L := 0x20000000080) rfl (.refl _ s)).same .boot rfl
@[simp] theorem ltrUpdate_env : (s.ltrUpdate).env = s.env :=
  (keeps_ltrUpdate (L := 0x20000000080) rfl (.refl _ s)).same .env rfl
@[simp] theorem ltrUpdate_cfg : (s.ltrUpdate).cfg = s.cfg :=
  (keeps_ltrUpdate (L := 0x20000000080) rfl (.refl _ s)).same .cfg rfl
@[simp] theorem ltrUpdate_aer : (s.ltrUpdate).aer = s.aer :=
  (keeps_ltrUpdate (L := 0x20000000080) rfl (.refl _ s)).same .aer rfl
@[simp] theorem ltrUpdate_hostif : (s.ltrUpdate).hostif = s.hostif :=
  (keeps_ltrUpdate (L := 0x20000000080) rfl (.refl _ s)).same .hostif rfl
@[simp] theorem ltrUpdate_ready : (s.ltrUpdate).ready = s.ready :=
  (keeps_ltrUpdate (L := 0x20000000080) rfl (.refl _ s)).same .ready rfl
@[simp] theorem ltrUpdate_fwif : (s.ltrUpdate).fwif = s.fwif :=
  (keeps_ltrUpdate (L := 0x20000000080) rfl (.refl _ s)).same .fwif rfl
@[simp] theorem ltrUpdate_heart : (s.ltrUpdate).heart = s.heart :=
  (keeps_ltrUpdate (L := 0x20000000080) rfl (.refl _ s)).same .heart rfl
@[simp] theorem ltrUpdate_marks : (s.ltrUpdate).marks = s.marks :=
  (keeps_ltrUpdate (L := 0x20000000080) rfl (.refl _ s)).same .marks rfl
@[simp] theorem ltrUpdate_queues : (s.ltrUpdate).queues = s.queues :=
  (keeps_ltrUpdate (L := 0x20000000080) rfl (.refl _ s)).same .queues rfl
@[simp] theorem ltrUpdate_flags : (s.ltrUpdate).flags = s.flags :=
  (keeps_ltrUpdate (L := 0x20000000080) rfl (.refl _ s)).same .flags rfl
@[simp] theorem ltrUpdate_ctxs : (s.ltrUpdate).ctxs = s.ctxs :=
  (keeps_ltrUpdate (L := 0x20000000080) rfl (.refl _ s)).same .ctxs rfl
@[simp] theorem ltrUpdate_flights : (s.ltrUpdate).flights = s.flights :=
  (keeps_ltrUpdate (L := 0x20000000080) rfl (.refl _ s)).same .flights rfl
@[simp] theorem ltrUpdate_sched : (s.ltrUpdate).sched = s.sched :=
  (keeps_ltrUpdate (L := 0x20000000080) rfl (.refl _ s)).same .sched rfl
@[simp] theorem ltrUpdate_manifest : (s.ltrUpdate).manifest = s.manifest :=
  (keeps_ltrUpdate (L := 0x20000000080) rfl (.refl _ s)).same .manifest rfl
@[simp] theorem ltrUpdate_quays : (s.ltrUpdate).quays = s.quays :=
  (keeps_ltrUpdate (L := 0x20000000080) rfl (.refl _ s)).same .quays rfl
@[simp] theorem ltrUpdate_mem : (s.ltrUpdate).mem = s.mem :=
  (keeps_ltrUpdate (L := 0x20000000080) rfl (.refl _ s)).same .mem rfl
@[simp] theorem ltrUpdate_harbour : (s.ltrUpdate).harbour = s.harbour :=
  (keeps_ltrUpdate (L := 0x20000000080) rfl (.refl _ s)).same .harbour rfl
@[simp] theorem ltrUpdate_memctl : (s.ltrUpdate).memctl = s.memctl :=
  (keeps_ltrUpdate (L := 0x20000000080) rfl (.refl _ s)).same .memctl rfl
@[simp] theorem ltrUpdate_memhost : (s.ltrUpdate).memhost = s.memhost :=
  (keeps_ltrUpdate (L := 0x20000000080) rfl (.refl _ s)).same .memhost rfl
@[simp] theorem ltrUpdate_portErrs : (s.ltrUpdate).portErrs = s.portErrs :=
  (keeps_ltrUpdate (L := 0x20000000080) rfl (.refl _ s)).same .portErrs rfl
@[simp] theorem ltrUpdate_ports : (s.ltrUpdate).ports = s.ports :=
  (keeps_ltrUpdate (L := 0x20000000080) rfl (.refl _ s)).same .ports rfl
@[simp] theorem ltrUpdate_streams : (s.ltrUpdate).streams = s.streams :=
  (keeps_ltrUpdate (L := 0x20000000080) rfl (.refl _ s)).same .streams rfl
@[simp] theorem ltrUpdate_blanks : (s.ltrUpdate).blanks = s.blanks :=
  (keeps_ltrUpdate (L := 0x20000000080) rfl (.refl _ s)).same .blanks rfl
@[simp] theorem ltrUpdate_trigs : (s.ltrUpdate).trigs = s.trigs :=
  (keeps_ltrUpdate (L := 0x20000000080) rfl (.refl _ s)).same .trigs rfl
@[simp] theorem ltrUpdate_sessions : (s.ltrUpdate).sessions = s.sessions :=
  (keeps_ltrUpdate (L := 0x20000000080) rfl (.refl _ s)).same .sessions rfl
@[simp] theorem ltrUpdate_codecs : (s.ltrUpdate).codecs = s.codecs :=
  (keeps_ltrUpdate (L := 0x20000000080) rfl (.refl _ s)).same .codecs rfl
@[simp] theorem ltrUpdate_deckFaults : (s.ltrUpdate).deckFaults = s.deckFaults :=
  (keeps_ltrUpdate (L := 0x20000000080) rfl (.refl _ s)).same .deckFaults rfl
@[simp] theorem ltrUpdate_deckOwner : (s.ltrUpdate).deckOwner = s.deckOwner :=
  (keeps_ltrUpdate (L := 0x20000000080) rfl (.refl _ s)).same .deckOwner rfl
@[simp] theorem ltrUpdate_deckReduced : (s.ltrUpdate).deckReduced = s.deckReduced :=
  (keeps_ltrUpdate (L := 0x20000000080) rfl (.refl _ s)).same .deckReduced rfl
@[simp] theorem ltrUpdate_tide : (s.ltrUpdate).tide = s.tide :=
  (keeps_ltrUpdate (L := 0x20000000080) rfl (.refl _ s)).same .tide rfl
@[simp] theorem ltrUpdate_recorder : (s.ltrUpdate).recorder = s.recorder :=
  (keeps_ltrUpdate (L := 0x20000000080) rfl (.refl _ s)).same .recorder rfl
@[simp] theorem ltrUpdate_power : (s.ltrUpdate).power = s.power :=
  (keeps_ltrUpdate (L := 0x20000000080) rfl (.refl _ s)).same .power rfl
@[simp] theorem ltrUpdate_keep : (s.ltrUpdate).keep = s.keep :=
  (keeps_ltrUpdate (L := 0x20000000080) rfl (.refl _ s)).same .keep rfl
@[simp] theorem ltrUpdate_faults : (s.ltrUpdate).faults = s.faults :=
  (keeps_ltrUpdate (L := 0x20000000080) rfl (.refl _ s)).same .faults rfl
@[simp] theorem ltrUpdate_lighthouse : (s.ltrUpdate).lighthouse = s.lighthouse :=
  (keeps_ltrUpdate (L := 0x20000000080) rfl (.refl _ s)).same .lighthouse rfl
@[simp] theorem ltrUpdate_seeds : (s.ltrUpdate).seeds = s.seeds :=
  (keeps_ltrUpdate (L := 0x20000000080) rfl (.refl _ s)).same .seeds rfl
@[simp] theorem ltrUpdate_freeCount : (s.ltrUpdate).freeCount = s.freeCount :=
  (keeps_ltrUpdate (L := 0x20000000080) rfl (.refl _ s)).same .freeCount rfl
@[simp] theorem ltrUpdate_pending : (s.ltrUpdate).pending = s.pending :=
  (keeps_ltrUpdate (L := 0x20000000080) rfl (.refl _ s)).same .pending rfl
end

/-! `haltUpdate` -/

section
variable (s : State) 
@[simp] theorem haltUpdate_part : (s.haltUpdate).part = s.part :=
  (keeps_haltUpdate (L := 0x40) rfl (.refl _ s)).same .part rfl
@[simp] theorem haltUpdate_secure : (s.haltUpdate).secure = s.secure :=
  (keeps_haltUpdate (L := 0x40) rfl (.refl _ s)).same .secure rfl
@[simp] theorem haltUpdate_boot : (s.haltUpdate).boot = s.boot :=
  (keeps_haltUpdate (L := 0x40) rfl (.refl _ s)).same .boot rfl
@[simp] theorem haltUpdate_env : (s.haltUpdate).env = s.env :=
  (keeps_haltUpdate (L := 0x40) rfl (.refl _ s)).same .env rfl
@[simp] theorem haltUpdate_cfg : (s.haltUpdate).cfg = s.cfg :=
  (keeps_haltUpdate (L := 0x40) rfl (.refl _ s)).same .cfg rfl
@[simp] theorem haltUpdate_aer : (s.haltUpdate).aer = s.aer :=
  (keeps_haltUpdate (L := 0x40) rfl (.refl _ s)).same .aer rfl
@[simp] theorem haltUpdate_ltr : (s.haltUpdate).ltr = s.ltr :=
  (keeps_haltUpdate (L := 0x40) rfl (.refl _ s)).same .ltr rfl
@[simp] theorem haltUpdate_ready : (s.haltUpdate).ready = s.ready :=
  (keeps_haltUpdate (L := 0x40) rfl (.refl _ s)).same .ready rfl
@[simp] theorem haltUpdate_fwif : (s.haltUpdate).fwif = s.fwif :=
  (keeps_haltUpdate (L := 0x40) rfl (.refl _ s)).same .fwif rfl
@[simp] theorem haltUpdate_heart : (s.haltUpdate).heart = s.heart :=
  (keeps_haltUpdate (L := 0x40) rfl (.refl _ s)).same .heart rfl
@[simp] theorem haltUpdate_marks : (s.haltUpdate).marks = s.marks :=
  (keeps_haltUpdate (L := 0x40) rfl (.refl _ s)).same .marks rfl
@[simp] theorem haltUpdate_queues : (s.haltUpdate).queues = s.queues :=
  (keeps_haltUpdate (L := 0x40) rfl (.refl _ s)).same .queues rfl
@[simp] theorem haltUpdate_flags : (s.haltUpdate).flags = s.flags :=
  (keeps_haltUpdate (L := 0x40) rfl (.refl _ s)).same .flags rfl
@[simp] theorem haltUpdate_ctxs : (s.haltUpdate).ctxs = s.ctxs :=
  (keeps_haltUpdate (L := 0x40) rfl (.refl _ s)).same .ctxs rfl
@[simp] theorem haltUpdate_flights : (s.haltUpdate).flights = s.flights :=
  (keeps_haltUpdate (L := 0x40) rfl (.refl _ s)).same .flights rfl
@[simp] theorem haltUpdate_sched : (s.haltUpdate).sched = s.sched :=
  (keeps_haltUpdate (L := 0x40) rfl (.refl _ s)).same .sched rfl
@[simp] theorem haltUpdate_manifest : (s.haltUpdate).manifest = s.manifest :=
  (keeps_haltUpdate (L := 0x40) rfl (.refl _ s)).same .manifest rfl
@[simp] theorem haltUpdate_quays : (s.haltUpdate).quays = s.quays :=
  (keeps_haltUpdate (L := 0x40) rfl (.refl _ s)).same .quays rfl
@[simp] theorem haltUpdate_mem : (s.haltUpdate).mem = s.mem :=
  (keeps_haltUpdate (L := 0x40) rfl (.refl _ s)).same .mem rfl
@[simp] theorem haltUpdate_harbour : (s.haltUpdate).harbour = s.harbour :=
  (keeps_haltUpdate (L := 0x40) rfl (.refl _ s)).same .harbour rfl
@[simp] theorem haltUpdate_memctl : (s.haltUpdate).memctl = s.memctl :=
  (keeps_haltUpdate (L := 0x40) rfl (.refl _ s)).same .memctl rfl
@[simp] theorem haltUpdate_memhost : (s.haltUpdate).memhost = s.memhost :=
  (keeps_haltUpdate (L := 0x40) rfl (.refl _ s)).same .memhost rfl
@[simp] theorem haltUpdate_portErrs : (s.haltUpdate).portErrs = s.portErrs :=
  (keeps_haltUpdate (L := 0x40) rfl (.refl _ s)).same .portErrs rfl
@[simp] theorem haltUpdate_ports : (s.haltUpdate).ports = s.ports :=
  (keeps_haltUpdate (L := 0x40) rfl (.refl _ s)).same .ports rfl
@[simp] theorem haltUpdate_streams : (s.haltUpdate).streams = s.streams :=
  (keeps_haltUpdate (L := 0x40) rfl (.refl _ s)).same .streams rfl
@[simp] theorem haltUpdate_blanks : (s.haltUpdate).blanks = s.blanks :=
  (keeps_haltUpdate (L := 0x40) rfl (.refl _ s)).same .blanks rfl
@[simp] theorem haltUpdate_trigs : (s.haltUpdate).trigs = s.trigs :=
  (keeps_haltUpdate (L := 0x40) rfl (.refl _ s)).same .trigs rfl
@[simp] theorem haltUpdate_sessions : (s.haltUpdate).sessions = s.sessions :=
  (keeps_haltUpdate (L := 0x40) rfl (.refl _ s)).same .sessions rfl
@[simp] theorem haltUpdate_codecs : (s.haltUpdate).codecs = s.codecs :=
  (keeps_haltUpdate (L := 0x40) rfl (.refl _ s)).same .codecs rfl
@[simp] theorem haltUpdate_deckFaults : (s.haltUpdate).deckFaults = s.deckFaults :=
  (keeps_haltUpdate (L := 0x40) rfl (.refl _ s)).same .deckFaults rfl
@[simp] theorem haltUpdate_deckOwner : (s.haltUpdate).deckOwner = s.deckOwner :=
  (keeps_haltUpdate (L := 0x40) rfl (.refl _ s)).same .deckOwner rfl
@[simp] theorem haltUpdate_deckReduced : (s.haltUpdate).deckReduced = s.deckReduced :=
  (keeps_haltUpdate (L := 0x40) rfl (.refl _ s)).same .deckReduced rfl
@[simp] theorem haltUpdate_tide : (s.haltUpdate).tide = s.tide :=
  (keeps_haltUpdate (L := 0x40) rfl (.refl _ s)).same .tide rfl
@[simp] theorem haltUpdate_recorder : (s.haltUpdate).recorder = s.recorder :=
  (keeps_haltUpdate (L := 0x40) rfl (.refl _ s)).same .recorder rfl
@[simp] theorem haltUpdate_power : (s.haltUpdate).power = s.power :=
  (keeps_haltUpdate (L := 0x40) rfl (.refl _ s)).same .power rfl
@[simp] theorem haltUpdate_keep : (s.haltUpdate).keep = s.keep :=
  (keeps_haltUpdate (L := 0x40) rfl (.refl _ s)).same .keep rfl
@[simp] theorem haltUpdate_faults : (s.haltUpdate).faults = s.faults :=
  (keeps_haltUpdate (L := 0x40) rfl (.refl _ s)).same .faults rfl
@[simp] theorem haltUpdate_lighthouse : (s.haltUpdate).lighthouse = s.lighthouse :=
  (keeps_haltUpdate (L := 0x40) rfl (.refl _ s)).same .lighthouse rfl
@[simp] theorem haltUpdate_seeds : (s.haltUpdate).seeds = s.seeds :=
  (keeps_haltUpdate (L := 0x40) rfl (.refl _ s)).same .seeds rfl
@[simp] theorem haltUpdate_freeCount : (s.haltUpdate).freeCount = s.freeCount :=
  (keeps_haltUpdate (L := 0x40) rfl (.refl _ s)).same .freeCount rfl
@[simp] theorem haltUpdate_outbox : (s.haltUpdate).outbox = s.outbox :=
  (keeps_haltUpdate (L := 0x40) rfl (.refl _ s)).same .outbox rfl
@[simp] theorem haltUpdate_pending : (s.haltUpdate).pending = s.pending :=
  (keeps_haltUpdate (L := 0x40) rfl (.refl _ s)).same .pending rfl
end

/-! `wakeSlack` -/

section
variable (s : State) 
@[simp] theorem wakeSlack_part : (s.wakeSlack).part = s.part :=
  (keeps_wakeSlack (L := 0x20000200088) rfl (.refl _ s)).same .part rfl
@[simp] theorem wakeSlack_secure : (s.wakeSlack).secure = s.secure :=
  (keeps_wakeSlack (L := 0x20000200088) rfl (.refl _ s)).same .secure rfl
@[simp] theorem wakeSlack_boot : (s.wakeSlack).boot = s.boot :=
  (keeps_wakeSlack (L := 0x20000200088) rfl (.refl _ s)).same .boot rfl
@[simp] theorem wakeSlack_cfg : (s.wakeSlack).cfg = s.cfg :=
  (keeps_wakeSlack (L := 0x20000200088) rfl (.refl _ s)).same .cfg rfl
@[simp] theorem wakeSlack_aer : (s.wakeSlack).aer = s.aer :=
  (keeps_wakeSlack (L := 0x20000200088) rfl (.refl _ s)).same .aer rfl
@[simp] theorem wakeSlack_hostif : (s.wakeSlack).hostif = s.hostif :=
  (keeps_wakeSlack (L := 0x20000200088) rfl (.refl _ s)).same .hostif rfl
@[simp] theorem wakeSlack_ready : (s.wakeSlack).ready = s.ready :=
  (keeps_wakeSlack (L := 0x20000200088) rfl (.refl _ s)).same .ready rfl
@[simp] theorem wakeSlack_fwif : (s.wakeSlack).fwif = s.fwif :=
  (keeps_wakeSlack (L := 0x20000200088) rfl (.refl _ s)).same .fwif rfl
@[simp] theorem wakeSlack_heart : (s.wakeSlack).heart = s.heart :=
  (keeps_wakeSlack (L := 0x20000200088) rfl (.refl _ s)).same .heart rfl
@[simp] theorem wakeSlack_marks : (s.wakeSlack).marks = s.marks :=
  (keeps_wakeSlack (L := 0x20000200088) rfl (.refl _ s)).same .marks rfl
@[simp] theorem wakeSlack_queues : (s.wakeSlack).queues = s.queues :=
  (keeps_wakeSlack (L := 0x20000200088) rfl (.refl _ s)).same .queues rfl
@[simp] theorem wakeSlack_flags : (s.wakeSlack).flags = s.flags :=
  (keeps_wakeSlack (L := 0x20000200088) rfl (.refl _ s)).same .flags rfl
@[simp] theorem wakeSlack_ctxs : (s.wakeSlack).ctxs = s.ctxs :=
  (keeps_wakeSlack (L := 0x20000200088) rfl (.refl _ s)).same .ctxs rfl
@[simp] theorem wakeSlack_flights : (s.wakeSlack).flights = s.flights :=
  (keeps_wakeSlack (L := 0x20000200088) rfl (.refl _ s)).same .flights rfl
@[simp] theorem wakeSlack_sched : (s.wakeSlack).sched = s.sched :=
  (keeps_wakeSlack (L := 0x20000200088) rfl (.refl _ s)).same .sched rfl
@[simp] theorem wakeSlack_manifest : (s.wakeSlack).manifest = s.manifest :=
  (keeps_wakeSlack (L := 0x20000200088) rfl (.refl _ s)).same .manifest rfl
@[simp] theorem wakeSlack_quays : (s.wakeSlack).quays = s.quays :=
  (keeps_wakeSlack (L := 0x20000200088) rfl (.refl _ s)).same .quays rfl
@[simp] theorem wakeSlack_mem : (s.wakeSlack).mem = s.mem :=
  (keeps_wakeSlack (L := 0x20000200088) rfl (.refl _ s)).same .mem rfl
@[simp] theorem wakeSlack_harbour : (s.wakeSlack).harbour = s.harbour :=
  (keeps_wakeSlack (L := 0x20000200088) rfl (.refl _ s)).same .harbour rfl
@[simp] theorem wakeSlack_memhost : (s.wakeSlack).memhost = s.memhost :=
  (keeps_wakeSlack (L := 0x20000200088) rfl (.refl _ s)).same .memhost rfl
@[simp] theorem wakeSlack_portErrs : (s.wakeSlack).portErrs = s.portErrs :=
  (keeps_wakeSlack (L := 0x20000200088) rfl (.refl _ s)).same .portErrs rfl
@[simp] theorem wakeSlack_ports : (s.wakeSlack).ports = s.ports :=
  (keeps_wakeSlack (L := 0x20000200088) rfl (.refl _ s)).same .ports rfl
@[simp] theorem wakeSlack_streams : (s.wakeSlack).streams = s.streams :=
  (keeps_wakeSlack (L := 0x20000200088) rfl (.refl _ s)).same .streams rfl
@[simp] theorem wakeSlack_blanks : (s.wakeSlack).blanks = s.blanks :=
  (keeps_wakeSlack (L := 0x20000200088) rfl (.refl _ s)).same .blanks rfl
@[simp] theorem wakeSlack_trigs : (s.wakeSlack).trigs = s.trigs :=
  (keeps_wakeSlack (L := 0x20000200088) rfl (.refl _ s)).same .trigs rfl
@[simp] theorem wakeSlack_sessions : (s.wakeSlack).sessions = s.sessions :=
  (keeps_wakeSlack (L := 0x20000200088) rfl (.refl _ s)).same .sessions rfl
@[simp] theorem wakeSlack_codecs : (s.wakeSlack).codecs = s.codecs :=
  (keeps_wakeSlack (L := 0x20000200088) rfl (.refl _ s)).same .codecs rfl
@[simp] theorem wakeSlack_deckFaults : (s.wakeSlack).deckFaults = s.deckFaults :=
  (keeps_wakeSlack (L := 0x20000200088) rfl (.refl _ s)).same .deckFaults rfl
@[simp] theorem wakeSlack_deckOwner : (s.wakeSlack).deckOwner = s.deckOwner :=
  (keeps_wakeSlack (L := 0x20000200088) rfl (.refl _ s)).same .deckOwner rfl
@[simp] theorem wakeSlack_deckReduced : (s.wakeSlack).deckReduced = s.deckReduced :=
  (keeps_wakeSlack (L := 0x20000200088) rfl (.refl _ s)).same .deckReduced rfl
@[simp] theorem wakeSlack_tide : (s.wakeSlack).tide = s.tide :=
  (keeps_wakeSlack (L := 0x20000200088) rfl (.refl _ s)).same .tide rfl
@[simp] theorem wakeSlack_recorder : (s.wakeSlack).recorder = s.recorder :=
  (keeps_wakeSlack (L := 0x20000200088) rfl (.refl _ s)).same .recorder rfl
@[simp] theorem wakeSlack_power : (s.wakeSlack).power = s.power :=
  (keeps_wakeSlack (L := 0x20000200088) rfl (.refl _ s)).same .power rfl
@[simp] theorem wakeSlack_keep : (s.wakeSlack).keep = s.keep :=
  (keeps_wakeSlack (L := 0x20000200088) rfl (.refl _ s)).same .keep rfl
@[simp] theorem wakeSlack_faults : (s.wakeSlack).faults = s.faults :=
  (keeps_wakeSlack (L := 0x20000200088) rfl (.refl _ s)).same .faults rfl
@[simp] theorem wakeSlack_lighthouse : (s.wakeSlack).lighthouse = s.lighthouse :=
  (keeps_wakeSlack (L := 0x20000200088) rfl (.refl _ s)).same .lighthouse rfl
@[simp] theorem wakeSlack_seeds : (s.wakeSlack).seeds = s.seeds :=
  (keeps_wakeSlack (L := 0x20000200088) rfl (.refl _ s)).same .seeds rfl
@[simp] theorem wakeSlack_freeCount : (s.wakeSlack).freeCount = s.freeCount :=
  (keeps_wakeSlack (L := 0x20000200088) rfl (.refl _ s)).same .freeCount rfl
@[simp] theorem wakeSlack_pending : (s.wakeSlack).pending = s.pending :=
  (keeps_wakeSlack (L := 0x20000200088) rfl (.refl _ s)).same .pending rfl
end

/-! `startFlight` -/

section
variable (s : State) (q : QueueId) (idx : Word)
@[simp] theorem startFlight_part : (s.startFlight q idx).part = s.part :=
  (keeps_startFlight (L := 0x88200) rfl (.refl _ s) _ _).same .part rfl
@[simp] theorem startFlight_secure : (s.startFlight q idx).secure = s.secure :=
  (keeps_startFlight (L := 0x88200) rfl (.refl _ s) _ _).same .secure rfl
@[simp] theorem startFlight_boot : (s.startFlight q idx).boot = s.boot :=
  (keeps_startFlight (L := 0x88200) rfl (.refl _ s) _ _).same .boot rfl
@[simp] theorem startFlight_env : (s.startFlight q idx).env = s.env :=
  (keeps_startFlight (L := 0x88200) rfl (.refl _ s) _ _).same .env rfl
@[simp] theorem startFlight_cfg : (s.startFlight q idx).cfg = s.cfg :=
  (keeps_startFlight (L := 0x88200) rfl (.refl _ s) _ _).same .cfg rfl
@[simp] theorem startFlight_aer : (s.startFlight q idx).aer = s.aer :=
  (keeps_startFlight (L := 0x88200) rfl (.refl _ s) _ _).same .aer rfl
@[simp] theorem startFlight_hostif : (s.startFlight q idx).hostif = s.hostif :=
  (keeps_startFlight (L := 0x88200) rfl (.refl _ s) _ _).same .hostif rfl
@[simp] theorem startFlight_ltr : (s.startFlight q idx).ltr = s.ltr :=
  (keeps_startFlight (L := 0x88200) rfl (.refl _ s) _ _).same .ltr rfl
@[simp] theorem startFlight_ready : (s.startFlight q idx).ready = s.ready :=
  (keeps_startFlight (L := 0x88200) rfl (.refl _ s) _ _).same .ready rfl
@[simp] theorem startFlight_heart : (s.startFlight q idx).heart = s.heart :=
  (keeps_startFlight (L := 0x88200) rfl (.refl _ s) _ _).same .heart rfl
@[simp] theorem startFlight_marks : (s.startFlight q idx).marks = s.marks :=
  (keeps_startFlight (L := 0x88200) rfl (.refl _ s) _ _).same .marks rfl
@[simp] theorem startFlight_queues : (s.startFlight q idx).queues = s.queues :=
  (keeps_startFlight (L := 0x88200) rfl (.refl _ s) _ _).same .queues rfl
@[simp] theorem startFlight_flags : (s.startFlight q idx).flags = s.flags :=
  (keeps_startFlight (L := 0x88200) rfl (.refl _ s) _ _).same .flags rfl
@[simp] theorem startFlight_ctxs : (s.startFlight q idx).ctxs = s.ctxs :=
  (keeps_startFlight (L := 0x88200) rfl (.refl _ s) _ _).same .ctxs rfl
@[simp] theorem startFlight_sched : (s.startFlight q idx).sched = s.sched :=
  (keeps_startFlight (L := 0x88200) rfl (.refl _ s) _ _).same .sched rfl
@[simp] theorem startFlight_manifest : (s.startFlight q idx).manifest = s.manifest :=
  (keeps_startFlight (L := 0x88200) rfl (.refl _ s) _ _).same .manifest rfl
@[simp] theorem startFlight_quays : (s.startFlight q idx).quays = s.quays :=
  (keeps_startFlight (L := 0x88200) rfl (.refl _ s) _ _).same .quays rfl
@[simp] theorem startFlight_harbour : (s.startFlight q idx).harbour = s.harbour :=
  (keeps_startFlight (L := 0x88200) rfl (.refl _ s) _ _).same .harbour rfl
@[simp] theorem startFlight_memctl : (s.startFlight q idx).memctl = s.memctl :=
  (keeps_startFlight (L := 0x88200) rfl (.refl _ s) _ _).same .memctl rfl
@[simp] theorem startFlight_memhost : (s.startFlight q idx).memhost = s.memhost :=
  (keeps_startFlight (L := 0x88200) rfl (.refl _ s) _ _).same .memhost rfl
@[simp] theorem startFlight_portErrs : (s.startFlight q idx).portErrs = s.portErrs :=
  (keeps_startFlight (L := 0x88200) rfl (.refl _ s) _ _).same .portErrs rfl
@[simp] theorem startFlight_ports : (s.startFlight q idx).ports = s.ports :=
  (keeps_startFlight (L := 0x88200) rfl (.refl _ s) _ _).same .ports rfl
@[simp] theorem startFlight_streams : (s.startFlight q idx).streams = s.streams :=
  (keeps_startFlight (L := 0x88200) rfl (.refl _ s) _ _).same .streams rfl
@[simp] theorem startFlight_blanks : (s.startFlight q idx).blanks = s.blanks :=
  (keeps_startFlight (L := 0x88200) rfl (.refl _ s) _ _).same .blanks rfl
@[simp] theorem startFlight_trigs : (s.startFlight q idx).trigs = s.trigs :=
  (keeps_startFlight (L := 0x88200) rfl (.refl _ s) _ _).same .trigs rfl
@[simp] theorem startFlight_sessions : (s.startFlight q idx).sessions = s.sessions :=
  (keeps_startFlight (L := 0x88200) rfl (.refl _ s) _ _).same .sessions rfl
@[simp] theorem startFlight_codecs : (s.startFlight q idx).codecs = s.codecs :=
  (keeps_startFlight (L := 0x88200) rfl (.refl _ s) _ _).same .codecs rfl
@[simp] theorem startFlight_deckFaults : (s.startFlight q idx).deckFaults = s.deckFaults :=
  (keeps_startFlight (L := 0x88200) rfl (.refl _ s) _ _).same .deckFaults rfl
@[simp] theorem startFlight_deckOwner : (s.startFlight q idx).deckOwner = s.deckOwner :=
  (keeps_startFlight (L := 0x88200) rfl (.refl _ s) _ _).same .deckOwner rfl
@[simp] theorem startFlight_deckReduced : (s.startFlight q idx).deckReduced = s.deckReduced :=
  (keeps_startFlight (L := 0x88200) rfl (.refl _ s) _ _).same .deckReduced rfl
@[simp] theorem startFlight_tide : (s.startFlight q idx).tide = s.tide :=
  (keeps_startFlight (L := 0x88200) rfl (.refl _ s) _ _).same .tide rfl
@[simp] theorem startFlight_recorder : (s.startFlight q idx).recorder = s.recorder :=
  (keeps_startFlight (L := 0x88200) rfl (.refl _ s) _ _).same .recorder rfl
@[simp] theorem startFlight_power : (s.startFlight q idx).power = s.power :=
  (keeps_startFlight (L := 0x88200) rfl (.refl _ s) _ _).same .power rfl
@[simp] theorem startFlight_keep : (s.startFlight q idx).keep = s.keep :=
  (keeps_startFlight (L := 0x88200) rfl (.refl _ s) _ _).same .keep rfl
@[simp] theorem startFlight_faults : (s.startFlight q idx).faults = s.faults :=
  (keeps_startFlight (L := 0x88200) rfl (.refl _ s) _ _).same .faults rfl
@[simp] theorem startFlight_lighthouse : (s.startFlight q idx).lighthouse = s.lighthouse :=
  (keeps_startFlight (L := 0x88200) rfl (.refl _ s) _ _).same .lighthouse rfl
@[simp] theorem startFlight_seeds : (s.startFlight q idx).seeds = s.seeds :=
  (keeps_startFlight (L := 0x88200) rfl (.refl _ s) _ _).same .seeds rfl
@[simp] theorem startFlight_freeCount : (s.startFlight q idx).freeCount = s.freeCount :=
  (keeps_startFlight (L := 0x88200) rfl (.refl _ s) _ _).same .freeCount rfl
@[simp] theorem startFlight_outbox : (s.startFlight q idx).outbox = s.outbox :=
  (keeps_startFlight (L := 0x88200) rfl (.refl _ s) _ _).same .outbox rfl
@[simp] theorem startFlight_pending : (s.startFlight q idx).pending = s.pending :=
  (keeps_startFlight (L := 0x88200) rfl (.refl _ s) _ _).same .pending rfl
end

/-! `endFlight` -/

section
variable (s : State) (q : QueueId) (idx : Word) (status : Byte) (reason : BitVec 16)
@[simp] theorem endFlight_part : (s.endFlight q idx status reason).part = s.part :=
  (keeps_endFlight (L := 0x220800cd210) rfl (.refl _ s) _ _ _ _).same .part rfl
@[simp] theorem endFlight_secure : (s.endFlight q idx status reason).secure = s.secure :=
  (keeps_endFlight (L := 0x220800cd210) rfl (.refl _ s) _ _ _ _).same .secure rfl
@[simp] theorem endFlight_boot : (s.endFlight q idx status reason).boot = s.boot :=
  (keeps_endFlight (L := 0x220800cd210) rfl (.refl _ s) _ _ _ _).same .boot rfl
@[simp] theorem endFlight_env : (s.endFlight q idx status reason).env = s.env :=
  (keeps_endFlight (L := 0x220800cd210) rfl (.refl _ s) _ _ _ _).same .env rfl
@[simp] theorem endFlight_aer : (s.endFlight q idx status reason).aer = s.aer :=
  (keeps_endFlight (L := 0x220800cd210) rfl (.refl _ s) _ _ _ _).same .aer rfl
@[simp] theorem endFlight_hostif : (s.endFlight q idx status reason).hostif = s.hostif :=
  (keeps_endFlight (L := 0x220800cd210) rfl (.refl _ s) _ _ _ _).same .hostif rfl
@[simp] theorem endFlight_ltr : (s.endFlight q idx status reason).ltr = s.ltr :=
  (keeps_endFlight (L := 0x220800cd210) rfl (.refl _ s) _ _ _ _).same .ltr rfl
@[simp] theorem endFlight_ready : (s.endFlight q idx status reason).ready = s.ready :=
  (keeps_endFlight (L := 0x220800cd210) rfl (.refl _ s) _ _ _ _).same .ready rfl
@[simp] theorem endFlight_heart : (s.endFlight q idx status reason).heart = s.heart :=
  (keeps_endFlight (L := 0x220800cd210) rfl (.refl _ s) _ _ _ _).same .heart rfl
@[simp] theorem endFlight_marks : (s.endFlight q idx status reason).marks = s.marks :=
  (keeps_endFlight (L := 0x220800cd210) rfl (.refl _ s) _ _ _ _).same .marks rfl
@[simp] theorem endFlight_flags : (s.endFlight q idx status reason).flags = s.flags :=
  (keeps_endFlight (L := 0x220800cd210) rfl (.refl _ s) _ _ _ _).same .flags rfl
@[simp] theorem endFlight_sched : (s.endFlight q idx status reason).sched = s.sched :=
  (keeps_endFlight (L := 0x220800cd210) rfl (.refl _ s) _ _ _ _).same .sched rfl
@[simp] theorem endFlight_manifest : (s.endFlight q idx status reason).manifest = s.manifest :=
  (keeps_endFlight (L := 0x220800cd210) rfl (.refl _ s) _ _ _ _).same .manifest rfl
@[simp] theorem endFlight_harbour : (s.endFlight q idx status reason).harbour = s.harbour :=
  (keeps_endFlight (L := 0x220800cd210) rfl (.refl _ s) _ _ _ _).same .harbour rfl
@[simp] theorem endFlight_memctl : (s.endFlight q idx status reason).memctl = s.memctl :=
  (keeps_endFlight (L := 0x220800cd210) rfl (.refl _ s) _ _ _ _).same .memctl rfl
@[simp] theorem endFlight_memhost : (s.endFlight q idx status reason).memhost = s.memhost :=
  (keeps_endFlight (L := 0x220800cd210) rfl (.refl _ s) _ _ _ _).same .memhost rfl
@[simp] theorem endFlight_portErrs : (s.endFlight q idx status reason).portErrs = s.portErrs :=
  (keeps_endFlight (L := 0x220800cd210) rfl (.refl _ s) _ _ _ _).same .portErrs rfl
@[simp] theorem endFlight_ports : (s.endFlight q idx status reason).ports = s.ports :=
  (keeps_endFlight (L := 0x220800cd210) rfl (.refl _ s) _ _ _ _).same .ports rfl
@[simp] theorem endFlight_streams : (s.endFlight q idx status reason).streams = s.streams :=
  (keeps_endFlight (L := 0x220800cd210) rfl (.refl _ s) _ _ _ _).same .streams rfl
@[simp] theorem endFlight_blanks : (s.endFlight q idx status reason).blanks = s.blanks :=
  (keeps_endFlight (L := 0x220800cd210) rfl (.refl _ s) _ _ _ _).same .blanks rfl
@[simp] theorem endFlight_trigs : (s.endFlight q idx status reason).trigs = s.trigs :=
  (keeps_endFlight (L := 0x220800cd210) rfl (.refl _ s) _ _ _ _).same .trigs rfl
@[simp] theorem endFlight_sessions : (s.endFlight q idx status reason).sessions = s.sessions :=
  (keeps_endFlight (L := 0x220800cd210) rfl (.refl _ s) _ _ _ _).same .sessions rfl
@[simp] theorem endFlight_codecs : (s.endFlight q idx status reason).codecs = s.codecs :=
  (keeps_endFlight (L := 0x220800cd210) rfl (.refl _ s) _ _ _ _).same .codecs rfl
@[simp] theorem endFlight_deckFaults : (s.endFlight q idx status reason).deckFaults = s.deckFaults :=
  (keeps_endFlight (L := 0x220800cd210) rfl (.refl _ s) _ _ _ _).same .deckFaults rfl
@[simp] theorem endFlight_deckReduced : (s.endFlight q idx status reason).deckReduced = s.deckReduced :=
  (keeps_endFlight (L := 0x220800cd210) rfl (.refl _ s) _ _ _ _).same .deckReduced rfl
@[simp] theorem endFlight_tide : (s.endFlight q idx status reason).tide = s.tide :=
  (keeps_endFlight (L := 0x220800cd210) rfl (.refl _ s) _ _ _ _).same .tide rfl
@[simp] theorem endFlight_recorder : (s.endFlight q idx status reason).recorder = s.recorder :=
  (keeps_endFlight (L := 0x220800cd210) rfl (.refl _ s) _ _ _ _).same .recorder rfl
@[simp] theorem endFlight_power : (s.endFlight q idx status reason).power = s.power :=
  (keeps_endFlight (L := 0x220800cd210) rfl (.refl _ s) _ _ _ _).same .power rfl
@[simp] theorem endFlight_keep : (s.endFlight q idx status reason).keep = s.keep :=
  (keeps_endFlight (L := 0x220800cd210) rfl (.refl _ s) _ _ _ _).same .keep rfl
@[simp] theorem endFlight_lighthouse : (s.endFlight q idx status reason).lighthouse = s.lighthouse :=
  (keeps_endFlight (L := 0x220800cd210) rfl (.refl _ s) _ _ _ _).same .lighthouse rfl
@[simp] theorem endFlight_seeds : (s.endFlight q idx status reason).seeds = s.seeds :=
  (keeps_endFlight (L := 0x220800cd210) rfl (.refl _ s) _ _ _ _).same .seeds rfl
@[simp] theorem endFlight_freeCount : (s.endFlight q idx status reason).freeCount = s.freeCount :=
  (keeps_endFlight (L := 0x220800cd210) rfl (.refl _ s) _ _ _ _).same .freeCount rfl
@[simp] theorem endFlight_pending : (s.endFlight q idx status reason).pending = s.pending :=
  (keeps_endFlight (L := 0x220800cd210) rfl (.refl _ s) _ _ _ _).same .pending rfl
end

/-! `settle` -/

section
variable (s : State) 
@[simp] theorem settle_part : (s.settle).part = s.part :=
  (keeps_settle (L := 0x220800cd2d0) rfl (.refl _ s)).same .part rfl
@[simp] theorem settle_secure : (s.settle).secure = s.secure :=
  (keeps_settle (L := 0x220800cd2d0) rfl (.refl _ s)).same .secure rfl
@[simp] theorem settle_boot : (s.settle).boot = s.boot :=
  (keeps_settle (L := 0x220800cd2d0) rfl (.refl _ s)).same .boot rfl
@[simp] theorem settle_env : (s.settle).env = s.env :=
  (keeps_settle (L := 0x220800cd2d0) rfl (.refl _ s)).same .env rfl
@[simp] theorem settle_aer : (s.settle).aer = s.aer :=
  (keeps_settle (L := 0x220800cd2d0) rfl (.refl _ s)).same .aer rfl
@[simp] theorem settle_ready : (s.settle).ready = s.ready :=
  (keeps_settle (L := 0x220800cd2d0) rfl (.refl _ s)).same .ready rfl
@[simp] theorem settle_heart : (s.settle).heart = s.heart :=
  (keeps_settle (L := 0x220800cd2d0) rfl (.refl _ s)).same .heart rfl
@[simp] theorem settle_marks : (s.settle).marks = s.marks :=
  (keeps_settle (L := 0x220800cd2d0) rfl (.refl _ s)).same .marks rfl
@[simp] theorem settle_flags : (s.settle).flags = s.flags :=
  (keeps_settle (L := 0x220800cd2d0) rfl (.refl _ s)).same .flags rfl
@[simp] theorem settle_sched : (s.settle).sched = s.sched :=
  (keeps_settle (L := 0x220800cd2d0) rfl (.refl _ s)).same .sched rfl
@[simp] theorem settle_manifest : (s.settle).manifest = s.manifest :=
  (keeps_settle (L := 0x220800cd2d0) rfl (.refl _ s)).same .manifest rfl
@[simp] theorem settle_harbour : (s.settle).harbour = s.harbour :=
  (keeps_settle (L := 0x220800cd2d0) rfl (.refl _ s)).same .harbour rfl
@[simp] theorem settle_memctl : (s.settle).memctl = s.memctl :=
  (keeps_settle (L := 0x220800cd2d0) rfl (.refl _ s)).same .memctl rfl
@[simp] theorem settle_memhost : (s.settle).memhost = s.memhost :=
  (keeps_settle (L := 0x220800cd2d0) rfl (.refl _ s)).same .memhost rfl
@[simp] theorem settle_portErrs : (s.settle).portErrs = s.portErrs :=
  (keeps_settle (L := 0x220800cd2d0) rfl (.refl _ s)).same .portErrs rfl
@[simp] theorem settle_ports : (s.settle).ports = s.ports :=
  (keeps_settle (L := 0x220800cd2d0) rfl (.refl _ s)).same .ports rfl
@[simp] theorem settle_streams : (s.settle).streams = s.streams :=
  (keeps_settle (L := 0x220800cd2d0) rfl (.refl _ s)).same .streams rfl
@[simp] theorem settle_blanks : (s.settle).blanks = s.blanks :=
  (keeps_settle (L := 0x220800cd2d0) rfl (.refl _ s)).same .blanks rfl
@[simp] theorem settle_trigs : (s.settle).trigs = s.trigs :=
  (keeps_settle (L := 0x220800cd2d0) rfl (.refl _ s)).same .trigs rfl
@[simp] theorem settle_sessions : (s.settle).sessions = s.sessions :=
  (keeps_settle (L := 0x220800cd2d0) rfl (.refl _ s)).same .sessions rfl
@[simp] theorem settle_codecs : (s.settle).codecs = s.codecs :=
  (keeps_settle (L := 0x220800cd2d0) rfl (.refl _ s)).same .codecs rfl
@[simp] theorem settle_deckFaults : (s.settle).deckFaults = s.deckFaults :=
  (keeps_settle (L := 0x220800cd2d0) rfl (.refl _ s)).same .deckFaults rfl
@[simp] theorem settle_deckReduced : (s.settle).deckReduced = s.deckReduced :=
  (keeps_settle (L := 0x220800cd2d0) rfl (.refl _ s)).same .deckReduced rfl
@[simp] theorem settle_tide : (s.settle).tide = s.tide :=
  (keeps_settle (L := 0x220800cd2d0) rfl (.refl _ s)).same .tide rfl
@[simp] theorem settle_recorder : (s.settle).recorder = s.recorder :=
  (keeps_settle (L := 0x220800cd2d0) rfl (.refl _ s)).same .recorder rfl
@[simp] theorem settle_power : (s.settle).power = s.power :=
  (keeps_settle (L := 0x220800cd2d0) rfl (.refl _ s)).same .power rfl
@[simp] theorem settle_keep : (s.settle).keep = s.keep :=
  (keeps_settle (L := 0x220800cd2d0) rfl (.refl _ s)).same .keep rfl
@[simp] theorem settle_lighthouse : (s.settle).lighthouse = s.lighthouse :=
  (keeps_settle (L := 0x220800cd2d0) rfl (.refl _ s)).same .lighthouse rfl
@[simp] theorem settle_seeds : (s.settle).seeds = s.seeds :=
  (keeps_settle (L := 0x220800cd2d0) rfl (.refl _ s)).same .seeds rfl
@[simp] theorem settle_freeCount : (s.settle).freeCount = s.freeCount :=
  (keeps_settle (L := 0x220800cd2d0) rfl (.refl _ s)).same .freeCount rfl
@[simp] theorem settle_pending : (s.settle).pending = s.pending :=
  (keeps_settle (L := 0x220800cd2d0) rfl (.refl _ s)).same .pending rfl
end

/-! `finish` -/

section
variable (s : State) (q : QueueId) (idx : Word) (reason : BitVec 16)
@[simp] theorem finish_part : (s.finish q idx reason).part = s.part :=
  (keeps_finish (L := 0x220800cd2d0) rfl (.refl _ s) _ _ _).same .part rfl
@[simp] theorem finish_secure : (s.finish q idx reason).secure = s.secure :=
  (keeps_finish (L := 0x220800cd2d0) rfl (.refl _ s) _ _ _).same .secure rfl
@[simp] theorem finish_boot : (s.finish q idx reason).boot = s.boot :=
  (keeps_finish (L := 0x220800cd2d0) rfl (.refl _ s) _ _ _).same .boot rfl
@[simp] theorem finish_env : (s.finish q idx reason).env = s.env :=
  (keeps_finish (L := 0x220800cd2d0) rfl (.refl _ s) _ _ _).same .env rfl
@[simp] theorem finish_aer : (s.finish q idx reason).aer = s.aer :=
  (keeps_finish (L := 0x220800cd2d0) rfl (.refl _ s) _ _ _).same .aer rfl
@[simp] theorem finish_ready : (s.finish q idx reason).ready = s.ready :=
  (keeps_finish (L := 0x220800cd2d0) rfl (.refl _ s) _ _ _).same .ready rfl
@[simp] theorem finish_heart : (s.finish q idx reason).heart = s.heart :=
  (keeps_finish (L := 0x220800cd2d0) rfl (.refl _ s) _ _ _).same .heart rfl
@[simp] theorem finish_marks : (s.finish q idx reason).marks = s.marks :=
  (keeps_finish (L := 0x220800cd2d0) rfl (.refl _ s) _ _ _).same .marks rfl
@[simp] theorem finish_flags : (s.finish q idx reason).flags = s.flags :=
  (keeps_finish (L := 0x220800cd2d0) rfl (.refl _ s) _ _ _).same .flags rfl
@[simp] theorem finish_sched : (s.finish q idx reason).sched = s.sched :=
  (keeps_finish (L := 0x220800cd2d0) rfl (.refl _ s) _ _ _).same .sched rfl
@[simp] theorem finish_manifest : (s.finish q idx reason).manifest = s.manifest :=
  (keeps_finish (L := 0x220800cd2d0) rfl (.refl _ s) _ _ _).same .manifest rfl
@[simp] theorem finish_harbour : (s.finish q idx reason).harbour = s.harbour :=
  (keeps_finish (L := 0x220800cd2d0) rfl (.refl _ s) _ _ _).same .harbour rfl
@[simp] theorem finish_memctl : (s.finish q idx reason).memctl = s.memctl :=
  (keeps_finish (L := 0x220800cd2d0) rfl (.refl _ s) _ _ _).same .memctl rfl
@[simp] theorem finish_memhost : (s.finish q idx reason).memhost = s.memhost :=
  (keeps_finish (L := 0x220800cd2d0) rfl (.refl _ s) _ _ _).same .memhost rfl
@[simp] theorem finish_portErrs : (s.finish q idx reason).portErrs = s.portErrs :=
  (keeps_finish (L := 0x220800cd2d0) rfl (.refl _ s) _ _ _).same .portErrs rfl
@[simp] theorem finish_ports : (s.finish q idx reason).ports = s.ports :=
  (keeps_finish (L := 0x220800cd2d0) rfl (.refl _ s) _ _ _).same .ports rfl
@[simp] theorem finish_streams : (s.finish q idx reason).streams = s.streams :=
  (keeps_finish (L := 0x220800cd2d0) rfl (.refl _ s) _ _ _).same .streams rfl
@[simp] theorem finish_blanks : (s.finish q idx reason).blanks = s.blanks :=
  (keeps_finish (L := 0x220800cd2d0) rfl (.refl _ s) _ _ _).same .blanks rfl
@[simp] theorem finish_trigs : (s.finish q idx reason).trigs = s.trigs :=
  (keeps_finish (L := 0x220800cd2d0) rfl (.refl _ s) _ _ _).same .trigs rfl
@[simp] theorem finish_sessions : (s.finish q idx reason).sessions = s.sessions :=
  (keeps_finish (L := 0x220800cd2d0) rfl (.refl _ s) _ _ _).same .sessions rfl
@[simp] theorem finish_codecs : (s.finish q idx reason).codecs = s.codecs :=
  (keeps_finish (L := 0x220800cd2d0) rfl (.refl _ s) _ _ _).same .codecs rfl
@[simp] theorem finish_deckFaults : (s.finish q idx reason).deckFaults = s.deckFaults :=
  (keeps_finish (L := 0x220800cd2d0) rfl (.refl _ s) _ _ _).same .deckFaults rfl
@[simp] theorem finish_deckReduced : (s.finish q idx reason).deckReduced = s.deckReduced :=
  (keeps_finish (L := 0x220800cd2d0) rfl (.refl _ s) _ _ _).same .deckReduced rfl
@[simp] theorem finish_tide : (s.finish q idx reason).tide = s.tide :=
  (keeps_finish (L := 0x220800cd2d0) rfl (.refl _ s) _ _ _).same .tide rfl
@[simp] theorem finish_recorder : (s.finish q idx reason).recorder = s.recorder :=
  (keeps_finish (L := 0x220800cd2d0) rfl (.refl _ s) _ _ _).same .recorder rfl
@[simp] theorem finish_power : (s.finish q idx reason).power = s.power :=
  (keeps_finish (L := 0x220800cd2d0) rfl (.refl _ s) _ _ _).same .power rfl
@[simp] theorem finish_keep : (s.finish q idx reason).keep = s.keep :=
  (keeps_finish (L := 0x220800cd2d0) rfl (.refl _ s) _ _ _).same .keep rfl
@[simp] theorem finish_lighthouse : (s.finish q idx reason).lighthouse = s.lighthouse :=
  (keeps_finish (L := 0x220800cd2d0) rfl (.refl _ s) _ _ _).same .lighthouse rfl
@[simp] theorem finish_seeds : (s.finish q idx reason).seeds = s.seeds :=
  (keeps_finish (L := 0x220800cd2d0) rfl (.refl _ s) _ _ _).same .seeds rfl
@[simp] theorem finish_freeCount : (s.finish q idx reason).freeCount = s.freeCount :=
  (keeps_finish (L := 0x220800cd2d0) rfl (.refl _ s) _ _ _).same .freeCount rfl
@[simp] theorem finish_pending : (s.finish q idx reason).pending = s.pending :=
  (keeps_finish (L := 0x220800cd2d0) rfl (.refl _ s) _ _ _).same .pending rfl
end

/-! `fail` -/

section
variable (s : State) (q : QueueId) (idx : Word) (reason : BitVec 16)
@[simp] theorem fail_part : (s.fail q idx reason).part = s.part :=
  (keeps_fail (L := 0x2a0800cd2d0) rfl (.refl _ s) _ _ _).same .part rfl
@[simp] theorem fail_secure : (s.fail q idx reason).secure = s.secure :=
  (keeps_fail (L := 0x2a0800cd2d0) rfl (.refl _ s) _ _ _).same .secure rfl
@[simp] theorem fail_boot : (s.fail q idx reason).boot = s.boot :=
  (keeps_fail (L := 0x2a0800cd2d0) rfl (.refl _ s) _ _ _).same .boot rfl
@[simp] theorem fail_env : (s.fail q idx reason).env = s.env :=
  (keeps_fail (L := 0x2a0800cd2d0) rfl (.refl _ s) _ _ _).same .env rfl
@[simp] theorem fail_aer : (s.fail q idx reason).aer = s.aer :=
  (keeps_fail (L := 0x2a0800cd2d0) rfl (.refl _ s) _ _ _).same .aer rfl
@[simp] theorem fail_ready : (s.fail q idx reason).ready = s.ready :=
  (keeps_fail (L := 0x2a0800cd2d0) rfl (.refl _ s) _ _ _).same .ready rfl
@[simp] theorem fail_heart : (s.fail q idx reason).heart = s.heart :=
  (keeps_fail (L := 0x2a0800cd2d0) rfl (.refl _ s) _ _ _).same .heart rfl
@[simp] theorem fail_marks : (s.fail q idx reason).marks = s.marks :=
  (keeps_fail (L := 0x2a0800cd2d0) rfl (.refl _ s) _ _ _).same .marks rfl
@[simp] theorem fail_flags : (s.fail q idx reason).flags = s.flags :=
  (keeps_fail (L := 0x2a0800cd2d0) rfl (.refl _ s) _ _ _).same .flags rfl
@[simp] theorem fail_sched : (s.fail q idx reason).sched = s.sched :=
  (keeps_fail (L := 0x2a0800cd2d0) rfl (.refl _ s) _ _ _).same .sched rfl
@[simp] theorem fail_manifest : (s.fail q idx reason).manifest = s.manifest :=
  (keeps_fail (L := 0x2a0800cd2d0) rfl (.refl _ s) _ _ _).same .manifest rfl
@[simp] theorem fail_harbour : (s.fail q idx reason).harbour = s.harbour :=
  (keeps_fail (L := 0x2a0800cd2d0) rfl (.refl _ s) _ _ _).same .harbour rfl
@[simp] theorem fail_memctl : (s.fail q idx reason).memctl = s.memctl :=
  (keeps_fail (L := 0x2a0800cd2d0) rfl (.refl _ s) _ _ _).same .memctl rfl
@[simp] theorem fail_memhost : (s.fail q idx reason).memhost = s.memhost :=
  (keeps_fail (L := 0x2a0800cd2d0) rfl (.refl _ s) _ _ _).same .memhost rfl
@[simp] theorem fail_portErrs : (s.fail q idx reason).portErrs = s.portErrs :=
  (keeps_fail (L := 0x2a0800cd2d0) rfl (.refl _ s) _ _ _).same .portErrs rfl
@[simp] theorem fail_ports : (s.fail q idx reason).ports = s.ports :=
  (keeps_fail (L := 0x2a0800cd2d0) rfl (.refl _ s) _ _ _).same .ports rfl
@[simp] theorem fail_streams : (s.fail q idx reason).streams = s.streams :=
  (keeps_fail (L := 0x2a0800cd2d0) rfl (.refl _ s) _ _ _).same .streams rfl
@[simp] theorem fail_blanks : (s.fail q idx reason).blanks = s.blanks :=
  (keeps_fail (L := 0x2a0800cd2d0) rfl (.refl _ s) _ _ _).same .blanks rfl
@[simp] theorem fail_trigs : (s.fail q idx reason).trigs = s.trigs :=
  (keeps_fail (L := 0x2a0800cd2d0) rfl (.refl _ s) _ _ _).same .trigs rfl
@[simp] theorem fail_sessions : (s.fail q idx reason).sessions = s.sessions :=
  (keeps_fail (L := 0x2a0800cd2d0) rfl (.refl _ s) _ _ _).same .sessions rfl
@[simp] theorem fail_codecs : (s.fail q idx reason).codecs = s.codecs :=
  (keeps_fail (L := 0x2a0800cd2d0) rfl (.refl _ s) _ _ _).same .codecs rfl
@[simp] theorem fail_deckFaults : (s.fail q idx reason).deckFaults = s.deckFaults :=
  (keeps_fail (L := 0x2a0800cd2d0) rfl (.refl _ s) _ _ _).same .deckFaults rfl
@[simp] theorem fail_deckReduced : (s.fail q idx reason).deckReduced = s.deckReduced :=
  (keeps_fail (L := 0x2a0800cd2d0) rfl (.refl _ s) _ _ _).same .deckReduced rfl
@[simp] theorem fail_tide : (s.fail q idx reason).tide = s.tide :=
  (keeps_fail (L := 0x2a0800cd2d0) rfl (.refl _ s) _ _ _).same .tide rfl
@[simp] theorem fail_recorder : (s.fail q idx reason).recorder = s.recorder :=
  (keeps_fail (L := 0x2a0800cd2d0) rfl (.refl _ s) _ _ _).same .recorder rfl
@[simp] theorem fail_power : (s.fail q idx reason).power = s.power :=
  (keeps_fail (L := 0x2a0800cd2d0) rfl (.refl _ s) _ _ _).same .power rfl
@[simp] theorem fail_keep : (s.fail q idx reason).keep = s.keep :=
  (keeps_fail (L := 0x2a0800cd2d0) rfl (.refl _ s) _ _ _).same .keep rfl
@[simp] theorem fail_lighthouse : (s.fail q idx reason).lighthouse = s.lighthouse :=
  (keeps_fail (L := 0x2a0800cd2d0) rfl (.refl _ s) _ _ _).same .lighthouse rfl
@[simp] theorem fail_freeCount : (s.fail q idx reason).freeCount = s.freeCount :=
  (keeps_fail (L := 0x2a0800cd2d0) rfl (.refl _ s) _ _ _).same .freeCount rfl
@[simp] theorem fail_pending : (s.fail q idx reason).pending = s.pending :=
  (keeps_fail (L := 0x2a0800cd2d0) rfl (.refl _ s) _ _ _).same .pending rfl
end

/-! `record` -/

section
variable (s : State) (kind : Nat) (flags : Nat) (args : List Byte) (payload : List Byte)
@[simp] theorem record_part : (s.record kind flags args payload).part = s.part :=
  (keeps_record (L := 0x22400080210) rfl (.refl _ s) _ _ _ _).same .part rfl
@[simp] theorem record_secure : (s.record kind flags args payload).secure = s.secure :=
  (keeps_record (L := 0x22400080210) rfl (.refl _ s) _ _ _ _).same .secure rfl
@[simp] theorem record_boot : (s.record kind flags args payload).boot = s.boot :=
  (keeps_record (L := 0x22400080210) rfl (.refl _ s) _ _ _ _).same .boot rfl
@[simp] theorem record_env : (s.record kind flags args payload).env = s.env :=
  (keeps_record (L := 0x22400080210) rfl (.refl _ s) _ _ _ _).same .env rfl
@[simp] theorem record_aer : (s.record kind flags args payload).aer = s.aer :=
  (keeps_record (L := 0x22400080210) rfl (.refl _ s) _ _ _ _).same .aer rfl
@[simp] theorem record_hostif : (s.record kind flags args payload).hostif = s.hostif :=
  (keeps_record (L := 0x22400080210) rfl (.refl _ s) _ _ _ _).same .hostif rfl
@[simp] theorem record_ltr : (s.record kind flags args payload).ltr = s.ltr :=
  (keeps_record (L := 0x22400080210) rfl (.refl _ s) _ _ _ _).same .ltr rfl
@[simp] theorem record_ready : (s.record kind flags args payload).ready = s.ready :=
  (keeps_record (L := 0x22400080210) rfl (.refl _ s) _ _ _ _).same .ready rfl
@[simp] theorem record_heart : (s.record kind flags args payload).heart = s.heart :=
  (keeps_record (L := 0x22400080210) rfl (.refl _ s) _ _ _ _).same .heart rfl
@[simp] theorem record_marks : (s.record kind flags args payload).marks = s.marks :=
  (keeps_record (L := 0x22400080210) rfl (.refl _ s) _ _ _ _).same .marks rfl
@[simp] theorem record_queues : (s.record kind flags args payload).queues = s.queues :=
  (keeps_record (L := 0x22400080210) rfl (.refl _ s) _ _ _ _).same .queues rfl
@[simp] theorem record_flags : (s.record kind flags args payload).flags = s.flags :=
  (keeps_record (L := 0x22400080210) rfl (.refl _ s) _ _ _ _).same .flags rfl
@[simp] theorem record_ctxs : (s.record kind flags args payload).ctxs = s.ctxs :=
  (keeps_record (L := 0x22400080210) rfl (.refl _ s) _ _ _ _).same .ctxs rfl
@[simp] theorem record_flights : (s.record kind flags args payload).flights = s.flights :=
  (keeps_record (L := 0x22400080210) rfl (.refl _ s) _ _ _ _).same .flights rfl
@[simp] theorem record_sched : (s.record kind flags args payload).sched = s.sched :=
  (keeps_record (L := 0x22400080210) rfl (.refl _ s) _ _ _ _).same .sched rfl
@[simp] theorem record_manifest : (s.record kind flags args payload).manifest = s.manifest :=
  (keeps_record (L := 0x22400080210) rfl (.refl _ s) _ _ _ _).same .manifest rfl
@[simp] theorem record_quays : (s.record kind flags args payload).quays = s.quays :=
  (keeps_record (L := 0x22400080210) rfl (.refl _ s) _ _ _ _).same .quays rfl
@[simp] theorem record_harbour : (s.record kind flags args payload).harbour = s.harbour :=
  (keeps_record (L := 0x22400080210) rfl (.refl _ s) _ _ _ _).same .harbour rfl
@[simp] theorem record_memctl : (s.record kind flags args payload).memctl = s.memctl :=
  (keeps_record (L := 0x22400080210) rfl (.refl _ s) _ _ _ _).same .memctl rfl
@[simp] theorem record_memhost : (s.record kind flags args payload).memhost = s.memhost :=
  (keeps_record (L := 0x22400080210) rfl (.refl _ s) _ _ _ _).same .memhost rfl
@[simp] theorem record_portErrs : (s.record kind flags args payload).portErrs = s.portErrs :=
  (keeps_record (L := 0x22400080210) rfl (.refl _ s) _ _ _ _).same .portErrs rfl
@[simp] theorem record_ports : (s.record kind flags args payload).ports = s.ports :=
  (keeps_record (L := 0x22400080210) rfl (.refl _ s) _ _ _ _).same .ports rfl
@[simp] theorem record_streams : (s.record kind flags args payload).streams = s.streams :=
  (keeps_record (L := 0x22400080210) rfl (.refl _ s) _ _ _ _).same .streams rfl
@[simp] theorem record_blanks : (s.record kind flags args payload).blanks = s.blanks :=
  (keeps_record (L := 0x22400080210) rfl (.refl _ s) _ _ _ _).same .blanks rfl
@[simp] theorem record_trigs : (s.record kind flags args payload).trigs = s.trigs :=
  (keeps_record (L := 0x22400080210) rfl (.refl _ s) _ _ _ _).same .trigs rfl
@[simp] theorem record_sessions : (s.record kind flags args payload).sessions = s.sessions :=
  (keeps_record (L := 0x22400080210) rfl (.refl _ s) _ _ _ _).same .sessions rfl
@[simp] theorem record_codecs : (s.record kind flags args payload).codecs = s.codecs :=
  (keeps_record (L := 0x22400080210) rfl (.refl _ s) _ _ _ _).same .codecs rfl
@[simp] theorem record_deckFaults : (s.record kind flags args payload).deckFaults = s.deckFaults :=
  (keeps_record (L := 0x22400080210) rfl (.refl _ s) _ _ _ _).same .deckFaults rfl
@[simp] theorem record_deckOwner : (s.record kind flags args payload).deckOwner = s.deckOwner :=
  (keeps_record (L := 0x22400080210) rfl (.refl _ s) _ _ _ _).same .deckOwner rfl
@[simp] theorem record_deckReduced : (s.record kind flags args payload).deckReduced = s.deckReduced :=
  (keeps_record (L := 0x22400080210) rfl (.refl _ s) _ _ _ _).same .deckReduced rfl
@[simp] theorem record_tide : (s.record kind flags args payload).tide = s.tide :=
  (keeps_record (L := 0x22400080210) rfl (.refl _ s) _ _ _ _).same .tide rfl
@[simp] theorem record_power : (s.record kind flags args payload).power = s.power :=
  (keeps_record (L := 0x22400080210) rfl (.refl _ s) _ _ _ _).same .power rfl
@[simp] theorem record_keep : (s.record kind flags args payload).keep = s.keep :=
  (keeps_record (L := 0x22400080210) rfl (.refl _ s) _ _ _ _).same .keep rfl
@[simp] theorem record_lighthouse : (s.record kind flags args payload).lighthouse = s.lighthouse :=
  (keeps_record (L := 0x22400080210) rfl (.refl _ s) _ _ _ _).same .lighthouse rfl
@[simp] theorem record_seeds : (s.record kind flags args payload).seeds = s.seeds :=
  (keeps_record (L := 0x22400080210) rfl (.refl _ s) _ _ _ _).same .seeds rfl
@[simp] theorem record_freeCount : (s.record kind flags args payload).freeCount = s.freeCount :=
  (keeps_record (L := 0x22400080210) rfl (.refl _ s) _ _ _ _).same .freeCount rfl
@[simp] theorem record_pending : (s.record kind flags args payload).pending = s.pending :=
  (keeps_record (L := 0x22400080210) rfl (.refl _ s) _ _ _ _).same .pending rfl
end

end Sys2Proof.Machine
end

