-- ==== Sys2Proof/Laws/KeepsManifest.lean ====
section
/-! SUPPORT. `Keeps` of the operations of ManifestOps, ManifestCmds, FirmwareCmds, LighthouseCmds, StreamCmds, CodecCmds, PowerCmds. -/

namespace Sys2Proof.Machine

theorem keeps_startLoad {L : Nat} {r s : State} (hL : Sub 0xa0200 L) (h : Keeps L r s) :
    Keeps L r (State.startLoad s) := by
  unfold State.startLoad
  try dsimp only
  repeat' first
    | with_reducible assumption | with_reducible apply keepsR_next | with_reducible apply keeps_foldl
    | with_reducible apply keeps_trace | exact within hL rfl | intro _ | split
    | (fail_if_no_progress with_reducible apply keeps_set_manifest (within hL rfl))

theorem keeps_writeManifestCtrl {L : Nat} {r s : State} (hL : Sub 0x220000a0210 L) (h : Keeps L r s)
    (enable : Bool) (perQuay : Bool) (drain : Bool) (quays : Byte) :
    Keeps L r (State.writeManifestCtrl s enable perQuay drain quays) := by
  unfold State.writeManifestCtrl
  try dsimp only
  repeat' first
    | with_reducible assumption | with_reducible apply keepsR_next | with_reducible apply keeps_foldl
    | with_reducible apply keeps_replayDrop | with_reducible apply keeps_note
    | with_reducible apply keeps_startLoad | exact within hL rfl | intro _ | split
    | (fail_if_no_progress with_reducible apply keeps_set_manifest (within hL rfl))

theorem keeps_recordManifest {L : Nat} {r s : State} (hL : Sub 0x22400080210 L) (h : Keeps L r s)
    (code : BitVec 16) :
    Keeps L r (State.recordManifest s code) := by
  unfold State.recordManifest
  try dsimp only
  repeat' first
    | with_reducible assumption | with_reducible apply keepsR_next | with_reducible apply keeps_foldl
    | with_reducible apply keeps_record

theorem keeps_refuseManifest {L : Nat} {r s : State} (hL : Sub 0x224000a0210 L) (h : Keeps L r s)
    (code : BitVec 16) (sec : Byte) (item : BitVec 16) :
    Keeps L r (State.refuseManifest s code sec item) := by
  unfold State.refuseManifest
  try dsimp only
  repeat' first
    | with_reducible assumption | with_reducible apply keepsR_next | with_reducible apply keeps_foldl
    | with_reducible apply keeps_note | with_reducible apply keeps_diverge | exact within hL rfl | intro _
    | split | (fail_if_no_progress with_reducible apply keeps_set_manifest (within hL rfl))

theorem keeps_forgetBut {L : Nat} (hL : Sub 0x8000080000 L) (x1 : Nat) :
    ∀ {r s : State} (_ : Keeps L r s) (keep : List (Nat × Nat)) (x2 : Nat) (x3 : Nat), Keeps L r (State.forgetBut keep x1 x2 x3 s) := by
  induction x1 with
  | zero =>
    intro r s h keep x2 x3
    unfold State.forgetBut
    try dsimp only
    repeat' first
    | with_reducible assumption
  | succ x1 ih =>
    intro r s h keep x2 x3
    unfold State.forgetBut
    try dsimp only
    repeat' first
      | with_reducible assumption | with_reducible apply keepsR_next | with_reducible apply keeps_foldl
      | with_reducible apply keeps_State_forget | with_reducible apply keeps_State_forget
      | with_reducible apply ih | exact within hL rfl | intro _ | split

theorem keeps_remap {L : Nat} {r s : State} (hL : Sub 0x80002a0000 L) (h : Keeps L r s) :
    Keeps L r (State.remap s) := by
  unfold State.remap
  try dsimp only
  repeat' first
    | with_reducible assumption | with_reducible apply keepsR_next | with_reducible apply keeps_foldl
    | with_reducible apply keeps_forgetBut | exact within hL rfl | intro _ | split
    | (fail_if_no_progress with_reducible apply keeps_set_manifest_memctl (within hL rfl))

theorem keeps_lockRegions {L : Nat} {r s : State} (hL : Sub 0x400000 L) (h : Keeps L r s)
    (old : List LockedRegion) (fresh : List LockedRegion) :
    Keeps L r (State.lockRegions s old fresh) := by
  unfold State.lockRegions
  try dsimp only
  repeat' first
    | with_reducible assumption | with_reducible apply keepsR_next | with_reducible apply keeps_foldl
    | exact within hL rfl | intro _ | split
    | (fail_if_no_progress with_reducible apply keeps_set_memhost (within hL rfl))

theorem keeps_switchStream {L : Nat} {r s : State} (hL : Sub 0x2000000 L) (h : Keeps L r s)
    (new : Option StreamDef) (i : SctxId) :
    Keeps L r (State.switchStream s new i) := by
  unfold State.switchStream
  try dsimp only
  repeat' first
    | with_reducible assumption | with_reducible apply keepsR_next | with_reducible apply keeps_foldl
    | with_reducible apply keeps_endBinding | with_reducible apply keeps_updStream | exact within hL rfl
    | intro _ | split

theorem keeps_programTriggers {L : Nat} {r s : State} (hL : Sub 0x22008080210 L) (h : Keeps L r s)
    (ts : List (Nat × Trigger)) :
    Keeps L r (State.programTriggers s ts) := by
  unfold State.programTriggers
  try dsimp only
  repeat' first
    | with_reducible assumption | with_reducible apply keepsR_next | with_reducible apply keeps_foldl
    | with_reducible apply keeps_note | exact within hL rfl | intro _ | split
    | (fail_if_no_progress with_reducible apply keeps_set_trigs (within hL rfl))

theorem keeps_restartLoss {L : Nat} {r s : State} (hL : Sub 0x1000000 L) (h : Keeps L r s) (p : Nat) :
    Keeps L r (State.restartLoss s p) := by
  unfold State.restartLoss
  try dsimp only
  repeat' first
    | with_reducible assumption | with_reducible apply keepsR_next | with_reducible apply keeps_foldl
    | with_reducible apply keeps_updPort | exact within hL rfl | intro _ | split

theorem keeps_applyDevice {L : Nat} {r s : State} (hL : Sub 0x2200b4a0210 L) (h : Keeps L r s)
    (d : DeviceSection) :
    Keeps L r (State.applyDevice s d) := by
  unfold State.applyDevice
  try dsimp only
  repeat' first
    | with_reducible assumption | with_reducible apply keepsR_next | with_reducible apply keeps_foldl
    | with_reducible apply keeps_lockRegions | with_reducible apply keeps_switchStream
    | with_reducible apply keeps_programTriggers | with_reducible apply keeps_restartLoss | exact within hL rfl
    | intro _ | split | (fail_if_no_progress with_reducible apply keeps_set_manifest (within hL rfl))

theorem keeps_endLoad {L : Nat} {r s : State} (hL : Sub 0x2a00b6a0210 L) (h : Keeps L r s) :
    Keeps L r (State.endLoad s) := by
  unfold State.endLoad
  try dsimp only
  repeat' first
    | with_reducible assumption | with_reducible apply keepsR_next | with_reducible apply keeps_foldl
    | with_reducible apply keeps_remap | with_reducible apply keeps_applyDevice | exact within hL rfl | intro _
    | split | (fail_if_no_progress with_reducible apply keeps_set_manifest (within hL rfl))

theorem keeps_acceptManifest {L : Nat} {r s : State} (hL : Sub 0x2a08b6ec210 L) (h : Keeps L r s)
    (l : Load) (m : ManifestImage) :
    Keeps L r (State.acceptManifest s l m) := by
  unfold State.acceptManifest
  try dsimp only
  repeat' first
    | with_reducible assumption | with_reducible apply keepsR_next | with_reducible apply keeps_foldl
    | with_reducible apply keeps_preemptFlight | with_reducible apply keeps_endLoad | exact within hL rfl
    | intro _ | split
    | (fail_if_no_progress with_reducible apply keeps_set_manifest_quays_memctl (within hL rfl))

theorem keeps_applyQuay {L : Nat} {r s : State} (hL : Sub 0x2a6802ed2d0 L) (h : Keeps L r s) (q : QuayId) :
    Keeps L r (State.applyQuay s q) := by
  unfold State.applyQuay
  try dsimp only
  repeat' first
    | with_reducible assumption | with_reducible apply keepsR_next | with_reducible apply keeps_foldl
    | with_reducible apply keeps_remap | with_reducible apply keeps_trace | with_reducible apply keeps_updQuay
    | with_reducible apply keeps_releaseQuayReset | exact within hL rfl | intro _ | split
    | (fail_if_no_progress with_reducible apply keeps_set_manifest (within hL rfl))

theorem keeps_execManifestEnable {L : Nat} {r s : State} (hL : Sub 0x220002a0298 L) (h : Keeps L r s)
    (perQuay : Bool) (drain : Bool) (quays : BitVec 8) :
    KeepsR L r (execManifestEnable perQuay drain quays s) := by
  unfold execManifestEnable
  try dsimp only
  repeat' first
    | with_reducible assumption | with_reducible apply keepsR_next | with_reducible apply keeps_foldl
    | with_reducible apply keeps_wakeSlack | with_reducible apply keeps_writeManifestCtrl | exact within hL rfl
    | intro _ | split

theorem keeps_execManifestCheck {L : Nat} {r s : State} (hL : Sub 0x2a48b6ec210 L) (h : Keeps L r s)
    (image : ManifestImage) :
    KeepsR L r (execManifestCheck image s) := by
  unfold execManifestCheck
  try dsimp only
  repeat' first
    | with_reducible assumption | with_reducible apply keepsR_next | with_reducible apply keeps_foldl
    | with_reducible apply keeps_trace | with_reducible apply keeps_recordManifest
    | with_reducible apply keeps_acceptManifest | with_reducible apply keeps_refuseManifest
    | exact within hL rfl | intro _ | split

theorem keeps_execManifestQuayApply {L : Nat} {r s : State} (hL : Sub 0x2a68b6ed2d0 L) (h : Keeps L r s)
    (q : QuayId) :
    KeepsR L r (execManifestQuayApply q s) := by
  unfold execManifestQuayApply
  try dsimp only
  repeat' first
    | with_reducible assumption | with_reducible apply keepsR_next | with_reducible apply keeps_foldl
    | with_reducible apply keeps_applyQuay | with_reducible apply keeps_endLoad | exact within hL rfl | intro _
    | split

theorem keeps_takeUnit {L : Nat} {r s : State} (hL : Sub 0x480000 L) (h : Keeps L r s) (u : Fin 64) :
    Keeps L r (s.takeUnit u) := by
  unfold State.takeUnit
  split
  · exact h
  · refine keeps_set_mem_memhost (within hL rfl) h fun w => ?_
    exact Memory.wf_dropLines (Memory.wf_unpoison (Memory.wf_clear w _ _) _ _) _

theorem keeps_execLockedRegionEffect {L : Nat} {r s : State} (hL : Sub 0x480000 L) (h : Keeps L r s) (unit : Fin 64) :
    KeepsR L r (execLockedRegionEffect unit s) := by
  unfold execLockedRegionEffect
  dsimp only
  split
  · exact keepsR_next h
  · split
    · exact keepsR_next h
    · exact keepsR_next (keeps_foldl h fun _ _ hx => keeps_takeUnit (within hL rfl) hx _)

theorem keeps_execTriggerFire {L : Nat} {r s : State} (hL : Sub 0x20208000000 L) (h : Keeps L r s)
    (n : TrigId) :
    KeepsR L r (execTriggerFire n s) := by
  unfold execTriggerFire
  try dsimp only
  repeat' first
    | with_reducible assumption | with_reducible apply keepsR_next | with_reducible apply keeps_foldl
    | with_reducible apply keeps_advanceTo | with_reducible apply keeps_send | exact within hL rfl | intro _
    | split | (fail_if_no_progress with_reducible apply keeps_set_trigs (within hL rfl))

theorem keeps_onFrame {L : Nat} {r s : State} (hL : Sub 0x2000000 L) (h : Keeps L r s)
    (i : SctxId) (g : SctxId → Frame → Frame) :
    Keeps L r (State.onFrame s i g) := by
  unfold State.onFrame
  try dsimp only
  repeat' first
    | with_reducible assumption | with_reducible apply keepsR_next | with_reducible apply keeps_foldl
    | with_reducible apply keeps_updStream | exact within hL rfl | intro _

theorem keeps_tearAll {L : Nat} {r s : State} (hL : Sub 0x2000000 L) (h : Keeps L r s)
    (i : SctxId) (bit : Nat) :
    Keeps L r (State.tearAll s i bit) := by
  unfold State.tearAll
  try dsimp only
  repeat' first
    | with_reducible assumption | with_reducible apply keepsR_next | with_reducible apply keeps_foldl
    | with_reducible apply keeps_onFrame

theorem keeps_portInFrame {L : Nat} {r s : State} (hL : Sub 0x1000000 L) (h : Keeps L r s) (p : PortId) :
    Keeps L r (State.portInFrame s p) := by
  unfold State.portInFrame
  try dsimp only
  repeat' first
    | with_reducible assumption | with_reducible apply keepsR_next | with_reducible apply keeps_foldl
    | with_reducible apply keeps_updPort

theorem keeps_noteHeaderEcc {L : Nat} {r s : State} (hL : Sub 0x22000880a10 L) (h : Keeps L r s) (p : PortId) :
    Keeps L r (State.noteHeaderEcc s p) := by
  unfold State.noteHeaderEcc
  try dsimp only
  repeat' first
    | with_reducible assumption | with_reducible apply keepsR_next | with_reducible apply keeps_foldl
    | with_reducible apply keeps_reportLimited | exact within hL rfl | intro _ | split
    | (fail_if_no_progress with_reducible apply keeps_set_portErrs (within hL rfl))

theorem keeps_tearFed {L : Nat} {r s : State} (hL : Sub 0x2000000 L) (h : Keeps L r s)
    (frame : Option (SctxId × Fin 3)) (bit : Nat) :
    Keeps L r (State.tearFed s frame bit) := by
  unfold State.tearFed
  try dsimp only
  repeat' first
    | with_reducible assumption | with_reducible apply keepsR_next | with_reducible apply keeps_foldl
    | with_reducible apply keeps_tearAll | exact within hL rfl | intro _ | split

theorem keeps_headerSeen {L : Nat} {r s : State} (hL : Sub 0x22000880a10 L) (h : Keeps L r s)
    (p : PortId) (ecc : EccResult) :
    Keeps L r (State.headerSeen s p ecc) := by
  unfold State.headerSeen
  try dsimp only
  repeat' first
    | with_reducible assumption | with_reducible apply keepsR_next | with_reducible apply keeps_foldl
    | with_reducible apply keeps_noteHeaderEcc | exact within hL rfl | intro _ | split

theorem keeps_execCsiFrameStart {L : Nat} {r s : State} (hL : Sub 0x22437880a90 L) (h : Keeps L r s)
    (p : PortId) (vc : Fin 32) (frameNo : BitVec 16) (ecc : EccResult) :
    KeepsR L r (execCsiFrameStart p vc frameNo ecc s) := by
  unfold execCsiFrameStart
  try dsimp only
  repeat' first
    | with_reducible assumption | with_reducible apply keepsR_next | with_reducible apply keeps_foldl
    | with_reducible apply keeps_updPort | with_reducible apply keeps_headerSeen
    | with_reducible apply keeps_tearAll | with_reducible apply keeps_onFrame
    | with_reducible apply keeps_tearFed | with_reducible apply keeps_startFrame
    | with_reducible apply keeps_reportLimited | with_reducible apply keeps_ltrUpdate | exact within hL rfl
    | intro _ | split

theorem keeps_noteCrc {L : Nat} {r s : State} (hL : Sub 0x800000 L) (h : Keeps L r s) (p : PortId) :
    Keeps L r (State.noteCrc s p) := by
  unfold State.noteCrc
  try dsimp only
  repeat' first
    | with_reducible assumption | with_reducible apply keepsR_next | with_reducible apply keeps_foldl
    | exact within hL rfl | intro _ | split
    | (fail_if_no_progress with_reducible apply keeps_set_portErrs (within hL rfl))

theorem keeps_takeLine {L : Nat} {r s : State} (hL : Sub 0x22002080210 L) (h : Keeps L r s)
    (i : SctxId) (e : Fin 3) (pixels : Nat) (line : List Byte) (fifoOverflow : Bool) :
    Keeps L r (State.takeLine s i e pixels line fifoOverflow) := by
  unfold State.takeLine
  try dsimp only
  repeat' first
    | with_reducible assumption | with_reducible apply keepsR_next | with_reducible apply keeps_foldl
    | with_reducible apply keeps_note | with_reducible apply keeps_tearAll | with_reducible apply keeps_onFrame
    | exact within hL rfl | intro _ | split

theorem keeps_execCsiLongPacket {L : Nat} {r s : State} (hL : Sub 0x22002880a10 L) (h : Keeps L r s)
    (p : PortId) (vc : Fin 32) (dataType : Byte) (ecc : EccResult) (crcOk : Bool) (pixels : Nat) (line : List Byte) (fifoOverflow : Bool) :
    KeepsR L r (execCsiLongPacket p vc dataType ecc crcOk pixels line fifoOverflow s) := by
  unfold execCsiLongPacket
  try dsimp only
  repeat' first
    | with_reducible assumption | with_reducible apply keepsR_next | with_reducible apply keeps_foldl
    | with_reducible apply keeps_tearFed | with_reducible apply keeps_headerSeen
    | with_reducible apply keeps_takeLine | with_reducible apply keeps_noteCrc | exact within hL rfl | intro _
    | split

theorem keeps_execCsiFrameEnd {L : Nat} {r s : State} (hL : Sub 0x22403880a10 L) (h : Keeps L r s)
    (p : PortId) (vc : Fin 32) (ecc : EccResult) :
    KeepsR L r (execCsiFrameEnd p vc ecc s) := by
  unfold execCsiFrameEnd
  try dsimp only
  repeat' first
    | with_reducible assumption | with_reducible apply keepsR_next | with_reducible apply keeps_foldl
    | with_reducible apply keeps_updPort | with_reducible apply keeps_endFrame
    | with_reducible apply keeps_headerSeen | with_reducible apply keeps_tearAll
    | with_reducible apply keeps_onFrame | with_reducible apply keeps_tearFed
    | with_reducible apply keeps_portInFrame | exact within hL rfl | intro _ | split

theorem keeps_execCsiPhyError {L : Nat} {r s : State} (hL : Sub 0x2000000 L) (h : Keeps L r s) (p : PortId) :
    KeepsR L r (execCsiPhyError p s) := by
  unfold execCsiPhyError
  try dsimp only
  repeat' first
    | with_reducible assumption | with_reducible apply keepsR_next | with_reducible apply keeps_foldl
    | with_reducible apply keeps_tear | exact within hL rfl | intro _ | split

theorem keeps_execFramePeriodExpiry {L : Nat} {r s : State} (hL : Sub 0x22403080a90 L) (h : Keeps L r s)
    (p : PortId) :
    KeepsR L r (execFramePeriodExpiry p s) := by
  unfold execFramePeriodExpiry
  try dsimp only
  repeat' first
    | with_reducible assumption | with_reducible apply keepsR_next | with_reducible apply keeps_foldl
    | with_reducible apply keeps_updPort | with_reducible apply keeps_endFrame | with_reducible apply keeps_tear
    | with_reducible apply keeps_report | with_reducible apply keeps_ltrUpdate
    | with_reducible apply keeps_emptyPipe | with_reducible apply keeps_updStream | exact within hL rfl
    | intro _ | split

theorem keeps_writePortCtrl {L : Nat} {r s : State} (hL : Sub 0x22403080a90 L) (h : Keeps L r s)
    (p : PortId) (lossFrames : Byte) (present : Bool) :
    Keeps L r (State.writePortCtrl s p lossFrames present) := by
  unfold State.writePortCtrl
  try dsimp only
  repeat' first
    | with_reducible assumption | with_reducible apply keepsR_next | with_reducible apply keeps_foldl
    | with_reducible apply keeps_updPort | with_reducible apply keeps_noteReserved
    | with_reducible apply keeps_endFrame | with_reducible apply keeps_tear | with_reducible apply keeps_note
    | with_reducible apply keeps_endBinding | with_reducible apply keeps_ltrUpdate
    | with_reducible apply keeps_updStream | exact within hL rfl | intro _ | split

theorem keeps_execCsiDeclare {L : Nat} {r s : State} (hL : Sub 0x22403280a98 L) (h : Keeps L r s)
    (p : PortId) (lossFrames : Byte) :
    KeepsR L r (execCsiDeclare p lossFrames s) := by
  unfold execCsiDeclare
  try dsimp only
  repeat' first
    | with_reducible assumption | with_reducible apply keepsR_next | with_reducible apply keeps_foldl
    | with_reducible apply keeps_writePortCtrl | with_reducible apply keeps_wakeSlack | exact within hL rfl
    | intro _ | split

theorem keeps_execCsiUndeclare {L : Nat} {r s : State} (hL : Sub 0x22403280a98 L) (h : Keeps L r s)
    (p : PortId) (lossFrames : Byte) :
    KeepsR L r (execCsiUndeclare p lossFrames s) := by
  unfold execCsiUndeclare
  try dsimp only
  repeat' first
    | with_reducible assumption | with_reducible apply keepsR_next | with_reducible apply keeps_foldl
    | with_reducible apply keeps_writePortCtrl | with_reducible apply keeps_wakeSlack | exact within hL rfl
    | intro _ | split

theorem keeps_writePortCfg {L : Nat} {r s : State} (hL : Sub 0x22001080210 L) (h : Keeps L r s)
    (p : PortId) (v : Nat) :
    Keeps L r (State.writePortCfg s p v) := by
  unfold State.writePortCfg
  try dsimp only
  repeat' first
    | with_reducible assumption | with_reducible apply keepsR_next | with_reducible apply keeps_foldl
    | with_reducible apply keeps_note | with_reducible apply keeps_updPort
    | with_reducible apply keeps_noteReserved | exact within hL rfl | intro _ | split

theorem keeps_execCsiPortCfgWrite {L : Nat} {r s : State} (hL : Sub 0x22001280298 L) (h : Keeps L r s)
    (p : PortId) (value : Word) :
    KeepsR L r (execCsiPortCfgWrite p value s) := by
  unfold execCsiPortCfgWrite
  try dsimp only
  repeat' first
    | with_reducible assumption | with_reducible apply keepsR_next | with_reducible apply keeps_foldl
    | with_reducible apply keeps_wakeSlack | with_reducible apply keeps_writePortCfg | exact within hL rfl
    | intro _ | split

theorem keeps_execCsiUlpsEntry {L : Nat} {r s : State} (hL : Sub 0x1000000 L) (h : Keeps L r s) (p : PortId) :
    KeepsR L r (execCsiUlpsEntry p s) := by
  unfold execCsiUlpsEntry
  try dsimp only
  repeat' first
    | with_reducible assumption | with_reducible apply keepsR_next | with_reducible apply keeps_foldl
    | with_reducible apply keeps_updPort | exact within hL rfl | intro _ | split

theorem keeps_execCsiUlpsExit {L : Nat} {r s : State} (hL : Sub 0x1000000 L) (h : Keeps L r s) (p : PortId) :
    KeepsR L r (execCsiUlpsExit p s) := by
  unfold execCsiUlpsExit
  try dsimp only
  repeat' first
    | with_reducible assumption | with_reducible apply keepsR_next | with_reducible apply keeps_foldl
    | with_reducible apply keeps_updPort | exact within hL rfl | intro _ | split

theorem keeps_execPipeFrameComplete {L : Nat} {r s : State} (hL : Sub 0x224920cfad0 L) (h : Keeps L r s)
    (i : SctxId) :
    KeepsR L r (execPipeFrameComplete i s) := by
  unfold execPipeFrameComplete
  try dsimp only
  repeat' first
    | with_reducible assumption | with_reducible apply keepsR_next | with_reducible apply keeps_foldl
    | with_reducible apply keeps_ltrUpdate | with_reducible apply keeps_completeFrame | exact within hL rfl
    | intro _ | split

theorem keeps_blank {L : Nat} {r s : State} (hL : Sub 0x22406080210 L) (h : Keeps L r s)
    (i : SctxId) (outLine : BitVec 16) (branchLines : List (SctxId × BitVec 16)) :
    Keeps L r (State.blank s i outLine branchLines) := by
  unfold State.blank
  try dsimp only
  repeat' first
    | with_reducible assumption | with_reducible apply keepsR_next | with_reducible apply keeps_foldl
    | with_reducible apply keeps_record | with_reducible apply keeps_trace
    | with_reducible apply keeps_updStream | exact within hL rfl | intro _ | split
    | (fail_if_no_progress with_reducible apply keeps_set_blanks (within hL rfl))

theorem keeps_applyUnblank {L : Nat} {r s : State} (hL : Sub 0x22404080210 L) (h : Keeps L r s) (i : SctxId) :
    Keeps L r (State.applyUnblank s i) := by
  unfold State.applyUnblank
  try dsimp only
  repeat' first
    | with_reducible assumption | with_reducible apply keepsR_next | with_reducible apply keeps_foldl
    | with_reducible apply keeps_record | exact within hL rfl | intro _ | split
    | (fail_if_no_progress with_reducible apply keeps_set_blanks (within hL rfl))

theorem keeps_unblank {L : Nat} {r s : State} (hL : Sub 0x22404080210 L) (h : Keeps L r s) (i : SctxId) :
    Keeps L r (State.unblank s i) := by
  unfold State.unblank
  try dsimp only
  repeat' first
    | with_reducible assumption | with_reducible apply keepsR_next | with_reducible apply keeps_foldl
    | with_reducible apply keeps_applyUnblank | with_reducible apply keeps_replayDrop | exact within hL rfl
    | intro _ | split

theorem keeps_execStreamBlank {L : Nat} {r s : State} (hL : Sub 0x22406280298 L) (h : Keeps L r s)
    (i : SctxId) (outLine : BitVec 16) (branchLines : List (SctxId × BitVec 16)) :
    KeepsR L r (execStreamBlank i outLine branchLines s) := by
  unfold execStreamBlank
  try dsimp only
  repeat' first
    | with_reducible assumption | with_reducible apply keepsR_next | with_reducible apply keeps_foldl
    | with_reducible apply keeps_wakeSlack | with_reducible apply keeps_blank | exact within hL rfl | intro _
    | split

theorem keeps_execStreamUnblank {L : Nat} {r s : State} (hL : Sub 0x22404280298 L) (h : Keeps L r s)
    (i : SctxId) :
    KeepsR L r (execStreamUnblank i s) := by
  unfold execStreamUnblank
  try dsimp only
  repeat' first
    | with_reducible assumption | with_reducible apply keepsR_next | with_reducible apply keeps_foldl
    | with_reducible apply keeps_wakeSlack | with_reducible apply keeps_unblank | exact within hL rfl | intro _
    | split

theorem keeps_writeFeedGo {L : Nat} {r s : State} (hL : Sub 0x22436080a90 L) (h : Keeps L r s) (i : SctxId) :
    Keeps L r (State.writeFeedGo s i) := by
  unfold State.writeFeedGo
  try dsimp only
  repeat' first
    | with_reducible assumption | with_reducible apply keepsR_next | with_reducible apply keeps_foldl
    | with_reducible apply keeps_note | with_reducible apply keeps_startFrame
    | with_reducible apply keeps_ltrUpdate | with_reducible apply keeps_updStream
    | with_reducible apply keeps_replayDrop | exact within hL rfl | intro _ | split

theorem keeps_execFeedGo {L : Nat} {r s : State} (hL : Sub 0x22436280a98 L) (h : Keeps L r s) (i : SctxId) :
    KeepsR L r (execFeedGo i s) := by
  unfold execFeedGo
  try dsimp only
  repeat' first
    | with_reducible assumption | with_reducible apply keepsR_next | with_reducible apply keeps_foldl
    | with_reducible apply keeps_wakeSlack | with_reducible apply keeps_writeFeedGo | exact within hL rfl
    | intro _ | split

theorem keeps_execFeedDone {L : Nat} {r s : State} (hL : Sub 0x22402080a10 L) (h : Keeps L r s) (i : SctxId) :
    KeepsR L r (execFeedDone i s) := by
  unfold execFeedDone
  try dsimp only
  repeat' first
    | with_reducible assumption | with_reducible apply keepsR_next | with_reducible apply keeps_foldl
    | with_reducible apply keeps_record | with_reducible apply keeps_endFrame
    | with_reducible apply keeps_onFrame | with_reducible apply keeps_updStream | exact within hL rfl | intro _
    | split

theorem keeps_refuseSession {L : Nat} {r s : State} (hL : Sub 0x22010080210 L) (h : Keeps L r s)
    (n : SessId) (code : BitVec 16) :
    Keeps L r (State.refuseSession s n code) := by
  unfold State.refuseSession
  try dsimp only
  repeat' first
    | with_reducible assumption | with_reducible apply keepsR_next | with_reducible apply keeps_foldl
    | with_reducible apply keeps_note | with_reducible apply keeps_updSession | exact within hL rfl

theorem keeps_enableSession {L : Nat} {r s : State} (hL : Sub 0x22010080210 L) (h : Keeps L r s) (n : SessId) :
    Keeps L r (State.enableSession s n) := by
  unfold State.enableSession
  try dsimp only
  repeat' first
    | with_reducible assumption | with_reducible apply keepsR_next | with_reducible apply keeps_foldl
    | with_reducible apply keeps_note | with_reducible apply keeps_updSession
    | with_reducible apply keeps_refuseSession | exact within hL rfl | intro _ | split

theorem keeps_disableSession {L : Nat} {r s : State} (hL : Sub 0x30000000 L) (h : Keeps L r s) (n : SessId) :
    Keeps L r (State.disableSession s n) := by
  unfold State.disableSession
  try dsimp only
  repeat' first
    | with_reducible assumption | with_reducible apply keepsR_next | with_reducible apply keeps_foldl
    | with_reducible apply keeps_stopSession | exact within hL rfl | intro _ | split

theorem keeps_writeForceKey {L : Nat} {r s : State} (hL : Sub 0x10000000 L) (h : Keeps L r s) (n : SessId) :
    Keeps L r (State.writeForceKey s n) := by
  unfold State.writeForceKey
  try dsimp only
  repeat' first
    | with_reducible assumption | with_reducible apply keepsR_next | with_reducible apply keeps_foldl
    | with_reducible apply keeps_updSession | exact within hL rfl | intro _ | split

theorem keeps_writeCodecGo {L : Nat} {r s : State} (hL : Sub 0x22010080210 L) (h : Keeps L r s) (n : SessId) :
    Keeps L r (State.writeCodecGo s n) := by
  unfold State.writeCodecGo
  try dsimp only
  repeat' first
    | with_reducible assumption | with_reducible apply keepsR_next | with_reducible apply keeps_foldl
    | with_reducible apply keeps_note | with_reducible apply keeps_updSession
    | with_reducible apply keeps_replayDrop | exact within hL rfl | intro _ | split

theorem keeps_execCodecSessionEnable {L : Nat} {r s : State} (hL : Sub 0x22010280298 L) (h : Keeps L r s)
    (n : SessId) :
    KeepsR L r (execCodecSessionEnable n s) := by
  unfold execCodecSessionEnable
  try dsimp only
  repeat' first
    | with_reducible assumption | with_reducible apply keepsR_next | with_reducible apply keeps_foldl
    | with_reducible apply keeps_enableSession | with_reducible apply keeps_wakeSlack | exact within hL rfl
    | intro _ | split

theorem keeps_execCodecSessionDisable {L : Nat} {r s : State} (hL : Sub 0x20030200088 L) (h : Keeps L r s)
    (n : SessId) :
    KeepsR L r (execCodecSessionDisable n s) := by
  unfold execCodecSessionDisable
  try dsimp only
  repeat' first
    | with_reducible assumption | with_reducible apply keepsR_next | with_reducible apply keeps_foldl
    | with_reducible apply keeps_wakeSlack | with_reducible apply keeps_disableSession | exact within hL rfl
    | intro _ | split

theorem keeps_execForceKey {L : Nat} {r s : State} (hL : Sub 0x20010200088 L) (h : Keeps L r s) (n : SessId) :
    KeepsR L r (execForceKey n s) := by
  unfold execForceKey
  try dsimp only
  repeat' first
    | with_reducible assumption | with_reducible apply keepsR_next | with_reducible apply keeps_foldl
    | with_reducible apply keeps_wakeSlack | with_reducible apply keeps_writeForceKey | exact within hL rfl
    | intro _ | split

theorem keeps_execCodecFeedGo {L : Nat} {r s : State} (hL : Sub 0x22010280298 L) (h : Keeps L r s)
    (n : SessId) :
    KeepsR L r (execCodecFeedGo n s) := by
  unfold execCodecFeedGo
  try dsimp only
  repeat' first
    | with_reducible assumption | with_reducible apply keepsR_next | with_reducible apply keeps_foldl
    | with_reducible apply keeps_writeCodecGo | with_reducible apply keeps_wakeSlack | exact within hL rfl
    | intro _ | split

theorem keeps_setBusy {L : Nat} {r s : State} (hL : Sub 0x20000000 L) (h : Keeps L r s) (u : Nat) (b : Bool) :
    Keeps L r (State.setBusy s u b) := by
  unfold State.setBusy
  try dsimp only
  repeat' first
    | with_reducible assumption | with_reducible apply keepsR_next | with_reducible apply keeps_foldl
    | exact within hL rfl | intro _ | split
    | (fail_if_no_progress with_reducible apply keeps_set_codecs (within hL rfl))

theorem keeps_noteUnit {L : Nat} {r s : State} (hL : Sub 0x10000000 L) (h : Keeps L r s)
    (n : SessId) (taken : Bool) :
    Keeps L r (State.noteUnit s n taken) := by
  unfold State.noteUnit
  try dsimp only
  repeat' first
    | with_reducible assumption | with_reducible apply keepsR_next | with_reducible apply keeps_foldl
    | with_reducible apply keeps_updSession

theorem keeps_dropUnit {L : Nat} {r s : State} (hL : Sub 0x10000000 L) (h : Keeps L r s) (n : SessId) :
    Keeps L r (State.dropUnit s n) := by
  unfold State.dropUnit
  try dsimp only
  repeat' first
    | with_reducible assumption | with_reducible apply keepsR_next | with_reducible apply keeps_foldl
    | with_reducible apply keeps_noteUnit | with_reducible apply keeps_updSession

theorem keeps_takeUnitOf {L : Nat} {r s : State} (hL : Sub 0x30000000 L) (h : Keeps L r s)
    (n : SessId) (src : SrcFrame) :
    Keeps L r (State.takeUnitOf s n src) := by
  unfold State.takeUnitOf
  try dsimp only
  repeat' first
    | with_reducible assumption | with_reducible apply keepsR_next | with_reducible apply keeps_foldl
    | with_reducible apply keeps_noteUnit | with_reducible apply keeps_setBusy
    | with_reducible apply keeps_updSession | exact within hL rfl

theorem keeps_execCodecFrameStart {L : Nat} {r s : State} (hL : Sub 0x22030080210 L) (h : Keeps L r s)
    (n : SessId) (found : CodecStart) :
    KeepsR L r (execCodecFrameStart n found s) := by
  unfold execCodecFrameStart
  try dsimp only
  repeat' first
    | with_reducible assumption | with_reducible apply keepsR_next | with_reducible apply keeps_foldl
    | with_reducible apply keeps_setBusy | with_reducible apply keeps_takeUnitOf
    | with_reducible apply keeps_dropUnit | with_reducible apply keeps_updSession
    | with_reducible apply keeps_report | exact within hL rfl | intro _ | split

theorem keeps_endCoding {L : Nat} {r s : State} (hL : Sub 0x30000000 L) (h : Keeps L r s)
    (n : SessId) (d : SessDesc) (src : SrcFrame) (last : Bool) :
    Keeps L r (State.endCoding s n d src last) := by
  unfold State.endCoding
  try dsimp only
  repeat' first
    | with_reducible assumption | with_reducible apply keepsR_next | with_reducible apply keeps_foldl
    | with_reducible apply keeps_setBusy | with_reducible apply keeps_updSession
    | with_reducible apply keeps_noteCoded | exact within hL rfl | intro _ | split

theorem keeps_unitDecoded {L : Nat} {r s : State} (hL : Sub 0x30000000 L) (h : Keeps L r s)
    (n : SessId) (d : SessDesc) :
    Keeps L r (State.unitDecoded s n d) := by
  unfold State.unitDecoded
  try dsimp only
  repeat' first
    | with_reducible assumption | with_reducible apply keepsR_next | with_reducible apply keeps_foldl
    | with_reducible apply keeps_setBusy | with_reducible apply keeps_updSession | exact within hL rfl | intro _
    | split

theorem keeps_frameShown {L : Nat} {r s : State} (hL : Sub 0x220900cf2d0 L) (h : Keeps L r s)
    (n : SessId) (d : SessDesc) :
    Keeps L r (State.frameShown s n d) := by
  unfold State.frameShown
  try dsimp only
  repeat' first
    | with_reducible assumption | with_reducible apply keepsR_next | with_reducible apply keeps_foldl
    | with_reducible apply keeps_updSession | with_reducible apply keeps_note
    | with_reducible apply keeps_abandonRecord | with_reducible apply keeps_codecRecord
    | with_reducible apply keeps_updMem_store | with_reducible apply keeps_updMem | exact within hL rfl
    | intro _ | split

theorem keeps_chunkCoded {L : Nat} {r s : State} (hL : Sub 0x220b00cf2d0 L) (h : Keeps L r s)
    (n : SessId) (d : SessDesc) (src : SrcFrame) :
    Keeps L r (State.chunkCoded s n d src) := by
  unfold State.chunkCoded
  try dsimp only
  repeat' first
    | with_reducible assumption | with_reducible apply keepsR_next | with_reducible apply keeps_foldl
    | with_reducible apply keeps_endCoding | with_reducible apply keeps_updSession
    | with_reducible apply keeps_note | with_reducible apply keeps_codecRecord
    | with_reducible apply keeps_updMem_store | with_reducible apply keeps_updMem
    | with_reducible apply keeps_abandonFrame | exact within hL rfl | intro _ | split

theorem keeps_execCodecChunkDone {L : Nat} {r s : State} (hL : Sub 0x220b00cf2d0 L) (h : Keeps L r s)
    (n : SessId) :
    KeepsR L r (execCodecChunkDone n s) := by
  unfold execCodecChunkDone
  try dsimp only
  repeat' first
    | with_reducible assumption | with_reducible apply keepsR_next | with_reducible apply keeps_foldl
    | with_reducible apply keeps_frameShown | with_reducible apply keeps_unitDecoded
    | with_reducible apply keeps_chunkCoded | exact within hL rfl | intro _ | split

theorem keeps_execCodecFeedDone {L : Nat} {r s : State} (hL : Sub 0x22410080210 L) (h : Keeps L r s)
    (n : SessId) :
    KeepsR L r (execCodecFeedDone n s) := by
  unfold execCodecFeedDone
  try dsimp only
  repeat' first
    | with_reducible assumption | with_reducible apply keepsR_next | with_reducible apply keeps_foldl
    | with_reducible apply keeps_record | with_reducible apply keeps_updSession | exact within hL rfl | intro _
    | split

theorem keeps_refuseFw {L : Nat} {r s : State} (hL : Sub 0x22000080210 L) (h : Keeps L r s) (code : BitVec 16) :
    Keeps L r (State.refuseFw s code) := by
  unfold State.refuseFw
  try dsimp only
  repeat' first
    | with_reducible assumption | with_reducible apply keepsR_next | with_reducible apply keeps_foldl
    | with_reducible apply keeps_note | exact within hL rfl | intro _ | split
    | (fail_if_no_progress with_reducible apply keeps_set_fwif (within hL rfl))

theorem keeps_keepPage {L : Nat} {r s : State} (hL : Sub 0x200 L) (h : Keeps L r s) (i : Nat) :
    Keeps L r (State.keepPage s i) := by
  unfold State.keepPage
  try dsimp only
  repeat' first
    | with_reducible assumption | with_reducible apply keepsR_next | with_reducible apply keeps_foldl
    | exact within hL rfl | intro _ | split
    | (fail_if_no_progress with_reducible apply keeps_set_fwif (within hL rfl))

theorem keeps_failStage2 {L : Nat} {r s : State} (hL : Sub 0x22000080210 L) (h : Keeps L r s) :
    Keeps L r (State.failStage2 s) := by
  unfold State.failStage2
  try dsimp only
  repeat' first
    | with_reducible assumption | with_reducible apply keepsR_next | with_reducible apply keeps_foldl
    | with_reducible apply keeps_note | exact within hL rfl | intro _ | split
    | (fail_if_no_progress with_reducible apply keeps_set_fwif (within hL rfl))

theorem keeps_stage2Loaded {L : Nat} {r s : State} (hL : Sub 0x200 L) (h : Keeps L r s) :
    Keeps L r (State.stage2Loaded s) := by
  unfold State.stage2Loaded
  try dsimp only
  repeat' first
    | with_reducible assumption | with_reducible apply keepsR_next | with_reducible apply keeps_foldl
    | exact within hL rfl | intro _ | split
    | (fail_if_no_progress with_reducible apply keeps_set_fwif (within hL rfl))

theorem keeps_writeLoad {L : Nat} {r s : State} (hL : Sub 0x22000080210 L) (h : Keeps L r s) :
    Keeps L r (State.writeLoad s) := by
  unfold State.writeLoad
  try dsimp only
  repeat' first
    | with_reducible assumption | with_reducible apply keepsR_next | with_reducible apply keeps_foldl
    | with_reducible apply keeps_stage2Loaded | with_reducible apply keeps_refuseFw | exact within hL rfl
    | intro _ | split | (fail_if_no_progress with_reducible apply keeps_set_fwif (within hL rfl))

theorem keeps_writeNegotiate {L : Nat} {r s : State} (hL : Sub 0x22000080210 L) (h : Keeps L r s) :
    Keeps L r (State.writeNegotiate s) := by
  unfold State.writeNegotiate
  try dsimp only
  repeat' first
    | with_reducible assumption | with_reducible apply keepsR_next | with_reducible apply keeps_foldl
    | with_reducible apply keeps_refuseFw | exact within hL rfl | intro _ | split
    | (fail_if_no_progress with_reducible apply keeps_set_fwif (within hL rfl))

theorem keeps_becomeReady {L : Nat} {r s : State} (hL : Sub 0x220000b1390 L) (h : Keeps L r s) :
    Keeps L r (State.becomeReady s) := by
  unfold State.becomeReady
  try dsimp only
  repeat' first
    | with_reducible assumption | with_reducible apply keepsR_next | with_reducible apply keeps_foldl
    | with_reducible apply keeps_takeEnable | with_reducible apply keeps_startLoad | exact within hL rfl
    | intro _ | split | (fail_if_no_progress with_reducible apply keeps_set_ready_sched (within hL rfl))

theorem keeps_reqWorked {L : Nat} {r s : State} (hL : Sub 0x200 L) (h : Keeps L r s) (result : BitVec 16) :
    Keeps L r (State.reqWorked s result) := by
  unfold State.reqWorked
  try dsimp only
  repeat' first
    | with_reducible assumption | with_reducible apply keepsR_next | with_reducible apply keeps_foldl
    | exact within hL rfl | intro _ | split
    | (fail_if_no_progress with_reducible apply keeps_set_fwif (within hL rfl))

theorem keeps_reqAnswer {L : Nat} {r s : State} (hL : Sub 0x200 L) (h : Keeps L r s)
    (off : Nat) (bytes : List Byte) :
    Keeps L r (State.reqAnswer s off bytes) := by
  unfold State.reqAnswer
  try dsimp only
  repeat' first
    | with_reducible assumption | with_reducible apply keepsR_next | with_reducible apply keeps_foldl
    | exact within hL rfl | intro _ | split
    | (fail_if_no_progress with_reducible apply keeps_set_fwif (within hL rfl))

theorem keeps_reqWrite {L : Nat} {r s : State} (hL : Sub 0x80000 L) (h : Keeps L r s) :
    Keeps L r (State.reqWrite s) := by
  unfold State.reqWrite
  try dsimp only
  repeat' first
    | with_reducible assumption | with_reducible apply keepsR_next | with_reducible apply keeps_foldl
    | with_reducible apply keeps_updMem_store | with_reducible apply keeps_updMem | exact within hL rfl
    | intro _

theorem keeps_endRequest {L : Nat} {r s : State} (hL : Sub 0x22000280210 L) (h : Keeps L r s)
    (result : BitVec 16) :
    Keeps L r (State.endRequest s result) := by
  unfold State.endRequest
  try dsimp only
  repeat' first
    | with_reducible assumption | with_reducible apply keepsR_next | with_reducible apply keeps_foldl
    | with_reducible apply keeps_sendMsix | with_reducible apply keeps_leaveStrict
    | with_reducible apply keeps_note | with_reducible apply keeps_updMem_store
    | with_reducible apply keeps_updMem | exact within hL rfl | intro _ | split
    | (fail_if_no_progress with_reducible apply keeps_set_fwif (within hL rfl))

theorem keeps_interruptRequest {L : Nat} {r s : State} (hL : Sub 0x22000280310 L) (h : Keeps L r s) :
    Keeps L r (State.interruptRequest s) := by
  unfold State.interruptRequest
  try dsimp only
  repeat' first
    | with_reducible assumption | with_reducible apply keepsR_next | with_reducible apply keeps_foldl
    | with_reducible apply keeps_endRequest | exact within hL rfl | intro _ | split
    | (fail_if_no_progress with_reducible apply keeps_set_ready (within hL rfl))

theorem keeps_writeGo {L : Nat} {r s : State} (hL : Sub 0x22000080210 L) (h : Keeps L r s) :
    Keeps L r (State.writeGo s) := by
  unfold State.writeGo
  try dsimp only
  repeat' first
    | with_reducible assumption | with_reducible apply keepsR_next | with_reducible apply keeps_foldl
    | with_reducible apply keeps_note | exact within hL rfl | intro _ | split
    | (fail_if_no_progress with_reducible apply keeps_set_fwif (within hL rfl))

theorem keeps_refuseRing {L : Nat} {r s : State} (hL : Sub 0x22000080210 L) (h : Keeps L r s) (offset : Nat) :
    Keeps L r (State.refuseRing s offset) := by
  unfold State.refuseRing
  try dsimp only
  repeat' first
    | with_reducible assumption | with_reducible apply keepsR_next | with_reducible apply keeps_foldl
    | with_reducible apply keeps_note

theorem keeps_enableLog {L : Nat} {r s : State} (hL : Sub 0x22000080210 L) (h : Keeps L r s) :
    Keeps L r (State.enableLog s) := by
  unfold State.enableLog
  try dsimp only
  repeat' first
    | with_reducible assumption | with_reducible apply keepsR_next | with_reducible apply keeps_foldl
    | with_reducible apply keeps_logPut | with_reducible apply keeps_note
    | with_reducible apply keeps_refuseRing | exact within hL rfl | intro _ | split
    | (fail_if_no_progress with_reducible apply keeps_set_fwif (within hL rfl))

theorem keeps_enableTrace {L : Nat} {r s : State} (hL : Sub 0x22000080210 L) (h : Keeps L r s) :
    Keeps L r (State.enableTrace s) := by
  unfold State.enableTrace
  try dsimp only
  repeat' first
    | with_reducible assumption | with_reducible apply keepsR_next | with_reducible apply keeps_foldl
    | with_reducible apply keeps_note | with_reducible apply keeps_refuseRing | exact within hL rfl | intro _
    | split | (fail_if_no_progress with_reducible apply keeps_set_fwif (within hL rfl))

theorem keeps_enableFaultRing {L : Nat} {r s : State} (hL : Sub 0x26000080210 L) (h : Keeps L r s) :
    Keeps L r (State.enableFaultRing s) := by
  unfold State.enableFaultRing
  try dsimp only
  repeat' first
    | with_reducible assumption | with_reducible apply keepsR_next | with_reducible apply keeps_foldl
    | with_reducible apply keeps_faultPut | with_reducible apply keeps_writeLossRecord
    | with_reducible apply keeps_refuseRing | exact within hL rfl | intro _ | split
    | (fail_if_no_progress with_reducible apply keeps_set_faults (within hL rfl))

theorem keeps_writeLogHead {L : Nat} {r s : State} (hL : Sub 0x22000080210 L) (h : Keeps L r s) (head : Word) :
    Keeps L r (State.writeLogHead s head) := by
  unfold State.writeLogHead
  try dsimp only
  repeat' first
    | with_reducible assumption | with_reducible apply keepsR_next | with_reducible apply keeps_foldl
    | with_reducible apply keeps_note | exact within hL rfl | intro _ | split
    | (fail_if_no_progress with_reducible apply keeps_set_fwif (within hL rfl))

theorem keeps_execFwifLoad {L : Nat} {r s : State} (hL : Sub 0x22000280298 L) (h : Keeps L r s) :
    KeepsR L r (execFwifLoad s) := by
  unfold execFwifLoad
  try dsimp only
  repeat' first
    | with_reducible assumption | with_reducible apply keepsR_next | with_reducible apply keeps_foldl
    | with_reducible apply keeps_writeLoad | with_reducible apply keeps_wakeSlack | exact within hL rfl
    | intro _ | split

theorem keeps_execStage2LoadDone {L : Nat} {r s : State} (hL : Sub 0x22000080210 L) (h : Keeps L r s) :
    KeepsR L r (execStage2LoadDone s) := by
  unfold execStage2LoadDone
  try dsimp only
  repeat' first
    | with_reducible assumption | with_reducible apply keepsR_next | with_reducible apply keeps_foldl
    | with_reducible apply keeps_keepPage | with_reducible apply keeps_stage2Loaded
    | with_reducible apply keeps_failStage2 | exact within hL rfl | intro _ | split

theorem keeps_execStage2PageCheck {L : Nat} {r s : State} (hL : Sub 0x220802c93f0 L) (h : Keeps L r s)
    (page : Nat) :
    KeepsR L r (execStage2PageCheck page s) := by
  unfold execStage2PageCheck
  try dsimp only
  repeat' first
    | with_reducible assumption | with_reducible apply keepsR_next | with_reducible apply keeps_foldl
    | with_reducible apply keeps_keepPage | with_reducible apply keeps_failStage2
    | with_reducible apply keeps_stopFirmware | exact within hL rfl | intro _ | split

theorem keeps_execNegotiate {L : Nat} {r s : State} (hL : Sub 0x22000280298 L) (h : Keeps L r s) :
    KeepsR L r (execNegotiate s) := by
  unfold execNegotiate
  try dsimp only
  repeat' first
    | with_reducible assumption | with_reducible apply keepsR_next | with_reducible apply keeps_foldl
    | with_reducible apply keeps_wakeSlack | with_reducible apply keeps_writeNegotiate | exact within hL rfl
    | intro _ | split

theorem keeps_execNegotiateDone {L : Nat} {r s : State} (hL : Sub 0x220000b1390 L) (h : Keeps L r s) :
    KeepsR L r (execNegotiateDone s) := by
  unfold execNegotiateDone
  try dsimp only
  repeat' first
    | with_reducible assumption | with_reducible apply keepsR_next | with_reducible apply keeps_foldl
    | with_reducible apply keeps_becomeReady | exact within hL rfl | intro _ | split
    | (fail_if_no_progress with_reducible apply keeps_set_fwif (within hL rfl))

theorem keeps_execSfuMode {L : Nat} {r s : State} (hL : Sub 0x300 L) (h : Keeps L r s) :
    KeepsR L r (execSfuMode s) := by
  unfold execSfuMode
  try dsimp only
  repeat' first
    | with_reducible assumption | with_reducible apply keepsR_next | with_reducible apply keeps_foldl
    | with_reducible apply keeps_reqWorked | exact within hL rfl | intro _ | split
    | (fail_if_no_progress with_reducible apply keeps_set_ready (within hL rfl))
    | (fail_if_no_progress with_reducible apply keeps_set_fwif (within hL rfl))
    | (fail_if_no_progress with_reducible apply keeps_set_ready_fwif (within hL rfl))

theorem keeps_execReport {L : Nat} {r s : State} (hL : Sub 0x10000000200 L) (h : Keeps L r s) :
    KeepsR L r (execReport s) := by
  unfold execReport
  try dsimp only
  repeat' first
    | with_reducible assumption | with_reducible apply keepsR_next | with_reducible apply keeps_foldl
    | with_reducible apply keeps_reqWorked | with_reducible apply keeps_reqAnswer | exact within hL rfl
    | intro _ | split | (fail_if_no_progress with_reducible apply keeps_set_freeCount (within hL rfl))

theorem grows_commissioned {s : State} {y : Secure} (h : s.commissioned = some y) : s.secure.Grows y := by
  unfold State.commissioned at h
  simp only at h
  repeat' split at h
  all_goals first
    | cases h
      refine ⟨Nat.le_refl _, ?_, ?_, ?_, ?_, rfl, fun _ => Nat.le_refl _⟩ <;> simp +contextual
    | contradiction

theorem keeps_execCommission {L : Nat} {r s : State} (hL : Sub 0x202 L) (h : Keeps L r s) :
    KeepsR L r (execCommission s) := by
  unfold execCommission
  split
  · exact keepsR_next h
  · split
    · exact keepsR_next (keeps_reqWorked (within hL rfl) (keeps_set_secure (within hL rfl) h ((grows_commissioned ‹_›).written _)) _)
    · exact keepsR_next (keeps_reqWorked (within hL rfl) h _)

theorem keeps_memtestCounts {L : Nat} {r s : State} (hL : Sub 0x200 L) (h : Keeps L r s)
    (good : Nat) (bad : Nat) :
    Keeps L r (State.memtestCounts s good bad) := by
  unfold State.memtestCounts
  try dsimp only
  repeat' first
    | with_reducible assumption | with_reducible apply keepsR_next | with_reducible apply keeps_foldl
    | with_reducible apply keeps_reqAnswer

theorem keeps_strictTest {L : Nat} {r s : State} (hL : Sub 0x22000280210 L) (h : Keeps L r s) :
    Keeps L r (State.strictTest s) := by
  unfold State.strictTest
  try dsimp only
  repeat' first
    | with_reducible assumption | with_reducible apply keepsR_next | with_reducible apply keeps_foldl
    | with_reducible apply keeps_note | with_reducible apply keeps_enterStrict | exact within hL rfl | intro _
    | split

theorem keeps_execMemtest {L : Nat} {r s : State} (hL : Sub 0x2a0802cdad0 L) (h : Keeps L r s)
    (corrected : List Nat) (uncorrectable : List Nat) :
    KeepsR L r (execMemtest corrected uncorrectable s) := by
  unfold execMemtest
  try dsimp only
  repeat' first
    | with_reducible assumption | with_reducible apply keepsR_next | with_reducible apply keeps_foldl
    | with_reducible apply keeps_testRead | with_reducible apply keeps_strictTest
    | with_reducible apply keeps_memCorrected | with_reducible apply keeps_reqWorked
    | with_reducible apply keeps_memtestCounts | exact within hL rfl | intro _ | split

theorem keeps_execFwRequestDone {L : Nat} {r s : State} (hL : Sub 0x22000280210 L) (h : Keeps L r s) :
    KeepsR L r (execFwRequestDone s) := by
  unfold execFwRequestDone
  try dsimp only
  repeat' first
    | with_reducible assumption | with_reducible apply keepsR_next | with_reducible apply keeps_foldl
    | with_reducible apply keeps_reqWrite | with_reducible apply keeps_endRequest | exact within hL rfl
    | intro _ | split

theorem keeps_execLogRingEnable {L : Nat} {r s : State} (hL : Sub 0x22000280298 L) (h : Keeps L r s) :
    KeepsR L r (execLogRingEnable s) := by
  unfold execLogRingEnable
  try dsimp only
  repeat' first
    | with_reducible assumption | with_reducible apply keepsR_next | with_reducible apply keeps_foldl
    | with_reducible apply keeps_wakeSlack | with_reducible apply keeps_enableLog | exact within hL rfl
    | intro _ | split

theorem keeps_execTraceRingEnable {L : Nat} {r s : State} (hL : Sub 0x22000280298 L) (h : Keeps L r s) :
    KeepsR L r (execTraceRingEnable s) := by
  unfold execTraceRingEnable
  try dsimp only
  repeat' first
    | with_reducible assumption | with_reducible apply keepsR_next | with_reducible apply keeps_foldl
    | with_reducible apply keeps_enableTrace | with_reducible apply keeps_wakeSlack | exact within hL rfl
    | intro _ | split

theorem keeps_execFaultRingEnable {L : Nat} {r s : State} (hL : Sub 0x26000280298 L) (h : Keeps L r s) :
    KeepsR L r (execFaultRingEnable s) := by
  unfold execFaultRingEnable
  try dsimp only
  repeat' first
    | with_reducible assumption | with_reducible apply keepsR_next | with_reducible apply keeps_foldl
    | with_reducible apply keeps_wakeSlack | with_reducible apply keeps_enableFaultRing | exact within hL rfl
    | intro _ | split

theorem keeps_execHeartbeat {L : Nat} {r s : State} (hL : Sub 0x602 L) (h : Keeps L r s)
    (seq : BitVec 16) (writes : List StoreWrite) :
    KeepsR L r (execHeartbeat seq writes s) := by
  unfold execHeartbeat
  try dsimp only
  repeat' first
    | with_reducible assumption | with_reducible apply keepsR_next | with_reducible apply keeps_foldl
    | with_reducible apply keeps_storeWrite | exact within hL rfl | intro _ | split
    | (fail_if_no_progress with_reducible apply keeps_set_fwif_heart (within hL rfl))

theorem keeps_execHeartbeatWindowEnd {L : Nat} {r s : State} (hL : Sub 0x276bb6ff7fc L) (h : Keeps L r s) :
    KeepsR L r (execHeartbeatWindowEnd s) := by
  unfold execHeartbeatWindowEnd
  try dsimp only
  repeat' first
    | with_reducible assumption | with_reducible apply keepsR_next | with_reducible apply keeps_foldl
    | with_reducible apply keeps_advanceTo | with_reducible apply keeps_startRecovery | exact within hL rfl
    | intro _ | split | (fail_if_no_progress with_reducible apply keeps_set_heart (within hL rfl))

theorem keeps_execLockstepMismatch {L : Nat} {r s : State} (hL : Sub 0x276bb6ff7fc L) (h : Keeps L r s) :
    KeepsR L r (execLockstepMismatch s) := by
  unfold execLockstepMismatch
  try dsimp only
  repeat' first
    | with_reducible assumption | with_reducible apply keepsR_next | with_reducible apply keeps_foldl
    | with_reducible apply keeps_startRecovery | exact within hL rfl | intro _ | split

theorem keeps_execRelaunchSelfTestDone {L : Nat} {r s : State} (hL : Sub 0x276bb6ff7f8 L) (h : Keeps L r s)
    (passed : BitVec 3) :
    KeepsR L r (execRelaunchSelfTestDone passed s) := by
  unfold execRelaunchSelfTestDone
  try dsimp only
  repeat' first
    | with_reducible assumption | with_reducible apply keepsR_next | with_reducible apply keeps_foldl
    | with_reducible apply keeps_formPair | with_reducible apply keeps_loseDevice | exact within hL rfl
    | intro _ | split | (fail_if_no_progress with_reducible apply keeps_set_lighthouse (within hL rfl))

theorem keeps_execRelaunchDigestDone {L : Nat} {r s : State} (hL : Sub 0x276bb6ff7f8 L) (h : Keeps L r s)
    (misread : List (Nat × Byte)) :
    KeepsR L r (execRelaunchDigestDone misread s) := by
  unfold execRelaunchDigestDone
  try dsimp only
  repeat' first
    | with_reducible assumption | with_reducible apply keepsR_next | with_reducible apply keeps_foldl
    | with_reducible apply keeps_loseDevice | exact within hL rfl | intro _ | split
    | (fail_if_no_progress with_reducible apply keeps_set_lighthouse (within hL rfl))

theorem keeps_discardSampled {L : Nat} {r s : State} (hL : Sub 0x89000 L) (h : Keeps L r s) (q : QueueId) :
    Keeps L r (State.discardSampled s q) := by
  unfold State.discardSampled
  try dsimp only
  repeat' first
    | with_reducible assumption | with_reducible apply keepsR_next | with_reducible apply keeps_foldl
    | with_reducible apply keeps_setHead | exact within hL rfl | intro _ | split
    | (fail_if_no_progress with_reducible apply keeps_set_flights (within hL rfl))

theorem keeps_abandonFrames {L : Nat} {r s : State} (hL : Sub 0x220b00cf2d0 L) (h : Keeps L r s) :
    Keeps L r (State.abandonFrames s) := by
  unfold State.abandonFrames
  try dsimp only
  repeat' first
    | with_reducible assumption | with_reducible apply keepsR_next | with_reducible apply keeps_foldl
    | with_reducible apply keeps_abandonFrame | with_reducible apply keeps_updSession | exact within hL rfl
    | intro _ | split

theorem keeps_execRelaunchComplete {L : Nat} {r s : State} (hL : Sub 0x2f6bb6fffd8 L) (h : Keeps L r s) :
    KeepsR L r (execRelaunchComplete s) := by
  unfold execRelaunchComplete
  try dsimp only
  repeat' first
    | with_reducible assumption | with_reducible apply keepsR_next | with_reducible apply keeps_foldl
    | with_reducible apply keeps_releaseUnits | with_reducible apply keeps_settle
    | with_reducible apply keeps_failQuiet | with_reducible apply keeps_note
    | with_reducible apply keeps_discardSampled | with_reducible apply keeps_wakeAll
    | with_reducible apply keeps_interruptRequest | with_reducible apply keeps_releaseHeld
    | with_reducible apply keeps_updFlight | with_reducible apply keeps_updQueue
    | with_reducible apply keeps_abandonFrames | with_reducible apply keeps_startLoad | exact within hL rfl
    | intro _ | split
    | (fail_if_no_progress with_reducible apply keeps_set_ready_heart_quays_lighthouse (within hL rfl))

theorem keeps_execQuayArbitrationFault {L : Nat} {r s : State} (hL : Sub 0x2a0800cd2d0 L) (h : Keeps L r s)
    (q : QuayId) (at_ : QuayArb) (cq : QueueId) (idx : Word) :
    KeepsR L r (execQuayArbitrationFault q at_ cq idx s) := by
  unfold execQuayArbitrationFault
  try dsimp only
  repeat' first
    | with_reducible assumption | with_reducible apply keepsR_next | with_reducible apply keeps_foldl
    | with_reducible apply keeps_failQuiet | with_reducible apply keeps_report
    | with_reducible apply keeps_countRepair | exact within hL rfl | intro _ | split

theorem keeps_execDeviceArbitrationFault {L : Nat} {r s : State} (hL : Sub 0x276bb6ff7f8 L) (h : Keeps L r s) :
    KeepsR L r (execDeviceArbitrationFault s) := by
  unfold execDeviceArbitrationFault
  try dsimp only
  repeat' first
    | with_reducible assumption | with_reducible apply keepsR_next | with_reducible apply keeps_foldl
    | with_reducible apply keeps_loseDevice | exact within hL rfl | intro _ | split

theorem keeps_execLocalisingTile {L : Nat} {r s : State} (hL : Sub 0x2000000000 L) (h : Keeps L r s)
    (q : QuayId) (b : BerthId) (column : Fin 64) (mismatch : Option CellId) :
    KeepsR L r (execLocalisingTile q b column mismatch s) := by
  unfold execLocalisingTile
  try dsimp only
  repeat' first
    | with_reducible assumption | with_reducible apply keepsR_next | with_reducible apply keeps_foldl
    | with_reducible apply keeps_decideRepair | exact within hL rfl | intro _ | split
    | (fail_if_no_progress with_reducible apply keeps_set_faults (within hL rfl))

theorem keeps_saveMap {L : Nat} {r s : State} (hL : Sub 0x22000080210 L) (h : Keeps L r s) :
    Keeps L r (State.saveMap s) := by
  unfold State.saveMap
  try dsimp only
  repeat' first
    | with_reducible assumption | with_reducible apply keepsR_next | with_reducible apply keeps_foldl
    | with_reducible apply keeps_note | exact within hL rfl | intro _ | split
    | (fail_if_no_progress with_reducible apply keeps_set_faults (within hL rfl))

theorem keeps_execRepairApply {L : Nat} {r s : State} (hL : Sub 0x2a6801ed2d0 L) (h : Keeps L r s)
    (loc : RepairLoc) :
    KeepsR L r (execRepairApply loc s) := by
  unfold execRepairApply
  try dsimp only
  repeat' first
    | with_reducible assumption | with_reducible apply keepsR_next | with_reducible apply keeps_foldl
    | with_reducible apply keeps_saveMap | with_reducible apply keeps_substitute
    | with_reducible apply keeps_releaseQuayReset | exact within hL rfl | intro _ | split
    | (fail_if_no_progress with_reducible apply keeps_set_faults (within hL rfl))

theorem keeps_execRepairQuietTimeout {L : Nat} {r s : State} (hL : Sub 0x222800cd2d0 L) (h : Keeps L r s)
    (loc : RepairLoc) :
    KeepsR L r (execRepairQuietTimeout loc s) := by
  unfold execRepairQuietTimeout
  try dsimp only
  repeat' first
    | with_reducible assumption | with_reducible apply keepsR_next | with_reducible apply keeps_foldl
    | with_reducible apply keeps_settle | with_reducible apply keeps_advanceTo
    | with_reducible apply keeps_preemptFlight | exact within hL rfl | intro _ | split

theorem keeps_execRepairMapWriteDone {L : Nat} {r s : State} (hL : Sub 0x2000000002 L) (h : Keeps L r s) :
    KeepsR L r (execRepairMapWriteDone s) := by
  unfold execRepairMapWriteDone
  try dsimp only
  repeat' first
    | with_reducible assumption | with_reducible apply keepsR_next | with_reducible apply keeps_foldl
    | exact within hL rfl | intro _ | split | with_reducible apply keeps_set_secure_faults (within hL rfl)
    | exact ⟨Nat.le_refl _, id, id, id, id, rfl, fun _ => Nat.le_refl _⟩

theorem keeps_execPowerEstimate {L : Nat} {r s : State} (hL : Sub 0x800000000 L) (h : Keeps L r s)
    (milliwatts : Nat) :
    KeepsR L r (execPowerEstimate milliwatts s) := by
  unfold execPowerEstimate
  try dsimp only
  repeat' first
    | with_reducible assumption | with_reducible apply keepsR_next | with_reducible apply keeps_foldl
    | exact within hL rfl | intro _ | split
    | (fail_if_no_progress with_reducible apply keeps_set_power (within hL rfl))

theorem keeps_execBudgetCompare {L : Nat} {r s : State} (hL : Sub 0x800000000 L) (h : Keeps L r s) :
    KeepsR L r (execBudgetCompare s) := by
  unfold execBudgetCompare
  try dsimp only
  repeat' first
    | with_reducible assumption | with_reducible apply keepsR_next | with_reducible apply keeps_foldl
    | exact within hL rfl | intro _ | split
    | (fail_if_no_progress with_reducible apply keeps_set_power (within hL rfl))

theorem keeps_execDroopDetect {L : Nat} {r s : State} (hL : Sub 0x8 L) (h : Keeps L r s) (island : Island) :
    KeepsR L r (execDroopDetect island s) := by
  unfold execDroopDetect
  try dsimp only
  repeat' first
    | with_reducible assumption | with_reducible apply keepsR_next | with_reducible apply keeps_foldl
    | exact within hL rfl | intro _ | split
    | (fail_if_no_progress with_reducible apply keeps_set_env (within hL rfl))

theorem keeps_execDroopRelease {L : Nat} {r s : State} (hL : Sub 0x20000000008 L) (h : Keeps L r s)
    (island : Island) :
    KeepsR L r (execDroopRelease island s) := by
  unfold execDroopRelease
  try dsimp only
  repeat' first
    | with_reducible assumption | with_reducible apply keepsR_next | with_reducible apply keeps_foldl
    | with_reducible apply keeps_avsKick | exact within hL rfl | intro _ | split
    | (fail_if_no_progress with_reducible apply keeps_set_env (within hL rfl))

theorem keeps_execAvsSetpointChange {L : Nat} {r s : State} (hL : Sub 0x20000000008 L) (h : Keeps L r s)
    (mv : Nat) :
    KeepsR L r (execAvsSetpointChange mv s) := by
  unfold execAvsSetpointChange
  try dsimp only
  repeat' first
    | with_reducible assumption | with_reducible apply keepsR_next | with_reducible apply keeps_foldl
    | with_reducible apply keeps_avsIssue | exact within hL rfl | intro _ | split

theorem keeps_execAvsStatusPoll {L : Nat} {r s : State} (hL : Sub 0x20200000008 L) (h : Keeps L r s) :
    KeepsR L r (execAvsStatusPoll s) := by
  unfold execAvsStatusPoll
  try dsimp only
  repeat' first
    | with_reducible assumption | with_reducible apply keepsR_next | with_reducible apply keeps_foldl
    | with_reducible apply keeps_avsIssue | with_reducible apply keeps_advanceTo | exact within hL rfl | intro _
    | split | (fail_if_no_progress with_reducible apply keeps_set_env (within hL rfl))

theorem keeps_avsNext {L : Nat} {r s : State} (hL : Sub 0x20000000008 L) (h : Keeps L r s)
    (queue : List (AvsCmd × Nat)) :
    Keeps L r (State.avsNext s queue) := by
  unfold State.avsNext
  try dsimp only
  repeat' first
    | with_reducible assumption | with_reducible apply keepsR_next | with_reducible apply keeps_foldl
    | with_reducible apply keeps_setAvs | with_reducible apply keeps_avsKick | exact within hL rfl

theorem keeps_avsStop {L : Nat} {r s : State} (hL : Sub 0x8 L) (h : Keeps L r s)
    (setpoint : Nat) (last : List (AvsCmd × Nat)) :
    Keeps L r (State.avsStop s setpoint last) := by
  unfold State.avsStop
  try dsimp only
  repeat' first
    | with_reducible assumption | with_reducible apply keepsR_next | with_reducible apply keeps_foldl
    | with_reducible apply keeps_setAvs

theorem keeps_execAvsResponse {L : Nat} {r s : State} (hL : Sub 0x22000080218 L) (h : Keeps L r s)
    (answer : AvsAnswer) :
    KeepsR L r (execAvsResponse answer s) := by
  unfold execAvsResponse
  try dsimp only
  repeat' first
    | with_reducible assumption | with_reducible apply keepsR_next | with_reducible apply keeps_foldl
    | with_reducible apply keeps_note | with_reducible apply keeps_avsKick | with_reducible apply keeps_avsStop
    | with_reducible apply keeps_avsNext | with_reducible apply keeps_setAvs | exact within hL rfl | intro _
    | split

theorem keeps_markSag {L : Nat} {r s : State} (hL : Sub 0x800000000 L) (h : Keeps L r s) (rail : Rail) :
    Keeps L r (State.markSag s rail) := by
  unfold State.markSag
  try dsimp only
  repeat' first
    | with_reducible assumption | with_reducible apply keepsR_next | with_reducible apply keeps_foldl
    | exact within hL rfl | intro _ | split
    | (fail_if_no_progress with_reducible apply keeps_set_power (within hL rfl))

theorem keeps_reshed {L : Nat} {r s : State} (hL : Sub 0x2008008c200 L) (h : Keeps L r s) :
    Keeps L r (State.reshed s) := by
  unfold State.reshed
  try dsimp only
  repeat' first
    | with_reducible assumption | with_reducible apply keepsR_next | with_reducible apply keeps_foldl
    | with_reducible apply keeps_resumeFlights | with_reducible apply keeps_preemptFlight | exact within hL rfl
    | intro _ | split

theorem keeps_stopShedFrames {L : Nat} {r s : State} (hL : Sub 0x2000000 L) (h : Keeps L r s) :
    Keeps L r (State.stopShedFrames s) := by
  unfold State.stopShedFrames
  try dsimp only
  repeat' first
    | with_reducible assumption | with_reducible apply keepsR_next | with_reducible apply keeps_foldl
    | with_reducible apply keeps_updStream | exact within hL rfl | intro _ | split

theorem keeps_shedEffect {L : Nat} {r s : State} (hL : Sub 0x221b20cf2d0 L) (h : Keeps L r s) (step : Nat) :
    Keeps L r (State.shedEffect s step) := by
  unfold State.shedEffect
  try dsimp only
  repeat' first
    | with_reducible assumption | with_reducible apply keepsR_next | with_reducible apply keeps_foldl
    | with_reducible apply keeps_setShed | with_reducible apply keeps_stopShedFrames
    | with_reducible apply keeps_reshed | exact within hL rfl | intro _ | split
    | (fail_if_no_progress with_reducible apply keeps_set_deckReduced (within hL rfl))

theorem keeps_enterStep {L : Nat} {r s : State} (hL : Sub 0x229b20cf2d0 L) (h : Keeps L r s) (step : Nat) :
    Keeps L r (State.enterStep s step) := by
  unfold State.enterStep
  try dsimp only
  repeat' first
    | with_reducible assumption | with_reducible apply keepsR_next | with_reducible apply keeps_foldl
    | with_reducible apply keeps_shedEffect | with_reducible apply keeps_note
    | with_reducible apply keeps_haltUpdate | with_reducible apply keeps_ltrUpdate | exact within hL rfl
    | intro _ | split | (fail_if_no_progress with_reducible apply keeps_set_power (within hL rfl))

theorem keeps_enterStep6 {L : Nat} {r s : State} (hL : Sub 0x800200008 L) (h : Keeps L r s) :
    Keeps L r (State.enterStep6 s) := by
  unfold State.enterStep6
  try dsimp only
  repeat' first
    | with_reducible assumption | with_reducible apply keepsR_next | with_reducible apply keeps_foldl
    | exact within hL rfl | intro _ | split
    | (fail_if_no_progress with_reducible apply keeps_set_env_memctl_power (within hL rfl))

theorem keeps_execSagEstablished {L : Nat} {r s : State} (hL : Sub 0x229b20cf2d0 L) (h : Keeps L r s)
    (rail : Rail) (mv : Nat) :
    KeepsR L r (execSagEstablished rail mv s) := by
  unfold execSagEstablished
  try dsimp only
  repeat' first
    | with_reducible assumption | with_reducible apply keepsR_next | with_reducible apply keeps_foldl
    | with_reducible apply keeps_enterStep | with_reducible apply keeps_markSag | exact within hL rfl | intro _
    | split | (fail_if_no_progress with_reducible apply keeps_set_power (within hL rfl))

theorem keeps_execShedStep {L : Nat} {r s : State} (hL : Sub 0x22bb22cf2d8 L) (h : Keeps L r s) :
    KeepsR L r (execShedStep s) := by
  unfold execShedStep
  try dsimp only
  repeat' first
    | with_reducible assumption | with_reducible apply keepsR_next | with_reducible apply keeps_foldl
    | with_reducible apply keeps_enterStep | with_reducible apply keeps_advanceTo
    | with_reducible apply keeps_enterStep6 | exact within hL rfl | intro _ | split

theorem keeps_execHoldLimitFall {L : Nat} {r s : State} (hL : Sub 0x800200008 L) (h : Keeps L r s)
    (rail : Rail) (mv : Nat) :
    KeepsR L r (execHoldLimitFall rail mv s) := by
  unfold execHoldLimitFall
  try dsimp only
  repeat' first
    | with_reducible assumption | with_reducible apply keepsR_next | with_reducible apply keeps_foldl
    | with_reducible apply keeps_markSag | with_reducible apply keeps_enterStep6 | exact within hL rfl | intro _
    | split

theorem keeps_execStep6Timeout {L : Nat} {r s : State} (hL : Sub 0x276bb6ff7f8 L) (h : Keeps L r s)
    (elapsed : Bool) (mv : Nat) :
    KeepsR L r (execStep6Timeout elapsed mv s) := by
  unfold execStep6Timeout
  try dsimp only
  repeat' first
    | with_reducible assumption | with_reducible apply keepsR_next | with_reducible apply keeps_foldl
    | with_reducible apply keeps_loseDevice | with_reducible apply keeps_advanceTo | exact within hL rfl
    | intro _ | split

theorem keeps_recordStopped {L : Nat} {r s : State} (hL : Sub 0x22000080210 L) (h : Keeps L r s) (e : Event) :
    Keeps L r (State.recordStopped s e) := by
  unfold State.recordStopped
  try dsimp only
  repeat' first
    | with_reducible assumption | with_reducible apply keepsR_next | with_reducible apply keeps_foldl
    | with_reducible apply keeps_faultEvent | with_reducible apply keeps_faultPut
    | with_reducible apply keeps_countFault | with_reducible apply keeps_logPut
    | with_reducible apply keeps_sendAreaMsix | with_reducible apply keeps_logEvent | exact within hL rfl
    | intro _ | split

theorem keeps_recordStep6 {L : Nat} {r s : State} (hL : Sub 0x22000080210 L) (h : Keeps L r s) :
    Keeps L r (State.recordStep6 s) := by
  unfold State.recordStep6
  try dsimp only
  repeat' first
    | with_reducible assumption | with_reducible apply keepsR_next | with_reducible apply keeps_foldl
    | with_reducible apply keeps_recordStopped | exact within hL rfl | intro _ | split
    | (fail_if_no_progress with_reducible apply keeps_set_fwif (within hL rfl))

theorem keeps_leaveStep6 {L : Nat} {r s : State} (hL : Sub 0x27fbb6ff7d8 L) (h : Keeps L r s) :
    Keeps L r (State.leaveStep6 s) := by
  unfold State.leaveStep6
  try dsimp only
  repeat' first
    | with_reducible assumption | with_reducible apply keepsR_next | with_reducible apply keeps_foldl
    | with_reducible apply keeps_wakeAll | with_reducible apply keeps_releaseHeldReset
    | with_reducible apply keeps_endRetention | with_reducible apply keeps_shedEffect | exact within hL rfl
    | intro _ | split | (fail_if_no_progress with_reducible apply keeps_set_power (within hL rfl))
    | (fail_if_no_progress with_reducible apply keeps_set_env (within hL rfl))
    | (fail_if_no_progress with_reducible apply keeps_set_env_memctl_power (within hL rfl))

theorem keeps_returnStep {L : Nat} {r s : State} (hL : Sub 0x27fbb6ff7d8 L) (h : Keeps L r s) (n : Nat) :
    Keeps L r (State.returnStep s n) := by
  unfold State.returnStep
  try dsimp only
  repeat' first
    | with_reducible assumption | with_reducible apply keepsR_next | with_reducible apply keeps_foldl
    | with_reducible apply keeps_setShed | with_reducible apply keeps_settle | with_reducible apply keeps_note
    | with_reducible apply keeps_leaveStep6 | with_reducible apply keeps_reshed | exact within hL rfl | intro _
    | split | (fail_if_no_progress with_reducible apply keeps_set_power (within hL rfl))
    | (fail_if_no_progress with_reducible apply keeps_set_deckReduced (within hL rfl))

theorem keeps_execSagRecovered {L : Nat} {r s : State} (hL : Sub 0x27fbb6ff7d8 L) (h : Keeps L r s)
    (core : Nat) (io : Nat) :
    KeepsR L r (execSagRecovered core io s) := by
  unfold execSagRecovered
  try dsimp only
  repeat' first
    | with_reducible assumption | with_reducible apply keepsR_next | with_reducible apply keeps_foldl
    | with_reducible apply keeps_returnStep | with_reducible apply keeps_recordStep6 | exact within hL rfl
    | intro _ | split | (fail_if_no_progress with_reducible apply keeps_set_power (within hL rfl))

theorem keeps_execShedReturn {L : Nat} {r s : State} (hL : Sub 0x27fbb6ff7d8 L) (h : Keeps L r s) :
    KeepsR L r (execShedReturn s) := by
  unfold execShedReturn
  try dsimp only
  repeat' first
    | with_reducible assumption | with_reducible apply keepsR_next | with_reducible apply keeps_foldl
    | with_reducible apply keeps_returnStep | with_reducible apply keeps_advanceTo | exact within hL rfl
    | intro _ | split

theorem keeps_execThermalTrip {L : Nat} {r s : State} (hL : Sub 0x276bb6ff7f8 L) (h : Keeps L r s)
    (reading : Int) :
    KeepsR L r (execThermalTrip reading s) := by
  unfold execThermalTrip
  try dsimp only
  repeat' first
    | with_reducible assumption | with_reducible apply keepsR_next | with_reducible apply keeps_foldl
    | with_reducible apply keeps_loseDevice | exact within hL rfl | intro _ | split
    | (fail_if_no_progress with_reducible apply keeps_set_env_lighthouse (within hL rfl))

end Sys2Proof.Machine
end

