-- ==== Sys2Proof/Laws/KeepsCmds.lean ====
section
/-! SUPPORT. `Keeps` of the operations of RecordCmds, TileOps, TileCmds, Registers, RegisterCmds. -/

namespace Sys2Proof.Machine

theorem keeps_recordStart {L : Nat} {r s : State} (hL : Sub 0x22400080210 L) (h : Keeps L r s) :
    Keeps L r (State.recordStart s) := by
  unfold State.recordStart
  try dsimp only
  repeat' first
    | with_reducible assumption | with_reducible apply keepsR_next | with_reducible apply keeps_foldl
    | with_reducible apply keeps_record

theorem keeps_enableRecorder {L : Nat} {r s : State} (hL : Sub 0x22402080210 L) (h : Keeps L r s) :
    Keeps L r (State.enableRecorder s) := by
  unfold State.enableRecorder
  try dsimp only
  repeat' first
    | with_reducible assumption | with_reducible apply keepsR_next | with_reducible apply keeps_foldl
    | with_reducible apply keeps_note | with_reducible apply keeps_refuseRing
    | with_reducible apply keeps_recordStart | exact within hL rfl | intro _ | split
    | (fail_if_no_progress with_reducible apply keeps_set_streams_recorder (within hL rfl))

theorem keeps_disableRecorder {L : Nat} {r s : State} (hL : Sub 0x22400080210 L) (h : Keeps L r s) :
    Keeps L r (State.disableRecorder s) := by
  unfold State.disableRecorder
  try dsimp only
  repeat' first
    | with_reducible assumption | with_reducible apply keepsR_next | with_reducible apply keeps_foldl
    | with_reducible apply keeps_record | exact within hL rfl | intro _ | split
    | (fail_if_no_progress with_reducible apply keeps_set_recorder (within hL rfl))

theorem keeps_askCheckpoint {L : Nat} {r s : State} (hL : Sub 0x400000000 L) (h : Keeps L r s) :
    Keeps L r (State.askCheckpoint s) := by
  unfold State.askCheckpoint
  try dsimp only
  repeat' first
    | with_reducible assumption | with_reducible apply keepsR_next | with_reducible apply keeps_foldl
    | exact within hL rfl | intro _ | split
    | (fail_if_no_progress with_reducible apply keeps_set_recorder (within hL rfl))

theorem keeps_writeRecordCtrl {L : Nat} {r s : State} (hL : Sub 0x22402080210 L) (h : Keeps L r s) (v : Nat) :
    Keeps L r (State.writeRecordCtrl s v) := by
  unfold State.writeRecordCtrl
  try dsimp only
  repeat' first
    | with_reducible assumption | with_reducible apply keepsR_next | with_reducible apply keeps_foldl
    | with_reducible apply keeps_enableRecorder | with_reducible apply keeps_disableRecorder
    | with_reducible apply keeps_askCheckpoint | exact within hL rfl | intro _ | split
    | (fail_if_no_progress with_reducible apply keeps_set_recorder (within hL rfl))

theorem keeps_recordStates {L : Nat} {r s : State} (hL : Sub 0x22400080210 L) (h : Keeps L r s) :
    Keeps L r (State.recordStates s) := by
  unfold State.recordStates
  try dsimp only
  repeat' first
    | with_reducible assumption | with_reducible apply keepsR_next | with_reducible apply keeps_foldl
    | with_reducible apply keeps_record | exact within hL rfl | intro _ | split

theorem keeps_stopReplay {L : Nat} {r s : State} (hL : Sub 0x22400080210 L) (h : Keeps L r s) :
    Keeps L r (State.stopReplay s) := by
  unfold State.stopReplay
  try dsimp only
  repeat' first
    | with_reducible assumption | with_reducible apply keepsR_next | with_reducible apply keeps_foldl
    | with_reducible apply keeps_note | exact within hL rfl | intro _ | split
    | (fail_if_no_progress with_reducible apply keeps_set_recorder (within hL rfl))

theorem keeps_passEntry {L : Nat} {r s : State} (hL : Sub 0x400000000 L) (h : Keeps L r s)
    (e : State.LogEntry) :
    Keeps L r (State.passEntry s e) := by
  unfold State.passEntry
  try dsimp only
  repeat' first
    | with_reducible assumption | with_reducible apply keepsR_next | with_reducible apply keeps_foldl
    | exact within hL rfl | intro _ | split
    | (fail_if_no_progress with_reducible apply keeps_set_recorder (within hL rfl))

theorem keeps_applyCommand {L : Nat} {r s t : State} (hL : Sub 0x2240008d210 L) (h : Keeps L r s) (e : State.LogEntry)
    (ht : s.applyCommand e = some t) : Keeps L r t := by
  unfold State.applyCommand at ht
  dsimp only at ht
  split at ht
  · cases ht; exact keeps_diverge (within hL rfl) h
  · split at ht
    · contradiction
    · simp only [Option.some.injEq] at ht
      rw [← ht]
      apply keeps_updFlight (within hL rfl)
      apply keeps_sample (within hL rfl)
      apply keeps_set_recorder (within hL rfl)
      apply keeps_putHeaderWord (within hL rfl)
      apply keeps_deviceWrite (within hL rfl)
      split
      · exact h
      · exact keeps_diverge (within hL rfl) (keeps_setHead (within hL rfl) h _ _)

theorem keeps_applyHostWrite {L : Nat} {r s : State} (hL : Sub 0x224800cf2d0 L) (h : Keeps L r s)
    (e : State.LogEntry) :
    Keeps L r (State.applyHostWrite s e) := by
  unfold State.applyHostWrite
  try dsimp only
  repeat' first
    | with_reducible assumption | with_reducible apply keepsR_next | with_reducible apply keeps_foldl
    | with_reducible apply keeps_applyHostFlag | with_reducible apply keeps_applyCtxCtrl
    | with_reducible apply keeps_applyQueueCtrl | with_reducible apply keeps_diverge | exact within hL rfl
    | intro _ | split

theorem keeps_applyPortFrame {L : Nat} {r s : State} (hL : Sub 0x22436080a10 L) (h : Keeps L r s)
    (i : SctxId) (at_ : Nat) (length : Nat) :
    Keeps L r (State.applyPortFrame s i at_ length) := by
  unfold State.applyPortFrame
  try dsimp only
  repeat' first
    | with_reducible assumption | with_reducible apply keepsR_next | with_reducible apply keeps_foldl
    | with_reducible apply keeps_endFrame | with_reducible apply keeps_trace
    | with_reducible apply keeps_diverge | with_reducible apply keeps_checkSources
    | with_reducible apply keeps_updStream | with_reducible apply keeps_tear
    | with_reducible apply keeps_beginFrame | with_reducible apply keeps_countTorn | exact within hL rfl
    | intro _ | split | (fail_if_no_progress with_reducible apply keeps_set_blanks (within hL rfl))

theorem keeps_applyPipeFrame {L : Nat} {r s : State} (hL : Sub 0x224920cf2d0 L) (h : Keeps L r s)
    (i : SctxId) (no : Word) (at_ : Nat) (length : Nat) :
    Keeps L r (State.applyPipeFrame s i no at_ length) := by
  unfold State.applyPipeFrame
  try dsimp only
  repeat' first
    | with_reducible assumption | with_reducible apply keepsR_next | with_reducible apply keeps_foldl
    | with_reducible apply keeps_writeVa | with_reducible apply keeps_faultBinding
    | with_reducible apply keeps_deliver | with_reducible apply keeps_diverge
    | with_reducible apply keeps_ltrUpdate | with_reducible apply keeps_updStream
    | with_reducible apply keeps_stopReplay | exact within hL rfl | intro _ | split

theorem keeps_applyFeed {L : Nat} {r s : State} (hL : Sub 0x22436080a10 L) (h : Keeps L r s)
    (e : State.LogEntry) :
    Keeps L r (State.applyFeed s e) := by
  unfold State.applyFeed
  try dsimp only
  repeat' first
    | with_reducible assumption | with_reducible apply keepsR_next | with_reducible apply keeps_foldl
    | with_reducible apply keeps_endFrame | with_reducible apply keeps_updSession
    | with_reducible apply keeps_onFrame | with_reducible apply keeps_startFrame
    | with_reducible apply keeps_diverge | exact within hL rfl | intro _ | split

theorem keeps_applyWrite {L : Nat} {r s : State} (hL : Sub 0x80000 L) (h : Keeps L r s) (e : State.LogEntry) :
    Keeps L r (State.applyWrite s e) := by
  unfold State.applyWrite
  try dsimp only
  repeat' first
    | with_reducible assumption | with_reducible apply keepsR_next | with_reducible apply keeps_foldl
    | with_reducible apply keeps_updMem_store | with_reducible apply keeps_updMem | exact within hL rfl
    | intro _ | split | with_reducible apply Memory.wf_store

theorem keeps_applyState {L : Nat} {r s : State} (hL : Sub 0x22400084210 L) (h : Keeps L r s)
    (e : State.LogEntry) :
    Keeps L r (State.applyState s e) := by
  unfold State.applyState
  try dsimp only
  repeat' first
    | with_reducible assumption | with_reducible apply keepsR_next | with_reducible apply keeps_foldl
    | with_reducible apply keeps_diverge | with_reducible apply keeps_updCtx
    | with_reducible apply keeps_acceptAdapt | exact within hL rfl | intro _ | split

theorem keeps_applyManifest {L : Nat} {r s t : State} (hL : Sub 0xa0200 L) (h : Keeps L r s) (e : State.LogEntry)
    (ht : s.applyManifest e = some t) : Keeps L r t := by
  unfold State.applyManifest at ht
  split at ht
  · contradiction
  · simp only [Option.some.injEq] at ht
    rw [← ht]
    exact keeps_set_manifest (within hL rfl) (keeps_startLoad (within hL rfl) (keeps_set_manifest (within hL rfl) h))

theorem keeps_applyDecision {L : Nat} {r s : State} (hL : Sub 0x2a4800cd2d0 L) (h : Keeps L r s)
    (d : Decision) :
    Keeps L r (State.applyDecision s d) := by
  unfold State.applyDecision
  try dsimp only
  repeat' first
    | with_reducible assumption | with_reducible apply keepsR_next | with_reducible apply keeps_foldl
    | with_reducible apply keeps_diverge | with_reducible apply keeps_abandon | with_reducible apply keeps_fail
    | exact within hL rfl | intro _ | split
    | (fail_if_no_progress with_reducible apply keeps_set_recorder (within hL rfl))

theorem keeps_applyStart {L : Nat} {r s : State} (hL : Sub 0x22000080210 L) (h : Keeps L r s)
    (e : State.LogEntry) :
    Keeps L r (State.applyStart s e) := by
  unfold State.applyStart
  try dsimp only
  repeat' first
    | with_reducible assumption | with_reducible apply keepsR_next | with_reducible apply keeps_foldl
    | with_reducible apply keeps_note | exact within hL rfl | intro _ | split

theorem keeps_applyEntry {L : Nat} {r s t : State} (hL : Sub 0x2a4b60efad0 L) (h : Keeps L r s) (unit : Nat) (e : State.LogEntry)
    (ht : s.applyEntry unit e = some t) : Keeps L r t := by
  unfold State.applyEntry at ht
  dsimp only at ht
  split at ht
  · cases ht; exact keeps_applyStart (within hL rfl) h _
  · exact keeps_applyCommand (within hL rfl) h _ ht
  · cases ht; exact keeps_applyHostWrite (within hL rfl) h _
  · split at ht
    · cases ht; exact h
    · split at ht
      · contradiction
      · split at ht
        · cases ht; exact keeps_applyPortFrame (within hL rfl) h _ _ _
        · cases ht; exact keeps_applyPipeFrame (within hL rfl) h _ _ _ _
  · split at ht
    · cases ht; exact keeps_applyFeed (within hL rfl) h _
    · contradiction
  · simp only [Option.some.injEq] at ht
    rw [← ht]
    split
    · exact keeps_blank (within hL rfl) h _ _ _
    · exact keeps_applyUnblank (within hL rfl) h _
  · split at ht
    · cases ht; exact keeps_applyWrite (within hL rfl) h _
    · contradiction
  · cases ht; exact keeps_applyState (within hL rfl) h _
  · exact keeps_applyManifest (within hL rfl) h _ ht
  · cases ht; exact keeps_set_recorder (within hL rfl) h
  · cases ht; exact h
  · cases ht; exact keeps_applyDecision (within hL rfl) h _

theorem keeps_execRecordEnable {L : Nat} {r s : State} (hL : Sub 0x22402280298 L) (h : Keeps L r s)
    (ctrl : Word) :
    KeepsR L r (execRecordEnable ctrl s) := by
  unfold execRecordEnable
  try dsimp only
  repeat' first
    | with_reducible assumption | with_reducible apply keepsR_next | with_reducible apply keeps_foldl
    | with_reducible apply keeps_writeRecordCtrl | with_reducible apply keeps_wakeSlack | exact within hL rfl
    | intro _ | split

theorem keeps_execRecordDisable {L : Nat} {r s : State} (hL : Sub 0x22400280298 L) (h : Keeps L r s) :
    KeepsR L r (execRecordDisable s) := by
  unfold execRecordDisable
  try dsimp only
  repeat' first
    | with_reducible assumption | with_reducible apply keepsR_next | with_reducible apply keeps_foldl
    | with_reducible apply keeps_wakeSlack | with_reducible apply keeps_disableRecorder | exact within hL rfl
    | intro _ | split

theorem keeps_execRecordCheckpoint {L : Nat} {r s : State} (hL : Sub 0x20400200088 L) (h : Keeps L r s) :
    KeepsR L r (execRecordCheckpoint s) := by
  unfold execRecordCheckpoint
  try dsimp only
  repeat' first
    | with_reducible assumption | with_reducible apply keepsR_next | with_reducible apply keeps_foldl
    | with_reducible apply keeps_wakeSlack | with_reducible apply keeps_askCheckpoint | exact within hL rfl
    | intro _ | split

theorem keeps_execCheckpointStateWrite {L : Nat} {r s : State} (hL : Sub 0x22400080210 L) (h : Keeps L r s) :
    KeepsR L r (execCheckpointStateWrite s) := by
  unfold execCheckpointStateWrite
  try dsimp only
  repeat' first
    | with_reducible assumption | with_reducible apply keepsR_next | with_reducible apply keeps_foldl
    | with_reducible apply keeps_recordStates | exact within hL rfl | intro _ | split
    | (fail_if_no_progress with_reducible apply keeps_set_recorder (within hL rfl))

theorem keeps_execReplayEntryApply {L : Nat} {r s : State} (hL : Sub 0x2a4b60efad0 L) (h : Keeps L r s) :
    KeepsR L r (execReplayEntryApply s) := by
  unfold execReplayEntryApply
  try dsimp only
  repeat' first
    | with_reducible assumption | with_reducible apply keepsR_next | with_reducible apply keeps_foldl
    | with_reducible apply keeps_settle | with_reducible apply keeps_passEntry
    | with_reducible apply keeps_stopReplay | exact keeps_applyEntry (within hL rfl) h _ _ ‹_›
    | exact within hL rfl | intro _ | split
    | (fail_if_no_progress with_reducible apply keeps_set_recorder (within hL rfl))

theorem keeps_writeHostif {L : Nat} {r s : State} (hL : Sub 0x22000080250 L) (h : Keeps L r s)
    (o : Nat) (v : Nat) :
    Keeps L r (State.writeHostif s o v) := by
  unfold State.writeHostif
  try dsimp only
  repeat' first
    | with_reducible assumption | with_reducible apply keepsR_next | with_reducible apply keeps_foldl
    | with_reducible apply keeps_noteReserved | exact within hL rfl | intro _ | split
    | (fail_if_no_progress with_reducible apply keeps_set_hostif (within hL rfl))

theorem keeps_writeQtable {L : Nat} {r s : State} (hL : Sub 0x224800cf2d0 L) (h : Keeps L r s)
    (o : Nat) (v : Nat) :
    Keeps L r (State.writeQtable s o v) := by
  unfold State.writeQtable
  try dsimp only
  repeat' first
    | with_reducible assumption | with_reducible apply keepsR_next | with_reducible apply keeps_foldl
    | with_reducible apply keeps_updQueue | with_reducible apply keeps_writeQueueCtrl
    | with_reducible apply keeps_hostFlag | exact within hL rfl | intro _ | split

theorem keeps_writeCtx {L : Nat} {r s : State} (hL : Sub 0x2248009c210 L) (h : Keeps L r s)
    (o : Nat) (v : Nat) :
    Keeps L r (State.writeCtx s o v) := by
  unfold State.writeCtx
  try dsimp only
  repeat' first
    | with_reducible assumption | with_reducible apply keepsR_next | with_reducible apply keeps_foldl
    | with_reducible apply keeps_clearAcct | with_reducible apply keeps_writeCtxCtrl
    | with_reducible apply keeps_updCtx | with_reducible apply keeps_reshed | exact within hL rfl | intro _
    | split | (fail_if_no_progress with_reducible apply keeps_set_sched (within hL rfl))

theorem keeps_writeManifestReg {L : Nat} {r s : State} (hL : Sub 0x220000a0210 L) (h : Keeps L r s)
    (o : Nat) (v : Nat) :
    Keeps L r (State.writeManifestReg s o v) := by
  unfold State.writeManifestReg
  try dsimp only
  repeat' first
    | with_reducible assumption | with_reducible apply keepsR_next | with_reducible apply keeps_foldl
    | with_reducible apply keeps_writeManifestCtrl | exact within hL rfl | intro _ | split
    | (fail_if_no_progress with_reducible apply keeps_set_manifest (within hL rfl))

theorem keeps_writeTideCtrl {L : Nat} {r s : State} (hL : Sub 0x2220808c610 L) (h : Keeps L r s) (v : Nat) :
    Keeps L r (State.writeTideCtrl s v) := by
  unfold State.writeTideCtrl
  try dsimp only
  repeat' first
    | with_reducible assumption | with_reducible apply keepsR_next | with_reducible apply keeps_foldl
    | with_reducible apply keeps_lockPtm | exact within hL rfl | intro _ | split
    | (fail_if_no_progress with_reducible apply keeps_set_tide (within hL rfl))

theorem keeps_writeTide {L : Nat} {r s : State} (hL : Sub 0x2220808c610 L) (h : Keeps L r s)
    (o : Nat) (v : Nat) :
    Keeps L r (State.writeTide s o v) := by
  unfold State.writeTide
  try dsimp only
  repeat' first
    | with_reducible assumption | with_reducible apply keepsR_next | with_reducible apply keeps_foldl
    | with_reducible apply keeps_writeTideCtrl | with_reducible apply keeps_noteReserved | exact within hL rfl
    | intro _ | split | (fail_if_no_progress with_reducible apply keeps_set_tide (within hL rfl))

theorem keeps_writePower {L : Nat} {r s : State} (hL : Sub 0x2388208c210 L) (h : Keeps L r s)
    (o : Nat) (v : Nat) :
    Keeps L r (State.writePower s o v) := by
  unfold State.writePower
  try dsimp only
  repeat' first
    | with_reducible assumption | with_reducible apply keepsR_next | with_reducible apply keeps_foldl
    | with_reducible apply keeps_stopShedFrames | with_reducible apply keeps_noteReserved
    | with_reducible apply keeps_reshed | exact within hL rfl | intro _ | split
    | (fail_if_no_progress with_reducible apply keeps_set_power (within hL rfl))
    | (fail_if_no_progress with_reducible apply keeps_set_keep (within hL rfl))

theorem keeps_writeBoot {L : Nat} {r s : State} (hL : Sub 0x22000080216 L) (h : Keeps L r s)
    (o : Nat) (v : Nat) :
    Keeps L r (State.writeBoot s o v) := by
  unfold State.writeBoot
  try dsimp only
  repeat' first
    | with_reducible assumption | with_reducible apply keepsR_next | with_reducible apply keeps_foldl
    | with_reducible apply keeps_writeRelease | with_reducible apply keeps_writeMinver | exact within hL rfl
    | intro _ | split | (fail_if_no_progress with_reducible apply keeps_set_boot (within hL rfl))

theorem keeps_writeLogCtrl {L : Nat} {r s : State} (hL : Sub 0x22000080210 L) (h : Keeps L r s) (v : Nat) :
    Keeps L r (State.writeLogCtrl s v) := by
  unfold State.writeLogCtrl
  try dsimp only
  repeat' first
    | with_reducible assumption | with_reducible apply keepsR_next | with_reducible apply keeps_foldl
    | with_reducible apply keeps_enableLog | with_reducible apply keeps_noteReserved | exact within hL rfl
    | intro _ | split | (fail_if_no_progress with_reducible apply keeps_set_fwif (within hL rfl))

theorem keeps_writeTraceCtrl {L : Nat} {r s : State} (hL : Sub 0x22000080210 L) (h : Keeps L r s) (v : Nat) :
    Keeps L r (State.writeTraceCtrl s v) := by
  unfold State.writeTraceCtrl
  try dsimp only
  repeat' first
    | with_reducible assumption | with_reducible apply keepsR_next | with_reducible apply keeps_foldl
    | with_reducible apply keeps_enableTrace | with_reducible apply keeps_noteReserved | exact within hL rfl
    | intro _ | split | (fail_if_no_progress with_reducible apply keeps_set_fwif (within hL rfl))

theorem keeps_writeFwif {L : Nat} {r s : State} (hL : Sub 0x22000080210 L) (h : Keeps L r s)
    (o : Nat) (v : Nat) :
    Keeps L r (State.writeFwif s o v) := by
  unfold State.writeFwif
  try dsimp only
  repeat' first
    | with_reducible assumption | with_reducible apply keepsR_next | with_reducible apply keeps_foldl
    | with_reducible apply keeps_writeLogHead | with_reducible apply keeps_writeLoad
    | with_reducible apply keeps_writeNegotiate | with_reducible apply keeps_writeGo
    | with_reducible apply keeps_writeTraceCtrl | with_reducible apply keeps_writeLogCtrl | exact within hL rfl
    | intro _ | split | (fail_if_no_progress with_reducible apply keeps_set_fwif (within hL rfl))

theorem keeps_writeFault {L : Nat} {r s : State} (hL : Sub 0x26000080210 L) (h : Keeps L r s)
    (o : Nat) (v : Nat) :
    Keeps L r (State.writeFault s o v) := by
  unfold State.writeFault
  try dsimp only
  repeat' first
    | with_reducible assumption | with_reducible apply keepsR_next | with_reducible apply keeps_foldl
    | with_reducible apply keeps_noteReserved | with_reducible apply keeps_enableFaultRing | exact within hL rfl
    | intro _ | split | (fail_if_no_progress with_reducible apply keeps_set_faults (within hL rfl))

theorem keeps_writeRecordReg {L : Nat} {r s : State} (hL : Sub 0x22402080210 L) (h : Keeps L r s)
    (o : Nat) (v : Nat) :
    Keeps L r (State.writeRecordReg s o v) := by
  unfold State.writeRecordReg
  try dsimp only
  repeat' first
    | with_reducible assumption | with_reducible apply keepsR_next | with_reducible apply keeps_foldl
    | with_reducible apply keeps_writeRecordCtrl | with_reducible apply keeps_noteReserved | exact within hL rfl
    | intro _ | split | (fail_if_no_progress with_reducible apply keeps_set_recorder (within hL rfl))

theorem keeps_writeQuay {L : Nat} {r s : State} (hL : Sub 0x2a6800cd2d0 L) (h : Keeps L r s)
    (q : QuayId) (o : Nat) (v : Nat) :
    Keeps L r (State.writeQuay s q o v) := by
  unfold State.writeQuay
  try dsimp only
  repeat' first
    | with_reducible assumption | with_reducible apply keepsR_next | with_reducible apply keeps_foldl
    | with_reducible apply keeps_updQuay | with_reducible apply keeps_updBerth
    | with_reducible apply keeps_startQuayReset | exact within hL rfl | intro _ | split

theorem keeps_outputStands {L : Nat} {r s : State} (hL : Sub 0x10000000000 L) (h : Keeps L r s) (i : SctxId) :
    Keeps L r (s.outputStands i).2 := by
  unfold State.outputStands
  split
  · exact h
  · exact keeps_takeFree (within hL rfl) h

theorem keeps_blankNow {L : Nat} {r s : State} (hL : Sub 0x32406080210 L) (h : Keeps L r s) (i : SctxId) :
    Keeps L r (s.blankNow i) := by
  unfold State.blankNow
  dsimp only
  apply keeps_blank (within hL rfl)
  have key : ∀ (l : List SctxId) (a : List (SctxId × BitVec 16) × State), Keeps L r a.2 → Keeps L r (l.foldl (fun a j =>
      (a.1 ++ [(j, (a.2.outputStands j).1)], (a.2.outputStands j).2)) a).2 := by
    intro l
    induction l with
    | nil => exact fun _ h => h
    | cons j l ih => exact fun a ha => ih _ (keeps_outputStands (within hL rfl) ha j)
  exact key _ _ (keeps_outputStands (within hL rfl) h i)

theorem keeps_writeSctx {L : Nat} {r s : State} (hL : Sub 0x32436080a90 L) (h : Keeps L r s)
    (i : SctxId) (o : Nat) (v : Nat) :
    Keeps L r (State.writeSctx s i o v) := by
  unfold State.writeSctx
  try dsimp only
  repeat' first
    | with_reducible assumption | with_reducible apply keepsR_next | with_reducible apply keeps_foldl
    | with_reducible apply keeps_unblank | with_reducible apply keeps_blankNow
    | with_reducible apply keeps_updStream | with_reducible apply keeps_writeFeedGo | exact within hL rfl
    | intro _ | split

theorem keeps_writeCsi {L : Nat} {r s : State} (hL : Sub 0x32437080a90 L) (h : Keeps L r s)
    (o : Nat) (v : Nat) :
    Keeps L r (State.writeCsi s o v) := by
  unfold State.writeCsi
  try dsimp only
  repeat' first
    | with_reducible assumption | with_reducible apply keepsR_next | with_reducible apply keeps_foldl
    | with_reducible apply keeps_writePortCtrl | with_reducible apply keeps_writeSctx
    | with_reducible apply keeps_writePortCfg | exact within hL rfl | intro _ | split

theorem keeps_writeSession {L : Nat} {r s : State} (hL : Sub 0x22030080210 L) (h : Keeps L r s)
    (n : SessId) (o : Nat) (v : Nat) :
    Keeps L r (State.writeSession s n o v) := by
  unfold State.writeSession
  try dsimp only
  repeat' first
    | with_reducible assumption | with_reducible apply keepsR_next | with_reducible apply keeps_foldl
    | with_reducible apply keeps_enableSession | with_reducible apply keeps_disableSession
    | with_reducible apply keeps_writeForceKey | with_reducible apply keeps_writeCodecGo
    | with_reducible apply keeps_updSession | exact within hL rfl | intro _ | split

theorem keeps_writeCodec {L : Nat} {r s : State} (hL : Sub 0x22030080210 L) (h : Keeps L r s)
    (o : Nat) (v : Nat) :
    Keeps L r (State.writeCodec s o v) := by
  unfold State.writeCodec
  try dsimp only
  repeat' first
    | with_reducible assumption | with_reducible apply keepsR_next | with_reducible apply keeps_foldl
    | with_reducible apply keeps_writeSession | exact within hL rfl | intro _ | split

theorem keeps_writeMemctl {L : Nat} {r s : State} (hL : Sub 0x22000780210 L) (h : Keeps L r s)
    (o : Nat) (v : Nat) :
    Keeps L r (State.writeMemctl s o v) := by
  unfold State.writeMemctl
  try dsimp only
  repeat' first
    | with_reducible assumption | with_reducible apply keepsR_next | with_reducible apply keeps_foldl
    | with_reducible apply keeps_writeStrict | with_reducible apply keeps_writeHidden | exact within hL rfl
    | intro _ | split | (fail_if_no_progress with_reducible apply keeps_set_memctl (within hL rfl))
    | (fail_if_no_progress with_reducible apply keeps_set_harbour (within hL rfl))

theorem keeps_writeDeck {L : Nat} {r s : State} (hL : Sub 0x40000000 L) (h : Keeps L r s) (o : Nat) (v : Nat) :
    Keeps L r (State.writeDeck s o v) := by
  unfold State.writeDeck
  try dsimp only
  repeat' first
    | with_reducible assumption | with_reducible apply keepsR_next | with_reducible apply keeps_foldl
    | exact within hL rfl | intro _ | split
    | (fail_if_no_progress with_reducible apply keeps_set_deckFaults (within hL rfl))

theorem keeps_writeReg {L : Nat} {r s : State} (hL : Sub 0x3feff7fffde L) (h : Keeps L r s)
    (off : Nat) (v : Nat) :
    Keeps L r (State.writeReg s off v) := by
  unfold State.writeReg
  try dsimp only
  repeat' first
    | with_reducible assumption | with_reducible apply keepsR_next | with_reducible apply keeps_foldl
    | with_reducible apply keeps_writeTide | with_reducible apply keeps_writeRecordReg
    | with_reducible apply keeps_writeCodec | with_reducible apply keeps_requestDeviceReset
    | with_reducible apply keeps_writeMemctl | with_reducible apply keeps_writeDeck
    | with_reducible apply keeps_writeQtable | with_reducible apply keeps_writeQuay
    | with_reducible apply keeps_writeHalt | with_reducible apply keeps_writeFwif
    | with_reducible apply keeps_writeHostif | with_reducible apply keeps_writePower
    | with_reducible apply keeps_writeCsi | with_reducible apply keeps_writeManifestReg
    | with_reducible apply keeps_writeCtx | with_reducible apply keeps_writeBoot
    | with_reducible apply keeps_writeFault | exact within hL rfl | intro _ | split

theorem keeps_writeSized {L : Nat} {r s : State} (hL : Sub 0x3feff7fffde L) (h : Keeps L r s)
    (offset : Nat) (size : Nat) (value : BitVec 64) :
    Keeps L r (State.writeSized s offset size value) := by
  unfold State.writeSized
  try dsimp only
  repeat' first
    | with_reducible assumption | with_reducible apply keepsR_next | with_reducible apply keeps_foldl
    | with_reducible apply keeps_writeReg | exact within hL rfl | intro _ | split

theorem wf_outsideCapture (s : State) (bs : List Byte) {m : Memory} (h : m.wf) (a : Nat) :
    (s.outsideCapture m a bs).wf := by
  unfold State.outsideCapture
  generalize s.outsideRuns a bs = runs
  induction runs generalizing m with
  | nil => exact h
  | cons r runs ih => exact ih (Memory.wf_store h r.1 r.2)

theorem keeps_bar2Store {L : Nat} {r s : State} (hL : Sub 0x22400080210 L) (h : Keeps L r s) (a : Nat) (bs : List Byte) :
    Keeps L r (s.bar2Store a bs) := by
  unfold State.bar2Store
  split
  · exact keeps_replayDrop (within hL rfl) (keeps_set_mem (within hL rfl) h fun w => wf_outsideCapture _ _ w _)
  · dsimp only
    split
    · exact keeps_foldl (keeps_updMem_store (within hL rfl) h _ _) fun _ _ hx => keeps_record (within hL rfl) hx _ _ _ _
    · exact keeps_updMem_store (within hL rfl) h _ _

theorem keeps_holdStore {L : Nat} {r s : State} (hL : Sub 0x22000080214 L) (h : Keeps L r s)
    (offset : Nat) (bs : List Byte) :
    Keeps L r (State.holdStore s offset bs) := by
  unfold State.holdStore
  try dsimp only
  repeat' first
    | with_reducible assumption | with_reducible apply keepsR_next | with_reducible apply keeps_foldl
    | with_reducible apply keeps_updMem_store | with_reducible apply keeps_updMem
    | with_reducible apply keeps_dropHoldWrite | exact within hL rfl | intro _ | split

theorem keeps_dropPoisoned {L : Nat} {r s : State} (hL : Sub 0x22000080230 L) (h : Keeps L r s) :
    Keeps L r (State.dropPoisoned s) := by
  unfold State.dropPoisoned
  try dsimp only
  repeat' first
    | with_reducible assumption | with_reducible apply keepsR_next | with_reducible apply keeps_foldl
    | with_reducible apply keeps_note | with_reducible apply keeps_sendAer | exact within hL rfl | intro _
    | split

theorem keeps_bar2Write {L : Nat} {r s : State} (hL : Sub 0x22400080234 L) (h : Keeps L r s)
    (offset : Nat) (bs : List Byte) (poisoned : Bool) :
    Keeps L r (State.bar2Write s offset bs poisoned) := by
  unfold State.bar2Write
  try dsimp only
  repeat' first
    | with_reducible assumption | with_reducible apply keepsR_next | with_reducible apply keeps_foldl
    | with_reducible apply keeps_note | with_reducible apply keeps_dropPoisoned
    | with_reducible apply keeps_holdStore | with_reducible apply keeps_dropHoldWrite
    | with_reducible apply keeps_bar2Store | exact within hL rfl | intro _ | split

theorem keeps_writeBar4Sized {L : Nat} {r s : State} (hL : Sub 0x20000000010 L) (h : Keeps L r s)
    (offset : Nat) (size : Nat) (value : BitVec 64) :
    Keeps L r (State.writeBar4Sized s offset size value) := by
  unfold State.writeBar4Sized
  try dsimp only
  repeat' first
    | with_reducible assumption | with_reducible apply keepsR_next | with_reducible apply keeps_foldl
    | with_reducible apply keeps_writeBar4 | exact within hL rfl | intro _ | split

theorem keeps_execRegisterWrite {L : Nat} {r s : State} (hL : Sub 0x3feff7ffffe L) (h : Keeps L r s)
    (target : WriteTarget) (size : Nat) (value : BitVec 64) (enables : BitVec 8) (poisoned : Bool) :
    KeepsR L r (execRegisterWrite target size value enables poisoned s) := by
  unfold execRegisterWrite
  try dsimp only
  repeat' first
    | with_reducible assumption | with_reducible apply keepsR_next | with_reducible apply keeps_foldl
    | with_reducible apply keeps_note | with_reducible apply keeps_dropPoisoned
    | with_reducible apply keeps_writeBar4Sized | with_reducible apply keeps_wakeSlack
    | with_reducible apply keeps_sendAer | with_reducible apply keeps_writeSized
    | with_reducible apply keeps_writeConfig | exact within hL rfl | intro _ | split

theorem keeps_execBootHoldWrite {L : Nat} {r s : State} (hL : Sub 0x224002802bc L) (h : Keeps L r s)
    (offset : Nat) (data : List Byte) :
    KeepsR L r (execBootHoldWrite offset data s) := by
  unfold execBootHoldWrite
  try dsimp only
  repeat' first
    | with_reducible assumption | with_reducible apply keepsR_next | with_reducible apply keeps_foldl
    | with_reducible apply keeps_wakeSlack | with_reducible apply keeps_bar2Write | exact within hL rfl

theorem keeps_execBar2Write {L : Nat} {r s : State} (hL : Sub 0x224002802bc L) (h : Keeps L r s)
    (offset : Nat) (data : List Byte) (poisoned : Bool) :
    KeepsR L r (execBar2Write offset data poisoned s) := by
  unfold execBar2Write
  try dsimp only
  repeat' first
    | with_reducible assumption | with_reducible apply keepsR_next | with_reducible apply keeps_foldl
    | with_reducible apply keeps_wakeSlack | with_reducible apply keeps_bar2Write | exact within hL rfl

theorem keeps_execBar2Read {L : Nat} {r s : State} (hL : Sub 0x22000280298 L) (h : Keeps L r s)
    (offset : Nat) (length : Nat) :
    KeepsR L r (execBar2Read offset length s) := by
  unfold execBar2Read
  try dsimp only
  repeat' first
    | with_reducible assumption | with_reducible apply keepsR_next | with_reducible apply keeps_foldl
    | with_reducible apply keeps_note | with_reducible apply keeps_wakeSlack | with_reducible apply keeps_send
    | exact within hL rfl | intro _ | split

theorem keeps_execBar2Resize {L : Nat} {r s : State} (hL : Sub 0x10 L) (h : Keeps L r s) (log2 : Nat) :
    KeepsR L r (execBar2Resize log2 s) := by
  unfold execBar2Resize
  try dsimp only
  repeat' first
    | with_reducible assumption | with_reducible apply keepsR_next | with_reducible apply keeps_foldl
    | with_reducible apply keeps_resizeBar2 | exact within hL rfl | intro _ | split

theorem keeps_updArray {L : Nat} {r s : State} (hL : Sub 0x40000 L) (h : Keeps L r s)
    (q : QuayId) (a : List Nat) (f : Berth → Berth) :
    Keeps L r (State.updArray s q a f) := by
  unfold State.updArray
  try dsimp only
  repeat' first
    | with_reducible assumption | with_reducible apply keepsR_next | with_reducible apply keeps_foldl
    | with_reducible apply keeps_updBerth | exact within hL rfl | intro _

theorem keeps_fetchSources {L : Nat} {r s : State} (hL : Sub 0x48000 L) (h : Keeps L r s)
    (f : Flight) (q : QuayId) (t : Tile) :
    Keeps L r (State.fetchSources s f q t) := by
  unfold State.fetchSources
  try dsimp only
  repeat' first
    | with_reducible assumption | with_reducible apply keepsR_next | with_reducible apply keeps_foldl
    | with_reducible apply keeps_updQuay | with_reducible apply keeps_updFlight | exact within hL rfl | intro _

theorem keeps_placeOperands {L : Nat} {r s : State} (hL : Sub 0x40000 L) (h : Keeps L r s)
    (q : QuayId) (n : Nat) (t : Tile) :
    Keeps L r (State.placeOperands s q n t) := by
  unfold State.placeOperands
  try dsimp only
  repeat' first
    | with_reducible assumption | with_reducible apply keepsR_next | with_reducible apply keeps_foldl
    | with_reducible apply keeps_updBerth | exact within hL rfl | intro _

theorem keeps_stopTile {L : Nat} {r s : State} (hL : Sub 0x2a0800cd2d0 L) (h : Keeps L r s)
    (f : Flight) (q : QuayId) (a : List Nat) (e : Event) :
    Keeps L r (State.stopTile s f q a e) := by
  unfold State.stopTile
  try dsimp only
  repeat' first
    | with_reducible assumption | with_reducible apply keepsR_next | with_reducible apply keeps_foldl
    | with_reducible apply keeps_updArray | with_reducible apply keeps_failQuiet
    | with_reducible apply keeps_report | exact within hL rfl

theorem keeps_stopOthers {L : Nat} {r s : State} (hL : Sub 0x40000 L) (h : Keeps L r s) (f : Flight) :
    Keeps L r (State.stopOthers s f) := by
  unfold State.stopOthers
  try dsimp only
  repeat' first
    | with_reducible assumption | with_reducible apply keepsR_next | with_reducible apply keeps_foldl
    | exact within hL rfl | intro _ | split
    | (fail_if_no_progress with_reducible apply keeps_set_quays (within hL rfl))

theorem keeps_correctReads {L : Nat} {r s : State} (hL : Sub 0x220000c0a10 L) (h : Keeps L r s)
    (q : QuayId) (rs : List HoldRead) (stop : Option Nat) :
    Keeps L r (State.correctReads s q rs stop) := by
  unfold State.correctReads
  try dsimp only
  repeat' first
    | with_reducible assumption | with_reducible apply keepsR_next | with_reducible apply keeps_foldl
    | with_reducible apply keeps_holdCorrected | exact within hL rfl | intro _

theorem keeps_countEarly {L : Nat} {r s : State} (hL : Sub 0x2000040000 L) (h : Keeps L r s)
    (q : QuayId) (l : List Seen) :
    Keeps L r (State.countEarly s q l) := by
  unfold State.countEarly
  try dsimp only
  repeat' first
    | with_reducible assumption | with_reducible apply keepsR_next | with_reducible apply keeps_foldl
    | with_reducible apply keeps_countColumn | with_reducible apply keeps_updBerth | exact within hL rfl
    | intro _ | split

theorem keeps_stopReads {L : Nat} {r s : State} (hL : Sub 0x2a0800cd2d0 L) (h : Keeps L r s)
    (f : Flight) (q : QuayId) (b : BerthId) (a : List Nat) (t : Tile) (met : List Seen) (cycle : Nat) :
    Keeps L r (State.stopReads s f q b a t met cycle) := by
  unfold State.stopReads
  try dsimp only
  repeat' first
    | with_reducible assumption | with_reducible apply keepsR_next | with_reducible apply keeps_foldl
    | with_reducible apply keeps_holdBad | with_reducible apply keeps_stopTile
    | with_reducible apply keeps_stopOthers | with_reducible apply keeps_updBerth
    | with_reducible apply keeps_countEarly | exact within hL rfl | intro _ | split

theorem keeps_storeRead {L : Nat} {r s : State} (hL : Sub 0x2a0800cdad0 L) (h : Keeps L r s) (f : Flight) (q : QuayId) (t : Tile) :
    Keeps L r (s.storeRead f q t).1 := by
  have h' : Keeps L r (t.storeReads.foldl (fun s w => s.storeWord { w with quay := q }) s) :=
    keeps_foldl h fun _ _ hx => keeps_storeWord (within hL rfl) hx _
  unfold State.storeRead
  split
  · exact keeps_failQuiet (within hL rfl) (keeps_report (within hL rfl) h' _) _ _ _
  · exact h'

theorem keeps_startTile {L : Nat} {r s : State} (hL : Sub 0x40000 L) (h : Keeps L r s)
    (f : Flight) (q : QuayId) (b : BerthId) (a : List Nat) (t : Tile) :
    Keeps L r (State.startTile s f q b a t) := by
  unfold State.startTile
  try dsimp only
  repeat' first
    | with_reducible assumption | with_reducible apply keepsR_next | with_reducible apply keeps_foldl
    | with_reducible apply keeps_updArray | with_reducible apply keeps_updBerth

theorem keeps_noteNan {L : Nat} {r s : State} (hL : Sub 0x8000 L) (h : Keeps L r s) (f : Flight) (y : Yield) :
    Keeps L r (State.noteNan s f y) := by
  unfold State.noteNan
  try dsimp only
  repeat' first
    | with_reducible assumption | with_reducible apply keepsR_next | with_reducible apply keeps_foldl
    | with_reducible apply keeps_updFlight

theorem keeps_noteDiscarded {L : Nat} {r s : State} (hL : Sub 0x8000 L) (h : Keeps L r s)
    (f : Flight) (x2 : TileRun) :
    Keeps L r (State.noteDiscarded s f x2) := by
  unfold State.noteDiscarded
  try dsimp only
  repeat' first
    | with_reducible assumption | with_reducible apply keepsR_next | with_reducible apply keeps_foldl
    | with_reducible apply keeps_noteNan

theorem keeps_rerunTile {L : Nat} {r s : State} (hL : Sub 0x2a0800cdad0 L) (h : Keeps L r s)
    (f : Flight) (q : QuayId) (b : BerthId) (a : List Nat) (x5 : TileRun) (tile : Tile) :
    Keeps L r (State.rerunTile s f q b a x5 tile) := by
  unfold State.rerunTile
  try dsimp only
  repeat' first
    | with_reducible assumption | with_reducible apply keepsR_next | with_reducible apply keeps_foldl
    | with_reducible apply keeps_updArray | with_reducible apply keeps_stopReads
    | with_reducible apply keeps_updBerth | with_reducible apply keeps_correctReads
    | with_reducible apply keeps_noteDiscarded | with_reducible apply keeps_storeRead | exact within hL rfl
    | intro _ | split

theorem keeps_runTile {L : Nat} {r s : State} (hL : Sub 0x2a0800cdad0 L) (h : Keeps L r s)
    (f : Flight) (q : QuayId) (b : BerthId) (a : List Nat) (tile : Tile) :
    Keeps L r (State.runTile s f q b a tile) := by
  unfold State.runTile
  try dsimp only
  repeat' first
    | with_reducible assumption | with_reducible apply keepsR_next | with_reducible apply keeps_foldl
    | with_reducible apply keeps_stopReads | with_reducible apply keeps_correctReads
    | with_reducible apply keeps_placeOperands | with_reducible apply keeps_fetchSources
    | with_reducible apply keeps_startTile | with_reducible apply keeps_storeRead | exact within hL rfl
    | intro _ | split

theorem keeps_firstRun {L : Nat} {r s : State} (hL : Sub 0x2a0800cdad0 L) (h : Keeps L r s)
    (f : Flight) (q : QuayId) (b : BerthId) (a : List Nat) (tile : Tile) :
    Keeps L r (State.firstRun s f q b a tile) := by
  unfold State.firstRun
  try dsimp only
  repeat' first
    | with_reducible assumption | with_reducible apply keepsR_next | with_reducible apply keeps_foldl
    | with_reducible apply keeps_mmuFail | with_reducible apply keeps_fail | with_reducible apply keeps_runTile
    | exact keeps_fetching? (within hL rfl) h _ _ ‹_› | exact within hL rfl | intro _ | split

theorem keeps_execTileRun {L : Nat} {r s : State} (hL : Sub 0x2a0800cdad0 L) (h : Keeps L r s)
    (q : QuayId) (b : BerthId) (tile : Tile) :
    KeepsR L r (execTileRun q b tile s) := by
  unfold execTileRun
  try dsimp only
  repeat' first
    | with_reducible assumption | with_reducible apply keepsR_next | with_reducible apply keeps_foldl
    | with_reducible apply keeps_updArray | with_reducible apply keeps_rerunTile
    | with_reducible apply keeps_firstRun | exact within hL rfl | intro _ | split

theorem keeps_endStep {L : Nat} {r s : State} (hL : Sub 0x22400088210 L) (h : Keeps L r s)
    (q : QueueId) (idx : Word) (t : BitVec 16) (step : Word) :
    Keeps L r (State.endStep s q idx t step) := by
  unfold State.endStep
  try dsimp only
  repeat' first
    | with_reducible assumption | with_reducible apply keepsR_next | with_reducible apply keeps_foldl
    | with_reducible apply keeps_countDiverge | with_reducible apply keeps_updFlight
    | with_reducible apply keeps_report | exact within hL rfl | intro _ | split

theorem keeps_releaseWrites {L : Nat} {r s : State} (hL : Sub 0x2a0800cd2d0 L) (h : Keeps L r s) (f : Flight) (ws : List TileWrite) :
    Keeps L r (s.releaseWrites f ws).1 := by
  unfold State.releaseWrites
  dsimp only
  split
  · exact keeps_mmuFail (within hL rfl) h _ _ _
  · have h' := keeps_foldl (l := ws) (f := fun (s : State) (w : TileWrite) =>
      writeVa s f.entry.ctx w.va.toNat (s.writeBytes f.entry.ctx w)) h
      (fun x w hx => keeps_writeVa (within hL rfl) hx _ _ _)
    split
    · exact keeps_fail (within hL rfl) h' _ _ _
    · exact h'

theorem keeps_tileBoundary {L : Nat} {r s : State} (hL : Sub 0x2a4800cc210 L) (h : Keeps L r s)
    (q : QueueId) (idx : Word) :
    Keeps L r (State.tileBoundary s q idx) := by
  unfold State.tileBoundary
  try dsimp only
  repeat' first
    | with_reducible assumption | with_reducible apply keepsR_next | with_reducible apply keeps_foldl
    | with_reducible apply keeps_updFlight | with_reducible apply keeps_evaluate
    | with_reducible apply keeps_suspendDispatch | exact within hL rfl | intro _ | split

theorem keeps_keepResults {L : Nat} {r s : State} (hL : Sub 0x40000 L) (h : Keeps L r s)
    (q : QuayId) (b : BerthId) (t : Tile) (y : Yield) :
    Keeps L r (State.keepResults s q b t y) := by
  unfold State.keepResults
  try dsimp only
  repeat' first
    | with_reducible assumption | with_reducible apply keepsR_next | with_reducible apply keeps_foldl
    | with_reducible apply keeps_updQuay | with_reducible apply keeps_updBerth | exact within hL rfl | intro _
    | split

theorem keeps_releaseTile {L : Nat} {r s : State} (hL : Sub 0x2a4800cd2d0 L) (h : Keeps L r s)
    (f : Flight) (q : QuayId) (b : BerthId) (a : List Nat) (x5 : TileRun) (y : Yield) :
    Keeps L r (State.releaseTile s f q b a x5 y) := by
  unfold State.releaseTile
  try dsimp only
  repeat' first
    | with_reducible assumption | with_reducible apply keepsR_next | with_reducible apply keeps_foldl
    | with_reducible apply keeps_updArray | with_reducible apply keeps_keepResults
    | with_reducible apply keeps_updBerth | with_reducible apply keeps_tileBoundary
    | with_reducible apply keeps_endStep | with_reducible apply keeps_settle
    | with_reducible apply keeps_updFlight | with_reducible apply keeps_noteNan
    | with_reducible apply keeps_releaseWrites | exact within hL rfl | intro _ | split

theorem keeps_execTileEnd {L : Nat} {r s : State} (hL : Sub 0x2a4800cd2d0 L) (h : Keeps L r s)
    (q : QuayId) (b : BerthId) (faults : List TileFault) :
    KeepsR L r (execTileEnd q b faults s) := by
  unfold execTileEnd
  try dsimp only
  repeat' first
    | with_reducible assumption | with_reducible apply keepsR_next | with_reducible apply keeps_foldl
    | with_reducible apply keeps_updBerth | with_reducible apply keeps_releaseTile | exact within hL rfl
    | intro _ | split

theorem keeps_checkEvent {L : Nat} {r s : State} (hL : Sub 0x22000080210 L) (h : Keeps L r s)
    (e : Event) (loc : RepairLoc) (weight : Nat) :
    Keeps L r (State.checkEvent s e loc weight) := by
  unfold State.checkEvent
  try dsimp only
  repeat' first
    | with_reducible assumption | with_reducible apply keepsR_next | with_reducible apply keeps_foldl
    | with_reducible apply keeps_countRepair | with_reducible apply keeps_report | exact within hL rfl

theorem keeps_corrected {L : Nat} {r s : State} (hL : Sub 0x220000c0210 L) (h : Keeps L r s)
    (f : Flight) (q : QuayId) (l : List Seen) :
    Keeps L r (State.corrected s f q l) := by
  unfold State.corrected
  try dsimp only
  repeat' first
    | with_reducible assumption | with_reducible apply keepsR_next | with_reducible apply keeps_foldl
    | with_reducible apply keeps_countColumn | with_reducible apply keeps_checkEvent
    | with_reducible apply keeps_updBerth | with_reducible apply keeps_report | exact within hL rfl | intro _
    | split

theorem keeps_contained {L : Nat} {r s : State} (hL : Sub 0x220000c0210 L) (h : Keeps L r s) (f : Flight) (q : QuayId)
    (captured : Option BerthId) (l : List Seen) : Keeps L r (s.contained f q captured l).1 := by
  unfold State.contained
  dsimp only
  repeat' first
    | with_reducible assumption | with_reducible apply keeps_checkEvent | with_reducible apply keeps_updBerth
    | exact within hL rfl | split

theorem keeps_execTileRerunEnd {L : Nat} {r s : State} (hL : Sub 0x2a4800cd2d0 L) (h : Keeps L r s)
    (q : QuayId) (b : BerthId) (faults : List TileFault) :
    KeepsR L r (execTileRerunEnd q b faults s) := by
  unfold execTileRerunEnd
  try dsimp only
  repeat' first
    | with_reducible assumption | with_reducible apply keepsR_next | with_reducible apply keeps_foldl
    | with_reducible apply keeps_updArray | with_reducible apply keeps_failQuiet
    | with_reducible apply keeps_corrected | with_reducible apply keeps_releaseTile
    | with_reducible apply keeps_noteDiscarded | with_reducible apply keeps_contained | exact within hL rfl
    | intro _ | split

theorem keeps_execSequencerWatchdog {L : Nat} {r s : State} (hL : Sub 0x2a0800cd2d0 L) (h : Keeps L r s)
    (q : QuayId) (b : BerthId) :
    KeepsR L r (execSequencerWatchdog q b s) := by
  unfold execSequencerWatchdog
  try dsimp only
  repeat' first
    | with_reducible assumption | with_reducible apply keepsR_next | with_reducible apply keeps_foldl
    | with_reducible apply keeps_stopTile | exact within hL rfl | intro _ | split

theorem keeps_stopPilot {L : Nat} {r s : State} (hL : Sub 0x2a0800cd2d0 L) (h : Keeps L r s)
    (q : QuayId) (reason : BitVec 16) :
    Keeps L r (State.stopPilot s q reason) := by
  unfold State.stopPilot
  try dsimp only
  repeat' first
    | with_reducible assumption | with_reducible apply keepsR_next | with_reducible apply keeps_foldl
    | with_reducible apply keeps_failQuiet | with_reducible apply keeps_report
    | with_reducible apply keeps_updQuay | exact within hL rfl | intro _ | split

theorem keeps_execPilotWatchdog {L : Nat} {r s : State} (hL : Sub 0x2a0800cd2d0 L) (h : Keeps L r s)
    (q : QuayId) :
    KeepsR L r (execPilotWatchdog q s) := by
  unfold execPilotWatchdog
  try dsimp only
  repeat' first
    | with_reducible assumption | with_reducible apply keepsR_next | with_reducible apply keeps_foldl
    | with_reducible apply keeps_stopPilot | exact within hL rfl | intro _ | split

theorem keeps_execPilotTrap {L : Nat} {r s : State} (hL : Sub 0x2a0800cd2d0 L) (h : Keeps L r s) (q : QuayId) :
    KeepsR L r (execPilotTrap q s) := by
  unfold execPilotTrap
  try dsimp only
  repeat' first
    | with_reducible assumption | with_reducible apply keepsR_next | with_reducible apply keeps_foldl
    | with_reducible apply keeps_stopPilot | exact within hL rfl | intro _ | split

end Sys2Proof.Machine
end

