-- ==== Sys2Proof/Laws/KeepsStep.lean ====
section
/-! SUPPORT. Every command answers a next state and changes only the fields `mayChange` names. -/

namespace Sys2Proof.Machine

theorem at_mask {L M : Nat} {s : State} {o : Result} (h : M = L) (k : KeepsR L s o) : KeepsR M s o := h ▸ k

/-- Every command answers a next state, and keeps all but what `mayChange` names. -/
theorem keeps_exec (c : Instr) (s : State) : KeepsR (Field.mask (mayChange c)) s (exec c s) := by
  cases c with
  | supplyPowerUp testen => exact at_mask (L := 0xfffffffffe) rfl (keeps_execSupplyPowerUp rfl (.refl _ s) _)
  | supplyLoss => exact at_mask (L := 0xfffffffffe) rfl (keeps_execSupplyLoss rfl (.refl _ s))
  | testenHigh => exact at_mask (L := 0xfffffffffe) rfl (keeps_execTestenHigh rfl (.refl _ s))
  | perstNAssert hotReset => exact at_mask (L := 0x2fffffffffe) rfl (keeps_execPerstNAssert rfl (.refl _ s) _)
  | perstNRelease hottest => exact at_mask (L := 0x2000000000c) rfl (keeps_execPerstNRelease rfl (.refl _ s) _)
  | tideClockLock => exact at_mask (L := 0x200000000) rfl (keeps_execTideClockLock rfl (.refl _ s))
  | pufDone seed bad => exact at_mask (L := 0x22000080216) rfl (keeps_execPufDone rfl (.refl _ s) _ _)
  | bistDone found bad => exact at_mask (L := 0x220003e0216) rfl (keeps_execBistDone rfl (.refl _ s) _ _)
  | trainingDone failing values => exact at_mask (L := 0x2600028021c) rfl (keeps_execTrainingDone rfl (.refl _ s) _ _)
  | alignDone islands => exact at_mask (L := 0x2620028021c) rfl (keeps_execAlignDone rfl (.refl _ s) _)
  | customsStageTimeout => exact at_mask (L := 0x2600008021c) rfl (keeps_execCustomsStageTimeout rfl (.refl _ s))
  | dbgtoken token => exact at_mask (L := 0x4) rfl (keeps_execDbgtoken rfl (.refl _ s) _)
  | bootRelease value => exact at_mask (L := 0x2000020008c) rfl (keeps_execBootRelease rfl (.refl _ s) _)
  | bootHoldWrite offset data => exact at_mask (L := 0x224002802bc) rfl (keeps_execBootHoldWrite rfl (.refl _ s) _ _)
  | checkingDone bad => unfold exec; exact at_mask (L := 0x22000080216) rfl (keeps_execCheckingDone rfl (.refl _ s) _)
  | keysDone => exact at_mask (L := 0x10000080404) rfl (keeps_execKeysDone rfl (.refl _ s))
  | bootMinverAdvance value => exact at_mask (L := 0x2200028029a) rfl (keeps_execBootMinverAdvance rfl (.refl _ s) _)
  | functionLevelReset passed misread => exact at_mask (L := 0x276bb6ff7d8) rfl (keeps_execFunctionLevelReset rfl (.refl _ s) _ _)
  | functionResetComplete => exact at_mask (L := 0x26000080618) rfl (keeps_execFunctionResetComplete rfl (.refl _ s))
  | hostifDevReset value => exact at_mask (L := 0x236bb6ff7c8) rfl (keeps_execHostifDevReset rfl (.refl _ s) _)
  | devResetComplete => exact at_mask (L := 0x220800dd6d8) rfl (keeps_execDevResetComplete rfl (.refl _ s))
  | quayReset q byFirmware => exact at_mask (L := 0x2a6802cd2d8) rfl (keeps_execQuayReset rfl (.refl _ s) _ _)
  | quayResetComplete q => exact at_mask (L := 0x40000) rfl (keeps_execQuayResetComplete rfl (.refl _ s) _)
  | d3hotEntry bad => exact at_mask (L := 0x226b33cfad8) rfl (keeps_execD3hotEntry rfl (.refl _ s) _)
  | d0Return => exact at_mask (L := 0x220902dd2d8) rfl (keeps_execD0Return rfl (.refl _ s))
  | l12Entry => exact at_mask (L := 0x610040208) rfl (keeps_execL12Entry rfl (.refl _ s))
  | l12Exit => exact at_mask (L := 0x8) rfl (keeps_execL12Exit rfl (.refl _ s))
  | refclkLoss => exact at_mask (L := 0x200000008) rfl (keeps_execRefclkLoss rfl (.refl _ s))
  | refclkReturn ticks => exact at_mask (L := 0x22200080218) rfl (keeps_execRefclkReturn rfl (.refl _ s) _)
  | lightIdleEntry q => exact at_mask (L := 0x20000040080) rfl (keeps_execLightIdleEntry rfl (.refl _ s) _)
  | berthPowerGate q b => exact at_mask (L := 0x200040000) rfl (keeps_execBerthPowerGate rfl (.refl _ s) _ _)
  | berthWake q b => exact at_mask (L := 0x20200040080) rfl (keeps_execBerthWake rfl (.refl _ s) _ _)
  | slackWaterEntry bad => exact at_mask (L := 0x226103c0298) rfl (keeps_execSlackWaterEntry rfl (.refl _ s) _)
  | slackWaterExit cause => exact at_mask (L := 0x20000200088) rfl (keeps_execSlackWaterExit rfl (.refl _ s) _)
  | registerWrite target size value enables poisoned => exact at_mask (L := 0x3feff7ffffe) rfl (keeps_execRegisterWrite rfl (.refl _ s) _ _ _ _ _)
  | tideCountRead wide => exact at_mask (L := 0x20200200088) rfl (keeps_execTideCountRead rfl (.refl _ s) _)
  | bar2Read offset length => exact at_mask (L := 0x22000280298) rfl (keeps_execBar2Read rfl (.refl _ s) _ _)
  | bar2Write offset data poisoned => exact at_mask (L := 0x224002802bc) rfl (keeps_execBar2Write rfl (.refl _ s) _ _ _)
  | bar2Resize log2 => exact at_mask (L := 0x10) rfl (keeps_execBar2Resize rfl (.refl _ s) _)
  | outboundCompletion purpose status => exact at_mask (L := 0x2a4820cd2f0) rfl (keeps_execOutboundCompletion rfl (.refl _ s) _ _)
  | outboundCompletionTimeout purpose => exact at_mask (L := 0x2a4800cd2f0) rfl (keeps_execOutboundCompletionTimeout rfl (.refl _ s) _)
  | haltAll => exact at_mask (L := 0x220802dd2d8) rfl (keeps_execHaltAll rfl (.refl _ s))
  | haltPreempt => exact at_mask (L := 0x220802dd2d8) rfl (keeps_execHaltPreempt rfl (.refl _ s))
  | haltRelease => exact at_mask (L := 0x220802dd2d8) rfl (keeps_execHaltRelease rfl (.refl _ s))
  | queueSweep => exact at_mask (L := 0x226800dd2d0) rfl (keeps_execQueueSweep rfl (.refl _ s))
  | queueEnable q => exact at_mask (L := 0x224802cd2d8) rfl (keeps_execQueueEnable rfl (.refl _ s) _)
  | queueDisable q => exact at_mask (L := 0x224802cd2d8) rfl (keeps_execQueueDisable rfl (.refl _ s) _)
  | queueRestart q => exact at_mask (L := 0x224802cd2d8) rfl (keeps_execQueueRestart rfl (.refl _ s) _)
  | commandEligible q => exact at_mask (L := 0x3a6800cd2d0) rfl (keeps_execCommandEligible rfl (.refl _ s) _)
  | nop q idx => exact at_mask (L := 0x220800cd2d0) rfl (keeps_execNop rfl (.refl _ s) _ _)
  | dispatch q idx cargo fallback => exact at_mask (L := 0x2a4800cd2d0) rfl (keeps_execDispatch rfl (.refl _ s) _ _ _ _)
  | dispatchAdmit => exact at_mask (L := 0x3a4800cd2d0) rfl (keeps_execDispatchAdmit rfl (.refl _ s))
  | dispatchComplete q idx => exact at_mask (L := 0x2a4800cd2d0) rfl (keeps_execDispatchComplete rfl (.refl _ s) _ _)
  | copy q idx => exact at_mask (L := 0x2a0800cd2d0) rfl (keeps_execCopy rfl (.refl _ s) _ _)
  | copyDone q idx => exact at_mask (L := 0x2a0800cd2d0) rfl (keeps_execCopyDone rfl (.refl _ s) _ _)
  | peerCopy q idx => exact at_mask (L := 0x2a0800cd2d0) rfl (keeps_execPeerCopy rfl (.refl _ s) _ _)
  | peerCopyDone q idx => exact at_mask (L := 0x2a0800cd2d0) rfl (keeps_execPeerCopyDone rfl (.refl _ s) _ _)
  | flagSet q idx => exact at_mask (L := 0x220800cf2d0) rfl (keeps_execFlagSet rfl (.refl _ s) _ _)
  | flagAdd q idx => exact at_mask (L := 0x220800cf2d0) rfl (keeps_execFlagAdd rfl (.refl _ s) _ _)
  | flagWait q idx => exact at_mask (L := 0x2a0800cd2d0) rfl (keeps_execFlagWait rfl (.refl _ s) _ _)
  | flagWaitTimeout q idx => exact at_mask (L := 0x2a6800cd2d0) rfl (keeps_execFlagWaitTimeout rfl (.refl _ s) _ _)
  | streamBind q idx => exact at_mask (L := 0x2a0820cd2d0) rfl (keeps_execStreamBind rfl (.refl _ s) _ _)
  | tableLoad q idx => exact at_mask (L := 0x2a4820cd2d0) rfl (keeps_execTableLoad rfl (.refl _ s) _ _)
  | timestamp q idx => exact at_mask (L := 0x2a0800cd2d0) rfl (keeps_execTimestamp rfl (.refl _ s) _ _)
  | fence q idx => exact at_mask (L := 0x220800cd2d0) rfl (keeps_execFence rfl (.refl _ s) _ _)
  | completionSlotFree q => exact at_mask (L := 0x220800cd2d0) rfl (keeps_execCompletionSlotFree rfl (.refl _ s) _)
  | hostFlagWrite f value => exact at_mask (L := 0x224802cf2d8) rfl (keeps_execHostFlagWrite rfl (.refl _ s) _ _)
  | hostFlagAdd f value => exact at_mask (L := 0x224802cf2d8) rfl (keeps_execHostFlagAdd rfl (.refl _ s) _ _)
  | contextRegister c => exact at_mask (L := 0x22400284298) rfl (keeps_execContextRegister rfl (.refl _ s) _)
  | contextInvalidate c => exact at_mask (L := 0x22400284298) rfl (keeps_execContextInvalidate rfl (.refl _ s) _)
  | contextUnregister c => exact at_mask (L := 0x22400284298) rfl (keeps_execContextUnregister rfl (.refl _ s) _)
  | tableWalkDone c => exact at_mask (L := 0x84000) rfl (keeps_execTableWalkDone rfl (.refl _ s) _)
  | acctClear c => exact at_mask (L := 0x20000204088) rfl (keeps_execAcctClear rfl (.refl _ s) _)
  | manifestEnable perQuay drain quays => exact at_mask (L := 0x220002a0298) rfl (keeps_execManifestEnable rfl (.refl _ s) _ _ _)
  | manifestCheck image => exact at_mask (L := 0x2a48b6ec210) rfl (keeps_execManifestCheck rfl (.refl _ s) _)
  | manifestQuayApply q => exact at_mask (L := 0x2a68b6ed2d0) rfl (keeps_execManifestQuayApply rfl (.refl _ s) _)
  | lockedRegionEffect unit => exact at_mask (L := 0x480000) rfl (keeps_execLockedRegionEffect rfl (.refl _ s) _)
  | triggerFire n => exact at_mask (L := 0x20208000000) rfl (keeps_execTriggerFire rfl (.refl _ s) _)
  | tileRun q b tile => exact at_mask (L := 0x2a0800cdad0) rfl (keeps_execTileRun rfl (.refl _ s) _ _ _)
  | tileEnd q b faults => exact at_mask (L := 0x2a4800cd2d0) rfl (keeps_execTileEnd rfl (.refl _ s) _ _ _)
  | tileRerunEnd q b faults => exact at_mask (L := 0x2a4800cd2d0) rfl (keeps_execTileRerunEnd rfl (.refl _ s) _ _ _)
  | sequencerWatchdog q b => exact at_mask (L := 0x2a0800cd2d0) rfl (keeps_execSequencerWatchdog rfl (.refl _ s) _ _)
  | pilotWatchdog q => exact at_mask (L := 0x2a0800cd2d0) rfl (keeps_execPilotWatchdog rfl (.refl _ s) _)
  | pilotTrap q => exact at_mask (L := 0x2a0800cd2d0) rfl (keeps_execPilotTrap rfl (.refl _ s) _)
  | deckPartStart => exact at_mask (L := 0x2a0800cd2d0) rfl (keeps_execDeckPartStart rfl (.refl _ s))
  | deckPartEnd q idx stores words => exact at_mask (L := 0x2a0800cd2d0) rfl (keeps_execDeckPartEnd rfl (.refl _ s) _ _ _ _)
  | deckTrap traps => exact at_mask (L := 0x2a2c00cd2d0) rfl (keeps_execDeckTrap rfl (.refl _ s) _)
  | deckWatchdog q idx => exact at_mask (L := 0x2a2c00cd2d0) rfl (keeps_execDeckWatchdog rfl (.refl _ s) _ _)
  | lighteringDone q idx words holds => exact at_mask (L := 0x3a0800cdad0) rfl (keeps_execLighteringDone rfl (.refl _ s) _ _ _ _)
  | restoreDone q idx => exact at_mask (L := 0x2a0800cd2d0) rfl (keeps_execRestoreDone rfl (.refl _ s) _ _)
  | contextResident c => exact at_mask (L := 0x3a0800cd2d0) rfl (keeps_execContextResident rfl (.refl _ s) _)
  | deadlineEvaluation q idx => exact at_mask (L := 0x2a4800cd2d0) rfl (keeps_execDeadlineEvaluation rfl (.refl _ s) _ _)
  | cycleCheck => exact at_mask (L := 0x2a4800dd2d0) rfl (keeps_execCycleCheck rfl (.refl _ s))
  | fwifLoad => exact at_mask (L := 0x22000280298) rfl (keeps_execFwifLoad rfl (.refl _ s))
  | stage2LoadDone => exact at_mask (L := 0x22000080210) rfl (keeps_execStage2LoadDone rfl (.refl _ s))
  | stage2PageCheck page => exact at_mask (L := 0x220802c93f0) rfl (keeps_execStage2PageCheck rfl (.refl _ s) _)
  | negotiate => exact at_mask (L := 0x22000280298) rfl (keeps_execNegotiate rfl (.refl _ s))
  | negotiateDone => exact at_mask (L := 0x220000b1390) rfl (keeps_execNegotiateDone rfl (.refl _ s))
  | sfuMode => exact at_mask (L := 0x300) rfl (keeps_execSfuMode rfl (.refl _ s))
  | report => exact at_mask (L := 0x10000000200) rfl (keeps_execReport rfl (.refl _ s))
  | commission => exact at_mask (L := 0x202) rfl (keeps_execCommission rfl (.refl _ s))
  | memtest corrected uncorrectable => exact at_mask (L := 0x2a0802cdad0) rfl (keeps_execMemtest rfl (.refl _ s) _ _)
  | fwRequestDone => exact at_mask (L := 0x22000280210) rfl (keeps_execFwRequestDone rfl (.refl _ s))
  | logRingEnable => exact at_mask (L := 0x22000280298) rfl (keeps_execLogRingEnable rfl (.refl _ s))
  | traceRingEnable => exact at_mask (L := 0x22000280298) rfl (keeps_execTraceRingEnable rfl (.refl _ s))
  | faultRingEnable => exact at_mask (L := 0x26000280298) rfl (keeps_execFaultRingEnable rfl (.refl _ s))
  | heartbeat seq writes => exact at_mask (L := 0x602) rfl (keeps_execHeartbeat rfl (.refl _ s) _ _)
  | heartbeatWindowEnd => exact at_mask (L := 0x276bb6ff7fc) rfl (keeps_execHeartbeatWindowEnd rfl (.refl _ s))
  | lockstepMismatch => exact at_mask (L := 0x276bb6ff7fc) rfl (keeps_execLockstepMismatch rfl (.refl _ s))
  | relaunchSelfTestDone passed => exact at_mask (L := 0x276bb6ff7f8) rfl (keeps_execRelaunchSelfTestDone rfl (.refl _ s) _)
  | relaunchDigestDone misread => exact at_mask (L := 0x276bb6ff7f8) rfl (keeps_execRelaunchDigestDone rfl (.refl _ s) _)
  | relaunchComplete => exact at_mask (L := 0x2f6bb6fffd8) rfl (keeps_execRelaunchComplete rfl (.refl _ s))
  | quayArbitrationFault q at_ cq idx => exact at_mask (L := 0x2a0800cd2d0) rfl (keeps_execQuayArbitrationFault rfl (.refl _ s) _ _ _ _)
  | deviceArbitrationFault => exact at_mask (L := 0x276bb6ff7f8) rfl (keeps_execDeviceArbitrationFault rfl (.refl _ s))
  | localisingTile q b column mismatch => exact at_mask (L := 0x2000000000) rfl (keeps_execLocalisingTile rfl (.refl _ s) _ _ _ _)
  | repairApply loc => exact at_mask (L := 0x2a6801ed2d0) rfl (keeps_execRepairApply rfl (.refl _ s) _)
  | repairQuietTimeout loc => exact at_mask (L := 0x222800cd2d0) rfl (keeps_execRepairQuietTimeout rfl (.refl _ s) _)
  | repairMapWriteDone => exact at_mask (L := 0x2000000002) rfl (keeps_execRepairMapWriteDone rfl (.refl _ s))
  | harbourAccess agent addr write victim ecc command => exact at_mask (L := 0x2f6bb7ffffc) rfl (keeps_execHarbourAccess rfl (.refl _ s) _ _ _ _ _ _)
  | harbourScrub slice way set ecc => exact at_mask (L := 0x2f6bb7ffffc) rfl (keeps_execHarbourScrub rfl (.refl _ s) _ _ _ _)
  | memoryRequest req => exact at_mask (L := 0x200000) rfl (keeps_execMemoryRequest rfl (.refl _ s) _)
  | memoryDataPhase ch pick phase => exact at_mask (L := 0x2a0802cdad0) rfl (keeps_execMemoryDataPhase rfl (.refl _ s) _ _ _)
  | refreshWindow ch bank => exact at_mask (L := 0x200200000) rfl (keeps_execRefreshWindow rfl (.refl _ s) _ _)
  | periodicRetrain ch => exact at_mask (L := 0x22200280210) rfl (keeps_execPeriodicRetrain rfl (.refl _ s) _)
  | periodicRetrainEnd ch found drift points => exact at_mask (L := 0x276bb6fffd8) rfl (keeps_execPeriodicRetrainEnd rfl (.refl _ s) _ _ _ _)
  | fullFieldRetrainDone ch ok values => exact at_mask (L := 0x276bb6ffff8) rfl (keeps_execFullFieldRetrainDone rfl (.refl _ s) _ _ _)
  | patrolScrub addr result => exact at_mask (L := 0x2a0802cdad0) rfl (keeps_execPatrolScrub rfl (.refl _ s) _ _)
  | hotSet reading => exact at_mask (L := 0x22000280210) rfl (keeps_execHotSet rfl (.refl _ s) _)
  | hotClear reading => exact at_mask (L := 0x22000280210) rfl (keeps_execHotClear rfl (.refl _ s) _)
  | strictRecoveryExit ch => exact at_mask (L := 0x200200000) rfl (keeps_execStrictRecoveryExit rfl (.refl _ s) _)
  | memctlStrictWrite strict => exact at_mask (L := 0x22000680298) rfl (keeps_execMemctlStrictWrite rfl (.refl _ s) _)
  | memctlHiddenWrite hidden => exact at_mask (L := 0x20000600088) rfl (keeps_execMemctlHiddenWrite rfl (.refl _ s) _)
  | csiFrameStart p vc frameNo ecc => exact at_mask (L := 0x22437880a90) rfl (keeps_execCsiFrameStart rfl (.refl _ s) _ _ _ _)
  | csiLongPacket p vc dataType ecc crcOk pixels line fifoOverflow => exact at_mask (L := 0x22002880a10) rfl (keeps_execCsiLongPacket rfl (.refl _ s) _ _ _ _ _ _ _ _)
  | csiFrameEnd p vc ecc => exact at_mask (L := 0x22403880a10) rfl (keeps_execCsiFrameEnd rfl (.refl _ s) _ _ _)
  | csiPhyError p => exact at_mask (L := 0x2000000) rfl (keeps_execCsiPhyError rfl (.refl _ s) _)
  | framePeriodExpiry p => exact at_mask (L := 0x22403080a90) rfl (keeps_execFramePeriodExpiry rfl (.refl _ s) _)
  | csiDeclare p lossFrames => exact at_mask (L := 0x22403280a98) rfl (keeps_execCsiDeclare rfl (.refl _ s) _ _)
  | csiUndeclare p lossFrames => exact at_mask (L := 0x22403280a98) rfl (keeps_execCsiUndeclare rfl (.refl _ s) _ _)
  | csiPortCfgWrite p value => exact at_mask (L := 0x22001280298) rfl (keeps_execCsiPortCfgWrite rfl (.refl _ s) _ _)
  | pipeFrameComplete sc => exact at_mask (L := 0x224920cfad0) rfl (keeps_execPipeFrameComplete rfl (.refl _ s) _)
  | streamBlank sc outLine branchLines => exact at_mask (L := 0x22406280298) rfl (keeps_execStreamBlank rfl (.refl _ s) _ _ _)
  | streamUnblank sc => exact at_mask (L := 0x22404280298) rfl (keeps_execStreamUnblank rfl (.refl _ s) _)
  | feedGo sc => exact at_mask (L := 0x22436280a98) rfl (keeps_execFeedGo rfl (.refl _ s) _)
  | feedDone sc => exact at_mask (L := 0x22402080a10) rfl (keeps_execFeedDone rfl (.refl _ s) _)
  | codecSessionEnable n => exact at_mask (L := 0x22010280298) rfl (keeps_execCodecSessionEnable rfl (.refl _ s) _)
  | codecSessionDisable n => exact at_mask (L := 0x20030200088) rfl (keeps_execCodecSessionDisable rfl (.refl _ s) _)
  | forceKey n => exact at_mask (L := 0x20010200088) rfl (keeps_execForceKey rfl (.refl _ s) _)
  | codecFeedGo n => exact at_mask (L := 0x22010280298) rfl (keeps_execCodecFeedGo rfl (.refl _ s) _)
  | codecFrameStart n found => exact at_mask (L := 0x22030080210) rfl (keeps_execCodecFrameStart rfl (.refl _ s) _ _)
  | codecChunkDone n => exact at_mask (L := 0x220b00cf2d0) rfl (keeps_execCodecChunkDone rfl (.refl _ s) _)
  | syncInPulse => exact at_mask (L := 0x2220808c610) rfl (keeps_execSyncInPulse rfl (.refl _ s))
  | syncOutPulse => exact at_mask (L := 0x20200000000) rfl (keeps_execSyncOutPulse rfl (.refl _ s))
  | ptmMeasurement masterNs => exact at_mask (L := 0x22200080210) rfl (keeps_execPtmMeasurement rfl (.refl _ s) _)
  | ptmLock masterNs => exact at_mask (L := 0x2220808c610) rfl (keeps_execPtmLock rfl (.refl _ s) _)
  | recordEnable ctrl => exact at_mask (L := 0x22402280298) rfl (keeps_execRecordEnable rfl (.refl _ s) _)
  | recordDisable => exact at_mask (L := 0x22400280298) rfl (keeps_execRecordDisable rfl (.refl _ s))
  | recordCheckpoint => exact at_mask (L := 0x20400200088) rfl (keeps_execRecordCheckpoint rfl (.refl _ s))
  | checkpointStateWrite => exact at_mask (L := 0x22400080210) rfl (keeps_execCheckpointStateWrite rfl (.refl _ s))
  | replayEntryApply => exact at_mask (L := 0x2a4b60efad0) rfl (keeps_execReplayEntryApply rfl (.refl _ s))
  | powerEstimate milliwatts => exact at_mask (L := 0x800000000) rfl (keeps_execPowerEstimate rfl (.refl _ s) _)
  | budgetCompare => exact at_mask (L := 0x800000000) rfl (keeps_execBudgetCompare rfl (.refl _ s))
  | droopDetect island => exact at_mask (L := 0x8) rfl (keeps_execDroopDetect rfl (.refl _ s) _)
  | droopRelease island => exact at_mask (L := 0x20000000008) rfl (keeps_execDroopRelease rfl (.refl _ s) _)
  | avsSetpointChange mv => exact at_mask (L := 0x20000000008) rfl (keeps_execAvsSetpointChange rfl (.refl _ s) _)
  | avsStatusPoll => exact at_mask (L := 0x20200000008) rfl (keeps_execAvsStatusPoll rfl (.refl _ s))
  | avsResponse answer => exact at_mask (L := 0x22000080218) rfl (keeps_execAvsResponse rfl (.refl _ s) _)
  | sagEstablished rail mv => exact at_mask (L := 0x229b20cf2d0) rfl (keeps_execSagEstablished rfl (.refl _ s) _ _)
  | shedStep => exact at_mask (L := 0x22bb22cf2d8) rfl (keeps_execShedStep rfl (.refl _ s))
  | holdLimitFall rail mv => exact at_mask (L := 0x800200008) rfl (keeps_execHoldLimitFall rfl (.refl _ s) _ _)
  | step6Timeout elapsed mv => exact at_mask (L := 0x276bb6ff7f8) rfl (keeps_execStep6Timeout rfl (.refl _ s) _ _)
  | sagRecovered core io => exact at_mask (L := 0x27fbb6ff7d8) rfl (keeps_execSagRecovered rfl (.refl _ s) _ _)
  | shedReturn => exact at_mask (L := 0x27fbb6ff7d8) rfl (keeps_execShedReturn rfl (.refl _ s))
  | thermalTrip reading => exact at_mask (L := 0x276bb6ff7f8) rfl (keeps_execThermalTrip rfl (.refl _ s) _)
  | thermalHoldRelease reading => exact at_mask (L := 0x2000000000c) rfl (keeps_execThermalHoldRelease rfl (.refl _ s) _)
  | pcieLinkUp => exact at_mask (L := 0x8) rfl (keeps_execPcieLinkUp rfl (.refl _ s))
  | codecFeedDone n => exact at_mask (L := 0x22410080210) rfl (keeps_execCodecFeedDone rfl (.refl _ s) _)
  | journalSlotFree q => exact at_mask (L := 0x220800cd2d0) rfl (keeps_execJournalSlotFree rfl (.refl _ s) _)
  | csiUlpsEntry p => exact at_mask (L := 0x1000000) rfl (keeps_execCsiUlpsEntry rfl (.refl _ s) _)
  | csiUlpsExit p => exact at_mask (L := 0x1000000) rfl (keeps_execCsiUlpsExit rfl (.refl _ s) _)
  | jtagInstruction ins => exact at_mask (L := 0x20000000008) rfl (keeps_execJtagInstruction rfl (.refl _ s) _)

end Sys2Proof.Machine
end

