-- ==== Sys2Proof/Laws/Shake.lean ====
section
/-! SUPPORT. How long a digest is. -/

namespace Sys2Proof

theorem length_squeezeBlock (a : Lanes) : (squeezeBlock a).length = 136 := by simp [squeezeBlock]

theorem length_squeeze : ∀ (n : Nat) (a : Lanes), (squeeze n a).length = 136 * n
  | 0, _ => rfl
  | n + 1, a => by simp only [squeeze, List.length_append, length_squeezeBlock, length_squeeze n]; omega

theorem length_shake256 (msg : List Byte) (n : Nat) : (shake256 msg n).length = n := by
  simp only [shake256, List.length_take, length_squeeze]; omega

namespace Machine

/-- A leaf of the tree has 32 bytes (R71). -/
theorem length_treeLeaf (i : Nat) (page : List Byte) : (treeLeaf i page).length = 32 := length_shake256 _ _

/-- So has a node. -/
theorem length_treeNode (l r : List Byte) : (treeNode l r).length = 32 := length_shake256 _ _

end Machine

end Sys2Proof
end

