-- ==== Sys2Proof/Tests/Slice0.lean ====
section
/-! SUPPORT. Small checks of the model against the manual's worked examples, and witnesses that the
hypotheses of the statements can be met. -/

namespace Sys2Proof.Tests

open Sys2Proof.Machine

set_option Elab.async false

/-! ## States -/

/-- Supplies up, PERST_N released, before a start ends. -/
def up : State := { State.reset with
  env := { suppliesUp := true, por := false, perstLow := false, linkUp := true }
  tide := { locked := true, count := 1000 } }

/-- A start that stands at a stage. -/
def at_ (b : Boot) : State := { up with boot := b }

/-- A running device with negotiated firmware. -/
def run : State := { up with
  boot := { stage := .running, version := 5, stage2Pages := 2 }
  ready := { ready := true }
  fwif := { state := .ready, feat := 0x7FF }
  memctl := { trained := true } }

/-- An entry of an opcode in context 0. -/
def entry (op : Op) : Entry :=
  { op, malformed := false, opcode := 0, irq := false, overlap := false, prio := 0, ctx := 0, predFlag := 0
    predCmp := 0, predValue := 0, budget := 0, launch := 0, fallback := 0 }

/-- A command of queue 0 that is eligible and has not started. -/
def flight (op : Op) : Flight := { q := 0, idx := 0, entry := entry op, eligible := true }

/-- Page tables of context 0 at 0x800: virtual page 0 lies at 0x10_0000, page 1 at 0x11_0000, both for every
access; the first is cleared. -/
def tables : Memory :=
  ((((({ cleared := [0x10] } : Memory).store 0x800 (leBytes 8 0x1001)).store 0x1000 (leBytes 8 0x1801)).store 0x1800
    (leBytes 8 0x2001)).store 0x2000 (leBytes 8 0x10_000F)).store 0x2008 (leBytes 8 0x11_000F)

/-- A running device with queue 0 and context 0 in use. -/
def busy (fs : List Flight) : State := { run with
  mem := tables
  queues := run.queues.set 0 { en := true, active := true, hdrAddr := 0x4000
                               hdr := { ring := 0x5000, compl := 0x6000 } }
  ctxs := run.ctxs.set 0 { valid := true, root := 0x800, resident := true, saveSize := 16 }
  flights := fs }

/-! ## Ill-formed commands are refused -/

/-- A window of one element. -/
def oneDim : WinDim := { extent := 1, kernel := 1, stride := 1, dilation := 1, before := 0, after := 0 }
/-- An entry of a rescale table. -/
def rescale (mult : BitVec 31) (shift : BitVec 6) (rmode : BitVec 2) : Rescale :=
  { mult, shift, zout := 0, lo := -128, hi := 127, bias := 0, zw := 0, rmode }
/-- Outputs as I8. -/
def oneOut : OutSpec :=
  { va := 0, layout := .linear, indexVa := none, type := .i8, rescale := [rescale 1 0 0], tensor := 0, adaptiveOut := false
    tensorIn := none, draw := 0, drawsPerStep := 0, step := 0, region := ⟨0, 0, 0, 1⟩, mask := none, raw := false }
/-- A one-by-one window. -/
def oneWin : Window := { input := [1], channels := 1, groups := 1, cOut := 1, dimH := oneDim, dimW := oneDim
                         mode := .zero, padCode := 0, transposed := false }
/-- A seven-by-seven window, which the frequency path serves for one channel. -/
def freqWin : Window :=
  let d : WinDim := { oneDim with extent := 7, kernel := 7 }
  { oneWin with input := [], dimH := d, dimW := d }
/-- A tile without operations. -/
def oneTile : Tile :=
  { stated := 1, runs := 1, words := 1, sources := [], places := [], reads := [], holdWrites := [], storeReads := []
    early := [], ops := [], passes := 8, sfuPasses := 8, stepEnds := [], stepBase := 0
    last := true, dmaDone := true, controlPlaced := true }
/-- A cargo of one restartable entry: one tile and one deck core. -/
def cargo (quays cores : Nat) : Cargo :=
  { length := 64, family := 0xB, sfu := .either, shape := 1, quays, arrays := 1
    entries := [{ tiles := [⟨100, 0⟩], deckCores := cores, deckTicks := 10, restartable := true, image := 0
                  argLen := 0, steps := 0 }]
    adaptive := [] }
/-- Such a cargo with its entry changed. -/
def cargoWith (g : CargoEntry → CargoEntry) : Cargo := { cargo 1 1 with entries := (cargo 1 1).entries.map g }

theorem test_wf_holds : ([.registerWrite (.bar0 0) 4 0 0xF false, .registerWrite (.bar4 0xFFFF) 8 0 0xFF true,
    .registerWrite (.config .vendorDevice) 4 0 0xF false, .bar2Read 0 4096, .bar2Write 0 [0] false, .bar2Resize 28, .bootHoldWrite 0 [1],
    .stage2PageCheck 8191, .harbourAccess .pcie 127 (some [0]) 0 .ok none, .memoryRequest ⟨.pcie, 0, false, none, true⟩,
    .memoryDataPhase 0 0 ⟨0, 0, List.replicate 128 0, 0, .ok⟩, .dispatch 0 0 (cargo 1 1) (some (cargo 8 8)),
    .tileRun 0 0 oneTile, .localisingTile 0 0 16 (some 5), .dbgtoken (List.replicate 0x1050 0),
    .heartbeat 0 [.count 1, .seal 1 0x3F_FFFF [0]], .avsSetpointChange 550] : List Instr).all Instr.wf = true := by
  decide +kernel

theorem test_wf_refuses : ([.registerWrite (.bar0 0x100_0000) 4 0 0xF false, .registerWrite (.bar0 0) 0 0 0xF false,
    .registerWrite (.bar0 0) 9 0 0xF false, .registerWrite (.bar4 0x1_0000) 4 0 0xF false,
    .registerWrite (.bar4 0) 0 0 0xF false, .registerWrite (.bar4 0) 9 0 0xF false,
    .registerWrite (.config .vendorDevice) 8 0 0xFF false,
    .bar2Read 0 0, .bar2Read 0 4097, .bar2Write 0 [] false, .bar2Write 0 (List.replicate 513 0) false,
    .bar2Resize 27, .bar2Resize 37, .bootHoldWrite 0 [], .stage2PageCheck 8192,
    .harbourAccess .pcie 0 (some []) 0 .ok none, .harbourAccess .pcie 127 (some [0, 0]) 0 .ok none,
    .harbourAccess .pcie 0x8_0000_0000 none 0 .ok none, .harbourAccess .pcie 0x7_FFFF_FFFF (some [0, 0]) 0 .ok none,
    .memoryRequest ⟨.pcie, 0x8_0000_0000, false, none, false⟩, .memoryRequest ⟨.pcie, 0, true, none, true⟩,
    .memoryDataPhase 0 0 ⟨0, 0, List.replicate 127 0, 0, .ok⟩, .localisingTile 0 0 16 (some 4),
    .dbgtoken (List.replicate 0x104F 0), .heartbeat 0 [.seal 0 0x40_0000 [0]], .avsSetpointChange 549,
    .avsSetpointChange 805, .avsSetpointChange 551] : List Instr).all (fun c => !c.wf) = true := by
  decide +kernel

theorem test_wf_refuses_cargos : ([cargo 0 1, cargo 9 1, { cargo 1 1 with arrays := 5 }, cargo 1 9,
    cargoWith ({ · with steps := 256 }), cargoWith ({ · with tiles := [⟨0, 0⟩] }),
    cargoWith ({ · with tiles := [⟨20001, 0⟩] }), cargoWith ({ · with tiles := [⟨1, 10 * 2 ^ 20 + 1⟩] })] :
    List Cargo).all (fun c => !c.wf && !(Instr.dispatch 0 0 c none).wf && !(Instr.dispatch 0 0 (cargo 1 1) (some c)).wf)
      = true := by decide +kernel

/-- A convolution over a window. -/
def convOf (w : Window) : TileOp := .conv .mac .i8 .i8 w [] oneOut
/-- One pass of a mode and two types, with outputs as given. -/
def passOf (mode : LaneMode) (x w : ElemType) (out : OutSpec) : TileOp := .pass mode x w [[1]] [[some 1]] [] 0 [] .off out
/-- A selecting pass of `m` vectors. -/
def selects (mode : LaneMode) (m : Nat) (joins : Bool) (index : List Nat) (seed : Option Nat) : TileOp :=
  .pass mode .i8 .i8 (List.replicate m [1]) [[some 1]] [] 0 [] (.on true joins false index seed none) oneOut

theorem test_wf_holds_ops : ([convOf oneWin, passOf .mac .i8 .u4 oneOut, passOf .mac .e4m3 .e5m2 oneOut,
    passOf .l2 .u8 .i8 oneOut, passOf .mac .bf16 .bf16 { oneOut with rescale := [rescale 1 0 0] },
    selects .l1 256 true [0] (some 0), selects .l1 257 false [0] none, .forward 32 .i8 0 freqWin 0 0 0 0 none,
    .product true [([], [[(0, 0)]])] 0 none, .mask 65536 1 0 oneOut, .softmax .bf16 [1] oneOut] : List TileOp).all
      TileOp.wf = true := by decide +kernel

theorem test_wf_refuses_windows : ([{ oneWin with groups := 0 }, { oneWin with channels := 3, groups := 2 },
    { oneWin with cOut := 3, groups := 2, channels := 2 }, { oneWin with dimH := { oneDim with extent := 0 } },
    { oneWin with dimH := { oneDim with extent := 65536 } }, { oneWin with dimH := { oneDim with kernel := 0 } },
    { oneWin with dimH := { oneDim with extent := 300, kernel := 256 } }, { oneWin with dimW := { oneDim with stride := 0 } },
    { oneWin with dimW := { oneDim with stride := 256 } }, { oneWin with dimW := { oneDim with dilation := 0 } },
    { oneWin with dimW := { oneDim with dilation := 256 } }, { oneWin with dimH := { oneDim with before := 256 } },
    { oneWin with dimH := { oneDim with after := 256 } },
    { oneWin with mode := .mirror, dimH := { oneDim with before := 1 } },
    { oneWin with mode := .mirror, dimH := { oneDim with after := 1 } }, { oneWin with dimH := { oneDim with kernel := 2 } },
    { oneWin with mode := .constant, transposed := true }] : List Window).all (fun w => !w.wf && !(convOf w).wf) = true := by
  decide +kernel

theorem test_wf_refuses_padding : (convOf { oneWin with padCode := 300 }).wf = false ∧
    (convOf { oneWin with padCode := -128 }).wf = true := by decide +kernel

theorem test_wf_refuses_outputs : ([{ oneOut with type := .e4m3 }, { oneOut with type := .e5m2 },
    { oneOut with region := ⟨0, 0, 0, 0⟩ }, { oneOut with rescale := [{ rescale 1 0 0 with zout := -32769 }] },
    { oneOut with type := .u16, rescale := [{ rescale 1 0 0 with zout := 65536, hi := 65536 }] },
    { oneOut with rescale := [{ rescale 1 0 0 with lo := -129 }] }, { oneOut with rescale := [{ rescale 1 0 0 with hi := 128 }] },
    { oneOut with rescale := [{ rescale 1 0 0 with lo := 1 }] }, { oneOut with rescale := [{ rescale 1 0 0 with hi := -1 }] },
    { oneOut with rescale := [{ rescale 1 0 0 with bias := -(2 ^ 31) - 1 }] },
    { oneOut with rescale := [{ rescale 1 0 0 with bias := 2 ^ 31 }] },
    { oneOut with rescale := [] }, { oneOut with layout := .nhwc 3 1 1, rescale := [rescale 1 0 0, rescale 1 0 0] },
    { oneOut with rescale := [{ rescale 1 0 0 with zw := -129 }] },
    { oneOut with rescale := [{ rescale 1 0 0 with zw := 128 }] }] : List OutSpec).all (fun o => !o.wf 1 .ints &&
      !(passOf .mac .i8 .i8 o).wf) = true := by decide +kernel

theorem test_wf_refuses_float_bias : ([-1, 2 ^ 32] : List Int).all (fun b =>
    !(passOf .mac .bf16 .bf16 { oneOut with rescale := [{ rescale 1 0 0 with bias := b }] }).wf) = true := by
  decide +kernel

theorem test_wf_refuses_ops : ([passOf .mac .bf16 .f16 oneOut, passOf .mac .i8 .bf16 oneOut, passOf .mac .f32 .f32 oneOut,
    passOf .l1 .i4 .i8 oneOut, passOf .minPlus .u8 .i8 oneOut,
    passOf .mac .i8 .i4 { oneOut with rescale := [{ rescale 1 0 0 with zw := 8 }] },
    passOf .mac .bf16 .bf16 { oneOut with rescale := [{ rescale 1 0 0 with zw := 1 }] },
    .pass .mac .i8 .i8 [[1]] [] [] 0 [] .off oneOut, .pass .mac .i8 .i8 [[1]] [[some 1]] [[1], [1]] 0 [] .off oneOut,
    .pass .mac .i8 .i8 (List.replicate 65537 []) [[some 1]] [] 0 [] .off oneOut,
    .pass .mac .i16 .i16 [[1]] [[some 1]] [] (2 ^ 16) [] .off oneOut,
    .pass .mac .i8 .i8 [[1]] [[some 1]] [] (2 ^ 24) [] .off oneOut,
    .pass .mac .i4 .i4 [[1]] [[some 1]] [] (2 ^ 25) [] .off oneOut,
    .pass .l1 .i8 .i8 [[1]] [[some 1]] [] (2 ^ 24) [] .off oneOut,
    selects .mac 1 false [0] none, selects .l1 1 false [] none, selects .l1 1 false [2 ^ 24] none,
    selects .l1 257 true [0] none, selects .l1 257 false [0] (some 0),
    .conv .mac .i8 .bf16 oneWin [] oneOut, .conv .mac .i16 .i16 { oneWin with channels := 65537 } [] oneOut,
    .pool true .i8 oneWin oneOut, .pool true .f32 { oneWin with transposed := true } oneOut,
    .avgPool .i8 { oneWin with transposed := true } false 0 [] oneOut,
    .resize .i8 false false [] 0 1 1 1 1 oneOut, .resize .i8 false false [] 1 1 1 0 1 oneOut,
    .rearrange true 0 1 1 1 [] oneOut, .rearrange true 17 1 1 1 [] oneOut,
    .forward 16 .i8 0 freqWin 0 0 0 0 none, .forward 32 .i8 0 freqWin 1 0 0 0 none,
    .forward 32 .i16 0 freqWin 0 0 0 0 none,
    .forward 32 .i8 0 { freqWin with transposed := true } 0 0 0 0 none, .forward 32 .i8 0 oneWin 0 0 0 0 none,
    .forward 32 .i8 0 { freqWin with groups := 1, channels := 2 } 0 0 0 0 none,
    .forward 32 .i8 0 freqWin 0 0 0 0 (some (6 * 2 ^ 20)), .product true [([[]], [[(0, 0)]])] 0 (some (6 * 2 ^ 20)),
    .product true [([], [[(0, 0), (0, 0)]])] 0 none, .inverse 32 freqWin 0 0 [] oneOut,
    .mask 65537 1 0 oneOut, .softmax .f32 [] oneOut, .softmax .i8 [1] oneOut, .norm false .f32 [] 0 0 none none oneOut,
    .stats .mean .f32 [] 0 oneOut, .sfu .exp .i8 [] oneOut, .minMax true .i8 [] [] oneOut, .clamp .u8 [] 0 0 oneOut,
    .select .i4 [] [] [] none oneOut, .gate .relu [] [] { oneOut with type := .e4m3 }] : List TileOp).all (fun o => !o.wf)
      = true := by decide +kernel

theorem test_wf_refuses_tiles : ([{ oneTile with stated := 0 }, { oneTile with stated := 20001 },
    { oneTile with words := 4097 }, { oneTile with ops := [convOf oneWin], passes := 0 },
    { oneTile with ops := [.sfu .exp .f32 [] oneOut], sfuPasses := 0 },
    { oneTile with ops := [convOf { oneWin with groups := 0 }] },
    { oneTile with reads := [⟨0, 0, .sfu, 0, holdUnits, 0, .ok⟩] },
    { oneTile with places := [⟨0, .sfu, 0, 0, holdUnits, 0, 0⟩] },
    { oneTile with holdWrites := [⟨0, 0, holdUnits, true, 0, 0, 0⟩] },
    { oneTile with sources := [⟨0, 1, 6 * 2 ^ 20⟩] }] : List Tile).all (fun t => !t.wf && !(Instr.tileRun 0 0 t).wf) = true := by
  decide +kernel

theorem test_no_words : decodeTableWord 0 0 = none := rfl

/-! ## Witnesses: states that meet the hypotheses of each clause -/

theorem witness_EveryCommandAnswersANextState :
    (up.pending = [] ∧ up.tide.locked = true) ∧ State.reset.pending = [] ∧ State.reset.tide.locked = false := by
  decide +kernel

theorem witness_StepKeepsMemoryCanonical : run.mem.wf ∧ ∃ t, step run = .next t := ⟨by decide +kernel, _, rfl⟩

theorem witness_StepLetsSecureStoreOnlyGrow : ∃ t, step run = .next t := ⟨_, rfl⟩

theorem witness_CommandsChangeOnlyTheirFields : ∃ t, exec .budgetCompare run = .next t := ⟨_, rfl⟩

/-- A hold for temperature keeps the device in reset. -/
def held (perst por : Bool) : State :=
  { up with env := { suppliesUp := true, por, perstLow := perst, thermalHold := true } }

theorem witness_SuppliesAndPinsStartTheDevice :
    State.reset.env.suppliesUp = false ∧ (run.env.suppliesUp = true ∧ run.boot.stage ≠ .reset) ∧
    (up.env.suppliesUp = true ∧ up.boot.stage = .reset) ∧
    (run.env.perstLow = false ∧ run.env.mfgHold = false ∧ run.env.thermalHold = false) ∧
    (let s := { held true true with env := { (held true true).env with mfgHold := true } };
      s.env.suppliesUp = true ∧ s.env.perstLow = true ∧ s.env.mfgHold = true) ∧
    ((held true true).env.suppliesUp = true ∧ (held true true).env.perstLow = true ∧
      (held true true).env.mfgHold = false ∧ (held true true).env.thermalHold = true ∧ (90 : Int) ≤ 90) ∧
    ((held false true).env.perstLow = false ∧ (held false true).env.mfgHold = false ∧
      (held false true).env.thermalHold = true ∧ (89 : Int) < 90) ∧
    (up.env.por = false ∧ up.env.perstLow = false ∧ up.env.mfgHold = false) ∧
    ({ up with tide := {} } : State).tide.locked = false := by decide +kernel

/-- Both copies of an item are bad. -/
def bothBad (i : StoreItem) : BadCopies := [(i, 0), (i, 1)]

theorem witness_PufAndBistComeFirst :
    ((at_ { stage := .puf }).boot.stage = .puf ∧
      ((at_ { stage := .puf }).secure.tested [.helper] [(.helper, 0)]).lost .helper = false ∧
      ((at_ { stage := .puf }).secure.tested [.helper] (bothBad .helper)).lost .helper = true ∧
      (at_ { stage := .puf, pufAttempts := 1 }).boot.pufAttempts < 2 ∧
      2 ≤ (at_ { stage := .puf, pufAttempts := 2 }).boot.pufAttempts) ∧
    ((at_ { stage := .bist }).boot.stage = .bist ∧
      ((at_ { stage := .bist }).secure.tested [.repairMap] [(.repairMap, 1)]).lost .repairMap = false) := by
  decide +kernel

/-- Every island's round trip is 1,023 ticks; the copy of the last of Quay 7's Berths is `off` ticks from the marker. -/
def echoes (off : Int) : Vector IslandEcho 52 :=
  .ofFn fun k => { trip := 1023, off := if k.val = 43 then off else 1 }

theorem witness_StagesRetryThenHalt :
    ((at_ { stage := .training }).boot.stage = .training ∧ (at_ { stage := .training }).boot.trainRetries = 0 ∧
      ([31] : List ChanId) ≠ []) ∧
    (let s := at_ { stage := .training, trainRetries := 3, failing := [31] };
      s.boot.trainRetries = 3 ∧ ∃ c ∈ ([31] : List ChanId), c ∈ s.boot.failing) ∧
    (let s := at_ { stage := .align, alignFrom := 1000 };
      s.boot.stage = .align ∧ s.tide.locked = true ∧ (at_ { stage := .align, alignRuns := 1 }).boot.alignRuns < 2 ∧
      2 ≤ (at_ { stage := .align, alignRuns := 2 }).boot.alignRuns ∧ s.mem.wf ∧
      s.now.toNat ≤ (s.boot.alignFrom + 4096).toNat ∧
      (∀ k : Fin 52, s.islandThere k = true → ((echoes 0)[k]).off.natAbs ≤ 1) ∧
      ¬(∀ k : Fin 52, s.islandThere k = true → ((echoes 2)[k]).off.natAbs ≤ 1)) ∧
    (({ up with tide := {} } : State).tide.locked = false ∧ (at_ { stage := .training }).boot.stage ≠ .align) ∧
    (({ up with part := .ojq6_16a } : State).islandThere 43 = false) ∧
    ((at_ { stage := .keys }).boot.stage ∈ [Stage.puf, .bist, .training, .align, .checking, .keys]) ∧
    (at_ { stage := .windowOpen }).boot.stage ∈ [Stage.reset, .windowOpen, .running, .halted] := by
  decide +kernel

theorem witness_BootHoldAndJtagBeforeRelease :
    (let s := at_ { stage := .windowOpen };
      s.reachable = true ∧ s.lost = false ∧ s.frozen = false ∧ s.env.power ≠ .slackWater ∧
      s.boot.stage = .windowOpen ∧ holdSize - 1 + 1 ≤ holdSize ∧ s.inAperture (holdSize - 1) 1 = true ∧
      (1 : Word).getLsbD 0 = true ∧ (0 : Word).getLsbD 0 = false ∧ stageCode s.boot.stage < 6 ∧
      s.boot.slotA.state = 0b00) ∧
    (let s := at_ { stage := .checking };
      s.reachable = true ∧ s.lost = false ∧ s.frozen = false ∧ s.env.power ≠ .slackWater ∧
      s.boot.stage = .checking ∧ s.inAperture 0 1 = true ∧ s.boot.stage ≠ .windowOpen ∧ 6 ≤ stageCode s.boot.stage) ∧
    run.env.suppliesUp = true ∧ (run.boot.scope = none) ∧
    (at_ { stage := .running, scope := some 4, romReadable := false }).boot.scope = some 4 ∧
    (4 : Byte).getLsbD 2 = true ∧ (4 : Byte).getLsbD 1 = false := by
  decide +kernel

/-- An image of one empty page in slot B: its header, and the length of its signature. -/
def slotB : Memory :=
  let b := windowBase + 0x20_0000
  ((({} : Memory).store b (leBytes 4 0x4942_4A4F ++ [1, 0, 0, 0x10, 0xB, 0, 0, 0] ++ List.replicate 4 0 ++ [42, 0, 0, 0] ++
    leBytes 4 4096)).store (b + 8192 + 0x800) [1])
/-- What its header says. -/
def imageB : ImageHeader := ⟨0, 42, 4096, 0, 0, 0⟩
theorem slotB_parses : parseSlot slotB windowBase = .absent ∧
    parseSlot slotB (windowBase + 0x20_0000) = .eligible imageB := by decide +kernel

/-- A slot's image under vendor signature. -/
def header (version : Word) : ImageHeader :=
  { (⟨0, 0, 0, 0, 0, 0⟩ : ImageHeader) with version := version }
/-- What SHAKE256 and Falcon answer on a slot that the owner signed. -/
def crypto (good : Bool) : Signed := { digest := 7, keyDigest := 0, sigHolds := good }

theorem witness_CheckingJudgesAndSelects :
    ((at_ { stage := .checking }).boot.stage = .checking ∧
      selectSlot (judgeSlot {} (parseSlot {} windowBase) (crypto true)) (judgeSlot {} .malformed (crypto true)) = none) ∧
    (∀ c, ∃ passes, selectSlot (judgeSlot {} (parseSlot slotB windowBase) (crypto true))
      (judgeSlot {} (parseSlot slotB (windowBase + 0x20_0000)) c) = some (true, passes)) ∧
    (∀ x ∈ [judgeSlot { ownerSet := true } (.eligible { header 42 with signer := 1 }) (crypto true), judgeSlot {}
      .absent (crypto false)], x.passed = true → x.state = 0b11) ∧
    selectSlot (judgeSlot { ownerSet := true } (.eligible { header 42 with signer := 1 }) (crypto true))
      (judgeSlot { ownerSet := true } (.eligible { header 42 with signer := 1 }) (crypto true)) = some (false, true) := by
  refine ⟨by decide +kernel, fun c => ?_, by decide +kernel, by decide +kernel⟩
  rw [slotB_parses.1, slotB_parses.2]
  cases h : (judgeSlot {} (.eligible imageB) c).passed <;>
    exact ⟨_, by simp only [selectSlot, h]; simp [judgeSlot]; rfl⟩

theorem witness_SlotReasonIsTheFirstFailedTest :
    (let st := ({} : Secure).tested [.minver] (bothBad .minver);
      ¬(st.lost .rollback = false ∧ st.lost .minver = false)) ∧
    (let st : Secure := { ownerOnly := true };
      st.lost .rollback = false ∧ st.lost .minver = false ∧
      ¬((header 0).signer = 1 → st.ownerSet = true) ∨ ¬(st.ownerOnly = true → (header 0).signer = 1)) ∧
    (let st : Secure := { v := true, minver := 41, ownerSet := true };
      ¬((crypto false).sigHolds = true) ∧ ¬(st.minver.toNat ≤ (header 40).version.toNat) ∧
      keyAccepted st 1 (crypto true).keyDigest = true ∧ (crypto true).sigHolds = true ∧
      st.minver.toNat ≤ (header 41).version.toNat) ∧
    (∀ h, SlotParse.malformed ≠ .eligible h) := by
  refine ⟨by decide +kernel, by decide +kernel, by decide +kernel, fun h => by simp⟩

theorem witness_KeysDoneStartsTheImage :
    (at_ { stage := .keys }).boot.stage = .keys ∧ (at_ { stage := .keys }).boot.seed = none ∧
    (at_ { stage := .keys, seed := some 1 }).boot.seed ≠ none ∧
    (let s := at_ { stage := .running, seed := some 1, version := 5, released := some ⟨[], [], []⟩ };
      let t := { s with secure := { s.secure with k := true } };
      s.boot.seed = some 1 ∧ s.boot.released ≠ none ∧ s.vouched = true ∧ t.secure.seen.k = true ∧
      s.secure.seen.k = false ∧ 5 ≤ t.boot.version.toNat ∧ t.boot.version.toNat < 6) := by decide +kernel

theorem witness_MinverRisesOnlyByTheHost :
    (let s := { run with secure := { v := true, minver := 4 } };
      s.boot.stage = .running ∧ s.boot.unvouched = false ∧ s.lost = false ∧ s.frozen = false ∧
      s.secure.seen.v = true ∧ (5 : Word) = s.boot.version ∧ s.secure.seen.minver.toNat < (5 : Word).toNat) ∧
    (run.boot.stage ≠ .reset ∧ run.lost = false ∧ run.frozen = false ∧ ¬(run.vouched = true ∧
      run.secure.seen.v = true ∧ (5 : Word) = run.boot.version ∧
      run.secure.seen.minver.toNat < (5 : Word).toNat)) ∧
    ∃ t, exec (.bootMinverAdvance 5) { run with secure := { v := true, minver := 4 } } = .next t ∧
      t.secure.minver ≠ 4 := ⟨by decide +kernel, by decide +kernel, _, rfl, by decide +kernel⟩

theorem witness_ResetsLoseTheWork :
    (up.boot.stage ≠ .running ∧ run.boot.stage = .running ∧ resetFree run = true ∧ run.env.reset ≠ .function ∧
      (1 : Word).getLsbD 0 = true ∧ (2 : Word).getLsbD 0 = false ∧ run.alive = true ∧ run.env.reset = .none) ∧
    (run.mem.wf ∧ windowBase + holdSize ≤ windowBase + windowSize - 1) := by decide +kernel

theorem witness_ResetsAreHeldAndEnd :
    (let s := { run with lighthouse := { state := .relaunching } };
      s.boot.stage = .running ∧ s.lost = false ∧ resetFree s = false ∧ s.alive = true ∧ s.env.reset = .none ∧
      s.env.power ≠ .slackWater ∧ (1 : Word).getLsbD 0 = true) ∧
    (let s := { run with env := { run.env with reset := .function } };
      s.env.reset = .function ∧ s.lighthouse.pendingLossRecord = none ∧ s.env.reset ≠ .device) ∧
    (let s := { run with env := { run.env with reset := .device } };
      s.env.reset = .device ∧ s.env.heldHalt = none ∧ s.env.reset ≠ .function) ∧
    (let s := { run with env := { run.env with reset := .device, heldHalt := some (true, false) } };
      s.env.reset = .device ∧ s.env.heldHalt = some (true, false)) ∧
    ((run.updQuay 7 ({ · with resetting := true })).quays[(7 : QuayId)].resetting = true ∧
      run.quays[(7 : QuayId)].resetting = false) ∧
    (run.alive = true ∧ run.frozen = false ∧ run.env.reset = .none ∧ run.quayEnabled 7 = true ∧
      run.quays[(7 : QuayId)].wholeFenced = false ∧ run.quays[(7 : QuayId)].resetting = false ∧
      run.manifest.load = none ∧ run.repairDue 7 = false ∧
      (run.updQuay 7 ({ · with resetHeld := true })).quays[(7 : QuayId)].resetHeld = true ∧
      ({ run with faults := { run.faults with pending := [(.transform 7, 0x3011, 1000)] } } : State).repairDue 7 = true) ∧
    (let s := { run with manifest := { run.manifest with load := some { changed := [7] } } };
      s.alive = true ∧ s.manifest.load = some { changed := [7] } ∧ (7 : QuayId) ∈ ({ changed := [7] } : Load).changed) := by
  decide +kernel

theorem witness_PowerStatesGateAndReturn :
    (run.env.linkUp = true ∧ run.env.l12 = false ∧ run.fwUp = true ∧ run.quayEnabled 7 = true ∧
      run.quayFree 7 = true ∧ run.quays[(7 : QuayId)].wholeFenced = false) ∧
    ({ run with env := { run.env with l12 := true } } : State).env.l12 = true ∧
    (run.manifest.partition[(7 : QuayId)] = none ∧ (run.berth 7 3).tile = none ∧ (run.berth 7 3).holdOwner = none) ∧
    (let s := ({ run with manifest := { run.manifest with partition := run.manifest.partition.set 7 (some 0) } } :
        State).updQuay 7 ({ · with clockGated := true });
      s.fwUp = true ∧ s.quays[(7 : QuayId)].clockGated = true ∧ (s.berth 7 3).tile = none ∧
      (s.berth 7 3).holdOwner = none ∧ ¬(s.manifest.partition[(7 : QuayId)] = none ∨ (s.berth 7 3).fenced = true ∨
        s.quayEnabled 7 = false)) ∧
    (let s := run.updBerth 7 3 ({ · with holdOwner := some (0, 0) }); (s.berth 7 3).holdOwner ≠ none) ∧
    (let s := { run with manifest := { run.manifest with partition := run.manifest.partition.set 7 (some 0) } };
      let s := s.updBerth 7 3 ({ · with gated := true, waking := true });
      s.fwUp = true ∧ s.env.power = .d0 ∧ s.quayEnabled 7 = true ∧ s.quays[(7 : QuayId)].wholeFenced = false ∧
      s.manifest.partition[(7 : QuayId)].isSome = true ∧ (s.berth 7 3).fenced = false ∧ (s.berth 7 3).gated = true ∧
      (s.berth 7 3).waking = true) ∧
    (run.configAnswers = true ∧ run.env.power ≠ .d3hot ∧ run.alive = true ∧ ∀ c : ChanId,
      run.memctl.chans[c].paused = false ∧ run.memctl.chans[c].retraining = false) ∧
    (up.configAnswers = true ∧ up.alive = false ∧ State.reset.configAnswers = false) ∧
    (∃ c : ChanId, (run.updChan 31 ({ · with paused := true })).memctl.chans[c].paused = true) ∧
    (let s := { run with env := { run.env with power := .d3hot } };
      s.env.power = .d3hot ∧ s.lost = false ∧
      ({ s with lighthouse := { state := .lost } } : State).lost = true) ∧
    (let l : CacheLine := { slice := 0, set := 0, way := 0, line := 0, dirty := true, bad := false };
      let s := { run with env := { run.env with l12 := true }, power := { run.power with slackEn := true }
                          mem := { run.mem with lines := [l] } };
      slackReady s = true ∧ s.mem.held 0 = some l ∧ l.dirty = true ∧ l.bad = false ∧ slackReady run = false) ∧
    ({ run with env := { run.env with power := .slackWater } } : State).env.power = .slackWater := by
  decide +kernel

theorem witness_TheTideIsKeptAndAligned :
    (run.env.refclk = true ∧ run.tide.locked = true) ∧
    (let s := { run with env := { run.env with refclk := false }, tide := { run.tide with holdover := true } };
      s.env.refclk = false ∧ s.tide.holdover = true ∧ s.tide.locked = true) ∧
    (run.tide.holdover = false ∧ run.tide.syncArm = false) ∧
    (let s := { run with tide := { run.tide with syncArm := true, syncValue := 1000 } };
      s.tide.syncArm = true ∧ s.tide.syncValue.toNat < s.now.toNat + 1) ∧
    (let s := { run with tide := { run.tide with syncArm := true, syncValue := 1001 } };
      s.tide.syncArm = true ∧ s.tide.syncValue.toNat = s.now.toNat + 1) ∧
    (let s := { run with tide := { run.tide with syncArm := true, syncValue := 1002 } };
      s.tide.syncArm = true ∧ s.now.toNat + 1 < s.tide.syncValue.toNat) ∧
    (let s := { run with tide := { run.tide with syncOutEn := true, syncOutAt := 1000 } };
      s.tide.syncOutEn = true ∧ s.tide.syncOutAt ≠ 0 ∧ s.now.toNat ≤ s.tide.syncOutAt.toNat) ∧
    (run.running = true ∧ run.lost = false ∧ run.frozen = false ∧ run.env.reset ≠ .function) ∧
    (let s := { run with cfg := { run.cfg with ptmEnable := true } };
      s.cfg.ptmEnable = true ∧ s.tide.locked = true ∧ s.tide.ptmLock = false ∧ s.tide.groupAligned = false ∧
      s.tide.syncArm = false ∧ s.env.l12 = false ∧
      ((3999 : Int) - s.tide.ptmEpoch.toNat) / 4 < s.now.toNat ∧
      ((4000 : Int) - s.tide.ptmEpoch.toNat) / 4 = s.now.toNat ∧
      s.now.toNat < ((4004 : Int) - s.tide.ptmEpoch.toNat) / 4) ∧
    (let s := { run with tide := { run.tide with ptmLock := true, ptmBad := 2 } };
      s.tide.ptmLock = true ∧ 2 ≤ s.tide.ptmBad ∧
      ((4050 : Int) - s.tide.ptmEpoch.toNat - 4 * s.now.toNat).natAbs ≤ 50 ∧
      50 < ((4051 : Int) - s.tide.ptmEpoch.toNat - 4 * s.now.toNat).natAbs) := by
  decide +kernel

theorem witness_RegisterWritesHaveOneShape :
    run.reachable = true ∧ run.configAnswers = true ∧ run.bar2Answers = true ∧ run.lost = false ∧
    (0xFF_FFFC : Nat) < 0x100_0000 ∧
    (¬(8 = 4 ∧ 0xFF_FFFC % 4 = 0 ∧ (0xFF : BitVec 8).toNat % 16 = 15) ∧
      ¬(8 = 8 ∧ 0xFF_FFFC % 8 = 0 ∧ (0xFF : BitVec 8) = 0xFF)) ∧
    (0xFF_FFFC % 4 = 0 ∧ (0x0F : BitVec 8).toNat % 16 = 15) ∧ 0xFF_FFF8 % 8 = 0 := by decide +kernel

theorem witness_RegistersTakeTheirFields :
    run.answers = true ∧ run.queues[(5 : QueueId)].en = false ∧
    (run.updQueue 5 fun x => { x with en := true }).queues[(5 : QueueId)].en = true ∧
    (run.updCtx 9 fun x => { x with valid := true }).ctxs[(9 : CtxId)].valid = true ∧
    (60 ≤ (60 &&& 0xFF : Word).toNat ∧ (220 &&& 0xFF : Word).toNat ≤ 220 ∧ (59 &&& 0xFF : Word).toNat < 60 ∧
      220 < (221 &&& 0xFF : Word).toNat) ∧ (0x8000_0000 : Word).getLsbD 31 = true ∧
    (63 &&& 0x7FFF : Word).toNat < 64 ∧ 16000 < (16001 &&& 0x7FFF : Word).toNat := by decide +kernel

theorem witness_OnlyIdentAndLighthouseAnswerWhenLost :
    0xFFFF < 0x1_0000 ∧ run.reachable = true ∧
    (1 ≠ 0 ∧ 1 ≠ 0xF0 ∧ ({ run with lighthouse := { state := .lost } } : State).lost = true) := by decide +kernel

/-- A replay or a record is in force. -/
def logs (mode : Bool) : State := { run with recorder := { run.recorder with en := true, active := true, mode } }
abbrev replay : State := logs true

theorem witness_Bar2ReachesCompanionMemory :
    (run.reachable = true ∧ run.bar2Answers = true ∧ run.boot.stage = .running ∧ run.capturing = false ∧
      run.replaying = false ∧ (logs false).capturing = true ∧ (logs false).boot.stage = .running ∧
      replay.replaying = true ∧ (replay.captureRuns 0 [0]).length = 0) ∧
    (run.inAperture 0xFFF_FFFF 1 = true ∧ ([0] : List Byte) ≠ [] ∧ run.inAperture 0 4096 = true ∧
      run.bar2Address 0 + 4096 ≤ run.part.memory) ∧
    (let s := { run with hostif := { run.hostif with bar2Log2 := 36 } };
      s.bar2Answers = true ∧ s.inAperture (s.part.memory - 1) 2 = true ∧
      s.part.memory < s.bar2Address (s.part.memory - 1) + 2 ∧
      s.part.reserved < s.bar2Address (s.part.memory - 1) + 2) ∧
    (let s := at_ { stage := .windowOpen };
      s.reachable = true ∧ s.bar2Answers = true ∧ s.boot.stage = .windowOpen ∧ s.inAperture 0 1 = true) ∧
    (let s := { run with lighthouse := { state := .lost } };
      s.reachable = true ∧ s.bar2Answers = false ∧ s.inAperture 0 1 = true) ∧
    run.configAnswers = true := by decide +kernel

/-- A COPY whose source is outbound, `n` bytes asked for. -/
def outCopy (n : Nat) : Flight :=
  { flight (.copy 0x2_0000 0x1_0000 16) with
    started := true, phase := .executing, awaiting := true, sources := [⟨0x2_0000, 16, false⟩], requested := n
    reads := [n] }
/-- Context 0 maps its page 2 to the first outbound window. -/
def outbound (fs : List Flight) : State := { busy fs with
  mem := tables.store 0x2010 (leBytes 8 0x80_0000_000F)
  hostif := { run.hostif with windows := run.hostif.windows.set 0 { en := true, offset := 0, xlat := 0 } } }

theorem witness_OutboundReadsComplete :
    run.alive = true ∧ run.cfg.ctoDisable = false ∧
    ({ run with cfg := { run.cfg with ctoDisable := true } } : State).cfg.ctoDisable = true ∧
    (let s := (busy []).updQueue 0 fun x => { x with fetching := 1 };
      s.alive = true ∧ s.queues[(0 : QueueId)].active = true ∧ s.queues[(0 : QueueId)].stopped = false ∧
      s.queues[(0 : QueueId)].fetching ≠ 0 ∧ (List.replicate 64 (0 : Byte)).length = 64) ∧
    (let s := outbound [outCopy 16];
      s.alive = true ∧ s.flight? 0 0 = some (outCopy 16) ∧ (outCopy 16).awaiting = true ∧ (outCopy 16).ended = false ∧
      (outCopy 16).entry.op = .copy 0x2_0000 0x1_0000 16 ∧
      (((outCopy 16).buffer ++ List.replicate 15 (0 : Byte)).take 16).length < (outCopy 16).requested ∧
      s.sourceDue (outCopy 16) ≤ (((outCopy 16).buffer ++ List.replicate 16 (0 : Byte)).take 16).length) := by
  decide +kernel

/-- A good header of queue 0 at 0x4000, with the smallest rings and no journal ring. -/
def goodHeader : Memory :=
  ((({} : Memory).store 0x4000 (leBytes 8 0x5000)).store 0x4008 (leBytes 8 0x6000)).store 0x4030 [4, 4, 0, 4]
/-- Queue 0 with a header and EN 0. -/
def headed (m : Memory) : State :=
  { run with mem := m, queues := run.queues.set 0 { run.queues[(0 : QueueId)] with hdrAddr := 0x4000 } }

theorem witness_QueueControlEnablesAndStops :
    (run.answers = true ∧ run.replaying = false ∧ run.queues[(0 : QueueId)].en = false) ∧
    (replay.answers = true ∧ replay.replaying = true) ∧
    ({ run with ready := {} } : State).ready.ready = false ∧
    (let s := headed goodHeader; s.ready.ready = true ∧
      ((s.wakeSlack.recordRegWrite 0x2_0008 1).readHeader 0).isSome = true) ∧
    ((headed (goodHeader.store 0x4030 [3])).wakeSlack.recordRegWrite 0x2_0008 1).readHeader 0 = none ∧
    ((headed (goodHeader.store 0x4033 [3])).wakeSlack.recordRegWrite 0x2_0008 1).readHeader 0 = none ∧
    ((busy []).queues[(0 : QueueId)].en = true ∧ (busy []).queues[(0 : QueueId)].enHeld = false) ∧
    ((busy []).updQueue 0 fun x => { x with enHeld := true }).queues[(0 : QueueId)].enHeld = true := by decide +kernel

theorem witness_SweepRotatesOverTheQueues :
    (let s := { busy [] with sched := { run.sched with sweepFirst := 255 } };
      s.fwUp = true ∧ s.ready.ready = true ∧ s.env.power = .d0 ∧ s.sched.sweepFirst < 256 ∧
      s.replaying = false ∧ s.queues[(0 : QueueId)].active = true ∧
      ∀ p : QueueId, s.queues[p].active = true → (0 + 256 - 255) % 256 ≤ (p.val + 256 - 255) % 256) ∧
    (∀ q : QueueId, run.queues[q].active = false) ∧ replay.replaying = true ∧
    (let ringed (tail : Word) : State := { busy [] with mem := tables.store 0x4010 (leBytes 4 tail.toNat) };
      let n := 2 ^ (busy []).queues[(0 : QueueId)].hdr.ringLog2;
      (busy []).queues[(0 : QueueId)].stopped = false ∧ (busy []).queues[(0 : QueueId)].fetching = 0 ∧
      ((ringed (BitVec.ofNat 32 n)).headerWord 0 0x10 - (busy []).queues[(0 : QueueId)].head).toNat ≤ n ∧
      n < ((ringed (BitVec.ofNat 32 (n + 1))).headerWord 0 0x10 - (busy []).queues[(0 : QueueId)].head).toNat) := by
  decide +kernel

/-- A command that is not eligible yet. -/
def fresh (op : Op) : Flight := { flight op with eligible := false }
/-- The state in which a command's tests are made. -/
def tested (f : Flight) (s : State) : State :=
  let u := if s.replaying then s else s.advanceTo f.entry.launch;
  (u.updFlight f.q f.idx fun x => { x with eligible := true, eligibleAt := u.now, haltTicks := 0 }).trace 2
    (qi f.q f.idx) u.now.toNat

theorem witness_EligibilityTestsInOrder :
    (let f := { fresh .nop with entry := { entry .nop with launch := 1001, malformed := true } };
      let s := busy [f];
      s.fwUp = true ∧ s.ready.ready = true ∧ s.haltHolds = false ∧ s.env.power = .d0 ∧ s.replaying = false ∧
      s.nextEligible 0 = some f ∧ s.orderOk f = true ∧ s.deciding = false ∧ f.entry.malformed = true) ∧
    (let f := fresh (.peerCopy 0 0 0 0 0); let s := { busy [f] with fwif := { run.fwif with feat := 0 } };
      s.fwUp = true ∧ s.nextEligible 0 = some f ∧ s.orderOk f = true ∧ f.entry.malformed = false ∧
      (tested f s).featureOk f.entry.op = false) ∧
    (let f := fresh (.copy 0 0 0); let s := { busy [f] with ctxs := run.ctxs };
      s.nextEligible 0 = some f ∧ s.orderOk f = true ∧ f.entry.malformed = false ∧
      (tested f s).featureOk f.entry.op = true ∧ f.entry.op.namesContext = true ∧
      (tested f s).ctxs[f.entry.ctx].valid = false) ∧
    (let f := fresh .nop; let s := busy [f];
      s.nextEligible 0 = some f ∧ s.orderOk f = true ∧ (tested f s).eligibleFault f = none ∧
      f.entry.predCmp = 0 ∧ (tested f s).decision 0x05 f.q f.idx = none) ∧
    (let f := { fresh .nop with entry := { entry .nop with predCmp := 1 } }; let s := busy [f];
      s.nextEligible 0 = some f ∧ s.orderOk f = true ∧ (tested f s).eligibleFault f = none ∧
      f.entry.predCmp ≠ 0 ∧ (tested f s).skips f = true) ∧
    (let f := { fresh .nop with entry := { entry .nop with predCmp := 1 } };
      let s := { busy [f] with recorder := replay.recorder };
      s.fwUp = true ∧ s.haltHolds = false ∧ s.nextEligible 0 = some f ∧ s.orderOk f = true ∧ s.deciding = true ∧
      f.entry.predCmp ≠ 0 ∧ s.decision 0x05 0 f.idx = none) := by decide +kernel

/-- A FLAG_WAIT for flag 1 to reach `v`, that waits. -/
def waiting (v : Word) : Flight := { flight (.flagWait 1 3 v 1) with phase := .waiting, waitFrom := 1000 }
/-- A recorded failure of command 0 of queue 0. -/
def decided : Decision := { kind := 0x06, q := 0, idx := 0, flag := false, reason := 0x8002, tensor := 0, step := 0, after := 0 }

theorem witness_CommandsWithoutResourcesRun :
    ([.nop, .flagSet 1 2, .flagAdd 1 2, .fence 2] : List Op).all (fun op =>
      (busy [flight op]).fwUp && decide ((busy [flight op]).startable? 0 0 = some (flight op))) = true ∧
    (let f := flight (.timestamp 0x1_FFF8); let s := busy [f]; let u := s.startFlight 0 0;
      s.startable? 0 0 = some f ∧ firstFault u 0 0x1_FFF8 8 .write = none ∧ u.outside 0 0x1_FFF8 8 .write = false) ∧
    (let f := flight (.timestamp 0x2_FFFC); let s := outbound [f]; let u := s.startFlight 0 0;
      s.startable? 0 0 = some f ∧ (firstFault u 0 0x2_FFFC 8 .write).isSome = true) ∧
    (let f := flight (.timestamp 0x2_FFF8); let s := { outbound [f] with hostif := {} }; let u := s.startFlight 0 0;
      s.startable? 0 0 = some f ∧ firstFault u 0 0x2_FFF8 8 .write = none ∧ u.outside 0 0x2_FFF8 8 .write = true) ∧
    (let f := flight (.flagWait 1 3 0 1); let s := busy [f];
      s.fwUp = true ∧ s.startable? 0 0 = some f ∧ s.decision 0x06 0 0 = none ∧ flagTrue 3 (s.flag 1) 0 = true) ∧
    (let f := flight (.flagWait 1 3 1 1); let s := busy [f];
      s.startable? 0 0 = some f ∧ flagTrue 3 (s.flag 1) 1 = false) ∧
    (let f := flight (.flagWait 1 3 1 1);
      let s := { busy [f] with recorder := { replay.recorder with decisions := [decided] } };
      s.startable? 0 0 = some f ∧ (s.decision 0x06 0 0).isSome = true) ∧
    (let s := busy [waiting 1];
      s.haltHolds = false ∧ s.deciding = false ∧ s.flight? 0 0 = some (waiting 1) ∧
      (waiting 1).phase = .waiting ∧ (1 : BitVec 64) ≠ 0) ∧ replay.deciding = true := by decide +kernel

/-- A command whose record is held. -/
def ended : Flight := { flight .nop with
  started := true
  phase := .recordHeld
  record := some { reason := 0, status := 0, flags := 0 } }

theorem witness_RecordsAreWrittenInOrder :
    (let s := busy [ended]; let x := s.queues[(0 : QueueId)];
      let a := x.hdr.compl + 32 * (x.ctail.toNat % 2 ^ x.hdr.complLog2);
      s.mem.wf ∧ s.inHostMemory a 32 = true ∧ s.fwif.trace.en = false ∧
      (∀ i < 4, ¬(a ≤ s.header 0 + 0x18 + i ∧ s.header 0 + 0x18 + i < a + 32)) ∧ s.fwUp = true ∧
      s.flights = [ended] ∧ ended.q = 0 ∧ ended.phase = .recordHeld ∧ ended.record.isSome = true ∧
      s.complFull 0 = false ∧ s.queues[(0 : QueueId)].active = true ∧ s.queues[(1 : QueueId)].active = false) := by
  decide +kernel

theorem witness_HostFlagsAndHalts :
    (run.answers = true ∧ run.replaying = false) ∧ (replay.answers = true ∧ replay.replaying = true) ∧
    (run.haltAnswers = true ∧ run.env.reset = .none ∧ run.hostif.halt = false ∧ run.hostif.preempt = false ∧
      ∀ f ∈ run.flights, f.holdsHalt = false) ∧
    (let s := { run with env := { run.env with reset := .device } };
      s.haltAnswers = true ∧ s.env.reset = .device) ∧
    (let s := { run with hostif := { run.hostif with halt := true } };
      s.haltAnswers = true ∧ s.env.reset = .none ∧ s.hostif.halt = true) := by decide +kernel

/-- A COPY whose bytes are in memory. -/
def copyRuns (op : Op) : Flight := { flight op with started := true, phase := .executing }

theorem witness_CopiesMoveTheirBytes :
    (let f := flight (.copy 0 1 2); let s := busy [f];
      s.fwUp = true ∧ s.startable? 0 0 = some f ∧ s.channelFor f = true ∧ rangesMeet 0 1 2 = true) ∧
    (let f := flight (.copy 0 0x1_0000 0x1_0000); let s := busy [f]; let u := s.startFlight 0 0;
      s.fwUp = true ∧ s.startable? 0 0 = some f ∧ s.channelFor f = true ∧
      rangesMeet 0 0x1_0000 0x1_0000 = false ∧ firstFault u 0 0 0x1_0000 .read = none ∧
      firstFault u 0 0x1_0000 0x1_0000 .write = none) ∧
    (let f := flight (.copy 0 0x1_0000 2); let g (i : Nat) : Flight := { copyRuns f.entry.op with idx := BitVec.ofNat 32 i };
      (busy (f :: (List.range 8).map fun i => g (i + 1))).channelFor f = false) ∧
    (let f := flight (.copy 0x1_FFFF 0 2); let s := busy [f]; let u := s.startFlight 0 0;
      s.startable? 0 0 = some f ∧ rangesMeet 0x1_FFFF 0 2 = false ∧
      firstFault u 0 0x1_FFFF 2 .read = some ⟨0x2_0000, 1, 0⟩) ∧
    (let f := flight (.peerCopy 0 0x80_0000_0000 4 1 0x80_0000_FFFC); let s := outbound [f];
      let u := s.startFlight 0 0;
      s.fwUp = true ∧ s.startable? 0 0 = some f ∧ s.channelFor f = true ∧ firstFault u 0 0 4 .read = none) ∧
    (let f := flight (.peerCopy 0x2_0000 0 4 0 0); let s := busy [f];
      s.startable? 0 0 = some f ∧ (firstFault (s.startFlight 0 0) 0 0x2_0000 4 .read).isSome = true) ∧
    (let f := copyRuns (.copy 0 0x1_0000 16); let s := busy [f];
      s.copying? 0 0 = some f ∧ poisonedVa s 0 0 16 = false ∧
      (s.outside 0 0 16 .read || s.outside 0 0x1_0000 16 .write) = false ∧
      poisonedVa { s with mem := { s.mem with poison := [0x10_0000 / 128] } } 0 0 16 = true) ∧
    (let f := copyRuns (.copy 0 0x2_0000 16); let s := { outbound [f] with hostif := {} };
      s.copying? 0 0 = some f ∧ poisonedVa s 0 0 16 = false ∧ s.outside 0 0x2_0000 16 .write = true) ∧
    (let f (dst : BitVec 64) := copyRuns (.peerCopy 0 dst 4 1 0); let s := outbound [f 0x80_0000_FFFC];
      s.copying? 0 0 = some (f 0x80_0000_FFFC) ∧ poisonedVa s 0 0 4 = false ∧ s.outside 0 0 4 .read = false ∧
      poisonedVa { s with mem := { s.mem with poison := [0x10_0000 / 128] } } 0 0 4 = true ∧
      s.windowsHold 0x80_0000_FFFC 4 false = true ∧ s.windowsHold 0x80_0000_FFFD 4 false = false ∧
      (outbound [f 0x80_0000_FFFD]).copying? 0 0 = some (f 0x80_0000_FFFD)) := by decide +kernel

/-- A 16-by-16 stream of the host. -/
def stream : StreamDef :=
  { source := .host, pipe := 0, width := 16, height := 16, fps := 60, exposures := 1, bits := 8, hdrOffset := 0
    meshReach := 0, dataType := 0x2A, prims := [.black, .csc, .defect], format := .c16 16 false, outW := 16, outH := 16 }
/-- Stream 23 is defined. -/
def streaming (fs : List Flight) : State := { busy fs with
  streams := run.streams.set 23 { run.streams[(23 : SctxId)] with defn := some stream } }
/-- An adaptive table of one tensor at its limits. -/
def adaptTable : List Byte :=
  leBytes 4 0x5341_4A4F ++ [1, 0, 1, 0, 0, 0, 0, 0, 0, 0, 0, 0] ++ [0, 0, 0xF0, 0xF0, 15, 0, 1, 0] ++
    List.replicate 8 0

theorem witness_TablesAndBindingsTakeEffect :
    (let f := flight (.tableLoad 1 24 3 4 0); let s := streaming [f];
      s.fwUp = true ∧ s.startable? 0 0 = some f ∧ s.channelFor f = true ∧ f.carried = [] ∧
      (s.startFlight 0 0).tableCode 1 24 3 4 = some 0xA006) ∧
    (let f := flight (.tableLoad 1 23 3 4 0); let s := streaming [f]; let u := s.startFlight 0 0;
      s.startable? 0 0 = some f ∧ s.channelFor f = true ∧ u.tableCode 1 23 3 4 = none ∧
      firstFault u 0 0 4 .read = none ∧ poisonedVa u 0 0 4 = false ∧ u.dueOf 0 [⟨0, 4, false⟩] = 0 ∧
      u.outside 0 0 4 .read = false ∧
      tableBodyOk 3 (readVa u 0 0 4) = true ∧ tableBodyOk 3 [1, 0, 0, 0] = false) ∧
    (let f := flight (.tableLoad 2 0 0 32 0);
      let s := { busy [f] with mem := tables.store 0x10_0000 adaptTable }; let u := s.startFlight 0 0;
      s.startable? 0 0 = some f ∧ s.channelFor f = true ∧ u.tableCode 2 0 0 32 = none ∧
      firstFault u 0 0 32 .read = none ∧ poisonedVa u 0 0 32 = false ∧ u.dueOf 0 [⟨0, 32, false⟩] = 0 ∧
      u.outside 0 0 32 .read = false ∧
      adaptTableOk (readVa u 0 0 32) = true) ∧
    (let f := flight (.tableLoad 2 0 0 32 0); let s := busy [f]; let u := s.startFlight 0 0;
      s.startable? 0 0 = some f ∧ u.tableCode 2 0 0 32 = none ∧ adaptTableOk (readVa u 0 0 32) = false) ∧
    (let f := flight (.streamBind 23 true 0 1 0 (0x1_0000 + 4096)); let s := streaming [f];
      s.fwUp = true ∧ s.startable? 0 0 = some f ∧ (busy [f]).startable? 0 0 = some f ∧
      (busy [f]).definedAs 23 = none ∧ s.definedAs 23 = some stream ∧
      defSize stream + 0x1_0000 = (0x1_0000 + 4096 : Word).toNat ∧
      (0x1_0000 + 4095 : Word).toNat < defSize stream + 0x1_0000 ∧ s.streams[(23 : SctxId)].frame = none) ∧
    (let f := flight (.streamBind 23 false 0 0 0 0);
      (streaming [f]).startable? 0 0 = some f) ∧
    (let f := flight (.streamBind 23 true 0 1 0 0x2_0000);
      let s := (streaming [f]).updStream 23 fun x => { x with
        frame := some { start := 0, csiFrame := 0, defn := stream, binding := none } };
      s.startable? 0 0 = some f ∧ s.definedAs 23 = some stream ∧ s.streams[(23 : SctxId)].frame ≠ none) ∧
    (let f := flight (.tableLoad 1 23 3 4 0x2_0000);
      let at2 (s : State) : State := { s with streams := (streaming []).streams };
      let s := at2 (outbound [f]); let u := s.startFlight 0 0;
      let v := at2 { outbound [f] with hostif := {} }; let w := v.startFlight 0 0;
      u.tableCode 1 23 3 4 = none ∧ firstFault u 0 0x2_0000 4 .read = none ∧ poisonedVa u 0 0x2_0000 4 = false ∧
      u.dueOf 0 [⟨0x2_0000, 4, false⟩] ≠ 0 ∧ w.tableCode 1 23 3 4 = none ∧ firstFault w 0 0x2_0000 4 .read = none ∧
      w.dueOf 0 [⟨0x2_0000, 4, false⟩] = 0 ∧ w.outside 0 0x2_0000 4 .read = true) ∧
    (let f := { flight (.tableLoad 1 23 3 4 0) with carried := [0, 0, 0, 0] }; let s := streaming [f];
      s.startable? 0 0 = some f ∧ (s.startFlight 0 0).tableCode 1 23 3 4 = none ∧ 4 ≤ f.carried.length) ∧
    (let f := flight (.tableLoad 1 23 3 4 0);
      let s := { streaming [f] with mem := { tables with poison := [0x10_0000 / 128] } }; let u := s.startFlight 0 0;
      s.startable? 0 0 = some f ∧ u.tableCode 1 23 3 4 = none ∧ poisonedVa u 0 0 4 = true ∧
      (firstFault u 0 0x2_0000 4 .read).isSome = true) := by decide +kernel

/-- A DISPATCH from page 0. -/
def dispatch : Op := .dispatch 0 0 0 0 0
/-- A device section whose one partition admits context 0. -/
def device (streams : List (Nat × StreamDef)) (triggers : List (Nat × Trigger)) (locked : List LockedRegion) :
    DeviceSection :=
  { ident := 0, partitions := [[0]], streams, masks := { ch := .replicate 5 0, bank := .replicate 4 0 }, triggers
    locked }
/-- Quay 7 ready in partition 0 under shape 1, Berths awake or not. -/
def oneQuay (gated : Bool) (fs : List Flight) : State :=
  let s := busy fs
  { s with
    manifest := { s.manifest with
      partition := s.manifest.partition.set 7 (some 0), device := some (device [] [] []) }
    quays := s.quays.set 7 { s.quays[(7 : QuayId)] with
      ready := true, shape := 1, berths := .replicate 4 { gated, clockGated := true } } }
/-- A DISPATCH in some phase. -/
def disp (phase : Phase) (r : Run) : Flight :=
  { flight dispatch with started := phase ≠ .admitWait, phase, run := r }

theorem witness_DispatchWaitsAndCompletes :
    (let f := flight dispatch; let s := oneQuay false [f];
      let code : List Source := [⟨0, 64, true⟩]; let args : Source := ⟨0, 0, false⟩; let all := code ++ [args];
      let u := s.recordCommand 0 0 (s.lastSource f code args);
      s.checkable? 0 0 = some f ∧ f.entry.fallback = 0 ∧ f.carried = [] ∧
      (cargo 1 1).entries[(0 : Word).toNat]? = (cargo 1 1).entries.head? ∧
      s.sourceFault 0 all = none ∧ s.dueOf 0 all = 0 ∧ s.sourceCode 0 all = none ∧
      u.dispatchCheck f 0 (cargo 1 1) none = none ∧ s.replaying = false ∧
      u.dispatchCheck f 0 (cargo 2 1) none = some 0x8003 ∧
      ({ s with mem := { s.mem with poison := [0x10_0000 / 128] } } : State).sourceCode 0 all = some 0x4012 ∧
      (({ s with mem := {} } : State).sourceFault 0 all).isSome = true) ∧
    (let f (asked : Bool) : Flight := { flight (.dispatch 0x2_0000 0 0 0 0) with awaiting := asked };
      let s (asked : Bool) : State := { outbound [f asked] with manifest := (oneQuay false []).manifest };
      ∀ asked : Bool, (s asked).checkable? 0 0 = some (f asked) ∧ (f asked).sources = [] ∧
        (s asked).sourceFault 0 [⟨0x2_0000, 64, true⟩, ⟨0, 0, false⟩] = none ∧
        (s asked).dueOf 0 [⟨0x2_0000, 64, true⟩, ⟨0, 0, false⟩] ≠ 0) ∧
    (let f := disp .executing { cargo := some (cargo 1 1), arrayDone := true }; let s := oneQuay false [f];
      s.fwUp = true ∧ s.flight? 0 0 = some f ∧ f.phase = .executing ∧ f.run.arrayDone = true ∧
      f.run.deckDone = true ∧ s.tileRunning 0 0 = false ∧ f.run.home = none ∧ f.run.adaptive = none ∧
      f.run.steps = [] ∧ f.entry.budget = 0) ∧
    (let f := flight dispatch; let d : Decision := { decided with kind := 0x08 };
      let s := { oneQuay false [f] with recorder := { replay.recorder with decisions := [d] } };
      let u := s.recordCommand 0 0 [];
      s.checkable? 0 0 = some f ∧ u.dispatchCheck f 0 (cargo 1 1) none = none ∧ (u.decision 0x08 0 0).isSome = true) ∧
    (let f := disp .executing { arrayDone := true, home := some ⟨0x2_0000, [5], false⟩, stepped := [5]
                                adaptive := some [⟨5, 0, -16, 15, false, 1, 0, 0, 0⟩] };
      ((oneQuay false [f]).homeFault 0 f.run).isSome = true ∧
      (let s := { oneQuay false [f] with mem := (outbound []).mem };
        s.homeFault 0 f.run = none ∧ s.homeOutside 0 f.run = true)) := by decide +kernel

/-- Where no context is blocked, noting the blocked ones changes nothing. -/
theorem noteBlocked_of_none (s : State) (h : ∀ c, s.ctxBlocked c = false)
    (k : (s.ctxs.toList.all fun x => x.blockedSince.isNone) = true) : s.noteBlocked = s := by
  have b : ∀ c : CtxId, s.ctxs[c].blockedSince = none := fun c => by
    have := List.all_eq_true.mp k s.ctxs[c] (by simp)
    exact Option.isNone_iff_eq_none.mp this
  have e : (Vector.ofFn fun c : CtxId => s.ctxs[c]) = s.ctxs := by ext i hi; simp
  have m : s.noteBlocked = { s with ctxs := Vector.ofFn fun c : CtxId => s.ctxs[c] } := by
    unfold State.noteBlocked
    congr 2
    funext c
    simp only [h c, Bool.false_eq_true, if_false]
    rw [← b c]
  rw [m, e]

/-- A DISPATCH of `n` Quays that waits for admission. -/
def asking (n : Nat) : Flight := disp .admitWait { cargo := some (cargo n 0) }
/-- Quay 7 may be draining. -/
def admitting (n : Nat) (draining : Bool) : State :=
  (oneQuay false [asking n]).updQuay 7 fun x => { x with draining := draining }
theorem admitting_noteBlocked :
    (admitting 1 false).noteBlocked = admitting 1 false ∧ (admitting 2 false).noteBlocked = admitting 2 false ∧
    (admitting 1 true).noteBlocked = admitting 1 true := by
  refine ⟨noteBlocked_of_none _ ?_ ?_, noteBlocked_of_none _ ?_ ?_, noteBlocked_of_none _ ?_ ?_⟩ <;>
    decide +kernel

theorem witness_AdmissionIsRanked :
    (let f := asking 1;
      f.phase = .admitWait ∧ (oneQuay true [f]).asleep [7] ≠ [] ∧
      ((oneQuay true [f]).asleep [7]).length ≤ (oneQuay true [f]).wakesLeft ∧ (oneQuay false [f]).asleep [7] = [] ∧
      (oneQuay false [f]).saveHolds f = true ∧ (oneQuay false [f]).flight? 0 0 = some f ∧
      ({ oneQuay false [f] with ctxs := run.ctxs } : State).saveHolds f = false) ∧
    (let s := admitting 1 false;
      s.fwUp = true ∧ s.flights = [asking 1] ∧ s.replaying = false ∧ s.mayAdmit (asking 1) = true ∧
      s.verdict (asking 1) [] = .letIn [7]) ∧
    (let s := admitting 2 false; s.mayAdmit (asking 2) = true ∧ s.verdict (asking 2) [] = .refuse) ∧
    (let s := admitting 1 true; s.mayAdmit (asking 1) = true ∧ s.verdict (asking 1) [] = .wait []) ∧
    (let s := run.updCtx 0 fun x => { x with slotWaiting := true };
      s.fwUp = true ∧ s.residents.length < 64 ∧ s.nextSlot = some 0) ∧
    (let s := { admitting 1 false with recorder :=
        { replay.recorder with decisions := [{ decided with kind := 0x0E }] } };
      (s.recordedRestore (asking 1)).isSome = true ∧ (admitting 1 false).recordedRestore (asking 1) = none) ∧
    (let evicted (va : Nat) (poison : List Nat) : State :=
        { (oneQuay false [asking 1]).updCtx 0 fun x => { x with
            resident := false, slotWaiting := true, saved := true, saveVa := .ofNat _ va } with
          mem := { tables with poison } };
      (evicted 0 []).nextSlot = some 0 ∧ (evicted 0 []).returnFails 0 = none ∧
      (match (evicted 0x2_0000 []).returnFails 0 with | some (.inl _) => true | _ => false) = true ∧
      (evicted 0 [0x10_0000 / 128]).returnFails 0 = some (.inr 0x4012) ∧
      (evicted 0 []).slotUser 0 = some (asking 1) ∧ (evicted 0 []).dueOf 0 ((evicted 0 []).residentSource 0) = 0) ∧
    (let f := { asking 1 with entry := { entry dispatch with prio := 1 } };
      let v := { disp .executing { cargo := some (cargo 1 0), quays := [7] } with idx := 1 };
      let s := ((oneQuay false [f, v]).updQuay 7 ({ · with storeOwner := [(0, 1)] })).updCtx 0 ({ · with prioMax := 1 });
      s.verdict f [] = .preempt [v]) ∧
    (let f := disp .suspended { cargo := some (cargo 1 0) }; let s := oneQuay false [f];
      s.asleep [7] = [] ∧ s.flight? 0 0 = some f ∧ f.phase = .suspended ∧
      s.verdict { f with run := { cargo := some (cargo 2 0) } } [] = .refuse) := by decide +kernel

/-- A run that begins in a window asks for something. -/
theorem readRuns_pos (s : State) (noSnoop : Bool) (a n : Nat) (w : OutWindow) (h : s.windowOf a = some w)
    (k : w.peer = false) : ((readRuns s noSnoop a (n + 1)).map (·.len)).sum ≠ 0 := by
  unfold readRuns
  simp only [h, k, Bool.false_eq_true, if_false]
  split
  · split <;> simp
  · simp

/-- Context 0 has been evicted to a save area in host memory. -/
def awayFrom : State :=
  { (oneQuay false [asking 1]).updCtx 0 fun x => { x with
      resident := false, slotWaiting := true, saved := true, saveVa := 0x2_0000 } with
    mem := (outbound []).mem, hostif := (outbound []).hostif }

theorem witness_AdmissionIsRanked_return :
    awayFrom.returnFails 0 = none ∧ awayFrom.slotUser 0 = some (asking 1) ∧ (asking 1).awaiting = false ∧
    (asking 1).sources = [] ∧ awayFrom.dueOf 0 (awayFrom.residentSource 0) ≠ 0 := by
  refine ⟨by decide +kernel, by decide +kernel, by decide +kernel, by decide +kernel, ?_⟩
  have e : ((awayFrom.sourceSegments 0 (awayFrom.residentSource 0)).filter fun g => outboundBase ≤ g.addr) =
      [⟨0, outboundBase, 0xFFFF + 1, false⟩] := by decide +kernel
  have w : awayFrom.windowOf outboundBase = some { en := true, offset := 0, xlat := 0 } := by decide +kernel
  unfold State.dueOf State.runsOf
  rw [e]
  simpa using readRuns_pos awayFrom false outboundBase 0xFFFF _ w rfl

theorem witness_SchedulingSuspendsAndAbandons :
    (let f := disp .lightering { cargo := some (cargo 1 0), quays := [7] }; let s := oneQuay false [f];
      s.fwUp = true ∧ s.flight? 0 0 = some f ∧ f.phase = .lightering ∧
      (s.saveFault 0 .write).isSome = true) ∧
    (let f := disp .lightering { cargo := some (cargo 1 0), quays := [7] };
      let s := (oneQuay false [f]).updCtx 0 fun x => { x with saveSize := 2 };
      s.fwUp = true ∧ s.flight? 0 0 = some f ∧ s.saveFault 0 .write = none ∧
      s.outside 0 (s.saveBase 0 + 0x1_0000) (s.imageBytes 0) .write = false ∧
      (([⟨7, 3, 0, .uncorrectable⟩] : List HoldWord).find? fun w => decide (w.ecc = .uncorrectable)) =
        some ⟨7, 3, 0, .uncorrectable⟩ ∧
      ∀ w ∈ [(⟨7, 15, 6143, .uncorrectable⟩ : StoreWord)], w.quay ∈ f.run.quays) ∧
    (∀ phase ∈ [Phase.lightering, .restoring], let f := disp phase { cargo := some (cargo 1 0), quays := [7] };
      let s := { (oneQuay false [f]).updCtx 0 fun x => { x with saveVa := 0x1_0000, saveSize := 2 } with
        mem := (outbound []).mem };
      s.alive = true ∧ s.flight? 0 0 = some f ∧ s.saveFault 0 .write = none ∧ s.saveFault 0 .read = none ∧
      poisonedVa s 0 (s.saveBase 0 + 0x1_0000) (s.imageBytes 0) = false ∧
      s.outside 0 (s.saveBase 0 + 0x1_0000) (s.imageBytes 0) .write = true ∧
      s.outside 0 (s.saveBase 0 + 0x1_0000) (s.imageBytes 0) .read = true ∧ f.awaiting = false) ∧
    (let f := disp .restoring { cargo := some (cargo 1 0), quays := [7], badWord := some 7 };
      let s := (oneQuay false [f]).updCtx 0 fun x => { x with saveSize := 2 };
      s.fwUp = true ∧ s.flight? 0 0 = some f ∧ f.phase = .restoring ∧ s.saveFault 0 .read = none ∧
      poisonedVa s 0 (s.saveBase 0 + 0x1_0000) (s.imageBytes 0) = false ∧ f.run.badWord = some 7) ∧
    (let f := disp .restoring { cargo := some (cargo 1 0), quays := [7] };
      let s := (oneQuay false [f]).updCtx 0 fun x => { x with saveSize := 2 };
      s.fwUp = true ∧ s.flight? 0 0 = some f ∧ f.phase = .restoring ∧
      s.saveFault 0 .read = none ∧
      poisonedVa s 0 (s.saveBase 0 + 0x1_0000) (s.imageBytes 0) =
        false ∧ f.run.badWord = none ∧ ((oneQuay false [f]).saveFault 0 .read).isSome = true) ∧
    (let f := { disp .admitWait { cargo := some (cargo 1 0), fallback := some (cargo 1 0) } with
        entry := { entry dispatch with budget := 1 } };
      let s := oneQuay false [f];
      s.fwUp = true ∧ s.flight? 0 0 = some f ∧ f.phase = .admitWait ∧ s.late? f = true ∧ f.entry.budget ≠ 0 ∧
      f.run.fallback ≠ none ∧ s.haltHolds = false ∧ s.replaying = false) ∧
    (let f := { disp .admitWait { cargo := some (cargo 1 0) } with
        entry := { entry dispatch with budget := 0xFFFF } };
      (oneQuay false [f]).late? f = false) ∧
    (run.fwUp = true ∧ run.haltHolds = false ∧ run.deciding = false ∧ run.waitEdges = []) ∧
    (let s := { busy [waiting 1, { flight (.flagSet 1 1) with idx := 1 }] with
        sched := { run.sched with lastCycles := [[0, 0, 1, 0]] } };
      let both := s.waitEdges.filter fun e => s.sched.lastCycles.contains e;
      s.fwUp = true ∧ s.haltHolds = false ∧ s.deciding = false ∧ cycleLength both 0 ≠ none ∧
      s.sched.cycleValid = false) := by decide +kernel

theorem witness_ContextsRegisterAndWalk :
    (run.answers = true ∧ run.env.power ≠ .slackWater ∧ run.replaying = false ∧ run.capturing = false ∧
      run.ctxs[(255 : CtxId)].valid = false) ∧
    ((busy []).ctxs[(0 : CtxId)].valid = true ∧ ∀ f ∈ (busy []).flights, f.entry.ctx ≠ 0) ∧
    ((busy [flight .nop]).ctxs[(0 : CtxId)].valid = true ∧
      ∃ f ∈ (busy [flight .nop]).flights, f.entry.ctx = 0) ∧
    (let s := (busy []).updCtx 0 fun x => { x with busy := true };
      s.fwUp = true ∧ s.ctxs[(0 : CtxId)].busy = true ∧
      0x11 ∈ mappedPages s (fun _ => true) 4 (s.ctxs[(0 : CtxId)].root.toNat / 2048 * 2048) ∧
      0x11 ∉ s.mem.cleared) := by decide +kernel

/-- A DISPATCH with a deck part on the lowest `n` of the free cores. -/
def deckRuns (n : Nat) : State :=
  let f := disp .executing { cargo := some (cargo 1 n), quays := [7], deckDone := false
                             deckCores := (List.finRange 8).take n }
  { oneQuay false [f] with deckOwner := Vector.ofFn fun i => if i.val < n then some (0, 0) else none }

theorem witness_DeckPartsTakeAndFreeCores :
    (let f := disp .executing { cargo := some (cargo 1 8), quays := [7], deckDone := false, deckWaiting := true };
      let s := oneQuay false [f];
      s.fwUp = true ∧ s.env.power = .d0 ∧ State.sortBy s.deckBefore (s.flights.filter s.deckReady) = [f] ∧
      (f.run.entry?.map fun e => e.deckCores) = some 8 ∧ 8 ≤ s.freeCores.length ∧ s.deckRefused f = none ∧
      s.sourceFault 0 (codeSource f) = none ∧ s.flight? 0 0 = some f ∧ f.run.deckTasks = [] ∧
      (({ s with mem := {} } : State).sourceFault 0 (codeSource f)).isSome = true ∧
      ({ s with deckOwner := .replicate 8 (some (0, 1)) } : State).freeCores.length < 8) ∧
    (let f := disp .admitWait { cargo := some (cargo 2 8), deckDone := false, deckWaiting := true };
      let s := oneQuay false [f];
      State.sortBy s.deckBefore (s.flights.filter s.deckReady) = [f] ∧ s.deckRefused f = some 0x8003) ∧
    (let s := deckRuns 8; let w : DeckStore := ⟨7, 0x1_FFFF, .bytes [1]⟩;
      (s.deckStores 0 [] []).2 = none ∧ (s.deckStores 0 [] [w]).2 = none ∧
      ((([(0, .ok), (1, .uncorrectable)] : List (Nat × EccResult)).find? fun x => decide (x.2 = .uncorrectable)).isSome
        = true) ∧
      (match (s.deckStores 0 [] [{ w with va := 0x2_0000 }]).2 with | some (.inl _) => true | _ => false) = true ∧
      (({ s with mem := (outbound []).mem } : State).deckStores 0 [] [{ w with va := 0x2_0000 }]).2 = some (.inr 0x5006) ∧
      (([⟨7, .counter .time, 4, 1000⟩, ⟨0, .other 8, 8, 1000⟩] : List TrapSeen).findSome? fun t => s.deckOwner[t.core]) =
        some (0, 0)) ∧
    (let s := deckRuns 8;
      (s.deckRunning? 0 0).isSome = true ∧ s.env.reset = .none ∧ s.frozen = false ∧
      s.deckOwner[(7 : DeckId)] = some (0, 0) ∧ s.deckFaults[(7 : DeckId)].valid = false ∧
      s.deckOwner[(0 : DeckId)] = some (0, 0) ∧ s.deckFaults[(0 : DeckId)].valid = false ∧ (0 : DeckId) ≠ 7 ∧
      ((s.deckRunning? 0 0).map fun f => (f.run.deckCores.head?, f.run.entry?.isSome)) = some (some 0, true)) ∧
    (let s := deckRuns 7; s.deckOwner[(7 : DeckId)] ≠ some (0, 0)) ∧
    (∀ n ∈ ([1, 2, 7] : List DeckId), (0 : DeckId) ≤ n) := by decide +kernel

/-- A whole image: every Quay of shape 6, in the one partition. -/
def image (intact : Bool) : ManifestImage :=
  { intact, family := 0xB, memGib := 32, length := 4096, builtFor := 0
    device := some { device [] [] [] with masks := defaultMasks }
    quays := (List.range 8).map fun q => ⟨q, 6, some 0⟩, item := 3 }
/-- A load in progress. -/
def loading (l : Load) : State :=
  { run with manifest := { run.manifest with enable := true, len := 4096, load := some l } }

theorem witness_ManifestLoadsWholeOrNotAtAll :
    (run.answers = true ∧ run.replaying = false ∧ run.manifest.enable = false ∧ run.ready.ready = true) ∧
    (replay.answers = true ∧ replay.replaying = true) ∧
    ((loading {}).answers = true ∧ (loading {}).replaying = false ∧ (loading {}).manifest.enable = true) ∧
    (let s := { run with ready := {} };
      s.answers = true ∧ s.replaying = false ∧ s.manifest.enable = false ∧ s.ready.ready = false) ∧
    (let s := loading {};
      s.fwUp = true ∧ s.manifest.load = some {} ∧ s.manifestChecks {} (image false) = some (0x6001, 0xFF) ∧
      s.manifestChecks {} (image true) = none) ∧
    (let l : Load := { image := some (image true), changed := [0, 7] }; let s := loading l;
      s.fwUp = true ∧ s.manifest.load = some l ∧ l.image.isSome = true ∧ (0 : QuayId) ∈ l.changed ∧
      (∀ p ∈ l.changed, (0 : QuayId).val ≤ p.val) ∧ l.changed.length ≠ 1 ∧ s.quayFree 0 = true ∧
      s.newSection 0 = some ⟨0, 6, some 0⟩ ∧ s.quays[(0 : QuayId)].wholeFenced = false ∧
      s.quays[(0 : QuayId)].resetHeld = false) ∧
    (let l : Load := { image := some (image true), changed := [7] }; let s := loading l;
      s.fwUp = true ∧ s.manifest.load = some l ∧ l.image.isSome = true ∧ l.changed.length = 1 ∧
      s.quayFree 7 = true ∧ s.newSection 7 = some ⟨7, 6, some 0⟩ ∧ (0 : QuayId) ∉ l.changed ∧
      s.newSection 0 = some ⟨0, 6, some 0⟩) := by decide +kernel

theorem witness_RegionsPassAndTriggersFire :
    (let s := { run with memhost := { run.memhost with pendingUser := run.memhost.pendingUser.set 63 (some 4) } };
      s.fwUp = true ∧ s.memhost.pendingUser[(63 : Fin 64)] = some (4 : BitVec 4) ∧ (∀ u, s.userBusy u = false) ∧ s.mem.wf) ∧
    (let s := (streaming []).updStream 23 fun x => { x with
        frame := some { start := 0, csiFrame := 0, defn := stream, binding := none } };
      let s := { s with memhost := { s.memhost with pendingUser := s.memhost.pendingUser.set 63 (some 4)
                                                    lockUser := s.memhost.lockUser.set 63 1 } };
      s.userBusy s.memhost.lockUser[(63 : Fin 64)] = true ∧ (63 : Fin 64) ∈ s.regionUnits 63) ∧
    (let s := { run with trigs := run.trigs.set 11 { prog := some ⟨1000, 0, 1⟩, next := 1000 } };
      s.trigs[(11 : TrigId)].prog = some ⟨1000, 0, 1⟩ ∧ s.trigs[(11 : TrigId)].next ≠ (0 : Tick) ∧
      s.running = true) := by decide +kernel

/-- A DISPATCH that executes on Quay 7. -/
def onQuay : Flight := disp .executing { cargo := some (cargo 1 0), quays := [7] }
/-- A read, from a Hold that holds one element whose tag is 0, of the vector of an ordinal. -/
def holdRead (cycle ordinal : Nat) : HoldRead :=
  { cycle, berth := 3, port := .activation, cell := 0, at_ := 0, ordinal, ecc := .ok }
/-- A tile at Berth 3 of Quay 7. -/
def tileRun (rerun : Bool) (runs : Nat) : TileRun :=
  { tile := { oneTile with ops := [passOf .mac .i8 .i8 oneOut], runs }, cmd := (0, 0), rerun, first := []
    env := { seed := 0, stream := 0, exps := [], g1 := false } }
/-- The state while it runs. -/
def tiling (rerun : Bool) (runs : Nat) : State :=
  (oneQuay false [onQuay]).updBerth 7 3 fun b => { b with tile := some (tileRun rerun runs) }
/-- An error in the contribution of the first tap at a lane of Berth 3. -/
def laneError (row col : Fin 64) (error : Int) : TileFault := .lane ⟨3, row, col⟩ 0 0 0 0 error

/-- Quay 7 with its Pilot running and its command. -/
def tileable (f : Flight) : State := (oneQuay false [f]).updQuay 7 ({ · with pilotRunning := true })

theorem witness_TilesRunBehindTheirChecks :
    (let s := (tileable onQuay).updBerth 7 3 fun b => { b with hold := [⟨0, 5, 0⟩] };
      s.fwUp = true ∧ s.quays[(7 : QuayId)].pilotRunning = true ∧ (oneQuay false []).quays[(7 : QuayId)].pilotRunning = false ∧ s.env.power = .d0 ∧ s.quays[(7 : QuayId)].resetting = false ∧
      s.quays[(7 : QuayId)].recoveryFence = false ∧ s.quayOwner 7 = some onQuay ∧ s.arrayAt 7 3 = some [3] ∧
      (s.berth 7 3).tile = none ∧ onQuay.run.arrayDone = false ∧ State.stopAsked onQuay = false ∧
      s.arrayReady 7 [3] = true ∧ ({ oneTile with dmaDone := false } : Tile).dmaDone = false ∧
      oneTile.dmaDone = true ∧ oneTile.controlPlaced = true ∧
      (let t : Tile := { oneTile with sources := [⟨0x2_0000, 1, 0⟩] }; let poisoned : State :=
          { s with mem := { s.mem with poison := [0x10_0000 / 128] } };
        let out : State := { s with mem := (outbound []).mem, hostif := (outbound []).hostif };
        s.sourceFault 0 (codeSource onQuay ++ tileSources oneTile) = none ∧ s.dueOf 0 (tileSources oneTile) = 0 ∧
        s.sourceCode 0 (tileSources oneTile) = none ∧ (s.sourceFault 0 (codeSource onQuay ++ tileSources t)).isSome = true ∧
        poisoned.sourceCode 0 (tileSources { oneTile with sources := [⟨0, 1, 0⟩] }) = some 0x4012 ∧
        out.sourceFault 0 (codeSource onQuay ++ tileSources t) = none ∧ out.dueOf 0 (tileSources t) ≠ 0 ∧
        onQuay.awaiting = false ∧ onQuay.sources ≠ tileSources t ∧
        (tileable { onQuay with awaiting := true }).quayOwner 7 = some { onQuay with awaiting := true }) ∧
      (∀ w ∈ oneTile.storeReads, w.ecc ≠ .uncorrectable) ∧
      (∃ w ∈ ({ oneTile with storeReads := [⟨7, 15, 6143, .uncorrectable⟩] } : Tile).storeReads, w.ecc = .uncorrectable) ∧
      s.stopCycle 7 0 { oneTile with reads := [holdRead 0 0, holdRead 0 0] } = none ∧
      s.stopCycle 7 0 { oneTile with reads := [holdRead 0 0, holdRead 1 1] } = some 1 ∧
      s.stopCycle 7 0 { oneTile with reads := [holdRead 0 0, { holdRead 0 0 with port := .weight }] } = some 0 ∧
      s.stopCycle 7 0 { oneTile with reads := [{ holdRead 9 0 with ecc := .uncorrectable }] } = some 9 ∧
      s.stopCycle 7 0 { oneTile with holdWrites := [⟨5, 3, 0, true, 0, 0, 0⟩, ⟨5, 3, 0, false, 0, 0, 0⟩] } = some 5) ∧
    ((tiling false 4097).endingTile 7 3 false = some (tileRun false 4097, onQuay, [3]) ∧
      (tiling true 1).endingTile 7 3 true = some (tileRun true 1, onQuay, [3]) ∧
      (tiling false 4098).endingTile 7 3 false = none ∧
      ({ tiling false 1 with ready := {} } : State).endingTile 7 3 true = none ∧
      (let s := tiling false 1; let r := tileRun false 1;
        let seen (n : Int) := s.seen 7 3 r.env false r.tile (faultsOn [3] [laneError 0 0 n]);
        s.seen 7 3 r.env false r.tile (faultsOn [3] []) = [] ∧ seen 1 ≠ [] ∧ seen 7 = [] ∧
        (drainSeen (seen 1)).isSome = true ∧ (s.berth 7 3).residue.valid = false ∧
        (tiling true 1).seen 7 3 r.env true r.tile (faultsOn [3] [laneError 0 0 1]) ≠ [])) := by
  decide +kernel

theorem witness_WatchdogsAndArbitersFailOneCommand :
    (let s := tiling false 4098;
      s.fwUp = true ∧ (s.berth 7 3).tile = some (tileRun false 4098) ∧ s.arrayAt 7 3 = some [3] ∧
      s.flight? 0 0 = some onQuay ∧ (tileRun false 4098).tile.stated + 4096 < (tileRun false 4098).tile.runs ∧
      (tileRun false 4097).tile.runs ≤ (tileRun false 4097).tile.stated + 4096) ∧
    (let s := (oneQuay false [onQuay]).updQuay 7 fun x => { x with pilotRunning := true };
      s.fwUp = true ∧ s.quayOwner 7 = some onQuay ∧ s.quays[(7 : QuayId)].pilotRunning = true ∧
      s.quays[(7 : QuayId)].resetting = false ∧ onQuay.run.arrayDone = false ∧ s.flight? 0 0 = some onQuay ∧
      (7 : QuayId) ∈ onQuay.run.quays ∧ onQuay.ended = false ∧ onQuay.phase ≠ .suspended) ∧
    (run.alive = true ∧ run.frozen = false ∧ run.env.heldFunctionReset = none) ∧
    (let s := { run with env := { run.env with heldFunctionReset := some (0, []) } };
      s.alive = true ∧ s.frozen = false ∧ s.env.heldFunctionReset ≠ none) := by decide +kernel

/-- The state of firmware in a state of FWIF_STATUS. -/
def firmware (st : FwState) (f : Fwif → Fwif) : State :=
  { run with ready := {}, fwif := f { state := st, feat := 0x7FF, drvVersion := 0x1_0000, drvFeat := 0x7FF } }

theorem witness_StageTwoLoadsAndNegotiates :
    (let s := firmware .wait id;
      s.answers = true ∧ s.fwif.state = .wait ∧ s.boot.stage2Pages ≠ 0 ∧
      s.inHostMemory (s.fwif.s2Addr.toNat / 0x1_0000 * 0x1_0000) (s.boot.stage2Pages * 4096) = true ∧
      ({ s with boot := { s.boot with stage2Pages := 0 } } : State).boot.stage2Pages = 0 ∧
      s.inHostMemory 0x7_FFFF_0000 (s.boot.stage2Pages * 4096) = false ∧
      ((0x7_FFFF_FFFF : BitVec 35).toNat / 0x1_0000 * 0x1_0000 = 0x7_FFFF_0000)) ∧
    (let s := firmware .loading id; s.answers = true ∧ s.fwif.state ≠ .wait ∧ s.fwUp = true ∧
      s.fwif.state = .loading ∧ s.fwif.negotiating = none ∧ s.fwif.state ≠ .loaded ∧ s.fwif.state ≠ .ready) ∧
    (run.fwUp = true ∧ 1 < run.boot.stage2Pages ∧ run.fwif.state = .ready) ∧
    ((busy []).answers = true ∧ (busy []).fwif.negotiating = none ∧ (busy []).fwif.state = .ready ∧
      (busy []).queues[(0 : QueueId)].en = true) ∧
    (let s := firmware .loaded id;
      s.answers = true ∧ s.fwif.negotiating = none ∧ s.fwif.state = .loaded ∧
      s.fwif.drvVersion.toNat / 0x1_0000 = 1 ∧ s.fwif.drvFeat.getLsbD 0 = true) ∧
    (let s := firmware .loaded fun f => { f with drvVersion := 0x2_0000 };
      s.answers = true ∧ s.fwif.negotiating = none ∧ s.fwif.state = .loaded ∧
      s.fwif.drvVersion.toNat / 0x1_0000 ≠ 1) ∧
    (let s := firmware .loaded fun f => { f with negotiating := some (0x1_0000, 0x7FF) };
      s.fwUp = true ∧ s.fwif.negotiating = some (0x1_0000, 0x7FF) ∧ s.ready.ready = false ∧
      ({ s with manifest := { s.manifest with held := true } } : State).manifest.held = true ∧ (∀ q : QueueId, s.queues[q].enHeld = false) ∧
      ({ s with ready := { ready := true } } : State).ready.ready = true) := by decide +kernel

/-- One page of stage 2 at address 0, with `tree` where its tree stands. -/
def paged (tree : List Byte) : State :=
  { firmware .loading id with
    boot := { run.boot with stage2Pages := 1, treeAt := 0x2_0000 }, mem := ({} : Memory).store 0x2_0000 tree }
/-- What the leaf over that page is. -/
def leaf : List Byte := treeLeaf 0 (({} : Memory).reads 0 4096)

theorem paged_good (tree : List Byte) (h : tree.length = 32) : (paged tree).pageGood 0 = decide (leaf = tree) := by
  have e : (paged tree).mem.reads 0 4096 = ({} : Memory).reads 0 4096 :=
    Memory.reads_store_other (by decide +kernel) (.inl (by decide))
  have r : (paged tree).mem.reads 0x2_0000 32 = tree := by
    rw [← h]; exact Memory.reads_store_self (by decide +kernel) 0x2_0000 tree
  exact congrArg₂ (fun (a b : List Byte) => decide (treeLeaf 0 a = b)) e r

theorem witness_StageTwoPagesMatchOrDiffer :
    (paged leaf).pageGood 0 = true ∧ (paged (leaf.map (· + 1))).pageGood 0 = false ∧
    (paged leaf).fwUp = true ∧ (paged leaf).fwif.state = .loading ∧ (paged leaf).boot.stage2Pages = 1 := by
  have l : leaf.length = 32 := length_treeLeaf _ _
  refine ⟨by rw [paged_good _ l]; simp, ?_, rfl, rfl, rfl⟩
  rw [paged_good _ (by simpa using l)]
  have ne : ∀ b : Byte, b ≠ b + 1 := by decide
  match leaf, l with
  | b :: bs, _ => exact decide_eq_false fun h => ne b (List.cons.inj h).1

/-- A request block of a kind and a length, its first operand byte `op`. -/
def requesting (kind len : Nat) (op : Byte) : State :=
  { run with
    secure := { ownerSet := true }
    mem := (({} : Memory).store 0x2000 (leBytes 4 0x5146_4A4F ++ leBytes 2 kind ++ leBytes 2 len)).store 0x2040 [op]
    fwif := { run.fwif with reqGo := true, reqTaken := 0x2000 } }

theorem witness_RequestsWorkAndEnd :
    (let s := requesting 1 128 1; s.reqOpen 1 = true ∧ s.dispatchInFlight = false) ∧
    (let s := { requesting 1 128 1 with flights := [flight dispatch] };
      s.reqOpen 1 = true ∧ s.dispatchInFlight = true) ∧
    (let s := { requesting 2 4096 0 with boot := { run.boot with released := some ⟨[], [], []⟩ } };
      s.reqOpen 2 = true ∧ s.vouched = true ∧ s.boot.released ≠ none) ∧
    (requesting 2 4096 0).boot.released = none ∧
    (let s := { requesting 2 4096 0 with boot := { run.boot with unvouched := true } };
      s.reqOpen 2 = true ∧ s.vouched = false) ∧
    (let s := requesting 3 8192 1; s.reqOpen 3 = true ∧ s.commissioned.isSome = true) ∧
    (let s := requesting 3 8192 2; s.reqOpen 3 = true ∧ s.commissioned = none) ∧
    (let s := requesting 4 0x88 0; s.reqOpen 4 = true ∧ s.memoryUp = true ∧ s.reqField 0x40 4 = 0) ∧
    (let s := { requesting 4 0x88 0 with fwif := { (requesting 4 0x88 0).fwif with reqWork := some 0 } };
      s.reqServed = true ∧ s.fwif.reqWork = some (0 : BitVec 16) ∧ s.reqPlaced 64 = true ∧ s.mem.wf ∧ (0 : BitVec 16) = 0) ∧
    (let s := requesting 5 64 0; s.reqServed = true ∧ s.fwif.reqWork.or s.reqRefusal = some 0xE005) ∧
    run.reqServed = false ∧
    (requesting 4 0x88 0).memtested [0] = [] ∧ (requesting 4 0x88 1).memtested [0] = [0] ∧
    ((requesting 4 0x88 1).reqField 0x40 4).testBit 0 = true := by decide +kernel

theorem witness_RingsBeginAndHeartbeatsAreJudged :
    (run.answers = true ∧ run.fwif.log.en = false ∧
      run.ringFits run.fwif.log.base.toNat run.fwif.log.log2.toNat 32 = true ∧ run.fwif.log.held = [] ∧
      run.fwif.log.lostBefore = false ∧ run.fwif.trace.en = false ∧ run.fwif.feat.getLsbD 10 = true ∧
      run.ringFits run.fwif.trace.base.toNat run.fwif.trace.log2.toNat 32 = true ∧ run.faults.active = false ∧
      run.ringFits run.faults.ring.base.toNat run.faults.ring.log2.toNat 32 = true ∧ run.faults.ring.held = [] ∧
      run.faults.ring.lostBefore = false ∧ run.lighthouse.pendingLossRecord = none) ∧
    (let s := firmware .ready fun f => { f with log := { base := 1 }, feat := 0x3FF };
      s.answers = true ∧ s.fwif.log.en = false ∧ s.ringFits s.fwif.log.base.toNat s.fwif.log.log2.toNat 32 = false ∧
      s.fwif.trace.en = false ∧ s.fwif.feat.getLsbD 10 = false) ∧
    (let s := firmware .ready fun f => { f with log := { en := true }, trace := { en := true, base := 1 } };
      s.answers = true ∧ s.fwif.log.en = true ∧ s.fwif.trace.en = true ∧ s.fwif.feat.getLsbD 10 = true ∧
      s.ringFits s.fwif.trace.base.toNat s.fwif.trace.log2.toNat 32 = false) ∧
    (({ run with faults := { run.faults with active := true } } : State).faults.active = true) ∧
    (let s := { run with faults := { run.faults with ring := { base := 1 } } };
      s.answers = true ∧ s.faults.active = false ∧
      s.ringFits s.faults.ring.base.toNat s.faults.ring.log2.toNat 32 = false) ∧
    (run.fwUp = true ∧ run.heart.started = false ∧ run.heart.window ≤ run.now.toNat / 250000 ∧
      run.heart.window = run.now.toNat / 250000 ∧ run.now.toNat < 2 ^ 63) ∧
    (({ run with heart := { run.heart with valid := true } } : State).heart.valid = true) ∧
    (let s := { run with heart := { run.heart with missed := 2 } };
      s.fwUp = true ∧ s.heart.window = s.now.toNat / 250000 ∧ s.heart.valid = false ∧ s.heart.missed = 2 ∧
      s.lighthouse.completedAt = none ∧ s.triggerTooSoon = false) ∧
    (let s := { run with heart := { run.heart with missed := 2 }, lighthouse := { completedAt := some 1000 } };
      s.triggerTooSoon = true ∧ s.env.heldFunctionReset = none) := by decide +kernel

/-- A re-launch at a step. -/
def relaunching (step : Nat) (hold : Bool) : State :=
  { run with ready := {}, lighthouse := { state := .relaunching, step, bootHoldError := hold } }

/-- BOOT_RUN_DIGEST is the digest of the running image plus a number. -/
def digested (s : State) (d : BitVec 512) : State :=
  { s with boot := { s.boot with runDigest := BitVec.ofNat 512 (leNat (shake256 s.runningImage 64)) + d } }

theorem digested_matches (s : State) (d : BitVec 512) : (digested s d).digestMatches [] = decide (d = 0) := by
  have e : ∀ l : List Byte,
      l.mapIdx (fun i b => ((([] : List (Nat × Byte)).find? fun e => e.1 = i).map (·.2)).getD b) = l := fun l => by
    simp [List.mapIdx_eq_ofFn]
  have h : ∀ x : BitVec 512, x = x + d ↔ d = 0 := fun x => ⟨fun k => by simpa using k.symm, fun k => by simp [k]⟩
  have i : (digested s d).runningImage = s.runningImage := rfl
  unfold State.digestMatches
  rw [i, e]
  exact decide_eq_decide.mpr (h _)

theorem witness_RelaunchRecoversOrLosesTheDevice :
    (run.env.heldFunctionReset = none ∧ run.env.heldDeviceReset = false ∧ run.env.suppliesUp = true ∧
      run.env.perstLow = false ∧ run.frozen = false ∧ run.lost = false ∧ run.running = true ∧
      run.triggerTooSoon = false ∧ ({ run with lighthouse := { completedAt := some 1000 } } : State).triggerTooSoon = true ∧
      up.lost = false ∧ (at_ { stage := .puf }).boot.stage ∈
        [Stage.puf, .bist, .training, .align, .windowOpen, .checking, .keys]) ∧
    ((relaunching 0 false).relaunchAt 0 = true ∧
      2 ≤ (List.finRange 3).countP (fun c => (5 : BitVec 3).getLsbD c.val) ∧
      (List.finRange 3).countP (fun c => (4 : BitVec 3).getLsbD c.val) < 2) ∧
    (let s := relaunching 1 false; (digested s 0).relaunchAt 1 = true ∧ (digested s 1).relaunchAt 1 = true ∧
      (digested s 0).lighthouse.bootHoldError = false ∧ (digested s 0).digestMatches [] = true ∧
      (digested s 1).digestMatches [] = false) ∧
    ((relaunching 1 true).relaunchAt 1 = true ∧ (relaunching 1 true).lighthouse.bootHoldError = true) ∧
    (relaunching 2 false).relaunchAt 2 = true ∧ run.lighthouse.state ≠ .relaunching :=
  ⟨by decide +kernel, by decide +kernel, ⟨rfl, rfl, rfl, by simp [digested_matches], by simp [digested_matches]⟩,
    by decide +kernel, by decide +kernel, by decide +kernel⟩

/-- A running device with faults waiting for repair. -/
def repairing (f : Faults → Faults) : State := { run with faults := f {} }

theorem witness_RepairsAreMadeAtQuietPoints :
    (let s := repairing fun f => { f with localising := [(7, 3, 63)] };
      s.fwUp = true ∧ (((7, 3, 63) : QuayId × BerthId × Fin 64) ∈ s.faults.localising) ∧ s.berthQuiet 7 3 = true) ∧
    (let s := repairing fun f => { f with pending := [(.column 7 3 15 15, 0x1001, 1000)] };
      s.fwUp = true ∧
      (s.faults.pending.find? fun p => p.1 = .column 7 3 15 15) = some (.column 7 3 15 15, 0x1001, 1000) ∧
      s.manifest.enable = false ∧ s.manifest.load = none ∧ s.locQuiet (.column 7 3 15 15) = true) ∧
    ((loading {}).fwUp = true ∧ (loading {}).manifest.enable = true ∧ (loading {}).manifest.load ≠ none) ∧
    (let s := { tiling false 1 with faults := { run.faults with pending := [(.column 7 3 15 15, 0x1001, 1000)] } };
      s.fwUp = true ∧
      (s.faults.pending.find? fun p => p.1 = .column 7 3 15 15) = some (.column 7 3 15 15, 0x1001, 1000) ∧
      s.locQuiet (.column 7 3 15 15) = false ∧ quayOf (.column 7 3 15 15) = some 7) ∧
    (let s := repairing fun f => { f with writing := true }; s.fwUp = true ∧ s.faults.writing = true) := by
  decide +kernel

theorem witness_EveryLineHasItsOwnPlace :
    2 ^ 35 - 1 < 2 ^ 35 ∧ locate defaultMasks (2 ^ 35 - 1) = locate defaultMasks (2 ^ 35 - 1) ∧
    (31 < 32 ∧ 8 ≤ 15 ∧ 15 < 16 ∧ 511 < 512) := by decide +kernel

/-- Unit 63 of the window has a user. -/
def locked (user : BitVec 4) : State :=
  { run with memhost := { run.memhost with lockUser := run.memhost.lockUser.set 63 user } }
/-- A line held in the Harbour cache. -/
def held128 (dirty : Bool) : CacheLine := { slice := 31, set := 511, way := 7, line := 1, dirty }
/-- Line 0, held dirty, good or bad. -/
def lineZero (bad : Bool) : CacheLine := { held128 true with slice := 0, set := 0, line := 0, bad }
/-- Queue 0's NOP, and the lines held. -/
def caching (ls : List CacheLine) : State := { busy [flight .nop] with mem := { tables with lines := ls } }

theorem witness_HarbourAccessesAndTheirErrors :
    (run.memoryUp = true ∧ run.part.memory - 1 < run.part.memory ∧
      lineOf (run.part.memory - 1) ∉ run.mem.poison ∧ run.mem.held (lineOf 0x1_0000) = none ∧
      run.wayLocked 8 (Machine.setOf 0x1_0000) = false ∧ (sliceOf 0x1_0000, 8, Machine.setOf 0x1_0000) ∉ run.harbour.disabled ∧
      run.reaches .pcie 0 true = true ∧ run.reaches .pcie 0 false = true ∧ run.reaches (.deck 0) 0 true = false ∧
      run.part.reserved ≤ run.part.memory - 1 ∧ (sliceOf 0, 7, Machine.setOf 0) ∈
        ({ run with harbour := { run.harbour with disabled := [(0, 7, 0)] } } : State).harbour.disabled) ∧
    (let s := { busy [flight .nop] with mem := { tables with poison := [0] } };
      s.memoryUp = true ∧ lineOf 0 ∈ s.mem.poison ∧ s.flight? 0 0 = some (flight .nop) ∧ (flight .nop).ended = false ∧
      s.reaches .harbourmaster 0 false = true) ∧
    ((caching [lineZero false]).mem.held (lineOf 127) = some (lineZero false) ∧ (lineZero false).bad = false ∧
      ([0] : List Byte).length ≠ 128 ∧ (caching [lineZero true]).mem.bad (lineOf 127) = true ∧
      (caching [lineZero true]).memoryUp = true ∧ (caching [lineZero true]).flight? 0 0 = some (flight .nop)) ∧
    (run.part.memory ≤ windowBase - 1 ∧ windowBase - 1 < windowBase ∧ windowBase + windowSize ≤ outboundBase - 1) ∧
    (let s := locked 4; let a := windowBase + 63 * 0x4_0000;
      s.memoryUp = true ∧ windowBase ≤ a ∧ a < windowBase + windowSize ∧
      s.unitOwner (a % windowSize / 0x4_0000) ≠ 0 ∧
      s.unitOwner (a % windowSize / 0x4_0000) = userCode (.pipe 3) ∧
      s.unitOwner (a % windowSize / 0x4_0000) ≠ userCode .pcie ∧ s.unitOwner (a % windowSize / 0x4_0000) ≠ 8 ∧
      s.wayLocked 8 511 = true ∧ Machine.setOf (511 * 2 ^ 12) = 511 ∧
      s.mem.held (lineOf (511 * 2 ^ 12)) = none) ∧
    (let s := { run with mem := { run.mem with lines := [held128 true] } };
      s.memoryUp = true ∧ s.wayLocked 7 511 = false ∧
      (s.mem.lines.find? fun x => x.slice == 31 && x.way == 7 && x.set == 511) = some (held128 true) ∧
      (held128 true).bad = false ∧ (lineZero true).bad = true ∧
      lineOf (windowBase + lockedOffset 31 8 511) ∉ (locked 4).mem.poison) := by
  decide +kernel

/-- A request to bank 0 of channel 0. -/
def request (agent : Agent) (write : Bool) : MemReq := { agent, addr := 0, write, command := none }
/-- A request that came in as long ago as said, the `k`-th of all. -/
def came (agent : Agent) (ago : Tick) (k : Nat) : Waiting := ⟨request agent false, run.now - ago, k⟩
/-- Channel 0 with requests and attempts, one of them perhaps tried again. -/
def channel (rs : List Waiting) (attempts : Nat) (retried : Option Nat) : State :=
  run.updChan 0 fun x => { x with requests := rs, attempts, retried }
/-- Phases of which the wires change what is said of the CRC of the data. -/
def phase (flips : BitVec 16) : DataPhase := ⟨0, 0, List.replicate 128 0, flips, .ok⟩

theorem phase_arrives (flips : BitVec 16) :
    run.phasesGood (request .pcie false) (phase flips) = decide (flips = 0) := by
  have crc : ∀ (sent zeros : List Byte) (d : BitVec 16), sent.zipWith (· ^^^ ·) zeros = sent →
      arrives sent zeros d = decide (d = 0) := fun sent zeros d e => by
    unfold arrives
    rw [e]
    exact decide_eq_decide.mpr ⟨fun k => by simpa using k.symm, fun k => by simp [k]⟩
  have a : (leBytes 6 (commandBits run.memctl.masks (request .pcie false)).toNat).zipWith (· ^^^ ·) (leBytes 6 0) =
      leBytes 6 (commandBits run.memctl.masks (request .pcie false)).toNat := by decide +kernel
  have b : (run.mem.reads (lineOf (request .pcie false).addr * 128) 128).zipWith (· ^^^ ·) (List.replicate 128 0) =
      run.mem.reads (lineOf (request .pcie false).addr * 128) 128 := by decide +kernel
  unfold State.phasesGood
  rw [show arrives _ (leBytes 6 (phase flips).command.toNat) (phase flips).commandCrc = _ from crc _ _ 0 a,
    show arrives _ (phase flips).intervals (phase flips).crc = _ from crc _ _ flips b]
  simp

theorem witness_RequestsAreServedInSourceOrder :
    (run.memoryUp = true ∧ run.part.memory - 1 < run.part.memory ∧ lineOf 0 ∉ run.mem.poison ∧ (phase 1).crc ≠ 0) ∧
    (run.phasesGood (request .pcie false) (phase 0) = true ∧ run.phasesGood (request .pcie false) (phase 1) = false) ∧
    (let rs := [came .pcie 249 0, came .decoder 0 1, came .pcie 0 2];
      ∀ k ∈ [0, 4], (channel rs k none).memoryUp = true ∧ (channel rs k none).memctl.chans[(0 : ChanId)].attempts = k ∧
      (channel rs k none).memctl.chans[(0 : ChanId)].requests[1]? = some (came .decoder 0 1) ∧
      (channel rs k none).servable 0 0 (came .pcie 249 0) = true ∧
      (channel rs k none).servable 0 1 (came .decoder 0 1) = true ∧
      (channel rs k none).servable 0 2 (came .pcie 0 2) = false ∧
      (channel rs k none).memctl.chans[(0 : ChanId)].requests[3]? = none ∧
      (channel rs k (some 2)).servable 0 2 (came .pcie 0 2) = true ∧
      (channel rs k (some 2)).servable 0 0 (came .pcie 249 0) = false) ∧
    (channel [came .pcie 250 0, came .decoder 0 1] 0 none).servable 0 1 (came .decoder 0 1) = false ∧
    ((channel [came .pcie 0 1] 0 none).updChan 31 ({ · with requests := [came .pcie 0 0] })).servable 0 0 (came .pcie 0 1) =
      false ∧
    (let s := { busy [flight .nop] with mem := { tables with poison := [0] } };
      s.memoryUp = true ∧ lineOf 0 ∈ s.mem.poison ∧ s.flight? 0 0 = some (flight .nop) ∧
      (flight .nop).ended = false) ∧
    ((run.updChan 0 ({ · with paused := true })).memctl.chans[(0 : ChanId)].paused = true) :=
  ⟨by decide +kernel, ⟨by simp [phase_arrives], by simp [phase_arrives]⟩, by decide +kernel⟩

theorem witness_RefreshAndTrainingKeepTheirTimes :
    (run.memoryUp = true ∧ run.memhost.hidden = false ∧ run.memctl.chans[(31 : ChanId)].paused = false ∧
      run.memctl.chans[(31 : ChanId)].retraining = false ∧ run.memctl.chans[(31 : ChanId)].refreshing = [] ∧
      run.now.toNat < 2 ^ 62 ∧ (∀ b : BankId, run.memctl.chans[(31 : ChanId)].windows[b].toNat < 2 ^ 62) ∧
      run.memctl.chans[(31 : ChanId)].retrainFrom < 2 ^ 63 ∧ run.env.heldFunctionReset = none ∧ run.env.heldDeviceReset = false ∧
      run.env.heldD3hot = false ∧ run.env.suppliesUp = true ∧ run.lost = false ∧ run.memctl.hot = false ∧
      (85 : Int) < 86 ∧ run.answers = true ∧ true ≠ run.memhost.strict) ∧
    (let s := run.updChan 31 fun x => { x with paused := true, failedPeriods := 2 };
      s.memoryUp = true ∧ s.memctl.chans[(31 : ChanId)].paused = true ∧
      s.memctl.chans[(31 : ChanId)].failedPeriods + 1 = 3 ∧ s.memctl.chans[(31 : ChanId)].retraining = false ∧
      s.memctl.chans[(31 : ChanId)].failedPeriods = 2) ∧
    (let s := run.updChan 31 fun x => { x with retraining := true };
      s.memoryUp = true ∧ s.memctl.chans[(31 : ChanId)].retraining = true) ∧
    (let s := run.updChan 31 fun x => { x with strict := [.uncorrectable] };
      s.memoryUp = true ∧ StrictCause.uncorrectable ∈ s.memctl.chans[(31 : ChanId)].strict) ∧
    (let s := { run with memctl := { run.memctl with hot := true } };
      s.env.suppliesUp = true ∧ s.lost = false ∧ s.memctl.hot = true ∧ (82 : Int) ≤ 82) ∧
    (∀ b ∈ (run.updChan 31 fun x => { x with refreshing := [3], windows := x.windows.set 3 1000 }).memctl.chans[
      (31 : ChanId)].refreshing, b ≠ (4 : BankId) → (1000 : Tick).toNat < 1000 + 33) := by decide +kernel

/-- A stream of 2-by-2 outputs from a source. -/
def fed (source : StreamSource) : StreamDef := { stream with source, outW := 2, outH := 2 }
/-- A frame in progress. -/
def frame (source : StreamSource) : Frame :=
  { start := 0, csiFrame := 0, defn := fed source, binding := none }
/-- Port 11 declared, stream 23 fed from its channel 3 or by the host, with a frame in progress or none. -/
def camera (source : StreamSource) (f : Option Frame) : State := { run with
  ports := run.ports.set 11 { run.ports[(11 : PortId)] with present := true, lossFrames := 2 }
  streams := run.streams.set 23 { run.streams[(23 : SctxId)] with defn := some (fed source), frame := f } }

/-- Stream 23 takes three exposures. -/
def threeExposures : StreamDef := { fed (.port 11 0) with exposures := 3 }
/-- Its frame with exposures 0 and 1 begun, `done` saying which have ended. -/
def exposed (done : List Bool) : Frame :=
  { frame (.port 11 0) with
    defn := threeExposures
    expo := .ofFn fun i => { begun := i.val < done.length, done := (done[i.val]?).getD false, lines := 16 } }

theorem witness_FramesEnterByThePorts :
    (let s := camera (.port 11 3) none;
      s.portListens 11 = true ∧ s.startsOn 11 3 = some (23, 0) ∧ s.startsOn 11 2 = none ∧ s.feeds 11 3 = none ∧
      s.definedAs 23 = some (fed (.port 11 3)) ∧ run.portListens 11 = false) ∧
    (let s := (camera (.port 11 3) none).updStream 23 fun x => { x with
        nextBinding := some (some { ctx := 0, flag := 1, count := 1, va := 0, stride := 0x1_1000, queue := 0 }) };
      let t := { s with blanks := s.blanks.set 23 { blank := true, pendingClear := true } };
      t.startsOn 11 3 = some (23, 0) ∧ (s.streams[(23 : SctxId)].nextBinding).isSome = true ∧
      t.blanks[(23 : SctxId)].blank = true ∧ t.blanks[(23 : SctxId)].pendingClear = true) ∧
    (let f := frame (.port 11 3); let s := camera (.port 11 3) (some f);
      s.portListens 11 = true ∧ s.feeds 11 3 = some (23, 0) ∧ (0x2A : Byte) ∈ imageTypes ∧
      (0x12 : Byte) ∉ imageTypes ∧ s.streams[(23 : SctxId)].frame = some f ∧ f.ended = false ∧
      ((0 : Fin 3).val + 1 = f.defn.exposures) ∧ (∀ k : Fin 3, k.val < f.defn.exposures → k = 0) ∧
      (23 : SctxId) ∉ s.branches 23 ∧ (23 : SctxId) ∈ s.streamsOfPort 11 ∧ (22 : SctxId) ∉ s.streamsOfPort 11) := by
  decide +kernel

theorem witness_FramesEnterByThePorts_exposures :
    (let of (done : List Bool) : State :=
        (camera (.port 11 0) (some (exposed done))).updStream 23 ({ · with defn := some threeExposures });
      (of [true]).startsOn 11 1 = some (23, 1) ∧ (of [true]).feeds 11 1 = some (23, 1) ∧
      ((of [true]).exposure 23 1).begun = false ∧ ((of [true, false]).exposure 23 1).begun = true ∧
      (of [true, true, false]).feeds 11 2 = some (23, 2) ∧ (2 : Fin 3).val + 1 = threeExposures.exposures ∧
      (∀ k : Fin 3, k.val < 3 → k ≠ 2 → ((exposed [true, true, false]).expo[k]).begun = true →
        ((exposed [true, true, false]).expo[k]).done = true) ∧
      (let k : Fin 3 := 1; k.val < 3 ∧ k ≠ 2 ∧ ((exposed [true, false, false]).expo[k]).begun = true ∧
        ((exposed [true, false, false]).expo[k]).done = false) ∧
      (1 : Fin 3).val + 1 ≠ threeExposures.exposures) ∧
    ((camera (.port 11 3) none).updStream 23 ({ · with defn := some threeExposures })).feeds 11 1 = none := by
  decide +kernel

theorem witness_PortsAreDeclaredAndLost :
    (let s := camera (.port 11 3) none;
      s.portListens 11 = true ∧ s.definedAs 23 = some (fed (.port 11 3)) ∧
      (fed (.port 11 3)).source = .port (11 : PortId).val 3 ∧
      s.ports[(11 : PortId)].lossCount + 1 < s.ports[(11 : PortId)].lossFrames.toNat ∧
      (s.updPort 11 fun x => { x with lossCount := 1 }).ports[(11 : PortId)].lossFrames.toNat ≤ 1 + 1 ∧
      s.answers = true ∧ s.fwif.feat.getLsbD 2 = true ∧ s.ports[(11 : PortId)].present = true ∧
      (23 : SctxId) ∈ s.streamsOfPort 11 ∧ s.alive = true ∧ run.portListens 11 = false ∧
      ({ s with fwif := { s.fwif with feat := 0x7FB } } : State).fwif.feat.getLsbD 2 = false ∧ up.answers = false) ∧
    (let f := frame (.port 11 3); let s := camera (.port 11 3) (some f);
      s.ports[(11 : PortId)].present = true ∧ (23 : SctxId) ∈ s.streamsOfPort 11 ∧
      s.streams[(23 : SctxId)].frame = some f ∧ f.ended = false) ∧
    (let v : Word := 0x2D04; let s := camera (.port 11 3) none;
      run.answers = true ∧ run.ports[(11 : PortId)].present = false ∧ v.getLsbD 0 = false ∧ v.toNat / 2 % 4 < 3 ∧
      v.toNat / 0x100 % 0x100 = 45 ∧
      payload ((run.manifest.device.map (·.streams)).getD []) 11 ≤ portCarries run.ports[(11 : PortId)] ∧
      s.ports[(11 : PortId)].present = true) ∧
    (let v : Word := 0x1F01; v.getLsbD 0 = true ∧ v.toNat / 0x100 % 0x100 = 31) ∧
    (let d := { fed (.port 11 3) with width := 8192, height := 8192, fps := 240, bits := 16 };
      let s := { run with manifest := { run.manifest with device := some (device [(23, d)] [] []) } };
      portCarries { s.ports[(11 : PortId)] with phy := false, rate := 1, lanes := 0 } <
        payload ((s.manifest.device.map (·.streams)).getD []) 11) := by decide +kernel

/-- A binding of context 0 in page 0. -/
def binding : Binding := { ctx := 0, flag := 1023, count := 1, va := 0, stride := 0x1_1000, queue := 0 }
/-- A frame that has ended. -/
def leaving (b : Option Binding) (torn : Byte) : State :=
  let c := camera .host (some { frame .host with ended := true, binding := b, torn })
  { busy [] with streams := c.streams }

theorem witness_FramesAreDeliveredOrDropped :
    ((leaving none 0).pipesUp = true ∧ (((leaving none 0).finishable 23).map (·.binding)) = some none) ∧
    (let s := leaving (some binding) 0;
      s.pipesUp = true ∧ ((s.finishable 23).map fun f => (f.binding, f.dropped, f.torn, f.index.isNone)) =
        some (some binding, false, 0, true) ∧
      s.captures 23 true = false ∧ s.ringFull 23 binding s.streams[(23 : SctxId)].frames = false ∧
      s.writesFault 0 (s.frameWrites 23 { frame .host with ended := true, binding := some binding } binding
        s.streams[(23 : SctxId)].frames) = none ∧
      (({ s with mem := {} } : State).writesFault 0 (s.frameWrites 23
        { frame .host with ended := true, binding := some binding } binding 0)).isSome = true ∧
      s.encodersOf 23 = [] ∧ s.streams[(23 : SctxId)].full = false) ∧
    (let s := leaving (some binding) 1;
      ((s.finishable 23).map fun f => (f.binding, f.torn)) = some (some binding, 1) ∧
      s.streams[(23 : SctxId)].deliverTorn = false) ∧
    (let s := (leaving (some binding) 0).updStream 23 fun x => { x with full := true, consumed := 0xFFFF_FFFF };
      s.ringFull 23 binding s.streams[(23 : SctxId)].frames = true ∧
      (s.streams[(23 : SctxId)].frames - s.streams[(23 : SctxId)].consumed).toNat = binding.count) ∧
    (let s := camera .host none;
      s.answers = true ∧ s.replaying = false ∧
      s.streams[(23 : SctxId)].feedBusy = false ∧ s.definedAs 23 = some (fed .host) ∧
      (fed .host).source = .host ∧ s.fwif.feat.getLsbD 2 = true ∧
      ({ s with fwif := { s.fwif with feat := 0x7FB } } : State).fwif.feat.getLsbD 2 = false ∧
      ({ s with blanks := s.blanks.set 23 { blank := true } } : State).blanks[(23 : SctxId)].blank = true) ∧
    (let s := (camera .host (some (frame .host))).updStream 23 fun x => { x with feedBusy := true };
      s.pipesUp = true ∧ s.streams[(23 : SctxId)].feedBusy = true ∧
      s.streams[(23 : SctxId)].frame = some (frame .host) ∧ (frame .host).ended = false ∧
      (23 : SctxId) ∉ s.branches 23 ∧ s.answers = true ∧
      (frame .host).blankFrom = none ∧ s.streams[(23 : SctxId)].unwritten = [] ∧
      (1 : BitVec 16).toNat < (frame .host).defn.outH) ∧
    (let s := (camera .host (some (frame .host))).updStream 23 fun x => { x with unwritten := [frame .host] };
      s.streams[(23 : SctxId)].unwritten = frame .host :: [] ∧ 0 < (frame .host).defn.outH) ∧
    (run.finishable 23 = none ∧ replay.answers = true ∧ replay.replaying = true ∧ up.answers = false ∧
      run.definedAs 23 = none ∧ run.streams[(23 : SctxId)].feedBusy = false) := by decide +kernel

/-- A sound descriptor: HEVC, 128 by 128, one frame a second, the smallest rings. -/
def descriptor : List Byte :=
  leBytes 4 0x5343_4A4F ++ [0, 0, 8, 10, 128, 0, 128, 0, 1, 0, 1, 0, 0, 0, 0, 0] ++ List.replicate 18 0 ++
    [16, 4] ++ leBytes 8 0x1_0000 ++ leBytes 8 0x2000 ++ leBytes 8 0x2_0000
/-- Session 31 with that descriptor at 0x1000, not enabled. -/
def described (rate : Byte) : State :=
  { run with
    mem := (({} : Memory).store 0x1000 descriptor).store 0x100C [rate]
    sessions := run.sessions.set 31 { run.sessions[(31 : SessId)] with descAddr := 0x1000 } }
/-- Its enabled state, in the middle of a frame or with one waiting. -/
def coding (queue : List SrcFrame) (now : Option SrcFrame) (dataHead : Word) : State :=
  let s := described 1
  s.updSession 31 fun x => { x with
    en := true, active := true, desc := some (s.readDesc 0x1000), queue, coding := now, dataHead }
/-- A source frame. -/
def source : SrcFrame := { tideSrc := 0, blankFrom := none, torn := false, buffer := 0 }

theorem witness_SessionsCodeFrames :
    (let s := described 1; let d := s.readDesc 0x1000;
      s.answers = true ∧ s.sessions[(31 : SessId)].en = false ∧
      s.fwif.feat.getLsbD 6 = true ∧ s.sessions[(31 : SessId)].descAddr.toNat / 64 * 64 = 0x1000 ∧
      (s.descBytesOk 0x1000 && State.formatOk d && State.modeOk d && s.areasOk d && s.streamOk d) = true ∧
      s.capacityOk d = true) ∧
    (let s := described 0; let d := s.readDesc 0x1000;
      (s.descBytesOk 0x1000 && State.formatOk d && State.modeOk d && s.areasOk d && s.streamOk d) = false) ∧
    (({ described 1 with fwif := { run.fwif with feat := 0x7BF } } : State).fwif.feat.getLsbD 6 = false) ∧
    (let d := (described 1).readDesc 0x1000; let s := coding [source] none 0;
      s.answers = true ∧ s.sessions[(31 : SessId)].en = true ∧
      s.sessions[(31 : SessId)].active = true ∧ s.replaying = false ∧ s.capturing = false ∧
      s.sessions[(31 : SessId)].desc = some d ∧ s.sessions[(31 : SessId)].feedBusy = false ∧ d.source ≠ 1 ∧
      d.unit ≠ 2 ∧ s.serves 31 = some d ∧ s.unitBusy d.unit = false ∧ s.sessions[(31 : SessId)].coding = none ∧
      s.sessions[(31 : SessId)].queue = source :: []) ∧
    (let d := { (described 1).readDesc 0x1000 with rc := 3, target := 0 };
      let s := (coding [] (some source) 0).updSession 31 ({ · with desc := some d });
      let c := if s.skipsFrame 31 d source then Config.codecSkip d [] 0 else s.chunkOf 31 d source 0;
      let bytes := chunkData d [] (chunkBytes d c false 0) 0;
      s.serves 31 = some d ∧ d.unit ≠ 2 ∧ s.sessions[(31 : SessId)].coding = some source ∧
      bytes.length ≤ 2 ^ d.dataLog2 - (BitVec.ofNat 32 (chunkOffset d 0 bytes.length) -
        s.sessions[(31 : SessId)].dataHead).toNat ∧ State.recordsFree s.sessions[(31 : SessId)] ≠ 0 ∧
      lastChunk d 0 = true ∧ lastChunk { d with lowlat := true, sliceRows := 1 } 0 = false ∧
      s.sessions[(31 : SessId)].written ≤ 1500 * d.target * d.fpsDen / (8 * d.fpsNum)) ∧
    (let s := (coding [] (some source) 0).updSession 31 ({ · with recTail := 16 });
      s.sessions[(31 : SessId)].coding = some source ∧ State.recordsFree s.sessions[(31 : SessId)] = 0) ∧
    (let d := { (described 1).readDesc 0x1000 with unit := 2 };
      let of (queue : List SrcFrame) (now : Option SrcFrame) (skip : Bool) : State :=
        (coding queue now 0).updSession 31 ({ · with desc := some d, skipToAccess := skip });
      let s := of [source] none false;
      s.serves 31 = some d ∧ s.unitBusy 2 = false ∧ s.sessions[(31 : SessId)].coding = none ∧
      s.sessions[(31 : SessId)].queue = source :: [] ∧
      (s.sessions[(31 : SessId)].recTail - s.sessions[(31 : SessId)].recHead).toNat < 2 ^ d.dataLog2 ∧
      State.recordsFree s.sessions[(31 : SessId)] ≠ 0 ∧ (of [source] none true).sessions[(31 : SessId)].skipToAccess = true ∧
      s.sessions[(31 : SessId)].full d = false ∧
      (s.updSession 31 ({ · with recTail := BitVec.ofNat 32 (2 ^ d.dataLog2) })).sessions[(31 : SessId)].full d = true ∧
      (of [] (some source) false).serves 31 = some d ∧ (of [] (some source) false).sessions[(31 : SessId)].coding = some source) ∧
    (let s := (coding [] none 0).updSession 31 fun x => { x with feedBusy := true };
      s.sessions[(31 : SessId)].feedBusy = true ∧ s.sessions[(31 : SessId)].desc.isSome = true ∧ s.pipesUp = true ∧
      s.answers = true ∧ s.replaying = false ∧ s.sessions[(31 : SessId)].active = true) ∧
    (run.serves 31 = none ∧ run.sessions[(31 : SessId)].active = false ∧ up.answers = false ∧ replay.replaying = true) := by
  decide +kernel

/-- A device in record mode or in replay, the host `room` units ahead, with the log's first entry in memory. -/
def logged (mode : Bool) (room : Word) (bytes : List Byte) (r : Recorder → Recorder) : State :=
  { run with
    mem := ({} : Memory).store 0x10_0000 bytes
    recorder := r { en := true, active := true, mode, base := 0x10_0000, hostIndex := room } }
/-- An END entry of length `n`. -/
def endEntry (kind n : Nat) : List Byte := leBytes 4 kind ++ leBytes 4 n

theorem witness_RecordingAndReplayAdvance :
    (run.answers = true ∧ run.recorder.en = false ∧ (1 : Word).getLsbD 4 = false ∧
      run.fwif.feat.getLsbD 4 = true ∧
      run.ringFits run.recorder.base.toNat run.recorder.sizeLog2.toNat 1 = true ∧
      run.ringFits (1 : BitVec 35).toNat run.recorder.sizeLog2.toNat 1 = false ∧
      ({ run with fwif := { run.fwif with feat := 0x7EF } } : State).fwif.feat.getLsbD 4 = false) ∧
    (let s := logged false 0 [] fun r => { r with checkpoint := true };
      s.answers = true ∧ s.recorder.en = true ∧ s.recorder.mode = false ∧ s.fwUp = true ∧ s.capturing = true ∧
      s.recorder.checkpoint = true ∧ s.adaptiveBusy = false) ∧
    (let s := logged true 0 [] id;
      s.answers = true ∧ s.recorder.mode = true ∧ s.fwUp = true ∧ s.applying = true ∧ s.env.power = .d0 ∧
      (s.recorder.hostIndex - s.recorder.devIndex).toNat = 0) ∧
    (let s := logged true 1 (endEntry 0x11 63) id; let e := s.logEntry 0;
      s.applying = true ∧ (s.recorder.hostIndex - s.recorder.devIndex).toNat ≠ 0 ∧
      e.length % 64 ≠ 0 ∧ e.length < 64) ∧
    (let s := logged true 1 (endEntry 0x0F 64) id; let e := s.logEntry s.recorder.devIndex.toNat;
      s.applying = true ∧ 64 ≤ e.length ∧ e.length % 64 = 0 ∧
      e.length / 64 ≤ (s.recorder.hostIndex - s.recorder.devIndex).toNat ∧
      s.recorder.devIndex.toNat % s.recUnits + e.length / 64 ≤ s.recUnits ∧
      s.entryOk e (s.replayUnit s.recorder.devIndex.toNat) = true ∧ e.kind ≠ 0x10 ∧
      (s.recorder.seqSet = true → e.seq = s.recorder.seq) ∧
      (s.applyEntry s.recorder.devIndex.toNat e).map (·.recorder.stopped) = some false) ∧
    (let s := logged true 1 (endEntry 0x0F 64) fun r => { r with seqSet := true, seq := 1 };
      s.recorder.seqSet = true ∧ (s.logEntry 0).seq ≠ s.recorder.seq) ∧
    (let s := logged true 1 (endEntry 0x0F 128) id; let e := s.logEntry 0;
      64 ≤ e.length ∧ e.length % 64 = 0 ∧ 0 % s.recUnits + e.length / 64 ≤ s.recUnits ∧
      (s.recorder.hostIndex - s.recorder.devIndex).toNat ≠ 0 ∧
      (s.recorder.hostIndex - s.recorder.devIndex).toNat < e.length / 64) ∧
    (let s := { logged true 1 (endEntry 0x0D 64) id with manifest := { run.manifest with enable := true } };
      let e := s.logEntry 0;
      e.kind = 0x0D ∧ s.entryOk e (s.replayUnit 0) = true ∧ (s.applyEntry 0 e).isNone = true) ∧
    (let s := { logged true 2 (endEntry 0x04 128 ++ List.replicate 16 0 ++ [23, 1]) fun r => { r with sctx := 0xFFFFFF } with
        streams := (leaving (some binding) 0).streams.set 23
          { (leaving (some binding) 0).streams[(23 : SctxId)] with binding := some binding } };
      let e := s.logEntry 0;
      e.kind = 0x04 ∧ s.replaysStream 23 = true ∧ s.quietFor = true ∧ s.entryOk e (s.replayUnit 0) = true ∧
      (s.applyEntry 0 e).map (·.recorder.stopped) = some true ∧
      ({ s with flights := [flight .nop] } : State).quietFor = false ∧ run.replaysStream 23 = false) ∧
    (∀ k ∈ [0x02, 0x05, 0x09, 0x0A, 0x0B, 0x11], (logged true 1 (endEntry k 64) id |>.logEntry 0).kind = k) ∧
    (let s := busy ((List.range 64).map fun i => { flight .nop with idx := BitVec.ofNat 32 i });
      64 ≤ s.inFlight 0 ∧ s.queues[(0 : QueueId)].active = true ∧ s.queues[(0 : QueueId)].stopped = false) := by
  decide +kernel
/-- The power controller with a state of AVSBus and stretched islands. -/
def bus (avs : Avs) (stretched : List Island) : State := { run with env := { run.env with avs, stretched } }

theorem witness_PowerFollowsBudgetAndRail :
    (run.powered = true ∧ run.lost = false ∧ run.frozen = false ∧ State.reset.powered = false) ∧
    (([] : List Nat) ≠ [15000] ∧ 8 ≤ 8 ∧ 64 ≤ 64 ∧ 15000 * 1 < [15001].sum ∧ [15000].sum ≤ 15000 * 1 ∧
      95 * (15000 * 1) ≤ 100 * [14250].sum ∧ 100 * [14249].sum < 95 * (15000 * 1)) ∧
    (run.hasIsland .lighthouse = true ∧ run.hasIsland (.berth 7 3) = true ∧
      ({ run with part := .ojq6_16a } : State).hasIsland (.quay 7) = false) ∧
    (let s := bus { queue := [(.voltageWrite 550, 0), (.status, 2)] } [.hostIf];
      s.powered = true ∧ s.env.avs.sent = false ∧ s.env.avs.queue = [(.voltageWrite 550, 0)] ++ (.status, 2) :: [] ∧
      (∀ x ∈ [((.voltageWrite 550, 0) : AvsCmd × Nat)], s.avsMayGo x.1 = false) ∧ s.avsMayGo .status = true ∧
      (∀ mv, AvsCmd.status ≠ .voltageWrite mv) ∧ (bus {} []).avsMayGo (.voltageWrite 550) = true ∧
      (bus { sent := true } []).env.avs.sent = true) ∧
    (run.env.avs.queue = [] ∧ run.env.avs.sent = false ∧ run.env.avs.stopped = false ∧ 550 % 5 = 0 ∧ 800 % 5 = 0 ∧
      run.env.stretched = [] ∧ (bus { stopped := true } []).env.avs.stopped = true ∧
      (bus { polled := some 1000 } []).env.avs.polled = some 1000 ∧ run.tide.locked = true) ∧
    (∀ r ∈ [1, 2], let s := bus { queue := [(.voltageWrite 550, r), (.status, 0)], sent := true } [];
      s.env.suppliesUp = true ∧ s.env.avs.sent = true ∧ s.env.avs.queue = (.voltageWrite 550, r) :: [(.status, 0)] ∧
      AvsAnswer.none ≠ .ack ∧ AvsCmd.voltageWrite 550 ≠ .voltageRead) ∧
    (∀ stretched ∈ [[], [Island.hostIf]], let s := bus { queue := [(.voltageRead, 0)], sent := true } stretched;
      s.env.avs.queue = (.voltageRead, 0) :: [] ∧ s.env.avs.sent = true ∧ s.env.stretched = stretched ∧
      s.env.avs.setpoint = 750 ∧ 3 * 750 < 100 * (773 - 750) ∧
      ¬3 * 750 < 100 * (772 - 750) ∧ 3 * 750 < 100 * (750 - 727) ∧ ¬3 * 750 < 100 * (750 - 728)) := by
  refine ⟨by decide +kernel, by decide +kernel, by decide +kernel, ⟨by decide +kernel, by decide +kernel,
    by decide +kernel, by decide +kernel, by decide +kernel, fun mv => by simp, by decide +kernel, by decide +kernel⟩,
    by decide +kernel, by decide +kernel, by decide +kernel⟩

/-- A shedding step with a sag established or returning. -/
def shedding (step : Nat) (returning : Bool) : State :=
  { run with power := { run.power with step, returning, sagCore := !returning, sagIo := false } }

theorem witness_SheddingStepsUpAndReturns :
    (run.powered = true ∧ run.lost = false ∧ run.running = true ∧ run.power.step = 0 ∧ run.frozen = false ∧
      run.env.heldFunctionReset = none ∧ run.env.heldDeviceReset = false ∧ run.env.avs.setpoint = 750 ∧
      100 * 704 < 94 * 750 ∧ ¬100 * 705 < 94 * 750 ∧ 100 * 674 < 90 * 750 ∧ ¬100 * 675 < 90 * 750 ∧
      96 * 750 < 100 * 721 ∧ ¬96 * 750 < 100 * 720 ∧ up.running = false) ∧
    (∀ k ∈ [1, 5], (shedding k false).powered = true ∧ (shedding k false).lost = false ∧
      (shedding k false).running = true ∧ (shedding k false).power.sagCore = true ∧
      (shedding k false).power.returning = false ∧ 1 ≤ (shedding k false).power.step ∧
      (shedding k false).power.step ≤ 5 ∧ (shedding k true).powered = true ∧
      (shedding k true).power.returning = true ∧ 1 ≤ (shedding k true).power.step ∧
      (shedding k true).power.step ≤ 5) ∧
    ((shedding 6 false).lost = false ∧ (shedding 6 false).frozen = true ∧ (shedding 6 false).running = true ∧
      (shedding 6 false).power.step = 6 ∧ (shedding 6 false).power.sagCore = true ∧
      ({ shedding 6 false with boot := { stage := .halted } } : State).running = false ∧
      (shedding 5 true).power.sagCore = false) ∧
    (let s := { shedding 3 true with power := { (shedding 3 true).power with sagIo := true } };
      s.power.step ≠ 0 ∧ s.power.returning = true ∧ s.lost = false ∧ s.running = true) ∧
    ((if run.part = .ojq8_32i then 115 else 110 : Int) ≤ 110 ∧
      (109 : Int) < (if run.part = .ojq8_32i then 115 else 110)) := by decide +kernel

/-- A report of a severity. -/
def event (severity : Severity) : Event := { reason := 0x4012, severity }
/-- A ring of 256 entries, full or empty. -/
def ring (full : Bool) : Ring := { en := true, base := 0x10_0000, tail := if full then 256 else 0 }

theorem witness_ReportsReachTheirRings :
    (({ run with lighthouse := { state := .lost } } : State).lost = true) ∧
    (let s := { run with power := { run.power with step := 6 } }; s.lost = false ∧ s.frozen = true) ∧
    (run.frozen = false ∧ run.lost = false ∧ (event .information).severity = .information ∧ run.fwif.log.en = false ∧
      run.fwif.log.held.length < 256 ∧ run.mem.wf ∧ run.fwif.logMinsev = 0) ∧
    (256 ≤ ({ held := List.replicate 256 (event .information) } : Ring).held.length) ∧
    ((ring true).en = true ∧ (ring true).full = true ∧ (ring false).full = false) ∧
    ((event .corrected).severity ≠ .information ∧ run.faults.active = false ∧
      run.faults.ring.held.length < 64) ∧
    (∀ full : Bool, let s := { run with faults := { run.faults with active := true, ring := { ring full with log2 := 8 } } };
      s.faults.active = true ∧ s.faults.ring.full = full) := by decide +kernel

theorem witness_ReductionsAreExact :
    ElemType.i8 ∈ [ElemType.i8, .u8, .i4, .u4] ∧
    (ElemType.u16.isInt = true ∧ LaneMode.maxPlus ∈ [LaneMode.mac, .l1, .l2, .ham, .minPlus, .maxPlus] ∧
      ([(1, some 2), (3, none)] : List Tap).Perm [(3, none), (1, some 2)]) ∧
    (((5, 1) : Int × Nat).1 = ((5, 2) : Int × Nat).1 ∧ 1 < 2 ∧ ((4, 1) : Int × Nat).1 ≠ ((5, 1) : Int × Nat).1) := by
  decide +kernel

theorem witness_QuantisedCodesAndExponentsKeepTheirLimits :
    (oneOut.type.isInt = true ∧ (rescale 1 0 0).lo ≤ (rescale 1 0 0).zout ∧
      (rescale 1 0 0).zout ≤ (rescale 1 0 0).hi) ∧
    ((fun _ => 2 ^ 24 - 1 : Nat → Nat) (min 64 24) < 2 ^ min 64 24) ∧
    (let x : AdaptState := ⟨0, 15, -16, 15, false, 1, 0, 0, 0⟩; let c : AdaptCount := ⟨0, 1, 0, 65536, 0⟩;
      x.expMin ≤ x.exp ∧ x.exp ≤ x.expMax ∧ x.freeze = false ∧ x.thresh * c.outputs < c.saturated * 65536 ∧
      ({ x with freeze := true } : AdaptState).freeze = true) := by decide +kernel

theorem witness_RoundingModesFollowTheirTable :
    ((2 : BitVec 2) ≠ 3 ∧ (fun _ => 0 : Nat → Nat) 0 = 0) ∧
    (oneOut.type.isInt = true ∧ oneOut.mask = none ∧
      rescaleInput (rescale 1 0 3) 0 (.int (-3)) = .fin true 3 0 ∧ (rescale 1 0 3).rmode = 3 ∧
      (rescale 1 0 2).rmode ≠ 3) := by decide +kernel

/-! ## The manual's worked examples -/

/-- R333: address 0x1_2345_6780 lies in channel 12, bank 2, column 5, row 9320, byte 0. -/
theorem test_place : locate defaultMasks 0x1_2345_6780 =
    { channel := 12, bank := 2, column := 5, row := 9320, byte := 0 } := by decide +kernel
/-- R333: a stride of 512 KiB spreads over channels 0 to 3. -/
theorem test_stride : ([0, 0x8_0000, 0x10_0000, 0x18_0000].map fun a => (locate defaultMasks a).channel) =
    [0, 1, 2, 3] := by decide +kernel
/-- R191: the leaf sums 2²⁴, 1, 1, −2²⁴ and 0.5 give 1.5. -/
theorem test_canon_tree : treeSum addRne zero32 5
    [0x4B80_0000, 0x3F80_0000, 0x3F80_0000, 0xCB80_0000, 0x3F00_0000] = 0x3FC0_0000 := by decide +kernel
/-- R206: activations (5, 0x7F, −3) against (10, 2, 20) give min(15, +∞, 17) = 15. -/
theorem test_min_plus : (reduce .minPlus .i8 .i8 0 none [(5, some 10), (0x7F, some 2), (-3, some 20)]).v =
    .int 15 := by decide +kernel
/-- Chapter 09: x = −100 and w = 120 add 220 in L1 and 48,400 in L2; 0xB2 and 0x96 add 2 in HAM. -/
theorem test_distances : (reduce .l1 .i8 .u8 0 none [(-100, some 120)]).v = .int 220 ∧
    (reduce .l2 .i8 .u8 0 none [(-100, some 120)]).v = .int 48400 ∧
    (reduce .ham .u8 .u8 0 none [(0xB2, some 0x96)]).v = .int 2 := by decide +kernel
/-- R287: three values of 3,001 have mean 3,001 and variance 1 in G1 mode, variance 0 in native mode. -/
theorem test_row_statistics : (g1Stats 0x3EAA_AAAB (List.replicate 3 0x453B_9000)).1 = 0x453B_9000 ∧
    (g1Stats 0x3EAA_AAAB (List.replicate 3 0x453B_9000)).2.1 = 0x3F80_0000 ∧
    nativeStats (List.replicate 3 0x453B_9000) = (0x453B_9000, 0) := by decide +kernel
/-- Chapter 13: the traced round. -/
theorem test_swell_round : swellRound 0 0 (1, 0, 0, 0) =
    (0x4020_8201, 0x0100_8208, 0x0100_0208, 0x0400_0001) := by decide +kernel
/-- Chapter 11's example: v = 670 with its factor gives code 8 under modes 0 to 2. -/
theorem test_quantiser : ([0, 1, 2] : List (BitVec 2)).all (fun mode =>
    (quantise ({ seed := 0, stream := 0, exps := [], g1 := false } : TileEnv) oneOut 0
    ⟨1374389535, 7, 5, -128, 127, 630, 2, mode⟩ 34 (.int 108)).code = 8) = true
    := by decide +kernel
/-- Chapter 11: the stochastic draw decides between 3 and 4 at 10,905,191. -/
theorem test_stochastic : roundStochastic false 920840988450 0 38 (fun _ => 10905190) = 3 ∧
    roundStochastic false 920840988450 0 38 (fun _ => 10905191) = 4 ∧
    roundStochastic false 920840988450 0 38 (fun _ => 0xC0_0000) = 4 := by decide +kernel

/-- The part of R77's table: mode VK, BOOT_MINVER 41, an owner key registered. -/
def vk : Secure := { v := true, k := true, minver := 41, ownerSet := true }
/-- A slot of a version that the owner signed, its signature good or damaged. -/
def judged (version : Word) (good : Bool) : Slot := 
  judgeSlot vk (.eligible { header version with signer := 1 }) (crypto good)
/-- A slot that is absent or malformed. -/
def unfit (p : SlotParse) : Slot := judgeSlot vk p (crypto true)
/-- R77's table, cases 1 to 6. -/
theorem test_selection :
    selectSlot (judged 42 true) (judged 43 true) = some (true, true) ∧
    selectSlot (judged 42 true) (judged 43 false) = some (false, true) ∧ (judged 43 false).reason = 0x7005 ∧
    selectSlot (judged 40 true) (judged 40 true) = some (false, false) ∧ (judged 40 true).reason = 0x7006 ∧
    selectSlot (judged 39 false) (judged 40 true) = some (true, false) ∧ (judged 39 false).reason = 0x7005 ∧
    selectSlot (judged 43 true) (unfit .absent) = some (false, true) ∧
    selectSlot (unfit .malformed) (unfit .absent) = none ∧ (unfit .malformed).reason = 0x7002 := by decide +kernel

/-! ## Single steps -/

/-- R120: IDENT_STEPPING, IDENT_BID's family and IDENT_JTAGID's version. -/
theorem test_ident : (run.readReg 4).toNat = 0xB0 ∧ (run.readReg 8).toNat / 2 ^ 24 = 0x0B ∧
    (run.readReg 0xC).toNat / 2 ^ 28 = 1 := by decide +kernel
/-- R93: after reset no register answers. -/
theorem test_reset_silent : State.reset.readReg 0 = 0 ∧ State.reset.env.perstLow = true := by decide +kernel
/-- R149: FLAG_ADD wraps. -/
theorem test_flag_add_wraps : ∃ t,
    exec (.flagAdd 0 0) { busy [flight (.flagAdd 5 2)] with flags := State.reset.flags.set 5 0xFFFF_FFFF } =
      .next t ∧ t.flag 5 = 1 := ⟨_, rfl, by decide +kernel⟩
/-- R150: the compare of FLAG_WAIT is unsigned. -/
theorem test_flag_wait_unsigned : flagTrue 3 0x8000_0000 1 = true ∧ flagTrue 4 0x8000_0000 1 = false := by
  decide +kernel
/-- R151, R152: the first record has PHASE 1, STATUS DONE and moves CTAIL. -/
theorem test_nop_record : ∃ t, exec (.nop 0 0) (busy [flight .nop]) = .next t ∧
    t.mem.field 0x6000 4 = 0x8001_0000 ∧ t.queues[(0 : QueueId)].ctail = 1 ∧ t.flights = [] :=
  ⟨_, rfl, by decide +kernel⟩
/-- R138: COPY ends with its bytes at their destination. -/
theorem test_copy : ∃ t, exec (.copyDone 0 0)
    { busy [copyRuns (.copy 0 0x1_0000 2)] with mem := tables.store 0x10_0000 [7, 8, 9] } = .next t ∧
    t.mem.reads 0x11_0000 3 = [7, 8, 0] := ⟨_, rfl, by decide +kernel⟩
/-- R126: BAR2 writes land at the window base. -/
theorem test_bar2 : ∃ t, exec (.bar2Write 4 [1, 2] false) run = .next t ∧ t.mem.reads 3 4 = [0, 1, 2, 0] :=
  ⟨_, rfl, by decide +kernel⟩
/-- R474: the issue fraction stays between 8 and 64. -/
theorem test_fraction : nextFraction 8 15000 [15001] = 8 ∧ nextFraction 64 15000 [0] = 64 ∧
    nextFraction 64 15000 [15001] = 63 := by decide +kernel
/-- R48: a reading 3 % off the setpoint passes, one beyond it stops the bus. -/
theorem test_avs_reading : (∃ t, exec (.avsResponse (.voltage 772)) (bus { queue := [(.voltageRead, 0)], sent := true } []) = .next t ∧
    t.env.avs.stopped = false) ∧
    ∃ t, exec (.avsResponse (.voltage 773)) (bus { queue := [(.voltageRead, 0)], sent := true } []) = .next t ∧
      t.env.avs.stopped = true := ⟨⟨_, rfl, by decide +kernel⟩, _, rfl, by decide +kernel⟩
/-- FIPS 202: SHAKE256 of the empty message begins 46 B9 DD 2B 0B A8 8D 13. -/
theorem test_shake_empty : shake256 [] 8 = [0x46, 0xB9, 0xDD, 0x2B, 0x0B, 0xA8, 0x8D, 0x13] := by decide +kernel
/-- R279: exp2 at the seam 2.5 and just below it, and rsqrt at 8.0, in G1 mode. -/
theorem test_g1_seams : ([0x401F_FFFF, 0x4020_0000].map (sfuEval true .exp2)) = [0x40B5_04F3, 0x40B5_04F2] ∧
    ([0x40FF_FFFF, 0x4100_0000].map (sfuEval true .rsqrt)) = [0x3EB5_04F3, 0x3EB5_04F4] := by decide +kernel

end Sys2Proof.Tests
end

section
/-! The four tests of an eligible slot (R73), each as a `Bool` with what it says, and REASON as a function of their
results. -/

namespace Sys2Proof.Machine

/-- Test 1 of R73: the rollback record and the item of BOOT_MINVER were both read intact. -/
def slotIntact (st : Secure) : Bool := !st.lost .rollback && !st.lost .minver

/-- Test 3 of R73: the key is accepted and the signature holds. -/
def slotSigned (st : Secure) (h : ImageHeader) (c : Signed) : Bool :=
  keyAccepted st h.signer c.keyDigest && c.sigHolds

/-- Test 4 of R73: under V, the version is no older than BOOT_MINVER. -/
def slotRecent (st : Secure) (h : ImageHeader) : Bool := !st.v || st.minver.toNat ≤ h.version.toNat

/-- The code of the first test of R73 that fails, zero when none does. -/
def firstFailure (intact permitted signed recent : Bool) : BitVec 16 :=
  if !intact then 0x700C
  else if !permitted then 0x7007
  else if !signed then 0x7005
  else if !recent then 0x7006
  else 0

theorem judgeSlot_eligible (st : Secure) (h : ImageHeader) (c : Signed) :
    let reason := firstFailure (slotIntact st) (signerPermitted st h.signer) (slotSigned st h c) (slotRecent st h)
    judgeSlot st (.eligible h) c =
      { state := 0b11, reason, passed := reason = 0, sigOk := slotSigned st h c, versionOk := slotRecent st h
        signer := h.signer, version := h.version, digest := c.digest } := rfl

theorem slotIntact_iff {st : Secure} :
    slotIntact st = true ↔ st.lost .rollback = false ∧ st.lost .minver = false := by
  simp [slotIntact]

theorem signerPermitted_iff {st : Secure} {signer : Byte} :
    signerPermitted st signer = true ↔
      (signer = 1 → st.ownerSet = true) ∧ (st.ownerOnly = true → signer = 1) := by
  cases ho : st.ownerOnly with
  | false => simp [signerPermitted, ho, imp_iff_not_or]
  | true => simp [signerPermitted, ho, imp_iff_not_or]

theorem slotSigned_iff {st : Secure} {h : ImageHeader} {c : Signed} :
    slotSigned st h c = true ↔ keyAccepted st h.signer c.keyDigest = true ∧ c.sigHolds = true :=
  Bool.and_eq_true_iff

theorem slotRecent_iff {st : Secure} {h : ImageHeader} :
    slotRecent st h = true ↔ (st.v = true → st.minver.toNat ≤ h.version.toNat) := by
  cases hv : st.v with
  | false => simp [slotRecent, hv]
  | true => simp [slotRecent, hv]

section
variable {intact permitted signed recent : Bool}

theorem firstFailure_of_not_intact (hi : ¬intact = true) :
    firstFailure intact permitted signed recent = 0x700C := by
  simp [firstFailure, hi]

theorem firstFailure_of_not_permitted (hi : intact = true) (hp : ¬permitted = true) :
    firstFailure intact permitted signed recent = 0x7007 := by
  simp [firstFailure, hi, hp]

theorem firstFailure_of_not_signed (hi : intact = true) (hp : permitted = true) (hs : ¬signed = true) :
    firstFailure intact permitted signed recent = 0x7005 := by
  simp [firstFailure, hi, hp, hs]

theorem firstFailure_of_not_recent (hi : intact = true) (hp : permitted = true) (hs : signed = true)
    (hr : ¬recent = true) : firstFailure intact permitted signed recent = 0x7006 := by
  simp [firstFailure, hi, hp, hs, hr]

theorem firstFailure_eq_zero_iff :
    firstFailure intact permitted signed recent = 0 ↔
      intact = true ∧ permitted = true ∧ signed = true ∧ recent = true := by
  by_cases hi : intact = true
  case neg => rw [firstFailure_of_not_intact hi]; simp [hi]
  by_cases hp : permitted = true
  case neg => rw [firstFailure_of_not_permitted hi hp]; simp [hp]
  by_cases hs : signed = true
  case neg => rw [firstFailure_of_not_signed hi hp hs]; simp [hs]
  by_cases hr : recent = true
  case neg => rw [firstFailure_of_not_recent hi hp hs hr]; simp [hr]
  simp [firstFailure, hi, hp, hs, hr]

end

/-- A slot that holds no eligible image passes no test and does not read as eligible (R72, R73). -/
theorem judgeSlot_not_eligible (st : Secure) (p : SlotParse) (c : Signed) (hp : ∀ h, p ≠ .eligible h) :
    (judgeSlot st p c).passed = false ∧ (judgeSlot st p c).sigOk = false ∧
      (judgeSlot st p c).versionOk = false ∧ (judgeSlot st p c).state ≠ 0b11 := by
  cases p with
  | absent => exact ⟨rfl, rfl, rfl, by simp [judgeSlot]⟩
  | malformed => exact ⟨rfl, rfl, rfl, by simp [judgeSlot]⟩
  | eligible h => exact absurd rfl (hp h)

/-- Settles O12: an eligible slot's REASON is the first failure of the four tests, whose results are the ones R73
states; each case of the first failure is a lemma. -/
theorem slotReasonIsTheFirstFailedTest : Obligations.SlotReasonIsTheFirstFailedTest := by
  unfold Obligations.SlotReasonIsTheFirstFailedTest
  refine ⟨fun st h c => ?_, judgeSlot_not_eligible⟩
  simp only [judgeSlot_eligible, ← slotIntact_iff, ← signerPermitted_iff, ← slotSigned_iff, ← slotRecent_iff,
    true_and]
  exact ⟨firstFailure_of_not_intact, firstFailure_of_not_permitted, firstFailure_of_not_signed,
    firstFailure_of_not_recent, decide_eq_true_iff.trans firstFailure_eq_zero_iff⟩

end Sys2Proof.Machine
end

section
/-! The rounding modes (R254): each rounds the magnitude of num ÷ 2^r and puts the sign back, so its error is that of a
rounding of natural numbers. -/

namespace Sys2Proof.Machine

/-! ## Sign and magnitude -/

theorem signed_natAbs (num : Int) : Fp.signed (decide (num < 0)) num.natAbs = num := by
  by_cases h : num < 0
  · simp only [Fp.signed, h, decide_true, if_true]; omega
  · simp only [Fp.signed, h, decide_false, Bool.false_eq_true, if_false]; omega

theorem natAbs_signed (neg : Bool) (m : Nat) : (Fp.signed neg m).natAbs = m := by
  cases neg <;> simp [Fp.signed]

theorem signed_emod_two {neg : Bool} {m : Nat} (h : m % 2 = 0) : Fp.signed neg m % 2 = 0 := by
  have hdvd : (2 : Int) ∣ m := mod_cast Nat.dvd_of_mod_eq_zero h
  cases neg <;> simpa [Fp.signed, ← Int.dvd_iff_emod_eq_zero] using hdvd

/-- The error of a signed rounding is that of its magnitude. -/
theorem natAbs_signed_mul_sub (neg : Bool) (q m d : Nat) :
    (Fp.signed neg q * d - Fp.signed neg m).natAbs = ((q * d : Int) - m).natAbs := by
  cases neg with
  | false => rfl
  | true => simp only [Fp.signed, if_true, Int.neg_mul]; omega

/-- Truncation toward zero is the division of the magnitude. -/
theorem signed_div (neg : Bool) (m d : Nat) : Fp.signed neg (m / d) = (Fp.signed neg m).tdiv d := by
  cases neg <;> simp [Fp.signed]

/-! ## Rounding a quotient of natural numbers -/

/-- The remainder decides between the quotient and its successor: below half, or half with an even quotient, or not. -/
theorem divRne_cases (num den : Nat) :
    (divRne num den = num / den ∧ (2 * (num % den) < den ∨ 2 * (num % den) = den ∧ num / den % 2 = 0)) ∨
    (divRne num den = num / den + 1 ∧ (den < 2 * (num % den) ∨ 2 * (num % den) = den ∧ num / den % 2 = 1)) := by
  by_cases h : 2 * (num % den) < den ∨ 2 * (num % den) = den ∧ num / den % 2 = 0
  · exact .inl ⟨if_pos h, h⟩
  · exact .inr ⟨if_neg h, by omega⟩

section
variable {num den : Nat}

/-- The result is a nearest integer, and of two the even one. -/
theorem divRne_nearest (hd : 0 < den) :
    2 * ((divRne num den * den : Int) - num).natAbs ≤ den ∧
      (2 * ((divRne num den * den : Int) - num).natAbs = den → divRne num den % 2 = 0) := by
  have hlt : num % den < den := Nat.mod_lt _ hd
  have hdiv : ((num / den : Nat) * den + (num % den : Nat) : Int) = num := mod_cast Nat.div_add_mod' num den
  rcases divRne_cases num den with ⟨hq, hr⟩ | ⟨hq, hr⟩
  · rw [hq]; omega
  · rw [hq, Nat.cast_succ, add_one_mul]; omega

/-- Adding half a unit before the division gives a nearest integer, and of two the larger. -/
theorem divHalfUp_nearest (hd : 0 < den) :
    2 * (((2 * num + den) / (2 * den) : Nat) * (den : Int) - num).natAbs ≤ den ∧
      (2 * (((2 * num + den) / (2 * den) : Nat) * (den : Int) - num).natAbs = den →
        num < (2 * num + den) / (2 * den) * den) := by
  have hlt : (2 * num + den) % (2 * den) < 2 * den := Nat.mod_lt _ (by omega)
  have hdiv := Nat.div_add_mod' (2 * num + den) (2 * den)
  rw [Nat.mul_left_comm] at hdiv
  rw [← Nat.cast_mul]
  omega

end

/-! ## The modes -/

theorem roundMode_even (num : Int) (r : Nat) :
    roundMode 0 num r = Fp.signed (decide (num < 0)) (divRne num.natAbs (2 ^ r)) := rfl

theorem roundMode_away (num : Int) (r : Nat) :
    roundMode 1 num r = Fp.signed (decide (num < 0)) ((2 * num.natAbs + 2 ^ r) / (2 * 2 ^ r)) := by
  rw [← Nat.pow_succ']; rfl

theorem roundMode_truncate (num : Int) (r : Nat) :
    roundMode 2 num r = Fp.signed (decide (num < 0)) (num.natAbs / 2 ^ r) := rfl

/-- The error of a mode is that of the rounded magnitude. -/
theorem roundMode_error {mode : BitVec 2} {num : Int} {r q : Nat}
    (hq : roundMode mode num r = Fp.signed (decide (num < 0)) q) :
    (roundMode mode num r * 2 ^ r - num).natAbs = ((q : Int) * (2 ^ r : Nat) - num.natAbs).natAbs := by
  rw [← natAbs_signed_mul_sub (decide (num < 0)), signed_natAbs, hq, Nat.cast_pow, Nat.cast_ofNat]

/-- Mode 0 is to nearest, a tie to even. -/
theorem roundMode_even_nearest (num : Int) (r : Nat) :
    2 * (roundMode 0 num r * 2 ^ r - num).natAbs ≤ 2 ^ r ∧
      (2 * (roundMode 0 num r * 2 ^ r - num).natAbs = 2 ^ r → roundMode 0 num r % 2 = 0) := by
  rw [roundMode_error (roundMode_even num r), roundMode_even]
  exact (divRne_nearest (Nat.two_pow_pos r)).imp_right fun htie h => signed_emod_two (htie h)

/-- Mode 1 is to nearest, a tie away from zero. -/
theorem roundMode_away_nearest (num : Int) (r : Nat) :
    2 * (roundMode 1 num r * 2 ^ r - num).natAbs ≤ 2 ^ r ∧
      (2 * (roundMode 1 num r * 2 ^ r - num).natAbs = 2 ^ r →
        num.natAbs < (roundMode 1 num r).natAbs * 2 ^ r) := by
  rw [roundMode_error (roundMode_away num r), roundMode_away, natAbs_signed]
  exact divHalfUp_nearest (Nat.two_pow_pos r)

/-- Mode 2 is toward zero. -/
theorem roundMode_truncate_eq_tdiv (num : Int) (r : Nat) : roundMode 2 num r = num.tdiv (2 ^ r) := by
  rw [roundMode_truncate, signed_div, signed_natAbs, Nat.cast_pow, Nat.cast_ofNat]

/-- Within half a unit of an integer, with nothing cut off, lies that integer alone. -/
theorem eq_of_error_shift_zero {y num : Int} (h : 2 * (y * 2 ^ 0 - num).natAbs ≤ 2 ^ 0) : y = num := by
  rw [pow_zero, pow_zero, mul_one] at h
  omega

/-- With nothing to cut off, modes 0 to 2 keep an integer: it is the nearest one to itself, and its own quotient. -/
theorem roundMode_of_shift_zero {mode : BitVec 2} (num : Int) (hm : mode ≠ 3) : roundMode mode num 0 = num := by
  have hmode : mode = 0 ∨ mode = 1 ∨ mode = 2 := by
    revert hm; revert mode; decide
  rcases hmode with rfl | rfl | rfl
  · exact eq_of_error_shift_zero (roundMode_even_nearest num 0).1
  · exact eq_of_error_shift_zero (roundMode_away_nearest num 0).1
  · rw [roundMode_truncate_eq_tdiv, pow_zero, Int.tdiv_one]

/-- With nothing to cut off and no bits drawn, mode 3 gives the floor (R255). -/
theorem roundStochastic_of_shift_zero {bits : Nat → Nat} (neg : Bool) (m : Nat) (e : Int) (hb : bits 0 = 0) :
    roundStochastic neg m e 0 bits = floorFp neg m e := by
  simp [roundStochastic, hb]

theorem floorFp_of_exp_zero (neg : Bool) (m : Nat) : floorFp neg m 0 = Fp.signed neg m := by
  simp [floorFp]

/-! ## The modes in the quantiser -/

/-- The unclamped integer output of a finite input ±m × 2^x (R253): p ÷ 2^r rounded by RMODE, plus ZOUT. -/
def roundedOutput (k : TileEnv) (o : OutSpec) (g : Nat) (e : Rescale) (n : Bool) (m : Nat) (x : Int) : Int :=
  (if e.rmode = 3 then
    roundStochastic n (m * e.mult.toNat) x (outShift o k e) (fun b => k.roundBits g b (o.counter o.draw))
  else roundMode e.rmode (Fp.signed n (m * e.mult.toNat) * 2 ^ x.toNat) (outShift o k e + (-x).toNat)) + e.zout

/-- An unmasked integer code of a finite input is its rounded output within the limits (R253). -/
theorem quantise_code_of_fin {k : TileEnv} {o : OutSpec} {g : Nat} {e : Rescale} {a : Int} {v : Val} {n : Bool}
    {m : Nat} {x : Int} (hi : o.type.isInt = true) (hmask : o.mask = none) (hv : rescaleInput e a v = .fin n m x) :
    (quantise k o g e a v).code = min (max (roundedOutput k o g e n m x) e.lo) e.hi := by
  simp [quantise, roundedOutput, hi, hmask, hv]

theorem roundBits_none (k : TileEnv) (g c : Nat) : k.roundBits g 0 c = 0 := by
  rw [TileEnv.roundBits, pow_zero, Nat.mod_one]

/-- Settles O60: modes 0 and 1 err by at most half a unit and break ties their own way, mode 2 truncates, and the
quantiser's integer code is the rounded output within its limits. -/
theorem roundingModesFollowTheirTable : Obligations.RoundingModesFollowTheirTable := by
  unfold Obligations.RoundingModesFollowTheirTable
  refine ⟨fun num r => ⟨roundMode_even_nearest num r, roundMode_away_nearest num r, roundMode_truncate_eq_tdiv num r⟩,
    fun mode num hm => roundMode_of_shift_zero num hm,
    fun neg m e bits hb => ⟨roundStochastic_of_shift_zero neg m e hb, ?_⟩,
    fun k o g e a v n m x hi hmask hv => ?_, roundBits_none⟩
  · rintro rfl
    exact floorFp_of_exp_zero neg m
  · rw [quantise_code_of_fin hi hmask hv, roundedOutput]
    exact ⟨fun hmode => by rw [if_neg hmode], fun hmode => by rw [if_pos hmode]⟩

end Sys2Proof.Machine
end

section
/-! What a command and a step keep: the frame of `mayChange`, the canonical form of memory, the secure store. -/

namespace Sys2Proof.Machine

/-! ## One command -/

/-- What `keeps_exec` says of a next state that is already named. -/
theorem exec_keeps {c : Instr} {s t : State} (h : exec c s = .next t) : Keeps (Field.mask (mayChange c)) s t := by
  obtain ⟨u, hu, hk⟩ := keeps_exec c s
  obtain rfl : u = t := Host.Outcome.next.inj (hu.symm.trans h)
  exact hk

/-- The frame of a command (`mayChange`). -/
theorem exec_frame {c : Instr} {s t : State} (h : exec c s = .next t) : s.sameBut (mayChange c) t :=
  (exec_keeps h).sameBut rfl

/-- A command answers some next state, within its frame. -/
theorem exec_next (c : Instr) (s : State) : ∃ t, exec c s = .next t ∧ s.sameBut (mayChange c) t := by
  obtain ⟨t, ht, hk⟩ := keeps_exec c s
  exact ⟨t, ht, hk.sameBut rfl⟩

/-- The block's part, and the queue of commands, are the model's own: no command names them. -/
theorem part_pending_not_mem_mayChange (c : Instr) : Field.part ∉ mayChange c ∧ Field.pending ∉ mayChange c := by
  suffices h : decide (Field.part ∈ mayChange c) = false ∧ decide (Field.pending ∈ mayChange c) = false from
    h.imp of_decide_eq_false of_decide_eq_false
  cases c <;> exact ⟨rfl, rfl⟩

theorem exec_part {c : Instr} {s t : State} (h : exec c s = .next t) : t.part = s.part :=
  exec_frame h .part (part_pending_not_mem_mayChange c).1

theorem exec_pending {c : Instr} {s t : State} (h : exec c s = .next t) : t.pending = s.pending :=
  exec_frame h .pending (part_pending_not_mem_mayChange c).2

/-! ## One step -/

theorem step_of_nil {s : State} (h : s.pending = []) : step s = .next (idleTick s) := by
  simp [step, h]

theorem step_of_cons {s : State} {c : Instr} {rest : List Instr} (h : s.pending = c :: rest) :
    step s = exec c { s with pending := rest } := by
  simp [step, h]

theorem idleTick_of_locked {s : State} (h : s.tide.locked = true) :
    idleTick s = State.flushMarks { s with tide := { s.tide with count := s.tide.count + 1 } } := by
  simp [idleTick, h]

theorem idleTick_of_unlocked {s : State} (h : s.tide.locked = false) : idleTick s = s := by
  simp [idleTick, h]

theorem idleTick_keeps (s : State) : Keeps 0x22200080a10 s (idleTick s) := keeps_idleTick rfl (.refl _ s)

/-- A step answers a next state that keeps memory canonical and lets the secure store only grow, and takes the front
command out of the queue. -/
theorem step_next (s : State) : ∃ t, step s = .next t ∧ t.pending = s.pending.tail ∧ t.part = s.part ∧
    s.secure.Grows t.secure ∧ (s.mem.wf → t.mem.wf) := by
  cases hp : s.pending with
  | nil =>
    have hk := idleTick_keeps s
    exact ⟨_, step_of_nil hp, (hk.same .pending rfl).trans hp, hk.same .part rfl, hk.secure, hk.mem⟩
  | cons c rest =>
    obtain ⟨t, ht, hk⟩ := keeps_exec c { s with pending := rest }
    exact ⟨t, (step_of_cons hp).trans ht, exec_pending ht, (exec_part ht :), hk.secure, hk.mem⟩

/-- What `step_next` says of a next state that is already named. -/
theorem step_keeps {s t : State} (h : step s = .next t) : s.secure.Grows t.secure ∧ (s.mem.wf → t.mem.wf) := by
  obtain ⟨u, hu, -, -, hk⟩ := step_next s
  obtain rfl : u = t := Host.Outcome.next.inj (hu.symm.trans h)
  exact hk

/-! ## The obligations about every step -/

/-- Settles O1: by the definition of a step. -/
theorem stepRunsTheFrontCommand : Obligations.StepRunsTheFrontCommand := by
  unfold Obligations.StepRunsTheFrontCommand
  exact fun _ _ _ => step_of_cons rfl

/-- Settles O2: every command and an idle tick keep memory canonical. -/
theorem stepKeepsMemoryCanonical : Obligations.StepKeepsMemoryCanonical := by
  unfold Obligations.StepKeepsMemoryCanonical
  exact fun _ _ h => (step_keeps h).2

/-- Settles O3: every list of the reset state is empty. -/
theorem resetMemoryIsCanonical : Obligations.ResetMemoryIsCanonical := by
  unfold Obligations.ResetMemoryIsCanonical
  have hcells : State.reset.mem.cells = [] := rfl
  exact ⟨by simp [Memory.wf, hcells], hcells, rfl, rfl⟩

/-- Settles O4: every command and an idle tick let the secure store only grow. -/
theorem stepLetsSecureStoreOnlyGrow : Obligations.StepLetsSecureStoreOnlyGrow := by
  unfold Obligations.StepLetsSecureStoreOnlyGrow
  exact fun _ _ h => (step_keeps h).1

/-- Settles O5: every command answers a next state within its frame, which names neither part nor queue. -/
theorem everyCommandAnswersANextState : Obligations.EveryCommandAnswersANextState := by
  unfold Obligations.EveryCommandAnswersANextState
  refine ⟨⟨fun c s => ?_, fun s => ?_⟩, fun s hp => ⟨fun hl => ?_, fun hl => ?_⟩⟩
  · obtain ⟨t, ht, -⟩ := exec_next c s
    exact ⟨t, ht, exec_part ht, exec_pending ht⟩
  · obtain ⟨t, ht, hpending, hpart, -⟩ := step_next s
    exact ⟨t, ht, hpending, hpart⟩
  · rw [step_of_nil hp, idleTick_of_locked hl]
  · rw [step_of_nil hp, idleTick_of_unlocked hl]

/-- Settles O6: the frame of every command. -/
theorem commandsChangeOnlyTheirFields : Obligations.CommandsChangeOnlyTheirFields := by
  unfold Obligations.CommandsChangeOnlyTheirFields
  exact fun _ _ _ h => exec_frame h

end Sys2Proof.Machine
end

section
/-! Supplies, pins and the start sequence up to the image that runs (R35, R43–R90). -/

namespace Sys2Proof.Machine

/-! ## A restart -/

theorem memory_pos (p : Part) : 0 < p.memory := by cases p <;> decide

/-- Memory that holds nothing, once all of it is forgotten. -/
theorem forget_empty {hi : Nat} (h : 0 < hi) (seed : Nat) :
    ({} : Memory).forget 0 hi seed = { undef := [⟨0, hi, seed⟩] } := by
  have hne : hi ≠ 0 := Nat.ne_of_gt h
  simp [Memory.forget, Memory.clear, hne]

/-- A cold start and a host reset leave what `started` says. -/
theorem restart_eq (s : State) (cold : Bool) : s.restart cold = started s cold (keptEnv s cold) := by
  simp only [State.restart, State.forget, started, State.reset, forget_empty (memory_pos s.part), keptEnv]

/-! ## AVSBus -/

/-- A command that is no setpoint may go out whatever the clocks do. -/
@[simp] theorem avsMayGo_transRate (s : State) (n : Nat) : s.avsMayGo (.transRate n) = true := rfl

/-- The setpoint last commanded, once a command has gone out (R46). -/
def setpointAfter (old : Nat) : AvsCmd → Nat
  | .voltageWrite mv => mv
  | _ => old

/-- On an idle bus that works, with nothing waiting, a command goes out at once (R46–R49). -/
theorem avsIssue_idle {s : State} {c : AvsCmd} (hstop : s.env.avs.stopped = false) (hsent : s.env.avs.sent = false)
    (hqueue : s.env.avs.queue = []) (hgo : s.avsMayGo c = true) :
    s.avsIssue c = { s with
      env := { s.env with avs := { s.env.avs with
        setpoint := setpointAfter s.env.avs.setpoint c, queue := [(c, 0)], sent := true } }
      outbox := s.outbox ++ [.avs c] } := by
  have hgo' (u : State) (hu : u.env.stretched = s.env.stretched) : u.avsMayGo c = true := by
    cases c with
    | voltageWrite mv => rw [← hgo, State.avsMayGo, State.avsMayGo, hu]
    | voltageRead => rfl
    | transRate n => rfl
    | status => rfl
  simp only [State.avsIssue, hstop, hqueue, State.avsKick, State.setAvs, State.send, hsent, List.nil_append,
    List.find?_cons, hgo', List.erase_cons_head, if_false, Bool.false_eq_true]
  cases c <;> rfl

/-! ## The obligation about supplies and pins -/

section
variable {s : State}

theorem execSupplyPowerUp_off (testen : Bool) (h : s.env.suppliesUp = false) :
    exec (.supplyPowerUp testen) s = .next (started s true { keptEnv s true with
      suppliesUp := true, por := false, testen, mfgHold := testen, perstLow := true }) := by
  show execSupplyPowerUp testen s = _
  simp [execSupplyPowerUp, h, restart_eq, started]

theorem execSupplyLoss_eq (s : State) : exec .supplyLoss s = .next (started s true { keptEnv s true with
    suppliesUp := false, por := true, perstLow := true }) := by
  show execSupplyLoss s = _
  simp [execSupplyLoss, restart_eq, started]

theorem execTestenHigh_started (h : s.env.suppliesUp = true) (hr : s.boot.stage ≠ .reset) :
    exec .testenHigh s = .next (started s false { keptEnv s false with testen := true, mfgHold := true }) := by
  show execTestenHigh s = _
  simp [execTestenHigh, h, hr, restart_eq, started, keptEnv]

theorem execTestenHigh_reset (h : s.env.suppliesUp = true) (hr : s.boot.stage = .reset) :
    exec .testenHigh s =
      .next { s with env := { s.env with testen := true, mfgHold := true, linkUp := false } } := by
  show execTestenHigh s = _
  simp [execTestenHigh, h, hr]

/-- A host reset writes the setpoint of R47. -/
theorem restart_avsIssue (s : State) : (s.restart false).avsIssue (.voltageWrite 750) =
    { started s false { keptEnv s false with
        avs := { setpoint := 750, confirmed := s.env.avs.confirmed, queue := [(.voltageWrite 750, 0)], sent := true } } with
      outbox := s.outbox ++ [.avs (.voltageWrite 750)] } := by
  rw [restart_eq, avsIssue_idle rfl rfl rfl rfl]
  simp [started, keptEnv, setpointAfter]

theorem execPerstNAssert_off (hot : Bool) (h : s.env.suppliesUp = false ∨ s.env.perstLow = true) :
    exec (.perstNAssert hot) s = .next s := by
  show execPerstNAssert hot s = _
  simp [execPerstNAssert, h]

theorem execPerstNAssert_pin (hup : s.env.suppliesUp = true) (hp : s.env.perstLow = false) :
    exec (.perstNAssert false) s = .next { started s false { keptEnv s false with
      perstLow := true
      avs := { setpoint := 750, confirmed := s.env.avs.confirmed, queue := [(.voltageWrite 750, 0)], sent := true } } with
      outbox := s.outbox ++ [.avs (.voltageWrite 750)] } := by
  show execPerstNAssert false s = _
  simp [execPerstNAssert, hup, hp, restart_avsIssue, started]

/-- A hot reset goes on to step 2 at once (R61), with the slew's command behind the setpoint's. -/
theorem execPerstNAssert_hot (hup : s.env.suppliesUp = true) (hp : s.env.perstLow = false)
    (hm : s.env.mfgHold = false) (ht : s.env.thermalHold = false) :
    exec (.perstNAssert true) s = .next { started s false { keptEnv s false with
        avs := { setpoint := 750, confirmed := s.env.avs.confirmed, sent := true
                 queue := [(.voltageWrite 750, 0), (.transRate 2500, 0)] } } with
      outbox := s.outbox ++ [.avs (.voltageWrite 750)], boot := { stage := .puf } } := by
  show execPerstNAssert true s = _
  simp only [execPerstNAssert, restart_avsIssue, hup, hp, if_true, started, keptEnv, hm, ht]
  simp [State.beginStart, State.avsIssue, State.avsKick, State.setAvs, State.reset]

/-- The rising edge of PERST_N begins the start, but in the manufacturing hold and after a trip while it is hot. -/
theorem execPerstNRelease_low (hottest : Int) (hup : s.env.suppliesUp = true) (hp : s.env.perstLow = true) :
    (s.env.mfgHold = true → exec (.perstNRelease hottest) s = .next { s with env := { s.env with perstLow := false } }) ∧
    (s.env.mfgHold = false → exec (.perstNRelease hottest) s = if s.env.thermalHold = true ∧ 90 ≤ hottest then
        .next { s with env := { s.env with perstLow := false, por := true } }
      else .next (State.avsIssue { s with
        env := { s.env with perstLow := false, por := false, thermalHold := false }
        boot := { s.boot with stage := .puf } } (.transRate 2500))) :=
  show (_ → execPerstNRelease hottest s = _) ∧ (_ → execPerstNRelease hottest s = _) from
  ⟨fun hm => by simp [execPerstNRelease, hup, hp, hm],
    fun hm => by simp [execPerstNRelease, hup, hp, hm, State.beginStart]⟩

theorem execThermalHoldRelease_held (reading : Int) (hup : s.env.suppliesUp = true) (hp : s.env.perstLow = false)
    (hm : s.env.mfgHold = false) (ht : s.env.thermalHold = true) :
    exec (.thermalHoldRelease reading) s = if reading < 90 then
        .next (State.avsIssue { s with
          env := { s.env with por := false, thermalHold := false }
          boot := { s.boot with stage := .puf } } (.transRate 2500))
      else .next s := by
  show execThermalHoldRelease reading s = _
  simp [execThermalHoldRelease, hup, hp, hm, ht, State.beginStart]

theorem execPcieLinkUp_ready (hup : s.env.suppliesUp = true) (hpor : s.env.por = false) (hp : s.env.perstLow = false)
    (hm : s.env.mfgHold = false) : exec .pcieLinkUp s = .next { s with env := { s.env with linkUp := true } } := by
  show execPcieLinkUp s = _
  simp [execPcieLinkUp, hup, hpor, hp, hm]

theorem execTideClockLock_ready (hup : s.env.suppliesUp = true) (hpor : s.env.por = false)
    (hp : s.env.perstLow = false) (hl : s.tide.locked = false) :
    exec .tideClockLock s = .next { s with tide := { s.tide with locked := true, count := 0 } } := by
  show execTideClockLock s = _
  simp [execTideClockLock, hup, hpor, hp, hl]

end

/-- Settles O7: one lemma for each supply and pin. -/
theorem suppliesAndPinsStartTheDevice : Obligations.SuppliesAndPinsStartTheDevice := by
  unfold Obligations.SuppliesAndPinsStartTheDevice
  exact fun s => ⟨execSupplyPowerUp_off, execSupplyLoss_eq s, execTestenHigh_started, execTestenHigh_reset,
    execPerstNAssert_pin, execPerstNAssert_off, execPerstNAssert_hot, execPerstNRelease_low,
    execThermalHoldRelease_held, execPcieLinkUp_ready, execTideClockLock_ready⟩

end Sys2Proof.Machine
end

section
/-! The attempts at the PUF seed, and BIST (R62, R63, R83). -/

namespace Sys2Proof.Machine

theorem bootReport_boot (s : State) (reason : BitVec 16) (sev : Severity) (detail : Nat) :
    (s.bootReport reason sev detail).boot = { s.boot with reason } := by
  simp [State.bootReport]

theorem noteLost_secure (s : State) (items : List StoreItem) : (s.noteLost items).secure = s.secure :=
  (keeps_noteLost (L := 0x22000080214) rfl (.refl _ s) items).same .secure rfl

/-- No item is lost: nothing is reported. -/
theorem noteLost_of_kept {s : State} {i : StoreItem} (h : s.secure.lost i = false) : s.noteLost [i] = s := by
  simp [State.noteLost, h]

/-- One lost item: STORE_FAIL and its 0x700C (R83). -/
theorem noteLost_boot_of_lost {s : State} {i : StoreItem} (h : s.secure.lost i = true) :
    (s.noteLost [i]).boot = { s.boot with storeFail := true, reason := 0x700C } := by
  simp [State.noteLost, h, bootReport_boot]

/-- An item that was written is not lost (R82). -/
theorem lost_written (x : Secure) (i : StoreItem) : (x.written i).lost i = false := by
  cases i <;> simp [Secure.lost, Secure.written, itemNumber]

/-- The loss of an item is a matter of its copies alone. -/
theorem lost_congr {x y : Secure} (h : x.copies = y.copies) (i : StoreItem) : x.lost i = y.lost i := by
  rw [Secure.lost, Secure.lost, h]

/-! ## The PUF seed -/

section
variable {s : State} {bad : BadCopies} (hstage : s.boot.stage = .puf)
include hstage

theorem execPufDone_some (hkept : (s.secure.tested [.helper] bad).lost .helper = false) (seed : BitVec 256) :
    exec (.pufDone (some seed) bad) s = .next { s with
      secure := s.secure.tested [.helper] bad, boot := { s.boot with stage := .bist, seed := some seed } } := by
  simp [exec, execPufDone, hstage, hkept]

theorem execPufDone_retry (hkept : (s.secure.tested [.helper] bad).lost .helper = false)
    (hattempts : s.boot.pufAttempts < 2) : exec (.pufDone none bad) s = .next { s with
      secure := s.secure.tested [.helper] bad, boot := { s.boot with pufAttempts := s.boot.pufAttempts + 1 } } := by
  simp [exec, execPufDone, hstage, hkept, hattempts]

/-- The third failure goes on without a seed (R62). -/
theorem execPufDone_failed (hkept : (s.secure.tested [.helper] bad).lost .helper = false)
    (hattempts : 2 ≤ s.boot.pufAttempts) : ∃ t, exec (.pufDone none bad) s = .next t ∧
      t.secure = s.secure.tested [.helper] bad ∧ t.boot = { s.boot with
        stage := .bist, pufAttempts := 3, pufFail := true, seed := none, reason := 0x7001 } := by
  simp only [exec, execPufDone, hstage, hkept, Nat.not_lt.2 hattempts, ne_eq, not_true, if_false, Bool.false_eq_true]
  exact ⟨_, rfl, by simp, by simp [bootReport_boot]⟩

/-- Lost helper data: no attempt is made (R83). -/
theorem execPufDone_lost (hlost : (s.secure.tested [.helper] bad).lost .helper = true)
    (seed : Option (BitVec 256)) : ∃ t, exec (.pufDone seed bad) s = .next t ∧
      t.secure = s.secure.tested [.helper] bad ∧ t.boot = { s.boot with
        stage := .bist, storeFail := true, pufFail := true, seed := none, reason := 0x7001 } := by
  have hboot := noteLost_boot_of_lost (s := { s with secure := s.secure.tested [.helper] bad }) hlost
  have hsecure := noteLost_secure { s with secure := s.secure.tested [.helper] bad } [.helper]
  simp only [exec, execPufDone, hstage, hlost, ne_eq, not_true, if_false, if_true]
  generalize State.noteLost _ _ = u at hboot hsecure ⊢
  exact ⟨_, rfl, by simp [hsecure], by simp [bootReport_boot, hboot]⟩

end

/-! ## BIST -/

theorem foldl_substitute_secure (l : List RepairLoc) (code : BitVec 16) (field : Bool) (s : State) :
    (l.foldl (fun s l => s.substitute l code field) s).secure = s.secure :=
  (keeps_foldl (L := 0x220001e0210) (.refl _ s) fun _ _ h => keeps_substitute rfl h _ _ _).same .secure rfl

/-- The repair map as BIST leaves it: the stored one, and what it finds beyond it (R63). -/
def bistMap (stored found : List RepairLoc) : List RepairLoc :=
  stored ++ found.dedup.filter fun l => !stored.contains l

theorem mem_bistMap {stored found : List RepairLoc} {l : RepairLoc} :
    l ∈ bistMap stored found ↔ l ∈ stored ∨ l ∈ found := by
  by_cases h : l ∈ stored <;> simp [bistMap, h]

/-- What BIST leaves of the secure store, the stage and the strict mode of training. -/
theorem execBistDone_eq {s : State} (found : List RepairLoc) (bad : BadCopies) (hstage : s.boot.stage = .bist) :
    let y := s.secure.tested [.repairMap] bad
    ∃ t, exec (.bistDone found bad) s = .next t ∧ t.boot.stage = .training ∧
      t.secure = Secure.written { y with repairMap := bistMap y.seen.repairMap found } .repairMap ∧
      ∀ c : ChanId, t.memctl.chans[c].strict = [.startup] := by
  simp only [exec, execBistDone, hstage, ne_eq, not_true, if_false, noteLost_secure]
  refine ⟨_, rfl, rfl, ?_, fun c => by simp⟩
  simp only [foldl_substitute_secure]
  split <;> simp [bistMap]

/-- A repair map that is not lost reads as it is stored (R83): no other item's loss touches it. -/
theorem seen_repairMap {x : Secure} (h : x.lost .repairMap = false) : x.seen.repairMap = x.repairMap := by
  unfold Secure.seen
  extract_lets x1 x2 x3 x4
  have h1 : x1.repairMap = x.repairMap ∧ x1.copies = x.copies := by unfold x1; split <;> exact ⟨rfl, rfl⟩
  have h2 : x2.repairMap = x1.repairMap ∧ x2.copies = x1.copies := by unfold x2; split <;> exact ⟨rfl, rfl⟩
  have h3 : x3 = x2 := if_neg (by rw [lost_congr (h2.2.trans h1.2), h]; decide)
  have h4 : x4.repairMap = x3.repairMap := by unfold x4; split <;> rfl
  rw [← h1.1, ← h2.1, ← h3, ← h4]
  split <;> rfl

/-- Settles O8: the cases of an attempt and what BIST leaves are lemmas; the frame is that of every command. -/
theorem pufAndBistComeFirst : Obligations.PufAndBistComeFirst := by
  unfold Obligations.PufAndBistComeFirst
  refine ⟨fun s bad hstage => ⟨fun hkept => ⟨execPufDone_some hstage hkept, execPufDone_retry hstage hkept,
    fun hattempts => ?_⟩, fun hlost seed => ?_⟩, fun s found bad hstage => ?_⟩
  · obtain ⟨t, ht, hsecure, hboot⟩ := execPufDone_failed hstage hkept hattempts
    exact ⟨t, ht, hsecure, hboot, (exec_frame ht :)⟩
  · obtain ⟨t, ht, hsecure, hboot⟩ := execPufDone_lost hstage hlost seed
    exact ⟨t, ht, hsecure, hboot, (exec_frame ht :)⟩
  · obtain ⟨t, ht, hnext, hsecure, hstrict⟩ := execBistDone_eq found bad hstage
    have hmap : t.secure.repairMap = bistMap (s.secure.tested [.repairMap] bad).seen.repairMap found := by
      rw [hsecure]; rfl
    refine ⟨t, ht, hnext, fun l => by rw [hmap, mem_bistMap], fun hkept l hl => ?_, ?_, hstrict, exec_frame ht⟩
    · rw [hmap, mem_bistMap, seen_repairMap hkept]
      exact .inl hl
    · rw [hsecure, lost_written]

end Sys2Proof.Machine
end

section
/-! CHECKING judges the slots and selects the one to run (R77). -/

namespace Sys2Proof.Machine

/-- A malformed slot is reported (R72). -/
def noteMalformed (s : State) (p : SlotParse) : State :=
  if p = .malformed then s.bootReport 0x7002 .information 0 else s

/-- A report of a malformed slot moves nothing of the start's registers but BOOT_REASON. -/
theorem noteMalformed_boot (s : State) (p : SlotParse) : ∃ r, (noteMalformed s p).boot = { s.boot with reason := r } := by
  unfold noteMalformed
  split
  · exact ⟨_, bootReport_boot _ _ _ _⟩
  · exact ⟨s.boot.reason, rfl⟩

theorem noteMalformed_boot_twice (s : State) (p q : SlotParse) :
    ∃ r, (noteMalformed (noteMalformed s p) q).boot = { s.boot with reason := r } := by
  obtain ⟨r, hr⟩ := noteMalformed_boot (noteMalformed s p) q
  obtain ⟨r', hr'⟩ := noteMalformed_boot s p
  exact ⟨r, by rw [hr, hr']⟩

theorem openWindow_boot (s : State) :
    s.openWindow.boot = { s.boot with stage := .windowOpen, nonce := .replicate 4 0, windowClosed := false } := rfl

theorem openWindow_mem (s : State) : s.openWindow.mem = s.mem.clear windowBase (windowBase + holdSize) := rfl

/-- The state in which CHECKING judges: the items it reads tested, their loss noted, the token checked. -/
def judging (bad : BadCopies) (s : State) : State :=
  let items := [StoreItem.rollback, .minver, .certificate, .counters]
  (State.noteLost { s with secure := s.secure.tested items bad } items).checkToken

/-- To say something of a next state, say it of every state with its start's registers. -/
theorem exists_next_of_boot {u : State} {x : Boot} {P : State → Prop}
    (h : ∃ r, u.boot = { x with reason := r }) (hP : ∀ t r, t.boot = { x with reason := r } → P t) :
    ∃ t, Host.Outcome.next (φ := Fault) (ρ := Refusal) u = .next t ∧ P t :=
  let ⟨r, hr⟩ := h
  ⟨u, rfl, hP u r hr⟩

/-- What CHECKING leaves of the start's registers: the judged slots, and the window reopened or the run chosen. -/
theorem execCheckingDone_eq (s : State) (bad : BadCopies) (hstage : s.boot.stage = .checking) :
    let u := judging bad s
    let atB := windowBase + 0x20_0000
    let slotA := judgeSlot u.secure.seen (parseSlot u.mem windowBase)
      (verifySlot u.mem windowBase (parseSlot u.mem windowBase))
    let slotB := judgeSlot u.secure.seen (parseSlot u.mem atB) (verifySlot u.mem atB (parseSlot u.mem atB))
    ∃ t, exec (.checkingDone bad) s = .next t ∧ t.boot.slotA = slotA ∧ t.boot.slotB = slotB ∧
      (selectSlot slotA slotB = none → t.boot.stage = .windowOpen ∧ t.boot.reason = 0x7003 ∧
        ∀ x, windowBase ≤ x → x < windowBase + holdSize → t.mem.read x = 0) ∧
      (∀ isB passes, selectSlot slotA slotB = some (isB, passes) →
        t.boot.stage = .keys ∧ t.boot.runSlot = (if isB then 0b10 else 0b01) ∧
        t.boot.unvouched = !(passes && u.boot.seed.isSome) ∧
        t.boot.runDigest = (if isB then slotB else slotA).digest ∧
        t.boot.version = (if isB then slotB else slotA).version ∧
        t.boot.signer = (if isB then slotB else slotA).signer) := by
  intro u' atB' slotA' slotB'
  rw [exec, execCheckingDone]
  rw [if_neg (not_not.2 hstage)]
  extract_lets items s1 s2 u st atA pa pb slotA slotB boot s3 malformed v boot'
  have hu : u' = u := rfl
  have hA : slotA' = slotA := rfl
  have hB : slotB' = slotB := rfl
  have hv : v = noteMalformed (noteMalformed s3 pa) pb := rfl
  obtain ⟨r, hboot⟩ := noteMalformed_boot_twice s3 pa pb
  rw [← hv] at hboot
  rw [hA, hB, hu]
  clear_value v
  cases hsel : selectSlot slotA slotB with
  | none =>
    refine ⟨_, rfl, ?_, ?_, fun _ => ⟨rfl, ?_, fun x h1 h2 => ?_⟩, nofun⟩
    · rw [openWindow_boot, bootReport_boot, hboot]
    · rw [openWindow_boot, bootReport_boot, hboot]
    · rw [openWindow_boot, bootReport_boot]
    · rw [openWindow_mem, Memory.read_clear_inside _ h1 h2]
  | some run =>
    obtain ⟨isB, passes⟩ := run
    have hseed : v.boot.seed = u.boot.seed := by rw [hboot]
    have hslotA : v.boot.slotA = slotA := by rw [hboot]
    have hslotB : v.boot.slotB = slotB := by rw [hboot]
    have hlast (c : Prop) [Decidable c] (w : State) :
        ∃ r', (if c then w else w.bootReport 0x7008 .contained 0).boot = { w.boot with reason := r' } := by
      split
      · exact ⟨w.boot.reason, rfl⟩
      · exact ⟨_, bootReport_boot _ _ _ _⟩
    refine exists_next_of_boot (hlast _ _) fun t r' ht => ?_
    rw [ht]
    refine ⟨hslotA, hslotB, nofun, fun isB' passes' hrun => ?_⟩
    cases hrun
    exact ⟨rfl, rfl, by rw [hseed], rfl, rfl, rfl⟩

/-! ## The selection -/

/-- The order of R77 on what it looks at: which slots are eligible (`ea`, `eb`), which pass (`pa`, `pb`), and whether
slot B is the later one. -/
def selection (ea eb pa pb later : Bool) : Option (Bool × Bool) :=
  if !ea && !eb then none
  else if pa && pb then some (later, true)
  else if pa then some (false, true)
  else if pb then some (true, true)
  else if !ea then some (true, false)
  else if !eb then some (false, false)
  else some (later, false)

theorem selectSlot_eq (a b : Slot) : selectSlot a b = selection (decide (a.state = 0b11)) (decide (b.state = 0b11))
    a.passed b.passed (decide (a.version.toNat < b.version.toNat)) := rfl

theorem selection_none : ∀ ea eb pa pb later : Bool, (pa = true → ea = true) → (pb = true → eb = true) →
    (selection ea eb pa pb later = none ↔ ea = false ∧ eb = false) := by decide

theorem selection_some : ∀ ea eb pa pb later isB passes : Bool, (pa = true → ea = true) → (pb = true → eb = true) →
    selection ea eb pa pb later = some (isB, passes) →
    (bif isB then eb else ea) = true ∧ passes = (bif isB then pb else pa) ∧
    ((bif isB then pa else pb) = true → (bif isB then pb else pa) = true) ∧
    ((bif isB then ea else eb) = true → (bif isB then pa else pb) = (bif isB then pb else pa) → later = isB) := by
  decide

section
variable {a b : Slot}

/-- No eligible slot, nothing to run. -/
theorem selectSlot_none_iff (ha : a.passed = true → a.state = 0b11) (hb : b.passed = true → b.state = 0b11) :
    selectSlot a b = none ↔ a.state ≠ 0b11 ∧ b.state ≠ 0b11 := by
  rw [selectSlot_eq, selection_none _ _ _ _ _ (fun h => decide_eq_true (ha h)) (fun h => decide_eq_true (hb h)),
    decide_eq_false_iff_not, decide_eq_false_iff_not]

/-- What the choice between an order and a flag says: the later version, a tie going to A. -/
theorem later_version {isB : Bool} (h : decide (a.version.toNat < b.version.toNat) = isB) :
    (if isB then a else b).version.toNat ≤ (if isB then b else a).version.toNat ∧
      ((if isB then a else b).version = (if isB then b else a).version → isB = false) := by
  cases isB with
  | false => exact ⟨Nat.not_lt.1 (of_decide_eq_false h), fun _ => rfl⟩
  | true =>
    have hlt := of_decide_eq_true h
    exact ⟨Nat.le_of_lt hlt, fun heq => absurd (congrArg BitVec.toNat heq) (Nat.ne_of_lt hlt)⟩

/-- The slot that runs (R77): eligible, and no passing slot loses to a failing one; among equals the later version. -/
theorem selectSlot_some {isB passes : Bool} (ha : a.passed = true → a.state = 0b11)
    (hb : b.passed = true → b.state = 0b11) (h : selectSlot a b = some (isB, passes)) :
    let run := if isB then b else a
    let other := if isB then a else b
    run.state = 0b11 ∧ passes = run.passed ∧ (other.passed = true → run.passed = true) ∧
      (other.state = 0b11 → other.passed = run.passed → other.version.toNat ≤ run.version.toNat ∧
        (other.version = run.version → isB = false)) := by
  rw [selectSlot_eq] at h
  obtain ⟨helig, hpass, hfirst, hlater⟩ :=
    selection_some _ _ _ _ _ _ _ (fun h => decide_eq_true (ha h)) (fun h => decide_eq_true (hb h)) h
  cases isB with
  | false => exact ⟨of_decide_eq_true helig, hpass, hfirst, fun he hp => later_version (hlater (decide_eq_true he) hp)⟩
  | true => exact ⟨of_decide_eq_true helig, hpass, hfirst, fun he hp => later_version (hlater (decide_eq_true he) hp)⟩

end

/-- Settles O11: what CHECKING leaves, and the order in which a slot is selected. -/
theorem checkingJudgesAndSelects : Obligations.CheckingJudgesAndSelects := by
  unfold Obligations.CheckingJudgesAndSelects
  refine ⟨fun s bad hstage => ?_, fun a b hpassed => ?_⟩
  · obtain ⟨t, ht, hA, hB, hnone, hsome⟩ := execCheckingDone_eq s bad hstage
    exact ⟨t, ht, hA, hB, hnone, hsome, exec_frame ht⟩
  · have ha := hpassed a (by simp)
    have hb := hpassed b (by simp)
    exact ⟨selectSlot_none_iff ha hb, fun _ _ h => selectSlot_some ha hb h⟩

end Sys2Proof.Machine
end

section
/-! The end of Slack water leaves every test of the block but its power state as it was (R101, R117). -/

namespace Sys2Proof.Machine

variable (s : State)

@[simp] theorem wakeSlack_suppliesUp : s.wakeSlack.env.suppliesUp = s.env.suppliesUp := by
  unfold State.wakeSlack; split <;> simp [State.leaveRetention]
@[simp] theorem wakeSlack_perstLow : s.wakeSlack.env.perstLow = s.env.perstLow := by
  unfold State.wakeSlack; split <;> simp [State.leaveRetention]
@[simp] theorem wakeSlack_reset : s.wakeSlack.env.reset = s.env.reset := by
  unfold State.wakeSlack; split <;> simp [State.leaveRetention]
@[simp] theorem wakeSlack_lost : s.wakeSlack.lost = s.lost := by simp [State.lost]
@[simp] theorem wakeSlack_frozen : s.wakeSlack.frozen = s.frozen := by simp [State.frozen]
@[simp] theorem wakeSlack_running : s.wakeSlack.running = s.running := by simp [State.running]
@[simp] theorem wakeSlack_vouched : s.wakeSlack.vouched = s.vouched := by simp [State.vouched]
@[simp] theorem wakeSlack_alive : s.wakeSlack.alive = s.alive := by simp [State.alive]
@[simp] theorem wakeSlack_answers : s.wakeSlack.answers = s.answers := by simp [State.answers]
@[simp] theorem wakeSlack_replaying : s.wakeSlack.replaying = s.replaying := by simp [State.replaying]

theorem wakeSlack_of_awake {s : State} (h : s.env.power ≠ .slackWater) : s.wakeSlack = s := if_neg h

end Sys2Proof.Machine
end

section
/-! BOOT_MINVER rises only by the host's write of the running version (R75). -/

namespace Sys2Proof.Machine

/-- The write of BOOT_MINVER_ADVANCE that R75 admits. -/
def admitsMinver (s : State) (v : Word) : Prop :=
  s.vouched = true ∧ s.secure.seen.v = true ∧ v = s.boot.version ∧ s.secure.seen.minver.toNat < v.toNat

theorem writeMinver_admitted {s : State} {v : Word} (hr : s.boot.stage ≠ .reset) (hl : s.lost = false)
    (hf : s.frozen = false) (h : admitsMinver s v) :
    s.writeMinver v = { s with secure := Secure.written { s.secure with minver := v } .minver } := by
  obtain ⟨hv, hmode, rfl, hlt⟩ := h
  simp [State.writeMinver, hr, hl, hf, hv, hmode, hlt]

theorem writeMinver_refused {s : State} {v : Word} (hr : s.boot.stage ≠ .reset) (hl : s.lost = false)
    (hf : s.frozen = false) (h : ¬admitsMinver s v) : s.writeMinver v = s.note 0x7009 .information 0 := by
  unfold State.writeMinver
  rw [if_neg (by simp [hr, hl, hf]), if_neg]
  simpa [admitsMinver, and_assoc] using h

/-- From `s` to `t` the secure store stands, or a write that R75 admits in `s` raised BOOT_MINVER. -/
def MinverMoves (s t : State) : Prop := t.secure = s.secure ∨ admitsMinver s t.secure.minver

theorem writeMinver_moves (s : State) (v : Word) : MinverMoves s (s.writeMinver v) := by
  unfold State.writeMinver
  extract_lets st
  split
  · exact .inl rfl
  · split
    next h =>
      simp only [Bool.and_eq_true, decide_eq_true_eq] at h
      obtain ⟨⟨⟨hv, hmode⟩, hver⟩, hlt⟩ := h
      exact .inr ⟨hv, hmode, hver, hlt⟩
    next => exact .inl (by simp)

@[simp] theorem writeMinver_boot (s : State) (v : Word) : (s.writeMinver v).boot = s.boot := by
  unfold State.writeMinver
  extract_lets st
  split
  · rfl
  · split
    · rfl
    · simp

theorem writeRelease_secure (s : State) (v : Word) : (s.writeRelease v).secure = s.secure := by
  unfold State.writeRelease; split <;> rfl

/-- A release of the window is no vouched run, before or after it. -/
theorem writeRelease_vouched {s : State} {v : Word} (h : (s.writeRelease v).vouched = true) :
    s.writeRelease v = s := by
  unfold State.writeRelease at h ⊢
  split
  next hc => rw [if_pos hc] at h; exact absurd h (by simp [State.vouched])
  next => rfl

/-- A write to any block but BOOT's leaves the secure store and the start's registers. -/
theorem writeReg_keeps_of_block {s : State} {off v : Nat} (h : off / 0x1_0000 ≠ 7) :
    Keeps 0x3feff7fffd8 s (s.writeReg off v) := by
  unfold State.writeReg
  dsimp only
  split
  · exact absurd ‹_› h
  split
  · split
    · exact keeps_writeHalt rfl (.refl _ s) _ _
    · exact .refl _ s
  split
  · split
    · exact keeps_requestDeviceReset rfl (.refl _ s)
    · exact .refl _ s
  split
  · exact .refl _ s
  split
  · exact keeps_writeHostif rfl (.refl _ s) _ _
  · exact keeps_writeQtable rfl (.refl _ s) _ _
  · exact keeps_writeCtx rfl (.refl _ s) _ _
  · exact keeps_writeManifestReg rfl (.refl _ s) _ _
  · exact keeps_writeTide rfl (.refl _ s) _ _
  · exact keeps_writePower rfl (.refl _ s) _ _
  · exact keeps_writeFwif rfl (.refl _ s) _ _
  · exact keeps_writeFault rfl (.refl _ s) _ _
  · exact keeps_writeRecordReg rfl (.refl _ s) _ _
  · exact keeps_writeCsi rfl (.refl _ s) _ _
  · exact keeps_writeCodec rfl (.refl _ s) _ _
  · exact keeps_writeMemctl rfl (.refl _ s) _ _
  · exact keeps_writeDeck rfl (.refl _ s) _ _
  · split
    · exact keeps_writeQuay rfl (.refl _ s) _ _ _
    · exact .refl _ s

theorem writeReg_of_boot_block {s : State} {off v : Nat} (h : off / 0x1_0000 = 7) :
    s.writeReg off v = if s.blockAnswers then s.writeBoot (off % 0x1_0000) v else s := by
  rw [State.writeReg, h]; rfl

theorem writeBoot_moves (s : State) (o v : Nat) : MinverMoves s (s.writeBoot o v) := by
  unfold State.writeBoot
  split
  · exact .inl (writeRelease_secure s _)
  · exact writeMinver_moves s _
  · split
    · exact .inl rfl
    · exact .inl rfl

/-- A 4-byte write raises BOOT_MINVER only as R75 admits. -/
theorem writeReg_moves (s : State) (off v : Nat) : MinverMoves s (s.writeReg off v) := by
  by_cases hb : off / 0x1_0000 = 7
  · rw [writeReg_of_boot_block hb]
    split
    · exact writeBoot_moves s _ _
    · exact .inl rfl
  · exact .inl ((writeReg_keeps_of_block hb).same .secure rfl)

theorem vouched_congr {s t : State} (hs : t.boot.stage = s.boot.stage) (hu : t.boot.unvouched = s.boot.unvouched) :
    t.vouched = s.vouched := by
  rw [State.vouched, State.vouched, hs, hu]

theorem writeBoot_vouched {s : State} {o v : Nat} :
    (s.writeBoot o v).vouched = true → s.vouched = true ∧ (s.writeBoot o v).boot.version = s.boot.version := by
  unfold State.writeBoot
  split
  · intro h
    have hs := writeRelease_vouched h
    rw [hs] at h ⊢
    exact ⟨h, rfl⟩
  · exact fun h => ⟨by simpa [State.vouched] using h, by simp⟩
  · split
    · exact fun h => ⟨h, rfl⟩
    · exact fun h => ⟨h, rfl⟩

/-- No register makes a run vouched or moves VERSION. -/
theorem writeReg_vouched {s : State} {off v : Nat} (h : (s.writeReg off v).vouched = true) :
    s.vouched = true ∧ (s.writeReg off v).boot.version = s.boot.version := by
  by_cases hb : off / 0x1_0000 = 7
  · rw [writeReg_of_boot_block hb] at h ⊢
    cases ha : s.blockAnswers with
    | false => simpa [ha] using h
    | true => simpa [ha] using writeBoot_vouched (by simpa [ha] using h)
  · have hboot : (s.writeReg off v).boot = s.boot := (writeReg_keeps_of_block hb).same .boot rfl
    rw [← vouched_congr (congrArg Boot.stage hboot) (congrArg Boot.unvouched hboot), hboot]
    exact ⟨h, rfl⟩

theorem MinverMoves.trans {s u t : State} (h : MinverMoves s u) (k : MinverMoves u t)
    (hu : u.vouched = true → s.vouched = true ∧ u.boot.version = s.boot.version) : MinverMoves s t := by
  rcases k with k | ⟨hv, hmode, hver, hlt⟩
  · rcases h with h | h
    · exact .inl (k.trans h)
    · exact .inr (k ▸ h)
  · obtain ⟨hv', hver'⟩ := hu hv
    rcases h with h | ⟨-, hmode', hver'', hlt'⟩
    · exact .inr ⟨hv', h ▸ hmode, hver.trans hver', h ▸ hlt⟩
    · have ht : t.secure.minver = u.secure.minver := by rw [hver, hver', hver'']
      exact .inr (by rw [ht]; exact ⟨hv', hmode', hver'', hlt'⟩)

theorem writeSized_moves (s : State) (off size : Nat) (v : BitVec 64) : MinverMoves s (s.writeSized off size v) := by
  unfold State.writeSized
  extract_lets u
  split
  · exact (writeReg_moves s _ _).trans (writeReg_moves u _ _) writeReg_vouched
  · exact writeReg_moves s _ _

/-! ## Commands that change the secure store and leave BOOT_MINVER -/

theorem written_minver (x : Secure) (i : StoreItem) : (x.written i).minver = x.minver := rfl

theorem tested_minver (x : Secure) (l : List StoreItem) (bad : BadCopies) : (x.tested l bad).minver = x.minver := rfl

theorem exec_unique {c : Instr} {s t u : State} (h : exec c s = .next t) (k : exec c s = .next u) : t = u :=
  Host.Outcome.next.inj (h.symm.trans k)

theorem restart_minver (s : State) (cold : Bool) : (s.restart cold).secure.minver = s.secure.minver := by
  rw [restart_eq]; rfl

theorem avsIssue_secure (s : State) (c : AvsCmd) : (s.avsIssue c).secure = s.secure :=
  (keeps_avsIssue (L := 0x20000000008) rfl (.refl _ s) c).same .secure rfl

theorem beginStart_secure (s : State) : s.beginStart.secure = s.secure :=
  (keeps_beginStart (L := 0x2000000000c) rfl (.refl _ s)).same .secure rfl

theorem checkToken_minver (s : State) : s.checkToken.secure.minver = s.secure.minver := by
  unfold State.checkToken
  split
  · rfl
  · dsimp only
    split
    · rw [bootReport_secure]; rfl
    · rw [bootReport_secure]

theorem commissioned_minver {s : State} {y : Secure} (h : s.commissioned = some y) : y.minver = s.secure.minver := by
  unfold State.commissioned at h
  dsimp only at h
  split at h
  · cases h
  split at h
  · cases h; rfl
  split at h
  · cases h; rfl
  split at h
  · cases h; rfl
  · cases h

theorem storeWrite_minver (s : State) (w : StoreWrite) : (s.storeWrite w).secure.minver = s.secure.minver := by
  unfold State.storeWrite
  split
  · rfl
  rcases w with n | ⟨v, o, d⟩
  · dsimp only; split <;> rfl
  · dsimp only; split <;> rfl

theorem foldl_storeWrite_minver (l : List StoreWrite) (s : State) :
    (l.foldl State.storeWrite s).secure.minver = s.secure.minver := by
  induction l generalizing s with
  | nil => rfl
  | cons w l ih => rw [List.foldl_cons, ih, storeWrite_minver]

theorem execPerstNAssert_minver {hot : Bool} {s t : State} (h : exec (.perstNAssert hot) s = .next t) :
    t.secure.minver = s.secure.minver := by
  have hs : ((s.restart false).avsIssue (.voltageWrite 750)).secure.minver = s.secure.minver := by
    rw [avsIssue_secure, restart_minver]
  simp only [exec, execPerstNAssert] at h
  generalize (s.restart false).avsIssue (.voltageWrite 750) = u at h hs
  split at h
  · cases h; rfl
  · cases h
    split
    · split
      · exact hs
      · rw [beginStart_secure, hs]
    · exact hs

theorem execPufDone_minver {seed : Option (BitVec 256)} {bad : BadCopies} {s t : State}
    (h : exec (.pufDone seed bad) s = .next t) : t.secure.minver = s.secure.minver := by
  simp only [exec, execPufDone] at h
  split at h
  · cases h; rfl
  split at h
  · cases h
    dsimp only
    rw [bootReport_secure, noteLost_secure]; rfl
  split at h
  · cases h; rfl
  split at h
  · cases h; rfl
  · cases h
    dsimp only
    rw [bootReport_secure]; rfl

theorem execBistDone_minver {found : List RepairLoc} {bad : BadCopies} {s t : State}
    (h : exec (.bistDone found bad) s = .next t) : t.secure.minver = s.secure.minver := by
  by_cases hst : s.boot.stage = .bist
  · obtain ⟨u, hu, hstage, hsec, hstrict⟩ := execBistDone_eq found bad hst
    rw [← exec_unique hu h, hsec, written_minver, tested_minver]
  · rw [exec, execBistDone, if_pos hst] at h
    cases h; rfl

theorem noteMalformed_secure (s : State) (p : SlotParse) : (noteMalformed s p).secure = s.secure := by
  unfold noteMalformed
  split
  · exact bootReport_secure ..
  · rfl

theorem exec_checkingDone_secure {s : State} (bad : BadCopies) (hst : s.boot.stage = .checking) :
    ∃ t, exec (.checkingDone bad) s = .next t ∧ t.secure = (judging bad s).secure := by
  rw [exec, execCheckingDone, if_neg (not_not.2 hst)]
  extract_lets items s1 s2 u st atA atB pa pb slotA slotB boot s3 malformed v boot'
  have hv : v.secure = (judging bad s).secure := by
    calc v.secure = (noteMalformed (noteMalformed s3 pa) pb).secure := rfl
      _ = u.secure := by rw [noteMalformed_secure, noteMalformed_secure]
  clear_value v
  cases selectSlot slotA slotB with
  | none => exact ⟨_, rfl, (bootReport_secure v ..).trans hv⟩
  | some run =>
    refine ⟨_, rfl, ?_⟩
    split
    · exact hv
    · rw [bootReport_secure]; exact hv

theorem execCheckingDone_minver {bad : BadCopies} {s t : State} (h : exec (.checkingDone bad) s = .next t) :
    t.secure.minver = s.secure.minver := by
  by_cases hst : s.boot.stage = .checking
  · obtain ⟨u, hu, hsec⟩ := exec_checkingDone_secure bad hst
    rw [← exec_unique hu h, hsec, judging, checkToken_minver, noteLost_secure]; rfl
  · rw [exec, execCheckingDone, if_pos hst] at h
    cases h; rfl

theorem execCommission_minver {s t : State} (h : exec .commission s = .next t) :
    t.secure.minver = s.secure.minver := by
  have hsec (u : State) (r : BitVec 16) : (u.reqWorked r).secure = u.secure :=
    (keeps_reqWorked (L := 0x200) rfl (.refl _ u) r).same .secure rfl
  simp only [exec, execCommission] at h
  split at h
  · cases h; rfl
  split at h
  next y hy => cases h; rw [hsec]; exact commissioned_minver (s := s) (y := y) hy
  next => cases h; rw [hsec]

theorem execHeartbeat_minver {seq : BitVec 16} {writes : List StoreWrite} {s t : State}
    (h : exec (.heartbeat seq writes) s = .next t) : t.secure.minver = s.secure.minver := by
  simp only [exec, execHeartbeat] at h
  split at h
  · cases h; rfl
  · cases h; exact foldl_storeWrite_minver writes s

theorem execRepairMapWriteDone_minver {s t : State} (h : exec .repairMapWriteDone s = .next t) :
    t.secure.minver = s.secure.minver := by
  simp only [exec, execRepairMapWriteDone] at h
  split at h
  · cases h; rfl
  · cases h; rfl

/-! ## The host's writes -/

theorem MinverMoves.of_wakeSlack {s t : State} (h : MinverMoves s.wakeSlack t) : MinverMoves s t := by
  simpa only [MinverMoves, admitsMinver, wakeSlack_secure, wakeSlack_boot, wakeSlack_vouched] using h

theorem execRegisterWrite_moves {w : WriteTarget} {size : Nat} {v : BitVec 64} {en : BitVec 8} {p : Bool} {s t : State}
    (h : exec (.registerWrite w size v en p) s = .next t) : MinverMoves s t := by
  simp only [exec, execRegisterWrite] at h
  cases w with
  | bar0 offset =>
    dsimp only at h
    split at h
    · cases h; exact .inl rfl
    split at h
    · cases h; exact .inl (by simp)
    split at h
    · cases h
      exact .of_wakeSlack (.inl ((keeps_dropPoisoned (L := 0x22000080230) rfl (.refl _ _)).same .secure rfl))
    · cases h; exact .of_wakeSlack (writeSized_moves ..)
  | bar4 offset =>
    dsimp only at h
    split at h
    · cases h; exact .inl rfl
    split at h
    · cases h
      exact .of_wakeSlack (.inl ((keeps_dropPoisoned (L := 0x22000080230) rfl (.refl _ _)).same .secure rfl))
    split at h
    · cases h
      exact .of_wakeSlack (.inl ((keeps_writeBar4Sized (L := 0x20000000010) rfl (.refl _ _) ..).same .secure rfl))
    · cases h; exact .of_wakeSlack (.inl rfl)
  | config r =>
    dsimp only at h
    split at h
    · cases h; exact .inl rfl
    split at h
    · cases h
      exact .of_wakeSlack (.inl ((keeps_sendAer (L := 0x20000000020) rfl (.refl _ _) _).same .secure rfl))
    · cases h
      exact .of_wakeSlack (.inl ((keeps_writeConfig (L := 0x200000000f0) rfl (.refl _ _) ..).same .secure rfl))

/-- The commands that can carry the host's write of BOOT_MINVER_ADVANCE. -/
def carriesMinver (c : Instr) : Prop := (∃ v, c = .bootMinverAdvance v) ∨ ∃ o n v e p, c = .registerWrite o n v e p

/-- Every command leaves BOOT_MINVER, or is a host's write that R75 admits. -/
theorem exec_minver {c : Instr} {s t : State} (h : exec c s = .next t) :
    t.secure.minver = s.secure.minver ∨ carriesMinver c ∧ admitsMinver s t.secure.minver := by
  by_cases hs : decide (Field.secure ∈ mayChange c) = false
  · exact .inl (congrArg Secure.minver (exec_frame h .secure (of_decide_eq_false hs)))
  cases c with
  | supplyPowerUp testen =>
    simp only [exec, execSupplyPowerUp] at h
    split at h
    · cases h; exact .inl rfl
    · cases h; exact .inl (restart_minver s true)
  | supplyLoss =>
    simp only [exec, execSupplyLoss] at h
    cases h; exact .inl (restart_minver s true)
  | testenHigh =>
    simp only [exec, execTestenHigh] at h
    split at h
    · cases h; exact .inl rfl
    · cases h
      refine .inl ?_
      split
      · rfl
      · exact restart_minver s false
  | perstNAssert hot => exact .inl (execPerstNAssert_minver h)
  | pufDone seed bad => exact .inl (execPufDone_minver h)
  | bistDone found bad => exact .inl (execBistDone_minver h)
  | checkingDone bad => exact .inl (execCheckingDone_minver h)
  | commission => exact .inl (execCommission_minver h)
  | heartbeat seq writes => exact .inl (execHeartbeat_minver h)
  | repairMapWriteDone => exact .inl (execRepairMapWriteDone_minver h)
  | bootMinverAdvance v =>
    simp only [exec, execBootMinverAdvance] at h
    cases h
    exact (writeMinver_moves s.wakeSlack v).of_wakeSlack.imp (congrArg Secure.minver) fun ha => ⟨.inl ⟨v, rfl⟩, ha⟩
  | registerWrite o n v e p =>
    exact (execRegisterWrite_moves h).imp (congrArg Secure.minver) fun ha => ⟨.inr ⟨o, n, v, e, p, rfl⟩, ha⟩
  | _ => exact (hs rfl).elim

/-- Settles O14: a command leaves BOOT_MINVER or is a host's write that R75 admits (`exec_minver`). -/
theorem minverRisesOnlyByTheHost : Obligations.MinverRisesOnlyByTheHost := by
  unfold Obligations.MinverRisesOnlyByTheHost
  refine ⟨fun s v hrun hun hl hf hmode hver hlt => ?_, fun s v hr hl hf hno => ?_, fun c s t h => ?_,
    fun c s t h hne => ?_⟩
  · have ha : admitsMinver s.wakeSlack v := by
      simp [admitsMinver, State.vouched, hrun, hun, hmode, hver]
      simpa [hver] using hlt
    show Host.Outcome.next (s.wakeSlack.writeMinver v) = _
    rw [writeMinver_admitted (by simp [hrun]) (by simpa using hl) (by simpa using hf) ha, wakeSlack_secure]
  · show Host.Outcome.next (s.wakeSlack.writeMinver v) = _
    rw [writeMinver_refused (by simpa using hr) (by simpa using hl) (by simpa using hf)
      (by simpa [admitsMinver] using hno)]
  · exact (exec_keeps h).secure.1
  · rcases exec_minver h with he | ⟨hc, hv, hmode, hver, hlt⟩
    · exact absurd he hne
    · exact ⟨hc, hv, hmode, hver, hver ▸ hlt⟩

end Sys2Proof.Machine
end

section
/-! The boot hold during a function reset, and what KEYS_DONE leaves (R65, R81, R84–R87, R90). -/

namespace Sys2Proof.Machine

/-- A device whose window is open, with a function reset in progress: no request reaches BAR2. -/
def heldWindow : State :=
  { State.reset with
    boot := { State.reset.boot with stage := .windowOpen }
    env := { State.reset.env with suppliesUp := true, por := false, perstLow := false, reset := .function } }

theorem heldWindow_not_bar2Answers : heldWindow.bar2Answers = false := by decide

/-- A write that BAR2 does not answer changes nothing. -/
theorem bar2Write_of_not_bar2Answers {s : State} (h : s.bar2Answers = false) (off : Nat) (bs : List Byte) (p : Bool) :
    s.bar2Write off bs p = s := by
  simp [State.bar2Write, h]

/-- Refutes O10: BAR2 answers no request during a function reset (`heldWindow`), where the statement has the byte
written into the boot hold. -/
theorem not_bootHoldAndJtagBeforeRelease : ¬ Obligations.BootHoldAndJtagBeforeRelease := by
  unfold Obligations.BootHoldAndJtagBeforeRelease
  rintro ⟨h, -⟩
  obtain ⟨hwrite, -⟩ := (h heldWindow).1 0 [1] (by decide) (by decide) (by decide) (by decide) (by decide) (by decide)
    (by decide) (by decide)
  have hkept : exec (.bootHoldWrite 0 [1]) heldWindow = .next heldWindow := by
    show Host.Outcome.next (heldWindow.wakeSlack.bar2Write 0 [1] false) = _
    rw [wakeSlack_of_awake (by decide), bar2Write_of_not_bar2Answers heldWindow_not_bar2Answers]
  have hstate := exec_unique hkept hwrite
  have hread := congrArg (fun s : State => s.mem.read windowBase) hstate
  exact absurd hread (by decide)

/-- The device has a seed, and the run is vouched and not debug-open: the runs that get keys (R84, R90). -/
theorem keysFor_ne_none (s : State) :
    s.keysFor ≠ none ↔ s.boot.seed ≠ none ∧ s.boot.unvouched = false ∧ s.boot.debugOpen = false := by
  unfold State.keysFor
  cases s.boot.seed with
  | none => simp
  | some seed => simp

theorem reportSignature_of_no_seed {s : State} (h : s.boot.seed = none) (bs : List Byte) : s.reportSignature bs = [] := by
  simp [State.reportSignature, h]

theorem reportSignature_of_seed {s : State} (h : s.boot.seed ≠ none) (bs : List Byte) :
    s.reportSignature bs ≠ [] ∧ (s.reportSignature bs).length ≤ 1280 := by
  obtain ⟨seed, hs⟩ := Option.ne_none_iff_exists'.1 h
  simp [State.reportSignature, hs]

theorem obtainRootKey_some {s : State} {seed : BitVec 256} {w : Nat} (hseed : s.boot.seed = some seed)
    (hrel : s.boot.released ≠ none) (hv : s.vouched = true)
    (hw : w ≤ if s.secure.seen.k = true then s.boot.version.toNat else 0) :
    s.obtainRootKey w = some (rootKey seed s.boot.signer (ownerInput s.secure.seen s.boot.signer) w) := by
  obtain ⟨keys, hkeys⟩ := Option.ne_none_iff_exists'.1 hrel
  simp [State.obtainRootKey, hseed, hkeys, hv, hw]

theorem obtainRootKey_none {s : State} {w : Nat}
    (h : (if s.secure.seen.k = true then s.boot.version.toNat else 0) < w ∨ s.vouched = false ∨
      s.boot.released = none) : s.obtainRootKey w = none := by
  unfold State.obtainRootKey
  dsimp only
  split
  next seed keys hseed hkeys =>
    rw [if_neg]
    rcases h with h | h | h
    · simp [h]
    · simp [h]
    · cases hkeys.symm.trans h
  next => rfl

/-- Settles O13: the next state is the definition's; who gets keys and root keys are lemmas. -/
theorem keysDoneStartsTheImage : Obligations.KeysDoneStartsTheImage := by
  unfold Obligations.KeysDoneStartsTheImage
  refine ⟨fun s hstage => ⟨?_, fun h => reportSignature_of_no_seed h _, fun h => reportSignature_of_seed h _,
    keysFor_ne_none s⟩, fun s w => ⟨fun seed hseed hrel hv hw => obtainRootKey_some hseed hrel hv hw,
    obtainRootKey_none⟩⟩
  have hkeys (n : Nat) (m : Memory) : ({ s with freeCount := n, mem := m } : State).keysFor = s.keysFor := rfl
  simp only [exec, execKeysDone, hstage, ne_eq, not_true, if_false, State.updMem, hkeys, State.signedReport,
    State.msTicks, State.now] <;> rfl

end Sys2Proof.Machine
end

section
/-! The shapes of a register access (R112, R116, R119, R130). -/

namespace Sys2Proof.Machine

/-- A device that requests reach. -/
def reachableDevice : State :=
  { State.reset with env := { State.reset.env with suppliesUp := true, por := false, perstLow := false } }

/-- Refutes O21: a read answers the aligned DWORD that holds its offset (R116), so that offset 5 reads IDENT's register
at 4, where the statement has the zero of no register. -/
theorem not_onlyIdentAndLighthouseAnswerWhenLost : ¬ Obligations.OnlyIdentAndLighthouseAnswerWhenLost := by
  unfold Obligations.OnlyIdentAndLighthouseAnswerWhenLost
  intro h
  have hread : reachableDevice.readReg 5 = BitVec.ofNat 32 (reachableDevice.readIdent 5) :=
    ((h reachableDevice 5 0 (by decide)).1 (by decide)).1
  exact absurd hread (by decide)

/-! ## Register writes -/

theorem shapeOk_iff {off size : Nat} {en : BitVec 8} : State.shapeOk off size en = true ↔
    (size = 4 ∧ off % 4 = 0 ∧ en.toNat % 16 = 15) ∨ (size = 8 ∧ off % 8 = 0 ∧ en = 0xFF) := by
  have hen : en.toNat = 0xFF ↔ en = 0xFF := (BitVec.toNat_inj (y := (0xFF : BitVec 8)))
  simp [State.shapeOk, hen, and_assoc]

theorem dropPoisoned_of_not_lost {s : State} (h : s.lost = false) :
    s.dropPoisoned = (s.note 0x5004 .contained 0).sendAer .poisonedTlp := by
  simp [State.dropPoisoned, h]

theorem not_lost_of_bar2Answers {s : State} (h : s.bar2Answers = true) : s.lost = false := by
  simp only [State.bar2Answers, Bool.and_eq_true, Bool.not_eq_true'] at h
  obtain ⟨⟨⟨-, hl⟩, -⟩, -⟩ := h
  exact hl

section
variable {s : State} {off size : Nat} {v : BitVec 64} {en : BitVec 8}

theorem execRegisterWrite_misshaped (hr : s.reachable = true) (ho : off < 0x100_0000)
    (h : State.shapeOk off size en = false) (p : Bool) :
    exec (.registerWrite (.bar0 off) size v en p) s = .next (s.wakeSlack.note 0x5008 .information 0) := by
  simp [exec, execRegisterWrite, hr, ho, h]

theorem execRegisterWrite_sized (hr : s.reachable = true) (ho : off < 0x100_0000)
    (h : State.shapeOk off size en = true) :
    exec (.registerWrite (.bar0 off) size v en false) s = .next (s.wakeSlack.writeSized off size v) := by
  simp [exec, execRegisterWrite, hr, ho, h]

theorem execRegisterWrite_poisoned (hr : s.reachable = true) (ho : off < 0x100_0000)
    (h : State.shapeOk off size en = true) (hl : s.lost = false) : exec (.registerWrite (.bar0 off) size v en true) s =
      .next ((s.wakeSlack.note 0x5004 .contained 0).sendAer .poisonedTlp) := by
  simp [exec, execRegisterWrite, hr, ho, h, dropPoisoned_of_not_lost, hl]

theorem execRegisterWrite_bar4 (hb : s.bar2Answers = true) (h : State.shapeOk off 4 en = true) :
    exec (.registerWrite (.bar4 off) 4 v en false) s = .next (s.wakeSlack.writeBar4 off (v.truncate 32)) := by
  have hv : BitVec.ofNat 32 v.toNat = v.truncate 32 := rfl
  simp [exec, execRegisterWrite, hb, h, State.writeBar4Sized, hv]

theorem execRegisterWrite_bar4_poisoned (hb : s.bar2Answers = true) :
    exec (.registerWrite (.bar4 off) 4 v en true) s =
      .next ((s.wakeSlack.note 0x5004 .contained 0).sendAer .poisonedTlp) := by
  simp [exec, execRegisterWrite, hb, dropPoisoned_of_not_lost, not_lost_of_bar2Answers hb]

end

/-- Settles O19: one lemma per shape and target. -/
theorem registerWritesHaveOneShape : Obligations.RegisterWritesHaveOneShape := by
  unfold Obligations.RegisterWritesHaveOneShape
  refine ⟨fun s off v en hr ho => ⟨fun size h4 h8 p => ?_, fun hal hen => ⟨?_, fun hl => ?_⟩, fun hal hen => ?_⟩,
    fun s off v en hb hal hen => ⟨?_, ?_⟩, fun s size v en hc => ⟨fun r => ?_, ?_⟩⟩
  · exact execRegisterWrite_misshaped hr ho (Bool.eq_false_iff.2 fun h => (shapeOk_iff.1 h).elim h4 h8) p
  · exact execRegisterWrite_sized hr ho (shapeOk_iff.2 (.inl ⟨rfl, hal, hen⟩))
  · exact execRegisterWrite_poisoned hr ho (shapeOk_iff.2 (.inl ⟨rfl, hal, hen⟩)) hl
  · rw [execRegisterWrite_sized hr ho (shapeOk_iff.2 (.inr ⟨rfl, hal, hen⟩))]
    have hhi : hiWord v.toNat = v.toNat / 2 ^ 32 := by
      have := v.isLt
      unfold hiWord
      omega
    simp [State.writeSized, loWord, hhi]
  · exact execRegisterWrite_bar4 hb (shapeOk_iff.2 (.inl ⟨rfl, hal, hen⟩))
  · exact execRegisterWrite_bar4_poisoned hb
  · simp [exec, execRegisterWrite, hc]
  · simp [exec, execRegisterWrite, hc, State.writeConfig, State.setCfg]

end Sys2Proof.Machine
end

section
/-! What an end of a command changes of the queues: the CTAIL of its own (R145, R146, R152). -/

namespace Sys2Proof.Machine

/-- From `s` to `t` no queue changed but in its CTAIL. -/
structure OnlyCtails (s t : State) : Prop where
  eq (p : QueueId) : ∃ n, t.queues[p] = { s.queues[p] with ctail := n }

theorem OnlyCtails.of_eq {s t : State} (h : t.queues = s.queues) : OnlyCtails s t :=
  ⟨fun p => ⟨s.queues[p].ctail, by rw [h]⟩⟩

theorem OnlyCtails.trans {s t u : State} (h : OnlyCtails s t) (k : OnlyCtails t u) : OnlyCtails s u := ⟨fun p => by
  obtain ⟨m, hm⟩ := h.eq p
  obtain ⟨n, hn⟩ := k.eq p
  exact ⟨n, by rw [hn, hm]⟩⟩

theorem writeRecord_onlyCtails (s : State) (fl : Flight) (r : Record) : OnlyCtails s (s.writeRecord fl r) := by
  have hupd (u : State) (n : Word) (h : u.queues = s.queues) :
      OnlyCtails s (u.updQueue fl.q fun x => { x with ctail := n }) := ⟨fun p => by
    rw [State.updQueue_queues, h, updAt_get]
    split
    next hp => subst hp; exact ⟨n, rfl⟩
    next => exact ⟨s.queues[p].ctail, rfl⟩⟩
  unfold State.writeRecord
  extract_lets q slot u v w x y
  have hu : u.queues = s.queues := (keeps_deviceWrite (L := 0x20000080000) rfl (.refl _ s) _ _ _).same .queues rfl
  have hw : w.queues = v.queues := rfl
  have hx : x.queues = w.queues := by unfold x; split <;> simp
  have hy : y.queues = x.queues := by unfold y; split <;> simp
  refine (hupd u (q.ctail + 1) hu).trans (.of_eq ?_)
  rw [trace_queues]
  exact hy.trans (hx.trans hw)

theorem endFlight_onlyCtails (s : State) (q : QueueId) (idx : Word) (status : Byte) (reason : BitVec 16) :
    OnlyCtails s (s.endFlight q idx status reason) := by
  unfold State.endFlight
  split
  · exact .of_eq rfl
  next fl _ =>
    extract_lets u fl1 fl2 v r waits
    have hv : v.queues = s.queues :=
      (keeps_releaseUnits (L := 0x220800cc210) rfl (keeps_reportInfo rfl (keeps_chargePhase rfl (.refl _ s) fl) _) _
        _).same .queues rfl
    split
    · exact .of_eq hv
    · exact (OnlyCtails.of_eq hv).trans (writeRecord_onlyCtails v fl2 r)

theorem settleFences_onlyCtails (n : Nat) : ∀ s : State, OnlyCtails s (s.settleFences n) := by
  induction n with
  | zero => exact fun s => .of_eq rfl
  | succ n ih =>
    intro s
    unfold State.settleFences
    dsimp only
    split
    · exact .of_eq rfl
    · exact (endFlight_onlyCtails s ..).trans (ih _)

theorem settle_onlyCtails (s : State) : OnlyCtails s s.settle := by
  have hregate (u : State) : u.regate.queues = u.queues := (keeps_regate (L := 0x40000) rfl (.refl _ u)).same .queues rfl
  have hblocked (u : State) : u.noteBlocked.queues = u.queues := by rw [State.noteBlocked]
  refine (settleFences_onlyCtails s.flights.length s).trans (.of_eq ?_)
  rw [State.settle, ltrUpdate_queues, hblocked, haltUpdate_queues, hregate]

/-- A stopped queue is stopped for its reason, with no entry on its way (R146). -/
theorem stopQueue_stopped (s : State) (q : QueueId) (reason : BitVec 16) :
    let x := (s.stopQueue q reason).queues[q]
    x.stopped = true ∧ x.reason = reason ∧ x.fetching = 0 := by
  rw [State.stopQueue, State.updQueue_queues, updAt_self]
  exact ⟨rfl, rfl, rfl⟩

theorem stopQueue_settle_stopped (s : State) (q : QueueId) (reason : BitVec 16) :
    let x := (s.stopQueue q reason).settle.queues[q]
    x.stopped = true ∧ x.reason = reason ∧ x.fetching = 0 := by
  obtain ⟨n, hn⟩ := (settle_onlyCtails (s.stopQueue q reason)).eq q
  rw [hn]
  exact stopQueue_stopped s q reason

end Sys2Proof.Machine
end

section
/-! Completions of outbound reads (R111, R127, R130, R146). -/

namespace Sys2Proof.Machine

theorem sendAer_aer_completionTimeout (s : State) : (s.sendAer .completionTimeout).aer.completionTimeout = true := by
  unfold State.sendAer
  extract_lets a b t
  split <;> rfl

/-- The read that a flight waits for leaves the flight findable when it changes. -/
theorem flight?_updFlight {s : State} {q : QueueId} {idx : Word} {f : Flight} {g : Flight → Flight}
    (hf : s.flight? q idx = some f) (hg : ∀ x, (g x).q = x.q ∧ (g x).idx = x.idx) :
    (s.updFlight q idx g).flight? q idx = some (g f) := by
  have hfound : f.is q idx = true := by simpa using List.find?_some hf
  have hcomp : ((fun x : Flight => x.is q idx) ∘ fun x => if x.is q idx then g x else x) = fun x => x.is q idx := by
    funext x
    have hgis : (g x).is q idx = x.is q idx := by rw [Flight.is, Flight.is, (hg x).1, (hg x).2]
    simp only [Function.comp]
    split
    · exact hgis
    · rfl
  unfold State.flight? State.updFlight at *
  rw [List.find?_map, hcomp, hf]
  simp [hfound]

/-! ## What translations and outbound windows depend on -/

section
variable {s t : State}

theorem walk_congr (hmem : t.mem = s.mem) (hpart : t.part = s.part) (va : Nat) (acc : Access) (n : Nat) :
    ∀ table, walk t va acc n table = walk s va acc n table := by
  induction n with
  | zero => exact fun _ => rfl
  | succ n ih =>
    intro table
    have hin (a k : Nat) : t.inHostMemory a k = s.inHostMemory a k := by rw [State.inHostMemory, State.inHostMemory, hpart]
    simp only [walk, hmem, hin, ih]

theorem translate_congr (hmem : t.mem = s.mem) (hpart : t.part = s.part) (hctx : t.ctxs = s.ctxs) (c : CtxId)
    (va : Nat) (acc : Access) : translate t c va acc = translate s c va acc := by
  simp only [translate, hctx, walk_congr hmem hpart]

theorem segments_congr (hmem : t.mem = s.mem) (hpart : t.part = s.part) (hctx : t.ctxs = s.ctxs) (c : CtxId)
    (va n : Nat) (acc : Access) : segments t c va n acc = segments s c va n acc := by
  simp only [segments, translate_congr hmem hpart hctx]

theorem readRuns_congr (hif : t.hostif = s.hostif) (noSnoop : Bool) (n : Nat) :
    ∀ a, readRuns t noSnoop a n = readRuns s noSnoop a n := by
  have hw (a : Nat) : t.windowOf a = s.windowOf a := by rw [State.windowOf, State.windowOf, hif]
  induction n with
  | zero => exact fun _ => rfl
  | succ n ih =>
    intro a
    simp only [readRuns, ih, hw]

theorem dueOf_congr {c : CtxId} {l : List Source} (hmem : t.mem = s.mem) (hpart : t.part = s.part)
    (hctx : t.ctxs = s.ctxs) (hif : t.hostif = s.hostif) : t.dueOf c l = s.dueOf c l := by
  simp only [State.dueOf, State.runsOf, State.sourceSegments, segments_congr hmem hpart hctx, readRuns_congr hif]

end

section
variable {s : State} {q : QueueId}

theorem execOutboundCompletion_entry {st : CplStatus} {k : AerKind} {code : BitVec 16} (ha : s.alive = true)
    (hact : s.queues[q].active = true) (hstop : s.queues[q].stopped = false) (hf : s.queues[q].fetching ≠ 0)
    (hst : cplError st = some (k, code)) :
    exec (.outboundCompletion (.entry q) st) s =
      .next (((s.updQueue q fun x => { x with fetching := s.queues[q].fetching - 1 }).sendAer k).sampleFailed q code) := by
  cases st with
  | data bytes => cases hst
  | _ => simp [-Fin.getElem_fin, exec, execOutboundCompletion, ha, hact, hstop, hf, hst]

theorem execOutboundCompletion_sampled {bs : List Byte} (ha : s.alive = true) (hact : s.queues[q].active = true)
    (hstop : s.queues[q].stopped = false) (hf : s.queues[q].fetching ≠ 0) (hbs : bs.length = 64) :
    exec (.outboundCompletion (.entry q) (.data bs)) s =
      .next ((s.updQueue q fun x => { x with fetching := s.queues[q].fetching - 1 }).sample q bs) := by
  have htake : (bs ++ List.replicate 64 0).take 64 = bs := by rw [← hbs, List.take_left]
  simp only [exec, execOutboundCompletion, ha, hact, hstop, hf, Bool.not_true, Bool.or_self, Bool.false_eq_true,
    decide_false, if_false, htake]

variable {idx : Word} {f : Flight}

theorem execOutboundCompletion_failed {st : CplStatus} {k : AerKind} {code : BitVec 16} (ha : s.alive = true)
    (hf : s.flight? q idx = some f) (haw : f.awaiting = true) (he : f.ended = false)
    (hst : cplError st = some (k, code)) :
    exec (.outboundCompletion (.command q idx) st) s =
      .next (((s.sendAer k).recordUnread f).fail q idx code).issueAll := by
  cases st with
  | data bytes => cases hst
  | _ => simp [-Fin.getElem_fin, exec, execOutboundCompletion, ha, hf, haw, he, hst]

/-- The bytes of a COPY's source gather. -/
theorem execOutboundCompletion_copy {src dst : BitVec 64} {len : Word} (bs : List Byte) (ha : s.alive = true)
    (hf : s.flight? q idx = some f) (haw : f.awaiting = true) (he : f.ended = false)
    (hop : f.entry.op = .copy src dst len) :
    let got := (f.buffer ++ bs).take f.requested
    let u := s.updFlight q idx fun x => { x with buffer := got, reads := x.reads.filter fun e => got.length < e }
    exec (.outboundCompletion (.command q idx) (.data bs)) s =
      if f.requested ≤ got.length ∧ (s.sourceDue f ≤ got.length ∨ f.phase.reads = false) then
        .next (u.updFlight q idx fun x => { x with awaiting := false, reads := [] }).issueAll
      else .next u.issueAll := by
  intro got u
  have hcame : u.sourceCame q idx = u.updFlight q idx fun x => { x with awaiting := false, reads := [] } := by
    have hu := flight?_updFlight (g := fun x => { x with
      buffer := got, reads := x.reads.filter fun e => got.length < e }) hf fun x => ⟨rfl, rfl⟩
    have hv := flight?_updFlight (g := fun x => { x with awaiting := false, reads := [] }) hu fun x => ⟨rfl, rfl⟩
    simp only [State.sourceCame]
    rw [hv]
    dsimp only
    rw [hop]
  have hall : (max f.requested (u.sourceDue f) ≤ got.length || (!f.phase.reads && f.requested ≤ got.length)) = true ↔
      f.requested ≤ got.length ∧ (s.sourceDue f ≤ got.length ∨ f.phase.reads = false) := by
    have hdue : u.sourceDue f = s.sourceDue f := dueOf_congr rfl rfl rfl rfl
    rw [hdue]
    cases f.phase.reads <;> simp
    omega
  simp only [exec, execOutboundCompletion, ha, hf, haw, he, Bool.not_true, Bool.or_self, Bool.false_eq_true, if_false]
  rw [← hcame]
  by_cases h : f.requested ≤ got.length ∧ (s.sourceDue f ≤ got.length ∨ f.phase.reads = false)
  · rw [if_pos h, if_pos (hall.2 h)]
  · rw [if_neg h, if_neg fun hc => h (hall.1 hc)]

theorem execOutboundCompletionTimeout_entry (ha : s.alive = true) (hd : s.cfg.ctoDisable = false)
    (hf : s.queues[q].fetching ≠ 0) :
    ∃ t, exec (.outboundCompletionTimeout (.entry q)) s = .next t ∧ t.aer.completionTimeout = true ∧
      t.queues[q].stopped = true ∧ t.queues[q].reason = 0x5005 ∧ t.queues[q].fetching = 0 := by
  simp only [exec, execOutboundCompletionTimeout, ha, hd, hf, Bool.not_true, Bool.or_self, Bool.false_eq_true, if_false]
  refine ⟨_, rfl, ?_, stopQueue_settle_stopped _ q 0x5005⟩
  rw [settle_aer]
  have haer (u : State) : (u.stopQueue q 0x5005).aer = u.aer :=
    (keeps_stopQueue (L := 0x89000) rfl (.refl _ u) _ _).same .aer rfl
  rw [haer, report_aer]
  exact sendAer_aer_completionTimeout s

end

/-- Settles O23: one lemma per purpose and status of a completion. -/
theorem outboundReadsComplete : Obligations.OutboundReadsComplete := by
  unfold Obligations.OutboundReadsComplete
  refine fun s ha => ⟨fun q hact hstop hf => ⟨fun bs hbs => ?_, ?_, ?_, ?_⟩, fun q idx f hf haw he =>
    ⟨fun src dst len bs hop => ⟨fun hn => ?_, fun hall => ?_⟩, ?_, ?_, ?_, fun hd => ?_⟩, fun q hd hf => ?_,
    fun hd p => ?_⟩
  · exact execOutboundCompletion_sampled ha hact hstop hf hbs
  · exact execOutboundCompletion_entry ha hact hstop hf rfl
  · exact execOutboundCompletion_entry ha hact hstop hf rfl
  · exact execOutboundCompletion_entry ha hact hstop hf rfl
  · rw [execOutboundCompletion_copy bs ha hf haw he hop, if_neg hn]
  · rw [execOutboundCompletion_copy bs ha hf haw he hop, if_pos hall]
  · exact execOutboundCompletion_failed ha hf haw he rfl
  · exact execOutboundCompletion_failed ha hf haw he rfl
  · exact execOutboundCompletion_failed ha hf haw he rfl
  · simp [exec, execOutboundCompletionTimeout, ha, hd, hf, haw, he]
  · obtain ⟨t, ht, haer, hstopped, hreason, hfetch⟩ := execOutboundCompletionTimeout_entry ha hd hf
    exact ⟨t, ht, haer, hstopped, hreason, hfetch, exec_frame ht⟩
  · simp [exec, execOutboundCompletionTimeout, hd]

end Sys2Proof.Machine
end

section
/-! Writes of QTABLE_QnCTRL (R142, R146, R147, R157). -/

namespace Sys2Proof.Machine

section
variable {s : State} {q : QueueId}

@[simp] theorem recordRegWrite_queues (s : State) (off v : Nat) : (s.recordRegWrite off v).queues = s.queues := record_queues ..
@[simp] theorem recordRegWrite_ready (s : State) (off v : Nat) : (s.recordRegWrite off v).ready = s.ready := record_ready ..

theorem exec_queueEnable (h : s.answers = true) : exec (.queueEnable q) s = .next (s.wakeSlack.writeQueueCtrl q 1) := by
  simp [exec, execQueueEnable, h]

theorem exec_queueDisable (h : s.answers = true) : exec (.queueDisable q) s = .next (s.wakeSlack.writeQueueCtrl q 0) := by
  simp [exec, execQueueDisable, h]

theorem exec_queueRestart (h : s.answers = true) : exec (.queueRestart q) s =
    .next (s.wakeSlack.writeQueueCtrl q (2 + if s.queues[q].en then 1 else 0)) := by
  simp [exec, execQueueRestart, h]

theorem writeQueueCtrl_replaying (h : s.replaying = true) (v : Nat) :
    s.writeQueueCtrl q v = s.note 0x4044 .information 0 := by
  simp [State.writeQueueCtrl, h, State.replayDrop]

theorem writeQueueCtrl_enable (h : s.replaying = false) : s.writeQueueCtrl q 1 =
    (s.recordRegWrite (0x2_0000 + 0x10 * q.val + 8) 1).enableQueue q := by
  simp [State.writeQueueCtrl, h, State.applyQueueCtrl]

theorem writeQueueCtrl_disable (h : s.replaying = false) : s.writeQueueCtrl q 0 =
    (s.recordRegWrite (0x2_0000 + 0x10 * q.val + 8) 0).disableQueue q := by
  simp [State.writeQueueCtrl, h, State.applyQueueCtrl]

theorem enableQueue_of_en (h : s.queues[q].en = true) : s.enableQueue q = s := if_pos h

theorem enableQueue_held (h : s.queues[q].en = false) (hr : s.ready.ready = false) :
    s.enableQueue q = s.updQueue q fun x => { x with en := true, enHeld := true } := by
  rw [State.enableQueue, if_neg (ne_true_of_eq_false h), if_neg (ne_true_of_eq_false hr)]

theorem enableQueue_taken (h : s.queues[q].en = false) (hr : s.ready.ready = true) : s.enableQueue q = s.takeEnable q := by
  rw [State.enableQueue, if_neg (ne_true_of_eq_false h), if_pos hr]

theorem disableQueue_of_not_en (h : s.queues[q].en = false) : s.disableQueue q = s := by
  rw [State.disableQueue, if_pos (by rw [h]; rfl)]

theorem disableQueue_of_held (h : s.queues[q].en = true) (hh : s.queues[q].enHeld = true) :
    s.disableQueue q = s.updQueue q fun x => { x with en := false, enHeld := false } := by
  rw [State.disableQueue, if_neg (by rw [h]; decide), if_pos hh]

theorem disableQueue_of_used (h : s.queues[q].en = true) (hh : s.queues[q].enHeld = false) :
    s.disableQueue q = ((s.discardUnstarted q).updQueue q fun x => { x with
      en := false, active := false, stopped := false, reason := 0, fetching := 0 }).settle := by
  rw [State.disableQueue, if_neg (by rw [h]; decide), if_neg (ne_true_of_eq_false hh)]

/-- A restart leaves EN as it stands. -/
theorem writeQueueCtrl_restart (h : s.replaying = false) :
    let v := 2 + if s.queues[q].en then 1 else 0
    s.writeQueueCtrl q v = (s.recordRegWrite (0x2_0000 + 0x10 * q.val + 8) v).updQueue q fun x =>
      { x with stopped := false } := by
  have hq (n : Nat) : (s.recordRegWrite (0x2_0000 + 0x10 * q.val + 8) n).queues[q].en = s.queues[q].en := by
    rw [recordRegWrite_queues]
  cases he : s.queues[q].en with
  | true =>
    have hen := enableQueue_of_en (s := s.recordRegWrite (0x2_0000 + 0x10 * q.val + 8) 3) ((hq 3).trans he)
    simp [State.writeQueueCtrl, h, State.applyQueueCtrl, hen, State.restartQueue]
  | false =>
    have hen := disableQueue_of_not_en (s := s.recordRegWrite (0x2_0000 + 0x10 * q.val + 8) 2) ((hq 2).trans he)
    simp [State.writeQueueCtrl, h, State.applyQueueCtrl, hen, State.restartQueue]

end

/-- Settles O24: one lemma per write and state of EN. -/
theorem queueControlEnablesAndStops : Obligations.QueueControlEnablesAndStops := by
  unfold Obligations.QueueControlEnablesAndStops
  intro s q ha taken
  have hq (v : Nat) : (taken v).queues[q] = s.queues[q] := by
    unfold taken; rw [recordRegWrite_queues, wakeSlack_queues]
  have hr (v : Nat) : (taken v).ready = s.ready := by unfold taken; rw [recordRegWrite_ready, wakeSlack_ready]
  refine ⟨fun hrep c hc => ?_, fun hrep => ?_⟩
  · have hw : s.wakeSlack.replaying = true := by rw [wakeSlack_replaying, hrep]
    have hdrop (v : Nat) := writeQueueCtrl_replaying (q := q) hw v
    simp only [List.mem_cons, List.not_mem_nil, or_false] at hc
    rcases hc with rfl | rfl | rfl
    · rw [exec_queueEnable ha, hdrop]
    · rw [exec_queueDisable ha, hdrop]
    · rw [exec_queueRestart ha, hdrop]
  · have hw : s.wakeSlack.replaying = false := by rw [wakeSlack_replaying, hrep]
    have hon : exec (.queueEnable q) s = .next ((taken 1).enableQueue q) := by
      rw [exec_queueEnable ha, writeQueueCtrl_enable hw]
    have hoff : exec (.queueDisable q) s = .next ((taken 0).disableQueue q) := by
      rw [exec_queueDisable ha, writeQueueCtrl_disable hw]
    refine ⟨fun hen => ⟨fun hready => ?_, fun h hready hh => ?_, fun hready hh => ?_, ?_⟩,
      fun hen => ⟨?_, fun hheld => ?_, fun hheld => ?_⟩, ?_⟩
    · rw [hon, enableQueue_held (by rw [hq, hen]) (by rw [hr, hready])]
    · rw [hon, enableQueue_taken (by rw [hq, hen]) (by rw [hr, hready]), State.takeEnable, hh]
    · rw [hon, enableQueue_taken (by rw [hq, hen]) (by rw [hr, hready]), State.takeEnable, hh]
    · rw [hoff, disableQueue_of_not_en (by rw [hq, hen])]
    · rw [hon, enableQueue_of_en (by rw [hq, hen])]
    · rw [hoff, disableQueue_of_held (by rw [hq, hen]) (by rw [hq, hheld])]
    · rw [hoff, disableQueue_of_used (by rw [hq, hen]) (by rw [hq, hheld])]
    · have h := writeQueueCtrl_restart (q := q) hw
      rw [wakeSlack_queues] at h
      rw [exec_queueRestart ha, h]

end Sys2Proof.Machine
end

section
/-! Eligibility (R139, R140, R465, R467). -/

namespace Sys2Proof.Machine

theorem advanceTo_reaches (s : State) (t : Tick) : t.toNat ≤ (s.advanceTo t).now.toNat := by
  unfold State.advanceTo
  split
  · exact Nat.le_refl _
  next h => exact Nat.le_of_not_lt h

/-- The command at the front of a queue's commands that are not eligible is one of the queue. -/
theorem nextEligible_queue {s : State} {q : QueueId} {f : Flight} (h : s.nextEligible q = some f) : f.q = q := by
  have hf := List.find?_some h
  simp only [Bool.and_eq_true, decide_eq_true_eq] at hf
  obtain ⟨⟨hq, -⟩, -⟩ := hf
  exact hq

section
variable {s : State} {q : QueueId} {f : Flight}

/-- The command becomes eligible where no recorded decision on its predicate is awaited. -/
theorem exec_commandEligible (hf : s.fwUp = true) (hr : s.ready.ready = true) (hh : s.haltHolds = false)
    (hp : s.env.power = .d0) (hn : s.nextEligible q = some f) (ho : s.orderOk f = true) :
    exec (.commandEligible q) s =
      if s.deciding = true ∧ f.entry.predCmp ≠ 0 ∧ s.decision 0x05 q f.idx = none then .next s
      else .next ((if s.replaying then s else s.advanceTo f.entry.launch).becomeEligible f) := by
  simp [exec, execCommandEligible, hf, hr, hh, hp, hn, ho, and_assoc]

theorem skips_own (h : s.decision 0x05 f.q f.idx = none) : s.skips f = s.ownSkip f := by
  rw [State.skips, h]

/-- The state in which the tests are made. -/
def eligibleNow (s : State) (f : Flight) : State :=
  (s.updFlight f.q f.idx fun x => { x with eligible := true, eligibleAt := s.now, haltTicks := 0 }).trace 2
    (qi f.q f.idx) s.now.toNat

theorem becomeEligible_fault {reason : BitVec 16} (h : (eligibleNow s f).eligibleFault f = some reason) :
    s.becomeEligible f = ((eligibleNow s f).recordBare f).fail f.q f.idx reason := by
  unfold eligibleNow at h ⊢
  simp only [State.becomeEligible, h]

theorem becomeEligible_waits (h : (eligibleNow s f).eligibleFault f = none)
    (hp : f.entry.predCmp = 0 ∨ (eligibleNow s f).skips f = false) :
    s.becomeEligible f = ((eligibleNow s f).notePredicate f).awaitStart f := by
  unfold eligibleNow at h hp ⊢
  simp only [State.becomeEligible, h]
  rw [if_neg]
  rcases hp with hp | hp
  · simp [hp]
  · simp [hp]

theorem becomeEligible_skipped (h : (eligibleNow s f).eligibleFault f = none) (hc : f.entry.predCmp ≠ 0)
    (hp : (eligibleNow s f).skips f = true) :
    s.becomeEligible f = (((((eligibleNow s f).notePredicate f).trace 5 (qi f.q f.idx)
      ((eligibleNow s f).flag f.entry.predFlag).toNat).recordBare f).endFlight f.q f.idx 2 0).settle := by
  unfold eligibleNow at h hp ⊢
  simp only [State.becomeEligible, h]
  rw [if_pos (Bool.and_eq_true_iff.2 ⟨decide_eq_true hc, hp⟩)]

theorem eligibleFault_malformed (hm : f.entry.malformed = true) : s.eligibleFault f = some 0x5001 := if_pos hm

theorem eligibleFault_feature (hm : f.entry.malformed = false) (hfe : s.featureOk f.entry.op = false) :
    s.eligibleFault f = some 0x5002 := by
  simp [State.eligibleFault, hm, hfe]

theorem eligibleFault_context (hm : f.entry.malformed = false) (hfe : s.featureOk f.entry.op = true)
    (hn : f.entry.op.namesContext = true) (hv : s.ctxs[f.entry.ctx].valid = false) :
    s.eligibleFault f = some 0x500A := by
  simp [-Fin.getElem_fin, State.eligibleFault, hm, hfe, hn, hv]

end

/-- Settles O26: the tests in their order, each a lemma about `eligibleFault`. -/
theorem eligibilityTestsInOrder : Obligations.EligibilityTestsInOrder := by
  unfold Obligations.EligibilityTestsInOrder
  intro s q f hf hr hh hp hn ho unknown u v
  have hexec := exec_commandEligible hf hr hh hp hn ho
  refine ⟨fun hrep => ?_, fun hd => skips_own hd, fun hu => by rw [hexec, if_pos hu], fun hu => ?_⟩
  · have hu : u = s.advanceTo f.entry.launch := if_neg (ne_true_of_eq_false hrep)
    rw [hu]
    exact advanceTo_reaches s _
  rw [if_neg hu] at hexec
  have hv : v = eligibleNow u f := rfl
  change exec (.commandEligible q) s = .next (u.becomeEligible f) at hexec
  rw [hexec, hv]
  clear_value u
  refine ⟨fun hm => ?_, fun hm hfe => ?_, fun hm hfe hnm hctx => ?_, fun hno hs => ?_, fun hno hc hs => ?_⟩
  · rw [becomeEligible_fault (eligibleFault_malformed hm)]
  · rw [becomeEligible_fault (eligibleFault_feature hm hfe)]
  · rw [becomeEligible_fault (eligibleFault_context hm hfe hnm hctx)]
  · rw [becomeEligible_waits hno hs]
  · rw [becomeEligible_skipped hno hc hs]

end Sys2Proof.Machine
end

section
/-! Commands that take no shared resource (R127, R137, R138, R149, R150, R467). -/

namespace Sys2Proof.Machine

theorem flagTrue_never (flag value : Word) : flagTrue 0 flag value = false := rfl
theorem flagTrue_eq {flag value : Word} : flagTrue 1 flag value = true ↔ flag = value := decide_eq_true_iff
theorem flagTrue_ne {flag value : Word} : flagTrue 2 flag value = true ↔ flag ≠ value := decide_eq_true_iff
theorem flagTrue_ge {flag value : Word} : flagTrue 3 flag value = true ↔ value ≤ flag := decide_eq_true_iff
theorem flagTrue_lt {flag value : Word} : flagTrue 4 flag value = true ↔ flag < value := decide_eq_true_iff

theorem setFlag_flags (s : State) (g : FlagId) (v : Word) : (s.setFlag g v).flags = s.flags.set g.val v :=
  ((keeps_wakeWaits (L := 0x220800cd2d0) rfl _ (.refl _ (s.putFlag g v)) g).same .flags rfl :
    (State.wakeWaits g _ (s.putFlag g v)).flags = _)

section
variable {s : State} {q : QueueId} {idx : Word} {f : Flight}

theorem onStart_eq (hf : s.fwUp = true) (hs : s.startable? q idx = some f) (body : Flight → State → State) :
    s.onStart q idx body = body f s := by
  rw [State.onStart, hs]
  exact if_pos hf

theorem exec_nop_started (hf : s.fwUp = true) (hs : s.startable? q idx = some f) (hop : f.entry.op = .nop) :
    exec (.nop q idx) s = .next ((s.startFlight q idx).finish q idx 0) := by
  simp only [exec, execNop, onStart_eq hf hs, hop]

theorem exec_flagSet_started {g : FlagId} {v : Word} (hf : s.fwUp = true) (hs : s.startable? q idx = some f)
    (hop : f.entry.op = .flagSet g v) :
    exec (.flagSet q idx) s = .next (((s.startFlight q idx).setFlag g v).finish q idx 0) := by
  simp only [exec, execFlagSet, onStart_eq hf hs, hop]

theorem exec_flagAdd_started {g : FlagId} {v : Word} (hf : s.fwUp = true) (hs : s.startable? q idx = some f)
    (hop : f.entry.op = .flagAdd g v) :
    exec (.flagAdd q idx) s = .next (((s.startFlight q idx).setFlag g (s.flag g + v)).finish q idx 0) := by
  have hflag : (s.startFlight q idx).flag g = s.flag g := by rw [State.flag, startFlight_flags, State.flag]
  simp only [exec, execFlagAdd, onStart_eq hf hs, hop, State.addFlag, hflag]

theorem finish_setFlag_flags (g : FlagId) (v : Word) :
    (((s.startFlight q idx).setFlag g v).finish q idx 0).flags = s.flags.set g.val v := by
  rw [finish_flags, setFlag_flags, startFlight_flags]

theorem exec_fence_started {scope : Nat} (hf : s.fwUp = true) (hs : s.startable? q idx = some f)
    (hop : f.entry.op = .fence scope) : exec (.fence q idx) s = .next (s.startFlight q idx).settle := by
  simp only [exec, execFence, onStart_eq hf hs, hop]

theorem exec_timestamp_fault {dst : BitVec 64} {e : MmuFault} (hf : s.fwUp = true)
    (hs : s.startable? q idx = some f) (hop : f.entry.op = .timestamp dst)
    (he : firstFault (s.startFlight q idx) f.entry.ctx dst.toNat 8 .write = some e) :
    exec (.timestamp q idx) s = .next ((s.startFlight q idx).mmuFail q idx e) := by
  simp only [exec, execTimestamp, onStart_eq hf hs, hop, he]

theorem exec_timestamp_written {dst : BitVec 64} (hf : s.fwUp = true)
    (hs : s.startable? q idx = some f) (hop : f.entry.op = .timestamp dst)
    (he : firstFault (s.startFlight q idx) f.entry.ctx dst.toNat 8 .write = none) :
    let u := s.startFlight q idx
    let v := writeVa u f.entry.ctx dst.toNat (leBytes 8 s.now.toNat)
    exec (.timestamp q idx) s =
      .next (if u.outside f.entry.ctx dst.toNat 8 .write then v.fail q idx 0x5006 else v.finish q idx 0) := by
  have hnow : (s.startFlight q idx).now = s.now := by rw [State.now, startFlight_tide, State.now]
  have hwrite : (Access.write != Access.write) = false := rfl
  simp only [exec, execTimestamp, onStart_eq hf hs, hop, he, hnow, State.outside, hwrite]

theorem exec_flagWait_started {g : FlagId} {cmp : BitVec 3} {v : Word} {timeout : BitVec 64} (hf : s.fwUp = true)
    (hs : s.startable? q idx = some f) (hop : f.entry.op = .flagWait g cmp v timeout) :
    let u := s.updFlight q idx fun x => { x with phase := .waiting, waitFrom := s.now, startAt := s.now }
    exec (.flagWait q idx) s = .next (match u.decision 0x06 q idx with
      | some d => u.fail q idx d.reason
      | none => if flagTrue cmp (s.flag g) v then
          ((u.updFlight q idx fun x => { x with started := true }).trace 3 (qi q idx) 0).finish q idx 0
        else u.noteBlocked) := by
  simp only [exec, execFlagWait, onStart_eq hf hs, hop]
  rfl

theorem exec_flagWaitTimeout {g : FlagId} {cmp : BitVec 3} {v : Word} {timeout : BitVec 64} (hf : s.fwUp = true)
    (hop : f.entry.op = .flagWait g cmp v timeout) (hfl : s.flight? q idx = some f) (hw : f.phase = .waiting)
    (hh : s.haltHolds = false) (hd : s.deciding = false) :
    exec (.flagWaitTimeout q idx) s =
      .next (if timeout ≠ 0 then (s.advanceTo (f.waitFrom + timeout)).failWait q idx 0x8002 else s) := by
  simp only [exec, execFlagWaitTimeout, hf, hop, hfl, hw, hh, hd, Bool.not_true, Bool.or_self, Bool.false_eq_true,
    if_false, decide_true, Bool.true_and, decide_eq_true_eq]
  split
  · rfl
  · rfl

end

theorem decisionsAhead_congr {s t : State} (hm : t.mem = s.mem) (hr : t.recorder = s.recorder) (n : Nat) :
    ∀ unit room, t.decisionsAhead n unit room = s.decisionsAhead n unit room := by
  have hunits : t.recUnits = s.recUnits := by rw [State.recUnits, State.recUnits, hr]
  have hunit (i : Nat) : t.replayUnit i = s.replayUnit i := by rw [State.replayUnit, State.replayUnit, hr, hunits]
  induction n with
  | zero => exact fun _ _ => rfl
  | succ n ih =>
    intro unit room
    simp only [State.decisionsAhead, State.entryUnits, State.decisionCodeOk, State.readDecision, hm, hunits, hunit, ih]

/-- The recorded decisions stand in memory and in the recorder. -/
theorem decision_congr {s t : State} (hm : t.mem = s.mem) (hr : t.recorder = s.recorder) (kind : Nat) (q : QueueId)
    (idx : Word) : t.decision kind q idx = s.decision kind q idx := by
  simp only [State.decision, State.decisionsOn, State.replaying, State.applying, hr, decisionsAhead_congr hm hr]
  rfl

/-- Settles O27: one lemma per command. -/
theorem commandsWithoutResourcesRun : Obligations.CommandsWithoutResourcesRun := by
  unfold Obligations.CommandsWithoutResourcesRun
  refine ⟨fun flag value => ⟨flagTrue_never .., flagTrue_eq, flagTrue_ne, flagTrue_ge, flagTrue_lt⟩,
    fun s q idx f hf hs => ⟨exec_nop_started hf hs, fun g v hop => ?_, fun g v hop => ?_,
      fun scope hop => exec_fence_started hf hs hop, fun dst hop => ⟨fun e he => exec_timestamp_fault hf hs hop he,
        fun he => ⟨fun hout => ?_, fun hout => ?_⟩⟩⟩,
    fun s q idx f g cmp v timeout hf hop => ⟨fun hs => ⟨fun d hd => ?_, fun hd => ⟨fun ht => ?_, fun ht => ?_⟩⟩,
      fun hfl hw hh hd => ⟨fun ht => ?_, fun ht => ?_⟩, fun h => ?_⟩⟩
  · have ht := exec_flagSet_started hf hs hop
    exact ⟨_, ht, rfl, finish_setFlag_flags g v, exec_frame ht⟩
  · have ht := exec_flagAdd_started hf hs hop
    exact ⟨_, ht, rfl, finish_setFlag_flags g _, exec_frame ht⟩
  · rw [exec_timestamp_written hf hs hop he, if_neg (ne_true_of_eq_false hout)]
  · rw [exec_timestamp_written hf hs hop he, if_pos hout]
  · rw [exec_flagWait_started hf hs hop]
    simp only [decision_congr (s := s) (t := State.updFlight s _ _ _) rfl rfl, hd]
  · rw [exec_flagWait_started hf hs hop]
    simp only [decision_congr (s := s) (t := State.updFlight s _ _ _) rfl rfl, hd, ht, if_true]
  · rw [exec_flagWait_started hf hs hop]
    simp only [decision_congr (s := s) (t := State.updFlight s _ _ _) rfl rfl, hd, ht, Bool.false_eq_true, if_false]
  · rw [exec_flagWaitTimeout hf hop hfl hw hh hd, if_pos ht]
  · rw [exec_flagWaitTimeout hf hop hfl hw hh hd, if_neg (not_not.2 ht)]
  · rcases h with h | h <;> simp [exec, execFlagWaitTimeout, h]

end Sys2Proof.Machine
end

section
/-! The sweep (R123, R144, R447, R465). -/

namespace Sys2Proof.Machine

/-- A fold whose step does nothing at the members of the list. -/
theorem foldl_idle {α β : Type} {f : β → α → β} {l : List α} {b : β} (h : ∀ a ∈ l, f b a = b) : l.foldl f b = b := by
  induction l with
  | nil => rfl
  | cons a l ih =>
    rw [List.foldl_cons, h a List.mem_cons_self]
    exact ih fun x hx => h x (List.mem_cons_of_mem a hx)

/-- The order in which a sweep visits the queues. -/
def sweepOrder (s : State) : List QueueId :=
  (List.finRange 256).map fun i => Fin.ofNat 256 (s.sched.sweepFirst + i.val)

/-- How far a queue lies from where the sweep starts. -/
def sweepDistance (s : State) (q : QueueId) : Nat := (q.val + 256 - s.sched.sweepFirst) % 256

/-- Where the next sweep starts. -/
def nextSweepFirst (s : State) : Nat :=
  (((sweepOrder s).find? fun i => s.queues[i].active).map fun i => i.val + 1).getD s.sched.sweepFirst % 256

/-- The Tide has reached the sweep, and its trace point is passed. -/
def sweepReached (s : State) : State :=
  let u := s.advanceTo s.sched.nextSweep
  u.trace 0 (u.queues.toList.filter (·.active)).length u.sched.sweeps

/-- The state in which a sweep visits the queues. -/
def sweepBegun (s : State) : State :=
  let u := sweepReached s
  { u with sched := { u.sched with
      sweepFirst := nextSweepFirst u, sweeps := u.sched.sweeps + 1, haltSpans := []
      nextSweep := u.now + BitVec.ofNat 64 u.hostif.qsweep.toNat } }

theorem advanceTo_queues (s : State) (t : Tick) : (s.advanceTo t).queues = s.queues := by
  unfold State.advanceTo; split <;> rfl
theorem advanceTo_sched (s : State) (t : Tick) : (s.advanceTo t).sched = s.sched := by
  unfold State.advanceTo; split <;> rfl
theorem advanceTo_flights (s : State) (t : Tick) : (s.advanceTo t).flights = s.flights := by
  unfold State.advanceTo; split <;> rfl
theorem advanceTo_hostif (s : State) (t : Tick) : (s.advanceTo t).hostif = s.hostif := by
  unfold State.advanceTo; split <;> rfl
theorem advanceTo_recorder (s : State) (t : Tick) : (s.advanceTo t).recorder = s.recorder := by
  unfold State.advanceTo; split <;> rfl

theorem sweepReached_queues (s : State) : (sweepReached s).queues = s.queues :=
  (trace_queues ..).trans (advanceTo_queues ..)
theorem sweepReached_sched (s : State) : (sweepReached s).sched = s.sched :=
  (trace_sched ..).trans (advanceTo_sched ..)
theorem sweepReached_hostif (s : State) : (sweepReached s).hostif = s.hostif :=
  (trace_hostif ..).trans (advanceTo_hostif ..)

theorem sweepOrder_reached (s : State) : sweepOrder (sweepReached s) = sweepOrder s := by
  rw [sweepOrder, sweepReached_sched, sweepOrder]

theorem sweepBegun_queues (s : State) : (sweepBegun s).queues = s.queues := sweepReached_queues s
theorem sweepBegun_sched (s : State) : (sweepBegun s).sched = { s.sched with
    sweepFirst := nextSweepFirst s, sweeps := s.sched.sweeps + 1, haltSpans := []
    nextSweep := (sweepBegun s).now + BitVec.ofNat 64 s.hostif.qsweep.toNat } := by
  have hnext : nextSweepFirst (sweepReached s) = nextSweepFirst s := by
    simp only [nextSweepFirst, sweepOrder_reached, sweepReached_queues, sweepReached_sched]
  have hnow : (sweepBegun s).now = (sweepReached s).now := rfl
  rw [hnow, sweepBegun, hnext, sweepReached_sched, sweepReached_hostif]
theorem sweepBegun_flights (s : State) : (sweepBegun s).flights = s.flights :=
  (trace_flights ..).trans (advanceTo_flights ..)
theorem sweepBegun_now (s : State) : (sweepBegun s).now = (s.advanceTo s.sched.nextSweep).now :=
  congrArg Tide.count (trace_tide ..)

section
variable {s : State}

theorem sweepOrder_length (s : State) : (sweepOrder s).length = 256 := by simp [sweepOrder]

theorem sweepOrder_val (s : State) (i : Nat) (h : i < (sweepOrder s).length) :
    (sweepOrder s)[i].val = (s.sched.sweepFirst + i) % 256 := by
  simp [sweepOrder]

theorem sweepDistance_lt (s : State) (q : QueueId) : sweepDistance s q < (sweepOrder s).length := by
  rw [sweepOrder_length]
  exact Nat.mod_lt _ (by decide)

theorem sweepOrder_distance (hf : s.sched.sweepFirst < 256) (q : QueueId) :
    (sweepOrder s)[sweepDistance s q]'(sweepDistance_lt s q) = q := by
  apply Fin.ext
  have hq := q.isLt
  rw [sweepOrder_val, sweepDistance]
  omega

theorem sweepDistance_order (hf : s.sched.sweepFirst < 256) (i : Nat) (h : i < (sweepOrder s).length) :
    sweepDistance s (sweepOrder s)[i] = i := by
  rw [sweepDistance, sweepOrder_val]
  rw [sweepOrder_length] at h
  omega

/-- The next sweep starts after the enabled queue that this one visits first. -/
theorem nextSweepFirst_of_nearest (hf : s.sched.sweepFirst < 256) {q : QueueId} (hq : s.queues[q].active = true)
    (hnear : ∀ p : QueueId, s.queues[p].active = true → sweepDistance s q ≤ sweepDistance s p) :
    nextSweepFirst s = (q.val + 1) % 256 := by
  have hfind : (sweepOrder s).find? (fun i => s.queues[i].active) = some q := by
    refine List.find?_eq_some_iff_getElem.2 ⟨hq, sweepDistance s q, sweepDistance_lt s q, sweepOrder_distance hf q,
      fun j hj => ?_⟩
    have hlen := Nat.lt_trans hj (sweepDistance_lt s q)
    cases hact : s.queues[(sweepOrder s)[j]].active with
    | false => rfl
    | true =>
      have hle := hnear _ hact
      rw [sweepDistance_order hf] at hle
      omega
  rw [nextSweepFirst, hfind]
  rfl

theorem nextSweepFirst_of_none (hf : s.sched.sweepFirst < 256) (h : ∀ q : QueueId, s.queues[q].active = false) :
    nextSweepFirst s = s.sched.sweepFirst := by
  have hfind : (sweepOrder s).find? (fun i => s.queues[i].active) = none :=
    List.find?_eq_none.2 fun i _ => ne_true_of_eq_false (h i)
  rw [nextSweepFirst, hfind]
  exact Nat.mod_eq_of_lt hf

theorem exec_queueSweep (hf : s.fwUp = true) (hr : s.ready.ready = true) (hp : s.env.power = .d0) :
    exec .queueSweep s = .next (if s.replaying then (sweepBegun s).wakeAll
      else (sweepOrder s).foldl State.sweepQueue (sweepBegun s).wakeAll) := by
  have hrep : (sweepBegun s).wakeAll.replaying = s.replaying := by
    have hrec : (sweepBegun s).wakeAll.recorder = s.recorder :=
      ((keeps_wakeAll (L := 0x220800cd2d0) rfl (.refl _ _)).same .recorder rfl).trans
        ((trace_recorder ..).trans (advanceTo_recorder ..))
    rw [State.replaying, hrec, State.replaying]
  rw [← hrep, ← sweepOrder_reached]
  simp only [exec, execQueueSweep, hf, hr, hp, Bool.not_true, Bool.or_self, Bool.false_eq_true, ne_eq, not_true,
    decide_false, if_false]
  by_cases h : (sweepBegun s).wakeAll.replaying = true
  · rw [if_pos h]
    exact if_pos h
  · rw [if_neg h]
    exact if_neg h

/-- What a sweep visits leaves the rotation and the Tide. -/
theorem exec_queueSweep_fields (hf : s.fwUp = true) (hr : s.ready.ready = true) (hp : s.env.power = .d0) :
    ∃ t, exec .queueSweep s = .next t ∧ t.sched = (sweepBegun s).sched ∧ t.now = (sweepBegun s).now := by
  refine ⟨_, exec_queueSweep hf hr hp, ?_⟩
  have hwake := keeps_wakeAll (L := 0x224800cd2d0) rfl (.refl _ (sweepBegun s))
  have hsweep := keeps_foldl hwake (l := sweepOrder s) fun _ q h => keeps_sweepQueue rfl h q
  split
  · exact ⟨hwake.same .sched rfl, congrArg Tide.count (hwake.same .tide rfl)⟩
  · exact ⟨hsweep.same .sched rfl, congrArg Tide.count (hsweep.same .tide rfl)⟩

theorem wakeAll_of_none_waits (h : ∀ f ∈ s.flights, f.phase ≠ .waiting) : s.wakeAll = s := by
  unfold State.wakeAll
  refine foldl_idle fun f hf => ?_
  split
  · exact if_neg (h f hf)
  · rfl

theorem sweepQueue_of_idle {q : QueueId} (h : s.queues[q].active = false) : s.sweepQueue q = s := by
  rw [State.sweepQueue, if_pos (by rw [h]; rfl)]

theorem exec_queueSweep_idle (hf : s.fwUp = true) (hr : s.ready.ready = true) (hp : s.env.power = .d0)
    (hidle : s.replaying = true ∨ ∀ q : QueueId, s.queues[q].active = false)
    (hwait : ∀ f ∈ s.flights, f.phase ≠ .waiting) : exec .queueSweep s = .next (sweepBegun s) := by
  rw [exec_queueSweep hf hr hp, wakeAll_of_none_waits (by rwa [sweepBegun_flights])]
  rcases hidle with hrep | hact
  · rw [if_pos hrep]
  · rw [foldl_idle fun q _ => sweepQueue_of_idle (by rw [sweepBegun_queues, hact])]
    split <;> rfl

theorem sweepQueue_samples {q : QueueId} (ha : s.queues[q].active = true) (hs : s.queues[q].stopped = false)
    (hfit : (s.headerWord q 0x10 - s.queues[q].head).toNat ≤ 2 ^ s.queues[q].hdr.ringLog2)
    (hfetch : s.queues[q].fetching = 0) :
    s.sweepQueue q = State.sampleSome q (min 16 (s.headerWord q 0x10 - s.queues[q].head).toNat) s := by
  simp only [State.sweepQueue, ha, hs, hfetch, Bool.not_true, Bool.or_self, Bool.false_eq_true, if_false,
    Nat.not_lt.2 hfit, Nat.lt_irrefl]

theorem sweepQueue_stops {q : QueueId} (ha : s.queues[q].active = true) (hs : s.queues[q].stopped = false)
    (hfar : 2 ^ s.queues[q].hdr.ringLog2 < (s.headerWord q 0x10 - s.queues[q].head).toNat) :
    s.sweepQueue q = (State.stopQueue (s.report
      { reason := 0x500C, severity := .contained, queue := BitVec.ofNat 16 q.val, index := s.queues[q].head }) q 0x500C).settle := by
  simp only [State.sweepQueue, ha, hs, Bool.not_true, Bool.or_self, Bool.false_eq_true, if_false, hfar, if_true]

end

/-- Settles O25: the rotation (`nextSweepFirst`), the idle sweep and one queue's part are lemmas. -/
theorem sweepRotatesOverTheQueues : Obligations.SweepRotatesOverTheQueues := by
  unfold Obligations.SweepRotatesOverTheQueues
  refine ⟨fun s hf hr hp hfirst => ?_, fun s q ha hs => ⟨sweepQueue_samples ha hs, sweepQueue_stops ha hs⟩⟩
  obtain ⟨t, ht, hsched, hnow⟩ := exec_queueSweep_fields hf hr hp
  rw [sweepBegun_now] at hnow
  refine ⟨t, ht, fun q hq hnear => ?_, fun hnone => ?_, by rw [hsched, sweepBegun_sched], by rw [hsched, sweepBegun_sched], hnow,
    by rw [hsched, sweepBegun_sched, sweepBegun_now, hnow], fun hidle hwait => ?_, exec_frame ht⟩
  · rw [hsched, sweepBegun_sched]
    exact nextSweepFirst_of_nearest hfirst hq hnear
  · rw [hsched, sweepBegun_sched]
    exact nextSweepFirst_of_none hfirst hnone
  · rw [exec_unique ht (exec_queueSweep_idle hf hr hp hidle hwait)]
    exact ⟨sweepBegun_flights s, sweepBegun_queues s⟩

end Sys2Proof.Machine
end

section
/-! HALT_ALL and what settles after it (R122–R125). -/

namespace Sys2Proof.Machine

/-- HOSTIF stands but for HALTED, which a halt may set. -/
structure HaltSettles (s t : State) : Prop where
  cases : t.hostif = s.hostif ∨ s.hostif.halt = true ∧ t.hostif = { s.hostif with halted := true }

theorem HaltSettles.of_eq {s t : State} (h : t.hostif = s.hostif) : HaltSettles s t := ⟨.inl h⟩

theorem HaltSettles.trans {s t u : State} (h : HaltSettles s t) (k : HaltSettles t u) : HaltSettles s u := by
  rcases h with ⟨h | ⟨hh, h⟩⟩
  · rcases k with ⟨k | ⟨kh, k⟩⟩
    · exact ⟨.inl (k.trans h)⟩
    · exact ⟨.inr ⟨h ▸ kh, by rw [k, h]⟩⟩
  · rcases k with ⟨k | ⟨-, k⟩⟩
    · exact ⟨.inr ⟨hh, k.trans h⟩⟩
    · exact ⟨.inr ⟨hh, by rw [k, h]⟩⟩

theorem HaltSettles.halt {s t : State} (h : HaltSettles s t) : t.hostif.halt = s.hostif.halt := by
  rcases h with ⟨h | ⟨-, h⟩⟩ <;> rw [h]

theorem HaltSettles.preempt {s t : State} (h : HaltSettles s t) : t.hostif.preempt = s.hostif.preempt := by
  rcases h with ⟨h | ⟨-, h⟩⟩ <;> rw [h]

/-- Without a halt HOSTIF stands. -/
theorem HaltSettles.eq_of_not_halt {s t : State} (h : HaltSettles s t) (hs : s.hostif.halt = false) :
    t.hostif = s.hostif := by
  rcases h with ⟨h | ⟨hh, -⟩⟩
  · exact h
  · cases hs.symm.trans hh

theorem haltUpdate_settles (s : State) : HaltSettles s s.haltUpdate := by
  unfold State.haltUpdate
  split
  next h =>
    simp only [Bool.and_eq_true] at h
    obtain ⟨⟨hh, -⟩, -⟩ := h
    exact ⟨.inr ⟨hh, rfl⟩⟩
  next => exact .of_eq rfl

theorem haltUpdate_halted {s : State} (hh : s.hostif.halt = true) (hf : ∀ f ∈ s.flights, f.holdsHalt = false) :
    s.haltUpdate.hostif.halted = true := by
  have hany : s.flights.any (·.holdsHalt) = false := List.any_eq_false.2 fun f h => ne_true_of_eq_false (hf f h)
  cases hd : s.hostif.halted with
  | true => simp [State.haltUpdate, hd]
  | false => simp [State.haltUpdate, hd, hh, hany]

theorem settle_settles (s : State) : HaltSettles s s.settle := by
  have hfences : HaltSettles s (s.settleFences s.flights.length).regate :=
    .of_eq ((keeps_regate (L := 0x220800cd210) rfl (keeps_settleFences rfl _ (.refl _ s))).same .hostif rfl)
  have hrest (u : State) : HaltSettles u u.noteBlocked.ltrUpdate :=
    .of_eq ((keeps_ltrUpdate (L := 0x20000004080) rfl (keeps_noteBlocked rfl (.refl _ u))).same .hostif rfl)
  exact (hfences.trans (haltUpdate_settles _)).trans (hrest _)

theorem finish_settles (s : State) (q : QueueId) (idx : Word) (reason : BitVec 16) :
    HaltSettles s (s.finish q idx reason) :=
  (HaltSettles.of_eq ((keeps_endFlight (L := 0x220800cd210) rfl (.refl _ s) _ _ _ _).same .hostif rfl)).trans
    (settle_settles _)

theorem wakeWaits_settles (f : FlagId) (n : Nat) : ∀ s : State, HaltSettles s (State.wakeWaits f n s) := by
  induction n with
  | zero => exact fun s => .of_eq rfl
  | succ n ih =>
    intro s
    unfold State.wakeWaits
    split
    · exact .of_eq rfl
    split
    · exact .of_eq rfl
    next x _ =>
      extract_lets u
      have hu : HaltSettles s u := .of_eq (trace_hostif ..)
      exact (hu.trans (finish_settles u ..)).trans (ih _)

theorem foldl_settles {α : Type} {f : State → α → State} (h : ∀ s a, HaltSettles s (f s a)) (l : List α) :
    ∀ s, HaltSettles s (l.foldl f s) := by
  induction l with
  | nil => exact fun s => .of_eq rfl
  | cons a l ih => exact fun s => (h s a).trans (ih _)

theorem wakeAll_settles (s : State) : HaltSettles s s.wakeAll := by
  unfold State.wakeAll
  refine foldl_settles (fun s f => ?_) s.flights s
  split
  · split
    · exact wakeWaits_settles ..
    · exact .of_eq rfl
  · exact .of_eq rfl

theorem rearmWaits_settles (s : State) : HaltSettles s s.rearmWaits := by
  unfold State.rearmWaits
  extract_lets u
  have hu : HaltSettles s u := .of_eq rfl
  exact hu.trans (wakeAll_settles u)

theorem preemptAll_settles (s : State) : HaltSettles s s.preemptAll := by
  have hpre (u : State) (f : Flight) : HaltSettles u (u.preemptFlight f true false) :=
    .of_eq ((keeps_preemptFlight (L := 0x8008c200) rfl (.refl _ u) _ _ _).same .hostif rfl)
  have hltr (u : State) : HaltSettles u u.ltrUpdate := .of_eq (ltrUpdate_hostif u)
  exact ((foldl_settles hpre s.flights s).trans (haltUpdate_settles _)).trans (hltr _)

/-- What a halt's end lets go leaves HOSTIF. -/
theorem letGo_hostif {s : State} (h : s.hostif.halt = false) : s.letGo.hostif = s.hostif := by
  unfold State.letGo
  extract_lets u sched v w
  have hw : w.hostif = s.hostif :=
    (keeps_resumeFlights (L := 0x2000000c000) rfl (.refl _ v) _ _).same .hostif rfl
  have hend : HaltSettles w w.rearmWaits.settle := (rearmWaits_settles w).trans (settle_settles _)
  rw [hend.eq_of_not_halt (by rw [hw, h]), hw]

/-! ## The three writes -/

section
variable {s : State}

theorem writeHalt_held (hr : s.env.reset = .device) (halt preempt : Bool) :
    s.writeHalt halt preempt = { s with env := { s.env with heldHalt := some (halt, preempt) } } := if_pos hr

theorem writeHalt_on (hr : s.env.reset = .none) (preempt : Bool) : s.writeHalt true preempt = s.haltOn preempt := by
  rw [State.writeHalt, if_neg (by rw [hr]; decide)]
  rfl

theorem writeHalt_off (hr : s.env.reset = .none) (preempt : Bool) : s.writeHalt false preempt = s.haltOff preempt := by
  rw [State.writeHalt, if_neg (by rw [hr]; decide)]
  rfl

theorem haltFrom_flights : s.haltFrom.flights = s.flights := by unfold State.haltFrom; split <;> rfl

/-- Whether a flight holds the halt is not changed by what asks it to stop. -/
theorem stopAsking_holdsHalt (h : ∀ f ∈ s.flights, f.holdsHalt = false) :
    ∀ f ∈ s.stopAsking.flights, f.holdsHalt = false := by
  intro f hf
  obtain ⟨g, hg, rfl⟩ := List.mem_map.1 hf
  split
  · exact h g hg
  · exact h g hg

theorem haltOn_written (preempt : Bool) :
    (s.haltOn preempt).hostif.halt = true ∧ (s.haltOn preempt).hostif.preempt = preempt := by
  have hset (u v : State) (h : HaltSettles u v) (hu : u.hostif.halt = true ∧ u.hostif.preempt = preempt) :
      v.hostif.halt = true ∧ v.hostif.preempt = preempt := by rwa [h.halt, h.preempt]
  unfold State.haltOn
  extract_lets was u hostif v
  have hv : v.hostif.halt = true ∧ v.hostif.preempt = preempt := ⟨rfl, rfl⟩
  split
  · refine hset _ _ (haltUpdate_settles _) ?_
    split
    · exact hv
    · exact hv
  · split
    · exact hset _ _ (haltUpdate_settles _) hv
    · exact hset _ _ (preemptAll_settles _) hv

theorem haltOn_halted (h : ∀ f ∈ s.flights, f.holdsHalt = false) : (s.haltOn false).hostif.halted = true := by
  unfold State.haltOn
  extract_lets was u hostif v
  have hv : ∀ f ∈ v.flights, f.holdsHalt = false := by rw [show v.flights = s.flights from haltFrom_flights]; exact h
  rw [if_pos (by rfl)]
  split
  · exact haltUpdate_halted rfl hv
  · exact haltUpdate_halted rfl (stopAsking_holdsHalt hv)

theorem haltOff_written (hh : s.hostif.halt = true) (preempt : Bool) :
    (s.haltOff preempt).hostif = { s.hostif with halt := false, preempt, halted := false } := by
  unfold State.haltOff
  extract_lets h u
  rw [if_neg (by unfold h; rw [hh]; decide)]
  split
  · exact letGo_hostif rfl
  · rfl

/-- A release without a halt writes what stands. -/
theorem haltOff_of_not_halt (hh : s.hostif.halt = false) : s.haltOff s.hostif.preempt = s := by
  rw [State.haltOff, if_pos (by rw [hh]; rfl)]

theorem exec_halt (h : s.haltAnswers = true) : exec .haltAll s = .next (s.wakeSlack.writeHalt true s.hostif.preempt) ∧
    exec .haltPreempt s = .next (s.wakeSlack.writeHalt true true) ∧
    exec .haltRelease s = .next (s.wakeSlack.writeHalt false s.hostif.preempt) := by
  have hw : s.wakeSlack.haltAnswers = true := by simpa [State.haltAnswers] using h
  simp [exec, execHaltAll, execHaltPreempt, execHaltRelease, hw]

end

/-! ## Host flag writes -/

theorem applyHostFlag_flags (s : State) (g : FlagId) (add : Bool) (v : Word) :
    (s.applyHostFlag g add v).flags = s.flags.set g.val (if add then s.flag g + v else v) := by
  unfold State.applyHostFlag
  extract_lets u
  have hu : u.flags = s.flags := record_flags ..
  cases add with
  | false => rw [if_neg (by decide), if_neg (by decide), setFlag_flags, hu]
  | true =>
    have hflag : u.flag g = s.flag g := by rw [State.flag, hu, State.flag]
    rw [if_pos rfl, if_pos rfl, State.addFlag, setFlag_flags, hu, hflag]

theorem exec_hostFlag {s : State} (h : s.answers = true) (g : FlagId) (v : Word) :
    exec (.hostFlagWrite g v) s = .next (s.wakeSlack.hostFlag g false v) ∧
    exec (.hostFlagAdd g v) s = .next (s.wakeSlack.hostFlag g true v) := by
  simp [exec, execHostFlagWrite, execHostFlagAdd, h]

theorem hostFlag_replaying {s : State} (h : s.replaying = true) (g : FlagId) (add : Bool) (v : Word) :
    s.hostFlag g add v = s.note 0x4044 .information 0 := by
  rw [State.hostFlag, if_pos h, State.replayDrop]

theorem hostFlag_flags {s : State} (h : s.replaying = false) (g : FlagId) (add : Bool) (v : Word) :
    (s.hostFlag g add v).flags = s.flags.set g.val (if add then s.flag g + v else v) := by
  rw [State.hostFlag, if_neg (ne_true_of_eq_false h), applyHostFlag_flags]

/-- Settles O29: what a halt leaves of HOSTIF (`HaltSettles`) and what a write leaves of the flags are lemmas. -/
theorem hostFlagsAndHalts : Obligations.HostFlagsAndHalts := by
  unfold Obligations.HostFlagsAndHalts
  refine ⟨fun s g v ha => ?_, fun s ha => ?_⟩
  · obtain ⟨hw, hadd⟩ := exec_hostFlag ha g v
    have hrw := wakeSlack_replaying s
    refine ⟨fun hrep => ⟨⟨_, hw, ?_, exec_frame hw⟩, ⟨_, hadd, ?_, exec_frame hadd⟩⟩, fun hrep => ⟨?_, ?_⟩⟩
    · rw [hostFlag_flags (hrw.trans hrep), wakeSlack_flags]
      rfl
    · rw [hostFlag_flags (hrw.trans hrep), wakeSlack_flags, State.flag, wakeSlack_flags]
      rfl
    · rw [hw, hostFlag_replaying (hrw.trans hrep)]
    · rw [hadd, hostFlag_replaying (hrw.trans hrep)]
  · obtain ⟨hall, hpre, hrel⟩ := exec_halt ha
    have hif := wakeSlack_hostif s
    refine ⟨fun hr => ?_, fun hr => ⟨⟨_, hall, ?_⟩, ⟨_, hpre, ?_⟩, fun hh => ⟨_, hrel, ?_⟩, fun hh => ?_⟩⟩
    · have hr' : s.wakeSlack.env.reset = .device := (wakeSlack_reset s).trans hr
      rw [hall, hpre, hrel, writeHalt_held hr', writeHalt_held hr', writeHalt_held hr']
      exact ⟨rfl, rfl, rfl⟩
    all_goals have hr' : s.wakeSlack.env.reset = .none := (wakeSlack_reset s).trans hr
    · rw [writeHalt_on hr'] at hall ⊢
      obtain ⟨hhalt, hpreempt⟩ := haltOn_written (s := s.wakeSlack) s.hostif.preempt
      refine ⟨hhalt, hpreempt, fun hp hf => ?_, exec_frame hall⟩
      rw [hp]
      exact haltOn_halted (by rwa [wakeSlack_flights])
    · rw [writeHalt_on hr'] at hpre ⊢
      obtain ⟨hhalt, hpreempt⟩ := haltOn_written (s := s.wakeSlack) true
      exact ⟨hhalt, hpreempt, exec_frame hpre⟩
    · rw [writeHalt_off hr'] at hrel ⊢
      have hw := haltOff_written (s := s.wakeSlack) (by rw [hif, hh]) s.hostif.preempt
      exact ⟨by rw [hw], by rw [hw], by rw [hw], exec_frame hrel⟩
    · rw [hrel, writeHalt_off hr', ← hif, haltOff_of_not_halt (by rw [hif, hh])]

end Sys2Proof.Machine
end

section
/-! Bytes that a clear has blanked stay blank through further clears; contexts and regions use this (R107, R165). -/

namespace Sys2Proof.Machine

/-- Nothing lists the address: no cell and no undefined range. -/
def Memory.blank (m : Memory) (a : Nat) : Prop := (∀ c ∈ m.cells, c.1 ≠ a) ∧ ∀ r ∈ m.undef, r.has a = false

namespace Memory

variable {m : Memory} {a lo hi : Nat}

theorem blank.read_zero (h : m.blank a) : m.read a = 0 := by
  obtain ⟨hcell, hundef⟩ := h
  have hc : cellAt m.cells a = none := by
    cases hx : cellAt m.cells a with
    | none => rfl
    | some b => exact absurd rfl (hcell _ (cellAt_mem hx))
  have hu : m.unlisted a = 0 := by
    unfold unlisted
    rw [List.find?_eq_none.2 fun r hr => ne_true_of_eq_false (hundef r hr)]
  rw [read, hc, hu]
  rfl

theorem blank.clear (h : m.blank a) (lo hi : Nat) : (m.clear lo hi).blank a :=
  ⟨fun c hc => h.1 c (List.mem_filter.1 hc).1, not_has_cut h.2⟩

theorem blank_clear_inside (m : Memory) (h1 : lo ≤ a) (h2 : a < hi) : (m.clear lo hi).blank a := by
  refine ⟨fun c hc he => ?_, not_has_cut_inside h1 h2⟩
  have hkept := (List.mem_filter.1 hc).2
  rw [he] at hkept
  simp [h1, h2] at hkept

/-- What leaves the cells and the undefined ranges as they are. -/
theorem blank.congr {n : Memory} (h : m.blank a) (hc : n.cells = m.cells) (hu : n.undef = m.undef) : n.blank a := by
  rw [blank, hc, hu]
  exact h

end Memory

end Sys2Proof.Machine
end

section
/-! Contexts: CTX_nCTRL, the walk and the counters (R107, R156, R158, R421, R439). -/

namespace Sys2Proof.Machine

section
variable {s : State} {c : CtxId}

@[simp] theorem recordRegWrite_ctxs (s : State) (off v : Nat) : (s.recordRegWrite off v).ctxs = s.ctxs := record_ctxs ..
@[simp] theorem recordRegWrite_tide (s : State) (off v : Nat) : (s.recordRegWrite off v).tide = s.tide := record_tide ..

theorem exec_contextRegister (h : s.answers = true) : exec (.contextRegister c) s =
    .next (s.wakeSlack.writeCtxCtrl c (256 * s.ctxs[c].prioMax.toNat + 1)) := by
  simp [exec, execContextRegister, h, State.ctxPrio]

theorem exec_contextInvalidate (h : s.answers = true) : exec (.contextInvalidate c) s =
    .next (s.wakeSlack.writeCtxCtrl c (256 * s.ctxs[c].prioMax.toNat + 2 + if s.ctxs[c].valid then 1 else 0)) := by
  simp [exec, execContextInvalidate, h, State.ctxPrio]

theorem exec_contextUnregister (h : s.answers = true) : exec (.contextUnregister c) s =
    .next (s.wakeSlack.writeCtxCtrl c (256 * s.ctxs[c].prioMax.toNat)) := by
  simp [exec, execContextUnregister, h, State.ctxPrio]

theorem writeCtxCtrl_replaying (h : s.replaying = true) (v : Nat) :
    s.writeCtxCtrl c v = s.note 0x4044 .information 0 := by
  rw [State.writeCtxCtrl, if_pos h, State.replayDrop]

/-- A clear of VALID that a command in flight keeps away. -/
theorem writeCtxCtrl_dropped (h : s.replaying = false) (hv : s.ctxs[c].valid = true)
    (hf : ∃ f ∈ s.flights, f.entry.ctx = c) {v : Nat} (heven : v % 2 = 0) : s.writeCtxCtrl c v =
      s.report { reason := 0x500B, severity := .information, ctx := BitVec.ofNat 16 c.val } := by
  have hany : (s.flights.any fun (f : Flight) => f.entry.ctx = c) = true := by simpa using hf
  rw [State.writeCtxCtrl, if_neg (ne_true_of_eq_false h), State.applyCtxCtrl, heven, hv, hany]
  exact if_pos rfl

/-! ## One context through VALID and INVAL (R156, R421) -/

def ctxRegistered (x : Ctx) (now : Tick) : Ctx :=
  if x.valid then x else { x with
    valid := true, busy := true, waitTicks := 0, lighterTicks := 0, preempts := 0, fallbacks := 0
    evictions := 0, acctFrom := now }

def ctxUnregistered (x : Ctx) : Ctx :=
  if x.valid then { x with
    valid := false, busy := false, inval := false, resident := false, slotWaiting := false
    saved := false, adaptive := [], home := none, freezeAll := false }
  else x

def ctxInvalidated (x : Ctx) : Ctx := if x.valid then { x with busy := true, inval := true } else x

/-- From `s` to `t` the context `c` became `x` and the others stand. -/
structure CtxBecomes (c : CtxId) (x : Ctx) (s t : State) : Prop where
  self : t.ctxs[c] = x
  other (d : CtxId) : d ≠ c → t.ctxs[d] = s.ctxs[d]

theorem CtxBecomes.of_eq {t : State} {x : Ctx} (h : t.ctxs = s.ctxs) (hx : s.ctxs[c] = x) : CtxBecomes c x s t :=
  ⟨by rw [h, hx], fun d _ => by rw [h]⟩

theorem CtxBecomes.trans {t u : State} {x y : Ctx} (h : CtxBecomes c x s t) (k : CtxBecomes c y t u) :
    CtxBecomes c y s u :=
  ⟨k.self, fun d hd => (k.other d hd).trans (h.other d hd)⟩

theorem updCtx_becomes {x : Ctx} {f : Ctx → Ctx} (hx : f s.ctxs[c] = x) : CtxBecomes c x s (s.updCtx c f) :=
  ⟨(updAt_self ..).trans hx, fun _ hd => updAt_other _ _ hd⟩

theorem registerCtx_becomes (s : State) (c : CtxId) :
    CtxBecomes c (ctxRegistered s.ctxs[c] s.now) s (s.registerCtx c) := by
  unfold State.registerCtx ctxRegistered
  split
  · exact .of_eq rfl rfl
  · exact updCtx_becomes rfl

theorem unregisterCtx_becomes (s : State) (c : CtxId) : CtxBecomes c (ctxUnregistered s.ctxs[c]) s (s.unregisterCtx c) := by
  unfold State.unregisterCtx ctxUnregistered
  cases hv : s.ctxs[c].valid with
  | true => exact updCtx_becomes rfl
  | false => exact .of_eq rfl rfl

theorem invalidateCtx_becomes (s : State) (c : CtxId) : CtxBecomes c (ctxInvalidated s.ctxs[c]) s (s.invalidateCtx c) := by
  unfold State.invalidateCtx ctxInvalidated
  split
  · exact updCtx_becomes rfl
  · exact .of_eq rfl rfl

/-- A write of CTX_nCTRL that is not dropped and leaves PRIO_MAX as it stands. -/
theorem writeCtxCtrl_becomes {v : Nat} (hrep : s.replaying = false)
    (hdrop : v % 2 = 1 ∨ s.ctxs[c].valid = false ∨ ∀ f ∈ s.flights, f.entry.ctx ≠ c)
    (hprio : BitVec.ofNat 3 (v / 256) = s.ctxs[c].prioMax) :
    let y := if v % 2 = 1 then ctxRegistered s.ctxs[c] s.now else ctxUnregistered s.ctxs[c]
    CtxBecomes c (if v / 2 % 2 = 1 then ctxInvalidated y else y) s (s.writeCtxCtrl c v) := by
  intro y
  have hno : ¬(v % 2 = 0 && s.ctxs[c].valid && s.flights.any fun (f : Flight) => f.entry.ctx = c) = true := by
    simp only [Bool.and_eq_true, decide_eq_true_eq, List.any_eq_true, not_and, not_exists]
    rintro ⟨heven, hv⟩ f hf
    rcases hdrop with h | h | h
    · omega
    · cases hv.symm.trans h
    · exact h f hf
  rw [State.writeCtxCtrl, if_neg (ne_true_of_eq_false hrep), State.applyCtxCtrl, if_neg hno]
  extract_lets u w z
  have hu : u.ctxs = s.ctxs := recordRegWrite_ctxs ..
  have hw : CtxBecomes c s.ctxs[c] s w := by
    refine (CtxBecomes.of_eq hu rfl).trans (updCtx_becomes ?_)
    rw [hu, hprio]
  have hnow : w.now = s.now := congrArg Tide.count (recordRegWrite_tide ..)
  have hz : CtxBecomes c y s z := by
    unfold y z
    split
    · have h := registerCtx_becomes w c
      rw [hw.self, hnow] at h
      exact hw.trans h
    · have h := unregisterCtx_becomes w c
      rw [hw.self] at h
      exact hw.trans h
  split
  · have h := invalidateCtx_becomes z c
    rw [hz.self] at h
    exact hz.trans h
  · exact hz

theorem prio_of_write {s : State} {c : CtxId} {k : Nat} (h : k < 256) :
    BitVec.ofNat 3 ((256 * s.ctxs[c].prioMax.toNat + k) / 256) = s.ctxs[c].prioMax := by
  rw [show (256 * s.ctxs[c].prioMax.toNat + k) / 256 = s.ctxs[c].prioMax.toNat by omega, BitVec.ofNat_toNat,
    BitVec.setWidth_eq]

theorem exec_contextRegister_becomes (ha : s.answers = true) (hrep : s.replaying = false) :
    ∃ t, exec (.contextRegister c) s = .next t ∧ CtxBecomes c (ctxRegistered s.ctxs[c] s.now) s t := by
  refine ⟨_, exec_contextRegister ha, ?_⟩
  have h := writeCtxCtrl_becomes (s := s.wakeSlack) (c := c) (v := 256 * s.ctxs[c].prioMax.toNat + 1)
    ((wakeSlack_replaying s).trans hrep) (.inl (by omega)) (by rw [wakeSlack_ctxs]; exact prio_of_write (by decide))
  dsimp only at h
  rw [if_neg (by omega), if_pos (by omega)] at h
  have hnow : s.wakeSlack.now = s.now := congrArg Tide.count (wakeSlack_tide s)
  rw [wakeSlack_ctxs, hnow] at h
  exact ⟨h.self, fun d hd => by rw [h.other d hd, wakeSlack_ctxs]⟩

theorem ctxRegistered_of_valid {x : Ctx} {now : Tick} (h : x.valid = true) : ctxRegistered x now = x := if_pos h

theorem ctxRegistered_valid (x : Ctx) (now : Tick) : (ctxRegistered x now).valid = true := by
  unfold ctxRegistered
  split
  · assumption
  · rfl

theorem exec_contextInvalidate_becomes (ha : s.answers = true) (hrep : s.replaying = false) :
    ∃ t, exec (.contextInvalidate c) s = .next t ∧ CtxBecomes c (ctxInvalidated s.ctxs[c]) s t := by
  refine ⟨_, exec_contextInvalidate ha, ?_⟩
  have hback (t : State) (h : CtxBecomes c (ctxInvalidated s.wakeSlack.ctxs[c]) s.wakeSlack t) :
      CtxBecomes c (ctxInvalidated s.ctxs[c]) s t := by
    rw [wakeSlack_ctxs] at h
    exact ⟨h.self, fun d hd => by rw [h.other d hd, wakeSlack_ctxs]⟩
  refine hback _ ?_
  have hr := (wakeSlack_replaying s).trans hrep
  cases hv : s.ctxs[c].valid with
  | true =>
    have hvw : s.wakeSlack.ctxs[c].valid = true := by rw [wakeSlack_ctxs, hv]
    have h := writeCtxCtrl_becomes (s := s.wakeSlack) (c := c) (v := 256 * s.ctxs[c].prioMax.toNat + 3) hr
      (.inl (by omega)) (by rw [wakeSlack_ctxs]; exact prio_of_write (by decide))
    dsimp only at h
    rwa [if_pos (by omega), if_pos (by omega), ctxRegistered_of_valid hvw] at h
  | false =>
    have hvw : s.wakeSlack.ctxs[c].valid = false := by rw [wakeSlack_ctxs, hv]
    have h := writeCtxCtrl_becomes (s := s.wakeSlack) (c := c) (v := 256 * s.ctxs[c].prioMax.toNat + 2) hr
      (.inr (.inl hvw)) (by rw [wakeSlack_ctxs]; exact prio_of_write (by decide))
    dsimp only at h
    have hun : ctxUnregistered s.wakeSlack.ctxs[c] = s.wakeSlack.ctxs[c] := if_neg (ne_true_of_eq_false hvw)
    rwa [if_pos (by omega), if_neg (by omega), hun] at h

theorem exec_contextUnregister_becomes (ha : s.answers = true) (hrep : s.replaying = false)
    (hf : ∀ f ∈ s.flights, f.entry.ctx ≠ c) :
    ∃ t, exec (.contextUnregister c) s = .next t ∧ CtxBecomes c (ctxUnregistered s.ctxs[c]) s t := by
  refine ⟨_, exec_contextUnregister ha, ?_⟩
  have h := writeCtxCtrl_becomes (s := s.wakeSlack) (c := c) (v := 256 * s.ctxs[c].prioMax.toNat)
    ((wakeSlack_replaying s).trans hrep) (.inr (.inr (by rwa [wakeSlack_flights])))
    (by rw [wakeSlack_ctxs]; exact prio_of_write (k := 0) (by decide))
  dsimp only at h
  rw [if_neg (by omega), if_neg (by omega), wakeSlack_ctxs] at h
  exact ⟨h.self, fun d hd => by rw [h.other d hd, wakeSlack_ctxs]⟩

/-! ## The walk -/

/-- Pages zeroed one after another. -/
def zeroPages (s : State) (l : List Nat) : State := l.foldl (fun s p => zeroPage s (p * 0x1_0000)) s

theorem zeroPage_read_other {a p : Nat} (hw : s.mem.wf) (ha : a / 0x1_0000 ≠ p) :
    (zeroPage s (p * 0x1_0000)).mem.read a = s.mem.read a := by
  have hp : p * 0x1_0000 / 0x1_0000 = p := Nat.mul_div_cancel p (by decide)
  have hread := Memory.read_clear_other hw (lo := p * 0x1_0000) (hi := (p + 1) * 0x1_0000) (a := a) (by omega)
  rw [zeroPage, hp]
  exact hread

theorem zeroPage_wf {a : Nat} (hw : s.mem.wf) : (zeroPage s a).mem.wf := Memory.wf_clear hw _ _

theorem zeroPage_blank {a x : Nat} (h : s.mem.blank x) : (zeroPage s a).mem.blank x :=
  (h.clear _ _).congr rfl rfl

theorem zeroPage_blank_inside {x p : Nat} (h1 : p * 0x1_0000 ≤ x) (h2 : x < (p + 1) * 0x1_0000) :
    (zeroPage s (p * 0x1_0000)).mem.blank x := by
  have hp : p * 0x1_0000 / 0x1_0000 = p := Nat.mul_div_cancel p (by decide)
  unfold zeroPage
  rw [hp]
  exact (Memory.blank_clear_inside s.mem h1 h2).congr rfl rfl

theorem zeroPages_blank {x : Nat} (l : List Nat) : ∀ {s : State}, s.mem.blank x → (zeroPages s l).mem.blank x := by
  induction l with
  | nil => exact fun h => h
  | cons p l ih => exact fun h => ih (zeroPage_blank h)

theorem zeroPages_blank_inside {x p : Nat} (h1 : p * 0x1_0000 ≤ x) (h2 : x < (p + 1) * 0x1_0000) (l : List Nat)
    (hp : p ∈ l) : ∀ s : State, (zeroPages s l).mem.blank x := by
  induction l with
  | nil => cases hp
  | cons r l ih =>
    intro s
    rcases List.mem_cons.1 hp with rfl | hp
    · exact zeroPages_blank l (zeroPage_blank_inside h1 h2)
    · exact ih hp _

theorem zeroPages_read_other {a : Nat} (l : List Nat) (ha : a / 0x1_0000 ∉ l) :
    ∀ {s : State}, s.mem.wf → (zeroPages s l).mem.read a = s.mem.read a := by
  induction l with
  | nil => exact fun _ => rfl
  | cons p l ih =>
    intro s hw
    rw [List.mem_cons, not_or] at ha
    exact (ih ha.2 (zeroPage_wf hw)).trans (zeroPage_read_other hw ha.1)

theorem zeroPages_ctxs (s : State) (l : List Nat) : (zeroPages s l).ctxs = s.ctxs := by
  induction l generalizing s with
  | nil => rfl
  | cons p l ih => exact ih (zeroPage s (p * 0x1_0000))

/-- The mapped pages that the walk meets uncleared (R107, R156). -/
def walkedPages (s : State) (c : CtxId) : List Nat :=
  (mappedPages s (fun _ => true) 4 (s.ctxs[c].root.toNat / 2048 * 2048)).filter fun p => !(s.mem.cleared.contains p)

theorem exec_tableWalkDone (hf : s.fwUp = true) (hb : s.ctxs[c].busy = true) : ∃ l, (∀ p, p ∈ l ↔ p ∈ walkedPages s c) ∧
    exec (.tableWalkDone c) s = .next ((zeroPages s l).updCtx c fun x => { x with busy := false, inval := false }) := by
  refine ⟨(mappedPages s (fun _ => true) 4 (s.ctxs[c].root.toNat / 2048 * 2048)).dedup.filter fun p =>
    !(s.mem.cleared.contains p), fun p => by simp only [walkedPages, List.mem_filter, List.mem_dedup], ?_⟩
  simp only [exec, execTableWalkDone, hf, hb, Bool.not_true, Bool.or_self, Bool.false_eq_true, if_false, zeroPages]

end

/-- Settles O35: VALID and INVAL of one context (`CtxBecomes`), the walk (`zeroPages`) and the counters are lemmas. -/
theorem contextsRegisterAndWalk : Obligations.ContextsRegisterAndWalk := by
  unfold Obligations.ContextsRegisterAndWalk
  refine fun s c => ⟨fun ha hrep i hi => ?_, fun ha hrep => ⟨?_, ?_, fun hv hf => ?_, fun hv hf => ?_⟩, fun ha => ?_,
    fun hf hb => ?_, fun hb => ?_⟩
  · have hdrop (v : Nat) := writeCtxCtrl_replaying (c := c) ((wakeSlack_replaying s).trans hrep) v
    simp only [List.mem_cons, List.not_mem_nil, or_false] at hi
    rcases hi with rfl | rfl | rfl
    · rw [exec_contextRegister ha, hdrop]
    · rw [exec_contextInvalidate ha, hdrop]
    · rw [exec_contextUnregister ha, hdrop]
  · obtain ⟨t, ht, hself, hother⟩ := exec_contextRegister_becomes (c := c) ha hrep
    refine ⟨t, ht, by rw [hself, ctxRegistered_valid], fun hv => ?_, fun hv => ?_, hother, exec_frame ht⟩
    · rw [hself]; exact if_neg (ne_true_of_eq_false hv)
    · rw [hself, ctxRegistered_of_valid hv]
  · obtain ⟨t, ht, hself, hother⟩ := exec_contextInvalidate_becomes (c := c) ha hrep
    exact ⟨t, ht, hself, hother, exec_frame ht⟩
  · obtain ⟨t, ht, hself, hother⟩ := exec_contextUnregister_becomes ha hrep hf
    exact ⟨t, ht, hself.trans (if_pos hv), hother, exec_frame ht⟩
  · rw [exec_contextUnregister ha, writeCtxCtrl_dropped ((wakeSlack_replaying s).trans hrep)
      (by rw [wakeSlack_ctxs, hv]) (by rwa [wakeSlack_flights]) (by omega)]
  · have hnow : s.wakeSlack.now = s.now := congrArg Tide.count (wakeSlack_tide s)
    have hw : s.wakeSlack.answers = true := (wakeSlack_answers s).trans ha
    simp only [exec, execAcctClear, hw, if_true, State.clearAcct, hnow]
  · obtain ⟨l, hl, ht⟩ := exec_tableWalkDone hf hb
    refine ⟨_, ht, ?_, fun d hd => ?_, fun p hp a h1 h2 => ?_, fun hw a ha => ?_, exec_frame ht⟩
    · exact (updAt_self ..).trans (by rw [zeroPages_ctxs])
    · exact (updAt_other _ _ hd).trans (by rw [zeroPages_ctxs])
    · exact (zeroPages_blank_inside h1 h2 l ((hl p).2 hp) s).read_zero
    · exact zeroPages_read_other l (fun h => ha ((hl _).1 h)) hw
  · simp only [exec, execTableWalkDone, hb, Bool.not_false, Bool.or_true, if_true]

end Sys2Proof.Machine
end

section
/-! Regions of the locked window and triggers (R165, R166, R368). -/

namespace Sys2Proof.Machine

section
variable {s : State} {u : Fin 64}

/-- Where a unit of the locked window begins. -/
def unitBase (u : Fin 64) : Nat := windowBase + u.val * 0x4_0000

theorem takeUnit_none (h : s.memhost.pendingUser[u] = none) : s.takeUnit u = s := by rw [State.takeUnit, h]

theorem takeUnit_lockUser_self {v : BitVec 4} (h : s.memhost.pendingUser[u] = some v) :
    (s.takeUnit u).memhost.lockUser[u] = v := by
  rw [State.takeUnit, h]; simp

theorem takeUnit_pendingUser_self : (s.takeUnit u).memhost.pendingUser[u] = none := by
  unfold State.takeUnit
  split
  · assumption
  · simp

theorem takeUnit_other {w : Fin 64} (hw : w ≠ u) : (s.takeUnit u).memhost.lockUser[w] = s.memhost.lockUser[w] ∧
    (s.takeUnit u).memhost.pendingUser[w] = s.memhost.pendingUser[w] := by
  have hval : u.val ≠ w.val := fun h => hw (Fin.ext h.symm)
  unfold State.takeUnit
  split
  · exact ⟨rfl, rfl⟩
  · simp [hval]

theorem takeUnit_wf (hw : s.mem.wf) : (s.takeUnit u).mem.wf := by
  unfold State.takeUnit
  split
  · exact hw
  · exact Memory.wf_clear hw _ _

theorem takeUnit_read_other {a : Nat} (hw : s.mem.wf) (ha : a < unitBase u ∨ unitBase u + 0x4_0000 ≤ a) :
    (s.takeUnit u).mem.read a = s.mem.read a := by
  unfold State.takeUnit
  split
  · rfl
  · exact Memory.read_clear_other hw ha

theorem takeUnit_blank {a : Nat} (h : s.mem.blank a) : (s.takeUnit u).mem.blank a := by
  unfold State.takeUnit
  split
  · exact h
  · exact (h.clear _ _).congr rfl rfl

theorem takeUnit_blank_inside {a : Nat} {v : BitVec 4} (hv : s.memhost.pendingUser[u] = some v) (h1 : unitBase u ≤ a)
    (h2 : a < unitBase u + 0x4_0000) : (s.takeUnit u).mem.blank a := by
  rw [State.takeUnit, hv]
  exact (Memory.blank_clear_inside s.mem h1 h2).congr rfl rfl

/-! ## Several units -/

theorem takeUnits_wf (l : List (Fin 64)) (hw : s.mem.wf) : (l.foldl State.takeUnit s).mem.wf := by
  induction l generalizing s with
  | nil => exact hw
  | cons u l ih => exact ih (takeUnit_wf hw)

theorem takeUnits_blank {a : Nat} (l : List (Fin 64)) (h : s.mem.blank a) : (l.foldl State.takeUnit s).mem.blank a := by
  induction l generalizing s with
  | nil => exact h
  | cons u l ih => exact ih (takeUnit_blank h)

theorem takeUnits_read_other {a : Nat} (l : List (Fin 64)) (hw : s.mem.wf)
    (ha : ∀ u ∈ l, a < unitBase u ∨ unitBase u + 0x4_0000 ≤ a) : (l.foldl State.takeUnit s).mem.read a = s.mem.read a := by
  induction l generalizing s with
  | nil => rfl
  | cons u l ih =>
    exact (ih (takeUnit_wf hw) fun w h => ha w (List.mem_cons_of_mem u h)).trans
      (takeUnit_read_other hw (ha u List.mem_cons_self))

theorem takeUnits_other (l : List (Fin 64)) {w : Fin 64} (hw : w ∉ l) :
    (l.foldl State.takeUnit s).memhost.lockUser[w] = s.memhost.lockUser[w] ∧
    (l.foldl State.takeUnit s).memhost.pendingUser[w] = s.memhost.pendingUser[w] := by
  induction l generalizing s with
  | nil => exact ⟨rfl, rfl⟩
  | cons u l ih =>
    rw [List.mem_cons, not_or] at hw
    obtain ⟨hlock, hpending⟩ := takeUnit_other (s := s) hw.1
    obtain ⟨ihl, ihp⟩ := ih (s := s.takeUnit u) hw.2
    exact ⟨ihl.trans hlock, ihp.trans hpending⟩

/-- A unit that is named passes: with its pending user, and blank. -/
theorem takeUnits_self (l : List (Fin 64)) {w : Fin 64} {v : BitVec 4} (hw : w ∈ l)
    (hv : s.memhost.pendingUser[w] = some v) :
    (l.foldl State.takeUnit s).memhost.pendingUser[w] = none ∧ (l.foldl State.takeUnit s).memhost.lockUser[w] = v ∧
    ∀ a, unitBase w ≤ a → a < unitBase w + 0x4_0000 → (l.foldl State.takeUnit s).mem.blank a := by
  have hstays (l : List (Fin 64)) : ∀ {s : State}, s.memhost.pendingUser[w] = none →
      (l.foldl State.takeUnit s).memhost.pendingUser[w] = none ∧
      (l.foldl State.takeUnit s).memhost.lockUser[w] = s.memhost.lockUser[w] := by
    induction l with
    | nil => exact fun h => ⟨h, rfl⟩
    | cons u l ih =>
      intro s h
      by_cases hu : w = u
      · subst hu
        rw [List.foldl_cons, takeUnit_none h]
        exact ih h
      · obtain ⟨hlock, hpending⟩ := takeUnit_other (s := s) hu
        obtain ⟨ihp, ihl⟩ := ih (s := s.takeUnit u) (hpending.trans h)
        exact ⟨ihp, ihl.trans hlock⟩
  induction l generalizing s with
  | nil => cases hw
  | cons u l ih =>
    by_cases hu : w = u
    · subst hu
      obtain ⟨hp, hl⟩ := hstays l (s := s.takeUnit w) takeUnit_pendingUser_self
      exact ⟨hp, hl.trans (takeUnit_lockUser_self hv), fun a h1 h2 =>
        takeUnits_blank l (takeUnit_blank_inside hv h1 h2)⟩
    · exact ih (s := s.takeUnit u) ((List.mem_cons.1 hw).resolve_left hu)
        ((takeUnit_other (s := s) hu).2.trans hv)

/-- The units of its region that wait change with a unit (R165). -/
def unitsOf (s : State) (u : Fin 64) : List (Fin 64) :=
  (s.regionUnits u).filter fun w => s.memhost.pendingUser[w].isSome

theorem mem_regionUnits_self (s : State) (u : Fin 64) : u ∈ s.regionUnits u := by
  unfold State.regionUnits
  extract_lets a
  split
  next r hr =>
    have h := List.find?_some hr
    exact List.mem_filter.2 ⟨List.mem_finRange u, h⟩
  next => exact List.mem_singleton.2 rfl

/-- No frame of the users, present or to come, keeps the units. -/
def unitsQuiet (s : State) (l : List (Fin 64)) : Prop :=
  ∀ u ∈ l, s.userBusy s.memhost.lockUser[u] = false ∧ ∀ v, s.memhost.pendingUser[u] = some v → s.userBusy v = false

theorem exec_lockedRegionEffect (hf : s.fwUp = true) (hp : s.memhost.pendingUser[u] ≠ none) :
    (unitsQuiet s (unitsOf s u) →
      exec (.lockedRegionEffect u) s = .next ((unitsOf s u).foldl State.takeUnit s)) ∧
    (¬unitsQuiet s (unitsOf s u) → exec (.lockedRegionEffect u) s = .next s) := by
  have hsome : s.memhost.pendingUser[u].isNone = false := by
    obtain ⟨v, hv⟩ := Option.ne_none_iff_exists'.1 hp
    rw [hv]; rfl
  have hbusy : ((unitsOf s u).any fun u => s.userBusy s.memhost.lockUser[u] || match s.memhost.pendingUser[u] with
      | some v => s.userBusy v
      | none => false) = false ↔ unitsQuiet s (unitsOf s u) := by
    rw [List.any_eq_false]
    refine forall₂_congr fun w _ => ?_
    cases s.memhost.pendingUser[w] <;> simp
  have hexec : exec (.lockedRegionEffect u) s =
      if ((unitsOf s u).any fun u => s.userBusy s.memhost.lockUser[u] || match s.memhost.pendingUser[u] with
        | some v => s.userBusy v
        | none => false) then .next s else .next ((unitsOf s u).foldl State.takeUnit s) := by
    simp only [exec, execLockedRegionEffect, hf, hsome, Bool.not_true, Bool.or_self, Bool.false_eq_true, if_false]
    rfl
  rw [hexec, ← hbusy]
  exact ⟨fun h => if_neg (ne_true_of_eq_false h), fun h => if_pos (eq_true_of_ne_false h)⟩

/-! ## Triggers -/

theorem advanceTo_eq (s : State) (t : Tick) : s.advanceTo t =
    { s with tide := { s.tide with count := if s.now.toNat < t.toNat then t else s.now } } := by
  by_cases h : s.tide.count.toNat < t.toNat
  · simp [State.advanceTo, State.now, h]
  · simp [State.advanceTo, State.now, h]

theorem exec_triggerFire {n : TrigId} {p : Trigger} (hp : s.trigs[n].prog = some p) (hn : s.trigs[n].next ≠ 0)
    (hr : s.running = true) :
    exec (.triggerFire n) s = .next { s with
      tide := { s.tide with count := if s.now.toNat < s.trigs[n].next.toNat then s.trigs[n].next else s.now }
      outbox := s.outbox ++ [.camTrig n s.trigs[n].next p.width]
      trigs := s.trigs.set n.val { s.trigs[n] with
        next := if p.period = 0 then 0 else s.trigs[n].next + BitVec.ofNat 64 p.period
        rose := s.trigs[n].next, falls := s.trigs[n].next + BitVec.ofNat 64 p.width } } := by
  simp only [exec, execTriggerFire, hp, hn, hr, Bool.not_true, Bool.or_self, Bool.false_eq_true, decide_false, if_false,
    State.send, advanceTo_eq]

theorem exec_triggerFire_idle {n : TrigId} (h : s.trigs[n].prog = none ∨ s.trigs[n].next = 0) :
    exec (.triggerFire n) s = .next s := by
  simp only [exec, execTriggerFire]
  split
  · rfl
  next hp =>
    rcases h with h | h
    · cases hp.symm.trans h
    · rw [if_pos (by rw [h]; rfl)]

end

/-- Settles O38: the passing of several units (`takeUnits_self`, `takeUnits_other`) and a trigger's edge are lemmas. -/
theorem regionsPassAndTriggersFire : Obligations.RegionsPassAndTriggersFire := by
  unfold Obligations.RegionsPassAndTriggersFire
  refine fun s => ⟨fun u hf hp => ⟨fun hq => ?_, (exec_lockedRegionEffect hf hp).2⟩, fun u hp => ?_,
    fun n p hp hn hr => exec_triggerFire hp hn hr, fun n h => exec_triggerFire_idle h⟩
  · have ht := (exec_lockedRegionEffect hf hp).1 hq
    obtain ⟨v, hv⟩ := Option.ne_none_iff_exists'.1 hp
    have hmem : u ∈ unitsOf s u := List.mem_filter.2 ⟨mem_regionUnits_self s u, by rw [hv]; rfl⟩
    have hend (w : Fin 64) : windowBase + (w.val + 1) * 0x4_0000 = unitBase w + 0x4_0000 := by
      unfold unitBase; omega
    refine ⟨_, ht, hmem, fun w hw => ?_, fun w hw => takeUnits_other _ hw, fun hwf a ha => ?_, exec_frame ht⟩
    · obtain ⟨x, hx⟩ := Option.isSome_iff_exists.1 (List.mem_filter.1 hw).2
      obtain ⟨hnone, hlock, hblank⟩ := takeUnits_self _ hw hx
      exact ⟨hnone, hx.trans (congrArg some hlock.symm), fun a h1 h2 => (hblank a h1 (by rwa [hend] at h2)).read_zero⟩
    · exact takeUnits_read_other _ hwf fun w hw => (hend w) ▸ ha w hw
  · simp only [exec, execLockedRegionEffect, hp, Option.isNone_none, Bool.or_true, if_true]

end Sys2Proof.Machine
end

section
/-! Where an address lies in the stacks and in the locked window (R315, R320, R332, R333). -/

namespace Sys2Proof.Machine

/-! ## Numbers made of bits -/

/-- The number whose bits, least significant first, a test gives of the members of a list. -/
def bitNumber {α : Type} (f : α → Bool) (l : List α) : Nat := l.foldr (fun k n => 2 * n + if f k then 1 else 0) 0

theorem bitNumber_lt {α : Type} (f : α → Bool) (l : List α) : bitNumber f l < 2 ^ l.length := by
  induction l with
  | nil => exact Nat.one_pos
  | cons k l ih =>
    rw [List.length_cons, pow_succ]
    simp only [bitNumber, List.foldr_cons] at ih ⊢
    split <;> omega

theorem double_add_bit_inj {m n : Nat} {p r : Bool}
    (h : (2 * m + if p then 1 else 0) = 2 * n + if r then 1 else 0) : p = r ∧ m = n := by
  cases p <;> cases r <;> simp at h ⊢ <;> omega

theorem bitNumber_inj {α : Type} {f g : α → Bool} {l : List α} (h : bitNumber f l = bitNumber g l) :
    ∀ k ∈ l, f k = g k := by
  induction l with
  | nil => exact fun k hk => nomatch hk
  | cons x l ih =>
    have hcons (f : α → Bool) : bitNumber f (x :: l) = 2 * bitNumber f l + if f x then 1 else 0 := rfl
    rw [hcons, hcons] at h
    have hbit := double_add_bit_inj h
    intro k hk
    rcases List.mem_cons.1 hk with rfl | hk
    · exact hbit.1
    · exact ih hbit.2 k hk

/-! ## The parts of a location -/

/-- The address bits of COLUMN and ROW: bits 7 to 34 but the home bits, lowest first (R332). -/
def columnBits : List Nat := [7, 17, 18]
def rowBits : List Nat := [19, 20, 21, 22, 23, 24, 25, 26, 27, 28, 29, 30, 31, 32, 33, 34]

/-- The parity of the address bits that a mask selects. -/
def maskParity (a : Nat) (k : BitVec 36) : Bool := parityOf (BitVec.ofNat 36 a &&& k)

section
variable (m : Masks) (a : Nat)

theorem locate_channel : (locate m a).channel = bitNumber (maskParity a) m.ch.toList := rfl
theorem locate_bank : (locate m a).bank = bitNumber (maskParity a) m.bank.toList := rfl
theorem locate_byte : (locate m a).byte = a % 128 := rfl

theorem value_eq_bitNumber (l : List Nat) : l.foldr (fun i n => 2 * n + a / 2 ^ i % 2) 0 = bitNumber a.testBit l := by
  have hbit (i : Nat) : a / 2 ^ i % 2 = if a.testBit i then 1 else 0 := by
    rw [Nat.testBit_eq_decide_div_mod_eq]
    by_cases h : a / 2 ^ i % 2 = 1
    · simp [h]
    · simp [h]; omega
  simp only [bitNumber, hbit]

theorem locate_column : (locate m a).column = bitNumber a.testBit columnBits := value_eq_bitNumber a columnBits
theorem locate_row : (locate m a).row = bitNumber a.testBit rowBits := value_eq_bitNumber a rowBits

end

/-! ## The default masks -/

theorem maskParity_mem (m : Masks) {a b : Nat} (h : locate m a = locate m b) {k : BitVec 36}
    (hk : k ∈ m.ch.toList ∨ k ∈ m.bank.toList) : maskParity a k = maskParity b k := by
  rcases hk with hk | hk
  · exact bitNumber_inj (congrArg Location.channel h) k hk
  · exact bitNumber_inj (congrArg Location.bank h) k hk

theorem testBit_mem (m : Masks) {a b : Nat} (h : locate m a = locate m b) {i : Nat}
    (hi : i ∈ columnBits ∨ i ∈ rowBits) : a.testBit i = b.testBit i := by
  rcases hi with hi | hi
  · have hc := congrArg Location.column h
    rw [locate_column, locate_column] at hc
    exact bitNumber_inj hc i hi
  · have hr := congrArg Location.row h
    rw [locate_row, locate_row] at hr
    exact bitNumber_inj hr i hi

/-- Each default mask selects one home bit, in the order of the masks, and bits that are no home bits (R333). -/
theorem defaultMasks_home (a : Nat) :
    defaultMasks.ch.toList.map (maskParity a) =
      [a.testBit 8 ^^ a.testBit 19 ^^ a.testBit 24, a.testBit 9 ^^ a.testBit 20 ^^ a.testBit 25,
       a.testBit 10 ^^ a.testBit 21 ^^ a.testBit 26, a.testBit 11 ^^ a.testBit 22 ^^ a.testBit 27,
       a.testBit 12 ^^ a.testBit 23 ^^ a.testBit 28] ∧
    defaultMasks.bank.toList.map (maskParity a) =
      [a.testBit 13 ^^ a.testBit 29, a.testBit 14 ^^ a.testBit 30, a.testBit 15 ^^ a.testBit 31,
       a.testBit 16 ^^ a.testBit 32] := by
  have hbit (i : Nat) (h : i < 36) : (BitVec.ofNat 36 a)[i] = a.testBit i := by
    rw [BitVec.getElem_eq_testBit_toNat, BitVec.toNat_ofNat, Nat.testBit_mod_two_pow, decide_eq_true h, Bool.true_and]
  simp [defaultMasks, maskParity, parityOf, List.range_succ, List.range_zero, hbit]

theorem homeBits_eq {a b : Nat} (h : locate defaultMasks a = locate defaultMasks b) {i : Nat} (h1 : 8 ≤ i) (h2 : i ≤ 16) :
    a.testBit i = b.testBit i := by
  have hrow (j : Nat) (hj : j ∈ rowBits) : a.testBit j = b.testBit j := testBit_mem _ h (.inr hj)
  have hch : defaultMasks.ch.toList.map (maskParity a) = defaultMasks.ch.toList.map (maskParity b) :=
    List.map_congr_left fun k hk => maskParity_mem _ h (.inl hk)
  have hbank : defaultMasks.bank.toList.map (maskParity a) = defaultMasks.bank.toList.map (maskParity b) :=
    List.map_congr_left fun k hk => maskParity_mem _ h (.inr hk)
  rw [(defaultMasks_home a).1, (defaultMasks_home b).1] at hch
  rw [(defaultMasks_home a).2, (defaultMasks_home b).2] at hbank
  simp only [rowBits, List.forall_mem_cons] at hrow
  obtain ⟨h19, h20, h21, h22, h23, h24, h25, h26, h27, h28, h29, h30, h31, h32, -⟩ := hrow
  simp only [h19, h20, h21, h22, h23, h24, h25, h26, h27, h28, h29, h30, h31, h32, List.cons.injEq,
    Bool.bne_left_inj, and_true] at hch hbank
  obtain ⟨b8, b9, b10, b11, b12⟩ := hch
  obtain ⟨b13, b14, b15, b16⟩ := hbank
  interval_cases i <;> assumption

theorem locate_defaultMasks_inj {a b : Nat} (ha : a < 2 ^ 35) (hb : b < 2 ^ 35)
    (h : locate defaultMasks a = locate defaultMasks b) : a = b := by
  refine Nat.eq_of_testBit_eq fun i => ?_
  by_cases hlow : i < 7
  · have hbyte : a % 2 ^ 7 = b % 2 ^ 7 := congrArg Location.byte h
    have hbit := congrArg (Nat.testBit · i) hbyte
    simpa only [Nat.testBit_mod_two_pow, hlow, decide_true, Bool.true_and] using hbit
  by_cases hhome : 8 ≤ i ∧ i ≤ 16
  · exact homeBits_eq h hhome.1 hhome.2
  by_cases hhigh : 35 ≤ i
  · have hpow := Nat.pow_le_pow_right (n := 2) (by decide) hhigh
    rw [Nat.testBit_lt_two_pow (Nat.lt_of_lt_of_le ha hpow), Nat.testBit_lt_two_pow (Nat.lt_of_lt_of_le hb hpow)]
  · refine testBit_mem _ h ?_
    simp only [columnBits, rowBits, List.mem_cons, List.not_mem_nil, or_false]
    omega

/-! ## The locked window -/

/-- The line that a slice, a way and a set name lies there, and in their unit (R320). -/
theorem lockedOffset_place {slice way set : Nat} (hs : slice < 32) (hw : 8 ≤ way) (hw' : way < 16) (hset : set < 512) :
    let o := lockedOffset slice way set
    o < windowSize ∧ o % 128 = 0 ∧ sliceOf o = slice ∧ lockedWay o = way ∧ setOf o = set ∧
      o / 0x4_0000 = lockedUnit way set := by
  intro o
  let top := ((15 - way) * 2 ^ 21 + set * 2 ^ 12) / 2 ^ 17 % 32
  let x := slice ^^^ set % 32 ^^^ top
  have hx : x < 32 :=
    Nat.xor_lt_two_pow (n := 5) (Nat.xor_lt_two_pow (n := 5) hs (Nat.mod_lt _ (by decide))) (Nat.mod_lt _ (by decide))
  have ho : o = (15 - way) * 2 ^ 21 + set * 2 ^ 12 + 2 ^ 7 * x := rfl
  have hslice : sliceOf o = x ^^^ set % 32 ^^^ top := by
    have h7 : o / 2 ^ 7 % 32 = x := by omega
    have h12 : o / 2 ^ 12 % 32 = set % 32 := by omega
    have h17 : o / 2 ^ 17 % 32 = top := by omega
    rw [sliceOf, h7, h12, h17]
  refine ⟨?_, by omega, ?_, ?_, ?_, ?_⟩
  · unfold windowSize; omega
  · rw [hslice, Nat.xor_assoc x, show x = slice ^^^ (set % 32 ^^^ top) from Nat.xor_assoc ..,
      Nat.xor_assoc, Nat.xor_self, Nat.xor_zero]
  · unfold lockedWay; omega
  · unfold setOf; omega
  · unfold lockedUnit; omega

/-- Settles O46: the bounds are those of numbers made of bits, the default masks are told apart bit by bit. -/
theorem everyLineHasItsOwnPlace : Obligations.EveryLineHasItsOwnPlace := by
  unfold Obligations.EveryLineHasItsOwnPlace
  refine ⟨fun m a => ⟨?_, ?_, ?_, rfl, fun _ => ?_⟩, fun a b ha hb h => locate_defaultMasks_inj ha hb h,
    fun slice way set hs hw hw' hset => lockedOffset_place hs hw hw' hset⟩
  · exact (bitNumber_lt _ m.ch.toList).trans_eq (by rw [Vector.length_toList]; rfl)
  · exact (bitNumber_lt _ m.bank.toList).trans_eq (by rw [Vector.length_toList]; rfl)
  · exact locate_column m a ▸ bitNumber_lt _ columnBits
  · exact locate_row m a ▸ bitNumber_lt _ rowBits

end Sys2Proof.Machine
end

section
/-! Limits of the quantiser and of the adaptive exponent (R253, R255, R261). -/

namespace Sys2Proof.Machine

/-! ## Integer codes -/

section
variable {k : TileEnv} {o : OutSpec} {g : Nat} {e : Rescale} {a : Int} {v : Val}

/-- What the mask makes of a code, which is within the limits whenever the code and ZOUT are. -/
theorem quantise_code_cases (hi : o.type.isInt = true) :
    (quantise k o g e a v).code = e.zout ∨ (quantise k o g e a v).code = e.lo ∨ (quantise k o g e a v).code = e.hi ∨
      ∃ y : Int, (quantise k o g e a v).code = min (max y e.lo) e.hi := by
  unfold quantise
  extract_lets r c
  have hc : c.code = e.zout ∨ c.code = e.lo ∨ c.code = e.hi ∨ ∃ y : Int, c.code = min (max y e.lo) e.hi := by
    unfold c
    simp only [hi, if_true]
    cases rescaleInput e a v with
    | nan => exact .inl rfl
    | inf neg =>
      cases neg with
      | true => exact .inr (.inl rfl)
      | false => exact .inr (.inr (.inl rfl))
    | fin n m x => exact .inr (.inr (.inr ⟨_, rfl⟩))
  split
  · split
    · exact hc
    · exact .inl rfl
  · exact hc

theorem quantise_code_bounds (hi : o.type.isInt = true) (hl : e.lo ≤ e.zout) (hh : e.zout ≤ e.hi) :
    e.lo ≤ (quantise k o g e a v).code ∧ (quantise k o g e a v).code ≤ e.hi := by
  rcases quantise_code_cases (k := k) (g := g) (e := e) (a := a) (v := v) hi with h | h | h | ⟨y, h⟩ <;> omega

end

/-! ## Stochastic rounding -/

/-- With no exponent the floor is taken of p ÷ 2^(r - k). -/
theorem roundStochastic_exp_zero (neg : Bool) (m r : Nat) (bits : Nat → Nat) :
    roundStochastic neg m 0 r bits =
      (Fp.signed neg m / 2 ^ (r - min r 24) + bits (min r 24)) / 2 ^ min r 24 := by
  have hneg : (0 - ((r - min r 24 : Nat) : Int)).toNat = 0 := by omega
  have hpos : (-(0 - ((r - min r 24 : Nat) : Int))).toNat = r - min r 24 := by omega
  rw [roundStochastic, floorFp, hneg, hpos, pow_zero, mul_one]

theorem add_lt_ediv_bounds {q b d : Int} (hd : 0 < d) (hb : 0 ≤ b) (hlt : b < d) :
    q / d ≤ (q + b) / d ∧ (q + b) / d ≤ q / d + 1 := by
  constructor
  · exact Int.ediv_le_ediv hd (by omega)
  · calc (q + b) / d ≤ (q + 1 * d) / d := Int.ediv_le_ediv hd (by omega)
      _ = q / d + 1 := Int.add_mul_ediv_right q 1 hd.ne'

theorem add_lt_ediv_of_dvd {q b d : Int} (hb : 0 ≤ b) (hlt : b < d) (hq : d ∣ q) : (q + b) / d = q / d := by
  rw [Int.add_ediv_of_dvd_left hq, Int.ediv_eq_zero_of_lt hb hlt, add_zero]

/-- Stochastic rounding gives one of the two neighbours, and an exact value itself. -/
theorem roundStochastic_neighbours (neg : Bool) (m r : Nat) {bits : Nat → Nat} (hb : bits (min r 24) < 2 ^ min r 24) :
    let p := Fp.signed neg m
    let y := roundStochastic neg m 0 r bits
    (p / 2 ^ r ≤ y ∧ y ≤ p / 2 ^ r + 1) ∧ (p % 2 ^ r = 0 → y = p / 2 ^ r) := by
  intro p y
  have hy : y = (p / 2 ^ (r - min r 24) + bits (min r 24)) / 2 ^ min r 24 := roundStochastic_exp_zero neg m r bits
  have hsplit : (2 : Int) ^ r = 2 ^ (r - min r 24) * 2 ^ min r 24 := by
    rw [← pow_add, Nat.sub_add_cancel (Nat.min_le_left r 24)]
  have hp : p / 2 ^ r = p / 2 ^ (r - min r 24) / 2 ^ min r 24 := by
    rw [hsplit, Int.ediv_ediv_of_nonneg (by positivity)]
  have hlt : (bits (min r 24) : Int) < 2 ^ min r 24 := by exact_mod_cast hb
  rw [hy, hp]
  refine ⟨add_lt_ediv_bounds (by positivity) (by omega) hlt, fun hz => add_lt_ediv_of_dvd (by omega) hlt ?_⟩
  rw [hsplit] at hz
  obtain ⟨c, hc⟩ := Int.dvd_of_emod_eq_zero hz
  rw [hc, mul_assoc, Int.mul_ediv_cancel_left _ (by positivity)]
  exact Dvd.intro c rfl

/-! ## A step of an adaptive tensor -/

section
variable {x : AdaptState} {freezeAll : Bool} {c : AdaptCount}

theorem adaptStep_frozen (h : x.freeze = true ∨ freezeAll = true) :
    (adaptStep x freezeAll c).state = { x with satLast := c.saturated } := by
  rw [adaptStep, if_pos (by simpa using h)]

/-- Too many saturated outputs raise the exponent by one, as far as its limit. -/
theorem adaptStep_raises (hmax : x.exp ≤ x.expMax) (hx : x.freeze = false) (hf : freezeAll = false)
    (hs : x.thresh * c.outputs < c.saturated * 65536) : (adaptStep x freezeAll c).state =
      { x with exp := min (x.exp + 1) x.expMax, lowRun := 0, satLast := c.saturated } := by
  rw [adaptStep, if_neg (by simp [hx, hf]), if_pos hs]
  split
  next h => rw [min_eq_left (by omega)]
  next h => rw [min_eq_right (by omega), show x.expMax = x.exp by omega]

/-- A step moves the exponent by at most one, within its limits. -/
theorem adaptStep_exp (hmin : x.expMin ≤ x.exp) (hmax : x.exp ≤ x.expMax) :
    let y := (adaptStep x freezeAll c).state
    y.expMin ≤ y.exp ∧ y.exp ≤ y.expMax ∧ (y.exp - x.exp).natAbs ≤ 1 ∧ y.satLast = c.saturated := by
  have hstay : x.expMin ≤ x.exp ∧ x.exp ≤ x.expMax ∧ (x.exp - x.exp).natAbs ≤ 1 := ⟨hmin, hmax, by omega⟩
  intro y
  unfold y adaptStep
  dsimp only
  split
  · exact ⟨hmin, hmax, hstay.2.2, rfl⟩
  split
  · split
    next h => exact ⟨by dsimp only; omega, by dsimp only; omega, by dsimp only; omega, rfl⟩
    next => exact ⟨hmin, hmax, hstay.2.2, rfl⟩
  split
  · split
    · split
      next h => exact ⟨by dsimp only; omega, by dsimp only; omega, by dsimp only; omega, rfl⟩
      next => exact ⟨hmin, hmax, hstay.2.2, rfl⟩
    · exact ⟨hmin, hmax, hstay.2.2, rfl⟩
  · exact ⟨hmin, hmax, hstay.2.2, rfl⟩

end

/-- Settles O59: bounds of a code, neighbours of a stochastic rounding and a step's move are lemmas. -/
theorem quantisedCodesAndExponentsKeepTheirLimits : Obligations.QuantisedCodesAndExponentsKeepTheirLimits := by
  unfold Obligations.QuantisedCodesAndExponentsKeepTheirLimits
  refine ⟨fun k o g e a v hi hl hh => quantise_code_bounds hi hl hh,
    fun neg m r bits hb => roundStochastic_neighbours neg m r hb, fun x freezeAll c hmin hmax => ?_⟩
  obtain ⟨hlo, hhi, hone, hsat⟩ := adaptStep_exp (freezeAll := freezeAll) (c := c) hmin hmax
  refine ⟨hlo, hhi, hone, hsat, adaptStep_frozen, fun hx hf hs => ?_⟩
  rw [adaptStep_raises hmax hx hf hs]
  exact ⟨rfl, rfl⟩

end Sys2Proof.Machine
end

section
/-! Firmware's guards, and the loss of the device: what it leaves, and what a held function reset makes of it
(R403, R494, R508, R509, R513). -/

namespace Sys2Proof.Machine

/-! ## The loss of the device -/

/-- What a declared loss shows: its cause, FAULT_N, memory in retention and the fence of every Quay. -/
structure ShowsLoss (cause : BitVec 16) (t : State) : Prop where
  state : t.lighthouse.state = .lost
  cause : t.lighthouse.cause = cause
  faultN : t.env.faultN = true
  retention : t.memctl.retention = true
  fence : ∀ q : QuayId, t.quays[q].recoveryFence = true

theorem sendAer_same (s : State) (k : AerKind) {f : Field} (hf : Nat.testBit 0x20000000020 f.bit = false) :
    f.same s (s.sendAer k) :=
  (keeps_sendAer rfl (.refl 0x20000000020 s) k).same f hf

theorem declareLost_shows {s : State} (h : s.lost = false) (cause : BitVec 16) :
    ShowsLoss cause (s.declareLost cause) := by
  unfold State.declareLost
  rw [h]
  simp only [Bool.false_eq_true, if_false]
  refine ⟨?_, ?_, ?_, ?_, fun q => ?_⟩
  · exact congrArg (·.state) (sendAer_same _ .uncorrectableInternal (f := .lighthouse) rfl)
  · exact congrArg (·.cause) (sendAer_same _ .uncorrectableInternal (f := .lighthouse) rfl)
  · exact congrArg (·.faultN) (sendAer_same _ .uncorrectableInternal (f := .env) rfl)
  · exact congrArg (·.retention) (sendAer_same _ .uncorrectableInternal (f := .memctl) rfl)
  · rw [sendAer_same _ .uncorrectableInternal (f := .quays) rfl]
    simp

/-- The environment after a declared loss is what it was but for FAULT_N. -/
theorem declareLost_env {s : State} (h : s.lost = false) (cause : BitVec 16) :
    (s.declareLost cause).env = { s.env with faultN := true } := by
  unfold State.declareLost
  rw [h]
  simp only [Bool.false_eq_true, if_false]
  rw [sendAer_same _ .uncorrectableInternal (f := .env) rfl]
  exact congrArg (fun e : Env => { e with faultN := true })
    ((keeps_countFault rfl (.refl 0x2000000000 s) .fatal).same .env rfl)

theorem lost_of_shows {cause : BitVec 16} {t : State} (h : ShowsLoss cause t) : t.lost = true :=
  decide_eq_true h.state

theorem loseDevice_shows {s : State} (h : s.lost = false) (hr : s.env.heldFunctionReset = none)
    (cause : BitVec 16) : ShowsLoss cause (s.loseDevice cause) := by
  have hs := declareLost_shows h cause
  have hl := lost_of_shows hs
  have hheld : (s.declareLost cause).env.heldFunctionReset = none := by rw [declareLost_env h, hr]
  unfold State.loseDevice State.releaseHeldReset
  simp [h, hs, hs.state, hl, hheld]

/-- A function reset that meets a loss whose cause it leaves. -/
theorem functionReset_of_leavesLost {s : State} (hr : s.running = true) (hl : s.lost = true) (p : BitVec 3)
    (d : List (Nat × Byte)) (h : (s.formPair p).leavesLost p d = true) :
    (s.functionReset p d).env.reset = .function ∧ (s.functionReset p d).lighthouse.state = .normal := by
  have hst : s.boot.stage = .running := of_decide_eq_true hr
  have hlo : s.lighthouse.state = .lost := of_decide_eq_true hl
  unfold State.functionReset
  simp only [hst, hlo, hl, h, if_true, Bool.not_true, Bool.false_eq_true, and_false, or_false, ne_eq,
    not_true_eq_false, if_false, reduceCtorEq]
  generalize hu : State.mk .. = u
  refine ⟨rfl, ?_⟩
  rw [(keeps_startFunctionReset rfl (.refl 0x36bb6ff7d8 u)).same .lighthouse rfl, ← hu]

theorem loseDevice_held {s : State} (hr : s.running = true) (h : s.lost = false)
    (hf : s.env.heldFunctionReset ≠ none) :
    (s.loseDevice 0x4003).env.reset = .function ∧ (s.loseDevice 0x4003).lighthouse.state = .normal := by
  obtain ⟨⟨p, d⟩, hp⟩ := Option.ne_none_iff_exists'.1 hf
  have hs := declareLost_shows h 0x4003
  have hl := lost_of_shows hs
  have hrun : (s.declareLost 0x4003).running = true := by
    rw [State.running, (keeps_declareLost rfl (.refl 0x26000240028 s) 0x4003).same .boot rfl]
    exact hr
  have hheld : (s.declareLost 0x4003).env.heldFunctionReset = some (p, d) := by rw [declareLost_env h, hp]
  unfold State.loseDevice State.releaseHeldReset
  simp only [h, hs.state, hl, hheld, Bool.not_true, Bool.false_eq_true, and_false, or_false, if_false,
    reduceCtorEq]
  generalize hu : State.mk .. = u
  refine functionReset_of_leavesLost (by rw [← hu]; exact hrun) (by rw [← hu]; exact hl) p d ?_
  have hc : (u.formPair p).lighthouse.cause = 0x4003 := by rw [← hu]; exact hs.cause
  unfold State.leavesLost
  rw [hc]
  rfl

/-! ## The watchdogs and the traps -/

theorem stopPilot_of_runs {s : State} {q : QuayId} {f : Flight} (ho : s.quayOwner q = some f) (hp : s.quays[q].pilotRunning = true)
    (hr : s.quays[q].resetting = false) (hd : f.run.arrayDone = false) (reason : BitVec 16) :
    let u := s.updQuay q ({ · with pilotRunning := false })
    s.stopPilot q reason =
      (u.report (u.tileEvent f q none reason .contained 2 false)).failQuiet f.q f.idx reason := by
  unfold State.stopPilot
  simp [-Fin.getElem_fin, ho, hp, hr, hd]

section
variable {s : State} {q : QuayId} (hf : s.fwUp = true)
include hf

theorem exec_sequencerWatchdog {b : BerthId} {r : TileRun} {f : Flight} {a : List Nat}
    (hr : (s.berth q b).tile = some r) (ha : s.arrayAt q b = some a)
    (hfl : s.flight? r.cmd.1 r.cmd.2 = some f) :
    exec (.sequencerWatchdog q b) s =
      .next (if r.tile.stated + 4096 < r.tile.runs
        then s.stopTile f q a (s.tileEvent f q b 0x2003 .contained 1 false) else s) := by
  simp only [exec, execSequencerWatchdog, hf, hr, ha, hfl, Bool.not_true, Bool.false_eq_true, if_false]
  split <;> rfl

theorem exec_quayArbitrationFault (at_ : QuayArb) {cq : QueueId} {idx : Word} {f : Flight}
    (hfl : s.flight? cq idx = some f) (hq : q ∈ f.run.quays) (he : f.ended = false)
    (hs : f.phase ≠ .suspended) :
    ∃ e : Event, e.reason = 0x3006 ∧ e.severity = .contained ∧ e.level = 2 ∧
      e.quay = BitVec.ofNat 8 q.val ∧ exec (.quayArbitrationFault q at_ cq idx) s =
        .next (((s.report e).countRepair (.arbiter q) 1 0x3006).failQuiet cq idx 0x3006) := by
  simp only [exec, execQuayArbitrationFault, hf, hfl, List.contains_iff_mem.2 hq, he, decide_eq_false hs,
    Bool.not_true, Bool.or_self, Bool.false_eq_true, if_false]
  exact ⟨_, rfl, rfl, rfl, rfl, rfl⟩

end

/-- Settles O40: what runs under firmware's clock fails its command; the device arbiter's fault declares the loss, or
meets the function reset that was held. -/
theorem watchdogsAndArbitersFailOneCommand : Obligations.WatchdogsAndArbitersFailOneCommand := by
  unfold Obligations.WatchdogsAndArbitersFailOneCommand
  refine ⟨fun s q hf => ⟨fun b r f a hr ha hfl => ⟨fun hlt => ?_, fun hle => ?_⟩, ?_⟩, fun s => ⟨?_, ?_⟩⟩
  · rw [exec_sequencerWatchdog hf hr ha hfl, if_pos hlt]
  · rw [exec_sequencerWatchdog hf hr ha hfl, if_neg (Nat.not_lt.2 hle)]
  · intro f ho hp hr hd u
    refine ⟨?_, ?_⟩
    · simp only [exec, execPilotWatchdog, hf, if_true, stopPilot_of_runs ho hp hr hd]
      rfl
    · simp only [exec, execPilotTrap, hf, if_true, stopPilot_of_runs ho hp hr hd]
      rfl
  · exact fun q at_ cq idx f hf hfl hq he hs => exec_quayArbitrationFault hf at_ hfl hq he hs
  · intro ha hfr
    have ht : exec .deviceArbitrationFault s = .next (s.loseDevice 0x4003) := by
      simp [exec, execDeviceArbitrationFault, ha, hfr]
    simp only [State.alive, Bool.and_eq_true, Bool.not_eq_true'] at ha
    obtain ⟨⟨⟨hrun, hl⟩, -⟩, -⟩ := ha
    refine ⟨_, ht, fun hh => ?_, loseDevice_held hrun hl, exec_frame ht⟩
    have hs := loseDevice_shows hl hh 0x4003
    exact ⟨hs.state, hs.cause, hs.faultN, hs.retention, hs.fence⟩

end Sys2Proof.Machine
end

section
/-! Stage 2 and negotiation (R80, R406–R409): what a report leaves of firmware's interface, and what READY takes. -/

namespace Sys2Proof.Machine

/-! ## A report leaves firmware's interface but for its rings -/

/-- Firmware's interface `w` with the rings, and the entries that step 6 holds, of `r`. -/
def withRings (w r : Fwif) : Fwif :=
  { w with stopped := r.stopped, log := r.log, trace := r.trace, traceSeq := r.traceSeq }

/-- Firmware's interface stands but for the log and trace rings and the entries that step 6 holds. -/
structure FwStands (s t : State) : Prop where
  eq : t.fwif = withRings s.fwif t.fwif

namespace FwStands

theorem of_eq {s t : State} (h : t.fwif = s.fwif) : FwStands s t := ⟨by rw [h]; rfl⟩

theorem trans {s t u : State} (h : FwStands s t) (k : FwStands t u) : FwStands s u :=
  ⟨k.eq.trans (congrArg (withRings · u.fwif) h.eq :)⟩

theorem congr {s t u : State} (k : FwStands t u) (h : t.fwif = s.fwif) : FwStands s u := (FwStands.of_eq h).trans k

variable {s t : State} (h : FwStands s t)
include h

theorem state : t.fwif.state = s.fwif.state := (congrArg Fwif.state h.eq :)
theorem reason : t.fwif.reason = s.fwif.reason := (congrArg Fwif.reason h.eq :)
theorem feat : t.fwif.feat = s.fwif.feat := (congrArg Fwif.feat h.eq :)
theorem negotiating : t.fwif.negotiating = s.fwif.negotiating := (congrArg Fwif.negotiating h.eq :)
theorem reqGo : t.fwif.reqGo = s.fwif.reqGo := (congrArg Fwif.reqGo h.eq :)

end FwStands

theorem logPut_fwStands (s : State) (e : Event) (buffered : Bool) : FwStands s (s.logPut e buffered) := by
  unfold State.logPut
  dsimp only
  split
  · exact .of_eq rfl
  · split
    · exact ⟨rfl⟩
    · split
      · exact ⟨rfl⟩
      · exact .trans (t := { s with fwif := { s.fwif with log := s.fwif.log.push } }) ⟨rfl⟩
          (.of_eq (sendMsix_fwif ..))

theorem logEvent_fwStands (s : State) (e : Event) : FwStands s (s.logEvent e) := by
  unfold State.logEvent
  dsimp only
  split
  · exact logPut_fwStands s e false
  · split <;> exact ⟨rfl⟩

theorem trace_fwStands (s : State) (point a b : Nat) : FwStands s (s.trace point a b) := by
  unfold State.trace
  dsimp only
  split
  · exact .of_eq rfl
  · split <;> exact ⟨rfl⟩

theorem faultPut_fwStands (s : State) (e : Event) (buffered : Bool) : FwStands s (s.faultPut e buffered) := by
  unfold State.faultPut
  dsimp only
  split
  · exact .of_eq rfl
  · refine .trans (.of_eq ?_) (trace_fwStands _ ..)
    split
    · rfl
    · exact sendMsix_fwif ..

theorem faultEvent_fwStands (s : State) (e : Event) : FwStands s (s.faultEvent e) := by
  unfold State.faultEvent
  dsimp only
  split
  · exact faultPut_fwStands s e false
  · split <;> exact .of_eq rfl

theorem report_fwStands (s : State) (e : Event) : FwStands s (s.report e) := by
  unfold State.report
  split
  · exact .of_eq rfl
  · split
    · exact ⟨rfl⟩
    · extract_lets e u v
      have hu : FwStands s u := logEvent_fwStands s e
      have hv : FwStands u v := by
        unfold v
        split
        · exact .of_eq rfl
        · exact .trans (.of_eq ((keeps_countFault rfl (.refl 0x2000000000 u) e.severity).same .fwif rfl))
            (faultEvent_fwStands _ e)
      exact (hu.trans hv).trans (.of_eq ((keeps_sendAreaMsix rfl (.refl 0x20000000010 v) e.reason).same .fwif rfl))

theorem note_fwStands (s : State) (reason : BitVec 16) (sev : Severity) (detail : Nat) :
    FwStands s (s.note reason sev detail) := report_fwStands ..

theorem foldl_fwStands {α : Type} {f : State → α → State} (h : ∀ s a, FwStands s (f s a)) (l : List α) :
    ∀ s, FwStands s (l.foldl f s) := by
  induction l with
  | nil => exact fun s => .of_eq rfl
  | cons a l ih => exact fun s => (h s a).trans (ih _)

/-! ## What READY takes -/

theorem takeEnable_fwStands (s : State) (q : QueueId) : FwStands s (s.takeEnable q) := by
  unfold State.takeEnable
  split
  · exact .of_eq (by simp)
  · dsimp only
    exact (report_fwStands _ _).congr rfl

theorem takeEnable_enHeld (s : State) (q p : QueueId) (h : p = q ∨ s.queues[p].enHeld = false) :
    (s.takeEnable q).queues[p].enHeld = false := by
  have hget (g : Queue → Queue) (hg : ∀ x, (g x).enHeld = false) :
      (s.updQueue q g).queues[p].enHeld = false := by
    rw [State.updQueue_queues, updAt_get]
    split
    · exact hg _
    · exact h.resolve_left (by assumption)
  unfold State.takeEnable
  split
  · rw [ltrUpdate_queues]
    exact hget _ fun _ => rfl
  · rw [report_queues]
    exact hget _ fun _ => rfl

/-- The held enables of a list of queues are taken. -/
def takeHeld (l : List QueueId) (s : State) : State :=
  l.foldl (fun s q => if s.queues[q].enHeld then s.takeEnable q else s) s

theorem takeHeld_fwStands (l : List QueueId) (s : State) : FwStands s (takeHeld l s) :=
  foldl_fwStands (fun s q => by
    split
    · exact takeEnable_fwStands s q
    · exact .of_eq rfl) l s

theorem takeHeld_keeps (l : List QueueId) (s : State) : Keeps 0x22000081290 s (takeHeld l s) :=
  keeps_foldl (.refl _ s) fun s q h => by
    split
    · exact keeps_takeEnable rfl h q
    · exact h

theorem takeHeld_enHeld (l : List QueueId) (p : QueueId) :
    ∀ s : State, (p ∈ l ∨ s.queues[p].enHeld = false) → (takeHeld l s).queues[p].enHeld = false := by
  induction l with
  | nil => exact fun s h => h.resolve_left (by simp)
  | cons q l ih =>
    refine fun s h => ih _ ?_
    by_cases hp : p ∈ l
    · exact .inl hp
    · right
      dsimp only
      split
      · refine takeEnable_enHeld s q p (h.imp_left fun hq => ?_)
        exact (List.mem_cons.1 hq).resolve_right hp
      · next hq =>
        rcases h with h | h
        · rw [(List.mem_cons.1 h).resolve_right hp]
          exact eq_false_of_ne_true hq
        · exact h

theorem startLoad_fwStands (s : State) : FwStands s s.startLoad := by
  unfold State.startLoad
  extract_lets carries m u
  exact (trace_fwStands u ..).congr rfl

theorem startLoad_spec (s : State) :
    let t := s.startLoad
    t.ready = s.ready ∧ t.queues = s.queues ∧ t.sched = s.sched ∧
      t.manifest.enable = true ∧ t.manifest.held = false ∧ t.manifest.load ≠ none := by
  unfold State.startLoad
  extract_lets carries m u t
  have hm : t.manifest = u.manifest := trace_manifest ..
  rw [hm]
  exact ⟨trace_ready .., trace_queues .., trace_sched .., rfl, rfl, Option.some_ne_none _⟩

/-- What READY releases (R142, R144, R168). -/
theorem becomeReady_spec (s : State) :
    let t := s.becomeReady
    t.ready = { s.ready with ready := true } ∧ FwStands s t ∧ (∀ q : QueueId, t.queues[q].enHeld = false) ∧
      t.sched.nextSweep = s.now + BitVec.ofNat 64 s.hostif.qsweep.toNat ∧
      (s.manifest.held = true →
        t.manifest.enable = true ∧ t.manifest.held = false ∧ t.manifest.load ≠ none) := by
  have hall : ∀ q : QueueId, q ∈ List.finRange 256 := List.mem_finRange
  unfold State.becomeReady
  generalize List.finRange 256 = l at hall
  extract_lets ready sched a u t
  have hk : Keeps 0x22000081290 a u := takeHeld_keeps l a
  have hm : u.manifest = s.manifest := hk.same .manifest rfl
  have hheld (q : QueueId) : u.queues[q].enHeld = false := takeHeld_enHeld l q a (.inl (hall q))
  have hfw : FwStands s u := (takeHeld_fwStands l a).congr rfl
  have hst : u.ready = a.ready := hk.same .ready rfl
  have hsc : u.sched = a.sched := hk.same .sched rfl
  have ht : t = if s.manifest.held then u.startLoad else u := by unfold t; rw [hm]
  clear_value t
  cases hm : s.manifest.held with
  | true =>
    obtain rfl : t = u.startLoad := by rw [ht, hm]; rfl
    obtain ⟨hr, hq, hs, hload⟩ := startLoad_spec u
    exact ⟨hr.trans hst, hfw.trans (startLoad_fwStands u), fun q => by rw [hq]; exact hheld q,
      (congrArg Sched.nextSweep hs).trans (congrArg Sched.nextSweep hsc), fun _ => hload⟩
  | false =>
    obtain rfl : t = u := by rw [ht, hm]; rfl
    exact ⟨hst, hfw, hheld, congrArg Sched.nextSweep hsc, fun h => absurd h (by decide)⟩

/-! ## The four commands -/

theorem exec_fwifLoad {s : State} (h : s.answers = true) : exec .fwifLoad s = .next s.wakeSlack.writeLoad := by
  simp [exec, execFwifLoad, h]

theorem exec_negotiate {s : State} (h : s.answers = true) : exec .negotiate s = .next s.wakeSlack.writeNegotiate := by
  simp [exec, execNegotiate, h]

/-- Pages that match stay in force, and the load is complete. -/
theorem stage2LoadDone_good {s : State} (hf : s.fwUp = true) (hl : s.fwif.state = .loading)
    (hg : ∀ i < s.boot.stage2Pages, s.pageGood i = true) : ∃ t, exec .stage2LoadDone s = .next t ∧
      t.fwif.state = .loaded ∧ t.fwif.fwVersion = BitVec.ofNat 32 (0x1_0000 + Config.fwMinor.toNat) ∧
      s.sameBut [.fwif] t := by
  have hall : (List.range s.boot.stage2Pages).all s.pageGood = true := by simpa using hg
  refine ⟨((List.range s.boot.stage2Pages).foldl State.keepPage s).stage2Loaded, ?_, rfl, rfl, ?_⟩
  · simp only [exec, execStage2LoadDone, hf, hl, hall, Bool.not_true, ne_eq, not_true_eq_false, decide_false,
      Bool.or_self, Bool.false_eq_true, if_false, if_true]
  · refine Keeps.sameBut (L := 0x200) ?_ rfl
    exact keeps_stage2Loaded rfl (keeps_foldl (.refl _ s) fun _ i h => keeps_keepPage rfl h i)

theorem stage2LoadDone_bad {s : State} (hf : s.fwUp = true) (hl : s.fwif.state = .loading) {i : Nat}
    (hi : i < s.boot.stage2Pages) (hg : s.pageGood i = false) : exec .stage2LoadDone s = .next s.failStage2 := by
  have hall : (List.range s.boot.stage2Pages).all s.pageGood = false := by
    rw [List.all_eq_false]
    exact ⟨i, List.mem_range.2 hi, ne_true_of_eq_false hg⟩
  simp only [exec, execStage2LoadDone, hf, hl, hall, Bool.not_true, ne_eq, not_true_eq_false, decide_false,
      Bool.or_self, Bool.false_eq_true, if_false]

/-- The firmware stops: no command is in flight, READY clears and the host is told. -/
theorem stopFirmware_spec (s : State) :
    let t := s.stopFirmware
    t.fwif.state = .failed ∧ t.fwif.reason = 0x700E ∧ t.fwif.reqGo = false ∧ t.ready.ready = false ∧
      t.flights = [] ∧ t.aer.internal = true := by
  unfold State.stopFirmware
  extract_lets a ready fw memctl u
  have hn := note_fwStands u 0x700E .fatal 0
  rw [ltrUpdate_fwif, haltUpdate_fwif, ltrUpdate_ready, haltUpdate_ready, ltrUpdate_flights, haltUpdate_flights,
    ltrUpdate_aer, haltUpdate_aer, sendAer_same _ .uncorrectableInternal (f := .fwif) rfl,
    sendAer_same _ .uncorrectableInternal (f := .ready) rfl,
    sendAer_same _ .uncorrectableInternal (f := .flights) rfl, hn.state, hn.reason, hn.reqGo, note_ready, note_flights]
  refine ⟨rfl, rfl, rfl, rfl, rfl, ?_⟩
  unfold State.sendAer
  extract_lets b c v
  split <;> rfl

theorem stage2PageCheck_other {s : State} (page : Nat) (h : s.fwif.state ∉ [FwState.ready, .loaded]) :
    exec (.stage2PageCheck page) s = .next s := by
  cases hs : s.fwif.state with
  | ready => simp [hs] at h
  | loaded => simp [hs] at h
  | wait | loading | failed => simp [exec, execStage2PageCheck, hs]

section
variable {s : State} (hf : s.fwUp = true) {page : Nat} (hp : page < s.boot.stage2Pages)
include hf hp

theorem stage2PageCheck_ready (h : s.fwif.state = .ready) : exec (.stage2PageCheck page) s =
    .next (if s.pageGood page = true then s.keepPage page else s.stopFirmware) := by
  simp only [exec, execStage2PageCheck, hf, Nat.not_le.2 hp, h, Bool.not_true, decide_false, Bool.or_self,
    Bool.false_eq_true, if_false]

theorem stage2PageCheck_loaded (h : s.fwif.state = .loaded) : exec (.stage2PageCheck page) s =
    .next (if s.pageGood page = true then s.keepPage page else s.failStage2) := by
  simp only [exec, execStage2PageCheck, hf, Nat.not_le.2 hp, h, Bool.not_true, decide_false, Bool.or_self,
    Bool.false_eq_true, if_false]

end

theorem negotiateDone_spec {s : State} (hf : s.fwUp = true) {v : Word} {feat : BitVec 64}
    (hn : s.fwif.negotiating = some (v, feat)) : ∃ t, exec .negotiateDone s = .next t ∧
      t.ready = { s.ready with ready := true } ∧ t.fwif.state = .ready ∧ t.fwif.feat = feat &&& 0x7FF ∧
      t.fwif.negotiating = none ∧
      (s.ready.ready = false → (∀ q : QueueId, t.queues[q].enHeld = false) ∧
        t.sched.nextSweep = s.now + BitVec.ofNat 64 s.hostif.qsweep.toNat ∧
        (s.manifest.held = true → t.manifest.enable = true ∧ t.manifest.held = false ∧ t.manifest.load ≠ none)) ∧
      (s.ready.ready = true → t.queues = s.queues ∧ t.sched = s.sched ∧ t.manifest = s.manifest) ∧
      s.sameBut (mayChange .negotiateDone) t := by
  let u : State := { s with fwif := { s.fwif with state := .ready, feat := feat &&& 0x7FF, negotiating := none } }
  have hexec : exec .negotiateDone s = .next (if u.ready.ready then u else u.becomeReady) := by
    simp only [exec, execNegotiateDone, hn, hf, Bool.not_true, Bool.false_eq_true, if_false, u]
    split <;> rfl
  cases hr : s.ready.ready with
  | true =>
    rw [if_pos (show u.ready.ready = true from hr)] at hexec
    refine ⟨u, hexec, ?_, rfl, rfl, rfl, fun h => absurd h (by decide), fun _ => ⟨rfl, rfl, rfl⟩, exec_frame hexec⟩
    rw [← hr]
  | false =>
    rw [if_neg (show ¬u.ready.ready = true from ne_true_of_eq_false hr)] at hexec
    obtain ⟨hready, hfw, hq, hsweep, hm⟩ := becomeReady_spec u
    exact ⟨_, hexec, hready, hfw.state, hfw.feat, hfw.negotiating, fun _ => ⟨hq, hsweep, hm⟩,
      fun h => absurd h (by decide), exec_frame hexec⟩

/-- What a write of NEGOTIATE leaves that finds no negotiation, in a state that may begin one (R408). -/
theorem writeNegotiate_open {s : State} (hn : s.fwif.negotiating = none)
    (hs : s.fwif.state = .loaded ∨ s.fwif.state = .ready ∧ ∀ q : QueueId, s.queues[q].en = false) :
    s.writeNegotiate =
      if s.fwif.drvVersion.toNat / 0x1_0000 = 1 ∧ s.fwif.drvFeat.getLsbD 0 = true then
        { s with fwif := { s.fwif with negotiating := some (s.fwif.drvVersion, s.fwif.drvFeat) } }
      else s.refuseFw 0xE001 := by
  have hen : (decide (s.fwif.state = .ready) && s.queues.toList.any (·.en)) = false := by
    rcases hs with h | ⟨-, h⟩
    · rw [h]; rfl
    · rw [Bool.and_eq_false_iff, List.any_eq_false]
      refine .inr fun x hx => ?_
      obtain ⟨i, hi, rfl⟩ := List.getElem_of_mem hx
      simpa using h ⟨i, by simpa using hi⟩
  have hst : s.fwif.state = .loaded ∨ s.fwif.state = .ready := hs.imp_right And.left
  unfold State.writeNegotiate
  simp only [hn, hen, Option.isSome_none, Bool.false_eq_true, if_false]
  rw [if_neg (by rcases hst with h | h <;> simp [h])]
  by_cases h1 : s.fwif.drvVersion.toNat / 0x1_0000 = 1 <;> cases h0 : s.fwif.drvFeat.getLsbD 0 <;>
    simp [h1]

theorem writeNegotiate_enabled {s : State} (hn : s.fwif.negotiating = none) (hs : s.fwif.state = .ready)
    (he : ∃ q : QueueId, s.queues[q].en = true) : s.writeNegotiate = s.refuseFw 0xE002 := by
  have hany : s.queues.toList.any (·.en) = true := by
    obtain ⟨q, hen⟩ := he
    rw [List.any_eq_true]
    exact ⟨s.queues[q], by simp, hen⟩
  unfold State.writeNegotiate
  simp [hn, hs, hany]

/-- Settles O41: one lemma per command and outcome. -/
theorem stageTwoLoadsAndNegotiates : Obligations.StageTwoLoadsAndNegotiates := by
  unfold Obligations.StageTwoLoadsAndNegotiates
  refine ⟨fun s ha => ?_, fun s hf => ⟨fun hl => ⟨stage2LoadDone_good hf hl, fun i hi hg => stage2LoadDone_bad hf hl hi hg⟩,
    fun hl => ?_, fun page hp => ?_, fun v feat hn => negotiateDone_spec hf hn, fun hn => ?_⟩⟩
  · intro u refused area base
    have hu : u.fwif = s.fwif := wakeSlack_fwif s
    have hb : u.boot = s.boot := wakeSlack_boot s
    have hq : u.queues = s.queues := wakeSlack_queues s
    have hp : u.inHostMemory = s.inHostMemory := by
      unfold State.inHostMemory
      rw [show u.part = s.part from wakeSlack_part s]
    rw [exec_fwifLoad ha, exec_negotiate ha]
    refine ⟨fun h => ?_, fun h h0 => ?_, fun h h0 hin => ?_, fun h h0 hin => ?_, fun h => ?_, fun hn => ⟨fun h hen => ?_,
      fun h => ⟨fun hv => ?_, fun hv => ?_⟩⟩⟩
    · rw [State.writeLoad, hu, if_pos h]
      rfl
    · rw [State.writeLoad, hu, hb, if_neg (not_not.2 h), if_pos h0]
    · rw [State.writeLoad, hu, hb, hp, if_neg (not_not.2 h), if_neg h0, if_pos (by rw [hin]; rfl)]
      rfl
    · rw [State.writeLoad, hu, hb, hp, if_neg (not_not.2 h), if_neg h0, if_neg (by rw [hin]; simp)]
    · have hrefuse : (u.fwif.negotiating.isSome ||
          (decide (u.fwif.state ≠ .loaded) && decide (u.fwif.state ≠ .ready))) = true := by
        rw [hu]
        rcases h with h | ⟨h, k⟩
        · rw [Option.isSome_iff_ne_none.2 h, Bool.true_or]
        · rw [decide_eq_true h, decide_eq_true k, Bool.and_self, Bool.or_true]
      rw [State.writeNegotiate, if_pos hrefuse]
      rfl
    · rw [writeNegotiate_enabled (by rw [hu, hn]) (by rw [hu, h]) (by rw [hq]; exact hen)]
      rfl
    · rw [writeNegotiate_open (by rw [hu, hn]) (by rw [hu, hq]; exact h), hu, if_neg hv]
      rfl
    · rw [writeNegotiate_open (by rw [hu, hn]) (by rw [hu, hq]; exact h), hu, if_pos hv]
  · simp [exec, execStage2LoadDone, hl]
  · refine ⟨fun h hg => ?_, fun h hg => ?_, fun h hg => ?_, stage2PageCheck_other page⟩
    · simp only [List.mem_cons, List.not_mem_nil, or_false] at h
      rcases h with h | h
      · rw [stage2PageCheck_ready hf hp h, if_pos hg]
      · rw [stage2PageCheck_loaded hf hp h, if_pos hg]
    · rw [stage2PageCheck_loaded hf hp h, if_neg (ne_true_of_eq_false hg)]
    · have ht : exec (.stage2PageCheck page) s = .next s.stopFirmware := by
        rw [stage2PageCheck_ready hf hp h, if_neg (ne_true_of_eq_false hg)]
      obtain ⟨hst, hre, hgo, hready, hfl, haer⟩ := stopFirmware_spec s
      exact ⟨_, ht, hst, hre, hgo, hready, hfl, haer, exec_frame ht⟩
  · simp only [exec, execNegotiateDone, hn]

end Sys2Proof.Machine
end

section
/-! What the end of a command leaves of firmware's state, of the fences of the Quays and of the queues, wherever it is
settled: in a wait that a flag releases, in a frame that a pipe finishes, in the entry into D3hot. -/

namespace Sys2Proof.Machine

/-- Firmware's state and each Quay's fence stand, and of a queue nothing but CTAIL moves. -/
structure Calm (s t : State) : Prop where
  fw : t.fwif.state = s.fwif.state
  fence : ∀ q : QuayId, t.quays[q].recoveryFence = s.quays[q].recoveryFence
  ctails : OnlyCtails s t

namespace Calm

theorem of_fwStands {L : Nat} {s t : State} (h : FwStands s t) (k : Keeps L s t) (hy : L.testBit 18 = false)
    (hq : L.testBit 12 = false) : Calm s t :=
  ⟨h.state, fun q => by rw [show t.quays = s.quays from k.same .quays hy],
    .of_eq (k.same .queues hq)⟩

theorem of_keeps {L : Nat} {s t : State} (k : Keeps L s t) (hf : L.testBit 9 = false) (hy : L.testBit 18 = false)
    (hq : L.testBit 12 = false) : Calm s t :=
  .of_fwStands (.of_eq (k.same .fwif hf)) k hy hq

theorem of_eq {s t : State} (hf : t.fwif = s.fwif) (hy : t.quays = s.quays) (hq : t.queues = s.queues) : Calm s t :=
  ⟨by rw [hf], fun q => by rw [hy], .of_eq hq⟩

theorem refl (s : State) : Calm s s := .of_eq rfl rfl rfl

theorem trans {s t u : State} (h : Calm s t) (k : Calm t u) : Calm s u :=
  ⟨k.fw.trans h.fw, fun q => (k.fence q).trans (h.fence q), h.ctails.trans k.ctails⟩

theorem congr {s t u : State} (k : Calm t u) (hf : t.fwif = s.fwif) (hy : t.quays = s.quays)
    (hq : t.queues = s.queues) : Calm s u := (Calm.of_eq hf hy hq).trans k

theorem fetching {s t : State} (h : Calm s t) (q : QueueId) : t.queues[q].fetching = s.queues[q].fetching := by
  obtain ⟨n, hn⟩ := h.ctails.eq q
  rw [hn]

theorem foldl {α : Type} {f : State → α → State} (h : ∀ s a, Calm s (f s a)) (l : List α) :
    ∀ s, Calm s (l.foldl f s) := by
  induction l with
  | nil => exact fun s => .refl s
  | cons a l ih => exact fun s => (h s a).trans (ih _)

end Calm

/-! ## The end of a command -/

theorem writeRecord_fwStands (s : State) (fl : Flight) (r : Record) : FwStands s (s.writeRecord fl r) := by
  unfold State.writeRecord
  extract_lets q slot u v w x y
  have hw : w.fwif = s.fwif :=
    (keeps_putHeaderWord (L := 0x20000081000) rfl (keeps_updQueue rfl (keeps_deviceWrite rfl (.refl _ s) _ _ _) _ _) _ _
      _).same .fwif rfl
  have hx : x.fwif = w.fwif := by unfold x; split <;> simp
  have hy : y.fwif = x.fwif := by unfold y; split <;> rfl
  exact (trace_fwStands _ ..).congr (hy.trans (hx.trans hw))

theorem releaseUnits_fence (s : State) (q : QueueId) (idx : Word) (y : QuayId) :
    (s.releaseUnits q idx).quays[y].recoveryFence = s.quays[y].recoveryFence := by
  unfold State.releaseUnits
  extract_lets mine u
  have hu : u.quays = s.quays := (keeps_keepCounts rfl (.refl 0x8000 s) q idx).same .quays rfl
  simp [hu]

theorem releaseUnits_calm (s : State) (q : QueueId) (idx : Word) : Calm s (s.releaseUnits q idx) :=
  have k := keeps_releaseUnits rfl (.refl 0x80048000 s) q idx
  ⟨congrArg Fwif.state (k.same .fwif rfl), releaseUnits_fence s q idx, .of_eq (k.same .queues rfl)⟩

theorem writeRecord_calm (s : State) (fl : Flight) (r : Record) : Calm s (s.writeRecord fl r) :=
  have k := keeps_writeRecord rfl (.refl 0x2000008d210 s) fl r
  ⟨(writeRecord_fwStands s fl r).state, fun q => by rw [show (s.writeRecord fl r).quays = s.quays from k.same .quays rfl],
    writeRecord_onlyCtails s fl r⟩

theorem report_calm (s : State) (e : Event) : Calm s (s.report e) :=
  .of_fwStands (report_fwStands s e) (keeps_report (L := 0x22000080210) rfl (.refl _ s) e) rfl rfl

theorem note_calm (s : State) (reason : BitVec 16) (sev : Severity) (detail : Nat) :
    Calm s (s.note reason sev detail) := report_calm ..

theorem endFlight_calm (s : State) (q : QueueId) (idx : Word) (status : Byte) (reason : BitVec 16) :
    Calm s (s.endFlight q idx status reason) := by
  unfold State.endFlight
  split
  · exact .refl s
  next fl _ =>
    extract_lets u fl1 fl2 v r waits
    have hu : Calm s u := .of_keeps (keeps_chargePhase (L := 0x4000) rfl (.refl _ s) fl) rfl rfl rfl
    have hinfo : Calm u (u.reportInfo fl2) := .foldl (fun s _ => report_calm s _) _ u
    have hv : Calm s v := (hu.trans hinfo).trans (releaseUnits_calm ..)
    split
    · exact hv.trans (.of_eq rfl rfl rfl)
    · exact hv.trans (writeRecord_calm v fl2 r)

theorem settleFences_calm (n : Nat) : ∀ s : State, Calm s (s.settleFences n) := by
  induction n with
  | zero => exact fun s => .refl s
  | succ n ih =>
    intro s
    unfold State.settleFences
    dsimp only
    split
    · exact .refl s
    · exact (endFlight_calm s ..).trans (ih _)

theorem gateQuays_calm (s : State) : Calm s s.gateQuays :=
  ⟨rfl, fun q => by simp [State.gateQuays], .of_eq rfl⟩

theorem regate_calm (s : State) : Calm s s.regate := by
  unfold State.regate
  split
  · exact gateQuays_calm s
  · exact .refl s

theorem settle_calm (s : State) : Calm s s.settle := by
  refine ((settleFences_calm s.flights.length s).trans (regate_calm _)).trans (.of_keeps (L := 0x200000040c0) ?_ rfl rfl rfl)
  exact keeps_ltrUpdate rfl (keeps_noteBlocked rfl (keeps_haltUpdate rfl (.refl _ _)))

theorem finish_calm (s : State) (q : QueueId) (idx : Word) (reason : BitVec 16) : Calm s (s.finish q idx reason) :=
  (endFlight_calm s ..).trans (settle_calm _)

/-! ## Flags -/

theorem trace_calm (s : State) (point a b : Nat) : Calm s (s.trace point a b) :=
  .of_fwStands (trace_fwStands ..) (keeps_trace (L := 0x80200) rfl (.refl _ s) ..) rfl rfl

theorem wakeWaits_calm (f : FlagId) (n : Nat) : ∀ s : State, Calm s (State.wakeWaits f n s) := by
  induction n with
  | zero => exact fun s => .refl s
  | succ n ih =>
    intro s
    unfold State.wakeWaits
    split
    · exact .refl s
    split
    · exact .refl s
    next x _ =>
      extract_lets u
      have hu : Calm s u := (trace_calm (s.updFlight x.q x.idx _) ..).congr rfl rfl rfl
      exact (hu.trans (finish_calm u ..)).trans (ih _)

theorem setFlag_calm (s : State) (f : FlagId) (v : Word) : Calm s (s.setFlag f v) :=
  (wakeWaits_calm f _ (s.putFlag f v)).congr rfl rfl rfl

theorem addFlag_calm (s : State) (f : FlagId) (v : Word) : Calm s (s.addFlag f v) := setFlag_calm ..

theorem wakeAll_calm (s : State) : Calm s s.wakeAll := by
  unfold State.wakeAll
  refine .foldl (fun s f => ?_) s.flights s
  split
  · split
    · exact wakeWaits_calm ..
    · exact .refl s
  · exact .refl s

/-! ## Frames that end in a power state -/

theorem updSession_calm (s : State) (n : SessId) (f : Session → Session) : Calm s (s.updSession n f) :=
  .of_eq rfl rfl rfl

theorem updMem_calm (s : State) (f : Memory → Memory) : Calm s (s.updMem f) := .of_eq rfl rfl rfl

theorem codecRecord_calm (s : State) (n : SessId) (offset length : Nat) (src : SrcFrame) (frame : Nat)
    (slice qp : Byte) (flags : Nat) (blanked : Bool) :
    Calm s (s.codecRecord n offset length src frame slice qp flags blanked) := by
  unfold State.codecRecord
  split
  · exact .refl s
  · extract_lets t bytes u v
    have hu : Calm s u := updMem_calm s _
    have hv : Calm u v := updSession_calm u n _
    exact ((hu.trans hv).trans (trace_calm v ..)).trans (addFlag_calm ..)

theorem abandonFrame_calm (s : State) (n : SessId) : Calm s (s.abandonFrame n) := by
  unfold State.abandonFrame
  split
  next src d _ _ =>
    extract_lets u
    have hrec : Calm s (s.abandonRecord n d src) := by
      unfold State.abandonRecord
      extract_lets x
      exact (codecRecord_calm s ..).trans (updSession_calm _ n _)
    have hnote (v : State) : Calm v (v.noteCoded n d src true) :=
      .of_keeps (keeps_noteCoded (L := 0x10000000) rfl (.refl _ v) ..) rfl rfl rfl
    have hu : Calm s u := (hrec.trans (hnote _)).trans (updSession_calm _ n _)
    split
    · exact hu.trans (.of_eq rfl rfl rfl)
    · exact hu
  · exact .refl s

theorem suspendUnit_calm (s : State) (u : Nat) : Calm s (s.suspendUnit u) := by
  unfold State.suspendUnit
  exact .foldl (fun s n => (abandonFrame_calm s n).trans (updSession_calm _ n _)) _ s

theorem abandonFrames_calm (s : State) : Calm s s.abandonFrames := by
  unfold State.abandonFrames
  refine .foldl (fun s n => ?_) _ s
  dsimp only
  split
  · exact .refl s
  · exact (abandonFrame_calm s n).trans (updSession_calm _ n _)

theorem recorder_calm (s : State) (r : Recorder) : Calm s { s with recorder := r } := .of_eq rfl rfl rfl

theorem record_calm (s : State) (kind flags : Nat) (args payload : List Byte) :
    Calm s (s.record kind flags args payload) := by
  have hplace (u : State) (k f : Nat) (a p : List Byte) : Calm u (u.recPlace k f a p) :=
    .of_keeps (keeps_recPlace (L := 0x400080000) rfl (.refl _ u) ..) rfl rfl rfl
  unfold State.record
  split
  · exact .refl s
  · extract_lets r n need used k u rec w
    split
    · exact .of_eq rfl rfl rfl
    · refine .trans ?_ (hplace w ..)
      unfold w
      split
      · have hu : Calm s u := hplace s ..
        exact (hu.trans (recorder_calm u _)).trans (note_calm _ 0x4040 .information k)
      · exact .refl s

theorem reportLimited_calm (s : State) (key : Nat) (e : Event) : Calm s (s.reportLimited key e) := by
  unfold State.reportLimited
  split
  · dsimp only
    exact (report_calm _ _).congr rfl rfl rfl
  · extract_lets others u
    split
    · exact .of_eq rfl rfl rfl
    · exact (report_calm u _).congr rfl rfl rfl

theorem updStream_calm (s : State) (i : SctxId) (f : Stream → Stream) : Calm s (s.updStream i f) :=
  .of_eq rfl rfl rfl

theorem countTorn_calm (s : State) (i : SctxId) (quiet : Bool) : Calm s (s.countTorn i quiet) := by
  unfold State.countTorn
  extract_lets u
  have hu : Calm s u := updStream_calm s i _
  split
  · exact hu
  · exact hu.trans (reportLimited_calm u ..)

theorem recordPortFrame_calm (s : State) (i : SctxId) : Calm s (s.recordPortFrame i) := by
  unfold State.recordPortFrame
  split
  · exact .refl s
  · split
    · exact .refl s
    · exact record_calm s ..

theorem endFrame_calm (s : State) (i : SctxId) (quiet : Bool) : Calm s (s.endFrame i quiet) := by
  unfold State.endFrame
  refine .foldl (fun s j => ?_) _ s
  split
  · exact .refl s
  · split
    · exact .refl s
    · extract_lets f u v w
      have hu : Calm s u := updStream_calm s j _
      have hw : Calm s w := (hu.trans (trace_calm u ..)).trans (recordPortFrame_calm v j)
      split
      · exact hw.trans (countTorn_calm w j quiet)
      · exact hw

theorem faultBinding_calm (s : State) (i : SctxId) (b : Binding) (e : MmuFault) : Calm s (s.faultBinding i b e) := by
  unfold State.faultBinding
  extract_lets u v left
  have hu : Calm s u := .of_keeps (keeps_captureMmu (L := 0x4000) rfl (.refl _ s) ..) rfl rfl rfl
  exact (hu.trans (report_calm u _)).trans (updStream_calm v i _)

theorem writeVa_calm (s : State) (c : CtxId) (va : Nat) (bs : List Byte) : Calm s (writeVa s c va bs) :=
  .of_keeps (keeps_writeVa (L := 0x20000080000) rfl (.refl _ s) ..) rfl rfl rfl

theorem deliver_calm (s : State) (i : SctxId) (f : Frame) (b : Binding) (no : Word) : Calm s (s.deliver i f b no) := by
  unfold State.deliver
  extract_lets u buffer src
  have hu : Calm s u := by
    unfold u
    split
    · exact updStream_calm s i _
    · exact .refl s
  exact (hu.trans (.foldl (fun s n => updSession_calm s n _) _ u)).trans (addFlag_calm ..)

theorem completeFrame_calm (s : State) (i : SctxId) : Calm s (s.completeFrame i) := by
  unfold State.completeFrame
  split
  · exact .refl s
  next f _ =>
    extract_lets x no u v
    have hu : Calm s u := .of_keeps (keeps_retire (L := 0x2000000) rfl (.refl _ s) i) rfl rfl rfl
    split
    · exact hu
    next b _ =>
      split
      · exact hu
      split
      · exact (hu.trans (updStream_calm u i _)).trans (reportLimited_calm v ..)
      extract_lets ws w y
      split
      · exact hu.trans (faultBinding_calm u ..)
      · have hw : Calm u w := .foldl (fun s _ => writeVa_calm s ..) _ u
        have hy : Calm w y := by
          unfold y
          split
          · exact record_calm w ..
          · exact .refl w
        exact ((hu.trans hw).trans hy).trans (deliver_calm y ..)

theorem drainPipe_calm (s : State) (i : SctxId) : Calm s (s.drainPipe i) := by
  unfold State.drainPipe
  exact .foldl (fun s _ => completeFrame_calm s i) _ s

theorem stopStreams_calm (s : State) : Calm s s.stopStreams := by
  unfold State.stopStreams
  generalize List.finRange 24 = streams
  extract_lets all u v w
  have hu : Calm s u := .foldl (fun s i => updStream_calm s i _) all s
  have hv : Calm u v := .foldl (fun s i => endFrame_calm s i false) all u
  have hw : Calm v w := .foldl drainPipe_calm all v
  exact ((hu.trans hv).trans hw).trans (.of_eq rfl rfl rfl)

/-! ## The entry into D3hot -/

theorem tracePreempt_calm (s : State) (f : Flight) : Calm s (s.tracePreempt f) := by
  unfold State.tracePreempt
  split
  · exact trace_calm s ..
  · exact .foldl (fun s _ => trace_calm s ..) _ s

theorem updFlight_calm (s : State) (q : QueueId) (idx : Word) (g : Flight → Flight) : Calm s (s.updFlight q idx g) :=
  .of_eq rfl rfl rfl

theorem updCtx_calm (s : State) (c : CtxId) (g : Ctx → Ctx) : Calm s (s.updCtx c g) := .of_eq rfl rfl rfl

theorem chargePhase_calm (s : State) (f : Flight) : Calm s (s.chargePhase f) :=
  .of_keeps (keeps_chargePhase (L := 0x4000) rfl (.refl _ s) f) rfl rfl rfl

theorem suspendDispatch_calm (s : State) (q : QueueId) (idx : Word) (byHalt byShed : Bool) :
    Calm s (s.suspendDispatch q idx byHalt byShed) := by
  unfold State.suspendDispatch
  split
  · exact .refl s
  next f _ =>
    extract_lets u v w
    have hu : Calm s u := (chargePhase_calm s f).trans (updFlight_calm _ q idx _)
    have hv : Calm u v := by
      unfold v
      split
      · exact updCtx_calm u ..
      · exact .refl u
    have hw : Calm v w := .of_eq rfl rfl rfl
    exact ((hu.trans hv).trans hw).trans (trace_calm w ..)

theorem preemptFlight_calm (s : State) (f : Flight) (byHalt byShed : Bool) : Calm s (s.preemptFlight f byHalt byShed) := by
  unfold State.preemptFlight
  split
  · extract_lets u
    have hu : Calm s u := by
      unfold u
      split
      · exact tracePreempt_calm s f
      · exact .refl s
    split
    · split
      · exact hu.trans (updFlight_calm u ..)
      · exact hu.trans (suspendDispatch_calm u ..)
    · split
      · exact hu.trans (suspendDispatch_calm u ..)
      · split
        · exact hu.trans (updFlight_calm u ..)
        · exact hu
  · split
    · extract_lets u
      have hu : Calm s u := (tracePreempt_calm s f).trans (updFlight_calm ..)
      split
      · exact hu.trans (updCtx_calm u ..)
      · exact hu
    · exact .refl s
  · split
    · extract_lets u
      have hu : Calm s u := (tracePreempt_calm s f).trans (updFlight_calm ..)
      split
      · exact hu.trans (updCtx_calm u ..)
      · exact hu
    · exact .refl s
  · exact .refl s

theorem preemptAll_calm (s : State) : Calm s s.preemptAll := by
  unfold State.preemptAll
  refine Calm.trans (.foldl (fun s f => preemptFlight_calm s f true false) s.flights s) (.of_keeps (L := 0x200000000c0) ?_ rfl rfl rfl)
  exact keeps_ltrUpdate rfl (keeps_haltUpdate rfl (.refl _ _))

theorem idleSeqs_calm (s : State) : Calm s s.idleSeqs := ⟨rfl, fun q => by simp [State.idleSeqs], .of_eq rfl⟩

theorem dropForPower_calm (s : State) : Calm s s.dropForPower := ⟨rfl, fun _ => rfl, .of_eq rfl⟩

theorem env_calm (s : State) (e : Env) : Calm s { s with env := e } := .of_eq rfl rfl rfl

theorem memctl_calm (s : State) (m : MemCtl) : Calm s { s with memctl := m } := .of_eq rfl rfl rfl

theorem enterD3hot_calm (s : State) : Calm s s.enterD3hot := by
  unfold State.enterD3hot
  split
  · exact .of_eq rfl rfl rfl
  · extract_lets u env v w x y
    have hfrom : Calm s s.haltFrom := .of_keeps (keeps_haltFrom (L := 0x40) rfl (.refl _ s)) rfl rfl rfl
    have hu : Calm s u :=
      ((hfrom.trans (stopStreams_calm _)).trans (dropForPower_calm _)).trans (idleSeqs_calm _)
    have hv : Calm u v := env_calm u _
    have hw : Calm s w := (hu.trans hv).trans (preemptAll_calm v)
    have hx : Calm w x := ((suspendUnit_calm w 0).trans (suspendUnit_calm _ 1)).trans (suspendUnit_calm _ 2)
    have hy : Calm x y := (updMem_calm x _).trans (gateQuays_calm _)
    have hltr (z : State) : Calm z z.ltrUpdate := .of_keeps (keeps_ltrUpdate (L := 0x20000000080) rfl (.refl _ z)) rfl rfl rfl
    exact (((hw.trans hx).trans hy).trans (memctl_calm y _)).trans (hltr _)

/-- A command's failure leaves firmware's state. -/
theorem failQuiet_fw (s : State) (q : QueueId) (idx : Word) (reason : BitVec 16) :
    (s.failQuiet q idx reason).fwif.state = s.fwif.state := by
  unfold State.failQuiet
  extract_lets u v w x
  have hv : v.fwif = s.fwif := by
    unfold v
    split
    · exact (keeps_forgetOutputs rfl (.refl 0x8000080000 u) _).same .fwif rfl
    · rfl
  have hx : x.fwif.state = w.fwif.state := by
    unfold x
    split
    · rw [(keeps_stopQueue rfl (.refl 0x89000 w) q reason).same .fwif rfl]
    · rfl
  rw [(settle_calm x).fw, hx, (endFlight_calm v ..).fw, hv]

end Sys2Proof.Machine
end

section
/-! The re-launch of the Harbourmaster, from its trigger to its end (R504–R507). -/

namespace Sys2Proof.Machine

/-! ## The trigger -/

theorem sameBut_lighthouse (s : State) (l : Lighthouse) : s.sameBut [.lighthouse] { s with lighthouse := l } := by
  intro f hf
  cases f with
  | lighthouse => exact (hf (List.mem_singleton.2 rfl)).elim
  | _ => rfl

/-- The fence of a re-launch stands on every Quay, and no Berth holds a tile. -/
theorem placeRecoveryFence_spec (s : State) (q : QuayId) (b : BerthId) :
    s.placeRecoveryFence.quays[q].recoveryFence = true ∧ (s.placeRecoveryFence.berth q b).tile = none := by
  refine ⟨by simp [State.placeRecoveryFence], ?_⟩
  simp only [State.berth, State.placeRecoveryFence, Fin.getElem_fin, Vector.getElem_map]
  split
  · rfl
  next h => exact Option.not_isSome_iff_eq_none.1 h

section
variable {s : State}

theorem startRecovery_begins (hr : s.running = true) (hl : s.lost = false) (ht : s.triggerTooSoon = false)
    (hold : Bool) : s.startRecovery hold = { s.placeRecoveryFence with
      lighthouse := { s.lighthouse with state := .relaunching, step := 0, bootHoldError := hold }
      ready := { s.ready with ready := false } } := by
  have hst : s.boot.stage = .running := of_decide_eq_true hr
  simp [State.startRecovery, hl, hst, ht, State.placeRecoveryFence]

theorem startRecovery_tooSoon (hr : s.running = true) (hl : s.lost = false) (ht : s.triggerTooSoon = true)
    (hold : Bool) : s.startRecovery hold = s.loseDevice 0x4006 := by
  have hst : s.boot.stage = .running := of_decide_eq_true hr
  simp [State.startRecovery, hl, hst, ht]

theorem startRecovery_starting (hs : s.boot.stage ∈ [Stage.puf, .bist, .training, .align, .windowOpen, .checking, .keys])
    (hl : s.lost = false) (hold : Bool) : s.startRecovery hold = s.bootHalt 0x4006 0 := by
  have h : s.boot.stage ≠ .reset ∧ s.boot.stage ≠ .halted ∧ s.boot.stage ≠ .running := by
    refine ⟨?_, ?_, ?_⟩ <;> intro h <;> simp [h] at hs
  simp [State.startRecovery, hl, h.1, h.2.1, h.2.2]

theorem bootHalt_boot (s : State) (reason : BitVec 16) (detail : Nat) :
    (s.bootHalt reason detail).boot = { s.boot with stage := .halted, reason } := by
  unfold State.bootHalt
  extract_lets u
  exact congrArg (fun b : Boot => { b with stage := Stage.halted }) (bootReport_boot ..)

end

/-! ## The pair and its digest -/

/-- Of three cores of which two pass, the two lowest-numbered that pass. -/
theorem lowestPair : ∀ passed : BitVec 3, 2 ≤ ((List.finRange 3).countP fun c => passed.getLsbD c.val) →
    ∃ a b : BitVec 2, ((List.range 3).filter fun i => passed.getLsbD i)[0]? = some a.toNat ∧
      ((List.range 3).filter fun i => passed.getLsbD i)[1]? = some b.toNat ∧
      passed.getLsbD a.toNat = true ∧ passed.getLsbD b.toNat = true ∧ a.toNat < b.toNat := by decide

theorem formPair_spec (s : State) {passed : BitVec 3}
    (h : 2 ≤ (List.finRange 3).countP fun c => passed.getLsbD c.val) :
    ∃ l : Lighthouse, s.formPair passed = { s with lighthouse := l } ∧ l.passed = passed ∧
      l.state = s.lighthouse.state ∧ passed.getLsbD l.coreA.toNat = true ∧ passed.getLsbD l.coreB.toNat = true ∧
      l.coreA.toNat < l.coreB.toNat := by
  obtain ⟨a, b, ha, hb, hpa, hpb, hlt⟩ := lowestPair passed h
  refine ⟨_, rfl, rfl, rfl, ?_⟩
  dsimp only
  rw [ha, hb]
  simp [hpa, hpb, hlt]

section
variable {s : State}

theorem relaunchAt_lost {n : Nat} (h : s.relaunchAt n = true) : s.lost = false := by
  simp only [State.relaunchAt, Bool.and_eq_true, decide_eq_true_eq] at h
  obtain ⟨⟨h, -⟩, -⟩ := h
  simp [State.lost, h]

theorem exec_relaunchSelfTestDone {passed : BitVec 3} (h : s.relaunchAt 0 = true) :
    exec (.relaunchSelfTestDone passed) s =
      .next (if ((List.finRange 3).countP fun c => passed.getLsbD c.val) < 2
        then { s with lighthouse := { s.lighthouse with passed } }.loseDevice 0x4006
        else { s.formPair passed with lighthouse := { (s.formPair passed).lighthouse with step := 1 } }) := by
  simp only [exec, execRelaunchSelfTestDone, h, Bool.not_true, Bool.false_eq_true, if_false]
  split <;> rfl

theorem exec_relaunchDigestDone {misread : List (Nat × Byte)} (h : s.relaunchAt 1 = true) :
    exec (.relaunchDigestDone misread) s =
      .next (if s.lighthouse.bootHoldError = true then s.loseDevice 0x4013
        else if s.digestMatches misread = true then { s with lighthouse := { s.lighthouse with step := 2 } }
        else s.loseDevice 0x4006) := by
  simp only [exec, execRelaunchDigestDone, h, Bool.not_true, Bool.false_eq_true, if_false]
  split
  · rfl
  · split <;> rfl

end

/-! ## The end -/

theorem endRequest_fw (s : State) (result : BitVec 16) : (s.endRequest result).fwif.state = s.fwif.state := by
  unfold State.endRequest
  generalize List.finRange 32 = l
  extract_lets kind u v fw w x
  have hu : u.fwif = s.fwif := (keeps_foldl (L := 0x200000) (.refl _ s) fun _ c h => keeps_leaveStrict rfl h c _).same .fwif rfl
  have hv : v.fwif = u.fwif := by unfold v; split <;> rfl
  have hx : x.fwif.state = w.fwif.state := by
    unfold x
    split
    · rfl
    · exact (note_fwStands w ..).state
  rw [sendMsix_fwif, hx]
  show v.fwif.state = s.fwif.state
  rw [hv, hu]

theorem interruptRequest_fw (s : State) : s.interruptRequest.fwif.state = s.fwif.state := by
  unfold State.interruptRequest
  split
  · rfl
  · extract_lets ready u
    have hu : u.fwif = s.fwif := by unfold u; split <;> rfl
    rw [endRequest_fw, hu]

/-- The samples of a list of queues are discarded, and no entry is on its way to them. -/
def discardSamples (l : List QueueId) (s : State) : State :=
  l.foldl (fun s q => (s.discardSampled q).updQueue q ({ · with fetching := 0 })) s

theorem discardSampled_fetching (s : State) (q p : QueueId) :
    (s.discardSampled q).queues[p].fetching = s.queues[p].fetching := by
  unfold State.discardSampled
  dsimp only
  split
  · rfl
  · rw [State.setHead, show ∀ u : State, (u.putHeaderWord q 0x14 _).queues = u.queues from fun _ => rfl,
      State.updQueue_queues, updAt_get]
    split
    next h => rw [h]
    next => rfl

theorem discardSamples_fetching (l : List QueueId) (p : QueueId) :
    ∀ s : State, (p ∈ l ∨ s.queues[p].fetching = 0) → (discardSamples l s).queues[p].fetching = 0 := by
  induction l with
  | nil => exact fun s h => h.resolve_left List.not_mem_nil
  | cons q l ih =>
    refine fun s h => ih _ ?_
    by_cases hp : p ∈ l
    · exact .inl hp
    · right
      rw [State.updQueue_queues, updAt_get]
      split
      · rfl
      next hq =>
        rw [discardSampled_fetching]
        exact h.resolve_left fun hm => hp ((List.mem_cons.1 hm).resolve_left hq)

theorem discardSamples_keeps (l : List QueueId) (s : State) : Keeps 0x89000 s (discardSamples l s) :=
  keeps_foldl (.refl _ s) fun _ q h => keeps_updQueue rfl (keeps_discardSampled rfl h q) q _

/-- Each command that executed fails; one that restored goes back to being suspended. -/
def failExecuting (l : List Flight) (s : State) : State :=
  l.foldl (fun s (f : Flight) =>
    if f.phase = .executing || f.phase = .lightering then s.failQuiet f.q f.idx 0x4001
    else if f.phase = .restoring then
      (s.releaseUnits f.q f.idx).updFlight f.q f.idx fun x => { x with
        phase := .suspended, phaseFrom := s.now, run := { x.run with quays := [] } }
    else s) s

theorem failExecuting_keeps (l : List Flight) (s : State) : Keeps 0x2a0800cd2d0 s (failExecuting l s) :=
  keeps_foldl (.refl _ s) fun _ f h => by
    split
    · exact keeps_failQuiet rfl h ..
    · split
      · exact keeps_updFlight rfl (keeps_releaseUnits rfl h ..) ..
      · exact h

theorem failExecuting_fw (l : List Flight) : ∀ s : State, (failExecuting l s).fwif.state = s.fwif.state := by
  induction l with
  | nil => exact fun s => rfl
  | cons f l ih =>
    refine fun s => (ih _).trans ?_
    beta_reduce
    split
    · exact failQuiet_fw s ..
    · split
      · exact (releaseUnits_calm s f.q f.idx).fw
      · rfl

/-- The work of a re-launch, before the fence is released: commands fail or are discarded, frames and a request are
abandoned, and the event is recorded. -/
def relaunchEnds (l : List Flight) (queues : List QueueId) (s : State) : State :=
  (discardSamples queues (failExecuting l s)).abandonFrames.interruptRequest.note 0x4001 .contained 0

theorem relaunchEnds_keeps (l : List Flight) (queues : List QueueId) (s : State) :
    Keeps 0x2a0b02cf3d0 s (relaunchEnds l queues s) :=
  keeps_note rfl (keeps_interruptRequest rfl (keeps_abandonFrames rfl (((failExecuting_keeps l s).mono rfl).trans
    ((discardSamples_keeps queues _).mono rfl)))) ..

theorem relaunchEnds_fw (l : List Flight) (queues : List QueueId) (s : State) :
    (relaunchEnds l queues s).fwif.state = s.fwif.state := by
  rw [relaunchEnds, (note_calm _ 0x4001 .contained 0).fw, interruptRequest_fw, (abandonFrames_calm _).fw,
    (discardSamples_keeps queues _).same .fwif rfl, failExecuting_fw]

theorem relaunchEnds_fetching (l : List Flight) {queues : List QueueId} (s : State) {q : QueueId} (hq : q ∈ queues) :
    (relaunchEnds l queues s).queues[q].fetching = 0 := by
  rw [relaunchEnds, note_queues, (keeps_interruptRequest rfl (.refl 0x22000280310 _)).same .queues rfl,
    (abandonFrames_calm _).fetching, discardSamples_fetching queues q _ (.inl hq)]

/-- Firmware runs again: the fence is released, READY is what negotiation left, and the re-launch counts (R505). -/
def relaunchResumes (s : State) : State :=
  { s with
    quays := s.quays.map fun (y : Quay) => { y with recoveryFence := false }
    ready := { s.ready with ready := decide (s.fwif.state = FwState.ready) }
    heart := { s.heart with
      window := s.now.toNat / State.msTicks + 1, seen := false, valid := false, missed := 0
      started := false }
    lighthouse := { s.lighthouse with
      state := .normal, relaunches := satInc s.lighthouse.relaunches, completedAt := some s.now
      bootHoldError := false } }

/-- What firmware that runs again lets go. -/
def resumeWork (s : State) : State :=
  let s := s.wakeAll.settle
  let s := if s.ready.ready && s.manifest.held then s.startLoad else s
  s.releaseHeld

/-- A FENCE ends before what it waits for. -/
def fencesFirst (l : List Flight) : List Flight :=
  let waits (f : Flight) : Bool := match f.entry.op with
    | .fence _ => true
    | _ => false
  l.filter waits ++ l.filter fun f => !waits f

theorem exec_relaunchComplete {s : State} (h : s.relaunchAt 2 = true) : exec .relaunchComplete s =
    .next (resumeWork (relaunchResumes (relaunchEnds (fencesFirst s.flights) (List.finRange 256) s))) := by
  change execRelaunchComplete s = _
  unfold execRelaunchComplete
  generalize List.finRange 256 = queues
  rw [if_neg (by rw [h]; decide)]
  extract_lets waits a b c d ready heart light e u v
  have ha : a = failExecuting (fencesFirst s.flights) s := by unfold failExecuting fencesFirst; rfl
  have hd : d = relaunchEnds (fencesFirst s.flights) queues s := by
    unfold d c b relaunchEnds discardSamples
    rw [ha]
  have he : e = relaunchResumes d := rfl
  rw [← hd, ← he]
  unfold v u resumeWork
  clear_value e
  rfl

theorem releaseHeldReset_of_none {s : State} (hf : s.env.heldFunctionReset = none)
    (hd : s.env.heldDeviceReset = false) : s.releaseHeldReset = s := by
  simp [State.releaseHeldReset, hf, hd]

/-- Where no reset is held, what is let go leaves the Lighthouse and READY, each fence, and no entry on its way. -/
theorem resumeWork_spec {s : State} (hf : s.env.heldFunctionReset = none) (hd : s.env.heldDeviceReset = false) :
    Calm s (resumeWork s) ∧ (resumeWork s).lighthouse = s.lighthouse ∧ (resumeWork s).ready = s.ready := by
  unfold resumeWork
  extract_lets u v
  have hku : Keeps 0x220800cd2d0 s u := keeps_settle rfl (keeps_wakeAll rfl (.refl _ s))
  have hu : Calm s u := (wakeAll_calm s).trans (settle_calm _)
  have hkv : Keeps 0x220800ed2d0 s v := by
    unfold v
    split
    · exact keeps_startLoad rfl (hku.mono rfl)
    · exact hku.mono rfl
  have hv : Calm u v := by
    unfold v
    split
    · exact .of_fwStands (startLoad_fwStands u) (keeps_startLoad (L := 0xa0200) rfl (.refl _ u)) rfl rfl
    · exact .refl u
  have henv : v.env = s.env := hkv.same .env rfl
  have hreset : v.releaseHeldReset = v := releaseHeldReset_of_none (by rw [henv, hf]) (by rw [henv, hd])
  unfold State.releaseHeld
  rw [hreset]
  dsimp only
  split
  · have hkt : Keeps 0x226b32efad8 s v.enterD3hot := keeps_enterD3hot rfl (hkv.mono rfl)
    exact ⟨(hu.trans hv).trans (enterD3hot_calm v), hkt.same .lighthouse rfl, hkt.same .ready rfl⟩
  · exact ⟨hu.trans hv, hkv.same .lighthouse rfl, hkv.same .ready rfl⟩

theorem relaunchComplete_spec {s : State} (h : s.relaunchAt 2 = true) : ∃ t, exec .relaunchComplete s = .next t ∧
    (s.env.heldFunctionReset = none → s.env.heldDeviceReset = false →
      t.lighthouse.state = .normal ∧ t.lighthouse.relaunches = satInc s.lighthouse.relaunches ∧
      t.lighthouse.completedAt = some s.now ∧ (∀ q : QuayId, t.quays[q].recoveryFence = false) ∧
      (∀ q : QueueId, t.queues[q].fetching = 0) ∧ (t.ready.ready = true ↔ s.fwif.state = .ready)) ∧
    s.sameBut (mayChange .relaunchComplete) t := by
  have ht := exec_relaunchComplete h
  have hall : ∀ q : QueueId, q ∈ List.finRange 256 := List.mem_finRange
  generalize List.finRange 256 = queues at ht hall
  refine ⟨_, ht, fun hf hd => ?_, exec_frame ht⟩
  generalize fencesFirst s.flights = l at ht ⊢
  have hk := relaunchEnds_keeps l queues s
  have hfw := relaunchEnds_fw l queues s
  have hq (q : QueueId) := relaunchEnds_fetching l s (hall q)
  generalize relaunchEnds l queues s = u at hk hfw hq
  have henv : (relaunchResumes u).env = s.env := hk.same .env rfl
  obtain ⟨hc, hl, hr⟩ := resumeWork_spec (s := relaunchResumes u) (by rw [henv, hf]) (by rw [henv, hd])
  have hlight : u.lighthouse = s.lighthouse := hk.same .lighthouse rfl
  have htide : u.tide = s.tide := hk.same .tide rfl
  refine ⟨by rw [hl]; rfl, ?_, ?_, fun q => ?_, fun q => ?_, ?_⟩
  · rw [hl, ← hlight]
    rfl
  · rw [hl]
    exact congrArg (fun t : Tide => some t.count) htide
  · rw [hc.fence]
    simp [relaunchResumes]
  · rw [hc.fetching]
    exact hq q
  · rw [hr, ← hfw]
    exact decide_eq_true_iff

/-- Settles O44: the trigger, the two steps, and the end by what each of its parts keeps. -/
theorem relaunchRecoversOrLosesTheDevice : Obligations.RelaunchRecoversOrLosesTheDevice := by
  unfold Obligations.RelaunchRecoversOrLosesTheDevice
  intro s lostFor
  have hloss {u : State} (code : BitVec 16) (hl : u.lost = false)
      (he : u.env.heldFunctionReset = s.env.heldFunctionReset) : lostFor code (u.loseDevice code) := fun hf => by
    have h := loseDevice_shows hl (he.trans hf) code
    exact ⟨h.state, h.cause, h.faultN⟩
  refine ⟨fun hsup hper hfr hlost => ?_, fun passed h => ⟨fun hc => ?_, fun hc => ?_⟩, fun misread h => ?_,
    relaunchComplete_spec, fun h => ?_⟩
  · have ht : exec .lockstepMismatch s = .next (s.startRecovery false) := by
      simp [exec, execLockstepMismatch, hsup, hper, hfr]
    refine ⟨_, ht, fun hr hsoon => ?_, fun hr hsoon => ?_, fun hs => ?_, exec_frame ht⟩
    · rw [startRecovery_begins hr hlost hsoon]
      refine ⟨rfl, rfl, fun q b => placeRecoveryFence_spec s q b, fun f hf => ?_⟩
      cases f with
      | ready | quays | lighthouse => simp at hf
      | _ => rfl
    · rw [startRecovery_tooSoon hr hlost hsoon]
      exact hloss 0x4006 hlost rfl
    · rw [startRecovery_starting hs hlost, bootHalt_boot]
      exact ⟨rfl, rfl⟩
  · have ht := exec_relaunchSelfTestDone (passed := passed) h
    rw [if_neg (Nat.not_lt.2 hc)] at ht
    obtain ⟨l, hl, hp, hst, ha, hb, hlt⟩ := formPair_spec s hc
    rw [hl] at ht
    have hrel : s.lighthouse.state = .relaunching := by
      simp only [State.relaunchAt, Bool.and_eq_true, decide_eq_true_eq] at h
      exact h.1.1
    exact ⟨_, ht, rfl, hp, hst.trans hrel, ha, hb, hlt, sameBut_lighthouse s _⟩
  · have ht := exec_relaunchSelfTestDone (passed := passed) h
    rw [if_pos hc] at ht
    exact ⟨_, ht, hloss 0x4006 (relaunchAt_lost h) rfl, exec_frame ht⟩
  · have ht := exec_relaunchDigestDone (misread := misread) h
    have hl := relaunchAt_lost h
    refine ⟨_, ht, fun hb => ?_, fun hb hd => ?_, fun hb hd => ?_, exec_frame ht⟩
    · rw [if_pos hb]
      exact hloss 0x4013 hl rfl
    · rw [if_neg (ne_true_of_eq_false hb), if_pos hd]
    · rw [if_neg (ne_true_of_eq_false hb), if_neg (ne_true_of_eq_false hd)]
      exact hloss 0x4006 hl rfl
  · have hat (n : Nat) : s.relaunchAt n = false := by
      rcases h with h | h
      · simp [State.relaunchAt, h]
      · simp [State.relaunchAt, h]
    exact ⟨fun passed => by simp [exec, execRelaunchSelfTestDone, hat],
      fun misread => by simp [exec, execRelaunchDigestDone, hat], by simp [exec, execRelaunchComplete, hat]⟩

end Sys2Proof.Machine
end

section
/-! Self-repair in the field (R171, R498–R502): localising tiles, the quiet point and the stored map. -/

namespace Sys2Proof.Machine

/-! ## What a record of a repair leaves -/

/-- Repairs made, pending and in force stand, and whether a Quay's reset is held. -/
structure RepairStands (s t : State) : Prop where
  made : t.faults.made = s.faults.made
  pending : t.faults.pending = s.faults.pending
  bad : t.faults.bad = s.faults.bad
  held : ∀ q : QuayId, t.quays[q].resetHeld = s.quays[q].resetHeld

namespace RepairStands

theorem of_eq {s t : State} (h : t.faults = s.faults) (hq : t.quays = s.quays) : RepairStands s t :=
  ⟨by rw [h], by rw [h], by rw [h], fun q => by rw [hq]⟩

theorem refl (s : State) : RepairStands s s := .of_eq rfl rfl

theorem trans {s t u : State} (h : RepairStands s t) (k : RepairStands t u) : RepairStands s u :=
  ⟨k.made.trans h.made, k.pending.trans h.pending, k.bad.trans h.bad, fun q => (k.held q).trans (h.held q)⟩

end RepairStands

section
variable (s : State)

theorem trace_repairStands (point a b : Nat) : RepairStands s (s.trace point a b) :=
  .of_eq (trace_faults ..) (trace_quays ..)

theorem countFault_repairStands (sev : Severity) : RepairStands s (s.countFault sev) := by
  cases sev <;> exact ⟨rfl, rfl, rfl, fun _ => rfl⟩

theorem sendMsix_repairStands (v : Nat) : RepairStands s (s.sendMsix v) :=
  .of_eq (sendMsix_faults ..) (sendMsix_quays ..)

theorem faultPut_repairStands (e : Event) (buffered : Bool) : RepairStands s (s.faultPut e buffered) := by
  unfold State.faultPut
  extract_lets ring faults u v
  split
  · exact ⟨rfl, rfl, rfl, fun _ => rfl⟩
  · have hu : RepairStands s u := ⟨rfl, rfl, rfl, fun _ => rfl⟩
    have hv : RepairStands u v := by
      unfold v
      split
      · exact .refl u
      · exact sendMsix_repairStands u 0
    exact (hu.trans hv).trans (trace_repairStands v ..)

theorem faultEvent_repairStands (e : Event) : RepairStands s (s.faultEvent e) := by
  unfold State.faultEvent
  dsimp only
  split
  · exact faultPut_repairStands s e false
  · split <;> exact ⟨rfl, rfl, rfl, fun _ => rfl⟩

theorem report_repairStands (e : Event) : RepairStands s (s.report e) := by
  unfold State.report
  split
  · exact .refl s
  · split
    · exact .of_eq rfl rfl
    · extract_lets e u v
      have hlog := keeps_logEvent rfl (.refl 0x20000080210 s) e
      have hu : RepairStands s u := .of_eq (hlog.same .faults rfl) (hlog.same .quays rfl)
      have hv : RepairStands u v := by
        unfold v
        split
        · exact .refl u
        · exact (countFault_repairStands u _).trans (faultEvent_repairStands _ e)
      have harea := keeps_sendAreaMsix rfl (.refl 0x20000000010 v) e.reason
      exact (hu.trans hv).trans (.of_eq (harea.same .faults rfl) (harea.same .quays rfl))

theorem note_repairStands (reason : BitVec 16) (sev : Severity) (detail : Nat) :
    RepairStands s (s.note reason sev detail) := report_repairStands s _

theorem updQuay_repairStands (q : QuayId) {f : Quay → Quay} (hf : ∀ y, (f y).resetHeld = y.resetHeld) :
    RepairStands s (s.updQuay q f) :=
  ⟨rfl, rfl, rfl, fun p => by
    rw [State.updQuay_quays, updAt_get]
    split
    next h => rw [h, hf]
    next => rfl⟩

theorem updBerth_repairStands (q : QuayId) (b : BerthId) (f : Berth → Berth) : RepairStands s (s.updBerth q b f) :=
  updQuay_repairStands s q fun _ => rfl

/-! ## Spares and fences -/

theorem fenceQuay_repairStands (q : QuayId) (code : BitVec 16) : RepairStands s (s.fenceQuay q code) := by
  unfold State.fenceQuay
  split
  · exact .refl s
  · extract_lets u m v w
    have hu : RepairStands s u := updQuay_repairStands s q fun _ => rfl
    have hv : RepairStands u v := .of_eq rfl rfl
    exact ((hu.trans hv).trans (trace_repairStands v ..)).trans (report_repairStands w _)

theorem fenceBerth_repairStands (q : QuayId) (b : BerthId) (code : BitVec 16) :
    RepairStands s (s.fenceBerth q b code) := by
  unfold State.fenceBerth
  split
  · exact .refl s
  · extract_lets u v w
    have hu : RepairStands s u := updBerth_repairStands s q b _
    have hw : RepairStands s w := (hu.trans (trace_repairStands u ..)).trans (report_repairStands v _)
    split
    · exact hw.trans (fenceQuay_repairStands w q code)
    · exact hw

theorem noteSpare_repairStands (loc : RepairLoc) (reason : BitVec 16) (level : BitVec 2) (field : Bool) :
    RepairStands s (s.noteSpare loc reason level field) := by
  unfold State.noteSpare
  split
  · exact (report_repairStands s _).trans (trace_repairStands _ ..)
  · exact .refl s

theorem replaceCell_repairStands (loc : RepairLoc) (q : QuayId) (b : BerthId) (c : CellId) (field : Bool) :
    RepairStands s (s.replaceCell loc q b c field) := by
  unfold State.replaceCell
  split
  · exact fenceBerth_repairStands s ..
  · exact (updBerth_repairStands s q b _).trans (noteSpare_repairStands _ ..)

/-- A location that is substituted joins the bad ones; nothing else of the repairs moves. -/
theorem substitute_spec (loc : RepairLoc) (code : BitVec 16) (field : Bool) :
    let t := s.substitute loc code field
    t.faults.made = s.faults.made ∧ t.faults.pending = s.faults.pending ∧ loc ∈ t.faults.bad ∧
      ∀ q : QuayId, t.quays[q].resetHeld = s.quays[q].resetHeld := by
  unfold State.substitute
  extract_lets harbour u
  have hu : RepairStands s u := by
    unfold u
    cases loc with
    | column q b c col =>
      dsimp only
      split
      · exact (updBerth_repairStands s q b _).trans (noteSpare_repairStands _ ..)
      · exact replaceCell_repairStands s ..
    | cell q b c => exact replaceCell_repairStands s ..
    | holdRow q b k r =>
      dsimp only
      split
      · exact noteSpare_repairStands s ..
      · exact fenceBerth_repairStands s ..
    | storeRow q k r =>
      dsimp only
      split
      · exact noteSpare_repairStands s ..
      · exact fenceQuay_repairStands s ..
    | harbourLine sl w st =>
      dsimp only
      split
      · exact noteSpare_repairStands s ..
      · exact .of_eq rfl rfl
    | l2Line n =>
      dsimp only
      split
      · exact noteSpare_repairStands s ..
      · exact .refl s
    | sfuLane q b _ | swellLane q b _ => exact fenceBerth_repairStands s ..
    | transform q | arbiter q => exact fenceQuay_repairStands s ..
    | berth q b => exact fenceBerth_repairStands s ..
  exact ⟨hu.made, hu.pending, List.mem_append_right _ (List.mem_singleton.2 rfl), hu.held⟩

theorem saveMap_repairStands : RepairStands s s.saveMap := by
  unfold State.saveMap
  split
  · exact ⟨rfl, rfl, rfl, fun _ => rfl⟩
  · extract_lets first f u
    have hu : RepairStands s u := ⟨rfl, rfl, rfl, fun _ => rfl⟩
    split
    · exact hu.trans (note_repairStands u ..)
    · exact hu

end

end Sys2Proof.Machine
end

section
/-! The commands of self-repair. -/

namespace Sys2Proof.Machine

theorem decideRepair_pending (s : State) (loc : RepairLoc) (code : BitVec 16) :
    ∃ p ∈ (s.decideRepair loc code).faults.pending, p.1 = loc := by
  unfold State.decideRepair
  dsimp only
  split
  next h => simpa using h
  next => exact ⟨(loc, code, s.now), List.mem_append_right _ (List.mem_singleton.2 rfl), rfl⟩

/-- A decided repair leaves what is being localised. -/
theorem decideRepair_counts (s : State) (loc : RepairLoc) (code : BitVec 16) :
    (s.decideRepair loc code).faults.localising = s.faults.localising ∧
      (s.decideRepair loc code).faults.columnCounts = s.faults.columnCounts := by
  unfold State.decideRepair
  dsimp only
  split <;> exact ⟨rfl, rfl⟩

section
variable {s : State}

/-- A localising tile clears its column's count, and names the location that a mismatch has shown. -/
theorem localisingTile_runs (hf : s.fwUp = true) {q : QuayId} {b : BerthId} {col : Fin 64}
    (hm : (q, b, col) ∈ s.faults.localising) (hq : s.berthQuiet q b = true) (m : Option CellId) :
    ∃ t, exec (.localisingTile q b col m) s = .next t ∧ (q, b, col) ∉ t.faults.localising ∧
      (∀ c ∈ t.faults.columnCounts, c.1 ≠ (q, b, col)) ∧ (m = none → t.faults.pending = s.faults.pending) ∧
      (∀ c, m = some c → ∃ p ∈ t.faults.pending, p.1 = .column q b c (Fin.ofNat 16 col.val)) ∧
      s.sameBut [.faults] t := by
  have hc : s.faults.localising.contains (q, b, col) = true := List.contains_iff_mem.2 hm
  let u : State := { s with faults := { s.faults with
    localising := s.faults.localising.filter (· ≠ (q, b, col))
    columnCounts := s.faults.columnCounts.filter fun c => c.1 ≠ (q, b, col) } }
  have hloc : (q, b, col) ∉ u.faults.localising := by simp [u]
  have hcount : ∀ c ∈ u.faults.columnCounts, c.1 ≠ (q, b, col) := by simp [u]
  cases m with
  | none =>
    have ht : exec (.localisingTile q b col none) s = .next u := by
      simp only [exec, execLocalisingTile, hf, hc, hq, Bool.not_true, Bool.or_self, Bool.false_eq_true, if_false]
      rfl
    exact ⟨u, ht, hloc, hcount, fun _ => rfl, fun c h => (by cases h), exec_frame ht⟩
  | some c =>
    have ht : exec (.localisingTile q b col (some c)) s =
        .next (u.decideRepair (.column q b c (Fin.ofNat 16 col.val)) 0x1001) := by
      simp only [exec, execLocalisingTile, hf, hc, hq, Bool.not_true, Bool.or_self, Bool.false_eq_true, if_false]
      rfl
    obtain ⟨hl, hcc⟩ := decideRepair_counts u (.column q b c (Fin.ofNat 16 col.val)) 0x1001
    refine ⟨_, ht, by rw [hl]; exact hloc, by rw [hcc]; exact hcount, fun h => (by cases h), fun d hd => ?_, exec_frame ht⟩
    obtain rfl := Option.some.inj hd
    exact decideRepair_pending u _ _

/-- A pending repair of which `u` is what it makes, before a held Quay reset goes on. -/
def repaired (s : State) (loc : RepairLoc) (code : BitVec 16) : State :=
  ({ s with faults := { s.faults with
      pending := s.faults.pending.filter fun x => x.1 ≠ loc, made := satInc s.faults.made } }.substitute loc code true).saveMap

theorem repaired_spec (s : State) (loc : RepairLoc) (code : BitVec 16) :
    let u := repaired s loc code
    u.faults.made = satInc s.faults.made ∧ (∀ p ∈ u.faults.pending, p.1 ≠ loc) ∧ loc ∈ u.faults.bad ∧
      ∀ q : QuayId, u.quays[q].resetHeld = s.quays[q].resetHeld := by
  unfold repaired
  generalize hv : State.mk .. = v
  intro u
  obtain ⟨hmade, hpend, hbad, hheld⟩ := substitute_spec v loc code true
  have hs := saveMap_repairStands (v.substitute loc code true)
  refine ⟨?_, ?_, ?_, fun q => ?_⟩
  · rw [hs.made, hmade, ← hv]
  · rw [hs.pending, hpend, ← hv]
    simp
  · rw [hs.bad]
    exact hbad
  · rw [hs.held, hheld, ← hv]

section
variable {loc : RepairLoc} {code : BitVec 16} {decided : Tick}
  (hp : s.faults.pending.find? (fun p => p.1 = loc) = some (loc, code, decided))
include hp

theorem exec_repairApply_quay (hf : s.fwUp = true) (hm : s.repairMayApply loc = true) {q : QuayId}
    (hq : quayOf loc = some q) : exec (.repairApply loc) s = .next ((repaired s loc code).releaseQuayReset q) := by
  simp only [exec, execRepairApply, hp, hf, hm, hq, Bool.not_true, Bool.or_self, Bool.false_eq_true, if_false]
  rfl

theorem exec_repairApply_other (hf : s.fwUp = true) (hm : s.repairMayApply loc = true)
    (hq : quayOf loc = none) : exec (.repairApply loc) s = .next (repaired s loc code) := by
  simp only [exec, execRepairApply, hp, hf, hm, hq, Bool.not_true, Bool.or_self, Bool.false_eq_true, if_false]
  rfl

theorem exec_repairApply_not (hm : s.repairMayApply loc = false) : exec (.repairApply loc) s = .next s := by
  simp [exec, execRepairApply, hp, hm]

theorem exec_repairQuietTimeout_quiet (hq : s.locQuiet loc = true) : exec (.repairQuietTimeout loc) s = .next s := by
  simp [exec, execRepairQuietTimeout, hp, hq]

end

end

/-- Settles O45: one lemma per command; what a repair records leaves the other repairs and the held resets. -/
theorem repairsAreMadeAtQuietPoints : Obligations.RepairsAreMadeAtQuietPoints := by
  unfold Obligations.RepairsAreMadeAtQuietPoints
  refine fun s hf => ⟨fun q b col m => ⟨fun hm hq => localisingTile_runs hf hm hq m, fun h => ?_⟩,
    fun loc code decided hp => ?_, fun loc hp => ?_, fun hw => ?_, fun hw => ?_⟩
  · rcases h with h | h
    · have hc : s.faults.localising.contains (q, b, col) = false := by simpa using h
      simp only [exec, execLocalisingTile, hc, Bool.not_false, Bool.or_true, Bool.true_or, if_true]
    · simp [exec, execLocalisingTile, h]
  · intro may
    have hmay : may ↔ s.repairMayApply loc = true := by
      simp [may, State.repairMayApply, and_assoc]
    refine ⟨fun h => ?_, fun h => ?_, exec_repairQuietTimeout_quiet hp, fun q hl hq => ?_⟩
    · obtain ⟨hmade, hpend, hbad, hheld⟩ := repaired_spec s loc code
      have hrest (q : QuayId) : (repaired s loc code).quays[q].resetHeld = s.quays[q].resetHeld ∧
          ((repaired s loc code).quays[q].resetHeld = false →
            (repaired s loc code).releaseQuayReset q = repaired s loc code) :=
        ⟨hheld q, fun hr => by rw [State.releaseQuayReset, if_neg (ne_true_of_eq_false hr)]⟩
      cases hq : quayOf loc with
      | none =>
        have ht := exec_repairApply_other hp hf (hmay.1 h) hq
        exact ⟨_, _, ht, fun _ => rfl, fun q h => (by cases h), hrest, hmade, hpend, hbad, exec_frame ht⟩
      | some p =>
        have ht := exec_repairApply_quay hp hf (hmay.1 h) hq
        exact ⟨_, _, ht, fun h => (by cases h), fun q h => by rw [Option.some.inj h], hrest, hmade, hpend, hbad,
          exec_frame ht⟩
    · exact exec_repairApply_not hp (eq_false_of_ne_true fun hm => h (hmay.2 hm))
    · intro u
      have h50 : BitVec.ofNat 64 (50 * State.msTicks) = 12_500_000 := by decide
      simp only [exec, execRepairQuietTimeout, hp, hf, hq, hl, h50, advanceTo_flights, Bool.not_true, Bool.or_self,
        Bool.false_eq_true, if_false, u]
  · have hn : s.faults.pending.find? (fun p => p.1 = loc) = none := by simpa using hp
    exact ⟨by simp only [exec, execRepairApply, hn], by simp only [exec, execRepairQuietTimeout, hn]⟩
  · simp only [exec, execRepairMapWriteDone, hf, hw, Bool.not_true, Bool.or_self, Bool.false_eq_true, if_false]
  · simp [exec, execRepairMapWriteDone, hw]

end Sys2Proof.Machine
end

section
/-! The budget, droop and AVSBus (R46–R49, R474, R479). -/

namespace Sys2Proof.Machine

/-! ## The issue fraction -/

section
variable {n budget : Nat} {hs : List Nat} (hne : hs ≠ [])
include hne

theorem nextFraction_above (hn : 8 ≤ n) (h : budget * hs.length < hs.sum) :
    nextFraction n budget hs = if n = 8 then 8 else n - 1 := by
  rw [nextFraction, if_neg (by simpa using hne), if_pos h]
  split <;> omega

theorem nextFraction_within (h : hs.sum ≤ budget * hs.length) (hl : 95 * (budget * hs.length) ≤ 100 * hs.sum) :
    nextFraction n budget hs = n := by
  rw [nextFraction, if_neg (by simpa using hne), if_neg (Nat.not_lt.2 h), if_neg (by omega)]

theorem nextFraction_below (hn : n ≤ 64) (h : 100 * hs.sum < 95 * (budget * hs.length)) :
    nextFraction n budget hs = if n = 64 then 64 else n + 1 := by
  rw [nextFraction, if_neg (by simpa using hne), if_neg (by omega), if_pos (by omega)]
  split <;> omega

end

section
variable {s : State}

theorem powerEstimate_runs (hp : s.powered = true) (hl : s.lost = false) (hf : s.frozen = false) (mw : Nat) :
    ∃ t, exec (.powerEstimate mw) s = .next t ∧
      (∀ h, h ∈ t.power.history ↔ h = (s.now, mw) ∨
        h ∈ s.power.history ∧ s.now.toNat < h.1.toNat + 15_000_000_000) ∧ s.sameBut [.power] t := by
  have ht : exec (.powerEstimate mw) s = .next { s with power := { s.power with
      history := (s.power.history.filter fun h => s.now.toNat < h.1.toNat + 60000 * State.msTicks) ++ [(s.now, mw)] } } := by
    simp [exec, execPowerEstimate, hp, hl, hf]
  refine ⟨_, ht, fun h => ?_, exec_frame ht⟩
  have hw : 60000 * State.msTicks = 15_000_000_000 := by decide
  simp only [hw, List.mem_append, List.mem_filter, decide_eq_true_eq, List.mem_singleton]
  exact or_comm

theorem power_stands (h : s.powered = false ∨ s.lost = true ∨ s.frozen = true) (mw : Nat) :
    exec (.powerEstimate mw) s = .next s ∧ exec .budgetCompare s = .next s := by
  have hg : (!s.powered || s.lost || s.frozen) = true := by rcases h with h | h | h <;> simp [h]
  exact ⟨by simp only [exec, execPowerEstimate, hg, if_true], by simp only [exec, execBudgetCompare, hg, if_true]⟩

/-! ## Droop -/

theorem hasIsland_iff (i : Island) :
    s.hasIsland i = true ↔ ∀ q : QuayId, (i = .quay q ∨ ∃ b, i = .berth q b) → s.quayEnabled q = true := by
  cases i <;> simp [State.hasIsland]

theorem droopDetect_runs {i : Island} (hp : s.powered = true) (hi : s.hasIsland i = true) :
    ∃ t, exec (.droopDetect i) s = .next t ∧ i ∈ t.env.stretched ∧
      (∀ j, j ≠ i → (j ∈ t.env.stretched ↔ j ∈ s.env.stretched)) ∧ s.sameBut [.env] t := by
  have ht : exec (.droopDetect i) s = .next { s with env := { s.env with
      stretched := i :: s.env.stretched.filter fun (j : Island) => j != i } } := by
    simp [exec, execDroopDetect, hp, hi]
  exact ⟨_, ht, List.mem_cons_self, fun j hj => by simp [hj], exec_frame ht⟩

/-! ## The bus -/

theorem avsMayGo_iff (c : AvsCmd) : s.avsMayGo c = true ↔ ∀ mv, c = .voltageWrite mv → s.env.stretched = [] := by
  cases c <;> simp [State.avsMayGo]

theorem avsKick_of_none (h : s.env.avs.sent = true ∨ ∀ c ∈ s.env.avs.queue, s.avsMayGo c.1 = false) :
    s.avsKick = s := by
  unfold State.avsKick
  dsimp only
  rcases h with h | h
  · rw [if_pos h]
  · have hn : s.env.avs.queue.find? (fun c => s.avsMayGo c.1) = none := by simpa using h
    rw [hn]
    split <;> rfl

/-- The setpoint in force once a command has gone out. -/
def commanded (setpoint : Nat) : AvsCmd → Nat
  | .voltageWrite mv => mv
  | _ => setpoint

/-- The first command that may go out goes onto an idle bus. -/
theorem avsKick_sends {before after : List (AvsCmd × Nat)} {c : AvsCmd} {k : Nat} (hs : s.env.avs.sent = false)
    (hq : s.env.avs.queue = before ++ (c, k) :: after) (hb : ∀ x ∈ before, s.avsMayGo x.1 = false)
    (hc : s.avsMayGo c = true) :
    s.avsKick = { s with
      env := { s.env with avs := { s.env.avs with
        setpoint := commanded s.env.avs.setpoint c, queue := (c, k) :: (before ++ after), sent := true } }
      outbox := s.outbox ++ [.avs c] } := by
  have hfind : s.env.avs.queue.find? (fun c => s.avsMayGo c.1) = some (c, k) := by
    have hnone : before.find? (fun c => s.avsMayGo c.1) = none :=
      List.find?_eq_none.2 fun x hx => ne_true_of_eq_false (hb x hx)
    rw [hq, List.find?_append, hnone, Option.none_or]
    exact List.find?_cons_of_pos hc
  have herase : s.env.avs.queue.erase (c, k) = before ++ after := by
    have hnot : (c, k) ∉ before := fun h => by simp [hb _ h] at hc
    rw [hq, List.erase_append_right _ hnot, List.erase_cons_head]
  unfold State.avsKick
  simp only [hs, hfind, herase, Bool.false_eq_true, if_false]
  cases c <;> rfl

theorem avsKick_keeps (s : State) : s.sameBut [.env, .outbox] s.avsKick :=
  Keeps.sameBut (L := 0x20000000008) (keeps_avsKick rfl (.refl _ s)) rfl

theorem avsKick_stretched (s : State) : s.avsKick.env.stretched = s.env.stretched := by
  unfold State.avsKick
  dsimp only
  split
  · rfl
  · split <;> rfl

theorem avsKick_stopped (s : State) : s.avsKick.env.avs.stopped = s.env.avs.stopped := by
  unfold State.avsKick
  dsimp only
  split
  · rfl
  · split <;> rfl

theorem exec_avsSetpointChange {mv : Nat} (hp : s.powered = true) (hlo : 550 ≤ mv) (hhi : mv ≤ 800) (hm : mv % 5 = 0) :
    exec (.avsSetpointChange mv) s = .next (s.avsIssue (.voltageWrite mv)) := by
  simp [exec, execAvsSetpointChange, hp, hlo, hhi, hm]

theorem exec_avsSetpointChange_not {mv : Nat}
    (h : s.powered = false ∨ s.env.avs.stopped = true ∨ mv < 550 ∨ 800 < mv ∨ mv % 5 ≠ 0) :
    exec (.avsSetpointChange mv) s = .next s := by
  simp only [exec, execAvsSetpointChange, Bool.and_eq_true, decide_eq_true_eq]
  split
  next hg =>
    obtain ⟨⟨⟨hp, hlo⟩, hhi⟩, hm⟩ := hg
    rcases h with h | h | h | h | h
    · rw [h] at hp; cases hp
    · rw [State.avsIssue, if_pos h]
    · omega
    · omega
    · exact absurd hm h
  next => rfl

/-- The count of a status poll: 1 ms after the one before, once the Tide runs. -/
def pollDue (s : State) : State :=
  match s.tide.locked, s.env.avs.polled with
  | true, some t => s.advanceTo (t + BitVec.ofNat 64 State.msTicks)
  | _, _ => s

theorem pollDue_eq (s : State) : ∃ c : Tick, pollDue s = { s with tide := { s.tide with count := c } } ∧
    s.now.toNat ≤ c.toNat ∧
    ∀ p, s.tide.locked = true → s.env.avs.polled = some p → (p + 250_000).toNat ≤ c.toNat := by
  unfold pollDue
  split
  next p hl hp =>
    rw [advanceTo_eq]
    refine ⟨_, rfl, ?_, fun p' _ hp' => ?_⟩
    · split
      next h => exact Nat.le_of_lt h
      next => exact Nat.le_refl _
    · obtain rfl := Option.some.inj (hp.symm.trans hp')
      split
      next => exact Nat.le_refl _
      next h => exact Nat.not_lt.1 h
  next h => exact ⟨s.now, rfl, Nat.le_refl _, fun p hl hp => (h p hl hp).elim⟩

/-- The status poll goes out at the count that the interval has reached. -/
theorem avsStatusPoll_runs (hp : s.powered = true) (hs : s.env.avs.stopped = false) :
    ∃ u, exec .avsStatusPoll s = .next (u.avsIssue .status) ∧
      u.env = { s.env with avs := { s.env.avs with polled := some u.now } } ∧ s.now.toNat ≤ u.now.toNat ∧
      (∀ p, s.tide.locked = true → s.env.avs.polled = some p → (p + 250_000).toNat ≤ u.now.toNat) ∧
      s.sameBut [.env, .tide] u := by
  have ht : exec .avsStatusPoll s = .next (State.avsIssue { pollDue s with
      env := { (pollDue s).env with avs := { (pollDue s).env.avs with polled := some (pollDue s).now } } } .status) := by
    simp only [exec, execAvsStatusPoll, hp, hs, Bool.not_true, Bool.or_self, Bool.false_eq_true, if_false]
    rfl
  obtain ⟨c, hc, hnow, hdue⟩ := pollDue_eq s
  rw [hc] at ht
  refine ⟨_, ht, rfl, hnow, hdue, fun f hf => ?_⟩
  cases f with
  | env | tide => simp at hf
  | _ => rfl

/-! ## The answers -/

section
variable {answer : AvsAnswer} {c : AvsCmd} {failures : Nat} {rest : List (AvsCmd × Nat)}

theorem avsAnswers_iff : avsAnswers c answer = true ↔
    if c = .voltageRead then ∃ mv, answer = .voltage mv else answer = .ack := by
  cases c <;> cases answer <;> simp [avsAnswers]

theorem avsResponse_stands (h : s.env.suppliesUp = false ∨ s.env.avs.sent = false ∨ s.env.avs.queue = []) :
    exec (.avsResponse answer) s = .next s := by
  simp only [exec, execAvsResponse]
  cases hq : s.env.avs.queue with
  | nil => rfl
  | cons x rest =>
    have hg : (!s.env.suppliesUp || !s.env.avs.sent) = true := by
      rcases h with h | h | h
      · simp [h]
      · simp [h]
      · rw [hq] at h; cases h
    simp only [hg, if_true]

section
variable (hup : s.env.suppliesUp = true) (hsent : s.env.avs.sent = true)
  (hq : s.env.avs.queue = (c, failures) :: rest)
include hup hsent hq

theorem avsResponse_retry (hv : avsAnswers c answer = false) (hf : failures < 2) :
    exec (.avsResponse answer) s = .next (s.avsNext ((c, failures + 1) :: rest)) := by
  simp [exec, execAvsResponse, hup, hsent, hq, hv, hf]

theorem avsResponse_gives_up (hv : avsAnswers c answer = false) (hf : 2 ≤ failures) :
    exec (.avsResponse answer) s = .next ((s.avsStop s.env.avs.confirmed []).note 0xC101 .corrected 0) := by
  simp [exec, execAvsResponse, hup, hsent, hq, hv, Nat.not_lt.2 hf]

theorem avsResponse_confirms {mv : Nat} (hv : avsAnswers c answer = true) (hc : c = .voltageWrite mv) :
    exec (.avsResponse answer) s = .next ((s.setAvs { s.env.avs with confirmed := mv }).avsNext
      (if s.env.avs.stopped then [] else (.voltageRead, 0) :: rest)) := by
  subst hc
  simp [exec, execAvsResponse, hup, hsent, hq, hv]

theorem avsResponse_reads {mv : Nat} (hc : c = .voltageRead) : exec (.avsResponse (.voltage mv)) s =
    .next (if voltageOff s.env.avs.setpoint mv = true then
      ((s.avsStop s.env.avs.setpoint [(.voltageWrite 750, 0)]).note 0xC102 .corrected 0).avsKick
      else s.avsNext rest) := by
  subst hc
  simp only [exec, execAvsResponse, hup, hsent, hq, avsAnswers, Bool.not_true, Bool.or_self, Bool.false_eq_true, if_false]
  split <;> rfl

theorem avsResponse_goes_on (hv : avsAnswers c answer = true) (hw : ∀ mv, c ≠ .voltageWrite mv)
    (hr : c ≠ .voltageRead) : exec (.avsResponse answer) s = .next (s.avsNext rest) := by
  cases c with
  | voltageWrite mv => exact (hw mv rfl).elim
  | voltageRead => exact (hr rfl).elim
  | transRate _ | status => cases answer <;> simp [exec, execAvsResponse, hup, hsent, hq, avsAnswers] at hv ⊢

end

/-- The last command after a read-back that is off: 0.75 V, as soon as no clock is stretched. -/
theorem avsLast_spec (s : State) (setpoint : Nat) :
    let t := ((s.avsStop setpoint [(.voltageWrite 750, 0)]).note 0xC102 .corrected 0).avsKick
    t.env.avs.stopped = true ∧ t.env.avs.queue = [(.voltageWrite 750, 0)] ∧
      (s.env.stretched = [] → t.env.avs.setpoint = 750 ∧ t.env.avs.sent = true) ∧
      (s.env.stretched ≠ [] → t.env.avs.setpoint = setpoint ∧ t.env.avs.sent = false) := by
  have henv : ((s.avsStop setpoint [(.voltageWrite 750, 0)]).note 0xC102 .corrected 0).env =
      (s.avsStop setpoint [(.voltageWrite 750, 0)]).env := note_env ..
  generalize (s.avsStop setpoint [(.voltageWrite 750, 0)]).note 0xC102 .corrected 0 = u at henv
  have hmay (h : s.env.stretched = []) : u.avsMayGo (.voltageWrite 750) = true := by
    rw [avsMayGo_iff, henv]
    exact fun _ _ => h
  by_cases h : s.env.stretched = []
  · rw [avsKick_sends (before := []) (after := []) (by rw [henv]; rfl) (by rw [henv]; rfl) (by simp) (hmay h), henv]
    exact ⟨rfl, rfl, fun _ => ⟨rfl, rfl⟩, fun hn => (hn h).elim⟩
  · have hnot : u.avsMayGo (.voltageWrite 750) = false := by
      refine eq_false_of_ne_true fun hm => h ?_
      have hs : u.env.stretched = [] := (avsMayGo_iff _).1 hm 750 rfl
      rw [henv] at hs
      exact hs
    rw [avsKick_of_none (.inr fun c hc => ?_)]
    · dsimp only
      rw [henv]
      exact ⟨rfl, rfl, fun hs => (h hs).elim, fun _ => ⟨rfl, rfl⟩⟩
    · rw [henv] at hc
      obtain rfl := List.mem_singleton.1 hc
      exact hnot

end

end

/-- Settles O55: the comparison's three cases, the stretched islands, and the bus by what is on it. -/
theorem powerFollowsBudgetAndRail : Obligations.PowerFollowsBudgetAndRail := by
  unfold Obligations.PowerFollowsBudgetAndRail
  refine ⟨⟨fun s mw => ⟨fun hp hl hf => powerEstimate_runs hp hl hf mw, fun hp hl hf => ?_, fun h => power_stands h mw⟩,
    fun n budget hs hne hlo hhi => ⟨nextFraction_above hne hlo, nextFraction_within hne, nextFraction_below hne hhi⟩⟩,
    fun s i => ⟨hasIsland_iff i, droopDetect_runs, fun h => ?_, rfl, fun j => ?_, ?_⟩, fun s => ?_⟩
  · simp [exec, execBudgetCompare, hp, hl, hf]
  · have hg : (!s.powered || !s.hasIsland i) = true := by rcases h with h | h <;> simp [h]
    simp only [exec, execDroopDetect, hg, if_true]
  · rw [avsKick_stretched]
    simp
  · intro f hf
    have h := avsKick_keeps { s with env := { s.env with stretched := s.env.stretched.filter (· != i) } } f hf
    cases f with
    | env => simp at hf
    | _ => exact h
  · intro a next
    refine ⟨avsMayGo_iff, avsKick_of_none, fun before after c k hs hq hb hc => ?_, fun mv => ⟨fun hp hs hlo hhi hm => ⟨?_, ?_⟩,
      exec_avsSetpointChange_not⟩, avsStatusPoll_runs, fun h => ?_, fun answer h => avsResponse_stands h,
      fun c failures rest answer hup hsent hq => ?_⟩
    · have hk := avsKick_sends hs hq hb hc
      refine ⟨by rw [hk], by rw [hk], avsKick_keeps s, fun mv hmv => ?_, fun hmv => ?_⟩
      · rw [hk, hmv]
        rfl
      · rw [hk]
        cases c with
        | voltageWrite mv => exact (hmv mv rfl).elim
        | _ => rfl
    · rw [exec_avsSetpointChange hp hlo hhi hm, State.avsIssue, if_neg (ne_true_of_eq_false hs)]
    · intro hq hsent hst
      have hmay : s.avsMayGo (.voltageWrite mv) = true := (avsMayGo_iff _).2 fun _ _ => hst
      have hqueue : (s.setAvs { a with queue := a.queue ++ [(.voltageWrite mv, 0)] }).env.avs.queue =
          [] ++ (AvsCmd.voltageWrite mv, 0) :: [] := congrArg (· ++ [(AvsCmd.voltageWrite mv, 0)]) hq
      have hk := avsKick_sends (s := s.setAvs { a with queue := a.queue ++ [(.voltageWrite mv, 0)] }) hsent hqueue
        (by simp) hmay
      rw [exec_avsSetpointChange hp hlo hhi hm, State.avsIssue, if_neg (ne_true_of_eq_false hs)]
      exact congrArg Host.Outcome.next hk
    · have hg : (!s.powered || s.env.avs.stopped) = true := by
        rcases h with h | h
        · simp [h]
        · rw [h, Bool.or_true]
      simp only [exec, execAvsStatusPoll, hg, if_true]
    · intro valid off
      have hvalid : valid ↔ avsAnswers c answer = true := avsAnswers_iff.symm
      have hoff (mv : Nat) : off mv ↔ voltageOff s.env.avs.setpoint mv = true := by
        simp [off, voltageOff, a]
      refine ⟨fun hv => ⟨fun hf => ?_, fun hf => ?_⟩, fun hv => ⟨fun mv hmv => ?_, fun mv hmv ho => ?_, fun ho hw => ?_⟩⟩
      · exact avsResponse_retry hup hsent hq (eq_false_of_ne_true fun h => hv (hvalid.2 h)) hf
      · have ht := avsResponse_gives_up hup hsent hq (eq_false_of_ne_true fun h => hv (hvalid.2 h)) hf
        exact ⟨_, ht, congrArg Env.avs (note_env ..), exec_frame ht⟩
      · rw [avsResponse_confirms hup hsent hq (hvalid.1 hv) hmv]
        rfl
      · subst hmv
        have hc : c = .voltageRead := by
          by_contra hc
          simp [valid, hc] at hv
        have ht := avsResponse_reads hup hsent hq (mv := mv) hc
        rw [if_pos ((hoff mv).1 ho)] at ht
        obtain ⟨hstop, hqueue, hgo, hwait⟩ := avsLast_spec s s.env.avs.setpoint
        exact ⟨_, ht, hstop, hqueue, hgo, hwait, exec_frame ht⟩
      · by_cases hc : c = .voltageRead
        · obtain ⟨mv, rfl⟩ : ∃ mv, answer = .voltage mv := by simpa [valid, hc] using hv
          have ht := avsResponse_reads hup hsent hq (mv := mv) hc
          rw [if_neg fun h => ho mv rfl ((hoff mv).2 h)] at ht
          exact ht
        · exact avsResponse_goes_on hup hsent hq (hvalid.1 hv) hw hc

end Sys2Proof.Machine
end

section
/-! Sag shedding and the thermal trip (R480–R488). -/

namespace Sys2Proof.Machine

/-! ## The Tide and a loss -/

theorem now_le_advanceTo (s : State) (t : Tick) : s.now.toNat ≤ (s.advanceTo t).now.toNat := by
  rw [advanceTo_eq, State.now]
  dsimp only
  split
  next h => exact Nat.le_of_lt h
  next => exact Nat.le_refl _

/-- A loss that no held reset meets leaves the Tide. -/
theorem loseDevice_tide {s : State} (hl : s.lost = false) (hr : s.env.heldFunctionReset = none) {cause : BitVec 16} :
    (s.loseDevice cause).tide = s.tide := by
  have hheld : (s.declareLost cause).env.heldFunctionReset = none := by rw [declareLost_env hl, hr]
  have hs := lost_of_shows (declareLost_shows hl cause)
  have htide : (s.declareLost cause).tide = s.tide :=
    (keeps_declareLost rfl (.refl 0x26000240028 s) cause).same .tide rfl
  unfold State.loseDevice State.releaseHeldReset
  simp only [hl, hheld, hs, Bool.not_true, Bool.and_false, Bool.false_eq_true, if_false]
  split <;> exact htide

/-! ## The steps -/

section
variable {s : State}

theorem markSag_power (rail : Rail) : (s.markSag rail).power = { s.power with
    sagCore := s.power.sagCore || rail = .core, sagIo := s.power.sagIo || rail = .io } := by
  cases rail <;> simp [State.markSag]

theorem markSag_eq (rail : Rail) : s.markSag rail = { s with power := (s.markSag rail).power } := by
  cases rail <;> rfl

theorem sameBut_power (s : State) (p : Power) : s.sameBut [.power] { s with power := p } := by
  intro f hf
  cases f with
  | power => exact (hf (List.mem_singleton.2 rfl)).elim
  | _ => rfl

theorem belowSag_iff (rail : Rail) (mv : Nat) : s.belowSag rail mv = true ↔
    if rail = .core then 100 * mv < 94 * s.env.avs.setpoint else mv < 1680 := by
  cases rail <;> simp [State.belowSag]

theorem belowHold_iff (rail : Rail) (mv : Nat) : s.belowHold rail mv = true ↔
    if rail = .core then 100 * mv < 90 * s.env.avs.setpoint else mv < 1620 := by
  cases rail <;> simp [State.belowHold]

/-- Entering one of steps 1 to 5 sheds what the step sheds, and sets the step. -/
theorem enterStep_power (s : State) (step : Nat) :
    (s.enterStep step).power = { s.power with step, stepAt := s.now, returning := false } := by
  unfold State.enterStep
  extract_lets p u v
  rw [ltrUpdate_power, haltUpdate_power, note_power]
  exact (keeps_shedEffect rfl (.refl 0x221b20cf2d0 u) step).same .power rfl

theorem enterStep_tide (s : State) (step : Nat) : (s.enterStep step).tide = s.tide := by
  unfold State.enterStep
  extract_lets p u v
  rw [ltrUpdate_tide, haltUpdate_tide, note_tide]
  exact (keeps_shedEffect rfl (.refl 0x221b20cf2d0 u) step).same .tide rfl

/-! ## The way up -/

/-- The state of a rail that has sagged. -/
def sagged (s : State) (rail : Rail) : State :=
  { s with power := { (s.markSag rail).power with sags := satInc s.power.sags } }

theorem sagged_power (s : State) (rail : Rail) : (sagged s rail).power = { s.power with
    sagCore := s.power.sagCore || rail = .core, sagIo := s.power.sagIo || rail = .io, sags := satInc s.power.sags } :=
  congrArg (fun p : Power => { p with sags := satInc s.power.sags }) (markSag_power rail)

theorem exec_sagEstablished {rail : Rail} {mv : Nat} (hp : s.powered = true) (hb : s.belowSag rail mv = true) :
    exec (.sagEstablished rail mv) s =
      if (s.lost || !s.running) = true then .next (sagged s rail)
      else if s.power.step = 0 then .next ((sagged s rail).enterStep 1)
      else if s.power.returning = true then
        .next { sagged s rail with power := { (sagged s rail).power with returning := false, stepAt := s.now } }
      else .next (sagged s rail) := by
  simp only [exec, execSagEstablished, hp, hb, Bool.not_true, Bool.or_self, Bool.false_eq_true, if_false]
  cases rail <;> rfl

/-- A sag counts, marks its rail, and begins step 1 or ends a return. -/
theorem sagEstablished_runs {rail : Rail} {mv : Nat} (hp : s.powered = true) (hb : s.belowSag rail mv = true) :
    ∃ t, exec (.sagEstablished rail mv) s = .next t ∧
      t.power.sags = satInc s.power.sags ∧ (t.power.sagCore = true ↔ s.power.sagCore = true ∨ rail = .core) ∧
      (t.power.sagIo = true ↔ s.power.sagIo = true ∨ rail = .io) ∧
      (s.lost = false → s.running = true → s.power.step = 0 → t.power.step = 1 ∧ t.power.stepAt = s.now) ∧
      (s.power.step ≠ 0 ∨ s.lost = true ∨ s.running = false → t.power.step = s.power.step ∧ s.sameBut [.power] t) ∧
      (s.lost = false → s.running = true → s.power.step ≠ 0 → s.power.returning = true →
        t.power.returning = false ∧ t.power.stepAt = s.now) ∧
      s.sameBut (mayChange (.sagEstablished rail mv)) t := by
  have ht := exec_sagEstablished hp hb
  have hsag := sagged_power s rail
  by_cases hg : (s.lost || !s.running) = true
  · rw [if_pos hg] at ht
    have hno (hl : s.lost = false) (hr : s.running = true) : False := by simp [hl, hr] at hg
    refine ⟨_, ht, by rw [hsag], by rw [hsag]; simp, by rw [hsag]; simp, fun hl hr => (hno hl hr).elim,
      fun _ => ⟨by rw [hsag], sameBut_power s _⟩, fun hl hr => (hno hl hr).elim, exec_frame ht⟩
  rw [if_neg hg] at ht
  have hrun : ¬(s.lost = true ∨ s.running = false) := by simpa using hg
  by_cases h0 : s.power.step = 0
  · rw [if_pos h0] at ht
    have hpow := enterStep_power (sagged s rail) 1
    rw [hsag] at hpow
    exact ⟨_, ht, by rw [hpow], by rw [hpow]; simp, by rw [hpow]; simp, fun _ _ _ => by rw [hpow]; exact ⟨rfl, rfl⟩,
      fun h => (h.elim (fun h => h h0) hrun).elim, fun _ _ h => (h h0).elim, exec_frame ht⟩
  rw [if_neg h0] at ht
  by_cases hret : s.power.returning = true
  · rw [if_pos hret] at ht
    exact ⟨_, ht, by rw [hsag], by rw [hsag]; simp, by rw [hsag]; simp, fun _ _ h => (h0 h).elim,
      fun _ => ⟨by rw [hsag], sameBut_power s _⟩, fun _ _ _ _ => ⟨rfl, rfl⟩, exec_frame ht⟩
  · rw [if_neg hret] at ht
    exact ⟨_, ht, by rw [hsag], by rw [hsag]; simp, by rw [hsag]; simp, fun _ _ h => (h0 h).elim,
      fun _ => ⟨by rw [hsag], sameBut_power s _⟩, fun _ _ _ h => (hret h).elim, exec_frame ht⟩

/-- A fall below the hold limit enters step 6 at once, but in it or when the device is lost. -/
theorem holdLimitFall_runs {rail : Rail} {mv : Nat} (hp : s.powered = true) (hb : s.belowHold rail mv = true) :
    ∃ t, exec (.holdLimitFall rail mv) s = .next t ∧
      (t.power.sagCore = true ↔ s.power.sagCore = true ∨ rail = .core) ∧
      (t.power.sagIo = true ↔ s.power.sagIo = true ∨ rail = .io) ∧
      (s.lost = false → s.frozen = false → t.power.step = 6 ∧ t.power.step6From = s.now ∧
        t.power.heldCount = satInc s.power.heldCount ∧ t.env.faultN = true ∧ t.memctl.retention = true) ∧
      (s.lost = true ∨ s.frozen = true → s.sameBut [.power] t ∧ t.power.step = s.power.step) ∧
      s.sameBut [.power, .memctl, .env] t := by
  have ht : exec (.holdLimitFall rail mv) s = if (s.lost || s.frozen) = true then .next (s.markSag rail)
      else .next (s.markSag rail).enterStep6 := by
    simp only [exec, execHoldLimitFall, hp, hb, Bool.not_true, Bool.or_self, Bool.false_eq_true, if_false]
    cases rail <;> rfl
  have hm := markSag_power (s := s) rail
  have heq := markSag_eq (s := s) rail
  by_cases hg : (s.lost || s.frozen) = true
  · rw [if_pos hg] at ht
    refine ⟨_, ht, by rw [hm]; simp, by rw [hm]; simp, fun hl hf => by simp [hl, hf] at hg,
      fun _ => ⟨by rw [heq]; exact sameBut_power s _, by rw [hm]⟩, fun f hf => ?_⟩
    rw [heq]
    exact sameBut_power s _ f (by simp at hf ⊢; exact hf.1)
  · rw [if_neg hg] at ht
    have hrun : ¬(s.lost = true ∨ s.frozen = true) := by simpa using hg
    refine ⟨_, ht, ?_, ?_, fun _ _ => ⟨rfl, ?_, ?_, rfl, rfl⟩, fun h => (hrun h).elim, fun f hf => ?_⟩
    · show (s.markSag rail).power.sagCore = true ↔ _
      rw [hm]; simp
    · show (s.markSag rail).power.sagIo = true ↔ _
      rw [hm]; simp
    · rw [heq]; rfl
    · show satInc (s.markSag rail).power.heldCount = _
      rw [hm]
    · rw [heq]
      cases f with
      | power | memctl | env => simp at hf
      | _ => rfl

/-- The step in force has held for 100 µs: the next one is entered. -/
theorem shedStep_runs (hp : s.powered = true) (hl : s.lost = false) (hr : s.running = true)
    (hs : s.power.sagCore = true ∨ s.power.sagIo = true) (hret : s.power.returning = false) (h1 : 1 ≤ s.power.step)
    (h5 : s.power.step ≤ 5) : ∃ t, exec .shedStep s = .next t ∧
      t.power.step = s.power.step + 1 ∧ (s.power.stepAt + 25_000).toNat ≤ t.now.toNat ∧
      s.now.toNat ≤ t.now.toNat ∧ (s.power.step = 5 → t.env.faultN = true ∧ t.memctl.retention = true) ∧
      s.sameBut (mayChange .shedStep) t := by
  have hus : BitVec.ofNat 64 (usTicks 100) = 25_000 := by decide
  have hsag : (s.power.sagCore || s.power.sagIo) = true := by simpa using hs
  have ht : exec .shedStep s = if s.power.step = 5 then .next (s.advanceTo (s.power.stepAt + 25_000)).enterStep6
      else .next ((s.advanceTo (s.power.stepAt + 25_000)).enterStep (s.power.step + 1)) := by
    simp only [exec, execShedStep, hp, hl, hr, hsag, hret, h1, h5, hus, Bool.not_false, Bool.and_self, decide_true, if_true]
  have hdue := advanceTo_reaches s (s.power.stepAt + 25_000)
  have hnow := now_le_advanceTo s (s.power.stepAt + 25_000)
  generalize s.power.stepAt + 25_000 = due at ht hdue hnow ⊢
  by_cases h : s.power.step = 5
  · rw [if_pos h] at ht
    generalize s.advanceTo due = u at ht hdue hnow
    exact ⟨u.enterStep6, ht, by rw [h]; rfl, hdue, hnow, fun _ => ⟨rfl, rfl⟩, exec_frame ht⟩
  · rw [if_neg h] at ht
    have hn : ((s.advanceTo due).enterStep (s.power.step + 1)).now = (s.advanceTo due).now :=
      congrArg Tide.count (enterStep_tide ..)
    exact ⟨_, ht, by rw [enterStep_power], by rw [hn]; exact hdue, by rw [hn]; exact hnow, fun h' => (h h').elim,
      exec_frame ht⟩

/-- A step that holds for too long, or a core rail that collapses, loses the device. -/
theorem step6Timeout_runs (hp : s.powered = true) (hl : s.lost = false) (hf : s.frozen = true) {elapsed : Bool} {mv : Nat}
    (he : elapsed = true ∨ mv < 500) : ∃ t, exec (.step6Timeout elapsed mv) s = .next t ∧
      (s.env.heldFunctionReset = none → s.env.heldDeviceReset = false →
        t.lighthouse.state = .lost ∧ t.lighthouse.cause = 0xC006 ∧ t.env.faultN = true ∧
        (elapsed = true → (s.power.step6From + 25_000_000).toNat ≤ t.now.toNat)) ∧
      s.sameBut (mayChange (.step6Timeout elapsed mv)) t := by
  have hms : BitVec.ofNat 64 (100 * State.msTicks) = 25_000_000 := by decide
  have hg : (!elapsed && decide (500 ≤ mv)) = false := by
    rcases he with h | h
    · simp [h]
    · simp [Nat.not_le.2 h]
  have ht : exec (.step6Timeout elapsed mv) s = .next ((if elapsed = true then
      s.advanceTo (s.power.step6From + 25_000_000) else s).loseDevice 0xC006) := by
    simp only [exec, execStep6Timeout, hp, hl, hf, hg, hms, Bool.not_false, Bool.and_self, Bool.not_true, Bool.or_self,
      Bool.false_eq_true, if_false]
  generalize s.power.step6From + 25_000_000 = due at ht ⊢
  generalize hu : (if elapsed = true then s.advanceTo due else s) = u at ht
  have hk : Keeps 0x200000000 s u := by
    rw [← hu]
    split
    · exact keeps_advanceTo rfl (.refl _ s) _
    · exact .refl _ s
  refine ⟨_, ht, fun hh _ => ?_, exec_frame ht⟩
  have hlost : u.lost = false := by
    rw [State.lost, show u.lighthouse = s.lighthouse from hk.same .lighthouse rfl]
    exact hl
  have henv : u.env.heldFunctionReset = none := by rw [show u.env = s.env from hk.same .env rfl, hh]
  have hloss := loseDevice_shows hlost henv 0xC006
  refine ⟨hloss.state, hloss.cause, hloss.faultN, fun hel => ?_⟩
  have hn : (u.loseDevice 0xC006).now = u.now := congrArg Tide.count (loseDevice_tide hlost henv)
  rw [hn, ← hu, if_pos hel]
  exact advanceTo_reaches s due

/-! ## The way back -/

/-- The clocks restart: where no reset is held, step 6 ends with step 5 in force, or with none before RUNNING. -/
theorem leaveStep6_spec (hf : s.env.heldFunctionReset = none) (hd : s.env.heldDeviceReset = false) :
    s.leaveStep6.power = { s.power with step := if s.running = true then 5 else 0, stepAt := s.now } ∧
      (s.lost = false → s.leaveStep6.env.faultN = decide (s.boot.stage = .halted) ∧
        (s.env.power = .d0 → s.leaveStep6.memctl.retention = false)) := by
  unfold State.leaveStep6
  extract_lets step p a env b c d e
  have hb : b.env = s.env ∨ b.env = { s.env with faultN := decide (s.boot.stage = .halted) } := by
    unfold b
    split
    · exact .inl rfl
    · exact .inr rfl
  have hab : b.power = a.power ∧ b.lighthouse = s.lighthouse := by
    unfold b
    split <;> exact ⟨rfl, rfl⟩
  have hbc : Keeps 0x200000 b c := by
    unfold c
    split
    · exact .refl _ b
    · exact keeps_endRetention rfl (.refl _ b)
  have hce : Keeps 0x221b20cf2d0 c e := by
    have hcd : Keeps 0x221b20cf2d0 c d := by
      unfold d
      split
      · exact keeps_foldl (.refl _ c) fun _ n h => keeps_shedEffect rfl h n
      · exact .refl _ c
    unfold e
    split
    · exact keeps_wakeAll rfl hcd
    · exact hcd
  have hcenv : c.env = b.env := hbc.same .env rfl
  have henv : e.env = b.env := (show e.env = c.env from hce.same .env rfl).trans hcenv
  have hheld : e.env.heldFunctionReset = none ∧ e.env.heldDeviceReset = false := by
    rw [henv]
    rcases hb with hb | hb <;> rw [hb] <;> exact ⟨hf, hd⟩
  rw [releaseHeldReset_of_none hheld.1 hheld.2]
  have hpow : e.power = a.power :=
    (hce.same .power rfl : e.power = c.power).trans ((hbc.same .power rfl : c.power = b.power).trans hab.1)
  refine ⟨hpow, fun hl => ⟨?_, fun hp => ?_⟩⟩
  · rw [henv, show b = { a with env := { a.env with faultN := decide (a.boot.stage = .halted) } } from
      if_neg (ne_true_of_eq_false (show a.lost = false from hl))]
  · rw [show e.memctl = c.memctl from hce.same .memctl rfl]
    have hbl : b.lost = false := by
      rw [State.lost, hab.2]
      exact hl
    have hbp : b.env.power = .d0 := by rcases hb with hb | hb <;> rw [hb] <;> exact hp
    rw [show c = b.endRetention from if_neg (by simp [hbl, hbp])]
    unfold State.endRetention
    split
    · rfl
    next h => exact eq_false_of_ne_true h

/-- What step `n` has shed is given back. -/
def giveBack (s : State) (n : Nat) : State :=
  match n with
  | 1 => s.setShed 2 false
  | 2 => (s.setShed 0 false).setShed 1 false
  | 3 | 5 => s.reshed
  | 4 => { s with deckReduced := false }
  | _ => s

theorem giveBack_keeps (s : State) (n : Nat) : Keeps 0x221b20cf2d0 s (giveBack s n) := by
  unfold giveBack
  split
  · exact keeps_setShed rfl (.refl _ s) ..
  · exact keeps_setShed rfl (keeps_setShed rfl (.refl _ s) ..) ..
  · exact keeps_reshed rfl (.refl _ s)
  · exact keeps_reshed rfl (.refl _ s)
  · refine ⟨fun f hf => ?_, .refl _, id⟩
    cases f with
    | deckReduced => cases hf
    | _ => rfl
  · exact .refl _ s

/-- The end of a return: whether further steps follow, the entry, and what is settled. -/
def returned (s : State) (n : Nat) : State :=
  (({ s with power := { s.power with returning := s.power.step ≠ 0 } } : State).note
    (BitVec.ofNat 16 (0xC010 + n)) .information 0).settle

theorem returned_keeps (s : State) (n : Nat) :
    Keeps 0x220800cd2d0 { s with power := { s.power with returning := s.power.step ≠ 0 } } (returned s n) :=
  keeps_settle rfl (keeps_note rfl (.refl _ _) ..)

theorem returnStep_of_ne {n : Nat} (hn : n ≠ 6) : s.returnStep n =
    returned (giveBack { s with power := { s.power with step := n - 1, stepAt := s.now } } n) n := by
  unfold State.returnStep returned giveBack
  split
  · exact (hn rfl).elim
  · rfl

theorem returnStep_six : s.returnStep 6 = returned s.leaveStep6 6 := rfl

/-- The step below is in force from now on; where there is one, the return goes on. -/
theorem returnStep_spec (s : State) {n : Nat} (hn : n ≠ 6) :
    (s.returnStep n).power = { s.power with step := n - 1, stepAt := s.now, returning := decide (n - 1 ≠ 0) } ∧
      (s.returnStep n).tide = s.tide := by
  rw [returnStep_of_ne hn]
  generalize hu : ({ s with power := { s.power with step := n - 1, stepAt := s.now } } : State) = u
  have hg := giveBack_keeps u n
  have hr := returned_keeps (giveBack u n) n
  have hpow : (giveBack u n).power = u.power := hg.same .power rfl
  refine ⟨?_, (hr.same .tide rfl).trans ((hg.same .tide rfl).trans (by rw [← hu]))⟩
  rw [(hr.same .power rfl : (returned (giveBack u n) n).power = _), hpow, ← hu]

theorem returnStep6_spec (hf : s.env.heldFunctionReset = none) (hd : s.env.heldDeviceReset = false) :
    (s.returnStep 6).power = { s.power with
        step := if s.running = true then 5 else 0, stepAt := s.now, returning := s.running } ∧
      (s.lost = false → (s.returnStep 6).env.faultN = decide (s.boot.stage = .halted) ∧
        (s.env.power = .d0 → (s.returnStep 6).memctl.retention = false)) := by
  obtain ⟨hpow, hrest⟩ := leaveStep6_spec hf hd
  have hr := returned_keeps s.leaveStep6 6
  rw [returnStep_six, (hr.same .power rfl : (returned s.leaveStep6 6).power = _),
    (hr.same .env rfl : (returned s.leaveStep6 6).env = _), (hr.same .memctl rfl : (returned s.leaveStep6 6).memctl = _)]
  refine ⟨?_, hrest⟩
  dsimp only
  rw [hpow]
  cases s.running <;> rfl

/-- The state in which a return begins: what step 6 held is recorded, and no rail sags. -/
def recovered (s : State) : State :=
  let u := if s.frozen = true then s.recordStep6 else s
  { u with power := { u.power with sagCore := false, sagIo := false } }

theorem recovered_spec (s : State) : (recovered s).power = { s.power with sagCore := false, sagIo := false } ∧
    (recovered s).env = s.env ∧ (recovered s).boot = s.boot ∧ (recovered s).lighthouse = s.lighthouse := by
  have hk : Keeps 0x22000080210 s (if s.frozen = true then s.recordStep6 else s) := by
    split
    · exact keeps_recordStep6 rfl (.refl _ s)
    · exact .refl _ s
  unfold recovered
  generalize (if s.frozen = true then s.recordStep6 else s) = u at hk
  have hp : u.power = s.power := hk.same .power rfl
  exact ⟨congrArg (fun p : Power => { p with sagCore := false, sagIo := false }) hp, hk.same .env rfl, hk.same .boot rfl, hk.same .lighthouse rfl⟩

theorem sagRecovered_runs {core io : Nat} (hp : s.powered = true) (hs : s.power.sagCore = true ∨ s.power.sagIo = true)
    (hr : s.railsRecovered core io = true) : ∃ t, exec (.sagRecovered core io) s = .next t ∧
      (s.env.heldFunctionReset = none → s.env.heldDeviceReset = false →
        t.power.sagCore = false ∧ t.power.sagIo = false ∧ (s.power.step = 0 → t.power.step = 0) ∧
        (s.power.step = 6 → s.running = true → t.power.step = 5 ∧ t.power.returning = true ∧
          (s.lost = false → t.env.faultN = false ∧ (s.env.power = .d0 → t.memctl.retention = false))) ∧
        (s.power.step = 6 → s.running = false → t.power.step = 0 ∧ t.power.returning = false) ∧
        (1 ≤ s.power.step → s.power.step ≤ 5 →
          t.power.step = s.power.step - 1 ∧ (t.power.returning = true ↔ s.power.step ≠ 1))) ∧
      s.sameBut (mayChange (.sagRecovered core io)) t := by
  have hsag : (s.power.sagCore || s.power.sagIo) = true := by simpa using hs
  obtain ⟨hpow, henv, hboot, hlight⟩ := recovered_spec s
  have hstep : (recovered s).power.step = s.power.step := by rw [hpow]
  have ht : exec (.sagRecovered core io) s = if s.power.step = 0 then .next (recovered s)
      else .next ((recovered s).returnStep s.power.step) := by
    rw [← hstep]
    simp only [exec, execSagRecovered, hp, hsag, hr, Bool.and_self, Bool.not_true, Bool.or_self, Bool.false_eq_true,
      if_false]
    rfl
  by_cases h0 : s.power.step = 0
  · rw [if_pos h0] at ht
    refine ⟨_, ht, fun _ _ => ⟨by rw [hpow], by rw [hpow], fun _ => by rw [hpow, h0], fun h => ?_, fun h => ?_, fun h => ?_⟩,
      exec_frame ht⟩ <;> omega
  rw [if_neg h0] at ht
  have hrun : (recovered s).running = s.running := by rw [State.running, hboot]; rfl
  have hlost : (recovered s).lost = s.lost := by rw [State.lost, hlight]; rfl
  by_cases h6 : s.power.step = 6
  · rw [h6] at ht
    refine ⟨_, ht, fun hf hd => ?_, exec_frame ht⟩
    obtain ⟨hback, hfault⟩ := returnStep6_spec (s := recovered s) (by rw [henv, hf]) (by rw [henv, hd])
    rw [hrun] at hback
    rw [hlost, hboot, henv] at hfault
    refine ⟨by rw [hback, hpow], by rw [hback, hpow], fun h => (h0 h).elim, fun _ hr => ?_, fun _ hr => ?_,
      fun _ h => by omega⟩
    · have hst : s.boot.stage = .running := of_decide_eq_true hr
      rw [hback, hr]
      refine ⟨rfl, rfl, fun hl => ?_⟩
      obtain ⟨hn, hret⟩ := hfault hl
      exact ⟨by rw [hn, hst]; rfl, hret⟩
    · rw [hback, hr]
      exact ⟨rfl, rfl⟩
  · refine ⟨_, ht, fun hf hd => ?_, exec_frame ht⟩
    obtain ⟨hback, -⟩ := returnStep_spec (recovered s) h6
    rw [hback, hpow]
    refine ⟨rfl, rfl, fun h => (h0 h).elim, fun h => (h6 h).elim, fun h => (h6 h).elim, fun _ _ => ⟨rfl, ?_⟩⟩
    rw [decide_eq_true_iff]
    omega

theorem returnStep_from {due : Tick} (hdue : due.toNat ≤ (s.advanceTo due).now.toNat) (h1 : 1 ≤ s.power.step)
    (h5 : s.power.step ≤ 5) : let t := (s.advanceTo due).returnStep s.power.step
      t.power.step = s.power.step - 1 ∧ (t.power.returning = true ↔ s.power.step ≠ 1) ∧ due.toNat ≤ t.now.toNat := by
  intro t
  obtain ⟨hback, htide⟩ := returnStep_spec (s.advanceTo due) (n := s.power.step) (by omega)
  have hn : t.now = (s.advanceTo due).now := congrArg Tide.count htide
  refine ⟨by unfold t; rw [hback], ?_, by rw [hn]; exact hdue⟩
  unfold t
  rw [hback, decide_eq_true_iff]
  omega

theorem exec_shedReturn (hp : s.powered = true) (hr : s.power.returning = true) (h1 : 1 ≤ s.power.step)
    (h5 : s.power.step ≤ 5) :
    exec .shedReturn s = .next ((s.advanceTo (s.power.stepAt + 250_000)).returnStep s.power.step) := by
  have hus : BitVec.ofNat 64 (usTicks 1000) = 250_000 := by decide
  simp only [exec, execShedReturn, hp, hr, h1, h5, hus, Bool.and_self, decide_true, if_true]

/-- The next step returns 1 ms after the one before. -/
theorem shedReturn_runs (hp : s.powered = true) (hr : s.power.returning = true) (h1 : 1 ≤ s.power.step)
    (h5 : s.power.step ≤ 5) : ∃ t, exec .shedReturn s = .next t ∧
      t.power.step = s.power.step - 1 ∧ (t.power.returning = true ↔ s.power.step ≠ 1) ∧
      (s.power.stepAt + 250_000).toNat ≤ t.now.toNat ∧ s.sameBut (mayChange .shedReturn) t := by
  have ht := exec_shedReturn hp hr h1 h5
  obtain ⟨hstep, hret, hnow⟩ := returnStep_from (advanceTo_reaches s (s.power.stepAt + 250_000)) h1 h5
  exact ⟨_, ht, hstep, hret, hnow, exec_frame ht⟩

/-! ## The trip -/

theorem thermalTrip_runs {reading : Int} (hp : s.powered = true) (hr : tripAt s.part ≤ reading) :
    ∃ t, exec (.thermalTrip reading) s = .next t ∧ t.env.thermalHold = true ∧ t.lighthouse.cause = 0xC020 ∧
      (s.env.heldFunctionReset = none → s.env.heldDeviceReset = false → t.lighthouse.state = .lost ∧
        (s.lost = false → t.env.faultN = true ∧ ∀ q : QuayId, t.quays[q].recoveryFence = true)) ∧
      s.sameBut (mayChange (.thermalTrip reading)) t := by
  have ht : exec (.thermalTrip reading) s = .next { s.loseDevice 0xC020 with
      lighthouse := { (s.loseDevice 0xC020).lighthouse with cause := 0xC020 }
      env := { (s.loseDevice 0xC020).env with thermalHold := true } } := by
    simp only [exec, execThermalTrip, hp, decide_eq_false (Int.not_lt.2 hr), Bool.not_true, Bool.or_self,
      Bool.false_eq_true, if_false]
  refine ⟨_, ht, rfl, rfl, fun hf _ => ?_, exec_frame ht⟩
  cases hl : s.lost with
  | true =>
    rw [show s.loseDevice 0xC020 = s from if_pos hl]
    exact ⟨of_decide_eq_true hl, fun h => (by cases h)⟩
  | false =>
    have hs := loseDevice_shows hl hf 0xC020
    exact ⟨hs.state, fun _ => ⟨hs.faultN, hs.fence⟩⟩

end

/-- Settles O56: the way up, the way back and the trip, by what each step leaves of the power state. -/
theorem sheddingStepsUpAndReturns : Obligations.SheddingStepsUpAndReturns := by
  unfold Obligations.SheddingStepsUpAndReturns
  refine ⟨fun s rail mv => ?_, fun s => ?_, fun s reading => ?_⟩
  · intro sags falls
    have hsags : sags ↔ s.belowSag rail mv = true := (belowSag_iff rail mv).symm
    have hfalls : falls ↔ s.belowHold rail mv = true := (belowHold_iff rail mv).symm
    refine ⟨fun hp h => sagEstablished_runs hp (hsags.1 h), fun h => ?_, fun hp h => holdLimitFall_runs hp (hfalls.1 h),
      fun h => ?_⟩
    · rw [hsags, Bool.not_eq_true] at h
      have hg : (!s.powered || !s.belowSag rail mv) = true := by rcases h with h | h <;> simp [h]
      simp only [exec, execSagEstablished, hg, if_true]
    · rw [hfalls, Bool.not_eq_true] at h
      have hg : (!s.powered || !s.belowHold rail mv) = true := by rcases h with h | h <;> simp [h]
      simp only [exec, execHoldLimitFall, hg, if_true]
  · intro p
    refine ⟨shedStep_runs, fun h => ?_, fun elapsed mv => ⟨fun hp hl hf he => step6Timeout_runs hp hl hf he, fun h => ?_⟩, fun core io => ?_,
      shedReturn_runs, fun h => ?_⟩
    · have hg : (s.powered && !s.lost && s.running && (p.sagCore || p.sagIo) && !p.returning &&
          decide (1 ≤ p.step) && decide (p.step ≤ 5)) = false := by
        rcases h with h | h | h | h | h | h | h
        · simp [h]
        · simp [h]
        · simp [h]
        · simp [h]
        · simp [h]
        · simp [Nat.not_le.2 h]
        · simp [Nat.not_le.2 h]
      simp only [exec, execShedStep, show s.power = p from rfl, hg, Bool.false_eq_true, if_false]
    · have hg : (!(s.powered && s.frozen && !s.lost) || (!elapsed && decide (500 ≤ mv))) = true := by
        rcases h with h | h | h | ⟨h, k⟩
        · simp [h]
        · simp [h]
        · simp [h]
        · simp [h, k]
      simp only [exec, execStep6Timeout, hg, if_true]
    · intro above
      have habove : above ↔ s.railsRecovered core io = true := by
        simp only [above, State.railsRecovered, Bool.and_eq_true, Bool.or_eq_true, Bool.not_eq_true', decide_eq_true_eq, p]
        cases s.power.sagCore <;> cases s.power.sagIo <;> simp
      refine ⟨fun hp hs h => sagRecovered_runs hp hs (habove.1 h), fun h => ?_⟩
      rw [habove, Bool.not_eq_true] at h
      have hg : (!(s.powered && (s.power.sagCore || s.power.sagIo)) || !s.railsRecovered core io) = true := by
        rcases h with h | ⟨h, k⟩ | h
        · simp [h]
        · simp [show s.power.sagCore = false from h, show s.power.sagIo = false from k]
        · simp [h]
      simp only [exec, execSagRecovered, hg, if_true]
    · have hg : (s.powered && p.returning && decide (1 ≤ p.step) && decide (p.step ≤ 5)) = false := by
        rcases h with h | h | h | h
        · simp [h]
        · simp [h]
        · simp [Nat.not_le.2 h]
        · simp [Nat.not_le.2 h]
      simp only [exec, execShedReturn, show s.power = p from rfl, hg, Bool.false_eq_true, if_false]
  · refine ⟨thermalTrip_runs, fun h => ?_⟩
    have hg : (!s.powered || decide (reading < tripAt s.part)) = true := by
      rcases h with h | h
      · simp [h]
      · rw [decide_eq_true (show reading < tripAt s.part from h), Bool.or_true]
    simp only [exec, execThermalTrip, hg, if_true]

end Sys2Proof.Machine
end

section
/-! Function and device resets: what they lose, and the states in which they wait (R96–R99, R106, R319). -/

namespace Sys2Proof.Machine

/-! ## What both lose -/

section
variable {s t : State}

theorem loseWork_mem (s : State) : s.loseWork.mem = s.mem.clear (windowBase + holdSize) (windowBase + windowSize) := rfl

theorem loseWork_berth (s : State) (q : QuayId) :
    s.loseWork.quays[q].ready = false ∧ s.loseWork.quays[q].shape = 0 ∧ s.loseWork.quays[q].store = [] ∧
      ∀ b : BerthId, berthIdle (s.loseWork.berth q b) ∧ (s.loseWork.berth q b).gated = true := by
  simp [State.loseWork, State.berth, berthIdle]

/-- Where nothing but configuration, the power state and retention has changed since, the work is lost. -/
theorem workLost_of_keeps (h : Keeps 0x200002000d8 s.loseWork t) : workLost s t := by
  have hquays : t.quays = s.loseWork.quays := h.same .quays rfl
  have hmem : t.mem = s.mem.clear (windowBase + holdSize) (windowBase + windowSize) := h.same .mem rfl
  refine ⟨h.same .ready rfl, h.same .fwif rfl, fun q => ?_, fun f => ?_, fun c => ?_, h.same .flights rfl,
    h.same .sched rfl, h.same .manifest rfl, h.same .memhost rfl, fun p => ?_, fun i => ?_, fun n => ?_, fun n => ?_,
    h.same .recorder rfl, h.same .keep rfl, h.same .tide rfl, fun q => ?_, fun a hlo hhi => ?_, fun hw a ha => ?_⟩
  · rw [show t.queues = .replicate 256 {} from h.same .queues rfl]
    simp
  · rw [show t.flags = .replicate 1024 0 from h.same .flags rfl]
    simp
  · rw [show t.ctxs = .replicate 256 {} from h.same .ctxs rfl]
    simp
  · rw [show t.ports = .replicate 12 {} from h.same .ports rfl]
    simp
  · rw [show t.streams = .replicate 24 {} from h.same .streams rfl]
    simp
  · rw [show t.trigs = .replicate 12 {} from h.same .trigs rfl]
    simp
  · rw [show t.sessions = .replicate 32 {} from h.same .sessions rfl]
    simp
  · unfold State.berth
    rw [hquays]
    exact loseWork_berth s q
  · rw [hmem]
    exact Memory.read_clear_inside s.mem hlo hhi
  · rw [hmem]
    exact Memory.read_clear_other hw ha

/-- What is lost depends on the Tide and on memory alone. -/
theorem workLost_congr {u : State} (h : workLost u t) (htide : u.tide = s.tide) (hmem : u.mem = s.mem) : workLost s t := by
  unfold workLost at h ⊢
  rw [htide, hmem] at h
  exact h

/-! ## What holds a reset -/

theorem retraining_iff (s : State) : s.retraining = true ↔ ∃ c : ChanId, s.memctl.chans[c].retraining = true := by
  unfold State.retraining
  rw [List.any_eq_true]
  constructor
  · rintro ⟨x, hx, h⟩
    obtain ⟨i, hi, rfl⟩ := List.getElem_of_mem hx
    exact ⟨⟨i, by simpa using hi⟩, by simpa using h⟩
  · rintro ⟨c, h⟩
    exact ⟨s.memctl.chans[c], by simp, h⟩

/-- Leaving retention re-centres wires; of a channel nothing else moves. -/
theorem leaveRetention_chan (s : State) (c : ChanId) :
    ∃ w, s.leaveRetention.memctl.chans[c] = { s.memctl.chans[c] with wires := w } :=
  ⟨_, by simp only [State.leaveRetention, Fin.getElem_fin, Vector.getElem_ofFn]; rfl⟩

theorem wakeSlack_chan (s : State) (c : ChanId) :
    ∃ w, s.wakeSlack.memctl.chans[c] = { s.memctl.chans[c] with wires := w } := by
  by_cases h : s.env.power = .slackWater
  · have hm : s.wakeSlack.memctl =
        (State.leaveRetention { s with env := { s.env with power := .d0 } }).memctl := by
      rw [State.wakeSlack, if_pos h, ltrUpdate_memctl]
    rw [hm]
    exact leaveRetention_chan _ c
  · rw [wakeSlack_of_awake h]
    exact ⟨_, rfl⟩

theorem wakeSlack_retraining (s : State) : s.wakeSlack.retraining = s.retraining := by
  rw [Bool.eq_iff_iff, retraining_iff, retraining_iff]
  refine exists_congr fun c => ?_
  obtain ⟨w, hw⟩ := wakeSlack_chan s c
  rw [hw]

theorem resetFree_iff (s : State) : resetFree s = true ↔
    s.lighthouse.state = .normal ∧ s.frozen = false ∧ s.retraining = false := by
  simp [resetFree, and_assoc]

/-! ## The two resets -/

theorem startFunctionReset_keeps (s : State) : Keeps 0x200002000d8 s.loseWork s.startFunctionReset.ltrUpdate :=
  keeps_ltrUpdate rfl (keeps_set_env rfl (keeps_endRetention rfl (keeps_loseConfig rfl (.refl _ _))))

theorem startDeviceReset_keeps (s : State) : Keeps 0x200002000d8 s.loseWork s.startDeviceReset.haltUpdate.ltrUpdate :=
  keeps_ltrUpdate rfl (keeps_haltUpdate rfl (keeps_set_env rfl (.refl _ _)))

theorem endRetention_retention (s : State) : s.endRetention.memctl.retention = false := by
  unfold State.endRetention
  split
  · rfl
  next h => exact eq_false_of_ne_true h

theorem functionReset_starting (hr : s.boot.stage ≠ .running) (p : BitVec 3) (d : List (Nat × Byte)) :
    s.functionReset p d = s.loseConfig := if_pos hr

/-- What the function reset of a running device waits for is a re-launch, step 6 and a retraining. -/
theorem functionReset_begins (hr : s.boot.stage = .running) (hl : s.lighthouse.state ≠ .relaunching)
    (hlost : s.lost = false) (hfr : s.frozen = false) (hre : s.retraining = false) (hn : s.env.reset ≠ .function)
    (p : BitVec 3) (d : List (Nat × Byte)) : s.functionReset p d = s.startFunctionReset.ltrUpdate := by
  simp [State.functionReset, hr, hl, hfr, hre, hlost, hn]

theorem functionReset_running (hr : s.boot.stage = .running) (hf : resetFree s = true) (hn : s.env.reset ≠ .function)
    (p : BitVec 3) (d : List (Nat × Byte)) : s.functionReset p d = s.startFunctionReset.ltrUpdate := by
  obtain ⟨hl, hfr, hre⟩ := (resetFree_iff s).1 hf
  exact functionReset_begins hr (by rw [hl]; decide) (by simp [State.lost, hl]) hfr hre hn p d

theorem requestDeviceReset_free (ha : s.alive = true) (hr : s.env.reset = .none) (hf : resetFree s = true) :
    s.requestDeviceReset = s.startDeviceReset.haltUpdate.ltrUpdate := by
  obtain ⟨hl, hfr, hre⟩ := (resetFree_iff s).1 hf
  simp [State.requestDeviceReset, ha, hr, hl, hfr, hre]

theorem functionReset_spec (s : State) :
    let t := s.startFunctionReset.ltrUpdate
    workLost s t ∧ t.cfg = {} ∧ t.hostif = {} ∧ t.env.reset = .function ∧ t.env.power = .d0 ∧ t.env.l12 = false ∧
      t.memctl.retention = false := by
  intro t
  have hk : Keeps 0x20000000080 s.startFunctionReset t := keeps_ltrUpdate rfl (.refl _ _)
  have hcfg : s.startFunctionReset.cfg = {} :=
    (keeps_endRetention rfl (.refl 0x200000 s.loseWork.loseConfig)).same .cfg rfl
  have hhost : s.startFunctionReset.hostif = {} :=
    (keeps_endRetention rfl (.refl 0x200000 s.loseWork.loseConfig)).same .hostif rfl
  have henv : s.loseWork.loseConfig.endRetention.env = s.loseWork.loseConfig.env :=
    (keeps_endRetention rfl (.refl 0x200000 s.loseWork.loseConfig)).same .env rfl
  have ht : t.env = s.startFunctionReset.env := hk.same .env rfl
  refine ⟨workLost_of_keeps (startFunctionReset_keeps s), (hk.same .cfg rfl).trans hcfg, (hk.same .hostif rfl).trans hhost,
    by rw [ht]; rfl, ?_, ?_, ?_⟩
  · rw [ht]
    exact congrArg Env.power henv
  · rw [ht]
    exact congrArg Env.l12 henv
  · rw [show t.memctl = s.startFunctionReset.memctl from hk.same .memctl rfl]
    exact endRetention_retention s.loseWork.loseConfig

end

/-- Settles O15: both resets start from `loseWork`, and nothing that it lost comes back. -/
theorem resetsLoseTheWork : Obligations.ResetsLoseTheWork := by
  unfold Obligations.ResetsLoseTheWork
  refine ⟨fun s passed misread => ⟨fun hr => ?_, fun hr hf hn => ?_⟩, fun s v ha hr hf => ⟨fun hv => ?_, fun hv => ?_⟩⟩
  · exact congrArg Host.Outcome.next (functionReset_starting hr passed misread)
  · have ht : exec (.functionLevelReset passed misread) s = .next s.startFunctionReset.ltrUpdate :=
      congrArg Host.Outcome.next (functionReset_running hr hf hn passed misread)
    obtain ⟨hw, hcfg, hhost, hres, hpow, hl12, hret⟩ := functionReset_spec s
    exact ⟨_, ht, hw, hcfg, hhost, hres, hpow, hl12, hret, exec_frame ht⟩
  · have hfree : resetFree s.wakeSlack = true := by
      rw [resetFree_iff, wakeSlack_lighthouse, wakeSlack_frozen, wakeSlack_retraining, ← resetFree_iff]
      exact hf
    have ht : exec (.hostifDevReset v) s = .next s.wakeSlack.startDeviceReset.haltUpdate.ltrUpdate := by
      simp only [exec, execHostifDevReset, hv, if_true]
      rw [requestDeviceReset_free (by rw [wakeSlack_alive, ha]) (by rw [wakeSlack_reset, hr]) hfree]
    refine ⟨_, ht, ?_, by rw [ltrUpdate_env, haltUpdate_env]; rfl, exec_frame ht⟩
    exact workLost_congr (workLost_of_keeps (startDeviceReset_keeps s.wakeSlack)) (wakeSlack_tide s) (wakeSlack_mem s)
  · simp only [exec, execHostifDevReset, hv, Bool.false_eq_true, if_false]

/-! ## Resets that wait -/

/-- A running device whose Lighthouse reads HALTED: no reset waits for that state to end. -/
def haltedRunning : State :=
  { State.reset with
    boot := { State.reset.boot with stage := .running }
    lighthouse := { State.reset.lighthouse with state := .halted } }

/-- Refutes O16: where the Lighthouse reads HALTED (`haltedRunning`) a function reset begins at once, while the statement
has it held in every state that is not free of a re-launch, a retraining and step 6 by `resetFree`. -/
theorem not_resetsAreHeldAndEnd : ¬ Obligations.ResetsAreHeldAndEnd := by
  unfold Obligations.ResetsAreHeldAndEnd
  rintro ⟨h, -⟩
  obtain ⟨hheld, -⟩ := h haltedRunning (by decide) (by decide) (by decide)
  have hbegins : exec (.functionLevelReset 0 []) haltedRunning = .next haltedRunning.startFunctionReset.ltrUpdate :=
    congrArg Host.Outcome.next (functionReset_begins rfl (by decide) (by decide) (by decide) (by decide) (by decide) 0 [])
  have hstate := exec_unique hbegins (hheld 0 [])
  have henv := congrArg (fun s : State => s.env.reset) hstate
  rw [ltrUpdate_env] at henv
  exact absurd henv (by decide)

end Sys2Proof.Machine
end

section
/-! Power states: gating and waking, L1.2, D3hot and Slack water (R101–R104, R201, R319, R343). -/

namespace Sys2Proof.Machine

section
variable {s : State}

/-! ## Gated Quays -/

theorem gateQuays_gated (s : State) (q : QuayId) (b : BerthId) (ht : (s.gateQuays.berth q b).tile = none)
    (ho : (s.gateQuays.berth q b).holdOwner = none) :
    (s.gateQuays.berth q b).gated = true ∧ (s.gateQuays.berth q b).hold = [] := by
  have hb : s.gateQuays.berth q b = if State.berthLive (s.berth q b) = true then s.berth q b else
      { s.berth q b with gated := true, waking := false, weights := [], shadow := [], hold := [] } := by
    simp only [State.berth, State.gateQuays, Fin.getElem_fin, Vector.getElem_map]
    rfl
  rw [hb] at ht ho ⊢
  split
  next h => simp_all [State.berthLive]
  next => exact ⟨rfl, rfl⟩

theorem lightIdleEntry_runs {q : QuayId} (hf : s.fwUp = true) (he : s.quayEnabled q = true) (hq : s.quayFree q = true)
    (hw : s.quays[q].wholeFenced = false) : exec (.lightIdleEntry q) s =
      .next (s.updQuay q fun y => { y with
        clockGated := true, gatedFrom := if y.clockGated then y.gatedFrom else s.now
        berths := y.berths.map ({ · with clockGated := true }) }).ltrUpdate := by
  simp only [exec, execLightIdleEntry, hf, he, hq, hw, Bool.not_false, Bool.and_self, if_true]

/-- The gating of a Berth: power goes, and what it held. -/
def gateBerth (s : State) (q : QuayId) (b : BerthId) : State :=
  s.updBerth q b fun x => { x with gated := true, waking := false, weights := [], shadow := [], hold := [] }

section
variable {q : QuayId} {b : BerthId}

theorem berthPowerGate_unused (hf : s.fwUp = true) (ht : (s.berth q b).tile = none) (ho : (s.berth q b).holdOwner = none)
    (hu : s.manifest.partition[q] = none ∨ (s.berth q b).fenced = true ∨ s.quayEnabled q = false) :
    exec (.berthPowerGate q b) s = .next (gateBerth s q b) := by
  have hg : (decide (s.manifest.partition[q] = none) || (s.berth q b).fenced || !s.quayEnabled q) = true := by
    rcases hu with h | h | h
    · rw [decide_eq_true h, Bool.true_or, Bool.true_or]
    · rw [h, Bool.or_true, Bool.true_or]
    · rw [h, Bool.not_false, Bool.or_true]
  simp only [exec, execBerthPowerGate, hf, ht, ho, hg, Option.isNone_none, Bool.or_true, Bool.and_self, if_true]
  rfl

theorem berthPowerGate_used (hf : s.fwUp = true) (ht : (s.berth q b).tile = none) (ho : (s.berth q b).holdOwner = none)
    (hu : ¬(s.manifest.partition[q] = none ∨ (s.berth q b).fenced = true ∨ s.quayEnabled q = false))
    (hc : s.quays[q].clockGated = true ∨ (s.berth q b).clockGated = true) :
    exec (.berthPowerGate q b) s = .next (gateBerth (s.advanceTo (s.quays[q].gatedFrom + 1250000)) q b) := by
  have hg : (decide (s.manifest.partition[q] = none) || (s.berth q b).fenced || !s.quayEnabled q) = false := by
    rw [not_or, not_or] at hu
    obtain ⟨hp, hfe, hen⟩ := hu
    rw [decide_eq_false hp, eq_false_of_ne_true hfe, eq_true_of_ne_false hen]
    rfl
  have hclock : (s.quays[q].clockGated || (s.berth q b).clockGated) = true := by
    rcases hc with h | h
    · rw [h, Bool.true_or]
    · rw [h, Bool.or_true]
  have hms : BitVec.ofNat 64 (5 * State.msTicks) = 1250000 := by decide
  simp only [exec, execBerthPowerGate, hf, ht, ho, hg, hclock, hms, Option.isNone_none, Bool.or_false, Bool.and_self,
    Bool.false_eq_true, if_false, if_true]
  rfl

theorem berthPowerGate_live (h : (s.berth q b).tile ≠ none ∨ (s.berth q b).holdOwner ≠ none) :
    exec (.berthPowerGate q b) s = .next s := by
  have hg : ((s.berth q b).tile.isNone && (s.berth q b).holdOwner.isNone) = false := by
    rw [Bool.and_eq_false_iff, Option.isNone_eq_false_iff, Option.isNone_eq_false_iff, Option.isSome_iff_ne_none,
      Option.isSome_iff_ne_none]
    exact h
  simp only [exec, execBerthPowerGate, Bool.and_assoc, hg, Bool.and_false, Bool.false_eq_true, if_false]

theorem updBerth_berth_self (s : State) (q : QuayId) (b : BerthId) (f : Berth → Berth) :
    (s.updBerth q b f).berth q b = f (s.berth q b) := by
  unfold State.updBerth State.berth
  rw [State.updQuay_quays, updAt_self, updAt_self]

theorem updQuay_other (s : State) {q p : QuayId} (h : p ≠ q) (f : Quay → Quay) :
    (s.updQuay q f).quays[p] = s.quays[p] := by
  rw [State.updQuay_quays, updAt_other _ _ h]

/-- A Berth that wakes: its clock and its Quay's run again. -/
def wakeBerth (s : State) (q : QuayId) (b : BerthId) : State :=
  ((s.updBerth q b ({ · with gated := false, waking := false, clockGated := false })).updQuay q
    ({ · with clockGated := false })).ltrUpdate

theorem wakeBerth_spec (s : State) (q : QuayId) (b : BerthId) :
    ((wakeBerth s q b).berth q b).gated = false ∧ ((wakeBerth s q b).berth q b).waking = false ∧
      (wakeBerth s q b).quays[q].clockGated = false ∧ ∀ p : QuayId, p ≠ q → (wakeBerth s q b).quays[p] = s.quays[p] := by
  have hq : (wakeBerth s q b).quays = _ := ltrUpdate_quays _
  have hself : (wakeBerth s q b).quays[q] = { (s.updBerth q b ({ · with
      gated := false, waking := false, clockGated := false })).quays[q] with clockGated := false } := by
    rw [hq, State.updQuay_quays, updAt_self]
  have hb : (wakeBerth s q b).berth q b = { s.berth q b with gated := false, waking := false, clockGated := false } := by
    have := updBerth_berth_self s q b ({ · with gated := false, waking := false, clockGated := false })
    unfold State.berth at this ⊢
    rw [hself]
    exact this
  refine ⟨by rw [hb], by rw [hb], by rw [hself], fun p hp => ?_⟩
  rw [hq, updQuay_other _ hp]
  exact updQuay_other s hp _

theorem berthWake_runs (hf : s.fwUp = true) (hd : s.env.power = .d0) (he : s.quayEnabled q = true)
    (hw : s.quays[q].wholeFenced = false) (hp : s.manifest.partition[q].isSome = true) (hfe : (s.berth q b).fenced = false)
    (hg : (s.berth q b).gated = true) (hwa : (s.berth q b).waking = true) :
    ∃ t, exec (.berthWake q b) s = .next t ∧ (t.berth q b).gated = false ∧
      (t.berth q b).waking = false ∧ t.quays[q].clockGated = false ∧
      (∀ p : QuayId, p ≠ q → t.quays[p] = s.quays[p]) ∧ s.sameBut (mayChange (.berthWake q b)) t := by
  have hrun (u : State) (hu : u.quays = s.quays) (ht : exec (.berthWake q b) s = .next (wakeBerth u q b)) :
      ∃ t, exec (.berthWake q b) s = .next t ∧ (t.berth q b).gated = false ∧
        (t.berth q b).waking = false ∧ t.quays[q].clockGated = false ∧
        (∀ p : QuayId, p ≠ q → t.quays[p] = s.quays[p]) ∧ s.sameBut (mayChange (.berthWake q b)) t := by
    obtain ⟨h1, h2, h3, h4⟩ := wakeBerth_spec u q b
    exact ⟨_, ht, h1, h2, h3, fun p hp => by rw [h4 p hp, hu], exec_frame ht⟩
  cases hfrom : (s.berth q b).wakeFrom with
  | none =>
    refine hrun s rfl ?_
    simp only [exec, execBerthWake, hf, hd, he, hw, hp, hfe, hg, hwa, hfrom, decide_true, Bool.not_false, Bool.and_self, if_true]
    rfl
  | some t =>
    refine hrun (s.advanceTo (t + BitVec.ofNat 64 (State.msTicks / 500))) (by rw [advanceTo_eq]) ?_
    simp only [exec, execBerthWake, hf, hd, he, hw, hp, hfe, hg, hwa, hfrom, decide_true, Bool.not_false, Bool.and_self, if_true]
    rfl

end

/-! ## L1.2 -/

theorem idleSeqs_berth (s : State) (q : QuayId) (b : BerthId) :
    (s.idleSeqs.berth q b).tile = (s.berth q b).tile ∧ (s.idleSeqs.berth q b).hold = (s.berth q b).hold := by
  have hb : s.idleSeqs.berth q b = State.berthUnkept (s.berth q b) := by simp [State.berth, State.idleSeqs]
  rw [hb]
  unfold State.berthUnkept
  split <;> exact ⟨rfl, rfl⟩

theorem l12Entry_runs (hl : s.env.linkUp = true) (h12 : s.env.l12 = false) : ∃ t, exec .l12Entry s = .next t ∧
    t.env = { s.env with l12 := true } ∧ t.fwif = { s.fwif with beat := 0 } ∧
    t.tide = { s.tide with ptmOffset := 0, ptmError := 0, ptmAt := none } ∧
    t.recorder = { s.recorder with checkpoint := false } ∧
    (∀ n : SessId, t.sessions[n] = { s.sessions[n] with forceKey := false }) ∧
    (∀ (q : QuayId) (b : BerthId), (t.berth q b).tile = (s.berth q b).tile ∧
      (t.berth q b).hold = (s.berth q b).hold) ∧
    s.sameBut (mayChange .l12Entry) t := by
  have ht : exec .l12Entry s = .next { s.dropForPower.idleSeqs with
      env := { s.dropForPower.idleSeqs.env with l12 := true } } := by
    simp only [exec, execL12Entry, hl, h12, Bool.not_true, Bool.or_self, Bool.false_eq_true, if_false]
  exact ⟨_, ht, rfl, rfl, rfl, rfl, fun n => by simp [State.idleSeqs, State.dropForPower], idleSeqs_berth s.dropForPower,
    exec_frame ht⟩

/-! ## Retention -/

theorem leaveRetention_recentres (s : State) : hasRecentred s s.leaveRetention := by
  refine ⟨rfl, fun c => ?_, fun c w => ?_⟩
  · obtain ⟨w, hw⟩ := leaveRetention_chan s c
    rw [hw]
  · simp [State.leaveRetention]

theorem hasRecentred_congr {u t v : State} (h : hasRecentred u t) (hu : u.memctl = s.memctl) (ht : v.memctl = t.memctl) :
    hasRecentred s v := by
  unfold hasRecentred at h ⊢
  rw [ht, ← hu]
  exact h

theorem wakeSlack_slack (h : s.env.power = .slackWater) :
    s.wakeSlack.env = { s.env with power := .d0 } ∧ hasRecentred s s.wakeSlack := by
  have hw : s.wakeSlack = (State.leaveRetention { s with env := { s.env with power := .d0 } }).ltrUpdate := if_pos h
  rw [hw]
  exact ⟨ltrUpdate_env _, hasRecentred_congr (leaveRetention_recentres _) rfl (ltrUpdate_memctl _)⟩

/-! ## D3hot -/

theorem gateQuays_berths {t u : State} (h : t.quays = u.gateQuays.quays) (q : QuayId) (b : BerthId)
    (ht : (t.berth q b).tile = none) (ho : (t.berth q b).holdOwner = none) :
    (t.berth q b).gated = true ∧ (t.berth q b).hold = [] := by
  have hb : t.berth q b = u.gateQuays.berth q b := by
    unfold State.berth
    rw [h]
  rw [hb] at ht ho ⊢
  exact gateQuays_gated u q b ht ho

theorem flushCache_lines (s : State) : s.flushCache.mem.lines = [] := by
  simp [State.flushCache, State.updMem, Memory.dropLines]

/-- A channel that is paused or retrains keeps the device from D3hot. -/
theorem retains_iff (s : State) : (s.memctl.chans.toList.any fun c => c.paused || c.retraining) = true ↔
    ∃ c : ChanId, s.memctl.chans[c].retraining = true ∨ s.memctl.chans[c].paused = true := by
  rw [List.any_eq_true]
  constructor
  · rintro ⟨x, hx, h⟩
    obtain ⟨i, hi, rfl⟩ := List.getElem_of_mem hx
    refine ⟨⟨i, by simpa using hi⟩, ?_⟩
    rw [Bool.or_eq_true, or_comm] at h
    simpa using h
  · rintro ⟨c, h⟩
    refine ⟨s.memctl.chans[c], by simp, ?_⟩
    rw [Bool.or_eq_true, or_comm]
    exact h

theorem enterD3hot_waits (h : ∃ c : ChanId, s.memctl.chans[c].retraining = true ∨ s.memctl.chans[c].paused = true) :
    s.enterD3hot = { s with env := { s.env with heldD3hot := true } } := if_pos ((retains_iff s).2 h)

theorem suspendUnits_env (s : State) : (((s.suspendUnit 0).suspendUnit 1).suspendUnit 2).env = s.env := by
  have h (s : State) (u : Nat) : (s.suspendUnit u).env = s.env :=
    (keeps_suspendUnit (L := 0x220b00cf2d0) rfl (.refl _ s) u).same .env rfl
  rw [h, h, h]

theorem enterD3hot_enters (h : ¬∃ c : ChanId, s.memctl.chans[c].retraining = true ∨ s.memctl.chans[c].paused = true) :
    let t := s.enterD3hot
    t.env.power = .d3hot ∧ t.memctl.retention = true ∧ t.mem.lines = [] ∧
      ∀ (q : QuayId) (b : BerthId), (t.berth q b).tile = none → (t.berth q b).holdOwner = none →
        (t.berth q b).gated = true ∧ (t.berth q b).hold = [] := by
  unfold State.enterD3hot
  rw [if_neg (fun hm => h ((retains_iff s).1 hm))]
  extract_lets u env v w x y memctl z
  have hz : z.env = x.env := by
    clear_value x
    exact ltrUpdate_env _
  have hx : x.env = w.env := suspendUnits_env w
  have hw : w.env = v.env := (keeps_preemptAll (L := 0x2008008c2c0) rfl (.refl _ v)).same .env rfl
  have hmem : z.mem = x.flushCache.mem := by
    clear_value x
    exact ltrUpdate_mem _
  have hquays : z.quays = x.flushCache.gateQuays.quays := by
    clear_value x
    exact ltrUpdate_quays _
  have hret : z.memctl.retention = true := by
    clear_value x
    exact congrArg MemCtl.retention (ltrUpdate_memctl _)
  clear_value z
  refine ⟨?_, hret, ?_, gateQuays_berths hquays⟩
  · rw [hz, hx, hw]
  · rw [hmem, flushCache_lines]

theorem writeBackBad_chans (s : State) (bad : List Nat) : (s.writeBackBad bad).memctl = s.memctl :=
  (keeps_writeBackBad (L := 0x22000180210) rfl (.refl _ s) bad).same .memctl rfl

theorem holds_back (s : State) (bad : List Nat) (c : ChanId) :
    ((s.wakeSlack.writeBackBad bad).memctl.chans[c].retraining = true ∨
      (s.wakeSlack.writeBackBad bad).memctl.chans[c].paused = true) ↔
      (s.memctl.chans[c].retraining = true ∨ s.memctl.chans[c].paused = true) := by
  obtain ⟨w, hw⟩ := wakeSlack_chan s c
  rw [writeBackBad_chans, hw]

theorem d3hotEntry_alive (bad : List Nat) (hc : s.configAnswers = true) (hp : s.env.power ≠ .d3hot)
    (ha : s.alive = true) : exec (.d3hotEntry bad) s = .next (s.wakeSlack.writeBackBad bad).enterD3hot := by
  simp only [exec, execD3hotEntry, hc, hp, ha, Bool.not_true, decide_false, Bool.or_self, Bool.false_eq_true, if_false]

theorem d3hotEntry_dead (bad : List Nat) (hc : s.configAnswers = true) (hp : s.env.power ≠ .d3hot)
    (ha : s.alive = false) : exec (.d3hotEntry bad) s = .next { s with env := { s.env with power := .d3hot } } := by
  simp only [exec, execD3hotEntry, hc, hp, ha, Bool.not_true, Bool.not_false, decide_false, Bool.or_self,
    Bool.false_eq_true, if_false, if_true]

theorem d3hotEntry_enters (bad : List Nat) (hc : s.configAnswers = true) (hp : s.env.power ≠ .d3hot)
    (ha : s.alive = true)
    (hf : ∀ c : ChanId, s.memctl.chans[c].paused = false ∧ s.memctl.chans[c].retraining = false) :
    ∃ t, exec (.d3hotEntry bad) s = .next t ∧ t.env.power = .d3hot ∧ t.memctl.retention = true ∧ t.mem.lines = [] ∧
      (∀ (q : QuayId) (b : BerthId), (t.berth q b).tile = none → (t.berth q b).holdOwner = none →
        (t.berth q b).gated = true ∧ (t.berth q b).hold = []) ∧ s.sameBut (mayChange (.d3hotEntry bad)) t := by
  have hrun := d3hotEntry_alive bad hc hp ha
  have hfree : ¬∃ c : ChanId, (s.wakeSlack.writeBackBad bad).memctl.chans[c].retraining = true ∨
      (s.wakeSlack.writeBackBad bad).memctl.chans[c].paused = true := by
    rintro ⟨c, h⟩
    obtain ⟨hpaused, hretr⟩ := hf c
    rw [holds_back, hpaused, hretr] at h
    simp at h
  obtain ⟨h1, h2, h3, h4⟩ := enterD3hot_enters hfree
  exact ⟨_, hrun, h1, h2, h3, h4, exec_frame hrun⟩

theorem d3hotEntry_waits (bad : List Nat) (hc : s.configAnswers = true) (hp : s.env.power ≠ .d3hot)
    (ha : s.alive = true) (h : ∃ c : ChanId, s.memctl.chans[c].retraining = true ∨ s.memctl.chans[c].paused = true) :
    exec (.d3hotEntry bad) s = .next { s.wakeSlack.writeBackBad bad with
      env := { (s.wakeSlack.writeBackBad bad).env with heldD3hot := true } } := by
  obtain ⟨c, h⟩ := h
  rw [d3hotEntry_alive bad hc hp ha, enterD3hot_waits ⟨c, (holds_back s bad c).2 h⟩]

theorem d3hotEntry_idle (h : s.configAnswers = false ∨ s.env.power = .d3hot) (bad : List Nat) :
    exec (.d3hotEntry bad) s = .next s := by
  have hg : (!s.configAnswers || decide (s.env.power = .d3hot)) = true := by
    rcases h with h | h
    · rw [h, Bool.not_false, Bool.true_or]
    · rw [decide_eq_true h, Bool.or_true]
  simp only [exec, execD3hotEntry, hg, if_true]

/-! ## The return to D0 -/

theorem d0Return_runs (h : s.env.power = .d3hot) (hl : s.lost = false) : ∃ t, exec .d0Return s = .next t ∧
    t.env = { s.env with power := .d0, heldD3hot := false } ∧ hasRecentred s t ∧ s.sameBut (mayChange .d0Return) t := by
  have hrun : ∃ t, exec .d0Return s = .next t ∧
      Keeps 0x220900dd2d0 { s with env := { s.env with heldD3hot := false, power := .d0 } }.leaveRetention t := by
    refine ⟨_, (if_neg (not_not.2 h)).trans (if_neg (ne_true_of_eq_false hl)), keeps_ltrUpdate rfl ?_⟩
    generalize List.finRange 3 = us
    have hfold (v : State) : Keeps 0x220900dd2d0 v (us.foldl (fun s u =>
        if s.codecs[u].shed then s else s.resumeUnit u.val) v) :=
      keeps_foldl (.refl _ v) fun u x hx => by
        split
        · exact hx
        · exact keeps_resumeUnit rfl hx _
    split
    · exact hfold _
    · exact keeps_letGo rfl (hfold _)
  obtain ⟨t, ht, hk⟩ := hrun
  refine ⟨t, ht, hk.same .env rfl, ?_, exec_frame ht⟩
  exact hasRecentred_congr (leaveRetention_recentres _) rfl (hk.same .memctl rfl)

theorem d0Return_lost (h : s.env.power = .d3hot) (hl : s.lost = true) :
    exec .d0Return s = .next { s with env := { s.env with power := .d0, heldD3hot := false } } := 
  (if_neg (not_not.2 h)).trans (if_pos hl)

theorem d0Return_awake (h : s.env.power ≠ .d3hot) :
    exec .d0Return s = .next { s with env := { s.env with heldD3hot := false } } := if_pos h

/-! ## Slack water -/

/-- A dirty line that turns out bad as it is written back is counted. -/
theorem writeBackBad_counts {n : Nat} {l : CacheLine} (hn : s.mem.held n = some l) (hd : l.dirty = true)
    (hb : l.bad = false) : (s.writeBackBad [n]).harbour.poisonedCount = satInc s.harbour.poisonedCount := by
  have hw : s.writeBackBad [n] = s.lineLost l.slice l.way l.set n none := by
    simp [State.writeBackBad, hn, hd, hb]
  rw [hw]
  unfold State.lineLost
  rw [(keeps_countLine (L := 0x2000000000) rfl (.refl _ _) _ _ _ _ _).same .harbour rfl, report_harbour]
  unfold State.poisonHarbour
  dsimp only
  split <;> rfl

/-- Slack water, entered once what turned out bad has been written back. -/
def slackWater (s : State) : State :=
  let u := s.dropForPower.idleSeqs.flushCache.gateQuays
  { u with
    env := { u.env with power := .slackWater }
    memctl := { u.memctl with retention := true } }.ltrUpdate

theorem slackWater_spec (s : State) : (slackWater s).env = { s.env with power := .slackWater } ∧
    (slackWater s).memctl = { s.memctl with retention := true } ∧ (slackWater s).mem.lines = [] ∧
    (slackWater s).harbour = s.harbour ∧
    ∀ (q : QuayId) (b : BerthId), ((slackWater s).berth q b).tile = none → ((slackWater s).berth q b).holdOwner = none →
      ((slackWater s).berth q b).gated = true ∧ ((slackWater s).berth q b).hold = [] := by
  refine ⟨ltrUpdate_env _, ltrUpdate_memctl _, (congrArg Memory.lines (ltrUpdate_mem _)).trans (flushCache_lines _),
    ltrUpdate_harbour _, gateQuays_berths (u := s.dropForPower.idleSeqs.flushCache) (ltrUpdate_quays _)⟩

theorem slackWaterEntry_runs (bad : List Nat) (hr : slackReady s = true) :
    ∃ t, exec (.slackWaterEntry bad) s = .next t ∧ t.env = { s.env with power := .slackWater } ∧
      t.memctl = { s.memctl with retention := true } ∧ t.mem.lines = [] ∧
      t.harbour = (s.writeBackBad bad).harbour ∧
      (∀ (q : QuayId) (b : BerthId), (t.berth q b).tile = none → (t.berth q b).holdOwner = none →
        (t.berth q b).gated = true ∧ (t.berth q b).hold = []) ∧
      s.sameBut (mayChange (.slackWaterEntry bad)) t := by
  have hrun : exec (.slackWaterEntry bad) s = .next (slackWater (s.writeBackBad bad)) := by
    simp only [exec, execSlackWaterEntry, hr, Bool.not_true, Bool.false_eq_true, if_false]
    rfl
  obtain ⟨henv, hmemctl, hlines, hharbour, hquays⟩ := slackWater_spec (s.writeBackBad bad)
  have hk := keeps_writeBackBad (L := 0x22000180210) rfl (.refl _ s) bad
  exact ⟨_, hrun, by rw [henv, hk.same .env rfl], by rw [hmemctl, hk.same .memctl rfl], hlines, hharbour, hquays,
    exec_frame hrun⟩

theorem slackWaterEntry_idle (hr : slackReady s = false) (bad : List Nat) : exec (.slackWaterEntry bad) s = .next s := by
  simp only [exec, execSlackWaterEntry, hr, Bool.not_false, if_true]

theorem slackWaterExit_wakes (h : s.env.power = .slackWater) (cause : WakeCause) :
    ∃ t, exec (.slackWaterExit cause) s = .next t ∧ t.env = { s.env with power := .d0 } ∧ hasRecentred s t ∧
      s.sameBut (mayChange (.slackWaterExit cause)) t := by
  have hrun : exec (.slackWaterExit cause) s = .next s.wakeSlack := by cases cause <;> rfl
  obtain ⟨henv, hrec⟩ := wakeSlack_slack h
  exact ⟨_, hrun, henv, hrec, exec_frame hrun⟩

theorem slackWaterExit_awake (h : s.env.power ≠ .slackWater) (cause : WakeCause) :
    exec (.slackWaterExit cause) s = .next s := by
  have hrun : exec (.slackWaterExit cause) s = .next s.wakeSlack := by cases cause <;> rfl
  rw [hrun, wakeSlack_of_awake h]

end

/-- Settles O17: each clause is the rule above of its event, with the frame every command has. -/
theorem powerStatesGateAndReturn : Obligations.PowerStatesGateAndReturn := by
  refine ⟨fun s => ⟨l12Entry_runs, fun h => ?_, rfl, fun q => lightIdleEntry_runs, fun q b hf ht ho => ?_,
      fun q b => berthPowerGate_live, fun q b => berthWake_runs⟩,
    fun s => ⟨fun hc hp bad => ⟨d3hotEntry_dead bad hc hp, d3hotEntry_enters bad hc hp, d3hotEntry_waits bad hc hp⟩,
      d3hotEntry_idle, d0Return_runs, d0Return_lost, d0Return_awake, fun bad hr => ?_, slackWaterEntry_idle,
      fun cause => ⟨fun h => slackWaterExit_wakes h cause, fun h => slackWaterExit_awake h cause⟩⟩⟩
  · have hg : (!s.env.linkUp || s.env.l12) = true := by
      rcases h with h | h <;> simp [h]
    simp only [exec, execL12Entry, hg, if_true]
  · intro unused gate
    exact ⟨berthPowerGate_unused hf ht ho, berthPowerGate_used hf ht ho⟩
  · obtain ⟨t, ht, henv, hmemctl, hlines, hharbour, hquays, hframe⟩ := slackWaterEntry_runs bad hr
    refine ⟨t, ht, henv, hmemctl, hlines, fun hb => ?_, fun n l hb hn hd hbad => ?_, hquays, hframe⟩
    · rw [hharbour, hb]
      rfl
    · rw [hharbour, hb]
      exact writeBackBad_counts hn hd hbad

end Sys2Proof.Machine
end

section
/-! TABLE_LOAD and STREAM_BIND (R263, R360, R374, R375). -/

namespace Sys2Proof.Machine

section
variable {s : State} {q : QueueId} {idx : Word} {f : Flight}

/-! ## TABLE_LOAD -/

section
variable {cls unit table : Nat} {len : Word} {src : BitVec 64}


theorem tableLoad_waits (hf : s.fwUp = true) (hs : s.startable? q idx = some f)
    (hop : f.entry.op = .tableLoad cls unit table len src) (hc : s.channelFor f = false) :
    exec (.tableLoad q idx) s = .next s := by
  simp only [exec, execTableLoad, onStart_eq hf hs, hop, hc, Bool.not_false, if_true]

theorem tableLoad_wrong (hf : s.fwUp = true) (hs : s.startable? q idx = some f)
    (hop : f.entry.op = .tableLoad cls unit table len src) (hc : s.channelFor f = true) {code : BitVec 16}
    (ht : (s.startFlight q idx).tableCode cls unit table len.toNat = some code) :
    exec (.tableLoad q idx) s = .next (((s.startFlight q idx).recordBare f).fail q idx code) := by
  simp only [exec, execTableLoad, onStart_eq hf hs, hop, hc, ht, Bool.not_true, Bool.false_eq_true, if_false]

theorem tableLoad_carried (hf : s.fwUp = true) (hs : s.startable? q idx = some f)
    (hop : f.entry.op = .tableLoad cls unit table len src) (hc : s.channelFor f = true)
    (ht : (s.startFlight q idx).tableCode cls unit table len.toNat = none) (hpos : 0 < len.toNat)
    (hlen : len.toNat ≤ f.carried.length) :
    exec (.tableLoad q idx) s = .next ((s.startFlight q idx).loadTable f (f.carried.take len.toNat)) := by
  simp only [exec, execTableLoad, onStart_eq hf hs, hop, hc, ht, hpos, hlen, Bool.not_true, Bool.false_eq_true, if_false,
    decide_true, Bool.and_self, if_true]

/-- A TABLE_LOAD that carries no bytes reads its source, when that can be read. -/
theorem tableLoad_reads (hf : s.fwUp = true) (hs : s.startable? q idx = some f)
    (hop : f.entry.op = .tableLoad cls unit table len src) (hc : s.channelFor f = true)
    (ht : (s.startFlight q idx).tableCode cls unit table len.toNat = none) (hcar : f.carried = []) :
    let u := s.startFlight q idx
    let c := f.entry.ctx
    (∀ e, firstFault u c src.toNat len.toNat .read = some e →
      exec (.tableLoad q idx) s = .next ((u.recordBare f).mmuFail q idx e)) ∧
    (firstFault u c src.toNat len.toNat .read = none →
      (poisonedVa u c src.toNat len.toNat = true →
        exec (.tableLoad q idx) s = .next ((u.recordBare f).fail q idx 0x4012)) ∧
      (poisonedVa u c src.toNat len.toNat = false →
        let due := u.dueOf c [⟨src.toNat, len.toNat, false⟩]
        (due ≠ 0 → exec (.tableLoad q idx) s = .next (u.askSource q idx).haltUpdate.ltrUpdate) ∧
        (due = 0 → u.outside c src.toNat len.toNat .read = true →
          exec (.tableLoad q idx) s = .next ((u.recordBare f).fail q idx 0x5006)) ∧
        (due = 0 → u.outside c src.toNat len.toNat .read = false →
          exec (.tableLoad q idx) s = .next (u.loadTable f (readVa u c src.toNat len.toNat))))) := by
  intro u c
  have hnot : (decide (0 < len.toNat) && decide (len.toNat ≤ f.carried.length)) = false := by
    simp only [hcar, List.length_nil, Bool.and_eq_false_iff, decide_eq_false_iff_not]
    omega
  have hrun : exec (.tableLoad q idx) s = .next (match firstFault u c src.toNat len.toNat .read with
      | some e => (u.recordBare f).mmuFail q idx e
      | none =>
        if poisonedVa u c src.toNat len.toNat then (u.recordBare f).fail q idx 0x4012
        else if u.dueOf c [⟨src.toNat, len.toNat, false⟩] ≠ 0 then (u.askSource q idx).haltUpdate.ltrUpdate
        else if u.outside c src.toNat len.toNat .read then (u.recordBare f).fail q idx 0x5006
        else u.loadTable f (readVa u c src.toNat len.toNat)) := by
    simp only [exec, execTableLoad, onStart_eq hf hs, hop, hc, ht, hnot, sourceOf, Bool.not_true, Bool.false_eq_true, if_false]
    rfl
  rw [hrun]
  refine ⟨fun e he => by rw [he], fun hn => ?_⟩
  rw [hn]
  refine ⟨fun hp => congrArg _ (if_pos hp), fun hp => ?_⟩
  intro due
  have hp' := ne_true_of_eq_false hp
  refine ⟨fun hd => congrArg _ ((if_neg hp').trans (if_pos hd)), fun hd ho => ?_, fun hd ho => ?_⟩
  · exact congrArg _ ((if_neg hp').trans ((if_neg (not_not.2 hd)).trans (if_pos ho)))
  · exact congrArg _ ((if_neg hp').trans ((if_neg (not_not.2 hd)).trans (if_neg (ne_true_of_eq_false ho))))

theorem loadTable_pipe (s : State) (f : Flight) (b : List Byte) (hop : f.entry.op = .tableLoad 1 unit table len src) :
    s.loadTable f b = if tableBodyOk table b then
      ((s.recordCommand f.q f.idx b).acceptTable (Fin.ofNat 24 unit) table b
        ((s.recordCommand f.q f.idx b).actsAt f)).finish f.q f.idx 0
      else (s.recordCommand f.q f.idx b).fail f.q f.idx 0xA006 := by
  unfold State.loadTable
  rw [hop]
  rfl

theorem loadTable_adaptive (s : State) (f : Flight) (b : List Byte) (hop : f.entry.op = .tableLoad cls unit table len src)
    (hcls : cls ≠ 1) : s.loadTable f b = if adaptTableOk b then
      ((s.recordCommand f.q f.idx b).acceptAdapt f.entry.ctx src b).finish f.q f.idx 0
      else (s.recordCommand f.q f.idx b).fail f.q f.idx 0xD005 := by
  unfold State.loadTable
  rw [hop]
  split
  next h => exact absurd (by injection h) hcls
  next h => injection h with _ _ _ _ hsrc; rw [hsrc]
  next h => exact (h _ _ _ _ _ rfl).elim

end

/-! ## STREAM_BIND -/

theorem startFlight_definedAs (i : SctxId) : (s.startFlight q idx).definedAs i = s.definedAs i := by
  rw [State.definedAs, startFlight_streams, State.definedAs]

section
variable {u : State} {i : SctxId} {b : Binding} {at_ : Option Tick}

theorem bindStream_now (hu : u.streams = s.streams)
    (h : ¬(s.streams[i].frame ≠ none ∨ (at_ ≠ none ∧ s.streams[i].binding ≠ none))) :
    ((u.bindStream i b at_).streams[i]).binding = some b ∧ ((u.bindStream i b at_).streams[i]).frames = 0 ∧
      ((u.bindStream i b at_).streams[i]).consumed = 0 := by
  have hg : (s.streams[i].frame.isSome || (at_.isSome && s.streams[i].binding.isSome)) = false := by
    rw [← Bool.not_eq_true, Bool.or_eq_true, Bool.and_eq_true, Option.isSome_iff_ne_none, Option.isSome_iff_ne_none,
      Option.isSome_iff_ne_none]
    exact h
  rw [State.bindStream, State.updStream_streams, hu, updAt_self, if_neg (ne_true_of_eq_false hg)]
  exact ⟨rfl, rfl, rfl⟩

theorem bindStream_later (hu : u.streams = s.streams) (ht : u.tide = s.tide)
    (h : s.streams[i].frame ≠ none ∨ (at_ ≠ none ∧ s.streams[i].binding ≠ none)) :
    (u.bindStream i b at_).streams[i] =
      { s.streams[i] with nextBinding := some (some b), nextBindAt := at_.getD s.now } := by
  have hg : (s.streams[i].frame.isSome || (at_.isSome && s.streams[i].binding.isSome)) = true := by
    rw [Bool.or_eq_true, Bool.and_eq_true, Option.isSome_iff_ne_none, Option.isSome_iff_ne_none,
      Option.isSome_iff_ne_none]
    exact h
  rw [State.bindStream, State.updStream_streams, hu, updAt_self, if_pos hg, State.now, ht, State.now]

theorem bindStream_other (hu : u.streams = s.streams) {j : SctxId} (h : j ≠ i) : (u.bindStream i b at_).streams[j] = s.streams[j] := by
  rw [State.bindStream, State.updStream_streams, hu, updAt_other _ _ h]

end

section
variable {sctx count : Nat} {bind : Bool} {flag : FlagId} {va : BitVec 64} {stride : Word}

theorem streamBind_undefined (hf : s.fwUp = true) (hs : s.startable? q idx = some f)
    (hop : f.entry.op = .streamBind sctx bind flag count va stride) (hd : s.definedAs (Fin.ofNat 24 sctx) = none) :
    exec (.streamBind q idx) s = .next ((s.startFlight q idx).fail q idx 0xA004) := by
  have hd' : (s.startFlight q idx).definedAs (Fin.ofNat 24 sctx) = none := (startFlight_definedAs _).trans hd
  simp only [exec, execStreamBind, onStart_eq hf hs, hop, hd']

theorem streamBind_ends (hf : s.fwUp = true) (hs : s.startable? q idx = some f)
    (hop : f.entry.op = .streamBind sctx false flag count va stride) {d : StreamDef}
    (hd : s.definedAs (Fin.ofNat 24 sctx) = some d) :
    exec (.streamBind q idx) s = .next (((s.startFlight q idx).endBinding (Fin.ofNat 24 sctx)).finish q idx 0) := by
  have hd' : (s.startFlight q idx).definedAs (Fin.ofNat 24 sctx) = some d := (startFlight_definedAs _).trans hd
  simp only [exec, execStreamBind, onStart_eq hf hs, hop, hd', Bool.not_false, if_true]

theorem streamBind_narrow (hf : s.fwUp = true) (hs : s.startable? q idx = some f)
    (hop : f.entry.op = .streamBind sctx true flag count va stride) {d : StreamDef}
    (hd : s.definedAs (Fin.ofNat 24 sctx) = some d) (hw : stride.toNat < defSize d + 0x1_0000) :
    exec (.streamBind q idx) s = .next ((s.startFlight q idx).fail q idx 0xA005) := by
  have hd' : (s.startFlight q idx).definedAs (Fin.ofNat 24 sctx) = some d := (startFlight_definedAs _).trans hd
  simp only [exec, execStreamBind, onStart_eq hf hs, hop, hd', hw, Bool.not_true, Bool.false_eq_true, if_false, if_true]

theorem streamBind_binds (hf : s.fwUp = true) (hs : s.startable? q idx = some f)
    (hop : f.entry.op = .streamBind sctx true flag count va stride) {d : StreamDef}
    (hd : s.definedAs (Fin.ofNat 24 sctx) = some d) (hw : defSize d + 0x1_0000 ≤ stride.toNat) :
    exec (.streamBind q idx) s = .next (((s.startFlight q idx).bindStream (Fin.ofNat 24 sctx)
      { ctx := f.entry.ctx, flag, count, va, stride, queue := q } f.recordedAt).finish q idx 0) := by
  have hd' : (s.startFlight q idx).definedAs (Fin.ofNat 24 sctx) = some d := (startFlight_definedAs _).trans hd
  simp only [exec, execStreamBind, onStart_eq hf hs, hop, hd', Nat.not_lt.2 hw, Bool.not_true, Bool.false_eq_true, if_false]

end

end

/-- Settles O31: each outcome of the two commands is its own rule above. -/
theorem tablesAndBindingsTakeEffect : Obligations.TablesAndBindingsTakeEffect := by
  refine ⟨?_, ?_, ?_⟩
  · intro s q idx f cls unit table len src hf hs hop u c
    refine ⟨tableLoad_waits hf hs hop, fun hc => ⟨fun code => tableLoad_wrong hf hs hop hc,
      fun ht hcar => tableLoad_reads hf hs hop hc ht hcar, fun ht hpos hlen => tableLoad_carried hf hs hop hc ht hpos hlen⟩⟩
  · intro s f cls unit table len src b hop v
    exact ⟨fun h => loadTable_pipe s f b (h ▸ hop), fun h => loadTable_adaptive s f b hop h⟩
  · intro s q idx f sctx bind flag count va stride hf hs hop i u b
    refine ⟨streamBind_undefined hf hs hop, fun d hd hb => streamBind_ends hf hs (hb ▸ hop) hd,
      fun d hd hb hw => streamBind_narrow hf hs (hb ▸ hop) hd hw, fun d hd hb hw => ?_⟩
    have hrun := streamBind_binds hf hs (hb ▸ hop) hd hw
    intro waits
    refine ⟨_, hrun, fun hn => ?_, fun hn => ?_, fun j hj => ?_, exec_frame hrun⟩
    · rw [finish_streams]
      exact bindStream_now (startFlight_streams s q idx) hn
    · rw [finish_streams]
      exact bindStream_later (startFlight_streams s q idx) (startFlight_tide s q idx) hn
    · rw [finish_streams]
      exact bindStream_other (startFlight_streams s q idx) hj

end Sys2Proof.Machine
end

section
/-! COPY and PEER_COPY (R127, R138). -/

namespace Sys2Proof.Machine

section
variable {s : State} {q : QueueId} {idx : Word} {f : Flight}

/-- Two ranges of one length meet as soon as some address lies in both. -/
theorem rangesMeet_iff (a b n : Nat) :
    rangesMeet a b n = true ↔ 0 < n ∧ ∃ x, a ≤ x ∧ x < a + n ∧ b ≤ x ∧ x < b + n := by
  rw [rangesMeet, Bool.and_eq_true, decide_eq_true_eq, decide_eq_true_eq]
  constructor
  · intro h
    exact ⟨by omega, max a b, by omega, by omega, by omega, by omega⟩
  · rintro ⟨hn, x, h⟩
    omega

/-! ## The start of a copy -/

theorem copy_waits {src dst : BitVec 64} {len : Word} (hf : s.fwUp = true) (hs : s.startable? q idx = some f)
    (hop : f.entry.op = .copy src dst len) (hc : s.channelFor f = false) : exec (.copy q idx) s = .next s := by
  simp only [exec, execCopy, onStart_eq hf hs, hop, hc, Bool.not_false, if_true]

theorem copy_overlaps {src dst : BitVec 64} {len : Word} (hf : s.fwUp = true) (hs : s.startable? q idx = some f)
    (hop : f.entry.op = .copy src dst len) (hc : s.channelFor f = true)
    (hm : rangesMeet src.toNat dst.toNat len.toNat = true) : exec (.copy q idx) s = .next (s.fail q idx 0x5001) := by
  simp only [exec, execCopy, onStart_eq hf hs, hop, hc, hm, Bool.not_true, Bool.false_eq_true, if_false, if_true]

/-- A copy that starts: its faults end it, and without one its source is asked for. -/
theorem copy_starts {src dst : BitVec 64} {len : Word} (hf : s.fwUp = true) (hs : s.startable? q idx = some f)
    (hop : f.entry.op = .copy src dst len) (hc : s.channelFor f = true)
    (hm : rangesMeet src.toNat dst.toNat len.toNat = false) :
    let u := s.startFlight q idx
    let fault := (firstFault u f.entry.ctx src.toNat len.toNat .read).or (firstFault u f.entry.ctx dst.toNat len.toNat .write)
    (fault = none → exec (.copy q idx) s = .next (u.askSource q idx).haltUpdate.ltrUpdate) ∧
    (∀ e, fault = some e → exec (.copy q idx) s = .next (u.mmuFail q idx e)) := by
  intro u fault
  have hrun : exec (.copy q idx) s = .next (match fault with
      | some e => u.mmuFail q idx e
      | none => (u.askSource q idx).haltUpdate.ltrUpdate) := by
    simp only [exec, execCopy, onStart_eq hf hs, hop, hc, hm, Bool.not_true, Bool.false_eq_true, if_false]
    rfl
  rw [hrun]
  exact ⟨fun h => by rw [h], fun e h => by rw [h]⟩

section
variable {src dst signal : BitVec 64} {len value : Word}

theorem peerCopy_waits (hf : s.fwUp = true) (hs : s.startable? q idx = some f)
    (hop : f.entry.op = .peerCopy src dst len value signal) (hc : s.channelFor f = false) :
    exec (.peerCopy q idx) s = .next s := by
  simp only [exec, execPeerCopy, onStart_eq hf hs, hop, hc, Bool.not_false, if_true]

theorem peerCopy_starts (hf : s.fwUp = true) (hs : s.startable? q idx = some f)
    (hop : f.entry.op = .peerCopy src dst len value signal) (hc : s.channelFor f = true) :
    let u := s.startFlight q idx
    let fault := firstFault u f.entry.ctx src.toNat len.toNat .read
    (fault = none → exec (.peerCopy q idx) s = .next (u.askSource q idx).haltUpdate.ltrUpdate) ∧
    (∀ e, fault = some e → exec (.peerCopy q idx) s = .next (u.mmuFail q idx e)) := by
  intro u fault
  have hrun : exec (.peerCopy q idx) s = .next (match fault with
      | some e => u.mmuFail q idx e
      | none => (u.askSource q idx).haltUpdate.ltrUpdate) := by
    simp only [exec, execPeerCopy, onStart_eq hf hs, hop, hc, Bool.not_true, Bool.false_eq_true, if_false]
    rfl
  rw [hrun]
  exact ⟨fun h => by rw [h], fun e h => by rw [h]⟩

/-! ## The end of a copy -/

theorem copyDone_poisoned (hs : s.copying? q idx = some f) (hop : f.entry.op = .copy src dst len)
    (hp : poisonedVa s f.entry.ctx src.toNat len.toNat = true) :
    exec (.copyDone q idx) s = .next (s.fail q idx 0x4012) := by
  simp only [exec, execCopyDone, hs, hop, hp, if_true]

theorem copyDone_moves (hs : s.copying? q idx = some f) (hop : f.entry.op = .copy src dst len)
    (hp : poisonedVa s f.entry.ctx src.toNat len.toNat = false) :
    let moved := writeVa s f.entry.ctx dst.toNat
      (s.sourceBytes (segments s f.entry.ctx src.toNat len.toNat .read) f.buffer)
    exec (.copyDone q idx) s = .next
      (if s.outside f.entry.ctx src.toNat len.toNat .read || s.outside f.entry.ctx dst.toNat len.toNat .write then
        moved.fail q idx 0x5006 else moved.finish q idx 0) := by
  simp only [exec, execCopyDone, hs, hop, hp, Bool.false_eq_true, if_false]
  rfl

theorem peerCopyDone_poisoned (hs : s.copying? q idx = some f) (hop : f.entry.op = .peerCopy src dst len value signal)
    (hp : poisonedVa s f.entry.ctx src.toNat len.toNat = true) :
    exec (.peerCopyDone q idx) s = .next (s.fail q idx 0x4012) := by
  simp only [exec, execPeerCopyDone, hs, hop, hp, if_true]

/-- A PEER_COPY whose source is good writes it out, and its signal after it. -/
theorem peerCopyDone_moves (hs : s.copying? q idx = some f) (hop : f.entry.op = .peerCopy src dst len value signal)
    (hp : poisonedVa s f.entry.ctx src.toNat len.toNat = false) :
    let u := s.outboundWrite dst.toNat
      (s.sourceBytes (segments s f.entry.ctx src.toNat len.toNat .read) f.buffer) false
    let signalled := u.outboundWrite signal.toNat (leBytes 4 value.toNat) false
    let out := u.outside f.entry.ctx src.toNat len.toNat .read || !u.windowsHold dst.toNat len.toNat false
    (out = true → exec (.peerCopyDone q idx) s = .next (u.fail q idx 0x5006)) ∧
    (out = false → signal = 0 → exec (.peerCopyDone q idx) s = .next (u.finish q idx 0)) ∧
    (out = false → signal ≠ 0 → exec (.peerCopyDone q idx) s =
      .next (if u.windowsHold signal.toNat 4 false then signalled.finish q idx 0 else signalled.fail q idx 0x5006)) := by
  intro u signalled out
  have hrun : exec (.peerCopyDone q idx) s = if signal = 0 || out then .next (u.finishIssued q idx out)
      else .next (signalled.finishIssued q idx (!u.windowsHold signal.toNat 4 false)) := by
    simp only [exec, execPeerCopyDone, hs, hop, hp, Bool.false_eq_true, if_false]
    rfl
  rw [hrun]
  refine ⟨fun ho => ?_, fun ho hz => ?_, fun ho hz => ?_⟩
  · rw [ho, Bool.or_true, if_pos rfl]
    rfl
  · rw [ho, decide_eq_true hz, Bool.true_or, if_pos rfl]
    rfl
  · rw [ho, decide_eq_false hz, Bool.or_self, if_neg Bool.false_ne_true, State.finishIssued]
    cases u.windowsHold signal.toNat 4 false <;> rfl

end

end

/-- Settles O30: what a copy does at its start and at its end. -/
theorem copiesMoveTheirBytes : Obligations.CopiesMoveTheirBytes := by
  refine ⟨?_, rangesMeet_iff, ?_⟩
  · intro s q idx f hf hs u c asked
    refine ⟨fun src dst len hop => ?_, fun src dst len value signal hop => ?_⟩
    · intro fault
      exact ⟨copy_waits hf hs hop, fun hc => ⟨copy_overlaps hf hs hop hc, copy_starts hf hs hop hc⟩⟩
    · exact ⟨peerCopy_waits hf hs hop, peerCopy_starts hf hs hop⟩
  · intro s q idx f hs c
    refine ⟨fun src dst len hop => ?_, fun src dst len value signal hop => ?_⟩
    · intro moved out
      exact ⟨copyDone_moves hs hop, copyDone_poisoned hs hop⟩
    · intro u signalled out
      exact ⟨peerCopyDone_poisoned hs hop, peerCopyDone_moves hs hop⟩

end Sys2Proof.Machine
end

section
/-! DISPATCH from its checks to its end (R127, R138, R154, R265, R435). -/

namespace Sys2Proof.Machine

section
variable {s : State} {q : QueueId} {idx : Word} {f : Flight}

theorem flight?_is (h : s.flight? q idx = some f) : f.q = q ∧ f.idx = idx := by
  have hfound : f.is q idx = true := by simpa using List.find?_some h
  simpa [Flight.is] using hfound

theorem flight?_of_checkable (h : s.checkable? q idx = some f) : s.flight? q idx = some f := by
  unfold State.checkable? at h
  split at h
  next g hg =>
    split at h
    · rw [hg, h]
    · cases h
  next => cases h

/-- Sources that have come, or that nothing outside holds, need no fetching. -/
theorem fetching?_eq (s : State) (f : Flight) (l : List Source) : s.fetching? f l =
    if s.dueOf f.entry.ctx l = 0 ∨ f.awaiting = false ∧ f.sources = l then none
    else if f.awaiting = true then some s else some (s.askFor f.q f.idx l) := by
  unfold State.fetching?
  cases f.awaiting <;> by_cases hd : s.dueOf f.entry.ctx l = 0 <;> by_cases hl : f.sources = l <;> simp [hd, hl]

theorem recordCommand_flight? (s : State) (q p : QueueId) (idx n : Word) (b : List Byte) :
    (s.recordCommand q idx b).flight? p n = s.flight? p n := by
  unfold State.flight?
  rw [(keeps_recordCommand (L := 0x22400080210) rfl (.refl _ s) q idx b).same .flights rfl]

/-! ## The checks -/

/-- The sources of a DISPATCH: its cargo, with its fallback's, and its argument block. -/
theorem dispatchSources_eq {cva args seed : BitVec 64} {entry stream : Word}
    (hop : f.entry.op = .dispatch cva entry stream args seed) (cargo : Cargo) (back : Option Cargo) :
    dispatchSources f cargo back =
      (⟨cva.toNat, cargo.length, true⟩ :: (match back with
        | some b => [⟨f.entry.fallback.toNat, b.length, true⟩]
        | none => []),
       ⟨args.toNat, if ((cargo.entries[entry.toNat]?).map (·.argLen)).getD 0 ≤ f.carried.length then 0
        else ((cargo.entries[entry.toNat]?).map (·.argLen)).getD 0, false⟩) := by
  unfold dispatchSources
  rw [hop]
  dsimp only
  cases cargo.entries[entry.toNat]? <;> rfl

/-- A DISPATCH whose entry passed its checks, waiting for admission at its first tile. -/
def awaitAdmission (s : State) (q : QueueId) (idx : Word) (run : Run) : State :=
  s.updFlight q idx fun f => { f with
    phase := .admitWait, sources := [], buffer := []
    run := { run with need := imageNeed run, deckFrom := s.now } }

section
variable {cva argVa seed : BitVec 64} {entry stream : Word} {cargo : Cargo} {fallback back : Option Cargo}
  {code : List Source} {args : Source}

section
variable (hs : s.checkable? q idx = some f) (hop : f.entry.op = .dispatch cva entry stream argVa seed)
  (hback : back = if f.entry.fallback = 0 then none else fallback) (hsrc : dispatchSources f cargo back = (code, args))
include hs hop hback hsrc

theorem dispatch_faults {e} (he : s.sourceFault f.entry.ctx (code ++ [args]) = some e) :
    exec (.dispatch q idx cargo fallback) s = .next ((s.recordBare f).mmuFail q idx e) := by
  subst hback
  simp only [exec, execDispatch, hs, hop, hsrc, he]

theorem dispatch_fetches (he : s.sourceFault f.entry.ctx (code ++ [args]) = none) {t : State}
    (ht : s.fetching? f (code ++ [args]) = some t) : exec (.dispatch q idx cargo fallback) s = .next t := by
  subst hback
  simp only [exec, execDispatch, hs, hop, hsrc, he, ht]

theorem dispatch_unread (he : s.sourceFault f.entry.ctx (code ++ [args]) = none)
    (ht : s.fetching? f (code ++ [args]) = none) {reason : BitVec 16}
    (hr : s.sourceCode f.entry.ctx (code ++ [args]) = some reason) :
    exec (.dispatch q idx cargo fallback) s = .next ((s.recordBare f).fail q idx reason) := by
  subst hback
  simp only [exec, execDispatch, hs, hop, hsrc, he, ht, hr]

theorem dispatch_fails (he : s.sourceFault f.entry.ctx (code ++ [args]) = none)
    (ht : s.fetching? f (code ++ [args]) = none) (hr : s.sourceCode f.entry.ctx (code ++ [args]) = none)
    {reason : BitVec 16}
    (hc : (s.recordCommand q idx (s.lastSource f code args)).dispatchCheck f entry.toNat cargo back = some reason) :
    exec (.dispatch q idx cargo fallback) s =
      .next ((s.recordCommand q idx (s.lastSource f code args)).fail q idx reason) := by
  subst hback
  simp only [exec, execDispatch, hs, hop, hsrc, he, ht, hr, hc]

/-- A DISPATCH that passed its checks waits for admission, or is abandoned as the recorder decided. -/
theorem dispatch_passes (he : s.sourceFault f.entry.ctx (code ++ [args]) = none)
    (ht : s.fetching? f (code ++ [args]) = none) (hr : s.sourceCode f.entry.ctx (code ++ [args]) = none)
    (hc : (s.recordCommand q idx (s.lastSource f code args)).dispatchCheck f entry.toNat cargo back = none) :
    let v := awaitAdmission (s.recordCommand q idx (s.lastSource f code args)) q idx
      { Run.load {} cargo entry.toNat with fallback := back }
    exec (.dispatch q idx cargo fallback) s =
      if (v.decision 0x08 q idx).isSome then .next (v.abandon q idx) else .next (v.evaluate q idx) := by
  subst hback
  simp only [exec, execDispatch, hs, hop, hsrc, he, ht, hr, hc]
  rfl

end

/-- Without a budget, or without a fallback to go to, nothing is evaluated. -/
theorem evaluate_awaitAdmission {u : State} {run : Run} (hf : u.flight? q idx = some f)
    (h : f.entry.budget = 0 ∨ run.fallback = none) :
    (awaitAdmission u q idx run).evaluate q idx = awaitAdmission u q idx run := by
  have hv := flight?_updFlight (g := fun f => { f with
    phase := .admitWait, sources := [], buffer := []
    run := { run with need := imageNeed run, deckFrom := u.now } }) hf fun _ => ⟨rfl, rfl⟩
  unfold State.evaluate
  rw [show (awaitAdmission u q idx run).flight? q idx = _ from hv]
  refine if_pos ?_
  rcases h with h | h
  · simp [h]
  · simp [h]

end

/-! ## The end -/

section
variable {cva argVa seed : BitVec 64} {entry stream : Word}

theorem dispatchComplete_waits (hf : s.fwUp = true) (hs : s.flight? q idx = some f)
    (hop : f.entry.op = .dispatch cva entry stream argVa seed)
    (h : ¬(f.phase = .executing ∧ f.run.arrayDone = true ∧ f.run.deckDone = true ∧ s.tileRunning q idx = false)) :
    exec (.dispatchComplete q idx) s = .next s := by
  have hg : (decide (f.phase = .executing) && f.run.arrayDone && f.run.deckDone && !s.tileRunning q idx) = false := by
    rw [← Bool.not_eq_true]
    simpa [and_assoc] using h
  simp only [exec, execDispatchComplete, hf, hs, hop, hg, Bool.not_true, Bool.false_eq_true, if_false]

section
variable (hf : s.fwUp = true) (hs : s.flight? q idx = some f)
  (hop : f.entry.op = .dispatch cva entry stream argVa seed)
  (h : f.phase = .executing ∧ f.run.arrayDone = true ∧ f.run.deckDone = true ∧ s.tileRunning q idx = false)
include hf hs hop h

theorem dispatchComplete_faults {e} (he : s.homeFault f.entry.ctx f.run = some e) :
    exec (.dispatchComplete q idx) s = .next (s.mmuFail q idx e) := by
  obtain ⟨hp, ha, hd, ht⟩ := h
  simp only [exec, execDispatchComplete, hf, hs, hop, hp, ha, hd, ht, he, decide_true, Bool.not_false, Bool.and_self, Bool.not_true,
    Bool.false_eq_true, if_false, if_true]

theorem dispatchComplete_outside (he : s.homeFault f.entry.ctx f.run = none)
    (ho : s.homeOutside f.entry.ctx f.run = true) :
    exec (.dispatchComplete q idx) s = .next ((s.writeHome f.entry.ctx f.run).fail q idx 0x5006) := by
  obtain ⟨hp, ha, hd, ht⟩ := h
  simp only [exec, execDispatchComplete, hf, hs, hop, hp, ha, hd, ht, he, ho, decide_true, Bool.not_false, Bool.and_self,
    Bool.not_true, Bool.false_eq_true, if_false, if_true]

end

/-- What counts of time and deadlines is as it was once the adaptive state is home. -/
theorem commitHome_late (s : State) (f : Flight) :
    let v := (s.writeHome f.entry.ctx f.run).commitAdaptive f
    v.deadline f = s.deadline f ∧ v.now = s.now := by
  intro v
  have hk : Keeps 0x20000084000 s v := keeps_commitAdaptive rfl (keeps_writeHome rfl (.refl _ s) _ _) f
  have htide : v.tide = s.tide := hk.same .tide rfl
  have hhost : v.hostif = s.hostif := hk.same .hostif rfl
  have hnow : v.now = s.now := congrArg Tide.count htide
  have henv : v.env = s.env := hk.same .env rfl
  have hholds : v.haltHolds = s.haltHolds := by
    simp only [State.haltHolds, hhost, henv]
  exact ⟨by simp only [State.deadline, State.haltSoFar, hholds, hnow, hhost], hnow⟩

section
variable (hf : s.fwUp = true) (hs : s.flight? q idx = some f)
  (hop : f.entry.op = .dispatch cva entry stream argVa seed)
  (h : f.phase = .executing ∧ f.run.arrayDone = true ∧ f.run.deckDone = true ∧ s.tileRunning q idx = false)
include hf hs hop h

theorem dispatchComplete_ends (he : s.homeFault f.entry.ctx f.run = none)
    (ho : s.homeOutside f.entry.ctx f.run = false) :
    let late := f.entry.budget ≠ 0 && (f.entry.fallback = 0 || f.run.onFallback) && s.deadline f < s.now.toNat * 4
    let v := ((s.writeHome f.entry.ctx f.run).commitAdaptive f).updFlight q idx fun f => { f with
      late, jcount := f.run.steps.length }
    ∀ g, v.flight? q idx = some g →
      exec (.dispatchComplete q idx) s = .next ((v.writeJournal g).finish q idx (if f.run.onFallback then 0x8005 else 0)) := by
  intro late v g hg
  obtain ⟨hp, ha, hd, ht⟩ := h
  obtain ⟨hdl, hnow⟩ := commitHome_late s f
  have hv : v = ((s.writeHome f.entry.ctx f.run).commitAdaptive f).updFlight q idx fun g => { g with
      late := f.entry.budget ≠ 0 && (f.entry.fallback = 0 || f.run.onFallback) &&
        ((s.writeHome f.entry.ctx f.run).commitAdaptive f).deadline f <
          ((s.writeHome f.entry.ctx f.run).commitAdaptive f).now.toNat * 4
      jcount := g.run.steps.length } := by
    rw [hdl, hnow]
  rw [hv] at hg ⊢
  simp only [exec, execDispatchComplete, hf, hs, hop, hp, ha, hd, ht, he, ho, decide_true, Bool.not_false, Bool.and_self,
    Bool.not_true, Bool.false_eq_true, if_false, if_true]
  rw [hg]

end
end

end

/-- Settles O32: the rules of the checks and of the end, each by what it meets first. -/
theorem dispatchWaitsAndCompletes : Obligations.DispatchWaitsAndCompletes := by
  constructor
  · intro s q idx f cargo fallback cva args seed entry stream hs hop c back stated argsOf code all come u run v
    have hsrc : dispatchSources f cargo back = (code, argsOf) := dispatchSources_eq hop cargo back
    have hcome : s.fetching? f all = if come then none else
        if f.awaiting = true then some s else some (s.askFor f.q f.idx all) := fetching?_eq s f all
    have hflight := flight?_of_checkable hs
    refine ⟨fun e => dispatch_faults hs hop rfl hsrc, fun he hc => ⟨fun ha => ?_, fun ha => ?_⟩,
      fun reason he hc => dispatch_unread hs hop rfl hsrc he (hcome.trans (if_pos hc)), fun he hc hr => ?_⟩
    · exact dispatch_fetches hs hop rfl hsrc he (hcome.trans ((if_neg hc).trans (if_pos ha)))
    · obtain ⟨hq, hidx⟩ := flight?_is hflight
      rw [hq, hidx] at hcome
      exact dispatch_fetches hs hop rfl hsrc he
        (hcome.trans ((if_neg hc).trans (if_neg (ne_true_of_eq_false ha))))
    · have hnone := hcome.trans (if_pos hc)
      refine ⟨fun reason => dispatch_fails hs hop rfl hsrc he hnone hr, fun hd => ?_⟩
      have hrun := dispatch_passes hs hop rfl hsrc he hnone hr hd
      refine ⟨fun hn => hrun.trans (if_neg ?_), fun hn => hrun.trans (if_pos ?_), fun hb => ?_⟩
      · exact fun h => Option.isSome_iff_ne_none.1 h hn
      · exact Option.isSome_iff_ne_none.2 hn
      · exact evaluate_awaitAdmission ((recordCommand_flight? ..).trans hflight) hb
  · intro s q idx f cva args seed entry stream hf hs hop ready late v
    exact ⟨dispatchComplete_waits hf hs hop, fun h e => dispatchComplete_faults hf hs hop h,
      dispatchComplete_outside hf hs hop, dispatchComplete_ends hf hs hop⟩

end Sys2Proof.Machine
end

section
/-! The Tide through holdover, SYNC_IN, SYNC_OUT, reads and PTM (R105, R446–R454, R469). -/

namespace Sys2Proof.Machine

section
variable {s : State}

/-! ## Holdover -/

theorem refclkLoss_holds (hr : s.env.refclk = true) (hl : s.tide.locked = true) : exec .refclkLoss s = .next { s with
    env := { s.env with refclk := false }
    tide := { s.tide with
      holdover := true, holdoverFrom := s.now, groupAligned := false, ptmLocked := false, ptmLock := false } } := by
  simp only [exec, execRefclkLoss, hr, hl, Bool.not_true, Bool.false_eq_true, if_false]
  rfl

theorem refclkReturn_counts (n : Nat) (hr : s.env.refclk = false) (hh : s.tide.holdover = true) :
    ∃ t, exec (.refclkReturn n) s = .next t ∧
      t.tide = { s.tide with count := s.now + BitVec.ofNat 64 n, holdover := false, held := true } ∧
      t.env = { s.env with refclk := true } ∧ s.sameBut (mayChange (.refclkReturn n)) t := by
  have hrun : ∃ d, exec (.refclkReturn n) s = .next (State.note { s with
      env := { s.env with refclk := true }
      tide := { s.tide with count := s.now + BitVec.ofNat 64 n, holdover := false, held := true } }
      0x4034 .information d) := by
    simp only [exec, execRefclkReturn, hr, hh, Bool.not_true, Bool.false_eq_true, if_false]
    exact ⟨_, rfl⟩
  obtain ⟨d, hrun⟩ := hrun
  exact ⟨_, hrun, note_tide _ _ _ _, note_env _ _ _ _, exec_frame hrun⟩

/-! ## A step of the count -/

theorem stepTide_tide (s : State) (c : Tick) : (s.stepTide c).tide = { s.tide with count := c, stepped := true } := by
  unfold State.stepTide
  extract_lets d tide u v heart w
  have hv : v.tide = u.tide := (keeps_resetTriggers (L := 0x8000000) rfl (.refl _ u) c.toNat).same .tide rfl
  rw [note_tide]
  exact hv

theorem stepTide_heart (s : State) (c : Tick) :
    (s.stepTide c).heart = { s.heart with window := c.toNat / 250000, seen := false, valid := false } := by
  unfold State.stepTide
  extract_lets d tide u v heart w
  have hv : v.heart = u.heart := (keeps_resetTriggers (L := 0x8000000) rfl (.refl _ u) c.toNat).same .heart rfl
  rw [note_heart]
  exact congrArg (fun x : Heart => { x with window := c.toNat / 250000, seen := false, valid := false }) hv

/-! ## SYNC_IN and SYNC_OUT -/

theorem syncInPulse_held (hh : s.tide.holdover = true) : exec .syncInPulse s = .next s := by
  simp only [exec, execSyncInPulse, hh, Bool.or_true, if_true]

section
variable (hl : s.tide.locked = true)
include hl

theorem syncInPulse_seen (hh : s.tide.holdover = false) (ha : s.tide.syncArm = false) :
    exec .syncInPulse s = .next { s with tide := { s.tide with syncSeen := s.now } } := by
  simp only [exec, execSyncInPulse, hl, hh, ha, Bool.not_true, Bool.not_false, Bool.or_self, Bool.false_eq_true, if_false, if_true]

theorem syncInPulse_past (hh : s.tide.holdover = false) (ha : s.tide.syncArm = true)
    (hv : s.tide.syncValue.toNat < s.now.toNat + 1) :
    exec .syncInPulse s = .next
      (State.note { s with tide := { s.tide with syncSeen := s.now, syncArm := false } } 0x4031 .information 0) := by
  simp only [exec, execSyncInPulse, hl, hh, ha, hv, Bool.not_true, Bool.or_self, Bool.false_eq_true, if_false, if_true]

theorem syncInPulse_aligned (hh : s.tide.holdover = false) (ha : s.tide.syncArm = true)
    (hv : s.tide.syncValue.toNat = s.now.toNat + 1) : exec .syncInPulse s = .next { s with tide := { s.tide with
      syncSeen := s.now, syncArm := false, count := s.now + 1, groupAligned := true, ptmLock := false
      ptmLocked := false } } := by
  simp only [exec, execSyncInPulse, hl, hh, ha, hv, Nat.lt_irrefl, Bool.not_true, Bool.or_self, Bool.false_eq_true, if_false,
    if_true]

theorem syncInPulse_steps (hh : s.tide.holdover = false) (ha : s.tide.syncArm = true)
    (hv : s.now.toNat + 1 < s.tide.syncValue.toNat) : ∃ t, exec .syncInPulse s = .next t ∧ t.tide = { s.tide with
      syncSeen := s.now, syncArm := false, count := s.tide.syncValue, stepped := true, groupAligned := true
      ptmLock := false, ptmLocked := false } ∧
      t.heart = { s.heart with window := s.tide.syncValue.toNat / 250000, seen := false, valid := false } ∧
      s.sameBut (mayChange .syncInPulse) t := by
  have hrun : exec .syncInPulse s = .next (State.stepTide { s with tide := { s.tide with
      syncSeen := s.now, syncArm := false, count := s.now + 1, groupAligned := true, ptmLock := false
      ptmLocked := false } } s.tide.syncValue) := by
    simp only [exec, execSyncInPulse, hl, hh, ha, hv.not_gt, hv.ne', Bool.not_true, Bool.or_self, Bool.false_eq_true, if_false]
  exact ⟨_, hrun, stepTide_tide _ _, stepTide_heart _ _, exec_frame hrun⟩

end

theorem syncOutPulse_fires (he : s.tide.syncOutEn = true) (hne : s.tide.syncOutAt ≠ 0) (hl : s.tide.locked = true)
    (hc : s.now.toNat ≤ s.tide.syncOutAt.toNat) : exec .syncOutPulse s = .next { s with
      tide := { s.tide with count := s.tide.syncOutAt, syncOutAt := 0 }
      outbox := s.outbox ++ [.syncOut s.tide.syncOutAt s.tide.syncOutWidth.toNat] } := by
  have hcount : (if s.now.toNat < s.tide.syncOutAt.toNat then s.tide.syncOutAt else s.now) = s.tide.syncOutAt := by
    split
    · rfl
    · exact BitVec.eq_of_toNat_eq (by omega)
  have hc' : s.tide.count.toNat ≤ s.tide.syncOutAt.toNat := hc
  simp only [exec, execSyncOutPulse, he, hne, hl, hc', advanceTo_eq, hcount, State.send, ne_eq, not_false_eq_true, decide_true,
    Bool.and_self, if_true]

/-! ## Reads of the count -/

theorem tideCountRead_guard (hr : s.running = true) (hl : s.lost = false) (hf : s.frozen = false)
    (he : s.env.reset ≠ .function) : (!s.wakeSlack.running || s.wakeSlack.lost || s.wakeSlack.frozen ||
      decide (s.wakeSlack.env.reset = .function)) = false := by
  rw [wakeSlack_running, wakeSlack_lost, wakeSlack_frozen, wakeSlack_reset, hr, hl, hf, decide_eq_false he]
  rfl

theorem tideCountRead_wide (hr : s.running = true) (hl : s.lost = false) (hf : s.frozen = false)
    (he : s.env.reset ≠ .function) : exec (.tideCountRead true) s =
      .next (s.wakeSlack.send (.readData (leBytes 8 s.now.toNat) false)) := by
  have hnow : s.wakeSlack.now = s.now := congrArg Tide.count (wakeSlack_tide s)
  have hg := tideCountRead_guard hr hl hf he
  simp only [exec, execTideCountRead, hg, hnow, Bool.false_eq_true, if_false, if_true]

theorem tideCountRead_low (hr : s.running = true) (hl : s.lost = false) (hf : s.frozen = false)
    (he : s.env.reset ≠ .function) : exec (.tideCountRead false) s =
      .next (State.send { s.wakeSlack with tide := { s.tide with latchHi := BitVec.ofNat 32 (s.now.toNat / 2 ^ 32) } }
        (.readData (leBytes 4 (s.now.toNat % 2 ^ 32)) false)) := by
  have hnow : s.wakeSlack.now = s.now := congrArg Tide.count (wakeSlack_tide s)
  have hg := tideCountRead_guard hr hl hf he
  simp only [exec, execTideCountRead, hg, hnow, wakeSlack_tide, Bool.false_eq_true, if_false]
  rfl

/-! ## PTM -/

section
variable {ns : BitVec 64}

theorem ptmLock_eq (hl : s.tide.locked = true) (he : s.cfg.ptmEnable = true) (hp : s.tide.ptmLock = false) :
    exec (.ptmLock ns) s = .next (s.lockPtm (ptmTarget s ns)) := by
  simp only [exec, execPtmLock, hl, he, hp, Bool.not_true, Bool.or_self, Bool.false_eq_true, if_false]

theorem ptmLock_held (hp : s.tide.ptmLock = true) : exec (.ptmLock ns) s = .next s := by
  simp only [exec, execPtmLock, hp, Bool.or_true, if_true]

theorem lockPtm_refused {target : Int} (hp : s.tide.ptmLock = false)
    (h : s.tide.syncArm = true ∨ s.tide.groupAligned = true ∨ target < s.now.toNat) :
    s.lockPtm target = s.note 0x4032 .information 0 := by
  have hg : (s.tide.syncArm || s.tide.groupAligned || decide (target < s.now.toNat)) = true := by
    simpa [or_assoc] using h
  have hs : { s with tide := { s.tide with ptmLock := false } } = s := by rw [← hp]
  rw [State.lockPtm, if_pos hg, hs]

/-- A lock that is not refused takes the target, by a step where the count is behind it. -/
theorem lockPtm_takes {target : Int} (ha : s.tide.syncArm = false) (hga : s.tide.groupAligned = false)
    (h : (s.now.toNat : Int) ≤ target) :
    let u := { s with tide := { s.tide with ptmLock := true, ptmBad := 0 } }
    s.lockPtm target = if target = s.now.toNat then u else u.stepTide (BitVec.ofInt 64 target) := by
  have hg : (s.tide.syncArm || s.tide.groupAligned || decide (target < s.now.toNat)) = false := by
    rw [ha, hga, decide_eq_false (by omega)]
    rfl
  exact if_neg (ne_true_of_eq_false hg)

/-- The count at which a measurement is sent: 10 ms after the one before. -/
def ptmDue (s : State) : Tick := s.cfg.ptmSent.elim s.now (· + 2500000)

/-- The request of a measurement has gone out. -/
def ptmAsked (u : State) : State := State.send { u with cfg := { u.cfg with ptmSent := some u.now } } .ptmRequest

/-- What is known of the master once a measurement came back. -/
def ptmMeasured (u : State) (ns : BitVec 64) : State :=
  let s := ptmAsked u
  { s with tide := { s.tide with ptmOffset := BitVec.ofInt 64 (ptmTarget s ns - s.now.toNat), ptmAt := some s.now } }

/-- The Tide once a measurement that found the count `off` behind, `residual` ns off, is judged. -/
def ptmJudged (m : State) (off : Int) (residual : Nat) : Tide :=
  let bad := if residual > 50 then m.tide.ptmBad + 1 else 0
  let correct := off ≠ 0 && m.tide.ptmCorrectedAt.toNat + 1000 ≤ m.now.toNat
  { m.tide with
    ptmError := BitVec.ofNat 16 (min residual 0xFFFF)
    ptmBad := bad
    ptmLocked := if residual > 50 then m.tide.ptmLocked && bad < 3 else true
    ptmCorrectedAt := if correct then m.now else m.tide.ptmCorrectedAt
    count := if correct && 0 < off then m.now + 1 else m.now }

/-- What a measurement does while the lock holds: the count is corrected and the third large residual is told. -/
def ptmJudge (m : State) (off : Int) (residual : Nat) : State :=
  let v := { m with tide := ptmJudged m off residual }
  if v.tide.ptmBad = 3 then v.note 0x4032 .information 0 else v

theorem ptmJudge_tide (m : State) (off : Int) (residual : Nat) :
    (ptmJudge m off residual).tide = ptmJudged m off residual := by
  unfold ptmJudge
  extract_lets v
  split
  · exact note_tide _ _ _ _
  · rfl

theorem ptmMeasurement_at {d : Tick} (hl : s.tide.locked = true) (he : s.cfg.ptmEnable = true) (h12 : s.env.l12 = false)
    (hd : s.cfg.ptmSent.elim s.now (· + BitVec.ofNat 64 (10 * State.msTicks)) = d) :
    let m := ptmMeasured (s.advanceTo d) ns
    exec (.ptmMeasurement ns) s = if (!m.tide.ptmLock) = true then .next m else
      .next (ptmJudge m (ptmTarget (ptmAsked (s.advanceTo d)) ns - (ptmAsked (s.advanceTo d)).now.toNat)
        ((ns.toNat : Int) - m.tide.ptmEpoch.toNat - 4 * m.now.toNat).natAbs) := by
  intro m
  cases hsent : s.cfg.ptmSent with
  | none =>
    rw [hsent, Option.elim] at hd
    simp only [m, exec, execPtmMeasurement, hl, he, h12, hsent, hd, Bool.not_true, Bool.or_self, Bool.false_eq_true, if_false]
    rfl
  | some sent =>
    rw [hsent, Option.elim] at hd
    simp only [m, exec, execPtmMeasurement, hl, he, h12, hsent, hd, Bool.not_true, Bool.or_self, Bool.false_eq_true, if_false]
    rfl

theorem ptmDue_eq (s : State) : s.cfg.ptmSent.elim s.now (· + BitVec.ofNat 64 (10 * State.msTicks)) = ptmDue s := by
  have hms : BitVec.ofNat 64 (10 * State.msTicks) = 2500000 := by decide
  rw [ptmDue, hms]

/-- What a measurement says of the count `u` it is made at. -/
theorem ptmMeasured_spec (u : State) (ns : BitVec 64) : (ptmMeasured u ns).tide = { u.tide with
      ptmOffset := BitVec.ofInt 64 (ptmTarget u ns - u.now.toNat), ptmAt := some u.now } ∧
    ptmTarget (ptmAsked u) ns = ptmTarget u ns ∧ (ptmAsked u).now = u.now ∧ (ptmMeasured u ns).now = u.now :=
  ⟨rfl, rfl, rfl, rfl⟩

theorem ptmJudged_good {u : State} {off : Int} {residual : Nat} (h : residual ≤ 50) :
    (ptmJudged u off residual).ptmLocked = true ∧ (ptmJudged u off residual).ptmBad = 0 :=
  ⟨if_neg h.not_gt, if_neg h.not_gt⟩

theorem ptmJudged_bad {u : State} {off : Int} {residual : Nat} (h : 50 < residual) :
    (ptmJudged u off residual).ptmBad = u.tide.ptmBad + 1 ∧
      (2 ≤ u.tide.ptmBad → (ptmJudged u off residual).ptmLocked = false) ∧
      (u.tide.ptmBad < 2 → (ptmJudged u off residual).ptmLocked = u.tide.ptmLocked) := by
  have hbad : (ptmJudged u off residual).ptmBad = u.tide.ptmBad + 1 := if_pos h
  have hlocked : (ptmJudged u off residual).ptmLocked = (u.tide.ptmLocked && decide (u.tide.ptmBad + 1 < 3)) := by
    rw [← hbad]
    exact if_pos h
  refine ⟨hbad, fun hn => ?_, fun hn => ?_⟩
  · rw [hlocked, decide_eq_false (by omega), Bool.and_false]
  · rw [hlocked, decide_eq_true (by omega), Bool.and_true]

theorem ptmJudged_count (u : State) (off : Int) (residual : Nat) : (ptmJudged u off residual).count = u.now ∨
    (ptmJudged u off residual).count = u.now + 1 ∧ 0 < off ∧ u.tide.ptmCorrectedAt.toNat + 1000 ≤ u.now.toNat := by
  by_cases h : (decide (off ≠ 0) && decide (u.tide.ptmCorrectedAt.toNat + 1000 ≤ u.now.toNat) && decide (0 < off)) = true
  · refine .inr ⟨if_pos h, ?_⟩
    simp only [Bool.and_eq_true, decide_eq_true_eq] at h
    exact ⟨h.2, h.1.2⟩
  · exact .inl (if_neg h)

end

end

/-- Settles O18: the rules of the Tide's events. -/
theorem theTideIsKeptAndAligned : Obligations.TheTideIsKeptAndAligned := by
  refine ⟨fun s => ⟨refclkLoss_holds, refclkReturn_counts⟩, fun s hl => ⟨syncInPulse_held, syncInPulse_seen hl,
    syncInPulse_past hl, syncInPulse_aligned hl, syncInPulse_steps hl⟩, fun s => ⟨syncOutPulse_fires, ?_⟩, ?_⟩
  · intro hr hlost hf he u
    exact ⟨tideCountRead_wide hr hlost hf he, tideCountRead_low hr hlost hf he⟩
  · intro s ns hl he target
    have htarget : target = ptmTarget s ns := rfl
    refine ⟨fun hp => ⟨fun h => ?_, fun ha hga ht => ?_, fun ha hga ht => ?_⟩, ptmLock_held, fun h12 => ?_⟩
    · rw [ptmLock_eq hl he hp, ← htarget, lockPtm_refused hp h]
    · rw [ptmLock_eq hl he hp, ← htarget, lockPtm_takes ha hga ht.ge]
      exact congrArg _ (if_pos ht)
    · have hrun := ptmLock_eq (ns := ns) hl he hp
      rw [← htarget, lockPtm_takes ha hga ht.le] at hrun
      refine ⟨_, hrun, ?_, exec_frame hrun⟩
      rw [if_neg ht.ne']
      exact stepTide_tide _ _
    · intro u off residual
      have hu : u = s.advanceTo (ptmDue s) := by
        simp only [u, ptmDue]
        cases s.cfg.ptmSent <;> rfl
      have hrun := ptmMeasurement_at (ns := ns) hl he h12 (ptmDue_eq s)
      rw [← hu] at hrun
      obtain ⟨c, hc⟩ : ∃ c, u = { s with tide := { s.tide with count := c } } := ⟨_, hu.trans (advanceTo_eq _ _)⟩
      clear_value u
      subst hc
      refine ⟨fun hp => ?_, fun hp => ?_⟩
      · exact hrun.trans (if_pos (congrArg not hp))
      · have hlocked := hrun.trans (if_neg (by simp [ptmMeasured, ptmAsked, State.send, hp]))
        have htide := ptmJudge_tide (ptmMeasured { s with tide := { s.tide with count := c } } ns) off residual
        refine ⟨_, hlocked, congrArg Tide.ptmOffset htide, congrArg Tide.ptmAt htide, congrArg Tide.ptmError htide,
          fun h => ?_, fun h => ?_, ?_, exec_frame hlocked⟩
        · obtain ⟨h1, h2⟩ := ptmJudged_good h
          exact ⟨(congrArg Tide.ptmLocked htide).trans h1, (congrArg Tide.ptmBad htide).trans h2⟩
        · obtain ⟨h1, h2, h3⟩ := ptmJudged_bad h
          exact ⟨(congrArg Tide.ptmBad htide).trans h1, fun hb => (congrArg Tide.ptmLocked htide).trans (h2 hb),
            fun hb => (congrArg Tide.ptmLocked htide).trans (h3 hb)⟩
        · exact (ptmJudged_count _ off residual).imp (fun h => (congrArg Tide.count htide).trans h)
            fun ⟨h, hpos, hat⟩ => ⟨(congrArg Tide.count htide).trans h, hpos, hat⟩

end Sys2Proof.Machine
end

section
/-! A Manifest takes effect whole or not at all (R160, R168–R175). -/

namespace Sys2Proof.Machine

/-! ## What the end of a command leaves of the Quays -/

/-- Each Quay has the shape it had, and drains as it did. -/
structure QuayStands (s t : State) : Prop where
  shape : ∀ q : QuayId, t.quays[q].shape = s.quays[q].shape
  draining : ∀ q : QuayId, t.quays[q].draining = s.quays[q].draining

namespace QuayStands

theorem of_eq {s t : State} (h : t.quays = s.quays) : QuayStands s t := ⟨fun q => by rw [h], fun q => by rw [h]⟩

theorem refl (s : State) : QuayStands s s := .of_eq rfl

theorem trans {s t u : State} (h : QuayStands s t) (k : QuayStands t u) : QuayStands s u :=
  ⟨fun q => (k.shape q).trans (h.shape q), fun q => (k.draining q).trans (h.draining q)⟩

theorem of_keeps {L : Nat} {s t : State} (k : Keeps L s t) (h : L.testBit 18 = false) : QuayStands s t :=
  .of_eq (k.same .quays h)

theorem foldl {α : Type} {f : State → α → State} (h : ∀ s a, QuayStands s (f s a)) (l : List α) (s : State) :
    QuayStands s (l.foldl f s) := by
  induction l generalizing s with
  | nil => exact .refl s
  | cons a l ih => exact (h s a).trans (ih _)

end QuayStands

section
variable {s : State}

theorem updQuay_quayStands (s : State) (q : QuayId) {f : Quay → Quay}
    (h : ∀ y, (f y).shape = y.shape ∧ (f y).draining = y.draining) : QuayStands s (s.updQuay q f) := by
  constructor
  · intro p
    by_cases hp : p = q
    · rw [hp, State.updQuay_quays, updAt_self]
      exact (h _).1
    · rw [updQuay_other s hp]
  · intro p
    by_cases hp : p = q
    · rw [hp, State.updQuay_quays, updAt_self]
      exact (h _).2
    · rw [updQuay_other s hp]

theorem releaseUnits_quayStands (s : State) (q : QueueId) (idx : Word) : QuayStands s (s.releaseUnits q idx) := by
  have hu : (s.keepCounts q idx).quays = s.quays := (keeps_keepCounts rfl (.refl 0x8000 s) q idx).same .quays rfl
  unfold State.releaseUnits
  constructor <;> intro p <;> simp [hu]

theorem gateQuays_quayStands (s : State) : QuayStands s s.gateQuays := by
  unfold State.gateQuays
  constructor <;> intro p <;> simp

theorem endFlight_quayStands (s : State) (q : QueueId) (idx : Word) (status : Byte) (reason : BitVec 16) :
    QuayStands s (s.endFlight q idx status reason) := by
  unfold State.endFlight
  split
  · exact .refl s
  next fl _ =>
    extract_lets u fl1 fl2 v r waits
    have hu : QuayStands s u := .of_keeps (keeps_chargePhase (L := 0x4000) rfl (.refl _ s) fl) rfl
    have hinfo : QuayStands u (u.reportInfo fl2) :=
      .of_keeps (keeps_reportInfo (L := 0x22000080210) rfl (.refl _ u) fl2) rfl
    have hv : QuayStands s v := (hu.trans hinfo).trans (releaseUnits_quayStands ..)
    split
    · exact hv.trans (.of_eq rfl)
    · exact hv.trans (.of_keeps (keeps_writeRecord (L := 0x2000008d210) rfl (.refl _ v) fl2 r) rfl)

theorem settleFences_quayStands (n : Nat) : ∀ s : State, QuayStands s (s.settleFences n) := by
  induction n with
  | zero => exact fun s => .refl s
  | succ n ih =>
    intro s
    unfold State.settleFences
    dsimp only
    split
    · exact .refl s
    · exact (endFlight_quayStands s ..).trans (ih _)

theorem settle_quayStands (s : State) : QuayStands s s.settle := by
  have hregate (u : State) : QuayStands u u.regate := by
    unfold State.regate
    split
    · exact gateQuays_quayStands u
    · exact .refl u
  refine ((settleFences_quayStands s.flights.length s).trans (hregate _)).trans (.of_keeps (L := 0x200000040c0) ?_ rfl)
  exact keeps_ltrUpdate rfl (keeps_noteBlocked rfl (keeps_haltUpdate rfl (.refl _ _)))

theorem failQuiet_quayStands (s : State) (q : QueueId) (idx : Word) (reason : BitVec 16) :
    QuayStands s (s.failQuiet q idx reason) := by
  unfold State.failQuiet
  extract_lets u v w x
  have hv : QuayStands s v := by
    unfold v
    split
    · exact .of_keeps (keeps_forgetOutputs (L := 0x8000088000) rfl (keeps_updFlight rfl (.refl _ s) q idx _) _) rfl
    · exact .of_eq rfl
  have hw : QuayStands s w := hv.trans (endFlight_quayStands ..)
  have hx : QuayStands s x := by
    unfold x
    split
    · exact hw.trans (.of_keeps (keeps_stopQueue (L := 0x89000) rfl (.refl _ w) q reason) rfl)
    · exact hw
  exact hx.trans (settle_quayStands x)

/-- Each Quay has the shape it had, and none that did not drain drains. -/
structure ShapeStands (s t : State) : Prop where
  shape : ∀ q : QuayId, t.quays[q].shape = s.quays[q].shape
  still : ∀ q : QuayId, s.quays[q].draining = false → t.quays[q].draining = false

theorem QuayStands.shapes {t : State} (h : QuayStands s t) : ShapeStands s t :=
  ⟨h.shape, fun p hp => (h.draining p).trans hp⟩

theorem startQuayReset_shapeStands (s : State) (q : QuayId) : ShapeStands s (s.startQuayReset q) := by
  unfold State.startQuayReset
  split
  · exact (QuayStands.refl s).shapes
  generalize (_ || s.repairDue q) = due
  split
  · refine QuayStands.shapes (updQuay_quayStands s q ?_)
    exact fun _ => ⟨rfl, rfl⟩
  extract_lets u v w
  have hv : QuayStands s v := (QuayStands.of_eq rfl : QuayStands s u).trans (updQuay_quayStands u q fun _ => ⟨rfl, rfl⟩)
  have hw : QuayStands v w := by
    refine .foldl (fun s f => ?_) _ v
    split
    · exact .refl s
    split
    · exact (QuayStands.of_keeps (keeps_report (L := 0x22000080210) rfl (.refl _ s) _) rfl).trans (failQuiet_quayStands ..)
    split
    · exact .of_keeps (keeps_updFlight (L := 0xc000) rfl (keeps_chargePhase rfl (.refl _ s) f) ..) rfl
    · exact .refl s
  obtain ⟨hshape, hdrain⟩ := hv.trans hw
  constructor
  · intro p
    by_cases hp : p = q
    · rw [hp, State.updQuay_quays, updAt_self]
      exact hshape q
    · rw [updQuay_other w hp, hshape]
  · intro p h
    by_cases hp : p = q
    · rw [hp, State.updQuay_quays, updAt_self]
    · rw [updQuay_other w hp, hdrain, h]

/-! ## The write that begins a load -/

theorem exec_manifestEnable {perQuay drain : Bool} {quays : BitVec 8} (h : s.answers = true) :
    exec (.manifestEnable perQuay drain quays) s = .next (s.wakeSlack.writeManifestCtrl true perQuay drain quays) := by
  simp only [exec, execManifestEnable, wakeSlack_answers, h, if_true]

theorem startLoad_manifest (s : State) : s.startLoad.manifest = { s.manifest with
    enable := true, held := false
    load := some { fenceMap := s.fenceMap, carries := s.ports.toList.map portCarries } } :=
  trace_manifest ..

theorem fenceMap_congr {t : State} (h : t.quays = s.quays) : t.fenceMap = s.fenceMap := by
  unfold State.fenceMap State.berth
  rw [h]

/-! ## The check -/

theorem refuseManifest_manifest (s : State) (code : BitVec 16) (sec : Byte) (item : BitVec 16) :
    (s.refuseManifest code sec item).manifest = { s.manifest with
      load := none, enable := false, refused := true, reason := code, section_ := sec
      item := if sec = 0xFF then 0 else item, countRefused := satInc s.manifest.countRefused } := by
  unfold State.refuseManifest
  rw [note_manifest]

theorem manifestCheck_refuses {l : Load} {image : ManifestImage} (hf : s.fwUp = true) (hl : s.manifest.load = some l)
    (hi : l.image = none) {code : BitVec 16} {sec : Byte} (hc : s.manifestChecks l image = some (code, sec)) :
    ∃ t, exec (.manifestCheck image) s = .next t ∧
      t.manifest = { s.manifest with
        load := none, enable := false, refused := true, reason := code, section_ := sec
        item := if sec = 0xFF then 0 else image.item, countRefused := satInc s.manifest.countRefused } ∧
      s.sameBut (reporting ++ [.recorder, .manifest]) t := by
  have hrun : exec (.manifestCheck image) s =
      .next (((s.recordManifest code).trace 65 0 code.toNat).refuseManifest code sec image.item) := by
    simp only [exec, execManifestCheck, hl, hf, hi, hc, Option.isSome_none, Bool.not_true, Bool.or_self, Bool.false_eq_true,
      if_false]
  have hrec : Keeps 0x22400080210 s ((s.recordManifest code).trace 65 0 code.toNat) :=
    keeps_trace rfl (keeps_recordManifest rfl (.refl _ s) code) ..
  refine ⟨_, hrun, ?_, ?_⟩
  · rw [refuseManifest_manifest, hrec.same .manifest rfl]
  · exact (keeps_refuseManifest (L := 0x224000a0210) rfl (hrec.mono rfl) code sec image.item).sameBut rfl

theorem manifestCheck_accepts {l : Load} {image : ManifestImage} (hf : s.fwUp = true) (hl : s.manifest.load = some l)
    (hi : l.image = none) (hc : s.manifestChecks l image = none) :
    exec (.manifestCheck image) s = .next (((s.recordManifest 0).trace 65 0 0).acceptManifest l image) := by
  simp only [exec, execManifestCheck, hl, hf, hi, hc, Option.isSome_none, Bool.not_true, Bool.or_self, Bool.false_eq_true,
    if_false]

/-! ## The apply of one Quay -/

theorem manifest_load_eta {m : Manifest} {o : Option Load} (h : m.load = o) : m = { m with load := o } := by
  subst h
  rfl

theorem remap_manifest (s : State) :
    s.remap.manifest = { s.manifest with load := s.manifest.load.map fun l => { l with remap := false } } := by
  unfold State.remap
  split
  next h => exact manifest_load_eta (by rw [h, Option.map_none])
  next l h =>
    split
    next hr =>
      refine manifest_load_eta (h.trans ?_)
      have hl : l.remap = false := by simpa using hr
      rw [h, Option.map_some, ← hl]
    next =>
      extract_lets keep u masks
      have hu : u.manifest = s.manifest := (keeps_forgetBut (L := 0x8000080000) rfl _ (.refl _ s) ..).same .manifest rfl
      rw [h]
      exact congrArg (fun m : Manifest => { m with load := some { l with remap := false } }) hu

theorem remap_quays (s : State) : s.remap.quays = s.quays :=
  (keeps_remap (L := 0x80002a0000) rfl (.refl _ s)).same .quays rfl

theorem remap_newSection (s : State) (q : QuayId) : s.remap.newSection q = s.newSection q := by
  have hpart : s.remap.part = s.part := (keeps_remap (L := 0x80002a0000) rfl (.refl _ s)).same .part rfl
  have hen : s.remap.quayEnabled = s.quayEnabled := by
    funext p
    rw [State.quayEnabled, hpart, State.quayEnabled]
  have hnow : s.remap.sectionsNow = s.sectionsNow := by
    simp only [State.sectionsNow, hen, remap_quays, remap_manifest]
  unfold State.newSection
  rw [remap_manifest]
  cases s.manifest.load with
  | none => rfl
  | some l =>
    cases hi : l.image <;> simp only [Option.map_some, hi, State.sectionsAfter, hnow, remap_manifest]

/-- The Quay `q` takes its new section, before the Quay reset that waited for it. -/
def takeSection (s : State) (q : QuayId) (x : QuaySection) : State :=
  let part := if s.quays[q].wholeFenced then none else x.partition
  let u := { s with manifest := { s.manifest with
    partition := s.manifest.partition.set q.val part
    load := s.manifest.load.map fun (l : Load) => { l with changed := l.changed.filter (· ≠ q) } } }
  (u.updQuay q fun y => { y with
    shape := BitVec.ofNat 4 x.shape, draining := false
    ready := part.isSome && !y.wholeFenced && !y.resetting
    resetAsked := y.resetAsked && !(part.isSome && !y.wholeFenced && !y.resetting)
    store := []
    berths := y.berths.map fun (b : Berth) => { b with
      gated := b.gated || part.isNone, waking := b.waking && part.isSome
      weights := [], shadow := [], hold := [] } }).trace 66 q.val x.shape

theorem applyQuay_eq {q : QuayId} {x : QuaySection} (h : s.newSection q = some x) :
    s.applyQuay q = (takeSection s.remap q x).releaseQuayReset q := by
  unfold State.applyQuay
  extract_lets u
  rw [remap_newSection, h]
  rfl

theorem takeSection_manifest (s : State) (q : QuayId) (x : QuaySection) : (takeSection s q x).manifest = { s.manifest with
    partition := s.manifest.partition.set q.val (if s.quays[q].wholeFenced then none else x.partition)
    load := s.manifest.load.map fun (l : Load) => { l with changed := l.changed.filter (· ≠ q) } } :=
  trace_manifest ..

/-- A Quay that is fenced whole takes no partition, so its fence adds nothing to whether it is ready. -/
theorem fenced_ready (o : Option Nat) (w r : Bool) :
    ((if w then none else o).isSome && !w && !r) = ((if w then none else o).isSome && !r) := by
  cases w with
  | true => rfl
  | false => rw [Bool.not_false, Bool.and_true]

theorem takeSection_quay (s : State) (q : QuayId) (x : QuaySection) :
    let t := takeSection s q x
    let part := if s.quays[q].wholeFenced then none else x.partition
    t.quays[q].shape = BitVec.ofNat 4 x.shape ∧ t.quays[q].draining = false ∧
      t.quays[q].ready = (part.isSome && !s.quays[q].resetting) ∧ t.quays[q].resetHeld = s.quays[q].resetHeld ∧
      ∀ p : QuayId, p ≠ q → t.quays[p] = s.quays[p] := by
  intro t part
  have ht : t.quays = _ := trace_quays ..
  rw [ht]
  refine ⟨?_, ?_, ?_, ?_, fun p hp => updQuay_other _ hp _⟩
  all_goals rw [State.updQuay_quays, updAt_self]
  exact fenced_ready _ _ _

theorem releaseQuayReset_shapeStands (s : State) (q : QuayId) : ShapeStands s (s.releaseQuayReset q) := by
  unfold State.releaseQuayReset
  split
  · obtain ⟨h1, h2⟩ := updQuay_quayStands s q (f := ({ · with resetHeld := false, resetAsked := false })) fun _ => ⟨rfl, rfl⟩
    obtain ⟨k1, k2⟩ := startQuayReset_shapeStands (s.updQuay q ({ · with resetHeld := false, resetAsked := false })) q
    exact ⟨fun p => (k1 p).trans (h1 p), fun p hp => k2 p ((h2 p).trans hp)⟩
  · exact (QuayStands.refl s).shapes

theorem releaseQuayReset_manifest (s : State) (q : QuayId) : (s.releaseQuayReset q).manifest = s.manifest :=
  (keeps_releaseQuayReset (L := 0x2a6800cd2d0) rfl (.refl _ s) q).same .manifest rfl

/-! ## The end of a load -/

theorem applyDevice_manifest (s : State) (d : DeviceSection) :
    (s.applyDevice d).manifest = { s.manifest with device := some d } := by
  unfold State.applyDevice
  extract_lets old m u v w
  have hv : Keeps 0x2000000 u v := keeps_foldl (.refl _ u) fun _ x h => keeps_switchStream rfl h ..
  have hw : Keeps 0x3000000 u w := keeps_foldl (hv.mono rfl) fun _ x h => keeps_restartLoss rfl h _
  have hall : Keeps 0x2200b480210 u ((w.lockRegions old d.locked).programTriggers d.triggers) :=
    keeps_programTriggers rfl (keeps_lockRegions rfl (hw.mono rfl) _ _) _
  exact hall.same .manifest rfl

/-- An ended load: no load, and one more accepted. -/
structure LoadEnded (m n : Manifest) : Prop where
  load : n.load = none
  enable : n.enable = false
  refused : n.refused = false
  accepted : n.countAccepted = satInc m.countAccepted
  partition : n.partition = m.partition

/-- The state at the end of a load: memory remapped and the device section in force. -/
def endedState (s : State) (l : Load) : State :=
  if s.remap.manifest.perQuay then s.remap else match l.image.bind (·.device) with
    | some d => s.remap.applyDevice d
    | none => s.remap

theorem endLoad_ended {l : Load} (h : s.manifest.load = some l) : LoadEnded s.manifest s.endLoad.manifest := by
  have hd : ∃ d o, (endedState s l).manifest = { s.manifest with device := d, load := o } := by
    unfold endedState
    split
    · exact ⟨_, _, remap_manifest s⟩
    split
    · rw [applyDevice_manifest, remap_manifest]
      exact ⟨_, _, rfl⟩
    · exact ⟨_, _, remap_manifest s⟩
  obtain ⟨d, o, hm⟩ := hd
  have hend : s.endLoad.manifest = { (endedState s l).manifest with
      load := none, enable := false, refused := false, reason := 0, section_ := 0xFF, item := 0
      countAccepted := satInc (endedState s l).manifest.countAccepted } := by
    unfold State.endLoad
    rw [h]
    rfl
  rw [hend, hm]
  exact ⟨rfl, rfl, rfl, rfl, rfl⟩

theorem endLoad_quays (s : State) : s.endLoad.quays = s.quays :=
  (keeps_endLoad (L := 0x2a00b6a0210) rfl (.refl _ s)).same .quays rfl

/-! ## The apply of a Quay, whole -/

/-- What is left of the section's apply once a Quay reset that waited has followed it. -/
theorem applyQuay_spec {q : QuayId} {x : QuaySection} (h : s.newSection q = some x) :
    let t := s.applyQuay q
    let part := if s.quays[q].wholeFenced then none else x.partition
    t.quays[q].shape = BitVec.ofNat 4 x.shape ∧ t.quays[q].draining = false ∧
      (s.quays[q].resetHeld = false → t.quays[q].ready = (part.isSome && !s.quays[q].resetting) ∧
        ∀ p : QuayId, p ≠ q → t.quays[p] = s.quays[p]) ∧
      t.manifest = { s.manifest with
        partition := s.manifest.partition.set q.val part
        load := s.manifest.load.map fun l => { l with remap := false, changed := l.changed.filter (· ≠ q) } } := by
  intro t part
  have ht : t = (takeSection s.remap q x).releaseQuayReset q := applyQuay_eq h
  obtain ⟨hshape, hdrain, hready, hheld, hother⟩ := takeSection_quay s.remap q x
  simp only [remap_quays] at hready hheld hother
  obtain ⟨hrs, hrd⟩ := releaseQuayReset_shapeStands (takeSection s.remap q x) q
  refine ⟨?_, ?_, fun hnone => ?_, ?_⟩
  · rw [ht, hrs, hshape]
  · rw [ht, hrd q hdrain]
  · have hskip : t = takeSection s.remap q x := by
      rw [ht]
      exact if_neg (ne_true_of_eq_false (hheld.trans hnone))
    rw [hskip]
    exact ⟨hready, hother⟩
  · rw [ht, releaseQuayReset_manifest, takeSection_manifest, remap_manifest, remap_quays, Option.map_map]
    rfl

section
variable {l : Load} {q : QuayId} {x : QuaySection}

theorem manifestQuayApply_runs (hf : s.fwUp = true) (hl : s.manifest.load = some l) (hi : l.image.isSome = true)
    (hq : q ∈ l.changed) (hfirst : ∀ p ∈ l.changed, q.val ≤ p.val) (hfree : s.quayFree q = true) :
    exec (.manifestQuayApply q) s =
      if l.changed.length = 1 then .next (s.applyQuay q).endLoad else .next (s.applyQuay q) := by
  have hany : (l.changed.any fun x => decide (x.val < q.val)) = false := by
    simpa using hfirst
  have hnone : l.image.isNone = false := by
    rw [← Option.not_isSome, hi, Bool.not_true]
  simp only [exec, execManifestQuayApply, hl, hf, hnone, hany, hfree, List.contains_iff_mem.2 hq, Bool.not_true, Bool.or_self,
    Bool.false_eq_true, if_false]

theorem manifestQuayApply_waits (hl : s.manifest.load = some l)
    (h : q ∉ l.changed ∨ (∃ p ∈ l.changed, p.val < q.val) ∨ s.quayFree q = false) :
    exec (.manifestQuayApply q) s = .next s := by
  have hg : (!s.fwUp || l.image.isNone || !(l.changed.contains q) || (l.changed.any fun x => decide (x.val < q.val)) ||
      !(s.quayFree q)) = true := by
    rcases h with h | ⟨p, hp, hlt⟩ | h
    · simp [h]
    · have : (l.changed.any fun x => decide (x.val < q.val)) = true := List.any_eq_true.2 ⟨p, hp, by simpa using hlt⟩
      rw [this, Bool.or_true, Bool.true_or]
    · simp [h]
  simp only [exec, execManifestQuayApply, hl, hg, if_true]

end

end

/-- Settles O37: the load's begin, its check, and the apply of a Quay with what ends the load. -/
theorem manifestLoadsWholeOrNotAtAll : Obligations.ManifestLoadsWholeOrNotAtAll := by
  refine ⟨fun s perQuay drain quays ha => ?_,
    fun s l image hf hl hi => ⟨fun code sec => manifestCheck_refuses hf hl hi, manifestCheck_accepts hf hl hi⟩,
    fun s l q x hf hl hi hx => ⟨fun hq hfirst hfree => ?_, manifestQuayApply_waits hl⟩⟩
  · intro u taken
    have hm : u.manifest = s.manifest := wakeSlack_manifest s
    have hready : u.ready = s.ready := wakeSlack_ready s
    have hreplay : u.replaying = s.replaying := wakeSlack_replaying s
    have hrun : exec (.manifestEnable perQuay drain quays) s = .next (u.writeManifestCtrl true perQuay drain quays) :=
      exec_manifestEnable ha
    rw [hrun]
    refine ⟨fun hr => ?_, fun hr he => ?_, fun hr he hrd => ?_, fun hr he hrd => ?_⟩
    · exact congrArg _ (if_pos (hreplay.trans hr))
    · rw [← hm] at he
      rw [State.writeManifestCtrl, hreplay, hr, he]
      rfl
    · rw [← hm] at he
      rw [← hready] at hrd
      simp only [State.writeManifestCtrl, hreplay, hr, he, hrd, Bool.not_true, Bool.false_eq_true, if_false]
      rw [hm]
    · rw [← hm] at he
      rw [← hready] at hrd
      have hstart : u.writeManifestCtrl true perQuay drain quays = State.startLoad { u with manifest := taken } := by
        have hset : State.startLoad { u with
            manifest := { u.manifest with perQuay := perQuay, drain := drain, quaysSel := quays } } =
            State.startLoad { u with manifest := taken } := by rw [hm]
        exact (if_neg (ne_true_of_eq_false (hreplay.trans hr))).trans
          ((if_neg (ne_true_of_eq_false he)).trans ((if_pos hrd).trans hset))
      rw [hstart] at hrun ⊢
      have hmap : State.fenceMap { u with manifest := taken } = s.fenceMap := fenceMap_congr (wakeSlack_quays s)
      have hports : State.ports { u with manifest := taken } = s.ports := wakeSlack_ports s
      refine ⟨_, rfl, ?_, exec_frame hrun⟩
      rw [startLoad_manifest, hmap, hports]
  · intro part
    obtain ⟨hshape, hdrain, hready, hman⟩ := applyQuay_spec hx
    have hrun := manifestQuayApply_runs hf hl hi hq hfirst hfree
    have hload : (s.applyQuay q).manifest.load = some { l with remap := false, changed := l.changed.filter (· ≠ q) } := by
      rw [hman, hl]
      rfl
    have hpart : (s.applyQuay q).manifest.partition = s.manifest.partition.set q.val part := by
      rw [hman]
    have hself : (s.manifest.partition.set q.val part)[q] = part := by simp
    have hother (p : QuayId) (hp : p ≠ q) : (s.manifest.partition.set q.val part)[p] = s.manifest.partition[p] :=
      Vector.getElem_set_ne _ _ fun h => hp (Fin.ext h.symm)
    by_cases hlen : l.changed.length = 1
    · rw [if_pos hlen] at hrun
      obtain ⟨hnone, hen, href, hacc, hsame⟩ := endLoad_ended hload
      refine ⟨_, hrun, ?_, ?_, ?_, fun p hp => ?_, ?_, fun h => absurd hlen h, fun _ => ⟨hnone, hen, href, ?_⟩, exec_frame hrun⟩
      · rw [endLoad_quays, hshape]
      · rw [hsame, hpart, hself]
      · rw [endLoad_quays, hdrain]
      · rw [hsame, hpart, hother p hp]
      · rw [endLoad_quays]
        exact hready
      · rw [hacc, hman]
    · rw [if_neg hlen] at hrun
      refine ⟨_, hrun, hshape, ?_, hdrain, fun p hp => ?_, hready, fun _ => ⟨?_, ?_, ?_⟩, fun h => absurd h hlen, exec_frame hrun⟩
      · rw [hpart, hself]
      · rw [hpart, hother p hp]
      · rw [hload]
        rfl
      · rw [hman]
      · rw [hman]

end Sys2Proof.Machine
end

section
/-! What a port's operations do to its streams, stream by stream (R357, R361, R366). -/

namespace Sys2Proof.Machine

section
variable {s : State}

/-! ## Folds over streams -/

/-- An operation that changes a stream once, whichever stream of a list comes first, leaves each of the list changed. -/
theorem foldl_streams {I : State → Prop} {g : State → SctxId → State} {f : Stream → Stream} (hf : ∀ x, f (f x) = f x)
    (hg : ∀ s j, I s → I (g s j) ∧ (g s j).streams[j] = f s.streams[j] ∧
      ∀ k : SctxId, (g s j).streams[k] = s.streams[k] ∨ (g s j).streams[k] = f s.streams[k])
    (l : List SctxId) : ∀ s, I s → I (l.foldl g s) ∧ ∀ k : SctxId,
      (k ∈ l → (l.foldl g s).streams[k] = f s.streams[k]) ∧
      ((l.foldl g s).streams[k] = s.streams[k] ∨ (l.foldl g s).streams[k] = f s.streams[k]) := by
  induction l with
  | nil => exact fun s hs => ⟨hs, fun k => ⟨fun h => absurd h (List.not_mem_nil), .inl rfl⟩⟩
  | cons j l ih =>
    intro s hs
    obtain ⟨hI, hself, hany⟩ := hg s j hs
    obtain ⟨hI', hl⟩ := ih (g s j) hI
    have hff (k : SctxId) : f (g s j).streams[k] = f s.streams[k] := by
      rcases hany k with h | h
      · rw [h]
      · rw [h, hf]
    refine ⟨hI', fun k => ?_⟩
    obtain ⟨hmem, hrest⟩ := hl k
    rw [List.foldl_cons]
    refine ⟨fun hk => ?_, ?_⟩
    · rcases List.mem_cons.1 hk with rfl | hk
      · rcases hrest with h | h
        · rw [h, hself]
        · rw [h, hff]
      · rw [hmem hk, hff]
    · rcases hrest with h | h
      · rw [h]
        exact hany k
      · exact .inr (h.trans (hff k))

theorem updStream_self (s : State) (i : SctxId) (f : Stream → Stream) : (s.updStream i f).streams[i] = f s.streams[i] := by
  rw [State.updStream_streams, updAt_self]

theorem updStream_other (s : State) {i j : SctxId} (h : j ≠ i) (f : Stream → Stream) :
    (s.updStream i f).streams[j] = s.streams[j] := by
  rw [State.updStream_streams, updAt_other _ _ h]

theorem updStream_any (s : State) (i : SctxId) (f : Stream → Stream) (k : SctxId) :
    (s.updStream i f).streams[k] = s.streams[k] ∨ (s.updStream i f).streams[k] = f s.streams[k] := by
  by_cases h : k = i
  · rw [h]
    exact .inr (updStream_self s i f)
  · exact .inl (updStream_other s h f)

/-- A change that each stream of a list undergoes. -/
theorem foldl_updStream {f : Stream → Stream} (hf : ∀ x, f (f x) = f x) (l : List SctxId) (s : State) {k : SctxId}
    (hk : k ∈ l) : (l.foldl (fun s i => s.updStream i f) s).streams[k] = f s.streams[k] := by
  obtain ⟨-, h⟩ := foldl_streams (I := fun _ => True) (g := fun s i => s.updStream i f) hf
    (fun s j _ => ⟨trivial, updStream_self s j f, updStream_any s j f⟩) l s trivial
  exact (h k).1 hk

theorem updPort_self (s : State) (p : PortId) (f : Port → Port) : (s.updPort p f).ports[p] = f s.ports[p] := by
  rw [State.updPort_ports, updAt_self]

theorem updPort_other (s : State) {p o : PortId} (h : o ≠ p) (f : Port → Port) :
    (s.updPort p f).ports[o] = s.ports[o] := by
  rw [State.updPort_ports, updAt_other _ _ h]

/-! ## Tearing -/

/-- A frame in progress torn at a bit of its code. -/
def tearStream (bit : Nat) (x : Stream) : Stream :=
  { x with frame := x.frame.map fun f => if f.ended then f else { f with torn := f.torn ||| BitVec.ofNat 8 (2 ^ bit) } }

theorem tear_eq (s : State) (i : SctxId) (bit : Nat) : s.tear i bit = s.updStream i (tearStream bit) := rfl

theorem tearStream_none {bit : Nat} {x : Stream} (h : x.frame = none) : tearStream bit x = x := by
  rw [tearStream, h]
  exact congrArg (fun o => { x with frame := o }) h.symm

theorem tearStream_ended {bit : Nat} {x : Stream} {f : Frame} (h : x.frame = some f) (he : f.ended = true) :
    tearStream bit x = x := by
  rw [tearStream, h, Option.map_some, if_pos he]
  exact congrArg (fun o => { x with frame := o }) h.symm

theorem tearStream_open {bit : Nat} {x : Stream} {f : Frame} (h : x.frame = some f) (he : f.ended = false) :
    tearStream bit x = { x with frame := some { f with torn := f.torn ||| BitVec.ofNat 8 (2 ^ bit) } } := by
  rw [tearStream, h, Option.map_some, if_neg (ne_true_of_eq_false he)]

theorem tearStream_tearStream (bit : Nat) (x : Stream) : tearStream bit (tearStream bit x) = tearStream bit x := by
  cases h : x.frame with
  | none => rw [tearStream_none h, tearStream_none h]
  | some f =>
    cases he : f.ended with
    | true => rw [tearStream_ended h he, tearStream_ended h he]
    | false =>
      rw [tearStream_open h he, tearStream_open (f := { f with torn := f.torn ||| BitVec.ofNat 8 (2 ^ bit) }) rfl he]
      simp only [BitVec.or_assoc, BitVec.or_self]

theorem foldl_tear (l : List SctxId) (bit : Nat) (s : State) {k : SctxId} (hk : k ∈ l) :
    (l.foldl (fun s i => s.tear i bit) s).streams[k] = tearStream bit s.streams[k] :=
  foldl_updStream (tearStream_tearStream bit) l s hk

/-! ## The end of a frame -/

/-- The end at `now` of the frame `g` of a stream, counted as torn when it is. -/
def endOpen (now : Tick) (x : Stream) (g : Frame) : Stream :=
  let f := State.Frame.countLines g
  let y := { x with frame := some { f with ended := true, endAt := now }, past := f.past ++ [f.input] }
  if f.torn ≠ 0 then { y with tornCount := satInc y.tornCount, historyValid := false } else y

/-- A stream whose frame in progress, if it has one, has ended at `now`. -/
def endStream (now : Tick) (x : Stream) : Stream :=
  match x.frame with
  | none => x
  | some g => if g.ended then x else endOpen now x g

theorem endStream_none {now : Tick} {x : Stream} (h : x.frame = none) : endStream now x = x := by
  rw [endStream, h]

theorem endStream_ended {now : Tick} {x : Stream} {g : Frame} (h : x.frame = some g) (he : g.ended = true) :
    endStream now x = x := by
  simp only [endStream, h, he, if_true]

theorem endStream_open {now : Tick} {x : Stream} {g : Frame} (h : x.frame = some g) (he : g.ended = false) :
    endStream now x = endOpen now x g := by
  simp only [endStream, h, he, Bool.false_eq_true, if_false]

theorem endOpen_frame (now : Tick) (x : Stream) (g : Frame) :
    (endOpen now x g).frame = some { State.Frame.countLines g with ended := true, endAt := now } := by
  unfold endOpen
  dsimp only
  split <;> rfl

/-- The check of the lines clears no bit of the code. -/
theorem countLines_torn {g : Frame} {n : Nat} (h : g.torn.getLsbD n = true) :
    (State.Frame.countLines g).torn.getLsbD n = true := by
  unfold State.Frame.countLines
  split
  · rw [BitVec.getLsbD_or, h, Bool.true_or]
  · exact h

/-- A frame that was torn counts as torn at its end. -/
theorem endOpen_torn {now : Tick} {x : Stream} {g : Frame} (h : g.torn ≠ 0) :
    (endOpen now x g).tornCount = satInc x.tornCount := by
  have ht : (State.Frame.countLines g).torn ≠ 0 := by
    unfold State.Frame.countLines
    split
    · exact fun h0 => h (BitVec.or_eq_zero_iff.1 h0).1
    · exact h
  unfold endOpen
  dsimp only
  rw [if_pos ht]

theorem endOpen_frames (now : Tick) (x : Stream) (g : Frame) :
    (endOpen now x g).frames = x.frames ∧ (endOpen now x g).binding = x.binding ∧
      (endOpen now x g).unwritten = x.unwritten := by
  unfold endOpen
  dsimp only
  split <;> exact ⟨rfl, rfl, rfl⟩

theorem endStream_endStream (now : Tick) (x : Stream) : endStream now (endStream now x) = endStream now x := by
  cases h : x.frame with
  | none => rw [endStream_none h, endStream_none h]
  | some g =>
    cases he : g.ended with
    | true => rw [endStream_ended h he, endStream_ended h he]
    | false => rw [endStream_open h he, endStream_ended (endOpen_frame now x g) rfl]

/-- The end of the frame of one stream, without those that share its source. -/
def endOne (quiet : Bool) (s : State) (j : SctxId) : State :=
  match s.streams[j].frame with
  | none => s
  | some g => if g.ended then s else
    let f := State.Frame.countLines g
    let s := s.updStream j fun x => { x with
      frame := some { f with ended := true, endAt := s.now }, past := f.past ++ [f.input] }
    let s := s.trace 97 j.val s.streams[j].frames.toNat
    let s := s.recordPortFrame j
    if f.torn ≠ 0 then s.countTorn j quiet else s

theorem endFrame_eq (s : State) (i : SctxId) (quiet : Bool) :
    s.endFrame i quiet = (i :: s.branches i).foldl (endOne quiet) s := rfl

/-- One stream of `t` is `x`, the others and the count are as they were in `s`. -/
structure StreamBecomes (s t : State) (j : SctxId) (x : Stream) : Prop where
  tide : t.tide = s.tide
  self : t.streams[j] = x
  other : ∀ k : SctxId, k ≠ j → t.streams[k] = s.streams[k]

theorem StreamBecomes.unmoved {s : State} {j : SctxId} {x : Stream} (h : x = s.streams[j]) : StreamBecomes s s j x :=
  ⟨rfl, h.symm, fun _ _ => rfl⟩

theorem StreamBecomes.trans {s t u : State} {j : SctxId} {x y : Stream} (h : StreamBecomes s t j x)
    (k : StreamBecomes t u j y) : StreamBecomes s u j y :=
  ⟨k.tide.trans h.tide, k.self, fun i hi => (k.other i hi).trans (h.other i hi)⟩

theorem StreamBecomes.keeps {L : Nat} {s t u : State} {j : SctxId} {x : Stream} (h : StreamBecomes s t j x)
    (k : Keeps L t u) (ht : L.testBit 33 = false) (hs : L.testBit 25 = false) : StreamBecomes s u j x := by
  have hst : u.streams = t.streams := k.same .streams hs
  exact ⟨(k.same .tide ht).trans h.tide, by rw [hst, h.self], fun i hi => by rw [hst, h.other i hi]⟩

theorem updStream_becomes (s : State) (j : SctxId) (f : Stream → Stream) :
    StreamBecomes s (s.updStream j f) j (f s.streams[j]) :=
  ⟨rfl, updStream_self s j f, fun _ hk => updStream_other s hk f⟩

theorem countTorn_becomes (s : State) (j : SctxId) (quiet : Bool) : StreamBecomes s (s.countTorn j quiet) j
    { s.streams[j] with tornCount := satInc s.streams[j].tornCount, historyValid := false } := by
  have h := updStream_becomes s j fun x => { x with tornCount := satInc x.tornCount, historyValid := false }
  unfold State.countTorn
  extract_lets u
  split
  · exact h
  · exact h.keeps (keeps_reportLimited (L := 0x22000080a10) rfl (.refl _ u) _ _) rfl rfl

theorem endOne_becomes (quiet : Bool) (s : State) (j : SctxId) :
    StreamBecomes s (endOne quiet s j) j (endStream s.now s.streams[j]) := by
  unfold endOne
  split
  next h => exact .unmoved (endStream_none h)
  next g h =>
    split
    next he => exact .unmoved (endStream_ended h he)
    next he =>
      rw [endStream_open h (eq_false_of_ne_true he)]
      extract_lets f u v w
      have hw : StreamBecomes s w j { s.streams[j] with
          frame := some { f with ended := true, endAt := s.now }, past := f.past ++ [f.input] } :=
        (updStream_becomes s j _).keeps
          (keeps_recordPortFrame (L := 0x22400080210) rfl (keeps_trace rfl (.refl _ u) ..) j) rfl rfl
      unfold endOpen
      extract_lets y
      split
      · have htorn := countTorn_becomes w j quiet
        rw [hw.self] at htorn
        exact hw.trans htorn
      · exact hw

theorem endOne_any (quiet : Bool) (s : State) (j k : SctxId) :
    (endOne quiet s j).streams[k] = s.streams[k] ∨ (endOne quiet s j).streams[k] = endStream s.now s.streams[k] := by
  obtain ⟨-, hself, hother⟩ := endOne_becomes quiet s j
  by_cases h : k = j
  · rw [h]
    exact .inr hself
  · exact .inl (hother k h)

/-- Ends of one frame after another, at one count. -/
theorem foldl_endOne (quiet : Bool) (l : List SctxId) (s : State) : (l.foldl (endOne quiet) s).tide = s.tide ∧ ∀ k : SctxId,
    (k ∈ l → (l.foldl (endOne quiet) s).streams[k] = endStream s.now s.streams[k]) ∧
    ((l.foldl (endOne quiet) s).streams[k] = s.streams[k] ∨
      (l.foldl (endOne quiet) s).streams[k] = endStream s.now s.streams[k]) := by
  refine foldl_streams (I := fun t => t.tide = s.tide) (endStream_endStream s.now) (fun t j ht => ?_) l s rfl
  have hnow : t.now = s.now := congrArg Tide.count ht
  obtain ⟨htide, hself, -⟩ := endOne_becomes quiet t j
  exact ⟨htide.trans ht, hnow ▸ hself, fun k => hnow ▸ endOne_any quiet t j k⟩

theorem endFrame_tide (s : State) (i : SctxId) (quiet : Bool) : (s.endFrame i quiet).tide = s.tide :=
  (foldl_endOne quiet _ s).1

theorem endFrame_self (s : State) (i : SctxId) (quiet : Bool) :
    (s.endFrame i quiet).streams[i] = endStream s.now s.streams[i] :=
  ((foldl_endOne quiet (i :: s.branches i) s).2 i).1 List.mem_cons_self

theorem endFrame_any (s : State) (i : SctxId) (quiet : Bool) (k : SctxId) :
    (s.endFrame i quiet).streams[k] = s.streams[k] ∨ (s.endFrame i quiet).streams[k] = endStream s.now s.streams[k] :=
  ((foldl_endOne quiet (i :: s.branches i) s).2 k).2

theorem foldl_endFrame (quiet : Bool) (l : List SctxId) (s : State) {k : SctxId} (hk : k ∈ l) :
    (l.foldl (fun s i => s.endFrame i quiet) s).streams[k] = endStream s.now s.streams[k] := by
  refine ((foldl_streams (I := fun t => t.tide = s.tide) (endStream_endStream s.now) (fun t j ht => ?_) l s rfl).2 k).1 hk
  have hnow : t.now = s.now := congrArg Tide.count ht
  exact ⟨(endFrame_tide t j quiet).trans ht, hnow ▸ endFrame_self t j quiet, fun k => hnow ▸ endFrame_any t j quiet k⟩

/-! ## The pipe after a frame -/

/-- A stream whose pipe takes its next frame, or is free for the definition and binding that wait. -/
def retireStream (x : Stream) : Stream :=
  match x.unwritten with
  | _ :: fs => { x with unwritten := fs }
  | [] =>
    let x := { x with frame := none }
    let x := match x.nextBinding with
      | some none => { x with binding := none, nextBinding := none }
      | _ => x
    match x.nextDefn with
      | some d => { x with defn := d, nextDefn := none, historyValid := false }
      | none => x

theorem retire_eq (s : State) (i : SctxId) : s.retire i = s.updStream i retireStream := rfl

/-- What a retired stream's pipe holds, and what its counts are. -/
theorem retireStream_idle {x : Stream} (h : x.unwritten = []) :
    (retireStream x).frame = none ∧ (retireStream x).unwritten = [] ∧ (retireStream x).frames = x.frames ∧
      (retireStream x).tornCount = x.tornCount ∧ (retireStream x).idleLost = x.idleLost := by
  unfold retireStream
  rw [h]
  dsimp only
  split <;> split <;> exact ⟨rfl, rfl, rfl, rfl, rfl⟩

end

end Sys2Proof.Machine
end

section
/-! Ports are declared, undeclared, configured and lost (R353–R357, R378, R409). -/

namespace Sys2Proof.Machine

section
variable {s : State} {p : PortId}

/-! ## The loss of a port -/

/-- A stream whose port is lost: its pipe is empty and it idles. -/
def idleStream (x : Stream) : Stream := { retireStream { x with unwritten := [] } with idleLost := true }

/-- A stream that idles and of which no change waits. -/
structure Idles (x : Stream) : Prop where
  unwritten : x.unwritten = []
  frame : x.frame = none
  binding : x.nextBinding ≠ some none
  defn : x.nextDefn = none
  lost : x.idleLost = true

theorem idleStream_idles (x : Stream) : Idles (idleStream x) := by
  unfold idleStream retireStream
  dsimp only
  split <;> split <;>
    exact { unwritten := rfl, frame := rfl, binding := by simp_all, defn := by simp_all, lost := rfl }

theorem idleStream_of_idles {x : Stream} (h : Idles x) : idleStream x = x := by
  obtain ⟨hunwritten, hframe, hbinding, hdefn, hlost⟩ := h
  cases x with
  | mk full deliverTorn feedBusy idleLost defn nextDefn binding nextBinding =>
    dsimp only at hunwritten hframe hbinding hdefn hlost
    subst hunwritten hframe hdefn hlost
    match nextBinding, hbinding with
    | none, _ => rfl
    | some (some b), _ => rfl

theorem idleStream_idleStream (x : Stream) : idleStream (idleStream x) = idleStream x :=
  idleStream_of_idles (idleStream_idles x)

theorem foldl_idle_streams (l : List SctxId) (s : State) {k : SctxId} (hk : k ∈ l) :
    (l.foldl (fun s i => (s.emptyPipe i).updStream i ({ · with idleLost := true })) s).streams[k] = idleStream s.streams[k] := by
  have hone (s : State) (j : SctxId) :
      StreamBecomes s ((s.emptyPipe j).updStream j ({ · with idleLost := true })) j (idleStream s.streams[j]) := by
    have h1 := updStream_becomes s j fun x => { x with unwritten := [] }
    have h2 := updStream_becomes (s.updStream j fun x => { x with unwritten := [] }) j retireStream
    have h3 := updStream_becomes (s.emptyPipe j) j ({ · with idleLost := true })
    have h : StreamBecomes s (s.emptyPipe j) j (retireStream { s.streams[j] with unwritten := [] }) := by
      rw [h1.self] at h2
      exact h1.trans h2
    rw [h.self] at h3
    exact h.trans h3
  refine ((foldl_streams (I := fun _ => True) idleStream_idleStream (fun s j _ => ?_) l s trivial).2 k).1 hk
  obtain ⟨-, hself, hother⟩ := hone s j
  refine ⟨trivial, hself, fun i => ?_⟩
  by_cases hi : i = j
  · rw [hi]
    exact .inr hself
  · exact .inl (hother i hi)

theorem idleStream_fields (x : Stream) : (idleStream x).idleLost = true ∧ (idleStream x).frame = none ∧
    (idleStream x).unwritten = [] ∧ (idleStream x).frames = x.frames ∧ (idleStream x).tornCount = x.tornCount := by
  obtain ⟨hframe, hunwritten, hframes, htorn, -⟩ := retireStream_idle (x := { x with unwritten := [] }) rfl
  exact ⟨rfl, hframe, hunwritten, hframes, htorn⟩

theorem tearStream_frames (bit : Nat) (x : Stream) :
    (tearStream bit x).frames = x.frames ∧ (tearStream bit x).tornCount = x.tornCount := ⟨rfl, rfl⟩

theorem endStream_frames (now : Tick) (x : Stream) : (endStream now x).frames = x.frames := by
  cases h : x.frame with
  | none => rw [endStream_none h]
  | some g =>
    cases he : g.ended with
    | true => rw [endStream_ended h he]
    | false =>
      rw [endStream_open h he]
      exact (endOpen_frames now x g).1

/-- A frame torn at the loss of its port is counted once. -/
theorem endStream_tearStream_torn {now : Tick} {x : Stream} {f : Frame} (h : x.frame = some f) (he : f.ended = false) :
    (endStream now (tearStream 3 x)).tornCount = satInc x.tornCount := by
  have hne : f.torn ||| BitVec.ofNat 8 (2 ^ 3) ≠ 0 := fun h0 => absurd (BitVec.or_eq_zero_iff.1 h0).2 (by decide)
  rw [tearStream_open h he, endStream_open (g := { f with torn := f.torn ||| BitVec.ofNat 8 (2 ^ 3) }) rfl he]
  exact endOpen_torn hne

/-- Whether some stream's definition names a port. -/
def portNamed (s : State) (p : PortId) : Bool :=
  (List.finRange 24).any fun i => match s.definedAs i with
    | some d => (defPort? d).map (·.1) = some p.val
    | none => false

theorem portNamed_iff (s : State) (p : PortId) : portNamed s p = true ↔
    ∃ (i : SctxId) (d : StreamDef) (vc : Nat), s.definedAs i = some d ∧ d.source = .port p.val vc := by
  rw [portNamed, List.any_eq_true]
  constructor
  · rintro ⟨i, -, h⟩
    cases hd : s.definedAs i with
    | none => simp [hd] at h
    | some d =>
      cases hsrc : d.source <;> simp [hd, defPort?, hsrc] at h
      next q vc => exact ⟨i, d, vc, hd, h ▸ hsrc⟩
  · rintro ⟨i, d, vc, hd, hsrc⟩
    refine ⟨i, List.mem_finRange i, ?_⟩
    simp [hd, defPort?, hsrc]

/-- The loss of a port at the period that makes it. -/
def losePort (s : State) (p : PortId) : State :=
  let s := s.updPort p ({ · with lossCount := s.ports[p].lossCount + 1, lost := true, inFrame := false })
  let ids := s.streamsOfPort p
  let s := ids.foldl (fun s i => s.tear i 3) s
  let s := ids.foldl (fun s i => s.endFrame i false) s
  let s := ids.foldl (fun s i => (s.emptyPipe i).updStream i ({ · with idleLost := true })) s
  (s.report { reason := 0xA001, severity := .contained }).ltrUpdate

theorem losePort_ports (s : State) (p : PortId) : (losePort s p).ports = (s.updPort p ({ · with
    lossCount := s.ports[p].lossCount + 1, lost := true, inFrame := false })).ports := by
  unfold losePort
  extract_lets u ids v w x
  have hv : Keeps 0x22402080a10 u v := keeps_foldl (.refl _ u) fun _ _ h => keeps_tear rfl h ..
  have hw : Keeps 0x22402080a10 u w := keeps_foldl hv fun _ _ h => keeps_endFrame rfl h ..
  have hx : Keeps 0x22402080a10 u x := keeps_foldl hw fun _ _ h => keeps_updStream rfl (keeps_emptyPipe rfl h _) ..
  rw [ltrUpdate_ports, report_ports, hx.same .ports rfl]

theorem losePort_streams (s : State) (p : PortId) {i : SctxId} (h : i ∈ s.streamsOfPort p) :
    (losePort s p).streams[i] = idleStream (endStream s.now (tearStream 3 s.streams[i])) := by
  have hst (v : State) : (v.report { reason := 0xA001, severity := .contained }).ltrUpdate.streams = v.streams := by
    rw [ltrUpdate_streams, report_streams]
  unfold losePort
  extract_lets u ids v w x
  have hv : v.streams[i] = tearStream 3 s.streams[i] := foldl_tear ids 3 u h
  have hvnow : v.now = s.now := congrArg Tide.count
    ((keeps_foldl (L := 0x2000000) (.refl _ u) fun _ _ h => keeps_tear rfl h ..).same .tide rfl : v.tide = u.tide)
  have hw : w.streams[i] = endStream s.now v.streams[i] := hvnow ▸ foldl_endFrame false ids v h
  have hx : x.streams[i] = idleStream w.streams[i] := foldl_idle_streams ids w h
  rw [hst, hx, hw, hv]

theorem framePeriodExpiry_eq (s : State) (p : PortId) : exec (.framePeriodExpiry p) s =
    if (!(s.portListens p) || !(portNamed s p)) = true then .next s
    else if s.ports[p].lossCount + 1 < s.ports[p].lossFrames.toNat then
      .next (s.updPort p ({ · with lossCount := s.ports[p].lossCount + 1 }))
    else .next (losePort s p) := rfl

theorem framePeriodExpiry_listens (hl : s.portListens p = true)
    (hn : ∃ (i : SctxId) (d : StreamDef) (vc : Nat), s.definedAs i = some d ∧ d.source = .port p.val vc) :
    exec (.framePeriodExpiry p) s = if s.ports[p].lossCount + 1 < s.ports[p].lossFrames.toNat then
      .next (s.updPort p ({ · with lossCount := s.ports[p].lossCount + 1 })) else .next (losePort s p) := by
  rw [framePeriodExpiry_eq, hl, (portNamed_iff s p).2 hn]
  exact if_neg Bool.false_ne_true

theorem framePeriodExpiry_deaf (h : s.portListens p = false ∨
    ¬∃ (i : SctxId) (d : StreamDef) (vc : Nat), s.definedAs i = some d ∧ d.source = .port p.val vc) :
    exec (.framePeriodExpiry p) s = .next s := by
  have hg : (!(s.portListens p) || !(portNamed s p)) = true := by
    rcases h with h | h
    · rw [h, Bool.not_false, Bool.true_or]
    · rw [← portNamed_iff, Bool.not_eq_true] at h
      rw [h, Bool.not_false, Bool.or_true]
  rw [framePeriodExpiry_eq, if_pos hg]

theorem framePeriodExpiry_loses (hl : s.portListens p = true)
    (hn : ∃ (i : SctxId) (d : StreamDef) (vc : Nat), s.definedAs i = some d ∧ d.source = .port p.val vc)
    (hc : s.ports[p].lossFrames.toNat ≤ s.ports[p].lossCount + 1) :
    ∃ t, exec (.framePeriodExpiry p) s = .next t ∧
      t.ports[p].lost = true ∧ t.ports[p].inFrame = false ∧ (∀ o : PortId, o ≠ p → t.ports[o] = s.ports[o]) ∧
      (∀ i ∈ s.streamsOfPort p, t.streams[i].idleLost = true ∧ t.streams[i].frame = none ∧
        t.streams[i].unwritten = [] ∧ t.streams[i].frames = s.streams[i].frames ∧
        ∀ f, s.streams[i].frame = some f → f.ended = false →
          t.streams[i].tornCount = satInc s.streams[i].tornCount) ∧
      s.sameBut (mayChange (.framePeriodExpiry p)) t := by
  have hrun := framePeriodExpiry_listens hl hn
  rw [if_neg hc.not_gt] at hrun
  have hports := losePort_ports s p
  refine ⟨_, hrun, ?_, ?_, fun o ho => ?_, fun i hi => ?_, exec_frame hrun⟩
  · rw [hports, updPort_self]
  · rw [hports, updPort_self]
  · rw [hports, updPort_other s ho]
  · rw [losePort_streams s p hi]
    obtain ⟨h1, h2, h3, h4, h5⟩ := idleStream_fields (endStream s.now (tearStream 3 s.streams[i]))
    exact ⟨h1, h2, h3, h4.trans (endStream_frames ..), fun f hf he => h5.trans (endStream_tearStream_torn hf he)⟩

/-! ## Declaring and undeclaring -/

/-- The loss limit that a write of a port's control carries, which zero leaves as it was. -/
def setLoss (s : State) (p : PortId) (n : Byte) : State :=
  if n = 0 then s.noteReserved 1 else s.updPort p ({ · with lossFrames := n })

theorem setLoss_ports (s : State) (p : PortId) (n : Byte) :
    (setLoss s p n).ports[p] = { s.ports[p] with lossFrames := if n = 0 then s.ports[p].lossFrames else n } ∧
      ∀ o : PortId, o ≠ p → (setLoss s p n).ports[o] = s.ports[o] := by
  by_cases h : n = 0
  · have hs : setLoss s p n = s.noteReserved 1 := if_pos h
    rw [hs, noteReserved_ports, if_pos h]
    exact ⟨rfl, fun _ _ => rfl⟩
  · have hs : setLoss s p n = s.updPort p ({ · with lossFrames := n }) := if_neg h
    rw [hs, if_neg h]
    exact ⟨updPort_self s p _, fun o ho => updPort_other s ho _⟩

theorem setLoss_keeps (s : State) (p : PortId) (n : Byte) : Keeps 0x22001080210 s (setLoss s p n) := by
  unfold setLoss
  split
  · exact keeps_noteReserved rfl (.refl _ s) 1
  · exact keeps_updPort rfl (.refl _ s) ..

theorem setLoss_feat (s : State) (p : PortId) (n : Byte) : (setLoss s p n).fwif.feat = s.fwif.feat := by
  unfold setLoss
  split
  · exact (note_fwStands s 0x500D .information 1).feat
  · rfl

/-- A declared port: present, with its loss counted from the start. -/
def declarePort (s : State) (p : PortId) : State :=
  let s := s.updPort p ({ · with present := true, lost := false, lossCount := 0 })
  (s.streamsOfPort p).foldl (fun s i => s.updStream i ({ · with idleLost := false })) s

/-- An undeclared port: its frame torn and its bindings ended. -/
def undeclarePort (s : State) (p : PortId) : State :=
  let ids := s.streamsOfPort p
  let s := s.updPort p ({ · with present := false, inFrame := false })
  let s := ids.foldl (fun s i => s.tear i 4) s
  let s := ids.foldl (fun s i => s.endFrame i true) s
  (ids.foldl (fun s i => s.endBinding i) s).ltrUpdate

theorem writePortCtrl_declares (s : State) (p : PortId) (n : Byte) : s.writePortCtrl p n true =
    if (!((setLoss s p n).fwif.feat.getLsbD 2)) = true then (setLoss s p n).note 0x5002 .information 0
    else declarePort (setLoss s p n) p := rfl

theorem writePortCtrl_undeclares (s : State) (p : PortId) (n : Byte) :
    s.writePortCtrl p n false = undeclarePort (setLoss s p n) p := rfl

theorem declarePort_spec (s : State) (p : PortId) :
    (declarePort s p).ports = (s.updPort p ({ · with present := true, lost := false, lossCount := 0 })).ports ∧
    ∀ i ∈ s.streamsOfPort p, (declarePort s p).streams[i] = { s.streams[i] with idleLost := false } := by
  constructor
  · exact (keeps_foldl (L := 0x2000000) (.refl _ _) fun _ _ h => keeps_updStream rfl h ..).same .ports rfl
  · intro i hi
    exact foldl_updStream (f := ({ · with idleLost := false })) (fun _ => rfl) _ _ hi

/-- The end of a stream's binding: at once, or with the frame in progress. -/
def unbindStream (x : Stream) : Stream :=
  if x.frame.isSome then { x with nextBinding := some none } else { x with binding := none, nextBinding := none }

theorem unbindStream_unbindStream (x : Stream) : unbindStream (unbindStream x) = unbindStream x := by
  unfold unbindStream
  by_cases h : x.frame.isSome = true
  · rw [if_pos h]
    exact if_pos h
  · rw [if_neg h]
    exact if_neg h

theorem unbindStream_ends (x : Stream) : (unbindStream x).frame = x.frame ∧
    ((unbindStream x).binding = none ∨ (unbindStream x).nextBinding = some none) := by
  unfold unbindStream
  split
  · exact ⟨rfl, .inr rfl⟩
  · exact ⟨rfl, .inl rfl⟩

theorem undeclarePort_ports (s : State) (p : PortId) :
    (undeclarePort s p).ports = (s.updPort p ({ · with present := false, inFrame := false })).ports := by
  unfold undeclarePort
  extract_lets ids u v w
  have hv : Keeps 0x22402080a10 u v := keeps_foldl (.refl _ u) fun _ _ h => keeps_tear rfl h ..
  have hw : Keeps 0x22402080a10 u w := keeps_foldl hv fun _ _ h => keeps_endFrame rfl h ..
  have hx : Keeps 0x22402080a10 u (ids.foldl (fun s i => s.endBinding i) w) :=
    keeps_foldl hw fun _ _ h => keeps_endBinding rfl h _
  rw [ltrUpdate_ports, hx.same .ports rfl]

theorem undeclarePort_streams (s : State) (p : PortId) {i : SctxId} (h : i ∈ s.streamsOfPort p) :
    (undeclarePort s p).streams[i] = unbindStream (endStream s.now (tearStream 4 s.streams[i])) := by
  unfold undeclarePort
  extract_lets ids u v w
  have hv : v.streams[i] = tearStream 4 s.streams[i] := foldl_tear ids 4 u h
  have hvnow : v.now = s.now := congrArg Tide.count
    ((keeps_foldl (L := 0x2000000) (.refl _ u) fun _ _ h => keeps_tear rfl h ..).same .tide rfl : v.tide = u.tide)
  have hw : w.streams[i] = endStream s.now v.streams[i] := hvnow ▸ foldl_endFrame true ids v h
  have hx : (ids.foldl (fun s i => s.endBinding i) w).streams[i] = unbindStream w.streams[i] :=
    foldl_updStream unbindStream_unbindStream ids w h
  have hl : (ids.foldl (fun s i => s.endBinding i) w).ltrUpdate.streams = _ := ltrUpdate_streams _
  rw [hl, hx, hw, hv]

/-- A frame in progress when its port is undeclared ends, torn at bit 4. -/
theorem undeclared_frame {now : Tick} {x : Stream} {f : Frame} (h : x.frame = some f) (he : f.ended = false) :
    ∃ g, (unbindStream (endStream now (tearStream 4 x))).frame = some g ∧ g.ended = true ∧ g.torn.getLsbD 4 = true := by
  have hbit : (f.torn ||| BitVec.ofNat 8 (2 ^ 4)).getLsbD 4 = true := by
    rw [BitVec.getLsbD_or]
    simp
  rw [(unbindStream_ends _).1, tearStream_open h he,
    endStream_open (g := { f with torn := f.torn ||| BitVec.ofNat 8 (2 ^ 4) }) rfl he, endOpen_frame]
  exact ⟨_, rfl, rfl, countLines_torn hbit⟩

theorem streamsOfPort_congr {t : State} (h : t.streams = s.streams) (p : PortId) : t.streamsOfPort p = s.streamsOfPort p := by
  have hroot (i : SctxId) : t.rootOf i = s.rootOf i := by
    unfold State.rootOf
    rw [h]
  have hport (i : SctxId) : t.portOf i = s.portOf i := by
    unfold State.portOf
    simp only [hroot, h]
  simp only [State.streamsOfPort, hport]

theorem csiDeclare_runs (n : Byte) (ha : s.answers = true) : ∃ t, exec (.csiDeclare p n) s = .next t ∧
    t.ports[p].lossFrames = (if n = 0 then s.ports[p].lossFrames else n) ∧
    (s.fwif.feat.getLsbD 2 = true → t.ports[p].present = true ∧ t.ports[p].lost = false ∧
      t.ports[p].lossCount = 0 ∧ ∀ i ∈ s.streamsOfPort p, t.streams[i] = { s.streams[i] with idleLost := false }) ∧
    (s.fwif.feat.getLsbD 2 = false → t.ports[p].present = s.ports[p].present ∧ t.streams = s.streams) ∧
    (∀ o : PortId, o ≠ p → t.ports[o] = s.ports[o]) ∧ s.sameBut (mayChange (.csiDeclare p n)) t := by
  have hrun : exec (.csiDeclare p n) s = .next (s.wakeSlack.writePortCtrl p n true) := by
    simp only [exec, execCsiDeclare, wakeSlack_answers, ha, if_true]
  have hframe := exec_frame hrun
  have hk := setLoss_keeps s.wakeSlack p n
  obtain ⟨hself, hother⟩ := setLoss_ports s.wakeSlack p n
  have hfeat : (setLoss s.wakeSlack p n).fwif.feat = s.fwif.feat := by
    rw [setLoss_feat, wakeSlack_fwif]
  have hstreams : (setLoss s.wakeSlack p n).streams = s.streams := (hk.same .streams rfl).trans (wakeSlack_streams s)
  simp only [wakeSlack_ports] at hself hother
  refine ⟨_, hrun, ?_⟩
  rw [writePortCtrl_declares] at hframe ⊢
  cases hf : s.fwif.feat.getLsbD 2 with
  | false =>
    have hg : (!((setLoss s.wakeSlack p n).fwif.feat.getLsbD 2)) = true := by rw [hfeat, hf, Bool.not_false]
    rw [if_pos hg] at hframe ⊢
    rw [note_ports, note_streams]
    refine ⟨by rw [hself], (by cases ·), fun _ => ⟨by rw [hself], hstreams⟩, hother, hframe⟩
  | true =>
    have hg : ¬(!((setLoss s.wakeSlack p n).fwif.feat.getLsbD 2)) = true := by rw [hfeat, hf]; decide
    rw [if_neg hg] at hframe ⊢
    obtain ⟨hports, hidle⟩ := declarePort_spec (setLoss s.wakeSlack p n) p
    rw [hports]
    refine ⟨?_, fun _ => ⟨?_, ?_, ?_, fun i hi => ?_⟩, (by cases ·), fun o ho => ?_, hframe⟩
    · rw [updPort_self, hself]
    · rw [updPort_self]
    · rw [updPort_self]
    · rw [updPort_self]
    · rw [hidle i (by rwa [streamsOfPort_congr hstreams]), hstreams]
    · rw [updPort_other _ ho, hother o ho]

theorem csiUndeclare_runs (n : Byte) (ha : s.answers = true) : ∃ t, exec (.csiUndeclare p n) s = .next t ∧
    t.ports[p].present = false ∧ t.ports[p].lossFrames = (if n = 0 then s.ports[p].lossFrames else n) ∧
    t.ports[p].inFrame = false ∧ (∀ i ∈ s.streamsOfPort p,
      (t.streams[i].binding = none ∨ t.streams[i].nextBinding = some none) ∧
      ∀ f : Frame, s.streams[i].frame = some f → f.ended = false → ∃ g, t.streams[i].frame = some g ∧
        g.ended = true ∧ g.torn.getLsbD 4 = true) ∧
    s.sameBut (mayChange (.csiUndeclare p n)) t := by
  have hrun : exec (.csiUndeclare p n) s = .next (s.wakeSlack.writePortCtrl p n false) := by
    simp only [exec, execCsiUndeclare, wakeSlack_answers, ha, if_true]
  have hframe := exec_frame hrun
  have hk := setLoss_keeps s.wakeSlack p n
  obtain ⟨hself, -⟩ := setLoss_ports s.wakeSlack p n
  have hstreams : (setLoss s.wakeSlack p n).streams = s.streams := (hk.same .streams rfl).trans (wakeSlack_streams s)
  simp only [wakeSlack_ports] at hself
  refine ⟨_, hrun, ?_⟩
  rw [writePortCtrl_undeclares] at hframe ⊢
  rw [undeclarePort_ports, updPort_self, hself]
  refine ⟨rfl, rfl, rfl, fun i hi => ?_, hframe⟩
  rw [undeclarePort_streams _ p (by rwa [streamsOfPort_congr hstreams]), hstreams]
  exact ⟨(unbindStream_ends _).2, fun f hf he => undeclared_frame hf he⟩

/-! ## PORTCFG and ULPS -/

section
variable {v : Word}

/-- The fields of a port as a write of its configuration sets them. -/
def portCfg (x : Port) (v : Word) : Port := { x with
  phy := v.getLsbD 0
  rate := if 1 ≤ v.toNat / 0x100 % 0x100 ∧ v.toNat / 0x100 % 0x100 ≤ 45 then BitVec.ofNat 8 (v.toNat / 0x100 % 0x100) else x.rate
  lanes := if v.toNat / 2 % 4 < 3 then BitVec.ofNat 2 (v.toNat / 2 % 4) else x.lanes }

theorem writePortCfg_eq (s : State) (p : PortId) (v : Word) : let rate := v.toNat / 0x100 % 0x100
    let lanes := v.toNat / 2 % 4
    s.writePortCfg p v.toNat =
    if s.ports[p].present = true then s.note 0xA009 .information 0
    else if v.getLsbD 0 = true ∧ 31 ≤ rate ∧ rate ≤ 45 then s.noteReserved (1 + if lanes < 3 then 0 else 1)
    else if portCarries (portCfg s.ports[p] v) < payload ((s.manifest.device.map (·.streams)).getD []) p.val then
      s.note 0xA009 .information 0
    else (s.updPort p fun _ => portCfg s.ports[p] v).noteReserved
      ((if 1 ≤ rate ∧ rate ≤ 45 then 0 else 1) + if lanes < 3 then 0 else 1) := by
  intro rate lanes
  have hphy : decide (v.toNat % 2 = 1) = v.getLsbD 0 := by
    simp [BitVec.getLsbD, Nat.testBit_zero]
  unfold State.writePortCfg
  simp only [hphy, Bool.and_eq_true, decide_eq_true_eq, and_assoc]
  rfl

theorem exec_csiPortCfgWrite (ha : s.answers = true) :
    exec (.csiPortCfgWrite p v) s = .next (s.wakeSlack.writePortCfg p v.toNat) := by
  simp only [exec, execCsiPortCfgWrite, wakeSlack_answers, ha, if_true]

end

end

/-- Settles O51: the loss of a port, its declaring and undeclaring, its configuration and ULPS. -/
theorem portsAreDeclaredAndLost : Obligations.PortsAreDeclaredAndLost := by
  intro s p u
  have hanswers : u.answers = s.answers := wakeSlack_answers s
  refine ⟨?_, fun n ha => ⟨csiDeclare_runs n (hanswers ▸ ha), csiUndeclare_runs n (hanswers ▸ ha)⟩, fun n ha => ?_, ?_, ?_⟩
  · intro named
    refine ⟨fun hl hn => ⟨fun hc => ?_, framePeriodExpiry_loses hl hn⟩, framePeriodExpiry_deaf⟩
    rw [framePeriodExpiry_listens hl hn, if_pos hc]
  · have ha' : s.wakeSlack.answers = false := ha
    constructor
    · simp only [exec, execCsiDeclare, ha', Bool.false_eq_true, if_false]
      rfl
    · simp only [exec, execCsiUndeclare, ha', Bool.false_eq_true, if_false]
      rfl
  · intro v phy lanes rate x y bad fits
    refine ⟨fun ha => ?_, fun ha => ?_⟩
    · rw [exec_csiPortCfgWrite (hanswers ▸ ha), writePortCfg_eq]
      refine ⟨fun hp => congrArg _ (if_pos hp), fun hp hphy hlo hhi => ?_, fun hp hfree => ?_⟩
      · exact congrArg _ ((if_neg (ne_true_of_eq_false hp)).trans (if_pos ⟨hphy, hlo, hhi⟩))
      · have hfree' : ¬(v.getLsbD 0 = true ∧ 31 ≤ rate ∧ rate ≤ 45) := by
          rintro ⟨hphy, hlo, hhi⟩
          rcases hfree with h | h | h
          · exact absurd (hphy : phy = true) (ne_true_of_eq_false h)
          · omega
          · omega
        have hp' : ¬s.wakeSlack.ports[p].present = true := ne_true_of_eq_false hp
        rw [if_neg hp', if_neg hfree']
        exact ⟨fun hn => congrArg _ (if_pos (Nat.not_le.1 hn)), fun hn => congrArg _ (if_neg (Nat.not_lt.2 hn))⟩
    · have ha' : s.wakeSlack.answers = false := ha
      simp only [exec, execCsiPortCfgWrite, ha', Bool.false_eq_true, if_false]
      rfl
  · refine ⟨fun ha => ⟨fun hp => ?_, ?_⟩, fun h => ?_, fun ha => ?_⟩
    · simp only [exec, execCsiUlpsEntry, ha, hp, Bool.and_self, if_true]
    · simp only [exec, execCsiUlpsExit, ha, if_true]
    · have hg : (s.alive && s.ports[p].present) = false := by
        rcases h with h | h
        · rw [h, Bool.false_and]
        · rw [h, Bool.and_false]
      simp only [exec, execCsiUlpsEntry, hg, Bool.false_eq_true, if_false]
    · simp only [exec, execCsiUlpsExit, ha, Bool.false_eq_true, if_false]

end Sys2Proof.Machine
end

section
/-! Packets at the ports begin, fill, tear and end frames (R352, R357, R358, R364, R366). -/

namespace Sys2Proof.Machine

section
variable {s : State}

/-! ## Changes of the frame in progress -/

/-- A stream whose frame in progress, if it has one that has not ended, is changed. -/
def mapFrame (g : Frame → Frame) (x : Stream) : Stream :=
  { x with frame := x.frame.map fun f => if f.ended then f else g f }

theorem onFrame_eq (s : State) (i : SctxId) (g : SctxId → Frame → Frame) :
    s.onFrame i g = (i :: s.branches i).foldl (fun s j => s.updStream j (mapFrame (g j))) s := rfl

/-- Each stream of a list is changed once for each time it stands in it. -/
theorem foldl_updStream_count (F : SctxId → Stream → Stream) (l : List SctxId) (s : State) (k : SctxId) :
    (l.foldl (fun s j => s.updStream j (F j)) s).streams[k] = (F k)^[l.count k] s.streams[k] := by
  induction l generalizing s with
  | nil => rfl
  | cons j l ih =>
    rw [List.foldl_cons, ih]
    by_cases h : j = k
    · rw [h, List.count_cons_self, Function.iterate_succ_apply, updStream_self]
    · rw [List.count_cons_of_ne h, updStream_other s (Ne.symm h)]

theorem onFrame_stream (s : State) (i k : SctxId) (g : SctxId → Frame → Frame) :
    (s.onFrame i g).streams[k] = (mapFrame (g k))^[(i :: s.branches i).count k] s.streams[k] := by
  rw [onFrame_eq, foldl_updStream_count]

theorem onFrame_self {i : SctxId} (h : i ∉ s.branches i) (g : SctxId → Frame → Frame) :
    (s.onFrame i g).streams[i] = mapFrame (g i) s.streams[i] := by
  rw [onFrame_stream, List.count_cons_self, List.count_eq_zero_of_not_mem h]
  rfl

theorem iterate_idem {f : Stream → Stream} (h : ∀ x, f (f x) = f x) (n : Nat) (x : Stream) : f^[n + 1] x = f x := by
  induction n with
  | zero => rfl
  | succ n ih => rw [Function.iterate_succ_apply', ih, h]

theorem onFrame_self_of_idem {g : SctxId → Frame → Frame} {i : SctxId}
    (h : ∀ x, mapFrame (g i) (mapFrame (g i) x) = mapFrame (g i) x) :
    (s.onFrame i g).streams[i] = mapFrame (g i) s.streams[i] := by
  rw [onFrame_stream, List.count_cons_self, iterate_idem h]

/-- The frame in progress of a stream, which has not ended. -/
structure OpenFrame (s : State) (i : SctxId) (f : Frame) : Prop where
  frame : s.streams[i].frame = some f
  ended : f.ended = false

theorem mapFrame_open {g : Frame → Frame} {x : Stream} {f : Frame} (h : x.frame = some f) (he : f.ended = false) :
    (mapFrame g x).frame = some (g f) := by
  rw [mapFrame, h, Option.map_some, if_neg (ne_true_of_eq_false he)]

/-- A change that keeps a property of open frames keeps it however often it is made. -/
theorem onFrame_open {R : Frame → Prop} {g : SctxId → Frame → Frame} {i : SctxId} {f : Frame} (h : OpenFrame s i f)
    (hf : R f) (hg : ∀ f, R f → f.ended = false → R (g i f) ∧ (g i f).ended = false) :
    ∃ f', OpenFrame (s.onFrame i g) i f' ∧ R f' := by
  have hiter (n : Nat) : ∃ f', ((mapFrame (g i))^[n] s.streams[i]).frame = some f' ∧ f'.ended = false ∧ R f' := by
    induction n with
    | zero => exact ⟨f, h.frame, h.ended, hf⟩
    | succ n ih =>
      obtain ⟨f', hfr, he, hr⟩ := ih
      obtain ⟨hr', he'⟩ := hg f' hr he
      rw [Function.iterate_succ_apply']
      exact ⟨g i f', mapFrame_open hfr he, he', hr'⟩
  obtain ⟨f', hfr, he, hr⟩ := hiter ((i :: s.branches i).count i)
  refine ⟨f', ⟨?_, he⟩, hr⟩
  rw [onFrame_stream, hfr]

theorem mapFrame_defn (g : Frame → Frame) (n : Nat) (x : Stream) : ((mapFrame g)^[n] x).defn = x.defn := by
  induction n with
  | zero => rfl
  | succ n ih =>
    rw [Function.iterate_succ_apply']
    exact ih

theorem onFrame_defn (s : State) (i k : SctxId) (g : SctxId → Frame → Frame) :
    (s.onFrame i g).streams[k].defn = s.streams[k].defn := by
  rw [onFrame_stream, mapFrame_defn]

theorem onFrame_keeps (s : State) (i : SctxId) (g : SctxId → Frame → Frame) : Keeps 0x2000000 s (s.onFrame i g) := by
  rw [onFrame_eq]
  exact keeps_foldl (.refl _ s) fun _ _ h => keeps_updStream rfl h ..

/-- The definitions in force and what is blanked are as they were: what a change of frames leaves. -/
structure SameDefns (s t : State) : Prop where
  defn : ∀ k : SctxId, t.streams[k].defn = s.streams[k].defn
  blanks : t.blanks = s.blanks

namespace SameDefns

theorem refl (s : State) : SameDefns s s := ⟨fun _ => rfl, rfl⟩

theorem trans {s t u : State} (h : SameDefns s t) (k : SameDefns t u) : SameDefns s u :=
  ⟨fun i => (k.defn i).trans (h.defn i), k.blanks.trans h.blanks⟩

theorem of_keeps {L : Nat} {s t : State} (k : Keeps L s t) (h : L.testBit 25 = false) (hb : L.testBit 26 = false) :
    SameDefns s t := by
  have hst : t.streams = s.streams := k.same .streams h
  exact ⟨fun _ => by rw [hst], k.same .blanks hb⟩

theorem onFrame (s : State) (i : SctxId) (g : SctxId → Frame → Frame) : SameDefns s (s.onFrame i g) :=
  ⟨fun k => onFrame_defn s i k g, (onFrame_keeps s i g).same .blanks rfl⟩

theorem branches {s t : State} (h : SameDefns s t) (i : SctxId) : t.branches i = s.branches i := by
  simp only [State.branches, h.defn]

theorem blanked {s t : State} (h : SameDefns s t) (i : SctxId) : t.blanked i = s.blanked i := by
  have hroot : t.rootOf i = s.rootOf i := by simp only [State.rootOf, h.defn]
  simp only [State.blanked, h.blanks, hroot]

end SameDefns

/-! ## Tearing -/

theorem tearAll_self (s : State) (i : SctxId) (bit : Nat) : (s.tearAll i bit).streams[i] = tearStream bit s.streams[i] :=
  onFrame_self_of_idem (tearStream_tearStream bit)

theorem tearAll_open {i : SctxId} {f : Frame} (h : OpenFrame s i f) (bit : Nat) :
    OpenFrame (s.tearAll i bit) i { f with torn := f.torn ||| BitVec.ofNat 8 (2 ^ bit) } := by
  refine ⟨?_, h.ended⟩
  rw [tearAll_self, tearStream_open h.frame h.ended]

/-- A frame torn at a bit unless a condition holds. -/
theorem tearUnless_open {i : SctxId} {f : Frame} (h : OpenFrame s i f) (bit : Nat) (c : Prop) [Decidable c] :
    OpenFrame (if c then s else s.tearAll i bit) i
      { f with torn := f.torn ||| if c then 0 else BitVec.ofNat 8 (2 ^ bit) } := by
  split
  · refine ⟨h.frame.trans ?_, h.ended⟩
    exact congrArg (fun b => some { f with torn := b }) BitVec.or_zero.symm
  · exact tearAll_open h bit

theorem tearUnless_defns (s : State) (i : SctxId) (bit : Nat) (c : Prop) [Decidable c] :
    SameDefns s (if c then s else s.tearAll i bit) := by
  split
  · exact .refl s
  · exact .onFrame ..

/-! ## Frames that a packet belongs to -/

/-- The frame that a packet feeds is open. -/
theorem feeds_open {p : PortId} {vc : Fin 32} {i : SctxId} {e : Fin 3} (h : s.feeds p vc = some (i, e)) :
    ∃ f, OpenFrame s i f := by
  obtain ⟨j, -, hj⟩ := List.exists_of_findSome?_eq_some h
  rw [Option.bind_eq_some_iff] at hj
  obtain ⟨f, hf, hj⟩ := hj
  split at hj
  · cases hj
  next he =>
    rw [Option.map_eq_some_iff] at hj
    obtain ⟨e', -, heq⟩ := hj
    cases heq
    exact ⟨f, hf, eq_false_of_ne_true he⟩

theorem feeds_congr {t : State} (h : t.streams = s.streams) (p : PortId) (vc : Fin 32) : t.feeds p vc = s.feeds p vc := by
  simp only [State.feeds, h]

theorem exposure_open {i : SctxId} {f : Frame} (h : OpenFrame s i f) (e : Fin 3) : s.exposure i e = f.expo[e] := by
  rw [State.exposure, h.frame]

/-- A stream that starts on a channel is defined on that port. -/
theorem startsOn_source {p : PortId} {vc : Fin 32} {i : SctxId} {e : Fin 3} {d : StreamDef}
    (h : s.startsOn p vc = some (i, e)) (hd : s.definedAs i = some d) : defParent? d = none := by
  obtain ⟨j, -, hj⟩ := List.exists_of_findSome?_eq_some h
  rw [Option.bind_eq_some_iff] at hj
  obtain ⟨d', hd', hj⟩ := hj
  rw [Option.map_eq_some_iff] at hj
  obtain ⟨e', hexp, heq⟩ := hj
  cases heq
  obtain rfl : d' = d := by
    rw [hd] at hd'
    exact (Option.some.inj hd').symm
  unfold State.exposureOf at hexp
  split at hexp
  next hsrc => rw [defParent?, hsrc]
  · cases hexp

/-! ## Headers -/

theorem headerSeen_keeps (s : State) (p : PortId) (ecc : EccResult) : Keeps 0x22000880a10 s (s.headerSeen p ecc) :=
  keeps_headerSeen rfl (.refl _ s) p ecc

theorem headerSeen_streams (s : State) (p : PortId) (ecc : EccResult) : (s.headerSeen p ecc).streams = s.streams :=
  (headerSeen_keeps s p ecc).same .streams rfl

theorem headerSeen_counts (s : State) (p : PortId) :
    (s.headerSeen p .corrected).portErrs[p].eccCorrected = satInc s.portErrs[p].eccCorrected := by
  have hk : (s.headerSeen p .corrected).portErrs = updAt s.portErrs p fun x => { x with
      eccCorrected := satInc x.eccCorrected } :=
    (keeps_reportLimited (L := 0x22000080a10) rfl (.refl _ _) ..).same .portErrs rfl
  rw [hk, updAt_self]

section
variable {p : PortId} {vc : Fin 32} {ecc : EccResult}

theorem extended_iff (vc : Fin 32) : extended vc = decide (4 ≤ vc.val) := rfl

/-! ## Long packets -/

/-- A line taken into an open frame: what is wrong with it tears the frame. -/
theorem takeLine_open {i : SctxId} {e : Fin 3} {f : Frame} (h : OpenFrame s i f) (pixels : Nat) (line : List Byte) (fifo : Bool) :
    ∃ g, (s.takeLine i e pixels line fifo).streams[i].frame = some g ∧
      g.torn = f.torn ||| (if pixels = f.defn.width then 0 else 4) |||
        (if (f.expo[e]).begun ∧ ¬(f.expo[e]).done then 0 else 8) ||| (if fifo then 32 else 0) ∧
      (i ∉ s.branches i → (g.expo[e]).lines = (f.expo[e]).lines + 1 ∧
        g.received = f.received ++ [⟨e.val, if s.blanked i then List.replicate line.length 0 else line, s.blanked i⟩]) := by
  unfold State.takeLine
  extract_lets width x s1 s2 s3
  have hw : width = f.defn.width := by
    simp only [width]
    rw [h.frame]
  have hx : x = f.expo[e] := exposure_open h e
  have h1 : OpenFrame s1 i { f with torn := f.torn ||| if pixels = width then 0 else BitVec.ofNat 8 (2 ^ 2) } :=
    tearUnless_open h 2 _
  have d1 : SameDefns s s1 := tearUnless_defns s i 2 _
  have h2 := tearUnless_open h1 3 ((x.begun && !x.done) = true)
  have d2 : SameDefns s s2 := d1.trans (tearUnless_defns s1 i 3 _)
  obtain ⟨f3, h3, hf3⟩ : ∃ f3, OpenFrame s3 i f3 ∧ f3 = { f with
      torn := f.torn ||| (if pixels = f.defn.width then 0 else 4) |||
        (if (f.expo[e]).begun ∧ ¬(f.expo[e]).done then 0 else 8) ||| (if fifo then 32 else 0) } := by
    have hopen : OpenFrame s3 i { f with torn := f.torn ||| (if pixels = width then 0 else BitVec.ofNat 8 (2 ^ 2)) |||
        (if (x.begun && !x.done) = true then 0 else BitVec.ofNat 8 (2 ^ 3)) ||| (if fifo then 32 else 0) } := by
      unfold s3
      split
      next =>
        have h5 := tearAll_open h2 5
        exact ⟨(congrArg (fun v => v[i].frame) (note_streams _ _ _ _)).trans h5.frame, h5.ended⟩
      next =>
        exact ⟨h2.frame.trans (congrArg (fun b => some { f with torn := b }) BitVec.or_zero.symm), h2.ended⟩
    have hbegun : ((x.begun && !x.done) = true) = ((f.expo[e]).begun = true ∧ ¬(f.expo[e]).done = true) := by
      rw [hx, Bool.and_eq_true, Bool.not_eq_true', Bool.not_eq_true]
    refine ⟨_, hopen, ?_⟩
    simp only [hw, hbegun]
    rfl
  have d3 : SameDefns s s3 := by
    unfold s3
    split
    · exact d2.trans ((SameDefns.onFrame s2 i _).trans (.of_keeps (keeps_note (L := 0x22000080210) rfl (.refl _ _) ..) rfl rfl))
    · exact d2
  obtain ⟨g, hg, htorn⟩ := onFrame_open (R := fun g => g.torn = f3.torn) (g := fun j f => { f with
    expo := updAt f.expo e fun (x : Exposure) => { x with lines := x.lines + 1 }
    received := f.received ++ [s3.lineSeen j e.val line] }) h3 rfl fun f hf he => ⟨hf, he⟩
  refine ⟨g, hg.frame, htorn.trans (by rw [hf3]), fun hi => ?_⟩
  rw [← d3.branches i] at hi
  have hself := onFrame_self hi fun j f => { f with
    expo := updAt f.expo e fun (x : Exposure) => { x with lines := x.lines + 1 }
    received := f.received ++ [s3.lineSeen j e.val line] }
  have hframe := hg.frame
  rw [hself, mapFrame_open h3.frame h3.ended] at hframe
  obtain rfl := (Option.some.inj hframe).symm
  refine ⟨?_, ?_⟩
  · dsimp only
    rw [updAt_self, hf3]
  · have hseen : s3.lineSeen i e.val line =
        ⟨e.val, if s.blanked i then List.replicate line.length 0 else line, s.blanked i⟩ := by
      rw [State.lineSeen, d3.blanked]
      cases s.blanked i <;> rfl
    dsimp only
    rw [hseen, hf3]

section
variable (hl : s.portListens p = true)
include hl

theorem longPacket_discards (he : ecc = .uncorrectable) (dt : Byte) (crcOk : Bool) (pixels : Nat) (line : List Byte) (fifo : Bool) :
    exec (.csiLongPacket p vc dt ecc crcOk pixels line fifo) s = .next (s.tearFed (s.feeds p vc) 0) := by
  simp only [exec, execCsiLongPacket, hl, he, Bool.not_true, Bool.false_eq_true, if_false, if_true]

theorem longPacket_skips (he : ecc ≠ .uncorrectable) {dt : Byte} (h : 4 ≤ vc.val ∨ dt ∉ imageTypes) (crcOk : Bool) (pixels : Nat)
    (line : List Byte) (fifo : Bool) :
    exec (.csiLongPacket p vc dt ecc crcOk pixels line fifo) s = .next (s.headerSeen p ecc) := by
  have hg : (extended vc || !(imageTypes.contains dt)) = true := by
    rcases h with h | h
    · rw [extended_iff, decide_eq_true h, Bool.true_or]
    · simp [h]
  simp only [exec, execCsiLongPacket, hl, he, hg, Bool.not_true, Bool.false_eq_true, if_false, if_true]

/-- The state before a line is taken: a wrong CRC counts and tears. -/
def crcSeen (u : State) (p : PortId) (vc : Fin 32) (crcOk : Bool) : State :=
  if crcOk then u else (u.noteCrc p).tearFed (u.feeds p vc) 0

theorem longPacket_image (he : ecc ≠ .uncorrectable) (hv : vc.val < 4) {dt : Byte} (h : dt ∈ imageTypes) (crcOk : Bool)
    (pixels : Nat) (line : List Byte) (fifo : Bool) :
    let u := s.headerSeen p ecc
    (u.feeds p vc = none → exec (.csiLongPacket p vc dt ecc crcOk pixels line fifo) s = .next (crcSeen u p vc crcOk)) ∧
    ∀ i e, u.feeds p vc = some (i, e) → exec (.csiLongPacket p vc dt ecc crcOk pixels line fifo) s =
      .next ((crcSeen u p vc crcOk).takeLine i e pixels line fifo) := by
  intro u
  have hg : (extended vc || !(imageTypes.contains dt)) = false := by
    rw [extended_iff, decide_eq_false (by omega), List.contains_iff_mem.2 h]
    rfl
  have hfeeds : s.feeds p vc = u.feeds p vc := (feeds_congr (headerSeen_streams s p ecc) p vc).symm
  refine ⟨fun h => ?_, fun i e h => ?_⟩
  all_goals
    simp only [exec, execCsiLongPacket, hl, he, hg, hfeeds, h, Bool.not_true, Bool.false_eq_true, if_false]
    rw [crcSeen, h]

end

theorem crcSeen_counts (u : State) (p : PortId) (vc : Fin 32) :
    (crcSeen u p vc false).portErrs[p].crcErrors = satInc u.portErrs[p].crcErrors := by
  have hk : (crcSeen u p vc false).portErrs = (u.noteCrc p).portErrs := by
    unfold crcSeen State.tearFed
    rw [if_neg Bool.false_ne_true]
    split
    · exact (onFrame_keeps (u.noteCrc p) _ _).same .portErrs rfl
    · rfl
  rw [hk]
  unfold State.noteCrc
  rw [updAt_self]

theorem crcSeen_open {u : State} {i : SctxId} {e : Fin 3} {f : Frame} (hf : u.feeds p vc = some (i, e)) (h : OpenFrame u i f)
    (crcOk : Bool) : OpenFrame (crcSeen u p vc crcOk) i { f with torn := f.torn ||| if crcOk then 0 else 1 } ∧
      SameDefns u (crcSeen u p vc crcOk) := by
  unfold crcSeen
  cases crcOk with
  | true =>
    exact ⟨⟨h.frame.trans (congrArg (fun b => some { f with torn := b }) BitVec.or_zero.symm), h.ended⟩, .refl u⟩
  | false =>
    rw [hf]
    exact ⟨tearAll_open (s := u.noteCrc p) ⟨h.frame, h.ended⟩ 0, ⟨fun k => onFrame_defn (u.noteCrc p) i k _,
      (onFrame_keeps (u.noteCrc p) i _).same .blanks rfl⟩⟩

theorem longPacket_takes {u : State} {i : SctxId} {e : Fin 3} (hf : u.feeds p vc = some (i, e)) (crcOk : Bool) (pixels : Nat)
    (line : List Byte) (fifo : Bool) : ∃ f g, u.streams[i].frame = some f ∧
      ((crcSeen u p vc crcOk).takeLine i e pixels line fifo).streams[i].frame = some g ∧
      (i ∉ u.branches i → (g.expo[e]).lines = (f.expo[e]).lines + 1 ∧
        g.received = f.received ++ [⟨e.val, if u.blanked i then List.replicate line.length 0 else line, u.blanked i⟩]) ∧
      g.torn = f.torn ||| (if crcOk then 0 else 1) ||| (if pixels = f.defn.width then 0 else 4) |||
        (if (f.expo[e]).begun ∧ ¬(f.expo[e]).done then 0 else 8) ||| (if fifo then 32 else 0) := by
  obtain ⟨f, hopen⟩ := feeds_open hf
  obtain ⟨hv, hd⟩ := crcSeen_open hf hopen crcOk
  obtain ⟨g, hg, htorn, hline⟩ := takeLine_open (e := e) hv pixels line fifo
  rw [hd.branches, hd.blanked] at hline
  exact ⟨f, g, hopen.frame, hg, hline, htorn⟩

/-! ## Frame ends -/

theorem mapFrame_idem {g : Frame → Frame} (hg : ∀ f, f.ended = false → (g f).ended = false ∧ g (g f) = g f) (x : Stream) :
    mapFrame g (mapFrame g x) = mapFrame g x := by
  unfold mapFrame
  cases hx : x.frame with
  | none => rfl
  | some f =>
    cases he : f.ended with
    | true => simp [he]
    | false => simp [he, hg f he]

/-- A frame of which one exposure is done. -/
def doneAt (e : Fin 3) (f : Frame) : Frame :=
  { f with expo := updAt f.expo e fun (x : Exposure) => { x with done := true } }

/-- A frame of which one exposure has begun. -/
def begunAt (e : Fin 3) (f : Frame) : Frame :=
  { f with expo := updAt f.expo e fun (x : Exposure) => { x with begun := true } }

theorem updAt_updAt {α : Type} {n : Nat} (v : Vector α n) (i : Fin n) (f : α → α) (h : ∀ x, f (f x) = f x) :
    updAt (updAt v i f) i f = updAt v i f := by
  simp [updAt, h]

theorem doneAt_doneAt (e : Fin 3) (f : Frame) : doneAt e (doneAt e f) = doneAt e f := by
  unfold doneAt
  dsimp only
  rw [updAt_updAt]
  exact fun _ => rfl

theorem begunAt_begunAt (e : Fin 3) (f : Frame) : begunAt e (begunAt e f) = begunAt e f := by
  unfold begunAt
  dsimp only
  rw [updAt_updAt]
  exact fun _ => rfl

/-- The exposures that a frame is made of. -/
def exposuresOf (f : Frame) : List (Fin 3) := (List.finRange 3).filter fun k => k.val < f.defn.exposures

theorem mem_exposuresOf {f : Frame} {k : Fin 3} : k ∈ exposuresOf f ↔ k.val < f.defn.exposures := by
  simp [exposuresOf]

/-- Whether the end of exposure `e` does not end the frame. -/
def goesOn (e : Fin 3) (f : Frame) : Bool :=
  !((exposuresOf f).all fun k => (f.expo[k]).done || !(f.expo[k]).begun) || e.val + 1 ≠ f.defn.exposures

/-- A frame whose last exposure has ended: torn where one is missing, and counted. -/
def lastEnd (s : State) (p : PortId) (i : SctxId) (f : Frame) : State :=
  let s := if (exposuresOf f).all fun k => (f.expo[k]).begun then s else s.tearAll i 3
  let s := s.endFrame i false
  let s := if s.tornOf i = 0 then s.updPort p ({ · with lossCount := 0 }) else s
  s.portInFrame p

theorem frameEnd_feeds (hl : s.portListens p = true) (he : ecc ≠ .uncorrectable) (hv : vc.val < 4) {i : SctxId} {e : Fin 3}
    {f : Frame} (hf : (s.headerSeen p ecc).feeds p vc = some (i, e))
    (hd : OpenFrame ((s.headerSeen p ecc).onFrame i fun _ => doneAt e) i f) : exec (.csiFrameEnd p vc ecc) s =
      if goesOn e f = true then .next ((s.headerSeen p ecc).onFrame i fun _ => doneAt e)
      else .next (lastEnd ((s.headerSeen p ecc).onFrame i fun _ => doneAt e) p i f) := by
  have hg : extended vc = false := decide_eq_false (by omega)
  have hframe : ((s.headerSeen p ecc).onFrame i fun _ f => { f with
      expo := updAt f.expo e fun (x : Exposure) => { x with done := true } }).streams[i].frame = some f := hd.frame
  simp only [exec, execCsiFrameEnd, hl, he, hg, hf, hframe, Bool.not_true, Bool.false_eq_true, if_false]
  rfl

theorem onFrame_done {u : State} {i : SctxId} {f : Frame} (h : OpenFrame u i f) (e : Fin 3) :
    OpenFrame (u.onFrame i fun _ => doneAt e) i (doneAt e f) := by
  refine ⟨?_, h.ended⟩
  rw [onFrame_self_of_idem, mapFrame_open h.frame h.ended]
  exact mapFrame_idem fun f hf => ⟨hf, doneAt_doneAt e f⟩

theorem onFrame_begun {u : State} {i : SctxId} {f : Frame} (h : OpenFrame u i f) (e : Fin 3) :
    OpenFrame (u.onFrame i fun _ => begunAt e) i (begunAt e f) := by
  refine ⟨?_, h.ended⟩
  rw [onFrame_self_of_idem, mapFrame_open h.frame h.ended]
  exact mapFrame_idem fun f hf => ⟨hf, begunAt_begunAt e f⟩

theorem doneAt_expo (e k : Fin 3) (f : Frame) : ((doneAt e f).expo[k]).begun = (f.expo[k]).begun ∧
    ((doneAt e f).expo[k]).lines = (f.expo[k]).lines ∧
    ((doneAt e f).expo[k]).done = (decide (k = e) || (f.expo[k]).done) := by
  unfold doneAt
  dsimp only
  by_cases h : k = e
  · rw [h, updAt_self, decide_eq_true rfl]
    exact ⟨rfl, rfl, rfl⟩
  · rw [updAt_other _ _ h, decide_eq_false h]
    exact ⟨rfl, rfl, rfl⟩

theorem goesOn_iff (e : Fin 3) (f : Frame) : goesOn e (doneAt e f) = true ↔ e.val + 1 ≠ f.defn.exposures ∨
    ∃ k : Fin 3, k.val < f.defn.exposures ∧ k ≠ e ∧ (f.expo[k]).begun = true ∧ (f.expo[k]).done = false := by
  have hdefn : (doneAt e f).defn = f.defn := rfl
  have hone (k : Fin 3) : (((doneAt e f).expo[k]).done || !((doneAt e f).expo[k]).begun) = false ↔
      k ≠ e ∧ (f.expo[k]).begun = true ∧ (f.expo[k]).done = false := by
    obtain ⟨hb, -, hd⟩ := doneAt_expo e k f
    rw [hb, hd, Bool.or_eq_false_iff, Bool.or_eq_false_iff, decide_eq_false_iff_not, Bool.not_eq_false']
    tauto
  rw [goesOn, Bool.or_eq_true, decide_eq_true_eq, hdefn, or_comm, Bool.not_eq_true', List.all_eq_false]
  refine or_congr_right (exists_congr fun k => ?_)
  rw [mem_exposuresOf, hdefn, Bool.not_eq_true, hone]

theorem countLines_eq_zero (f : Frame) : (State.Frame.countLines f).torn = 0 ↔
    f.torn = 0 ∧ ∀ k : Fin 3, k.val < f.defn.exposures → (f.expo[k]).lines = f.defn.height := by
  have hany : ((List.finRange 3).any fun e => e.val < f.defn.exposures && (f.expo[e]).lines ≠ f.defn.height) = true ↔
      ¬∀ k : Fin 3, k.val < f.defn.exposures → (f.expo[k]).lines = f.defn.height := by
    simp
  unfold State.Frame.countLines
  split
  next h =>
    exact ⟨fun h0 => absurd (BitVec.or_eq_zero_iff.1 h0).2 (by decide), fun ⟨_, hk⟩ => absurd hk (hany.1 h)⟩
  next h =>
    rw [hany, not_not] at h
    exact ⟨fun h0 => ⟨h0, h⟩, fun h0 => h0.1⟩

theorem countLines_expo (f : Frame) : (State.Frame.countLines f).expo = f.expo := by
  unfold State.Frame.countLines
  split <;> rfl

theorem endOpen_counts {now : Tick} {x : Stream} {g : Frame} (h : (State.Frame.countLines g).torn ≠ 0) :
    (endOpen now x g).tornCount = satInc x.tornCount := by
  unfold endOpen
  dsimp only
  rw [if_pos h]

theorem portInFrame_streams (s : State) (p : PortId) : (s.portInFrame p).streams = s.streams := rfl

theorem portInFrame_lossCount (s : State) (p : PortId) : (s.portInFrame p).ports[p].lossCount = s.ports[p].lossCount := by
  unfold State.portInFrame
  rw [updPort_self]

/-- What the end of a frame's last exposure leaves of it. -/
theorem lastEnd_spec {u : State} {i : SctxId} {f : Frame} (h : OpenFrame u i f) (p : PortId) :
    ∃ g, (lastEnd u p i f).streams[i].frame = some g ∧ g.expo = f.expo ∧ g.ended = true ∧ g.endAt = u.now ∧
      (g.torn = 0 ↔ f.torn = 0 ∧ ∀ k : Fin 3, k.val < f.defn.exposures →
        (f.expo[k]).begun = true ∧ (f.expo[k]).lines = f.defn.height) ∧
      (g.torn = 0 → (lastEnd u p i f).ports[p].lossCount = 0) ∧
      (g.torn ≠ 0 → (lastEnd u p i f).streams[i].tornCount = satInc u.streams[i].tornCount) := by
  unfold lastEnd
  extract_lets s1 s2 s3
  have h1 := tearUnless_open h 3 (((exposuresOf f).all fun k => (f.expo[k]).begun) = true)
  have htide : s1.now = u.now := by
    unfold s1
    split
    · rfl
    · exact congrArg Tide.count ((onFrame_keeps u i _).same .tide rfl)
  have hcount : s1.streams[i].tornCount = u.streams[i].tornCount := by
    unfold s1
    split
    · rfl
    · rw [tearAll_self]
      rfl
  obtain ⟨f1, hopen, hf1⟩ : ∃ f1, OpenFrame s1 i f1 ∧ f1 = { f with
      torn := f.torn ||| if ((exposuresOf f).all fun k => (f.expo[k]).begun) = true then 0 else BitVec.ofNat 8 (2 ^ 3) } :=
    ⟨_, h1, rfl⟩
  have h2 : s2.streams[i] = endOpen u.now s1.streams[i] f1 := by
    rw [← htide]
    exact (endFrame_self s1 i false).trans (endStream_open hopen.frame hopen.ended)
  have h3 : s3.streams = s2.streams := by
    unfold s3
    split <;> rfl
  have hframe : s2.streams[i].frame = some { State.Frame.countLines f1 with ended := true, endAt := u.now } := by
    rw [h2, endOpen_frame]
  have hexpo : (State.Frame.countLines f1).expo = f.expo := by rw [countLines_expo, hf1]
  have htorn : s2.tornOf i = (State.Frame.countLines f1).torn := by rw [State.tornOf, hframe]
  have hmissing : f1.torn = 0 ↔ f.torn = 0 ∧ ∀ k : Fin 3, k.val < f.defn.exposures → (f.expo[k]).begun = true := by
    rw [hf1]
    dsimp only
    refine BitVec.or_eq_zero_iff.trans (and_congr_right fun _ => ?_)
    split
    next h => simpa [mem_exposuresOf] using h
    next h => simpa [mem_exposuresOf] using h
  rw [portInFrame_streams, portInFrame_lossCount, h3]
  refine ⟨_, hframe, hexpo, rfl, rfl, ?_, fun h0 => ?_, fun h0 => ?_⟩
  · have hlines : (∀ k : Fin 3, k.val < f1.defn.exposures → (f1.expo[k]).lines = f1.defn.height) ↔
        ∀ k : Fin 3, k.val < f.defn.exposures → (f.expo[k]).lines = f.defn.height := by rw [hf1]
    refine (countLines_eq_zero f1).trans ?_
    rw [hmissing, hlines, and_assoc, ← forall₂_and]
  · have hs3 : s3 = s2.updPort p ({ · with lossCount := 0 }) := if_pos (htorn.trans h0)
    rw [hs3, updPort_self]
  · rw [h2, endOpen_counts h0, hcount]

/-! ## Frame starts -/

/-- What begins on a stream whose definition `d` names a port of its own. -/
structure FrameBegun (s t : State) (i : SctxId) (no : BitVec 16) (d : StreamDef) (g : Frame) : Prop where
  frame : t.streams[i].frame = some g
  start : g.start = s.now
  csiFrame : g.csiFrame = no
  defn : g.defn = d
  torn : g.torn = 0
  ended : g.ended = false
  begun : (g.expo[(0 : Fin 3)]).begun = true
  binding : g.binding = s.streams[i].nextBinding.getD s.streams[i].binding
  blankFrom : g.blankFrom = if s.blanks[i].blank then some 0 else none
  cleared : s.blanks[i].pendingClear = true → g.historyReset = true
  counts : ∀ b : Binding, s.streams[i].nextBinding = some (some b) → t.streams[i].frames = 0 ∧ t.streams[i].consumed = 0

theorem beginFrame_begins {i : SctxId} {d : StreamDef} (hd : s.definedAs i = some d) (hp : defParent? d = none)
    (no : BitVec 16) : ∃ g, FrameBegun s (s.beginFrame i no none) i no d g := by
  unfold State.beginFrame
  extract_lets root clearing blankNow due source above parents u
  have hroot : root = i := by
    simp only [root, hd, Option.bind_some, hp]
  have hst : (u.trace 96 i.val u.streams[i].frames.toNat).streams[i] = u.streams[i] := by rw [trace_streams]
  have hself : u.streams[i] = _ := updStream_self s i _
  have hdue (t : Tick) : due t = true := rfl
  have hd' : s.streams[i].nextDefn.getD s.streams[i].defn = some d := hd
  have hclear (h : s.blanks[i].pendingClear = true) (a b : Bool) : (!a || clearing || b) = true := by
    simp only [clearing, h, Bool.true_or, Bool.or_true]
  have hblank : blankNow = s.blanks[i].blank := by
    simp only [blankNow, hroot, Bool.or_self]
  rw [hblank] at hself
  have hdn : s.streams[i].nextDefn = none ∧ s.streams[i].defn = some d ∨
      s.streams[i].nextDefn = some (some d) ∧ s.definedAs i = some d := by
    cases hn : s.streams[i].nextDefn with
    | none => exact .inl ⟨rfl, by rwa [hn] at hd'⟩
    | some o => exact .inr ⟨congrArg some (by rwa [hn] at hd'), hd⟩
  rcases hdn with ⟨hn, hdf⟩ | ⟨hn, hdf⟩
  all_goals
    cases hb : s.streams[i].nextBinding with
    | none =>
      simp only [hn, hdf, hb] at hself
      refine ⟨_, congrArg Stream.frame (hst.trans hself), rfl, rfl, rfl, rfl, rfl, rfl, ?_, rfl, fun h => hclear h _ _, ?_⟩
      · rw [hb]
        rfl
      · intro b h
        rw [hb] at h
        cases h
    | some o =>
      simp only [hn, hdf, hb, hdue, if_true] at hself
      refine ⟨_, congrArg Stream.frame (hst.trans hself), rfl, rfl, rfl, rfl, rfl, rfl, ?_, rfl, fun h => hclear h _ _, ?_⟩
      · rw [hb]
        rfl
      · intro b h
        rw [hb] at h
        cases h
        exact ⟨congrArg Stream.frames (hst.trans hself), congrArg Stream.consumed (hst.trans hself)⟩

/-- What a frame start takes from a state: what waits on each stream, what is blanked, and the count. -/
structure SameWaits (s t : State) : Prop where
  tide : t.tide = s.tide
  blanks : t.blanks = s.blanks
  defined : ∀ k : SctxId, t.definedAs k = s.definedAs k
  nextBinding : ∀ k : SctxId, t.streams[k].nextBinding = s.streams[k].nextBinding
  binding : ∀ k : SctxId, t.streams[k].binding = s.streams[k].binding

namespace SameWaits

theorem refl (s : State) : SameWaits s s := ⟨rfl, rfl, fun _ => rfl, fun _ => rfl, fun _ => rfl⟩

theorem trans {s t u : State} (h : SameWaits s t) (k : SameWaits t u) : SameWaits s u :=
  ⟨k.tide.trans h.tide, k.blanks.trans h.blanks, fun i => (k.defined i).trans (h.defined i),
    fun i => (k.nextBinding i).trans (h.nextBinding i), fun i => (k.binding i).trans (h.binding i)⟩

/-- A change of streams that is one of `f` or none on each, where `f` moves nothing that waits. -/
theorem of_streams {s t : State} {f : Stream → Stream} (ht : t.tide = s.tide) (hb : t.blanks = s.blanks)
    (hf : ∀ x, (f x).nextDefn = x.nextDefn ∧ (f x).defn = x.defn ∧ (f x).nextBinding = x.nextBinding ∧
      (f x).binding = x.binding)
    (h : ∀ k : SctxId, t.streams[k] = s.streams[k] ∨ t.streams[k] = f s.streams[k]) : SameWaits s t := by
  have hall (k : SctxId) : t.streams[k].nextDefn = s.streams[k].nextDefn ∧ t.streams[k].defn = s.streams[k].defn ∧
      t.streams[k].nextBinding = s.streams[k].nextBinding ∧ t.streams[k].binding = s.streams[k].binding := by
    rcases h k with h | h
    · rw [h]
      exact ⟨rfl, rfl, rfl, rfl⟩
    · rw [h]
      exact hf _
  refine ⟨ht, hb, fun k => ?_, fun k => ?_, fun k => ?_⟩
  · obtain ⟨hn, hd, -, -⟩ := hall k
    rw [State.definedAs, hn, hd, State.definedAs]
  · exact (hall k).2.2.1
  · exact (hall k).2.2.2

theorem foldl {α : Type} {f : State → α → State} (h : ∀ s a, SameWaits s (f s a)) (l : List α) (s : State) :
    SameWaits s (l.foldl f s) := by
  induction l generalizing s with
  | nil => exact .refl s
  | cons a l ih => exact (h s a).trans (ih _)

end SameWaits

theorem endStream_waits (now : Tick) (x : Stream) : (endStream now x).nextDefn = x.nextDefn ∧
    (endStream now x).defn = x.defn ∧ (endStream now x).nextBinding = x.nextBinding ∧
    (endStream now x).binding = x.binding := by
  unfold endStream
  split
  · exact ⟨rfl, rfl, rfl, rfl⟩
  split
  · exact ⟨rfl, rfl, rfl, rfl⟩
  · unfold endOpen
    dsimp only
    split <;> exact ⟨rfl, rfl, rfl, rfl⟩

theorem endFrame_waits (s : State) (i : SctxId) (quiet : Bool) : SameWaits s (s.endFrame i quiet) :=
  .of_streams (endFrame_tide s i quiet) ((keeps_endFrame (L := 0x22402080a10) rfl (.refl _ s) i quiet).same .blanks rfl)
    (endStream_waits s.now) (endFrame_any s i quiet)

theorem tear_waits (s : State) (i : SctxId) (bit : Nat) : SameWaits s (s.tear i bit) :=
  .of_streams (f := tearStream bit) rfl rfl (fun _ => ⟨rfl, rfl, rfl, rfl⟩) (updStream_any s i (tearStream bit))

theorem cutFrame_waits (s : State) (i : SctxId) : SameWaits s (s.cutFrame i) := by
  unfold State.cutFrame
  split
  · split
    · exact .refl s
    · exact (SameWaits.foldl (fun s j => tear_waits s j 3) _ s).trans (endFrame_waits ..)
  · exact .refl s

theorem FrameBegun.congr {s u t v : State} {i : SctxId} {no : BitVec 16} {d : StreamDef} {g : Frame}
    (h : FrameBegun u t i no d g) (hs : SameWaits s u) (ht : v.streams[i] = t.streams[i]) : FrameBegun s v i no d g where
  frame := by rw [ht, h.frame]
  start := h.start.trans (congrArg Tide.count hs.tide)
  csiFrame := h.csiFrame
  defn := h.defn
  torn := h.torn
  ended := h.ended
  begun := h.begun
  binding := by rw [h.binding, hs.nextBinding, hs.binding]
  blankFrom := by rw [h.blankFrom, hs.blanks]
  cleared hc := h.cleared (by rwa [hs.blanks])
  counts b hb := by
    rw [ht]
    exact h.counts b (by rwa [hs.nextBinding])

/-- The start of a frame on one stream, with the sessions that code it checked. -/
def startOne (no : BitVec 16) (s : State) (j : SctxId) : State := (s.beginFrame j no none).checkSources j

theorem startOne_other (no : BitVec 16) (s : State) {i j : SctxId} (h : i ≠ j) :
    (startOne no s j).streams[i] = s.streams[i] := by
  have hk : (startOne no s j).streams = (s.beginFrame j no none).streams :=
    (keeps_checkSources (L := 0x22030080210) rfl (.refl _ _) j).same .streams rfl
  rw [hk]
  unfold State.beginFrame
  extract_lets root clearing blankNow due source above parents u
  have hst : (u.trace 96 j.val u.streams[j].frames.toNat).streams[i] = u.streams[i] := by rw [trace_streams]
  exact hst.trans (updStream_other s h _)

theorem foldl_startOne_other (no : BitVec 16) (l : List SctxId) (s : State) {i : SctxId} (h : i ∉ l) :
    (l.foldl (startOne no) s).streams[i] = s.streams[i] := by
  induction l generalizing s with
  | nil => rfl
  | cons j l ih =>
    rw [List.mem_cons, not_or] at h
    exact (ih (startOne no s j) h.2).trans (startOne_other no s h.1)

theorem not_mem_startsWith {i : SctxId} {d : StreamDef} (hd : s.definedAs i = some d) (hp : defParent? d = none) :
    i ∉ s.startsWith i := by
  simp [State.startsWith, hd, hp]

theorem startFrame_begins {i : SctxId} {d : StreamDef} (hd : s.definedAs i = some d) (hp : defParent? d = none)
    (no : BitVec 16) : ∃ g, FrameBegun s (s.startFrame i no) i no d g ∧ (s.startFrame i no).blanks[i].pendingClear = false := by
  unfold State.startFrame
  extract_lets ids u v
  have hu : SameWaits s u := .foldl cutFrame_waits ids s
  obtain ⟨g, hg⟩ := beginFrame_begins ((hu.defined i).trans hd) hp no
  have hv : v.streams[i] = (u.beginFrame i no none).streams[i] := by
    have hrest := foldl_startOne_other no (s.startsWith i) (startOne no u i) (not_mem_startsWith hd hp)
    have hk : (startOne no u i).streams = (u.beginFrame i no none).streams :=
      (keeps_checkSources (L := 0x22030080210) rfl (.refl _ _) i).same .streams rfl
    rw [hk] at hrest
    exact hrest
  refine ⟨g, hg.congr hu hv, ?_⟩
  simp [ids, Blank.settle]

end

section
variable {p : PortId} {vc : Fin 32} {ecc : EccResult} {no : BitVec 16}

theorem frameStart_discards (hl : s.portListens p = true) (he : ecc = .uncorrectable) :
    exec (.csiFrameStart p vc no ecc) s = .next (s.tearFed (s.feeds p vc) 0) := by
  simp only [exec, execCsiFrameStart, hl, he, Bool.not_true, Bool.false_eq_true, if_false, if_true]

theorem frameStart_extended (hl : s.portListens p = true) (he : ecc ≠ .uncorrectable) (hv : 4 ≤ vc.val) :
    exec (.csiFrameStart p vc no ecc) s = .next (s.headerSeen p ecc) := by
  have hg : extended vc = true := decide_eq_true hv
  simp only [exec, execCsiFrameStart, hl, he, hg, Bool.not_true, Bool.false_eq_true, if_false, if_true]

section
variable (hl : s.portListens p = true) (he : ecc ≠ .uncorrectable) (hv : vc.val < 4)
include hl he hv

theorem frameStart_unknown (hn : (s.headerSeen p ecc).startsOn p vc = none) : exec (.csiFrameStart p vc no ecc) s =
    .next ((s.headerSeen p ecc).reportLimited (State.markKey 0xA008 p.val) { reason := 0xA008, severity := .information }) := by
  have hg : extended vc = false := decide_eq_false (by omega)
  simp only [exec, execCsiFrameStart, hl, he, hg, hn, Bool.not_true, Bool.false_eq_true, if_false]

theorem frameStart_first {i : SctxId} (hn : (s.headerSeen p ecc).startsOn p vc = some (i, 0)) :
    exec (.csiFrameStart p vc no ecc) s =
      .next ((((s.headerSeen p ecc).startFrame i no).updPort p ({ · with inFrame := true })).ltrUpdate) := by
  have hg : extended vc = false := decide_eq_false (by omega)
  simp only [exec, execCsiFrameStart, hl, he, hg, hn, Bool.not_true, Bool.false_eq_true, if_false, if_true]

theorem frameStart_later {i : SctxId} {e : Fin 3} (hne : e ≠ 0) (hn : (s.headerSeen p ecc).startsOn p vc = some (i, e)) :
    let u := s.headerSeen p ecc
    (u.feeds p vc = none → exec (.csiFrameStart p vc no ecc) s = .next u) ∧
    ∀ j k, u.feeds p vc = some (j, k) → exec (.csiFrameStart p vc no ecc) s =
      if (u.exposure j k).begun = true then .next (u.tearAll j 3) else .next (u.onFrame j fun _ => begunAt k) := by
  intro u
  have hg : extended vc = false := decide_eq_false (by omega)
  refine ⟨fun hf => ?_, fun j k hf => ?_⟩
  · simp only [u] at hf
    simp only [exec, execCsiFrameStart, hl, he, hg, hn, hne, hf, Bool.not_true, Bool.false_eq_true, if_false]
    rfl
  · simp only [u] at hf
    simp only [exec, execCsiFrameStart, hl, he, hg, hn, hne, hf, Bool.not_true, Bool.false_eq_true, if_false]
    rfl

end

theorem frameStart_starts (hl : s.portListens p = true) (he : ecc ≠ .uncorrectable) (hv : vc.val < 4) {i : SctxId} {d : StreamDef}
    (hn : (s.headerSeen p ecc).startsOn p vc = some (i, 0)) (hd : (s.headerSeen p ecc).definedAs i = some d) :
    ∃ t g, exec (.csiFrameStart p vc no ecc) s = .next t ∧ FrameBegun (s.headerSeen p ecc) t i no d g ∧
      t.blanks[i].pendingClear = false ∧ t.ports[p].inFrame = true := by
  obtain ⟨g, hg, hclear⟩ := startFrame_begins hd (startsOn_source hn hd) no
  have hrun := frameStart_first (no := no) hl he hv hn
  generalize (s.headerSeen p ecc).startFrame i no = v at hg hclear hrun
  refine ⟨_, g, hrun, hg.congr (.refl _) ?_, ?_, ?_⟩
  · rw [ltrUpdate_streams]
    rfl
  · rw [ltrUpdate_blanks]
    exact hclear
  · rw [ltrUpdate_ports, updPort_self]

theorem sameBut_symm {l : List Field} {s t : State} (h : s.sameBut l t) : t.sameBut l s := by
  intro f hf
  have hsame := h f hf
  cases f <;> exact Eq.symm hsame

/-- A later exposure that begins: its first line, or a frame torn by a second start. -/
theorem frameStart_exposes {u : State} {j : SctxId} {k : Fin 3} (hf : u.feeds p vc = some (j, k)) :
    ((u.onFrame j fun _ => begunAt k).exposure j k).begun = true ∧ (u.onFrame j fun _ => begunAt k).sameBut [.streams] u := by
  obtain ⟨f, hopen⟩ := feeds_open hf
  refine ⟨?_, ?_⟩
  · rw [exposure_open (onFrame_begun hopen k), begunAt, updAt_self]
  · exact sameBut_symm ((onFrame_keeps u j _).sameBut rfl)

theorem frameEnd_discards (hl : s.portListens p = true) (he : ecc = .uncorrectable) :
    exec (.csiFrameEnd p vc ecc) s = .next (s.tearFed (s.feeds p vc) 0) := by
  simp only [exec, execCsiFrameEnd, hl, he, Bool.not_true, Bool.false_eq_true, if_false, if_true]

theorem frameEnd_skips (hl : s.portListens p = true) (he : ecc ≠ .uncorrectable)
    (h : 4 ≤ vc.val ∨ (s.headerSeen p ecc).feeds p vc = none) :
    exec (.csiFrameEnd p vc ecc) s = .next (s.headerSeen p ecc) := by
  by_cases hv : 4 ≤ vc.val
  · have hg : extended vc = true := decide_eq_true hv
    simp only [exec, execCsiFrameEnd, hl, he, hg, Bool.not_true, Bool.false_eq_true, if_false, if_true]
  · have hg : extended vc = false := decide_eq_false hv
    have hf := h.resolve_left hv
    simp only [exec, execCsiFrameEnd, hl, he, hg, hf, Bool.not_true, Bool.false_eq_true, if_false]

/-! ## Errors of the PHY -/

theorem foldl_updStream_other (f : Stream → Stream) (l : List SctxId) (s : State) {k : SctxId} (h : k ∉ l) :
    (l.foldl (fun s i => s.updStream i f) s).streams[k] = s.streams[k] := by
  rw [foldl_updStream_count (fun _ => f), List.count_eq_zero_of_not_mem h]
  rfl

theorem phyError_tears (hl : s.portListens p = true) : ∃ t, exec (.csiPhyError p) s = .next t ∧
    (∀ (i : SctxId) (f : Frame), i ∈ s.streamsOfPort p → s.streams[i].frame = some f → f.ended = false →
      t.streams[i].frame = some { f with torn := f.torn ||| 0x80 }) ∧
    (∀ i : SctxId, i ∉ s.streamsOfPort p → t.streams[i] = s.streams[i]) ∧ s.sameBut [.streams] t := by
  have hrun : exec (.csiPhyError p) s = .next ((s.streamsOfPort p).foldl (fun s i => s.tear i 7) s) := by
    simp only [exec, execCsiPhyError, hl, Bool.not_true, Bool.false_eq_true, if_false]
  refine ⟨_, hrun, fun i f hi hf he => ?_, fun i hi => foldl_updStream_other (tearStream 7) _ s hi, ?_⟩
  · rw [foldl_tear _ 7 s hi, tearStream_open hf he]
    rfl
  · exact (keeps_foldl (L := 0x2000000) (.refl _ s) fun _ _ h => keeps_tear rfl h ..).sameBut rfl

end

end

/-- Settles O50: the packets of a port, by what they begin, fill, tear and end. -/
theorem framesEnterByThePorts : Obligations.FramesEnterByThePorts := by
  intro s p vc no ecc dt crcOk fifo pixels line u long
  refine ⟨fun hl => ?_, fun he => ?_, fun he => ?_, fun hl => ⟨fun he => ?_, fun he hv => ?_, fun he hv => ?_, phyError_tears hl⟩⟩
  · refine ⟨?_, ?_, ?_, ?_⟩
    · simp only [exec, execCsiFrameStart, hl, Bool.not_false, if_true]
    · simp only [long, exec, execCsiLongPacket, hl, Bool.not_false, if_true]
    · simp only [exec, execCsiFrameEnd, hl, Bool.not_false, if_true]
    · simp only [exec, execCsiPhyError, hl, Bool.not_false, if_true]
  · exact if_neg (by rw [he]; decide)
  · subst he
    exact ⟨headerSeen_counts s p, headerSeen_streams s p _⟩
  · exact ⟨frameStart_discards hl he, longPacket_discards hl he .., frameEnd_discards hl he⟩
  · exact ⟨frameStart_extended hl he hv, longPacket_skips hl he (.inl hv) .., frameEnd_skips hl he (.inl hv)⟩
  refine ⟨frameStart_unknown hl he hv, fun i d hn hd => ?_, fun i e hne hn => ?_,
    fun hdt => longPacket_skips hl he (.inr hdt) .., fun hdt => ?_, fun hf => frameEnd_skips hl he (.inr hf),
    fun i e f hf hframe => ?_⟩
  · obtain ⟨t, g, hrun, hg, hclear, hport⟩ := frameStart_starts (no := no) hl he hv hn hd
    exact ⟨t, g, hrun, hg.frame, hg.start, hg.csiFrame, hg.defn, hg.torn, hg.ended, hg.begun, hg.binding, hg.blankFrom,
      hg.cleared, hclear, hg.counts, hport, exec_frame hrun⟩
  · obtain ⟨hnone, hfeeds⟩ := frameStart_later (no := no) hl he hv hne hn
    refine ⟨hnone, fun j k hf => ⟨fun hb => ?_, fun hb => ?_⟩⟩
    · rw [hfeeds j k hf, if_pos hb]
    · obtain ⟨hbegun, hframe⟩ := frameStart_exposes hf
      refine ⟨_, ?_, hbegun, hframe⟩
      rw [hfeeds j k hf, if_neg (ne_true_of_eq_false hb)]
  · obtain ⟨hnone, hsome⟩ := longPacket_image hl he hv hdt crcOk pixels line fifo
    intro v
    refine ⟨fun hc => ?_, hnone, fun i e hf => ?_⟩
    · subst hc
      exact crcSeen_counts u p vc
    · obtain ⟨f, g, hframe, hg, hline, htorn⟩ := longPacket_takes hf crcOk pixels line fifo
      have hrun := hsome i e hf
      have hblank : u.blanked i = s.blanked i :=
        (SameDefns.of_keeps (headerSeen_keeps s p ecc) rfl rfl).blanked i
      rw [hblank] at hline
      exact ⟨_, f, g, hrun, hframe, hg, hline, htorn, exec_frame hrun⟩
  · obtain ⟨f', hopen⟩ := feeds_open hf
    obtain rfl : f' = f := Option.some.inj (hopen.frame.symm.trans hframe)
    have hdone := onFrame_done hopen e
    have hrun := frameEnd_feeds hl he hv hf hdone
    have hexpo := doneAt_expo e
    by_cases hgo : goesOn e (doneAt e f') = true
    · rw [if_pos hgo] at hrun
      refine ⟨_, doneAt e f', hrun, hdone.frame, ?_, exec_frame hrun, fun _ => ⟨hopen.ended, rfl, ?_⟩, fun hlast hall => ?_⟩
      · rw [(hexpo e f').2.2, decide_eq_true rfl, Bool.true_or]
      · exact sameBut_symm ((onFrame_keeps u i _).sameBut rfl)
      · rcases (goesOn_iff e f').1 hgo with h | ⟨k, hk, hne, hb, hd⟩
        · exact absurd hlast h
        · exact absurd (hall k hk hne hb) (ne_true_of_eq_false hd)
    · rw [if_neg hgo] at hrun
      obtain ⟨g, hg, hgexpo, hended, hat, htorn, hloss, hcount⟩ := lastEnd_spec hdone p
      have hnow : (u.onFrame i fun _ => doneAt e).now = u.now := congrArg Tide.count ((onFrame_keeps u i _).same .tide rfl)
      have hexposures : (∀ k : Fin 3, k.val < (doneAt e f').defn.exposures →
          ((doneAt e f').expo[k]).begun = true ∧ ((doneAt e f').expo[k]).lines = (doneAt e f').defn.height) ↔
          ∀ k : Fin 3, k.val < f'.defn.exposures → (f'.expo[k]).begun = true ∧ (f'.expo[k]).lines = f'.defn.height :=
        forall_congr' fun k => by
          obtain ⟨hb, hlines, -⟩ := hexpo k f'
          rw [hb, hlines]
          rfl
      have htorncount : (u.onFrame i fun _ => doneAt e).streams[i].tornCount = u.streams[i].tornCount := by
        rw [onFrame_self_of_idem (mapFrame_idem fun f hf => ⟨hf, doneAt_doneAt e f⟩)]
        rfl
      rw [hexposures] at htorn
      rw [htorncount] at hcount
      refine ⟨_, g, hrun, hg, ?_, exec_frame hrun, fun h => absurd ((goesOn_iff e f').2 h) hgo,
        fun _ _ => ⟨hended, hat.trans hnow, htorn, hloss, hcount⟩⟩
      rw [hgexpo, (hexpo e f').2.2, decide_eq_true rfl, Bool.true_or]

end Sys2Proof.Machine
end

section
/-! Recording begins and ends; replay applies, waits or stops (R409, R459–R471). -/

namespace Sys2Proof.Machine

/-- A running device that records although record was not negotiated. -/
def recordingUnnegotiated : State :=
  { State.reset with
    env := { State.reset.env with suppliesUp := true, perstLow := false }
    boot := { State.reset.boot with stage := .running }
    recorder := { State.reset.recorder with en := true } }

theorem recordEnable_unnegotiated : exec (.recordEnable 0) recordingUnnegotiated =
    .next (recordingUnnegotiated.note 0x5002 .information 0) := by
  have hw : recordingUnnegotiated.wakeSlack = recordingUnnegotiated := wakeSlack_of_awake (by decide)
  have ha : recordingUnnegotiated.answers = true := by decide
  simp only [exec, execRecordEnable, hw, ha, if_true]
  rfl

/-- Refutes O54: where the recorder runs although record is not negotiated (`recordingUnnegotiated`), a write of EN is
reported with 0x5002, while the statement has it change nothing. -/
theorem not_recordingAndReplayAdvance : ¬ Obligations.RecordingAndReplayAdvance := by
  unfold Obligations.RecordingAndReplayAdvance
  intro h
  have hw : recordingUnnegotiated.wakeSlack = recordingUnnegotiated := wakeSlack_of_awake (by decide)
  obtain ⟨⟨hanswers, -⟩, -⟩ := h recordingUnnegotiated
  obtain ⟨hen, -⟩ := hanswers (by decide)
  have hkept := (hen 0).1 (by decide)
  have hstate := exec_unique recordEnable_unnegotiated hkept
  have hheld := congrArg (fun s : State => s.fwif.log.held.length) hstate
  exact absurd hheld (by decide)

end Sys2Proof.Machine
end

section
/-! Refresh, retraining, strict mode and the hot condition (R336–R342, R349). -/

namespace Sys2Proof.Machine

/-! ### The greatest of a list of ends, and the least element -/

section
variable {α : Type} (f : α → Nat)

theorem le_foldl_max (l : List α) (t : Nat) : t ≤ l.foldl (fun e b => max e (f b)) t := by
  induction l generalizing t with
  | nil => exact Nat.le_refl t
  | cons b l ih => exact Nat.le_trans (Nat.le_max_left _ _) (ih _)

theorem le_foldl_max_of_mem {l : List α} {b : α} (h : b ∈ l) (t : Nat) :
    f b ≤ l.foldl (fun e b => max e (f b)) t := by
  induction l generalizing t with
  | nil => simp at h
  | cons c l ih =>
    rcases List.mem_cons.1 h with rfl | h
    · exact Nat.le_trans (Nat.le_max_right _ _) (le_foldl_max f l _)
    · exact ih h _

theorem foldl_max_le {l : List α} {t n : Nat} (ht : t ≤ n) (h : ∀ b ∈ l, f b ≤ n) :
    l.foldl (fun e b => max e (f b)) t ≤ n := by
  induction l generalizing t with
  | nil => exact ht
  | cons b l ih =>
    exact ih (Nat.max_le.2 ⟨ht, h b (.head _)⟩) fun c hc => h c (.tail _ hc)

theorem least_mem {l : List α} {b : α} (h : State.least f l = some b) : b ∈ l := by
  induction l generalizing b with
  | nil => simp [State.least] at h
  | cons x l ih =>
    cases hl : State.least f l with
    | none => simp_all [State.least]
    | some y =>
      have hy := ih hl
      simp only [State.least, hl] at h
      split at h
      · exact Option.some.inj h ▸ .tail _ hy
      · exact Option.some.inj h ▸ .head _

theorem least_exists {l : List α} (h : l ≠ []) : ∃ b, State.least f l = some b := by
  cases l with
  | nil => exact absurd rfl h
  | cons x l =>
    cases hl : State.least f l with
    | none => exact ⟨x, by simp only [State.least, hl]⟩
    | some y => exact ⟨if f y < f x then y else x, by simp only [State.least, hl]; split <;> rfl⟩

end

/-! ### The window of a bank -/

/-- The count at which a bank's refresh window ends. -/
def windowEnd (x : Channel) (b : BankId) : Nat := x.windows[b].toNat + refreshTicks

/-- The other banks of a channel that refresh at a count. -/
def busyAt (x : Channel) (bank : BankId) (t : Nat) : List BankId :=
  x.refreshing.filter fun b => b ≠ bank && t < windowEnd x b

/-- The count at which a window that falls due begins. -/
def windowStart (hot : Bool) (x : Channel) (bank : BankId) (due : Nat) : Nat :=
  if (busyAt x bank due).length < (if hot then 2 else 1) then due
  else if hot then match State.least (windowEnd x) (busyAt x bank due) with
    | some b => windowEnd x b
    | none => due
  else (busyAt x bank due).foldl (fun t b => max t (windowEnd x b)) due

section
variable {x : Channel} {bank : BankId} {due : Nat} {hot : Bool}

theorem mem_busyAt {t : Nat} {b : BankId} :
    b ∈ busyAt x bank t ↔ b ∈ x.refreshing ∧ b ≠ bank ∧ t < windowEnd x b := by
  simp [busyAt]

theorem windowStart_of_room (h : (busyAt x bank due).length < if hot then 2 else 1) :
    windowStart hot x bank due = due :=
  if_pos h

/-- While hot a window that finds no room begins as one in progress ends. -/
theorem windowStart_of_full_hot (h : ¬ (busyAt x bank due).length < 2) :
    ∃ b ∈ busyAt x bank due, windowStart true x bank due = windowEnd x b := by
  have hne : busyAt x bank due ≠ [] := by
    intro hnil
    exact h (by rw [hnil]; decide)
  obtain ⟨b, hb⟩ := least_exists (windowEnd x) hne
  refine ⟨b, least_mem _ hb, ?_⟩
  unfold windowStart
  rw [if_neg (by exact h), if_pos rfl, hb]

/-- Where it is not hot a window begins after all in progress. -/
theorem windowStart_of_full_cool (h : ¬ (busyAt x bank due).length < 1) :
    windowStart false x bank due = (busyAt x bank due).foldl (fun t b => max t (windowEnd x b)) due :=
  if_neg (by exact h)

theorem windowStart_cases (hot : Bool) (x : Channel) (bank : BankId) (due : Nat) :
    windowStart hot x bank due = due ∨ (∃ b ∈ busyAt x bank due, windowStart hot x bank due = windowEnd x b) ∨
      windowStart hot x bank due = (busyAt x bank due).foldl (fun t b => max t (windowEnd x b)) due := by
  by_cases hroom : (busyAt x bank due).length < if hot then 2 else 1
  · exact .inl (windowStart_of_room hroom)
  · cases hot with
    | false => exact .inr (.inr (windowStart_of_full_cool hroom))
    | true => exact .inr (.inl (windowStart_of_full_hot hroom))

theorem due_le_windowStart (hot : Bool) (x : Channel) (bank : BankId) (due : Nat) : due ≤ windowStart hot x bank due := by
  rcases windowStart_cases hot x bank due with h | ⟨b, hb, h⟩ | h
  · exact Nat.le_of_eq h.symm
  · exact h ▸ Nat.le_of_lt (mem_busyAt.1 hb).2.2
  · exact h ▸ le_foldl_max _ _ _

/-- With every other window ended, the window begins when it falls due. -/
theorem windowStart_of_ended (h : ∀ b ∈ x.refreshing, b ≠ bank → windowEnd x b ≤ due) :
    windowStart hot x bank due = due := by
  have hnone : busyAt x bank due = [] := by
    refine List.eq_nil_iff_forall_not_mem.2 fun b hb => ?_
    obtain ⟨hr, hne, hlt⟩ := mem_busyAt.1 hb
    exact Nat.not_lt.2 (h b hr hne) hlt
  rw [windowStart, hnone]
  exact if_pos (by cases hot <;> decide)

/-- One bank at a time: where it is not hot no other bank refreshes when the window begins. -/
theorem busyAt_windowStart_of_cool : busyAt x bank (windowStart false x bank due) = [] := by
  refine List.eq_nil_iff_forall_not_mem.2 fun b hb => ?_
  obtain ⟨hr, hne, hlt⟩ := mem_busyAt.1 hb
  have hstill : b ∈ busyAt x bank due :=
    mem_busyAt.2 ⟨hr, hne, Nat.lt_of_le_of_lt (due_le_windowStart _ _ _ _) hlt⟩
  have hends : windowEnd x b ≤ windowStart false x bank due := by
    have hpos := List.length_pos_of_mem hstill
    rw [windowStart_of_full_cool (Nat.not_lt.2 hpos)]
    exact le_foldl_max_of_mem _ hstill _
  exact Nat.not_lt.2 hends hlt

/-- While hot at most one other bank refreshes when the window begins. -/
theorem length_busyAt_windowStart (h : x.refreshing.length ≤ 2) :
    (busyAt x bank (windowStart true x bank due)).length ≤ 1 := by
  have hall : (busyAt x bank due).length ≤ 2 := Nat.le_trans (List.length_filter_le _ _) h
  by_cases hroom : (busyAt x bank due).length < 2
  · rw [windowStart_of_room (hot := true) hroom]
    exact Nat.le_of_lt_succ hroom
  · obtain ⟨b, hb, hstart⟩ := windowStart_of_full_hot hroom
    rw [hstart]
    have hsmaller : (busyAt x bank (windowEnd x b)).length < x.refreshing.length := by
      refine List.length_filter_lt_length_iff_exists.2 ⟨b, (mem_busyAt.1 hb).1, ?_⟩
      simp
    omega

theorem windowStart_le {n : Nat} (hdue : due ≤ n) (h : ∀ b : BankId, windowEnd x b ≤ n) :
    windowStart hot x bank due ≤ n := by
  rcases windowStart_cases hot x bank due with hs | ⟨b, -, hs⟩ | hs
  · rwa [hs]
  · rw [hs]
    exact h b
  · rw [hs]
    exact foldl_max_le _ hdue fun b _ => h b

end

theorem sameBut_swap {s t : State} {f g : Field} (h : s.sameBut [f, g] t) : s.sameBut [g, f] t :=
  fun k hk => h k fun hm => hk (by simpa [or_comm] using hm)

/-- A channel of which a bank's window begins at a count. -/
def withWindow (hot : Bool) (x : Channel) (bank : BankId) (start : Nat) : Channel :=
  { x with
    windows := x.windows.set bank.val (BitVec.ofNat 64 start)
    hotBanks := (if hot then [bank] else []) ++ x.hotBanks.filter (· ≠ bank)
    refreshing := bank :: busyAt x bank start }

/-- The count at which a bank's window falls due. -/
def windowDue (s : State) (ch : ChanId) (bank : BankId) : Nat :=
  max s.now.toNat (s.memctl.chans[ch].windows[bank].toNat +
    refreshInterval (s.memctl.chans[ch].hotBanks.contains bank))

section
variable {s : State} {ch : ChanId} {bank : BankId}

theorem advanceTo_memctl (s : State) (t : Tick) : (s.advanceTo t).memctl = s.memctl := by
  rw [advanceTo_eq]

theorem advanceTo_now {t : Tick} (h : s.now.toNat ≤ t.toNat) : (s.advanceTo t).now = t := by
  rw [advanceTo_eq]
  show (if s.now.toNat < t.toNat then t else s.now) = t
  split
  · rfl
  next hn => exact BitVec.eq_of_toNat_eq (Nat.le_antisymm h (Nat.le_of_not_lt hn))

theorem exec_refreshWindow (hup : s.memoryUp = true) (hh : s.memhost.hidden = false)
    (hp : s.memctl.chans[ch].paused = false) (hr : s.memctl.chans[ch].retraining = false) :
    ∃ t, exec (.refreshWindow ch bank) s = .next t ∧
      t.memctl.chans[ch] = withWindow s.memctl.hot s.memctl.chans[ch] bank
        (windowStart s.memctl.hot s.memctl.chans[ch] bank (windowDue s ch bank)) ∧
      t.now = (s.advanceTo (BitVec.ofNat 64
        (windowStart s.memctl.hot s.memctl.chans[ch] bank (windowDue s ch bank)))).now := by
  refine ⟨((s.advanceTo (BitVec.ofNat 64
        (windowStart s.memctl.hot s.memctl.chans[ch] bank (windowDue s ch bank)))).updChan ch fun x => { x with
      windows := x.windows.set bank.val (BitVec.ofNat 64
        (windowStart s.memctl.hot s.memctl.chans[ch] bank (windowDue s ch bank)))
      hotBanks := (if s.memctl.hot then [bank] else []) ++ x.hotBanks.filter (· ≠ bank)
      refreshing := bank :: busyAt s.memctl.chans[ch] bank
        (windowStart s.memctl.hot s.memctl.chans[ch] bank (windowDue s ch bank)) }), ?_, ?_, rfl⟩
  · simp only [exec, execRefreshWindow, hup, hh, hp, hr, Bool.not_true, Bool.or_self, Bool.false_eq_true, if_false]
    rw [advanceTo_memctl]
    rfl
  · refine (updAt_self _ _ _).trans ?_
    rw [advanceTo_memctl]
    rfl

theorem exec_refreshWindow_idle (h : s.memoryUp = false ∨ s.memhost.hidden = true ∨
    s.memctl.chans[ch].paused = true ∨ s.memctl.chans[ch].retraining = true) :
    exec (.refreshWindow ch bank) s = .next s :=
  if_pos (by rcases h with h | h | h | h <;> simp_all)

theorem windowDue_eq : windowDue s ch bank = max s.now.toNat (s.memctl.chans[ch].windows[bank].toNat +
    if bank ∈ s.memctl.chans[ch].hotBanks then 487 else 975) := by
  unfold windowDue refreshInterval
  simp only [List.contains_iff_mem]

/-! ### Retraining -/

theorem retrainAt_spec (n : Nat) (ch : ChanId) :
    n ≤ retrainAt n ch ∧ retrainAt n ch < n + 4_000_000 ∧ retrainAt n ch % 4_000_000 = ch.val % 16 * 250_000 := by
  have hms : State.msTicks = 250_000 := rfl
  unfold retrainAt
  rw [hms]
  dsimp only
  split <;> omega

theorem exec_periodicRetrain (hup : s.memoryUp = true) (hp : s.memctl.chans[ch].paused = false)
    (hr : s.memctl.chans[ch].retraining = false) :
    exec (.periodicRetrain ch) s = .next
      (((s.advanceTo (BitVec.ofNat 64 (s.betweenWindows s.memctl.chans[ch] (s.retrainSlot ch)))).updChan ch fun x =>
        { x with paused := true, refreshing := [], retrainFrom := s.retrainSlot ch + 1 }).enterStrict ch
          .periodic false) := by
  simp only [exec, execPeriodicRetrain, hup, hp, hr, Bool.not_true, Bool.or_self, Bool.false_eq_true, if_false]

theorem exec_periodicRetrain_idle (h : s.memoryUp = false ∨ s.memctl.chans[ch].paused = true ∨
    s.memctl.chans[ch].retraining = true) : exec (.periodicRetrain ch) s = .next s :=
  if_pos (by rcases h with h | h | h <;> simp_all)

theorem slot_le_betweenWindows (s : State) (x : Channel) (t : Nat) : t ≤ s.betweenWindows x t := by
  unfold State.betweenWindows
  split
  · exact Nat.le_refl t
  · exact le_foldl_max _ _ _

theorem betweenWindows_of_ended {x : Channel} {t : Nat}
    (h : s.memhost.hidden = true ∨ ∀ b ∈ x.refreshing, windowEnd x b ≤ t) : s.betweenWindows x t = t := by
  refine Nat.le_antisymm ?_ (slot_le_betweenWindows s x t)
  unfold State.betweenWindows
  split
  · exact Nat.le_refl t
  next hh => exact foldl_max_le _ (Nat.le_refl t) (h.resolve_left hh)

theorem windowEnd_le_betweenWindows {x : Channel} {t : Nat} (hh : s.memhost.hidden = false) {b : BankId}
    (hb : b ∈ x.refreshing) : windowEnd x b ≤ s.betweenWindows x t := by
  rw [State.betweenWindows, if_neg (by simp [hh])]
  exact le_foldl_max_of_mem (fun b => windowEnd x b) hb t

theorem betweenWindows_le {x : Channel} {t n : Nat} (ht : t ≤ n) (h : ∀ b : BankId, windowEnd x b ≤ n) :
    s.betweenWindows x t ≤ n := by
  unfold State.betweenWindows
  split
  · exact ht
  · exact foldl_max_le _ ht fun b _ => h b

/-- A channel's strict causes and nothing else of it. -/
theorem enterStrict_chan (s : State) (ch : ChanId) (c : StrictCause) (marked : Bool) :
    (s.enterStrict ch c marked).memctl.chans[ch] = { s.memctl.chans[ch] with
      strict := if s.memctl.chans[ch].strict.contains c then s.memctl.chans[ch].strict
        else c :: s.memctl.chans[ch].strict } := by
  unfold State.enterStrict
  by_cases h : (s.memctl.chans[ch]).strict.contains c = true
  · rw [if_pos h, if_pos h]
  · rw [if_neg h, if_neg h]
    cases marked with
    | false => exact updAt_self _ _ _
    | true =>
      rw [if_pos rfl]
      dsimp only
      rw [note_memctl]
      exact updAt_self _ _ _

theorem enterStrict_chan_other {d : ChanId} (hd : d ≠ ch) (s : State) (c : StrictCause) :
    (s.enterStrict ch c false).memctl.chans[d] = s.memctl.chans[d] := by
  unfold State.enterStrict
  split
  · rfl
  · exact updAt_other _ _ hd

theorem mem_strict_enterStrict (s : State) (ch : ChanId) (c : StrictCause) (marked : Bool) (e : StrictCause) :
    e ∈ (s.enterStrict ch c marked).memctl.chans[ch].strict ↔ e = c ∨ e ∈ s.memctl.chans[ch].strict := by
  rw [enterStrict_chan]
  by_cases h : c ∈ s.memctl.chans[ch].strict
  · have hin := h
    simp only [List.contains_iff_mem, h, if_true]
    exact ⟨.inr, fun he => he.elim (fun heq => heq ▸ hin) id⟩
  · simp only [List.contains_iff_mem, h, if_false, List.mem_cons]

theorem enterStrict_now (s : State) (ch : ChanId) (c : StrictCause) (marked : Bool) :
    (s.enterStrict ch c marked).now = s.now :=
  congrArg Tide.count ((keeps_enterStrict (L := 0x22000280210) rfl (.refl _ s) ch c marked).same .tide rfl)

theorem leaveStrict_chan (s : State) (ch : ChanId) (c : StrictCause) :
    (s.leaveStrict ch c).memctl.chans[ch] = { s.memctl.chans[ch] with
      strict := s.memctl.chans[ch].strict.filter (· ≠ c) } :=
  updAt_self _ _ _

theorem leaveStrict_now (s : State) (ch : ChanId) (c : StrictCause) : (s.leaveStrict ch c).now = s.now := rfl

theorem leaveStrict_chan_other {d : ChanId} (hd : d ≠ ch) (s : State) (c : StrictCause) :
    (s.leaveStrict ch c).memctl.chans[d] = s.memctl.chans[d] :=
  updAt_other _ _ hd

theorem mem_strict_leaveStrict (s : State) (ch : ChanId) (c e : StrictCause) :
    e ∈ (s.leaveStrict ch c).memctl.chans[ch].strict ↔ e ∈ s.memctl.chans[ch].strict ∧ e ≠ c := by
  rw [leaveStrict_chan]
  simp

/-- Full field retraining as it begins in a channel that is not in it. -/
theorem startFieldRetrain_chan (h : s.memctl.chans[ch].retraining = false) :
    (s.startFieldRetrain ch).memctl.chans[ch] = { s.memctl.chans[ch] with
      retraining := true, attempts := 0, retried := none, failedPeriods := 0
      strict := if s.memctl.chans[ch].strict.contains .fullRetrain then s.memctl.chans[ch].strict
        else .fullRetrain :: s.memctl.chans[ch].strict } := by
  rw [State.startFieldRetrain, if_neg (Bool.eq_false_iff.1 h), enterStrict_chan]
  rw [State.updChan_memctl, updAt_self]

theorem mem_strict_startFieldRetrain (h : s.memctl.chans[ch].retraining = false) (e : StrictCause) :
    e ∈ (s.startFieldRetrain ch).memctl.chans[ch].strict ↔
      e = .fullRetrain ∨ e ∈ s.memctl.chans[ch].strict := by
  rw [State.startFieldRetrain, if_neg (Bool.eq_false_iff.1 h), mem_strict_enterStrict, State.updChan_memctl, updAt_self]

theorem lost_of_memoryUp (h : s.memoryUp = true) : s.lost = false := by
  unfold State.memoryUp at h
  simp_all

theorem startFieldRetrain_of_retraining (h : s.memctl.chans[ch].retraining = true) : s.startFieldRetrain ch = s :=
  if_pos h

theorem releaseHeld_of_none (hf : s.env.heldFunctionReset = none) (hd : s.env.heldDeviceReset = false)
    (h3 : s.env.heldD3hot = false) : s.releaseHeld = s := by
  rw [State.releaseHeld, releaseHeldReset_of_none hf hd]
  simp [h3]

/-- A channel after a pause for retraining that found a passing point or none. -/
def pauseEnded (x : Channel) (found : Bool) (drift : BitVec 8) (points : Vector (Nat × Nat) 8) : Channel :=
  { x with
    strict := x.strict.filter (· ≠ StrictCause.periodic)
    paused := false
    drift := if found then drift else x.drift
    wires := if found then .ofFn fun w => { x.wires[w] with phase := points[w].1, reference := points[w].2 } else x.wires
    failedPeriods := if found then 0 else x.failedPeriods + 1 }

/-- A state in which a channel's pause has ended. -/
def State.endPause (s : State) (ch : ChanId) (found : Bool) (drift : BitVec 8) (points : Vector (Nat × Nat) 8) : State :=
  s.updChan ch fun x => pauseEnded x found drift points

theorem endPause_chan (found : Bool) (drift : BitVec 8) (points : Vector (Nat × Nat) 8) :
    (s.endPause ch found drift points).memctl.chans[ch] = pauseEnded s.memctl.chans[ch] found drift points :=
  updAt_self _ _ _

theorem updChan_updChan (s : State) (ch : ChanId) (f g : Channel → Channel) :
    (s.updChan ch f).updChan ch g = s.updChan ch fun x => g (f x) := by
  simp [State.updChan, updAt]

theorem exec_periodicRetrainEnd (hup : s.memoryUp = true) (hp : s.memctl.chans[ch].paused = true)
    (found : Bool) (drift : BitVec 8) (points : Vector (Nat × Nat) 8) :
    exec (.periodicRetrainEnd ch found drift points) s = .next
      (if !found && s.memctl.chans[ch].failedPeriods + 1 = 3 then
        (s.endPause ch found drift points).startFieldRetrain ch
      else (s.endPause ch found drift points).releaseHeld) := by
  have hends : (s.leaveStrict ch .periodic).updChan ch (fun x => { x with
      paused := false
      drift := if found then drift else x.drift
      wires := if found then .ofFn fun w => { x.wires[w] with phase := points[w].1, reference := points[w].2 } else x.wires
      failedPeriods := if found then 0 else x.failedPeriods + 1 }) = s.endPause ch found drift points :=
    updChan_updChan s ch _ _
  simp only [exec, execPeriodicRetrainEnd, hup, hp, Bool.not_true, Bool.or_self, Bool.false_eq_true, if_false, hends]
  split <;> rfl

theorem exec_periodicRetrainEnd_idle {found : Bool} {drift : BitVec 8} {points : Vector (Nat × Nat) 8}
    (h : s.memoryUp = false ∨ s.memctl.chans[ch].paused = false) :
    exec (.periodicRetrainEnd ch found drift points) s = .next s :=
  if_pos (by rcases h with h | h <;> simp_all)

/-- A channel after full field retraining. -/
def retrained (x : Channel) (ok : Bool) (values : Vector WireTraining 8) : Channel :=
  { x with
    strict := x.strict.filter (· ≠ StrictCause.fullRetrain)
    retraining := false
    wires := if ok then values else x.wires
    fullRetrains := satInc x.fullRetrains }

theorem exec_fullFieldRetrainDone (hup : s.memoryUp = true) (hr : s.memctl.chans[ch].retraining = true)
    (ok : Bool) (values : Vector WireTraining 8) :
    exec (.fullFieldRetrainDone ch ok values) s = .next
      (if ok then ((s.updChan ch fun x => retrained x ok values).note 0x9006 .corrected 0).releaseHeld
      else (s.updChan ch fun x => retrained x ok values).loseDevice 0x9002) := by
  have hends : (s.updChan ch (fun x => { x with
      retraining := false, wires := if ok then values else x.wires, fullRetrains := satInc x.fullRetrains })).leaveStrict
        ch .fullRetrain = s.updChan ch fun x => retrained x ok values :=
    updChan_updChan s ch _ _
  simp only [exec, execFullFieldRetrainDone, hup, hr, Bool.not_true, Bool.or_self, Bool.false_eq_true, if_false, hends]
  split <;> rfl

theorem exec_fullFieldRetrainDone_idle {ok : Bool} {values : Vector WireTraining 8}
    (h : s.memoryUp = false ∨ s.memctl.chans[ch].retraining = false) :
    exec (.fullFieldRetrainDone ch ok values) s = .next s :=
  if_pos (by rcases h with h | h <;> simp_all)

theorem sendAer_memctl (s : State) (k : AerKind) : (s.sendAer k).memctl = s.memctl :=
  (keeps_sendAer (L := 0x20000000020) rfl (.refl _ s) k).same .memctl rfl

theorem countFault_memctl (s : State) (sev : Severity) : (s.countFault sev).memctl = s.memctl :=
  (keeps_countFault (L := 0x2000000000) rfl (.refl _ s) sev).same .memctl rfl

/-- A loss leaves the channels. -/
theorem declareLost_chans (s : State) (cause : BitVec 16) : (s.declareLost cause).memctl.chans = s.memctl.chans := by
  unfold State.declareLost
  split
  · rfl
  · dsimp only
    rw [sendAer_memctl]
    dsimp only
    rw [countFault_memctl]

/-- A loss where no reset is held is the declaration alone. -/
theorem loseDevice_of_none (h : s.lost = false) (hf : s.env.heldFunctionReset = none)
    (hd : s.env.heldDeviceReset = false) (cause : BitVec 16) : s.loseDevice cause = s.declareLost cause := by
  have henv := declareLost_env h cause
  rw [State.loseDevice, if_neg (Bool.eq_false_iff.1 h)]
  exact releaseHeldReset_of_none (by rw [henv]; exact hf) (by rw [henv]; exact hd)

theorem exec_strictRecoveryExit (hup : s.memoryUp = true) (hs : StrictCause.uncorrectable ∈ s.memctl.chans[ch].strict) :
    exec (.strictRecoveryExit ch) s = .next ((s.advanceTo (s.memctl.chans[ch].lastUncorr + 250_000)).leaveStrict ch
      .uncorrectable) := by
  have hc : s.memctl.chans[ch].strict.contains .uncorrectable = true := List.contains_iff_mem.2 hs
  exact if_neg (by simp only [hup, hc]; decide)

theorem exec_strictRecoveryExit_idle
    (h : s.memoryUp = false ∨ StrictCause.uncorrectable ∉ s.memctl.chans[ch].strict) :
    exec (.strictRecoveryExit ch) s = .next s := by
  have hc : (!s.memoryUp || !(s.memctl.chans[ch].strict.contains StrictCause.uncorrectable)) = true := by
    rcases h with h | h
    · simp only [h, Bool.not_false, Bool.true_or]
    · rw [Bool.eq_false_iff.2 (fun hc => h (List.contains_iff_mem.1 hc)), Bool.not_false, Bool.or_true]
  exact if_pos hc

end

/-! ### Strict mode as written, and the hot condition -/

section
variable {s : State}

theorem foldl_enterStrict_other {l : List ChanId} {c : ChanId} (h : c ∉ l) (s : State) (e : StrictCause) :
    (l.foldl (fun s c => s.enterStrict c e false) s).memctl.chans[c] = s.memctl.chans[c] := by
  induction l generalizing s with
  | nil => rfl
  | cons d l ih =>
    obtain ⟨hd, hl⟩ := not_or.1 (mt List.mem_cons.2 h)
    exact (ih hl _).trans (enterStrict_chan_other hd s e)

theorem mem_foldl_enterStrict {l : List ChanId} {c : ChanId} (h : c ∈ l) (s : State) (e : StrictCause) :
    e ∈ (l.foldl (fun s c => s.enterStrict c e false) s).memctl.chans[c].strict := by
  induction l generalizing s with
  | nil => simp at h
  | cons d l ih =>
    by_cases hl : c ∈ l
    · exact ih hl _
    · obtain rfl := (List.mem_cons.1 h).resolve_right hl
      rw [List.foldl_cons, foldl_enterStrict_other hl]
      exact (mem_strict_enterStrict s c e false e).2 (.inl rfl)

theorem foldl_leaveStrict_other {l : List ChanId} {c : ChanId} (h : c ∉ l) (s : State) (e : StrictCause) :
    (l.foldl (fun s c => s.leaveStrict c e) s).memctl.chans[c] = s.memctl.chans[c] := by
  induction l generalizing s with
  | nil => rfl
  | cons d l ih =>
    obtain ⟨hd, hl⟩ := not_or.1 (mt List.mem_cons.2 h)
    exact (ih hl _).trans (leaveStrict_chan_other hd s e)

theorem not_mem_foldl_leaveStrict {l : List ChanId} {c : ChanId} (h : c ∈ l) (s : State) (e : StrictCause) :
    e ∉ (l.foldl (fun s c => s.leaveStrict c e) s).memctl.chans[c].strict := by
  induction l generalizing s with
  | nil => simp at h
  | cons d l ih =>
    by_cases hl : c ∈ l
    · exact ih hl _
    · obtain rfl := (List.mem_cons.1 h).resolve_right hl
      rw [List.foldl_cons, foldl_leaveStrict_other hl]
      exact fun hm => ((mem_strict_leaveStrict s c e e).1 hm).2 rfl

theorem writeStrict_spec {u : State} {b : Bool} (h : b ≠ u.memhost.strict) :
    (u.writeStrict b).memhost.strict = b ∧
      ∀ c : ChanId, StrictCause.host ∈ (u.writeStrict b).memctl.chans[c].strict ↔ b = true := by
  have hall : ∀ c : ChanId, c ∈ List.finRange 32 := List.mem_finRange
  rw [State.writeStrict, if_neg h]
  generalize List.finRange 32 = l at *
  cases b with
  | false =>
    refine ⟨?_, fun c => iff_of_false (not_mem_foldl_leaveStrict (hall c) _ _) Bool.false_ne_true⟩
    exact congrArg MemHost.strict ((keeps_foldl (.refl _ _) fun _ _ h =>
      keeps_leaveStrict (L := 0x200000) rfl h _ _).same .memhost rfl)
  | true =>
    rw [if_pos rfl]
    dsimp only
    rw [note_memctl, note_memhost]
    refine ⟨?_, fun c => iff_of_true (mem_foldl_enterStrict (hall c) _ _) rfl⟩
    exact congrArg MemHost.strict ((keeps_foldl (.refl _ _) fun _ _ h =>
      keeps_enterStrict (L := 0x22000280210) rfl h _ _ _).same .memhost rfl)

theorem exec_memctlStrictWrite {u : State} (hu : s.wakeSlack = u) (b : Bool) :
    exec (.memctlStrictWrite b) s = .next (if u.answers then u.writeStrict b else u) := by
  show (if s.wakeSlack.answers then _ else _) = _
  rw [hu]
  split <;> rfl

theorem exec_memctlHiddenWrite {u : State} (hu : s.wakeSlack = u) (b : Bool) :
    exec (.memctlHiddenWrite b) s =
      .next (if u.answers then { u with memhost := { u.memhost with hidden := b } } else u) := by
  show (if s.wakeSlack.answers then _ else _) = _
  rw [hu]
  split <;> rfl

theorem exec_hotSet (h1 : s.env.suppliesUp = true) (h2 : s.lost = false) (h3 : s.memctl.hot = false) {reading : Int}
    (h4 : 85 < reading) : exec (.hotSet reading) s =
      .next ({ s with memctl := { s.memctl with hot := true } }.note 0x9007 .information 0) :=
  if_pos (by simp [h1, h2, h3, h4])

theorem exec_hotClear (h1 : s.env.suppliesUp = true) (h2 : s.lost = false) (h3 : s.memctl.hot = true) {reading : Int}
    (h4 : reading ≤ 82) : exec (.hotClear reading) s =
      .next ({ s with memctl := { s.memctl with hot := false } }.note 0x9007 .information 0) :=
  if_pos (by simp [h1, h2, h3, h4])

theorem exec_hotSet_idle {reading : Int}
    (h : s.env.suppliesUp = false ∨ s.lost = true ∨ s.memctl.hot = true ∨ reading ≤ 85) :
    exec (.hotSet reading) s = .next s :=
  if_neg (by rcases h with h | h | h | h <;> simp [h])

theorem exec_hotClear_idle {reading : Int}
    (h : s.env.suppliesUp = false ∨ s.lost = true ∨ s.memctl.hot = false ∨ 82 < reading) :
    exec (.hotClear reading) s = .next s :=
  if_neg (by rcases h with h | h | h | h <;> simp [h])

end

/-! ### The clauses -/

section
variable {s : State} {ch : ChanId}

/-- R337, R339: the window a bank gets. -/
theorem refreshWindow_spec {bank : BankId} (hup : s.memoryUp = true) (hh : s.memhost.hidden = false)
    (hp : s.memctl.chans[ch].paused = false) (hr : s.memctl.chans[ch].retraining = false)
    (hnow : s.now.toNat < 2 ^ 62) (hwin : ∀ b : BankId, s.memctl.chans[ch].windows[b].toNat < 2 ^ 62) :
    ∃ t start, exec (.refreshWindow ch bank) s = .next t ∧
      start = windowStart s.memctl.hot s.memctl.chans[ch] bank (windowDue s ch bank) ∧
      t.memctl.chans[ch] = withWindow s.memctl.hot s.memctl.chans[ch] bank start ∧
      t.memctl.chans[ch].windows[bank].toNat = start ∧ t.now = t.memctl.chans[ch].windows[bank] := by
  obtain ⟨t, ht, hchan, htide⟩ := exec_refreshWindow (bank := bank) hup hh hp hr
  refine ⟨t, _, ht, rfl, hchan, ?_⟩
  have hdue : windowDue s ch bank ≤ 2 ^ 63 := by
    have hb := hwin bank
    rw [windowDue_eq]
    split <;> omega
  have hstart : windowStart s.memctl.hot s.memctl.chans[ch] bank (windowDue s ch bank) < 2 ^ 64 := by
    refine Nat.lt_of_le_of_lt (windowStart_le (n := 2 ^ 63) hdue fun b => ?_) (by decide)
    have hb := hwin b
    have hlen : refreshTicks = 33 := rfl
    unfold windowEnd
    omega
  have hge : s.now.toNat ≤ windowStart s.memctl.hot s.memctl.chans[ch] bank (windowDue s ch bank) :=
    Nat.le_trans (Nat.le_max_left _ _) (due_le_windowStart _ _ _ _)
  generalize windowStart s.memctl.hot s.memctl.chans[ch] bank (windowDue s ch bank) = start at *
  have hnat : (BitVec.ofNat 64 start).toNat = start := Nat.mod_eq_of_lt hstart
  have hset : t.memctl.chans[ch].windows[bank] = BitVec.ofNat 64 start := by
    rw [hchan]
    exact Vector.getElem_set_self _
  rw [hset, hnat, htide]
  exact ⟨rfl, advanceTo_now (by rw [hnat]; exact hge)⟩

theorem withWindow_other {x : Channel} {bank b : BankId} (h : b ≠ bank) (hot : Bool) (start : Nat) :
    (withWindow hot x bank start).windows[b] = x.windows[b] :=
  Vector.getElem_set_ne bank.isLt b.isLt fun hv => h (Fin.ext hv.symm)

theorem mem_hotBanks_withWindow {x : Channel} {bank : BankId} (hot : Bool) (start : Nat) :
    bank ∈ (withWindow hot x bank start).hotBanks ↔ hot = true := by
  cases hot <;> simp [withWindow]

/-- R341, R349: the pause of a channel's slot. -/
theorem periodicRetrain_spec (hup : s.memoryUp = true) (hp : s.memctl.chans[ch].paused = false)
    (hr : s.memctl.chans[ch].retraining = false) (hnow : s.now.toNat < 2 ^ 62)
    (hfrom : s.memctl.chans[ch].retrainFrom < 2 ^ 62)
    (hwin : ∀ b : BankId, s.memctl.chans[ch].windows[b].toNat < 2 ^ 62) :
    ∃ t, exec (.periodicRetrain ch) s = .next t ∧
      t.memctl.chans[ch].paused = true ∧ t.memctl.chans[ch].refreshing = [] ∧
      StrictCause.periodic ∈ t.memctl.chans[ch].strict ∧ t.memctl.chans[ch].retrainFrom = s.retrainSlot ch + 1 ∧
      t.now.toNat = s.betweenWindows s.memctl.chans[ch] (s.retrainSlot ch) := by
  obtain ⟨hge, hlt, -⟩ := retrainAt_spec (max s.now.toNat s.memctl.chans[ch].retrainFrom) ch
  have hslot : s.retrainSlot ch ≤ 2 ^ 63 := by unfold State.retrainSlot; omega
  have hlow : s.now.toNat ≤ s.betweenWindows s.memctl.chans[ch] (s.retrainSlot ch) :=
    Nat.le_trans (Nat.le_trans (Nat.le_max_left _ _) hge) (slot_le_betweenWindows _ _ _)
  have hhigh : s.betweenWindows s.memctl.chans[ch] (s.retrainSlot ch) < 2 ^ 64 := by
    refine Nat.lt_of_le_of_lt (betweenWindows_le (n := 2 ^ 63) hslot fun b => ?_) (by decide)
    have hb := hwin b
    have hlen : refreshTicks = 33 := rfl
    unfold windowEnd
    omega
  refine ⟨_, exec_periodicRetrain hup hp hr, ?_⟩
  generalize s.betweenWindows s.memctl.chans[ch] (s.retrainSlot ch) = at' at *
  have hnat : (BitVec.ofNat 64 at').toNat = at' := Nat.mod_eq_of_lt hhigh
  refine ⟨?_, ?_, (mem_strict_enterStrict _ _ _ _ _).2 (.inl rfl), ?_, ?_⟩
  · rw [enterStrict_chan, State.updChan_memctl, updAt_self]
  · rw [enterStrict_chan, State.updChan_memctl, updAt_self]
  · rw [enterStrict_chan, State.updChan_memctl, updAt_self]
  · rw [enterStrict_now]
    show (s.advanceTo (BitVec.ofNat 64 at')).now.toNat = at'
    rw [advanceTo_now (by rw [hnat]; exact hlow), hnat]

/-- What the end of a pause leaves of its channel. -/
structure PauseEnded (x y : Channel) (found : Bool) (drift : BitVec 8) (points : Vector (Nat × Nat) 8) : Prop where
  paused : y.paused = false
  strict : StrictCause.periodic ∉ y.strict
  passing : found = true → y.drift = drift ∧ y.failedPeriods = 0
  wires : ∀ w : Fin 8, y.wires[w] = if found then { x.wires[w] with
    phase := points[w].1, reference := points[w].2 } else x.wires[w]
  drift : found = false → y.drift = x.drift
  failing : found = false → x.failedPeriods + 1 ≠ 3 → y.failedPeriods = x.failedPeriods + 1
  third : found = false → x.failedPeriods + 1 = 3 → x.retraining = false →
    y.retraining = true ∧ StrictCause.fullRetrain ∈ y.strict

theorem pauseEnded_wires (x : Channel) (found : Bool) (drift : BitVec 8) (points : Vector (Nat × Nat) 8) (w : Fin 8) :
    (pauseEnded x found drift points).wires[w] = if found then { x.wires[w] with
      phase := points[w].1, reference := points[w].2 } else x.wires[w] := by
  cases found with
  | false => rfl
  | true => simp [pauseEnded]

theorem pauseEnded_strict (x : Channel) (found : Bool) (drift : BitVec 8) (points : Vector (Nat × Nat) 8) :
    StrictCause.periodic ∉ (pauseEnded x found drift points).strict := by
  simp [pauseEnded]

/-- A pause whose end begins no full field retraining. -/
theorem pauseEnded_spec {x : Channel} {found : Bool} (h : found = false → x.failedPeriods + 1 ≠ 3) (drift : BitVec 8)
    (points : Vector (Nat × Nat) 8) : PauseEnded x (pauseEnded x found drift points) found drift points where
  paused := rfl
  strict := pauseEnded_strict x found drift points
  passing hf := by subst hf; exact ⟨rfl, rfl⟩
  wires := pauseEnded_wires x found drift points
  drift hf := by subst hf; rfl
  failing hf _ := by subst hf; rfl
  third hf h3 := absurd h3 (h hf)

/-- R341, R342: three periods without a passing point bring full field retraining. -/
theorem periodicRetrainEnd_spec (hup : s.memoryUp = true) (hp : s.memctl.chans[ch].paused = true)
    (hf : s.env.heldFunctionReset = none) (hd : s.env.heldDeviceReset = false) (h3 : s.env.heldD3hot = false)
    (found : Bool) (drift : BitVec 8) (points : Vector (Nat × Nat) 8) :
    ∃ t, exec (.periodicRetrainEnd ch found drift points) s = .next t ∧
      PauseEnded s.memctl.chans[ch] t.memctl.chans[ch] found drift points := by
  refine ⟨_, exec_periodicRetrainEnd hup hp found drift points, ?_⟩
  have hchan := endPause_chan (s := s) (ch := ch) found drift points
  by_cases hthird : found = false ∧ s.memctl.chans[ch].failedPeriods + 1 = 3
  · obtain ⟨rfl, hcount⟩ := hthird
    rw [if_pos (by simp only [hcount]; decide)]
    by_cases hr : s.memctl.chans[ch].retraining = true
    · have hr' : (s.endPause ch false drift points).memctl.chans[ch].retraining = true := by rw [hchan]; exact hr
      rw [startFieldRetrain_of_retraining hr', hchan]
      exact { paused := rfl, strict := pauseEnded_strict _ _ drift points, passing := nofun
              wires := pauseEnded_wires _ _ drift points, drift := fun _ => rfl
              failing := fun _ h => absurd hcount h
              third := fun _ _ h => absurd hr (Bool.eq_false_iff.1 h) }
    · have hr' : (s.endPause ch false drift points).memctl.chans[ch].retraining = false := by
        rw [hchan]
        exact Bool.eq_false_iff.2 hr
      have hstart := startFieldRetrain_chan hr'
      have hstrict := mem_strict_startFieldRetrain hr'
      rw [hchan] at hstart hstrict
      refine { paused := by rw [hstart]; rfl, strict := ?_, passing := nofun, wires := ?_, drift := ?_
               failing := fun _ h => absurd hcount h, third := ?_ }
      · rw [hstrict]
        rintro (h | h)
        · exact absurd h (by decide)
        · exact pauseEnded_strict _ _ _ _ h
      · rw [hstart]
        exact pauseEnded_wires _ _ drift points
      · rw [hstart]
        exact fun _ => rfl
      · intro _ _ _
        exact ⟨by rw [hstart], (hstrict _).2 (.inl rfl)⟩
  · rw [if_neg (by cases found <;> simp_all), releaseHeld_of_none (by exact hf) (by exact hd) (by exact h3), hchan]
    exact pauseEnded_spec (fun hno hcount => hthird ⟨hno, hcount⟩) drift points

/-- R340, R342: the end of full field retraining, whose failure loses the device. -/
theorem fullFieldRetrainDone_spec (hup : s.memoryUp = true) (hr : s.memctl.chans[ch].retraining = true)
    (hf : s.env.heldFunctionReset = none) (hd : s.env.heldDeviceReset = false) (h3 : s.env.heldD3hot = false)
    (ok : Bool) (values : Vector WireTraining 8) :
    ∃ t, exec (.fullFieldRetrainDone ch ok values) s = .next t ∧
      t.memctl.chans[ch] = retrained s.memctl.chans[ch] ok values ∧
      (ok = false → t.lighthouse.state = .lost ∧ t.lighthouse.cause = 0x9002) := by
  refine ⟨_, exec_fullFieldRetrainDone hup hr ok values, ?_⟩
  have hchan : (s.updChan ch fun x => retrained x ok values).memctl.chans[ch] = retrained s.memctl.chans[ch] ok values :=
    updAt_self _ _ _
  cases ok with
  | true =>
    have henv : ((s.updChan ch fun x => retrained x true values).note 0x9006 .corrected 0).env = s.env :=
      note_env _ _ _ _
    rw [if_pos rfl, releaseHeld_of_none (by rw [henv, hf]) (by rw [henv, hd]) (by rw [henv, h3]), note_memctl]
    exact ⟨hchan, nofun⟩
  | false =>
    have hl : (s.updChan ch fun x => retrained x false values).lost = false := lost_of_memoryUp hup
    have hs := loseDevice_shows hl hf 0x9002
    rw [if_neg Bool.false_ne_true]
    refine ⟨?_, fun _ => ⟨hs.state, hs.cause⟩⟩
    rw [loseDevice_of_none hl hf hd, declareLost_chans]
    exact hchan

end

/-- Settles O49, by what each command leaves of its channel: the window a bank gets, the pause at the channel's slot and
its end, full field retraining, and the causes of strict mode. -/
theorem refreshAndTrainingKeepTheirTimes : Obligations.RefreshAndTrainingKeepTheirTimes := by
  unfold Obligations.RefreshAndTrainingKeepTheirTimes
  intro s ch
  refine ⟨fun bank => ⟨?_, exec_refreshWindow_idle⟩, ?_, exec_periodicRetrain_idle,
    fun found drift points => ⟨?_, exec_periodicRetrainEnd_idle⟩, fun ok values => ⟨?_, exec_fullFieldRetrainDone_idle⟩,
    ?_, exec_strictRecoveryExit_idle, fun reading => ⟨fun hup hl hhot => exec_hotSet hup hl hhot,
      fun hup hl hhot => exec_hotClear hup hl hhot, exec_hotSet_idle, exec_hotClear_idle⟩,
    fun b => ⟨?_, ?_⟩⟩
  · intro hup hh hp hr hnow hwin
    obtain ⟨t, start, ht, hstart, hchan, hnat, htide⟩ := refreshWindow_spec (bank := bank) hup hh hp hr hnow hwin
    refine ⟨t, ht, ⟨?_, htide, ?_, ?_, ?_, ?_, ?_, ?_, ?_⟩, sameBut_swap (exec_frame ht)⟩
    · rw [hnat, hstart, ← windowDue_eq]
      exact due_le_windowStart _ _ _ _
    · intro hended
      rw [← windowDue_eq] at hended ⊢
      rw [hnat, hstart]
      exact windowStart_of_ended hended
    · intro b hb
      rw [hchan]
      exact withWindow_other hb _ _
    · rw [hchan]
      exact .head _
    · intro b hb hne hlt
      rw [hnat] at hlt
      rw [hchan]
      exact .tail _ (mem_busyAt.2 ⟨hb, hne, hlt⟩)
    · intro hcool
      rw [hchan, hstart, hcool]
      exact congrArg (bank :: ·) busyAt_windowStart_of_cool
    · intro hlen
      rw [hchan, hstart]
      cases s.memctl.hot with
      | true => exact Nat.succ_le_succ (length_busyAt_windowStart hlen)
      | false =>
        show (bank :: busyAt _ _ _).length ≤ 2
        rw [busyAt_windowStart_of_cool]
        exact Nat.le_succ 1
    · rw [hchan]
      exact mem_hotBanks_withWindow _ _
  · intro hup hp hr hnow hfrom hwin
    obtain ⟨t, ht, hpaused, hrefreshing, hstrict, hnext, htide⟩ := periodicRetrain_spec hup hp hr hnow hfrom hwin
    obtain ⟨hge, hlt, hmod⟩ := retrainAt_spec (max s.now.toNat s.memctl.chans[ch].retrainFrom) ch
    refine ⟨t, s.retrainSlot ch, ht, hpaused, hrefreshing, hstrict, hnext, hge, hlt, hmod, ?_, ?_, ?_, exec_frame ht⟩
    · rw [htide]
      exact slot_le_betweenWindows _ _ _
    · rw [htide]
      exact betweenWindows_of_ended
    · rw [htide]
      exact fun hh b hb => windowEnd_le_betweenWindows hh hb
  · intro hup hp
    obtain ⟨t, ht, hframe⟩ := exec_next (.periodicRetrainEnd ch found drift points) s
    refine ⟨t, ht, fun hf hd h3 => ?_, hframe⟩
    obtain ⟨t', ht', hends⟩ := periodicRetrainEnd_spec hup hp hf hd h3 found drift points
    obtain rfl := exec_unique ht' ht
    exact ⟨hends.paused, hends.strict, hends.passing, hends.wires, hends.drift, hends.failing, hends.third⟩
  · intro hup hr
    obtain ⟨t, ht, hframe⟩ := exec_next (.fullFieldRetrainDone ch ok values) s
    refine ⟨t, ht, fun hf hd h3 => ?_, hframe⟩
    obtain ⟨t', ht', hchan, hlost⟩ := fullFieldRetrainDone_spec hup hr hf hd h3 ok values
    obtain rfl := exec_unique ht' ht
    rw [hchan]
    exact ⟨rfl, rfl, rfl, rfl, by simp [retrained], hlost⟩
  · intro hup hs
    refine ⟨_, exec_strictRecoveryExit hup hs, fun c => ?_, ?_,
      sameBut_swap (exec_frame (exec_strictRecoveryExit hup hs))⟩
    · rw [mem_strict_leaveStrict, advanceTo_memctl]
    · rw [leaveStrict_now]
      exact advanceTo_reaches s _
  · intro ha
    refine ⟨?_, fun hb => ?_, fun hb => ?_⟩
    · rw [exec_memctlHiddenWrite rfl, if_pos ha]
    · rw [exec_memctlStrictWrite rfl, if_pos ha, State.writeStrict, if_pos hb]
    · have ht := (exec_memctlStrictWrite (s := s) rfl b).trans (congrArg _ (if_pos ha))
      obtain ⟨hstrict, hall⟩ := writeStrict_spec hb
      exact ⟨_, ht, hstrict, hall, exec_frame ht⟩
  · intro ha
    rw [exec_memctlHiddenWrite rfl, exec_memctlStrictWrite rfl, ha]
    exact ⟨rfl, rfl⟩

end Sys2Proof.Machine
end

section
/-! Frames are delivered or dropped (R357–R366). -/

namespace Sys2Proof.Machine

/-- A running device with each Quay's clock gated and no frame in a pipe, which has sent no latency tolerance yet. -/
def ltrUnsent : State :=
  { State.reset with
    env := { State.reset.env with suppliesUp := true, perstLow := false }
    boot := { State.reset.boot with stage := .running }
    quays := .replicate 8 { clockGated := true } }

theorem exec_pipeFrameComplete_idle {s : State} {i : SctxId} (hup : s.pipesUp = true) (hf : s.finishable i = none) :
    exec (.pipeFrameComplete i) s = .next s.ltrUpdate := by
  have hidle : s.completeFrame i = s := by
    unfold State.completeFrame
    rw [hf]
  simp only [exec, execPipeFrameComplete, hup, hidle, Bool.not_true, Bool.false_eq_true, if_false]

theorem ltrUnsent_ltrState : ltrUnsent.ltrState = some .idle := by
  have hstreams : ltrUnsent.streams.toList.any (·.frame.isSome) = false := by decide
  have hqueues : ltrUnsent.queues.toList.any (fun q => q.active && outboundBase ≤ q.hdr.ring) = false := by
    show (Vector.replicate 256 ({} : Queue)).toList.any _ = false
    rw [Vector.toList_replicate, List.any_replicate]
    rfl
  have hflights : ltrUnsent.flights.any (·.executes) = false := rfl
  rw [State.ltrState, hstreams, hqueues, hflights]
  rfl

theorem ltrUpdate_ltr {s : State} {l : LtrState} (h : s.ltrState = some l) : s.ltrUpdate.ltr = some l := by
  simp only [State.ltrUpdate, h]
  split
  next heq => exact heq
  · split <;> rfl

/-- Refutes O52: where no frame is finishable PIPE_FRAME_COMPLETE still brings the latency tolerance up to date, which
`ltrUnsent` shows; the statement has it leave the whole state. -/
theorem not_framesAreDeliveredOrDropped : ¬ Obligations.FramesAreDeliveredOrDropped := by
  unfold Obligations.FramesAreDeliveredOrDropped
  intro h
  have hnone : ltrUnsent.finishable 0 = none := rfl
  have hclaimed : exec (.pipeFrameComplete 0) ltrUnsent = .next ltrUnsent := (h ltrUnsent 0).2.1 (.inr hnone)
  have hactual := exec_pipeFrameComplete_idle (s := ltrUnsent) (i := 0) (by decide) hnone
  have hltr : ltrUnsent.ltrUpdate.ltr = none := congrArg State.ltr (exec_unique hactual hclaimed)
  rw [ltrUpdate_ltr ltrUnsent_ltrState] at hltr
  exact Option.some_ne_none _ hltr

end Sys2Proof.Machine
end

section
/-! Memory requests keep source order, and their phases act on errors (R330–R346). -/

namespace Sys2Proof.Machine

section
variable {s : State}

/-! ### Requests -/

theorem exec_memoryRequest (hup : s.memoryUp = true) {req : MemReq} (ha : req.addr < s.part.memory) :
    exec (.memoryRequest req) s =
      (let s' := s.updChan (chanId (locate s.memctl.masks req.addr).channel) fun x =>
        { x with requests := x.requests ++ [⟨req, s.now, s.memctl.issued⟩] }
      .next { s' with memctl := { s'.memctl with issued := s.memctl.issued + 1 } }) :=
  if_pos (by simp [hup, ha])

theorem exec_memoryRequest_beyond {req : MemReq} (ha : s.part.memory ≤ req.addr) :
    exec (.memoryRequest req) s = .next s :=
  if_neg (by simp [Nat.not_lt.2 ha])

/-! ### Phases and their CRC -/

theorem zipWith_xor_zero (l : List Byte) : l.zipWith (· ^^^ ·) (List.replicate l.length 0) = l := by
  induction l with
  | nil => rfl
  | cons b l ih =>
    have hb : b ^^^ 0 = b := BitVec.xor_zero
    rw [List.length_cons, List.replicate_succ, List.zipWith_cons_cons, ih, hb]

theorem arrives_iff (sent flips : List Byte) (crcFlips : BitVec 16) : arrives sent flips crcFlips = true ↔
    crc16 (wireBits (sent.zipWith (· ^^^ ·) flips)) = crc16 (wireBits sent) ^^^ crcFlips :=
  decide_eq_true_iff

theorem arrives_unflipped (sent : List Byte) (c : BitVec 16) :
    arrives sent (List.replicate sent.length 0) c = true ↔ c = 0 := by
  rw [arrives_iff, zipWith_xor_zero]
  constructor
  · intro h
    have hc : crc16 (wireBits sent) ^^^ crc16 (wireBits sent) = c := by
      rw [congrArg (crc16 (wireBits sent) ^^^ ·) h, ← BitVec.xor_assoc, BitVec.xor_self, BitVec.zero_xor]
    exact hc.symm.trans BitVec.xor_self
  · rintro rfl
    exact BitVec.xor_zero.symm

theorem length_reads (m : Memory) (a n : Nat) : (m.reads a n).length = n := by
  induction n generalizing a with
  | zero => rfl
  | succ n ih => rw [Memory.reads, List.length_cons, ih]

theorem length_leBytes (n v : Nat) : (leBytes n v).length = n := by
  induction n generalizing v with
  | zero => rfl
  | succ n ih => rw [leBytes, List.length_cons, ih]

theorem phasesGood_iff (s : State) (r : MemReq) (p : DataPhase) : s.phasesGood r p = true ↔
    arrives (leBytes 6 (commandBits s.memctl.masks r).toNat) (leBytes 6 p.command.toNat) p.commandCrc = true ∧
      arrives (s.mem.reads (lineOf r.addr * 128) 128) p.intervals p.crc = true :=
  Bool.and_eq_true_iff

/-- Phases of which no bit is inverted arrive. -/
theorem phasesGood_unflipped (s : State) (r : MemReq) (ecc : EccResult) :
    s.phasesGood r ⟨0, 0, List.replicate 128 0, 0, ecc⟩ = true := by
  have hcommand := arrives_unflipped (leBytes 6 (commandBits s.memctl.masks r).toNat) 0
  have hdata := arrives_unflipped (s.mem.reads (lineOf r.addr * 128) 128) 0
  rw [length_leBytes] at hcommand
  rw [length_reads] at hdata
  have hzero : leBytes 6 (0 : BitVec 48).toNat = List.replicate 6 0 := by decide
  exact (phasesGood_iff s r _).2 ⟨hzero ▸ hcommand.2 rfl, hdata.2 rfl⟩

/-- A data phase of which the CRC alone is inverted does not arrive. -/
theorem not_phasesGood_of_crc {r : MemReq} {p : DataPhase} (hc : p.crc ≠ 0)
    (hi : p.intervals = List.replicate 128 0) : s.phasesGood r p = false := by
  refine Bool.eq_false_iff.2 fun hgood => hc ?_
  obtain ⟨-, hdata⟩ := (phasesGood_iff s r p).1 hgood
  have hiff := arrives_unflipped (s.mem.reads (lineOf r.addr * 128) 128) p.crc
  rw [length_reads] at hiff
  exact hiff.1 (hi ▸ hdata)

/-! ### Which request is served -/

theorem inRefresh_iff (x : Channel) (bank : Nat) : s.inRefresh x bank = true ↔
    s.memhost.hidden = false ∧ ∃ b ∈ x.refreshing, b.val = bank ∧ s.now.toNat < x.windows[b].toNat + 33 := by
  unfold State.inRefresh
  show _ ↔ s.memhost.hidden = false ∧ ∃ b ∈ x.refreshing, b.val = bank ∧
    s.now.toNat < x.windows[b].toNat + refreshTicks
  simp

theorem inRefresh_eq_false (x : Channel) (bank : Nat) : s.inRefresh x bank = false ↔
    (s.memhost.hidden = false → ∀ b ∈ x.refreshing, b.val = bank → x.windows[b].toNat + 33 ≤ s.now.toNat) := by
  rw [← Bool.not_eq_true, inRefresh_iff]
  push Not
  rfl

theorem goesBefore_iff (ch : ChanId) (r : MemReq) (d : Waiting) : s.goesBefore ch r d = true ↔
    (locate s.memctl.masks d.req.addr).bank = (locate s.memctl.masks r.addr).bank ∧
      (250 ≤ (s.now - d.since).toNat ∨
        s.strictNow ch = true ∧ (locate s.memctl.masks d.req.addr).row = (locate s.memctl.masks r.addr).row) := by
  unfold State.goesBefore
  show _ ↔ (locate s.memctl.masks d.req.addr).bank = (locate s.memctl.masks r.addr).bank ∧
    (overdueTicks ≤ (s.now - d.since).toNat ∨ _)
  generalize (s.now - d.since).toNat = waited
  simp

theorem goesBefore_eq_false (ch : ChanId) (r : MemReq) (d : Waiting) : s.goesBefore ch r d = false ↔
    ((locate s.memctl.masks d.req.addr).bank = (locate s.memctl.masks r.addr).bank →
      (s.now - d.since).toNat < 250 ∧
        (s.strictNow ch = true → (locate s.memctl.masks d.req.addr).row ≠ (locate s.memctl.masks r.addr).row)) := by
  rw [← Bool.not_eq_true, goesBefore_iff]
  push Not
  rfl

theorem sourceWaits_eq_false (w : Waiting) : s.sourceWaits w = false ↔
    ∀ c : ChanId, ∀ d ∈ s.memctl.chans[c].requests, d.seq < w.seq → d.req.agent ≠ w.req.agent := by
  unfold State.sourceWaits
  rw [List.any_eq_false]
  constructor
  · intro h c d hd hlt heq
    have hc : s.memctl.chans[c] ∈ s.memctl.chans.toList := Vector.mem_toList_iff.2 (Vector.getElem_mem c.isLt)
    exact h _ hc (List.any_eq_true.2 ⟨d, hd, by simp [hlt, heq]⟩)
  · intro h x hx hany
    obtain ⟨i, hi, rfl⟩ := List.getElem_of_mem hx
    obtain ⟨d, hd, hboth⟩ := List.any_eq_true.1 hany
    obtain ⟨hlt, heq⟩ := Bool.and_eq_true_iff.1 hboth
    exact h ⟨i, by simpa using hi⟩ d (by simpa using hd) (of_decide_eq_true hlt) (of_decide_eq_true heq)

theorem any_take_eq_false {l : List Waiting} {k : Nat} {p : Waiting → Bool} : (l.take k).any p = false ↔
    ∀ (j : Nat) (d : Waiting), j < k → l[j]? = some d → p d = false := by
  rw [List.any_eq_false]
  constructor
  · intro h j d hj hd
    have hmem : d ∈ l.take k := List.mem_of_getElem? ((List.getElem?_take_of_lt hj).trans hd)
    exact Bool.eq_false_iff.2 (h d hmem)
  · intro h d hd
    obtain ⟨j, hj⟩ := List.mem_iff_getElem?.1 hd
    have hlt : j < k := by
      by_contra hn
      rw [List.getElem?_take, if_neg hn] at hj
      exact absurd hj (by simp)
    rw [List.getElem?_take_of_lt hlt] at hj
    exact Bool.eq_false_iff.1 (h j d hlt hj)

theorem servable_iff (ch : ChanId) (pick : Nat) (e : Waiting) : s.servable ch pick e = true ↔
    s.memctl.chans[ch].paused = false ∧ s.memctl.chans[ch].retraining = false ∧
      (s.memhost.hidden = false → ∀ b ∈ s.memctl.chans[ch].refreshing,
        b.val = (locate s.memctl.masks e.req.addr).bank →
          s.memctl.chans[ch].windows[b].toNat + 33 ≤ s.now.toNat) ∧
      (s.memctl.chans[ch].retried = some pick ∨ s.memctl.chans[ch].retried = none ∧
        (∀ (k : Nat) (d : Waiting), k < pick → s.memctl.chans[ch].requests[k]? = some d →
          (locate s.memctl.masks d.req.addr).bank = (locate s.memctl.masks e.req.addr).bank →
            (s.now - d.since).toNat < 250 ∧ (s.strictNow ch = true →
              (locate s.memctl.masks d.req.addr).row ≠ (locate s.memctl.masks e.req.addr).row)) ∧
        ∀ c : ChanId, ∀ d ∈ s.memctl.chans[c].requests, d.seq < e.seq → d.req.agent ≠ e.req.agent) := by
  unfold State.servable
  dsimp only
  rw [Bool.and_eq_true_iff, Bool.and_eq_true_iff, Bool.and_eq_true_iff, Bool.not_eq_true', Bool.not_eq_true',
    Bool.not_eq_true', inRefresh_eq_false, and_assoc, and_assoc]
  refine and_congr_right fun _ => and_congr_right fun _ => and_congr_right fun _ => ?_
  cases hr : s.memctl.chans[ch].retried with
  | some j => simp
  | none =>
    dsimp only
    rw [Bool.and_eq_true_iff, Bool.not_eq_true', Bool.not_eq_true', any_take_eq_false, sourceWaits_eq_false]
    simp only [goesBefore_eq_false, reduceCtorEq, false_or, true_and]

/-! ### Serving -/

section
variable {ch : ChanId} {pick : Nat} {e : Waiting}

theorem exec_memoryDataPhase_none (h : s.memctl.chans[ch].requests[pick]? = none) (phase : DataPhase) :
    exec (.memoryDataPhase ch pick phase) s = .next s := by
  simp only [exec, execMemoryDataPhase, h]

theorem exec_memoryDataPhase_waits (h : s.memctl.chans[ch].requests[pick]? = some e)
    (hs : s.servable ch pick e = false) (phase : DataPhase) : exec (.memoryDataPhase ch pick phase) s = .next s := by
  simp only [exec, execMemoryDataPhase, h, hs, Bool.not_false, Bool.or_true, if_true]

theorem exec_memoryDataPhase (hup : s.memoryUp = true) (h : s.memctl.chans[ch].requests[pick]? = some e)
    (hs : s.servable ch pick e = true) (phase : DataPhase) : exec (.memoryDataPhase ch pick phase) s = .next
      (if s.phasesGood e.req phase then
        if e.req.write then s.served ch pick else (s.served ch pick).burstRead e.req phase.ecc
      else s.retryPhase ch pick) := by
  simp only [exec, execMemoryDataPhase, h, hs, hup, Bool.not_true, Bool.or_self, Bool.false_eq_true, if_false]
  cases s.phasesGood e.req phase with
  | false => rfl
  | true => cases e.req.write <;> rfl

/-- A channel of which a request has left the queue. -/
def dequeued (pick : Nat) (x : Channel) : Channel :=
  { x with requests := dropAt x.requests pick, attempts := 0, retried := none }

theorem served_first (h : s.memctl.chans[ch].attempts = 0) : s.served ch pick = s.updChan ch (dequeued pick) :=
  if_pos h

theorem served_retried (h : s.memctl.chans[ch].attempts ≠ 0) : s.served ch pick =
    (s.updChan ch fun x => { dequeued pick x with retries := satInc x.retries }).reportLimited
      (State.markKey 0x9004 ch.val) { reason := 0x9004, severity := .corrected } :=
  (if_neg h).trans (congrArg (State.reportLimited · _ _) (updChan_updChan s ch _ _))

theorem served_chan (s : State) (ch : ChanId) (pick : Nat) :
    (s.served ch pick).memctl.chans[ch] = { s.memctl.chans[ch] with
      requests := s.memctl.chans[ch].requests.take pick ++ s.memctl.chans[ch].requests.drop (pick + 1)
      attempts := 0, retried := none
      retries := if s.memctl.chans[ch].attempts = 0 then s.memctl.chans[ch].retries
        else satInc s.memctl.chans[ch].retries } := by
  by_cases h : s.memctl.chans[ch].attempts = 0
  · rw [served_first h, if_pos h]
    exact updAt_self _ _ _
  · rw [served_retried h, if_neg h, reportLimited_memctl]
    exact updAt_self _ _ _

/-- A fifth failure of a phase brings full field retraining of its channel (R331). -/
theorem retryPhase_fifth (hr : s.memctl.chans[ch].retraining = false) (h : 4 ≤ s.memctl.chans[ch].attempts) :
    (s.retryPhase ch pick).memctl.chans[ch].retraining = true ∧
      (s.retryPhase ch pick).memctl.chans[ch].requests = s.memctl.chans[ch].requests ∧
      (s.retryPhase ch pick).memctl.chans[ch].retried = none ∧
      StrictCause.fullRetrain ∈ (s.retryPhase ch pick).memctl.chans[ch].strict := by
  rw [State.retryPhase, if_neg (Nat.not_lt.2 h)]
  have hmem := (mem_strict_startFieldRetrain hr .fullRetrain).2 (.inl rfl)
  have hchan := startFieldRetrain_chan hr
  generalize s.startFieldRetrain ch = t at *
  refine ⟨?_, ?_, ?_, hmem⟩ <;> rw [hchan]

end

/-! ### What a burst holds -/

theorem contains_poison_of_not_mem {m : Memory} {n : Nat} (h : n ∉ m.poison) : m.poison.contains n = false :=
  Bool.eq_false_iff.2 fun hc => h (List.contains_iff_mem.1 hc)

theorem burstRead_clean {r : MemReq} (h : lineOf r.addr ∉ s.mem.poison) (ecc : EccResult) :
    s.burstRead r ecc = match ecc with
      | .ok => s
      | .corrected => s.memCorrected r.addr
      | .uncorrectable => if r.prefetch then s else s.memUncorrectable r.addr (agentCode r.agent) r.command := by
  have hc := contains_poison_of_not_mem h
  unfold State.burstRead State.memRead
  rw [hc]
  cases ecc <;> cases r.prefetch <;> rfl

theorem burstRead_poisoned_prefetch {r : MemReq} (h : lineOf r.addr ∈ s.mem.poison) (hp : r.prefetch = true)
    (ecc : EccResult) : s.burstRead r ecc = s := by
  rw [State.burstRead, hp, List.contains_iff_mem.2 h, Bool.or_true]
  rfl

theorem burstRead_poisoned {r : MemReq} {q : QueueId} {idx : Word} {f : Flight} (h : lineOf r.addr ∈ s.mem.poison)
    (hp : r.prefetch = false) (hc : r.command = some (q, idx)) (hf : s.flight? q idx = some f) (he : f.ended = false)
    (ecc : EccResult) : s.burstRead r ecc = s.fail q idx 0x4012 := by
  have hpoison : s.mem.poison.contains (lineOf r.addr) = true := List.contains_iff_mem.2 h
  have hread : s.readPoisoned (some (q, idx)) = s.fail q idx 0x4012 := by
    simp only [State.readPoisoned, hf, he, Bool.false_eq_true, if_false]
  rw [State.burstRead, hp, Bool.false_and, if_neg Bool.false_ne_true, hc]
  exact (if_pos hpoison).trans hread

/-- What is captured of a burst that is found uncorrectable. -/
structure UncorrectableAt (s t : State) (addr source : Nat) (c : ChanId) : Prop where
  valid : t.memctl.uerrValid = true
  first : s.memctl.uerrValid = false → t.memctl.uerrSource = BitVec.ofNat 4 source ∧
    t.memctl.uerrAddr = BitVec.ofNat 35 (addr / 128 * 128)
  uncorr : t.memctl.chans[c].uncorr = satInc s.memctl.chans[c].uncorr
  last : t.memctl.chans[c].lastUncorr = s.now
  strict : StrictCause.uncorrectable ∈ t.memctl.chans[c].strict

theorem enterStrict_memctl (s : State) (ch : ChanId) (c : StrictCause) (marked : Bool) :
    (s.enterStrict ch c marked).memctl.uerrValid = s.memctl.uerrValid ∧
      (s.enterStrict ch c marked).memctl.uerrSource = s.memctl.uerrSource ∧
      (s.enterStrict ch c marked).memctl.uerrAddr = s.memctl.uerrAddr := by
  unfold State.enterStrict
  dsimp only
  split
  · exact ⟨rfl, rfl, rfl⟩
  split
  · rw [note_memctl]
    exact ⟨rfl, rfl, rfl⟩
  · exact ⟨rfl, rfl, rfl⟩

theorem memUncorrectable_at (s : State) (addr source : Nat) (cmd : Option (QueueId × Word)) :
    UncorrectableAt s (s.memUncorrectable addr source cmd) addr source
      (chanId (locate s.memctl.masks addr).channel) := by
  unfold State.memUncorrectable
  extract_lets l c m₀ m u w v
  have hend : ((v.enterStrict c .uncorrectable true).failFor cmd 0x9001).memctl =
      (v.enterStrict c .uncorrectable true).memctl :=
    (keeps_failFor (L := 0x2a0800cd2d0) rfl (.refl _ _) cmd 0x9001).same .memctl rfl
  have hv : v.memctl = { m with
      chans := updAt m.chans c fun x => { x with uncorr := satInc x.uncorr, lastUncorr := s.now } } :=
    report_memctl _ _
  have hchans : m.chans = s.memctl.chans := by
    simp only [m, m₀]
    split <;> rfl
  have hchan : v.memctl.chans[c] = { s.memctl.chans[c] with
      uncorr := satInc s.memctl.chans[c].uncorr, lastUncorr := s.now } := by
    rw [hv, ← hchans]
    exact updAt_self _ _ _
  obtain ⟨hvalid, hsource, haddr⟩ := enterStrict_memctl v c .uncorrectable true
  have hstrict := mem_strict_enterStrict v c .uncorrectable true .uncorrectable
  have henter := enterStrict_chan v c .uncorrectable true
  refine { valid := ?_, first := fun hfirst => ?_, uncorr := ?_, last := ?_, strict := ?_ }
  · rw [hend, hvalid, hv]
    simp only [m]
    split
    next h => exact h
    · rfl
  · rw [hend, hsource, haddr, hv]
    simp only [m, m₀, hfirst]
    exact ⟨rfl, rfl⟩
  · rw [hend, henter, hchan]
  · rw [hend, henter, hchan]
  · rw [hend]
    exact hstrict.2 (.inl rfl)

theorem memCorrected_chan (s : State) (addr : Nat) :
    (s.memCorrected addr).memctl.chans[chanId (locate s.memctl.masks addr).channel].corrected =
      satInc s.memctl.chans[chanId (locate s.memctl.masks addr).channel].corrected := by
  unfold State.memCorrected
  dsimp only
  rw [reportLimited_memctl, State.updChan_memctl, updAt_self]

/-! ### The patrol scrub -/

theorem exec_patrolScrub (hup : s.memoryUp = true) {addr : Nat} (ha : addr < s.part.memory)
    (hn : lineOf addr ∉ s.mem.poison)
    (hp : s.memctl.chans[chanId (locate s.memctl.masks addr).channel].paused = false)
    (hr : s.memctl.chans[chanId (locate s.memctl.masks addr).channel].retraining = false) (ecc : EccResult) :
    exec (.patrolScrub addr ecc) s =
      .next (s.memRead addr 7 ecc (if ecc = .uncorrectable then s.readerOf addr else none)) := by
  have hc := contains_poison_of_not_mem hn
  have htest : s.testRead addr 7 ecc = s.memRead addr 7 ecc (if ecc = .uncorrectable then s.readerOf addr else none) :=
    if_neg (Bool.eq_false_iff.1 hc)
  rw [← htest]
  exact if_pos (by simp only [hup, hp, hr, ha]; decide)

theorem memRead_clean {addr : Nat} (hn : lineOf addr ∉ s.mem.poison) (source : Nat) (ecc : EccResult)
    (cmd : Option (QueueId × Word)) : s.memRead addr source ecc cmd = match ecc with
      | .ok => s
      | .corrected => s.memCorrected addr
      | .uncorrectable => s.memUncorrectable addr source cmd := by
  refine (if_neg (Bool.eq_false_iff.1 (contains_poison_of_not_mem hn))).trans ?_
  cases ecc <;> rfl

theorem exec_patrolScrub_idle {addr : Nat} {ecc : EccResult} (h : s.part.memory ≤ addr ∨ lineOf addr ∈ s.mem.poison ∨
    s.memctl.chans[chanId (locate s.memctl.masks addr).channel].paused = true ∨
    s.memctl.chans[chanId (locate s.memctl.masks addr).channel].retraining = true) :
    exec (.patrolScrub addr ecc) s = .next s := by
  simp only [exec, execPatrolScrub]
  split
  next hgo =>
    simp only [Bool.and_eq_true_iff, Bool.not_eq_true', decide_eq_true_eq] at hgo
    obtain ⟨⟨⟨-, ha⟩, hp⟩, hr⟩ := hgo
    have hpoison : lineOf addr ∈ s.mem.poison := by
      rcases h with h | h | h | h
      · exact absurd ha (Nat.not_lt.2 h)
      · exact h
      · exact absurd (hp.symm.trans h) (by decide)
      · exact absurd (hr.symm.trans h) (by decide)
    rw [State.testRead, if_pos (List.contains_iff_mem.2 hpoison)]
  · rfl

end

/-- Settles O48, by the rule for which request is served, what each phase does then, and what on-die ECC finds in the
burst of a read. -/
theorem requestsAreServedInSourceOrder : Obligations.RequestsAreServedInSourceOrder := by
  unfold Obligations.RequestsAreServedInSourceOrder
  intro s hup
  refine ⟨fun req => ⟨fun ha => ⟨_, exec_memoryRequest hup ha, ⟨updAt_self _ _ _, fun d hd => updAt_other _ _ hd⟩, rfl,
      exec_frame (exec_memoryRequest hup ha)⟩, exec_memoryRequest_beyond⟩,
    fun r p => ⟨?_, phasesGood_unflipped s r p.ecc, not_phasesGood_of_crc⟩, fun ch pick e he => ⟨servable_iff ch pick e,
      exec_memoryDataPhase_waits he, fun hs phase => ?_, served_chan s ch pick, ?_⟩,
    fun ch pick phase h => exec_memoryDataPhase_none h phase,
    fun r h => ⟨burstRead_clean h .ok, burstRead_clean h .corrected, burstRead_clean h .uncorrectable⟩,
    fun r ecc h => ⟨fun hp => burstRead_poisoned_prefetch h hp ecc, fun q idx f hp hc hf he =>
      burstRead_poisoned h hp hc hf he ecc⟩,
    fun addr source cmd => ?_, fun addr ecc => ⟨fun ha hn hp hr => ?_, exec_patrolScrub_idle⟩⟩
  · rw [phasesGood_iff, arrives_iff, arrives_iff]
  · have hrun := exec_memoryDataPhase hup he hs phase
    obtain ⟨-, hr, -⟩ := (servable_iff ch pick e).1 hs
    refine ⟨fun hbad => ⟨fun hfew => ?_, fun hmany => ?_⟩, fun hgood => ⟨fun hw => ?_, fun hw => ?_⟩⟩
    · rw [hrun, hbad, if_neg Bool.false_ne_true, State.retryPhase, if_pos hfew]
    · rw [hbad, if_neg Bool.false_ne_true] at hrun
      obtain ⟨hret, hreqs, hretried, hstrict⟩ := retryPhase_fifth (pick := pick) hr hmany
      exact ⟨_, hrun, hret, hreqs, hretried, hstrict, exec_frame hrun⟩
    · rw [hrun, hgood, hw, if_pos rfl, if_pos rfl]
    · rw [hrun, hgood, hw, if_pos rfl, if_neg Bool.false_ne_true]
  · exact (keeps_served (L := 0x2a0802cdad0) rfl (.refl _ s) ch pick).sameBut rfl
  · have hat := memUncorrectable_at s addr source cmd
    exact ⟨hat.valid, hat.first, hat.uncorr, hat.last, hat.strict,
      (keeps_memUncorrectable (L := 0x2a0802cdad0) rfl (.refl _ s) addr source cmd).sameBut rfl, memCorrected_chan s addr⟩
  · have hrun := exec_patrolScrub hup ha hn hp hr
    refine ⟨(hrun .ok).trans ?_, (hrun .corrected).trans ?_, (hrun .uncorrectable).trans ?_⟩
    · rw [memRead_clean hn]
    · rw [memRead_clean hn]
    · rw [memRead_clean hn, if_pos rfl]

end Sys2Proof.Machine
end

section
/-! Tiles run behind their checks, and end released, held back or stopped (R178–R203, R309–R313, R402). -/

namespace Sys2Proof.Machine

/-! ### TILE_RUN -/

/-- The Quay takes tiles, and a Berth leads an array on which a DISPATCH executes. -/
structure TileAsked (s : State) (q : QuayId) (b : BerthId) (f : Flight) (a : List Nat) : Prop where
  fw : s.fwUp = true
  power : s.env.power = .d0
  resetting : s.quays[q].resetting = false
  fence : s.quays[q].recoveryFence = false
  pilot : s.quays[q].pilotRunning = true
  owner : s.quayOwner q = some f
  array : s.arrayAt q b = some a

section
variable {s : State} {q : QuayId} {b : BerthId} {tile : Tile} {f : Flight} {a : List Nat}

theorem TileAsked.runs (h : TileAsked s q b f a) : (!s.fwUp || s.env.power ≠ .d0 || s.quays[q].resetting ||
    s.quays[q].recoveryFence || !s.quays[q].pilotRunning) = false := by
  obtain ⟨h1, h2, h3, h4, h5, -, -⟩ := h
  simp only [h1, h2, h3, h4, h5]
  decide

theorem tileRun_held (h : TileAsked s q b f a) {r : TileRun} (hr : (s.berth q b).tile = some r) :
    exec (.tileRun q b tile) s = .next (if r.rerun then s.rerunTile f q b a r (tileWithin a tile) else s) := by
  refine (if_neg (Bool.eq_false_iff.1 h.runs)).trans ?_
  simp only [h.owner, h.array, hr]
  cases r.rerun <;> rfl

theorem tileRun_free (h : TileAsked s q b f a) (hr : (s.berth q b).tile = none) :
    exec (.tileRun q b tile) s = .next
      (if f.run.arrayDone || State.stopAsked f || !s.arrayReady q a then s
      else if !tile.dmaDone || !tile.controlPlaced then
        s.updArray q a ({ · with seq := .handshake, holdOwner := some (f.q, f.idx) })
      else s.firstRun f q b a (tileWithin a tile)) := by
  refine (if_neg (Bool.eq_false_iff.1 h.runs)).trans ?_
  have hplaced : (!(tileWithin a tile).dmaDone || !(tileWithin a tile).controlPlaced) =
    (!tile.dmaDone || !tile.controlPlaced) := rfl
  simp only [h.owner, h.array, hr, hplaced]
  split
  · rfl
  split <;> rfl

theorem tileRun_unpiloted (h : s.quays[q].pilotRunning = false) : exec (.tileRun q b tile) s = .next s :=
  if_pos (by rw [h, Bool.not_false, Bool.or_true])

/-- May a tile of the command start on the array? -/
def mayRun (s : State) (q : QuayId) (f : Flight) (a : List Nat) : Prop :=
  f.run.arrayDone = false ∧ State.stopAsked f = false ∧ s.arrayReady q a = true

theorem mayRun_iff : mayRun s q f a ↔ (f.run.arrayDone || State.stopAsked f || !s.arrayReady q a) = false := by
  rw [mayRun, Bool.or_eq_false_iff, Bool.or_eq_false_iff, Bool.not_eq_false', and_assoc]

theorem tileRun_waits (h : TileAsked s q b f a) (hr : (s.berth q b).tile = none) (hm : ¬ mayRun s q f a) :
    exec (.tileRun q b tile) s = .next s := by
  rw [mayRun_iff, Bool.not_eq_false] at hm
  rw [tileRun_free h hr, if_pos hm]

theorem tileRun_handshake (h : TileAsked s q b f a) (hr : (s.berth q b).tile = none) (hm : mayRun s q f a)
    (hp : tile.dmaDone = false ∨ tile.controlPlaced = false) : exec (.tileRun q b tile) s =
      .next (s.updArray q a ({ · with seq := .handshake, holdOwner := some (f.q, f.idx) })) := by
  have hopen : (!tile.dmaDone || !tile.controlPlaced) = true := by
    rcases hp with hp | hp
    · rw [hp, Bool.not_false, Bool.true_or]
    · rw [hp, Bool.not_false, Bool.or_true]
  rw [tileRun_free h hr, if_neg (Bool.eq_false_iff.1 (mayRun_iff.1 hm)), if_pos hopen]

theorem tileRun_first (h : TileAsked s q b f a) (hr : (s.berth q b).tile = none) (hm : mayRun s q f a)
    (hd : tile.dmaDone = true) (hc : tile.controlPlaced = true) :
    exec (.tileRun q b tile) s = .next (s.firstRun f q b a (tileWithin a tile)) := by
  rw [tileRun_free h hr, if_neg (Bool.eq_false_iff.1 (mayRun_iff.1 hm)), hd, hc]
  rfl

/-! ### The sources of a tile -/

theorem firstRun_faults {e : MmuFault} (h : s.sourceFault f.entry.ctx (codeSource f ++ tileSources tile) = some e) :
    s.firstRun f q b a tile = s.mmuFail f.q f.idx e := by
  simp only [State.firstRun, h]

theorem firstRun_fetches {s' : State} (h : s.sourceFault f.entry.ctx (codeSource f ++ tileSources tile) = none)
    (hf : s.fetching? f (tileSources tile) = some s') : s.firstRun f q b a tile = s' := by
  simp only [State.firstRun, h, hf]

theorem firstRun_unread {reason : BitVec 16}
    (h : s.sourceFault f.entry.ctx (codeSource f ++ tileSources tile) = none)
    (hf : s.fetching? f (tileSources tile) = none)
    (hc : s.sourceCode f.entry.ctx (tileSources tile) = some reason) :
    s.firstRun f q b a tile = s.fail f.q f.idx reason := by
  simp only [State.firstRun, h, hf, hc]

theorem firstRun_runs (h : s.sourceFault f.entry.ctx (codeSource f ++ tileSources tile) = none)
    (hf : s.fetching? f (tileSources tile) = none) (hc : s.sourceCode f.entry.ctx (tileSources tile) = none) :
    s.firstRun f q b a tile = s.runTile f q b a tile := by
  simp only [State.firstRun, h, hf, hc]

/-! ### The words of the store, and the start -/

theorem storeRead_snd (s : State) (f : Flight) (q : QuayId) (t : Tile) :
    (s.storeRead f q t).2 = t.storeReads.any (·.ecc = .uncorrectable) := by
  unfold State.storeRead
  dsimp only
  cases t.storeReads.any (·.ecc = .uncorrectable) <;> rfl

/-- A state whose Quay store and Holds have taken a tile's operands and whose store words have been read. -/
def State.operandsRead (s : State) (f : Flight) (q : QuayId) (b : BerthId) (t : Tile) : State × Bool :=
  ((s.fetchSources f q t).placeOperands q (s.berth q b).tileNo t).storeRead f q t

/-- The cycle in which a tile that takes its operands in `s` stops. -/
def State.operandStop (s : State) (f : Flight) (q : QuayId) (b : BerthId) (t : Tile) : Option Nat :=
  (s.operandsRead f q b t).1.stopCycle q (s.berth q b).tileNo t

/-- The state of that tile's start or stop. -/
def State.operandsCorrected (s : State) (f : Flight) (q : QuayId) (b : BerthId) (t : Tile) : State :=
  (s.operandsRead f q b t).1.correctReads q t.reads (s.operandStop f q b t)

theorem operandsRead_snd (s : State) (f : Flight) (q : QuayId) (b : BerthId) (t : Tile) :
    (s.operandsRead f q b t).2 = t.storeReads.any (·.ecc = .uncorrectable) :=
  storeRead_snd ..

theorem runTile_bad (h : ∃ w ∈ tile.storeReads, w.ecc = .uncorrectable) :
    s.runTile f q b a tile = (s.operandsRead f q b tile).1 := by
  have hbad : (s.operandsRead f q b tile).2 = true := by
    rw [operandsRead_snd, List.any_eq_true]
    simpa using h
  exact if_pos hbad

theorem operandsRead_good (h : ∀ w ∈ tile.storeReads, w.ecc ≠ .uncorrectable) :
    (s.operandsRead f q b tile).2 = false := by
  rw [operandsRead_snd, List.any_eq_false]
  simpa using h

theorem runTile_starts (h : ∀ w ∈ tile.storeReads, w.ecc ≠ .uncorrectable)
    (hs : s.operandStop f q b tile = none) :
    s.runTile f q b a tile = (s.operandsCorrected f q b tile).startTile f q b a tile := by
  refine (if_neg (Bool.eq_false_iff.1 (operandsRead_good h))).trans ?_
  change (match s.operandStop f q b tile with
    | some _ => _
    | none => (s.operandsCorrected f q b tile).startTile f q b a tile) = _
  simp only [hs]

theorem runTile_stops (h : ∀ w ∈ tile.storeReads, w.ecc ≠ .uncorrectable) {k : Nat}
    (hs : s.operandStop f q b tile = some k) : s.runTile f q b a tile =
      (s.operandsCorrected f q b tile).stopReads f q b a tile ((s.operandsCorrected f q b tile).seen q b
        ((s.operandsCorrected f q b tile).tileEnv f) false tile (faultsOn a tile.early)) k := by
  refine (if_neg (Bool.eq_false_iff.1 (operandsRead_good h))).trans ?_
  change (match s.operandStop f q b tile with
    | some c => (s.operandsCorrected f q b tile).stopReads f q b a tile ((s.operandsCorrected f q b tile).seen q b
        ((s.operandsCorrected f q b tile).tileEnv f) false tile (faultsOn a tile.early)) c
    | none => _) = _
  simp only [hs]

theorem startTile_tile (s : State) (f : Flight) (q : QuayId) (b : BerthId) (a : List Nat) (t : Tile) :
    ∃ r, ((s.startTile f q b a t).berth q b).tile = some r ∧ r.cmd = (f.q, f.idx) ∧ r.rerun = false := by
  refine ⟨{ tile := t, cmd := (f.q, f.idx), env := { s.tileEnv f with hold := (s.berth q b).hold }, rerun := false
            first := [] }, ?_, rfl, rfl⟩
  unfold State.startTile
  dsimp only
  rw [updBerth_berth_self]

theorem startTile_mem (s : State) (f : Flight) (q : QuayId) (b : BerthId) (a : List Nat) (t : Tile) :
    (s.startTile f q b a t).mem = s.mem :=
  (keeps_startTile (L := 0x40000) rfl (.refl _ s) ..).same .mem rfl

end

/-! ### The cycle in which a tile stops -/

section
variable {s : State} {q : QuayId} {n : Nat} {t : Tile}

theorem readConflict_eq_false (r : HoldRead) : readConflict t r = false ↔
    (r.port ≠ .quayDma → ∀ o ∈ t.reads, o.berth = r.berth → o.cycle = r.cycle → holdBank o.at_ = holdBank r.at_ →
      o.port = r.port ∨ o.port = .quayDma) ∧ ∀ w ∈ t.holdWrites, claimsBoth r w = false := by
  unfold readConflict
  rw [Bool.or_eq_false_iff, Bool.and_eq_false_iff, List.any_eq_false, List.any_eq_false]
  refine and_congr ⟨?_, ?_⟩ (by simp)
  · intro h hp o ho h1 h2 h3
    rcases h with h | h
    · exact absurd (by simpa using h) hp
    · have hn := h o ho
      simp only [h1, h2, h3] at hn
      by_contra hno
      obtain ⟨hno1, hno2⟩ := not_or.1 hno
      simp [hno1, hno2] at hn
  · intro h
    by_cases hp : r.port = .quayDma
    · exact .inl (by simp [hp])
    · refine .inr fun o ho => ?_
      intro hall
      simp only [Bool.and_eq_true_iff, decide_eq_true_eq, bne_iff_ne] at hall
      obtain ⟨⟨⟨⟨h1, h2⟩, h3⟩, h4⟩, h5⟩ := hall
      exact (h hp o ho h1 h2 h3).elim h4 h5

theorem oddRead_eq_false (r : HoldRead) : s.oddRead q n t r = false ↔
    (r.port ≠ .quayDma → foundTag n t (s.berth q r.berth) r = BitVec.ofNat 2 (n + r.ordinal)) := by
  unfold State.oddRead expectedTag
  by_cases hp : r.port = .quayDma <;> simp [hp]

theorem readStops_eq_false (r : HoldRead) : s.readStops q n t r = false ↔
    r.ecc ≠ .uncorrectable ∧ (∀ w ∈ t.holdWrites, claimsBoth r w = false) ∧
      (r.port ≠ .quayDma → foundTag n t (s.berth q r.berth) r = BitVec.ofNat 2 (n + r.ordinal) ∧
        ∀ o ∈ t.reads, o.berth = r.berth → o.cycle = r.cycle → holdBank o.at_ = holdBank r.at_ →
          o.port = r.port ∨ o.port = .quayDma) := by
  unfold State.readStops
  rw [Bool.or_eq_false_iff, Bool.or_eq_false_iff, readConflict_eq_false, oddRead_eq_false, decide_eq_false_iff_not]
  constructor
  · rintro ⟨⟨⟨hports, hwrites⟩, hecc⟩, htag⟩
    exact ⟨hecc, hwrites, fun hp => ⟨htag hp, hports hp⟩⟩
  · rintro ⟨hecc, hwrites, hp⟩
    exact ⟨⟨⟨fun h => (hp h).2, hwrites⟩, hecc⟩, fun h => (hp h).1⟩

theorem writeConflict_eq_false (w : HoldWrite) : writeConflict t w = false ↔
    (∀ r ∈ t.reads, claimsBoth r w = false) ∧ ∀ o ∈ t.holdWrites, o.berth = w.berth → o.cycle = w.cycle →
      holdBank o.at_ = holdBank w.at_ → o.sfu = w.sfu := by
  unfold writeConflict
  rw [Bool.or_eq_false_iff, List.any_eq_false, List.any_eq_false]
  refine and_congr (by simp) (forall₂_congr fun o _ => ?_)
  constructor
  · intro h h1 h2 h3
    by_contra hne
    exact h (by simp [h1, h2, h3, hne])
  · intro h hall
    simp only [Bool.and_eq_true_iff, decide_eq_true_eq, bne_iff_ne] at hall
    obtain ⟨⟨⟨h1, h2⟩, h3⟩, h4⟩ := hall
    exact h4 (h h1 h2 h3)

/-- The cycles in which a read or a write of a tile stops it. -/
def stopCycles (s : State) (q : QuayId) (n : Nat) (t : Tile) : List Nat :=
  (t.reads.filter (s.readStops q n t)).map (·.cycle) ++ (t.holdWrites.filter (writeConflict t)).map (·.cycle)

theorem mem_stopCycles {c : Nat} : c ∈ stopCycles s q n t ↔
    (∃ r ∈ t.reads, r.cycle = c ∧ s.readStops q n t r = true) ∨
      ∃ w ∈ t.holdWrites, w.cycle = c ∧ writeConflict t w = true := by
  simp only [stopCycles, List.mem_append, List.mem_map, List.mem_filter, and_assoc, and_comm (a := _ = c)]

theorem stopCycle_eq (s : State) (q : QuayId) (n : Nat) (t : Tile) : s.stopCycle q n t = (stopCycles s q n t).min? := rfl

theorem stopCycle_eq_none : s.stopCycle q n t = none ↔
    (∀ r ∈ t.reads, s.readStops q n t r = false) ∧ ∀ w ∈ t.holdWrites, writeConflict t w = false := by
  rw [stopCycle_eq, List.min?_eq_none_iff, stopCycles, List.append_eq_nil_iff, List.map_eq_nil_iff, List.map_eq_nil_iff,
    List.filter_eq_nil_iff, List.filter_eq_nil_iff]
  simp

theorem stopCycle_least {c : Nat} (h : s.stopCycle q n t = some c) :
    c ∈ stopCycles s q n t ∧ ∀ d ∈ stopCycles s q n t, c ≤ d := by
  rw [stopCycle_eq, List.min?_eq_some_iff] at h
  exact h

end

/-! ### The ends of a tile and of its re-run -/

section
variable {s : State} {q : QuayId} {b : BerthId} {faults : List TileFault} {r : TileRun} {f : Flight} {a : List Nat}

theorem updBerth_berth_other (s : State) (q : QuayId) {b c : BerthId} (h : c ≠ b) (g : Berth → Berth) :
    (s.updBerth q b g).berth q c = s.berth q c := by
  unfold State.updBerth State.berth
  rw [State.updQuay_quays, updAt_self, updAt_other _ _ h]

theorem seen_none (s : State) (q : QuayId) (b : BerthId) (env : TileEnv) (again : Bool) (t : Tile) (a : List Nat) :
    s.seen q b env again t (faultsOn a []) = [] := rfl

/-- The Berth at which a tile's first run captures its residue mismatch. -/
def capturedAt (s : State) (q : QuayId) (l : List Seen) : Option BerthId :=
  match drainSeen l with
  | some (p, _, _) => if (s.berth q p.berth).residue.valid then none else some p.berth
  | none => none

/-- A state that has captured it. -/
def State.captureDrain (s : State) (q : QuayId) (l : List Seen) : State :=
  match drainSeen l with
  | some (p, carried, computed) => s.updBerth q p.berth (captureResidue · p carried computed)
  | none => s

/-- A state in which a Berth's tile is held back for its re-run. -/
def State.holdBack (s : State) (q : QuayId) (b : BerthId) (r : TileRun) (l : List Seen) : State :=
  (s.captureDrain q l).updBerth q b fun x =>
    { x with tile := some { r with rerun := true, first := l, captured := capturedAt s q l } }

theorem exec_tileEnd (h : s.endingTile q b false = some (r, f, a)) : exec (.tileEnd q b faults) s = .next
    (if (s.seen q b r.env false r.tile (faultsOn a faults)).isEmpty then
      s.releaseTile f q b a r (runOps { r.env with faults := faultsOn a faults } r.tile.ops)
    else s.holdBack q b r (s.seen q b r.env false r.tile (faultsOn a faults))) := by
  simp only [exec, execTileEnd, h]
  cases (s.seen q b r.env false r.tile (faultsOn a faults)).isEmpty <;> rfl

theorem exec_tileEnd_none (h : s.endingTile q b false = none) : exec (.tileEnd q b faults) s = .next s := by
  simp only [exec, execTileEnd, h]

theorem exec_tileRerunEnd (h : s.endingTile q b true = some (r, f, a)) : exec (.tileRerunEnd q b faults) s = .next
    (if (s.seen q b r.env true r.tile (faultsOn a faults)).isEmpty then
      (s.corrected f q r.first).releaseTile f q b a r (runOps { r.env with faults := faultsOn a faults } r.tile.ops)
    else
      let x := s.contained f q r.captured (s.seen q b r.env true r.tile (faultsOn a faults))
      ((x.1.noteDiscarded f r).updArray q a ({ · with seq := .stopped, tile := none })).failQuiet f.q f.idx
        (x.2.headD 0x1002)) := by
  simp only [exec, execTileRerunEnd, h]
  cases (s.seen q b r.env true r.tile (faultsOn a faults)).isEmpty <;> rfl

theorem exec_tileRerunEnd_none (h : s.endingTile q b true = none) : exec (.tileRerunEnd q b faults) s = .next s := by
  simp only [exec, execTileRerunEnd, h]

theorem captureDrain_keeps (s : State) (q : QuayId) (l : List Seen) : Keeps 0x40000 s (s.captureDrain q l) := by
  unfold State.captureDrain
  split
  · exact keeps_updBerth rfl (.refl _ s) ..
  · exact .refl _ s

theorem holdBack_keeps (s : State) (q : QuayId) (b : BerthId) (r : TileRun) (l : List Seen) :
    Keeps 0x40000 s (s.holdBack q b r l) :=
  keeps_updBerth rfl (captureDrain_keeps s q l) ..

theorem captureDrain_residue {l : List Seen} {p : LanePos} {carried computed : BitVec 3}
    (hl : drainSeen l = some (p, carried, computed)) (hv : (s.berth q p.berth).residue.valid = false) :
    ((s.captureDrain q l).berth q p.berth).residue =
      { valid := true, column := BitVec.ofNat 6 p.col.val, carried, computed } := by
  have hcap : s.captureDrain q l = s.updBerth q p.berth (captureResidue · p carried computed) := by
    simp only [State.captureDrain, hl]
  rw [hcap, updBerth_berth_self, captureResidue, if_neg (Bool.eq_false_iff.1 hv)]

/-- What a first run that saw something leaves: its tile for a re-run, and the residue mismatch captured. -/
theorem holdBack_spec (s : State) (q : QuayId) (b : BerthId) (r : TileRun) (l : List Seen) :
    ((s.holdBack q b r l).berth q b).tile = some { r with rerun := true, first := l, captured := capturedAt s q l } ∧
      ∀ c : BerthId, ((s.holdBack q b r l).berth q c).residue = ((s.captureDrain q l).berth q c).residue := by
  unfold State.holdBack
  refine ⟨by rw [updBerth_berth_self], fun c => ?_⟩
  by_cases hc : c = b
  · rw [hc, updBerth_berth_self]
  · rw [updBerth_berth_other _ _ hc]

theorem capturedAt_iff {l : List Seen} {p : LanePos} {carried computed : BitVec 3}
    (hl : drainSeen l = some (p, carried, computed)) :
    capturedAt s q l = some p.berth ↔ (s.berth q p.berth).residue.valid = false := by
  have hcap : capturedAt s q l = if (s.berth q p.berth).residue.valid then none else some p.berth := by
    simp only [capturedAt, hl]
  rw [hcap]
  cases (s.berth q p.berth).residue.valid <;> simp

end

/-- Settles O39, by TILE_RUN's checks in their order, the reads and writes that stop a tile, and what each end leaves. -/
theorem tilesRunBehindTheirChecks : Obligations.TilesRunBehindTheirChecks := by
  unfold Obligations.TilesRunBehindTheirChecks
  refine ⟨fun s q b tile f a hfw hpower hreset hfence hpilot howner harray => ?_, fun s q b tile h => tileRun_unpiloted h,
    fun s q n t => ⟨?_, fun c hc => ?_⟩, fun s q b faults r f a => ⟨?_, fun h => ⟨fun hs => ?_, fun hs => ?_⟩,
      fun h => ⟨fun hs => ?_, fun hs => ?_⟩, exec_tileEnd_none, exec_tileRerunEnd_none⟩⟩
  · have hasked : TileAsked s q b f a := ⟨hfw, hpower, hreset, hfence, hpilot, howner, harray⟩
    refine ⟨fun r hr => tileRun_held hasked hr, fun hr => ⟨tileRun_waits hasked hr, tileRun_handshake hasked hr,
      fun hm hd hc => ?_⟩⟩
    have hrun := tileRun_first hasked hr hm hd hc
    have hcome : s.fetching? f (tileSources (tileWithin a tile)) =
        if s.dueOf f.entry.ctx (tileSources (tileWithin a tile)) = 0 ∨
          f.awaiting = false ∧ f.sources = tileSources (tileWithin a tile) then none
        else if f.awaiting = true then some s else some (s.askFor f.q f.idx (tileSources (tileWithin a tile))) :=
      fetching?_eq s f _
    refine ⟨fun e he => hrun.trans (congrArg _ (firstRun_faults he)), fun he hn => ⟨fun ha => ?_, fun ha => ?_⟩,
      fun reason he hyes hcode => hrun.trans (congrArg _ (firstRun_unread he (hcome.trans (if_pos hyes)) hcode)),
      fun he hyes hcode => ?_⟩
    · exact hrun.trans (congrArg _ (firstRun_fetches he (hcome.trans ((if_neg hn).trans (if_pos ha)))))
    · exact hrun.trans (congrArg _ (firstRun_fetches he
        (hcome.trans ((if_neg hn).trans (if_neg (ne_true_of_eq_false ha))))))
    · have hgo := hrun.trans (congrArg _ (firstRun_runs he (hcome.trans (if_pos hyes)) hcode))
      refine ⟨fun hbad => hgo.trans (congrArg _ (runTile_bad hbad)), fun hgood => ⟨fun hstop => ?_, fun k hstop => ?_⟩⟩
      · refine ⟨hgo.trans (congrArg _ (runTile_starts hgood hstop)), ?_⟩
        obtain ⟨r, htile, hcmd, hrerun⟩ := startTile_tile (s.operandsCorrected f q b (tileWithin a tile)) f q b a
          (tileWithin a tile)
        exact ⟨r, htile, hcmd, hrerun, startTile_mem ..⟩
      · exact hgo.trans (congrArg _ (runTile_stops (tile := tileWithin a tile) hgood hstop))
  · rw [stopCycle_eq_none]
    simp only [readStops_eq_false, writeConflict_eq_false]
    constructor
    · rintro ⟨hreads, hwrites⟩
      exact ⟨hreads, fun w hw => (hwrites w hw).2⟩
    · rintro ⟨hreads, hwrites⟩
      exact ⟨hreads, fun w hw => ⟨fun r hr => (hreads r hr).2.1 w hw, hwrites w hw⟩⟩
  · obtain ⟨hmem, hleast⟩ := stopCycle_least hc
    exact ⟨mem_stopCycles.1 hmem, fun r hr hstop => hleast _ (mem_stopCycles.2 (.inl ⟨r, hr, rfl, hstop⟩)),
      fun w hw hstop => hleast _ (mem_stopCycles.2 (.inr ⟨w, hw, rfl, hstop⟩))⟩
  · rintro rfl again
    exact seen_none ..
  · exact (exec_tileEnd h).trans (congrArg _ (if_pos (List.isEmpty_iff.2 hs)))
  · have hrun := (exec_tileEnd (faults := faults) h).trans (congrArg _ (if_neg (mt List.isEmpty_iff.1 hs)))
    obtain ⟨htile, hresidue⟩ := holdBack_spec s q b r (s.seen q b r.env false r.tile (faultsOn a faults))
    have hkeeps := holdBack_keeps s q b r (s.seen q b r.env false r.tile (faultsOn a faults))
    refine ⟨_, _, hrun, htile, fun p carried computed hl => ⟨capturedAt_iff hl, fun hv => ?_⟩,
      hkeeps.same .mem rfl, hkeeps.sameBut rfl⟩
    rw [hresidue]
    exact captureDrain_residue hl hv
  · exact (exec_tileRerunEnd h).trans (congrArg _ (if_pos (List.isEmpty_iff.2 hs)))
  · exact (exec_tileRerunEnd h).trans (congrArg _ (if_neg (mt List.isEmpty_iff.1 hs)))

end Sys2Proof.Machine
end

section
/-! Harbour accesses, their ECC and the scrub (R314–R321, R326). -/

namespace Sys2Proof.Machine

/-! ### Lines of the cache -/

section
variable {m : Memory} {n : Nat}

theorem held_map {g : CacheLine → CacheLine} (hg : ∀ l, (g l).line = l.line) :
    ({ m with lines := m.lines.map g } : Memory).held n = (m.held n).map g := by
  unfold Memory.held
  rw [List.find?_map]
  congr 2
  funext l
  exact congrArg (fun k => decide (k = n)) (hg l)

/-- A line that a store of `[a, a + k)` makes dirty where it lies in it. -/
def storedLine (a k : Nat) (l : CacheLine) : CacheLine :=
  if k != 0 && lineOf a ≤ l.line && l.line ≤ lineOf (a + k - 1) then
    { l with dirty := true, bad := l.bad && !(a ≤ l.line * 128 && l.line * 128 + 128 ≤ a + k) }
  else l

theorem storedLine_line (a k : Nat) (l : CacheLine) : (storedLine a k l).line = l.line := by
  unfold storedLine
  split <;> rfl

theorem storedLine_way (a k : Nat) (l : CacheLine) : (storedLine a k l).way = l.way := by
  unfold storedLine
  split <;> rfl

theorem storedLine_bad {a k : Nat} {l : CacheLine} (h : l.bad = false) : (storedLine a k l).bad = false := by
  unfold storedLine
  split
  · simp [h]
  · exact h

theorem storedLine_dirty {a k : Nat} {l : CacheLine} (hl : l.line = lineOf a) (hk : k ≠ 0) :
    (storedLine a k l).dirty = true := by
  have hend : lineOf a ≤ lineOf (a + k - 1) := Nat.div_le_div_right (by omega)
  unfold storedLine
  rw [if_pos (by simp [hl, hk, hend])]

theorem writes_lines (m : Memory) (a : Nat) (bs : List Byte) :
    (m.writes a bs).lines = m.lines ∧ (m.writes a bs).poison = m.poison := by
  induction bs generalizing m a with
  | nil => exact ⟨rfl, rfl⟩
  | cons b bs ih => exact ih (m.write a b) (a + 1)

theorem held_writes (m : Memory) (a : Nat) (bs : List Byte) : (m.writes a bs).held n = m.held n := by
  rw [Memory.held, (writes_lines m a bs).1, Memory.held]

theorem held_store (m : Memory) (a : Nat) (bs : List Byte) :
    (m.store a bs).held n = (m.held n).map (storedLine a bs.length) := by
  rw [← held_writes m a bs]
  exact held_map (m := { m.writes a bs with poison := ((m.writes a bs).unpoisonCovered a bs.length).poison })
    (storedLine_line a bs.length)

theorem poison_store {a : Nat} {bs : List Byte} (h : n ∉ m.poison) : n ∉ (m.store a bs).poison := by
  intro hn
  have hwas := List.mem_of_mem_filter hn
  rw [(writes_lines m a bs).2] at hwas
  exact h hwas

theorem bad_of_held {l : CacheLine} (h : m.held n = some l) : m.bad n = l.bad := by
  simp only [Memory.bad, h]

theorem bad_of_not_held (h : m.held n = none) : m.bad n = m.poison.contains n := by
  simp only [Memory.bad, h]

theorem line_of_held {l : CacheLine} (h : m.held n = some l) : l.line = n :=
  of_decide_eq_true (List.find?_some (p := fun l : CacheLine => decide (l.line = n)) h)

theorem ne_of_not_held (h : m.held n = none) {l : CacheLine} (hl : l ∈ m.lines) : l.line ≠ n := by
  have hno := List.find?_eq_none.1 h l hl
  simpa using hno

/-- What leaves the cache changes the poison of no line that it does not hold. -/
theorem poison_dropLines (h : m.held n = none) (p : CacheLine → Bool) :
    n ∈ (m.dropLines p).poison ↔ n ∈ m.poison := by
  have hback {l : CacheLine} (hl : l ∈ m.lines.filter fun l => p l && l.dirty) : l.line ≠ n :=
    ne_of_not_held h (List.mem_of_mem_filter hl)
  unfold Memory.dropLines
  dsimp only
  rw [List.mem_append, List.mem_filter]
  constructor
  · rintro (hn | ⟨hn, -⟩)
    · obtain ⟨l, hl, heq⟩ := List.mem_map.1 hn
      exact absurd heq (hback (List.mem_of_mem_filter hl))
    · exact hn
  · refine fun hn => .inr ⟨hn, ?_⟩
    rw [Bool.not_eq_true', List.any_eq_false]
    exact fun l hl => by simpa using hback hl

theorem read_fill (m : Memory) (a way : Nat) (dirty : Bool) (b : Nat) : (m.fill a way dirty).read b = m.read b := rfl

/-- The line that enters a cache which does not hold it. -/
theorem held_fill {a : Nat} (h : m.held (lineOf a) = none) (way : Nat) (dirty : Bool) :
    ∃ bad, (m.fill a way dirty).held (lineOf a) = some ⟨sliceOf a, setOf a, way, lineOf a, dirty, bad⟩ ∧
      (bad = true ↔ lineOf a ∈ m.poison) := by
  refine ⟨_, List.find?_cons_of_pos (by simp), ?_⟩
  rw [List.contains_iff_mem]
  exact poison_dropLines h _

end

/-! ### What a report stores -/

/-- A memory that stores have made of another: each line is held as it was, and none has turned bad. -/
structure StoredOnly (m m' : Memory) : Prop where
  held : ∀ n, (m'.held n).isSome = (m.held n).isSome
  bad : ∀ n, m.bad n = false → m'.bad n = false

namespace StoredOnly

theorem refl (m : Memory) : StoredOnly m m := ⟨fun _ => rfl, fun _ h => h⟩

theorem of_eq {m m' : Memory} (h : m' = m) : StoredOnly m m' := h ▸ refl m

theorem trans {m m' m'' : Memory} (h : StoredOnly m m') (k : StoredOnly m' m'') : StoredOnly m m'' :=
  ⟨fun n => (k.held n).trans (h.held n), fun n hn => k.bad n (h.bad n hn)⟩

theorem store (m : Memory) (a : Nat) (bs : List Byte) : StoredOnly m (m.store a bs) := by
  refine ⟨fun n => by rw [held_store, Option.isSome_map], fun n hn => ?_⟩
  cases hh : m.held n with
  | some l =>
    have hs : (m.store a bs).held n = some (storedLine a bs.length l) := by rw [held_store, hh, Option.map_some]
    rw [bad_of_held hs]
    exact storedLine_bad ((bad_of_held hh).symm.trans hn)
  | none =>
    have hs : (m.store a bs).held n = none := by rw [held_store, hh, Option.map_none]
    rw [bad_of_not_held hh, Bool.eq_false_iff] at hn
    rw [bad_of_not_held hs, Bool.eq_false_iff]
    exact fun hc => poison_store (fun hm => hn (List.contains_iff_mem.2 hm)) (List.contains_iff_mem.1 hc)

end StoredOnly

section
variable (s : State) (e : Event)

theorem logPut_storedOnly (buffered : Bool) : StoredOnly s.mem (s.logPut e buffered).mem := by
  unfold State.logPut
  dsimp only
  split
  · exact .refl _
  split
  · exact .refl _
  split
  · exact .store ..
  · rw [sendMsix_mem]
    exact .store ..

theorem trace_storedOnly (point arg0 arg1 : Nat) : StoredOnly s.mem (s.trace point arg0 arg1).mem := by
  unfold State.trace
  dsimp only
  split
  · exact .refl _
  split
  · exact .refl _
  · exact .store ..

theorem faultPut_storedOnly (buffered : Bool) : StoredOnly s.mem (s.faultPut e buffered).mem := by
  unfold State.faultPut
  dsimp only
  split
  · exact .refl _
  · refine .trans ?_ (trace_storedOnly ..)
    split
    · exact .store ..
    · rw [sendMsix_mem]
      exact .store ..

theorem faultEvent_storedOnly : StoredOnly s.mem (s.faultEvent e).mem := by
  unfold State.faultEvent
  dsimp only
  split
  · exact faultPut_storedOnly s e false
  split <;> exact .refl _

theorem logEvent_storedOnly : StoredOnly s.mem (s.logEvent e).mem := by
  unfold State.logEvent
  dsimp only
  split
  · exact logPut_storedOnly s e false
  split <;> exact .refl _

theorem countFault_mem (sev : Severity) : (s.countFault sev).mem = s.mem := by
  cases sev <;> rfl

theorem sendAreaMsix_mem (reason : BitVec 16) : (s.sendAreaMsix reason).mem = s.mem := by
  unfold State.sendAreaMsix
  split
  · exact sendMsix_mem ..
  split
  · exact sendMsix_mem ..
  · rfl

theorem report_storedOnly : StoredOnly s.mem (s.report e).mem := by
  unfold State.report
  dsimp only
  split
  · exact .refl _
  split
  · exact .refl _
  · rw [sendAreaMsix_mem]
    split
    · exact logEvent_storedOnly ..
    · refine .trans ?_ (faultEvent_storedOnly ..)
      rw [countFault_mem]
      exact logEvent_storedOnly ..

theorem StoredOnly.report {s t : State} (h : t.mem = s.mem) (e : Event) : StoredOnly s.mem (t.report e).mem :=
  h ▸ report_storedOnly t e

theorem reportLimited_storedOnly (key : Nat) : StoredOnly s.mem (s.reportLimited key e).mem := by
  unfold State.reportLimited
  dsimp only
  split
  · refine .report ?_ _
    rfl
  split
  · exact .refl _
  · refine .report ?_ _
    rfl

theorem countLine_eq (slice way set weight : Nat) (code : BitVec 16) :
    (s.countLine slice way set weight code).mem = s.mem ∧
      (s.countLine slice way set weight code).harbour = s.harbour := by
  have h := keeps_countLine (L := 0x2000000000) rfl (.refl _ s) slice way set weight code
  exact ⟨h.same .mem rfl, h.same .harbour rfl⟩

end

/-! ### What the ECC of a line finds -/

section
variable {s : State} {slice way set line : Nat} {cmd : Option (QueueId × Word)}

theorem harbourEcc_ok (s : State) (slice way set line : Nat) (kind : State.LineKind) (cmd : Option (QueueId × Word)) :
    s.harbourEcc slice way set line kind .ok cmd = s := by
  cases kind <;> rfl

/-- A line that ECC corrects, counted and reported (R317). -/
def State.lineCorrected (s : State) (slice way set : Nat) : State :=
  (({ s with harbour := { s.harbour with corrected := satInc s.harbour.corrected } } : State).reportLimited
    (State.markKey 0x4010 slice) { reason := 0x4010, severity := .corrected, counted := true }).countLine
      slice way set 1 0x4010

theorem harbourEcc_corrected_eq (kind : State.LineKind) :
    s.harbourEcc slice way set line kind .corrected cmd = s.lineCorrected slice way set := by
  cases kind <;> rfl

theorem harbourEcc_corrected (kind : State.LineKind) :
    (s.harbourEcc slice way set line kind .corrected cmd).harbour.corrected = satInc s.harbour.corrected := by
  rw [harbourEcc_corrected_eq, State.lineCorrected, (countLine_eq ..).2, reportLimited_harbour]

/-- A clean line that is read from the stacks again, counted and reported (R317). -/
def State.refetched (s : State) (slice way set line : Nat) : State :=
  (({ s with
      harbour := { s.harbour with refetched := satInc s.harbour.refetched }
      mem := s.mem.refetch line } : State).reportLimited (State.markKey 0x4011 slice)
    { reason := 0x4011, severity := .corrected, counted := true }).countLine slice way set 1 0x4011

theorem harbourEcc_clean : s.harbourEcc slice way set line .clean .uncorrectable cmd =
    if (s.refetched slice way set line).mem.bad line then (s.refetched slice way set line).readPoisoned cmd
    else s.refetched slice way set line := rfl

theorem harbourEcc_clean_none : s.harbourEcc slice way set line .clean .uncorrectable none =
    s.refetched slice way set line := by
  rw [harbourEcc_clean]
  split <;> rfl

theorem refetched_harbour : (s.refetched slice way set line).harbour.refetched = satInc s.harbour.refetched := by
  rw [State.refetched, (countLine_eq ..).2, reportLimited_harbour]

theorem refetched_storedOnly (s : State) (slice way set line : Nat) :
    StoredOnly (s.mem.refetch line) (s.refetched slice way set line).mem := by
  rw [State.refetched, (countLine_eq ..).1]
  exact reportLimited_storedOnly { s with harbour := _, mem := s.mem.refetch line } _ _

/-- A line as it is held after it has been read from the stacks again. -/
def refetchedLine (m : Memory) (line : Nat) (l : CacheLine) : CacheLine :=
  if l.line = line then { l with bad := m.poison.contains line } else l

theorem held_refetch (m : Memory) (line n : Nat) : (m.refetch line).held n = (m.held n).map (refetchedLine m line) := by
  refine held_map fun l => ?_
  split <;> rfl

theorem bad_refetch {m : Memory} (h : line ∉ m.poison) : (m.refetch line).bad line = false := by
  have hc : m.poison.contains line = false := Bool.eq_false_iff.2 fun hc => h (List.contains_iff_mem.1 hc)
  cases hh : m.held line with
  | none =>
    have hr : (m.refetch line).held line = none := by rw [held_refetch, hh, Option.map_none]
    rw [bad_of_not_held hr]
    exact hc
  | some l =>
    have hr : (m.refetch line).held line = some (refetchedLine m line l) := by rw [held_refetch, hh, Option.map_some]
    rw [bad_of_held hr, refetchedLine, if_pos (line_of_held hh)]
    exact hc

/-- A clean line that the stacks do not hold poisoned fails no command. -/
theorem harbourEcc_clean_unpoisoned (h : line ∉ s.mem.poison) :
    s.harbourEcc slice way set line .clean .uncorrectable cmd =
      s.harbourEcc slice way set line .clean .uncorrectable none := by
  have hbad : (s.refetched slice way set line).mem.bad line = false :=
    (refetched_storedOnly s slice way set line).bad line (bad_refetch h)
  rw [harbourEcc_clean_none, harbourEcc_clean, hbad]
  rfl

theorem poisonHarbour_mem (s : State) (slice way set line : Nat) :
    (s.poisonHarbour slice way set line).mem = s.mem.spoil line := rfl

theorem spoil_held {m : Memory} {l : CacheLine} (h : m.held line = some l) : m.spoil line =
    { m with lines := m.lines.map fun l => if l.line = line then { l with dirty := true, bad := true } else l } := by
  rw [Memory.spoil, h]
  rfl

theorem spoil_not_held {m : Memory} (h : m.held line = none) : m.spoil line = m.setPoison line true := by
  rw [Memory.spoil, h]
  rfl

theorem held_spoil_isSome (m : Memory) (line n : Nat) : ((m.spoil line).held n).isSome = (m.held n).isSome := by
  cases hh : m.held line with
  | none => rw [spoil_not_held hh, Memory.setPoison]; rfl
  | some l =>
    rw [spoil_held hh, held_map, Option.isSome_map]
    intro l
    split <;> rfl

theorem bad_spoil (m : Memory) (line : Nat) : (m.spoil line).bad line = true := by
  cases hh : m.held line with
  | none =>
    have hs : (m.setPoison line true).held line = none := hh
    rw [spoil_not_held hh, bad_of_not_held hs, List.contains_iff_mem]
    exact .head _
  | some l =>
    have hs := held_map (m := m) (n := line)
      (g := fun l => if l.line = line then { l with dirty := true, bad := true } else l)
      (fun l => by split <;> rfl)
    rw [hh, Option.map_some, if_pos (line_of_held hh)] at hs
    rw [spoil_held hh, bad_of_held hs]

theorem lineLost_harbour (s : State) (slice way set line : Nat) (cmd : Option (QueueId × Word)) :
    (s.lineLost slice way set line cmd).harbour = (s.poisonHarbour slice way set line).harbour := by
  unfold State.lineLost
  dsimp only
  rw [(countLine_eq ..).2, report_harbour]

theorem harbourEcc_dirty_count : (s.harbourEcc slice way set line .dirty .uncorrectable none).harbour.poisonedCount =
    satInc s.harbour.poisonedCount := by
  have hlost : s.harbourEcc slice way set line .dirty .uncorrectable none = s.lineLost slice way set line none := rfl
  rw [hlost, lineLost_harbour, State.poisonHarbour]
  dsimp only
  split <;> rfl

theorem lineLost_held (s : State) (slice way set line : Nat) (cmd : Option (QueueId × Word)) (n : Nat) :
    ((s.lineLost slice way set line cmd).mem.held n).isSome = (s.mem.held n).isSome := by
  unfold State.lineLost
  dsimp only
  rw [(countLine_eq ..).1, (report_storedOnly ..).held, poisonHarbour_mem, held_spoil_isSome]

/-- What the check of a line of the cache without a command finds leaves each line held as it was. -/
theorem harbourEcc_held (s : State) (slice way set line : Nat) {kind : State.LineKind}
    (hk : kind = .clean ∨ kind = .dirty) (ecc : EccResult) (n : Nat) :
    ((s.harbourEcc slice way set line kind ecc none).mem.held n).isSome = (s.mem.held n).isSome := by
  cases ecc with
  | ok => rw [harbourEcc_ok]
  | corrected =>
    rw [harbourEcc_corrected_eq, State.lineCorrected, (countLine_eq ..).1]
    exact (reportLimited_storedOnly ..).held n
  | uncorrectable =>
    rcases hk with rfl | rfl
    · rw [harbourEcc_clean_none, (refetched_storedOnly ..).held, held_refetch, Option.isSome_map]
    · exact lineLost_held ..

end

/-! ### Which space an address lies in -/

section
variable {s : State} {agent : Agent} {addr : Nat} {victim : Fin 16} {ecc : EccResult}
  {cmd : Option (QueueId × Word)}

theorem memory_lt_windowBase (p : Part) : p.memory < windowBase := by
  cases p <;> decide

theorem windowEnd_le_outboundBase : windowBase + windowSize ≤ outboundBase := by decide

theorem access_memory (hup : s.memoryUp = true) (ha : addr < s.part.memory) (w : Option (List Byte)) :
    exec (.harbourAccess agent addr w victim ecc cmd) s = .next
      (if s.reaches agent addr w.isSome then s.cacheAccess agent addr w victim.val ecc cmd else s) := by
  have hmem := memory_lt_windowBase s.part
  have hout := windowEnd_le_outboundBase
  have h1 : ¬ outboundBase ≤ addr := by omega
  have h2 : ¬ windowBase ≤ addr := by omega
  simp only [exec, execHarbourAccess, hup, h1, h2, ha, Bool.not_true, Bool.false_eq_true, if_false, decide_true,
    Bool.true_and]
  split <;> rfl

theorem access_window (hup : s.memoryUp = true) (h1 : windowBase ≤ addr) (h2 : addr < windowBase + windowSize)
    (w : Option (List Byte)) : exec (.harbourAccess agent addr w victim ecc cmd) s =
      .next (s.windowAccess agent addr w ecc cmd) := by
  have hout := windowEnd_le_outboundBase
  have h3 : ¬ outboundBase ≤ addr := by omega
  simp only [exec, execHarbourAccess, hup, h1, h2, h3, Bool.not_true, Bool.false_eq_true, if_false, if_true]

theorem access_outbound (hup : s.memoryUp = true) (h : outboundBase ≤ addr) :
    exec (.harbourAccess agent addr none victim ecc cmd) s = .next s ∧ ∀ bs : List Byte,
      exec (.harbourAccess agent addr (some bs) victim ecc cmd) s = .next (s.outboundWrite addr bs false) := by
  simp only [exec, execHarbourAccess, hup, h, Bool.not_true, Bool.false_eq_true, if_false, if_true, true_and,
    implies_true]

theorem access_nowhere (hup : s.memoryUp = true) (h : s.part.memory ≤ addr ∧ addr < windowBase ∨
    windowBase + windowSize ≤ addr ∧ addr < outboundBase) (w : Option (List Byte)) :
    exec (.harbourAccess agent addr w victim ecc cmd) s = .next s := by
  have hout := windowEnd_le_outboundBase
  have h1 : ¬ outboundBase ≤ addr := by omega
  rcases h with ⟨hm, hw⟩ | ⟨hw, -⟩
  · have h2 : ¬ windowBase ≤ addr := by omega
    have h3 : ¬ addr < s.part.memory := by omega
    simp only [exec, execHarbourAccess, hup, h1, h2, h3, Bool.not_true, Bool.false_eq_true, if_false, decide_false,
      Bool.false_and]
  · have h2 : windowBase ≤ addr := by omega
    have h3 : ¬ addr < windowBase + windowSize := by omega
    simp only [exec, execHarbourAccess, hup, h1, h2, h3, Bool.not_true, Bool.false_eq_true, if_false, if_true]

/-! ### The cache -/

/-- Does the way that replacement picks take the line? -/
def FreeWay (s : State) (addr : Nat) (victim : Fin 16) : Prop :=
  s.wayLocked victim.val (setOf addr) = false ∧ (sliceOf addr, victim.val, setOf addr) ∉ s.harbour.disabled

theorem placeLine_held {write : Bool} {v : Nat} (h : (s.mem.held (lineOf addr)).isSome = true) :
    s.placeLine addr write v = s := by
  rw [State.placeLine, h]
  rfl

theorem placeLine_free {write : Bool} (h : s.mem.held (lineOf addr) = none) (hf : FreeWay s addr victim) :
    s.placeLine addr write victim.val = s.updMem (·.fill addr victim.val write) := by
  obtain ⟨hlocked, hdisabled⟩ := hf
  have hc : s.harbour.disabled.contains (sliceOf addr, victim.val, setOf addr) = false :=
    Bool.eq_false_iff.2 fun hc => hdisabled (List.contains_iff_mem.1 hc)
  rw [State.placeLine, h, hlocked, hc]
  rfl

theorem placeLine_taken {write : Bool} (hf : ¬ FreeWay s addr victim) : s.placeLine addr write victim.val = s := by
  refine if_pos ?_
  by_contra hno
  rw [Bool.not_eq_true, Bool.or_eq_false_iff, Bool.or_eq_false_iff] at hno
  obtain ⟨⟨-, hlocked⟩, hc⟩ := hno
  exact hf ⟨hlocked, fun hm => Bool.eq_false_iff.1 hc (List.contains_iff_mem.2 hm)⟩

theorem placeLine_read (s : State) (addr : Nat) (write : Bool) (v a : Nat) :
    (s.placeLine addr write v).mem.read a = s.mem.read a := by
  unfold State.placeLine
  split
  · rfl
  · exact read_fill ..

theorem placeLine_keeps (s : State) (addr : Nat) (write : Bool) (v : Nat) :
    Keeps 0x80000 s (s.placeLine addr write v) :=
  keeps_placeLine rfl (.refl _ s) ..

theorem lineCheck_ok (s : State) (addr : Nat) (bs : List Byte) :
    s.lineCheck addr (some bs) .ok cmd = s := by
  unfold State.lineCheck
  cases s.mem.held (lineOf addr) with
  | none => rfl
  | some l =>
    dsimp only
    rw [harbourEcc_ok]
    split <;> rfl

theorem lineCheck_bare {bs : List Byte} (h : s.mem.held (lineOf addr) = none ∨ bs.length = 128 ∨
    s.mem.bad (lineOf addr) = true) : s.lineCheck addr (some bs) ecc cmd = s := by
  unfold State.lineCheck
  cases hh : s.mem.held (lineOf addr) with
  | none => rfl
  | some l =>
    refine if_pos ?_
    rcases h with h | h | h
    · rw [hh] at h
      exact absurd h (by simp)
    · simp [h]
    · rw [bad_of_held hh] at h
      simp [h]

/-- The kind of a line of the cache. -/
def lineKind (l : CacheLine) : State.LineKind := if l.dirty then .dirty else .clean

theorem lineCheck_write {bs : List Byte} {l : CacheLine} (h : s.mem.held (lineOf addr) = some l) (hn : bs.length ≠ 128)
    (hb : l.bad = false) : s.lineCheck addr (some bs) ecc cmd =
      s.harbourEcc l.slice l.way l.set (lineOf addr) (lineKind l) ecc none := by
  unfold State.lineCheck
  rw [h]
  exact if_neg (by simp [hn, hb])

theorem lineCheck_read {l : CacheLine} (h : s.mem.held (lineOf addr) = some l) (hb : l.bad = false) :
    s.lineCheck addr none ecc cmd = s.harbourEcc l.slice l.way l.set (lineOf addr) (lineKind l) ecc cmd := by
  unfold State.lineCheck
  rw [h]
  exact if_neg (Bool.eq_false_iff.1 hb)

theorem lineCheck_miss (h : s.mem.held (lineOf addr) = none) (hp : lineOf addr ∉ s.mem.poison) :
    s.lineCheck addr none ecc cmd = s := by
  have hbad : s.mem.bad (lineOf addr) = false := by
    rw [bad_of_not_held h]
    exact Bool.eq_false_iff.2 fun hc => hp (List.contains_iff_mem.1 hc)
  unfold State.lineCheck
  rw [h]
  exact if_neg (Bool.eq_false_iff.1 hbad)

theorem readPoisoned_fails {q : QueueId} {idx : Word} {f : Flight} (hf : s.flight? q idx = some f)
    (he : f.ended = false) : s.readPoisoned (some (q, idx)) = s.fail q idx 0x4012 := by
  simp only [State.readPoisoned, hf, he, Bool.false_eq_true, if_false]

theorem lineCheck_bad {q : QueueId} {idx : Word} {f : Flight} (hb : s.mem.bad (lineOf addr) = true)
    (hc : cmd = some (q, idx)) (hf : s.flight? q idx = some f) (he : f.ended = false) :
    s.lineCheck addr none ecc cmd = s.fail q idx 0x4012 := by
  subst hc
  rw [← readPoisoned_fails hf he]
  unfold State.lineCheck
  cases hh : s.mem.held (lineOf addr) with
  | none => exact if_pos hb
  | some l => exact if_pos ((bad_of_held hh).symm.trans hb)

theorem cacheWrite_dropped {bs : List Byte} (h1 : s.part.reserved ≤ addr) (h2 : agent ≠ .harbourmaster) (v : Nat) :
    s.cacheAccess agent addr (some bs) v .ok cmd = s := by
  refine (if_pos (by simp [h1, h2])).trans ?_
  exact lineCheck_ok s addr bs

theorem cacheWrite_lands {bs : List Byte} (h : addr < s.part.reserved ∨ agent = .harbourmaster) (v : Nat) :
    s.cacheAccess agent addr (some bs) v ecc cmd =
      ((s.lineCheck addr (some bs) ecc cmd).updMem (·.store addr bs)).placeLine addr true v :=
  if_neg (by rcases h with h | h <;> simp [h])

theorem cacheWrite_of_check {bs : List Byte} (h : s.lineCheck addr (some bs) ecc cmd = s) (v : Nat) :
    s.cacheAccess agent addr (some bs) v ecc cmd = s.cacheAccess agent addr (some bs) v .ok cmd := by
  unfold State.cacheAccess
  rw [h, lineCheck_ok]

/-- What a write that lands leaves of memory, and of the line that it lies in. -/
structure WriteLanded (s t : State) (addr : Nat) (victim : Fin 16) (bs : List Byte) : Prop where
  read : ∀ a, t.mem.read a = (s.mem.store addr bs).read a
  hit : ∀ l, bs ≠ [] → s.mem.held (lineOf addr) = some l → ∃ l', t.mem.held (lineOf addr) = some l' ∧
    l'.way = l.way ∧ l'.dirty = true
  miss : s.mem.held (lineOf addr) = none → FreeWay s addr victim → ∃ l', t.mem.held (lineOf addr) = some l' ∧
    l'.way = victim.val ∧ l'.dirty = true ∧ (l'.bad = true ↔ lineOf addr ∈ (s.mem.store addr bs).poison)

theorem writeLanded (s : State) (addr : Nat) (victim : Fin 16) (bs : List Byte) :
    WriteLanded s ((s.updMem (·.store addr bs)).placeLine addr true victim.val) addr victim bs := by
  have hstored (n : Nat) : (s.updMem (·.store addr bs)).mem.held n = (s.mem.held n).map (storedLine addr bs.length) :=
    held_store s.mem addr bs
  refine { read := fun a => placeLine_read .., hit := fun l hne hl => ?_, miss := fun hn hf => ?_ }
  · have hl' : (s.updMem (·.store addr bs)).mem.held (lineOf addr) = some (storedLine addr bs.length l) := by
      rw [hstored, hl, Option.map_some]
    rw [placeLine_held (by rw [hl', Option.isSome_some])]
    exact ⟨_, hl', storedLine_way .., storedLine_dirty (line_of_held hl) (fun h0 => hne (List.length_eq_zero_iff.1 h0))⟩
  · have hn' : (s.updMem (·.store addr bs)).mem.held (lineOf addr) = none := by rw [hstored, hn, Option.map_none]
    have hf' : FreeWay (s.updMem (·.store addr bs)) addr victim := hf
    obtain ⟨bad, hfill, hbad⟩ := held_fill hn' victim.val true
    rw [placeLine_free hn' hf']
    exact ⟨_, hfill, rfl, rfl, hbad⟩

/-- A write that hits a good line in part meets its ECC and lands there. -/
theorem cacheWrite_hit {bs : List Byte} {l : CacheLine} (hl : s.mem.held (lineOf addr) = some l) (hn : bs.length ≠ 128)
    (hb : l.bad = false) (h : addr < s.part.reserved ∨ agent = .harbourmaster) (v : Nat) :
    s.cacheAccess agent addr (some bs) v ecc cmd =
      (s.harbourEcc l.slice l.way l.set (lineOf addr) (lineKind l) ecc none).updMem (·.store addr bs) := by
  rw [cacheWrite_lands h, lineCheck_write hl hn hb]
  refine placeLine_held ?_
  have hkind : lineKind l = .clean ∨ lineKind l = .dirty := by
    unfold lineKind
    split
    · exact .inr rfl
    · exact .inl rfl
  rw [State.updMem_mem, held_store, Option.isSome_map, harbourEcc_held _ _ _ _ _ hkind, hl, Option.isSome_some]

/-! ### The locked window -/

theorem windowUser_iff (agent : Agent) (owner : Nat) : windowUser agent owner = true ↔
    owner ≠ 0 ∧ owner = userCode agent ∨ owner = 8 ∧ agent = .harbourmaster := by
  simp [windowUser, or_comm]

/-- What the user of a unit meets in a line of the window. -/
def windowCheck (u : State) (addr owner : Nat) (e : EccResult) (c : Option (QueueId × Word)) : State :=
  u.harbourEcc (sliceOf (addr % windowSize)) (lockedWay (addr % windowSize)) (setOf (addr % windowSize)) (lineOf addr)
    (if owner = 8 then .bootHold else .locked) e c

theorem windowCheck_ok (u : State) (addr owner : Nat) (c : Option (QueueId × Word)) :
    windowCheck u addr owner .ok c = u :=
  harbourEcc_ok ..

/-- The owner of the unit that an address of the window lies in. -/
def ownerAt (s : State) (addr : Nat) : Nat := s.unitOwner (addr % windowSize / 0x4_0000)

theorem windowWrite_eq (s : State) (agent : Agent) (addr : Nat) (bs : List Byte) :
    s.windowAccess agent addr (some bs) ecc cmd = windowCheck (s.windowWrite agent addr bs) addr (ownerAt s addr)
      (if bs.length = 128 || s.mem.poison.contains (lineOf addr) || windowUser agent (ownerAt s addr) = false
        then .ok else ecc) none := rfl

theorem windowRead_eq (s : State) (agent : Agent) (addr : Nat) : s.windowAccess agent addr none ecc cmd =
    if !windowUser agent (ownerAt s addr) then s
    else if s.mem.poison.contains (lineOf addr) then s.readPoisoned cmd
    else windowCheck s addr (ownerAt s addr) ecc cmd := rfl

theorem windowWrite_user (h : windowUser agent (ownerAt s addr) = true) (bs : List Byte) :
    s.windowWrite agent addr bs = { s with mem := s.mem.store addr bs } :=
  if_pos h

theorem windowWrite_stranger (h : windowUser agent (ownerAt s addr) = false) (bs : List Byte) :
    s.windowWrite agent addr bs = s.note 0x4014 .information 0 :=
  if_neg (Bool.eq_false_iff.1 h)

theorem windowAccess_bare {bs : List Byte} (hu : windowUser agent (ownerAt s addr) = true)
    (h : bs.length = 128 ∨ lineOf addr ∈ s.mem.poison) :
    s.windowAccess agent addr (some bs) ecc cmd = { s with mem := s.mem.store addr bs } := by
  have hbare : (bs.length = 128 || s.mem.poison.contains (lineOf addr) ||
      windowUser agent (ownerAt s addr) = false) = true := by
    rcases h with h | h
    · simp [h]
    · simp [h]
  rw [windowWrite_eq, if_pos hbare, windowCheck_ok, windowWrite_user hu]

theorem windowAccess_part {bs : List Byte} (hu : windowUser agent (ownerAt s addr) = true) (hn : bs.length ≠ 128)
    (hp : lineOf addr ∉ s.mem.poison) : s.windowAccess agent addr (some bs) ecc cmd =
      windowCheck { s with mem := s.mem.store addr bs } addr (ownerAt s addr) ecc none := by
  have hbare : (bs.length = 128 || s.mem.poison.contains (lineOf addr) ||
      windowUser agent (ownerAt s addr) = false) = false := by
    simp [hn, hp, hu]
  rw [windowWrite_eq, if_neg (Bool.eq_false_iff.1 hbare), windowWrite_user hu]

theorem windowAccess_stranger (hu : windowUser agent (ownerAt s addr) = false) :
    (∀ bs : List Byte, s.windowAccess agent addr (some bs) ecc cmd = s.note 0x4014 .information 0) ∧
      s.windowAccess agent addr none ecc cmd = s := by
  refine ⟨fun bs => ?_, ?_⟩
  · have hbare : (bs.length = 128 || s.mem.poison.contains (lineOf addr) ||
        windowUser agent (ownerAt s addr) = false) = true := by simp [hu]
    rw [windowWrite_eq, if_pos hbare, windowCheck_ok, windowWrite_stranger hu]
  · rw [windowRead_eq, hu]
    rfl

theorem windowAccess_read (hu : windowUser agent (ownerAt s addr) = true) (hp : lineOf addr ∉ s.mem.poison) :
    s.windowAccess agent addr none ecc cmd = windowCheck s addr (ownerAt s addr) ecc cmd := by
  have hc : s.mem.poison.contains (lineOf addr) = false :=
    Bool.eq_false_iff.2 fun hc => hp (List.contains_iff_mem.1 hc)
  rw [windowRead_eq, hu, hc]
  rfl

theorem windowAccess_poisoned {q : QueueId} {idx : Word} {f : Flight} (hu : windowUser agent (ownerAt s addr) = true)
    (hp : lineOf addr ∈ s.mem.poison) (hc : cmd = some (q, idx)) (hf : s.flight? q idx = some f)
    (he : f.ended = false) : s.windowAccess agent addr none ecc cmd = s.fail q idx 0x4012 := by
  rw [windowRead_eq, hu, List.contains_iff_mem.2 hp, hc]
  exact readPoisoned_fails hf he

end

/-! ### The scrub -/

section
variable {s : State} {slice : SliceId} {way : Fin 16} {set : Fin 512} {ecc : EccResult}

theorem scrub_locked (hup : s.memoryUp = true) (hl : s.wayLocked way.val set.val = true) :
    exec (.harbourScrub slice way set ecc) s = .next
      (if s.mem.poison.contains (lineOf (windowBase + lockedOffset slice.val way.val set.val)) then s
      else s.harbourEcc slice.val way.val set.val (lineOf (windowBase + lockedOffset slice.val way.val set.val))
        (if s.unitOwner (lockedUnit way.val set.val) = 8 then .bootHold else .locked) ecc none) := by
  simp only [exec, execHarbourScrub, hup, hl, Bool.not_true, Bool.false_eq_true, if_false, if_true]
  split <;> rfl

theorem scrub_empty (hup : s.memoryUp = true) (hl : s.wayLocked way.val set.val = false)
    (hn : (s.mem.lines.find? fun x => x.slice == slice.val && x.way == way.val && x.set == set.val) = none) :
    exec (.harbourScrub slice way set ecc) s = .next s := by
  simp only [exec, execHarbourScrub, hup, hl, hn, Bool.not_true, Bool.false_eq_true, if_false]

theorem scrub_held (hup : s.memoryUp = true) (hl : s.wayLocked way.val set.val = false) {l : CacheLine}
    (hs : (s.mem.lines.find? fun x => x.slice == slice.val && x.way == way.val && x.set == set.val) = some l) :
    exec (.harbourScrub slice way set ecc) s = .next
      (if l.bad then s else s.harbourEcc slice.val way.val set.val l.line (lineKind l) ecc none) := by
  simp only [exec, execHarbourScrub, hup, hl, hs, Bool.not_true, Bool.false_eq_true, if_false]
  cases l.bad <;> rfl

end

/-- Settles O47, by what each access finds in its line of the cache or of the window, what ECC then does, and the scrub. -/
theorem harbourAccessesAndTheirErrors : Obligations.HarbourAccessesAndTheirErrors := by
  unfold Obligations.HarbourAccessesAndTheirErrors
  refine ⟨fun s agent addr victim ecc cmd => ?_, fun s => ⟨fun slice way set line cmd => ?_,
    fun slice way set ecc hup => ⟨fun hl => ?_, fun hl => ?_⟩⟩⟩
  · intro kind run free hup
    refine ⟨fun ha => ⟨fun bs hr => ?_, fun hr => ?_, fun w hr => ?_⟩, fun h1 h2 => ?_, access_outbound hup,
      access_nowhere hup⟩
    · have hrun (e : EccResult) : run (some bs) e = .next (s.cacheAccess agent addr (some bs) victim.val e cmd) :=
        (access_memory hup ha (some bs)).trans (congrArg _ (if_pos hr))
      refine ⟨fun h1 h2 => (hrun .ok).trans (congrArg _ (cacheWrite_dropped h1 h2 _)), fun hland => ?_, fun hbare => ?_,
        fun l hl hn hb hland => (hrun ecc).trans (congrArg _ (cacheWrite_hit hl hn hb hland _))⟩
      · have hcache := cacheWrite_lands (ecc := .ok) (cmd := cmd) (bs := bs) hland victim.val
        rw [lineCheck_ok] at hcache
        have hlanded := writeLanded s addr victim bs
        have hkeeps : Keeps 0x80000 s ((s.updMem (·.store addr bs)).placeLine addr true victim.val) :=
          keeps_placeLine rfl (keeps_updMem_store rfl (.refl _ s) ..) ..
        exact ⟨_, (hrun .ok).trans (congrArg _ hcache), hlanded.read, hlanded.hit, hlanded.miss, hkeeps.sameBut rfl⟩
      · rw [hrun, hrun, cacheWrite_of_check (lineCheck_bare hbare)]
    · have hrun (e : EccResult) : run none e = .next ((s.lineCheck addr none e cmd).placeLine addr false victim.val) :=
        (access_memory hup ha none).trans (congrArg _ (if_pos hr))
      refine ⟨fun hn hp => ?_, fun l hl hb => ⟨?_, ?_⟩, fun q idx f hb hc hf he => ?_⟩
      · have hmiss := hrun ecc
        rw [lineCheck_miss hn hp] at hmiss
        refine ⟨_, hmiss, fun a => placeLine_read .., (placeLine_keeps s addr false victim.val).sameBut rfl,
          placeLine_taken, fun hfree => ?_⟩
        obtain ⟨bad, hfill, hbad⟩ := held_fill hn victim.val false
        have hgood : bad = false := Bool.eq_false_iff.2 fun h => hp (hbad.1 h)
        rw [placeLine_free hn hfree]
        exact hgood ▸ hfill
      · rw [hrun, lineCheck_read hl hb, harbourEcc_ok, placeLine_held (by rw [hl, Option.isSome_some])]
      · rw [hrun, lineCheck_read hl hb]
        rfl
      · rw [hrun, lineCheck_bad hb hc hf he]
    · exact (access_memory hup ha w).trans (congrArg _ (if_neg (Bool.eq_false_iff.1 hr)))
    · have hrun (w : Option (List Byte)) : run w ecc = .next (s.windowAccess agent addr w ecc cmd) :=
        access_window hup h1 h2 w
      intro o owner user check
      have huser : user ↔ windowUser agent (ownerAt s addr) = true := (windowUser_iff agent _).symm
      refine ⟨fun hu => ?_, fun hu => ?_⟩
      · have hu' := huser.1 hu
        exact ⟨fun bs => ⟨fun h => (hrun _).trans (congrArg _ (windowAccess_bare hu' h)),
          fun hn hp => (hrun _).trans (congrArg _ (windowAccess_part hu' hn hp))⟩,
          fun hp => (hrun _).trans (congrArg _ (windowAccess_read hu' hp)),
          fun q idx f hp hc hf he => (hrun _).trans (congrArg _ (windowAccess_poisoned hu' hp hc hf he))⟩
      · obtain ⟨hwrite, hread⟩ := windowAccess_stranger (ecc := ecc) (cmd := cmd)
          (Bool.eq_false_iff.2 (mt huser.2 hu))
        exact ⟨fun bs => (hrun _).trans (congrArg _ (hwrite bs)), (hrun _).trans (congrArg _ hread)⟩
  · refine ⟨?_, harbourEcc_clean_unpoisoned, bad_spoil s.mem line, fun kind hk => ?_, harbourEcc_dirty_count, rfl,
      fun kind => ⟨harbourEcc_ok .., harbourEcc_corrected kind⟩⟩
    · rw [harbourEcc_clean_none, refetched_harbour]
    · rcases List.mem_pair.1 hk with rfl | rfl <;> rfl
  · refine ⟨fun hp => (scrub_locked hup hl).trans (congrArg _ (if_pos (List.contains_iff_mem.2 hp))),
      fun hp => (scrub_locked hup hl).trans (congrArg _ (if_neg fun hc => hp (List.contains_iff_mem.1 hc)))⟩
  · exact ⟨scrub_empty hup hl, fun l hs => ⟨fun hb => (scrub_held hup hl hs).trans (congrArg _ (if_pos hb)),
      fun hb => (scrub_held hup hl hs).trans (congrArg _ (if_neg (Bool.eq_false_iff.1 hb)))⟩⟩

end Sys2Proof.Machine
end

section
/-! Codec sessions begin, code, decode and end (R382–R394). -/

namespace Sys2Proof.Machine

/-! ### Sessions and units -/

section
variable {s : State} {n : SessId}

theorem updSession_self (s : State) (n : SessId) (f : Session → Session) :
    (s.updSession n f).sessions[n] = f s.sessions[n] :=
  updAt_self _ _ _

theorem updSession_other (s : State) {n m : SessId} (h : m ≠ n) (f : Session → Session) :
    (s.updSession n f).sessions[m] = s.sessions[m] :=
  updAt_other _ _ h

theorem updSession_updSession (s : State) (n : SessId) (f g : Session → Session) :
    (s.updSession n f).updSession n g = s.updSession n fun x => g (f x) := by
  simp [State.updSession, updAt]

theorem setBusy_sessions (s : State) (u : Nat) (b : Bool) : (s.setBusy u b).sessions = s.sessions :=
  (keeps_setBusy (L := 0x20000000) rfl (.refl _ s) u b).same .sessions rfl

theorem setBusy_unitBusy {u : Nat} (h : u < 3) (b : Bool) : (s.setBusy u b).unitBusy u = b := by
  have hget : (s.setBusy u b).codecs[u]? = some { s.codecs[u] with busy := b } := by
    rw [State.setBusy, dif_pos h, Vector.getElem?_eq_getElem h]
    exact congrArg some (updAt_self s.codecs ⟨u, h⟩ _)
  simp only [State.unitBusy, hget]

/-- A report of a contained fault is counted where the device runs (R491). -/
theorem report_contained (hl : s.lost = false) (hf : s.frozen = false) {e : Event} (he : e.severity = .contained) :
    (s.report e).faults.contained = satInc s.faults.contained := by
  have hring (t : State) (e : Event) : (t.faultEvent e).faults.contained = t.faults.contained := by
    unfold State.faultEvent State.faultPut
    dsimp only
    split
    · split
      · rfl
      · rw [trace_faults]
        split
        · rfl
        · rw [sendMsix_faults]
    split <;> rfl
  have harea (t : State) (r : BitVec 16) : (t.sendAreaMsix r).faults = t.faults := by
    unfold State.sendAreaMsix
    split
    · exact sendMsix_faults ..
    split
    · exact sendMsix_faults ..
    · rfl
  have hlog (e : Event) : (s.logEvent e).faults = s.faults :=
    (keeps_logEvent (L := 0x20000080210) rfl (.refl _ s) e).same .faults rfl
  unfold State.report
  rw [if_neg (Bool.eq_false_iff.1 hl), if_neg (Bool.eq_false_iff.1 hf)]
  dsimp only
  rw [harea, he, if_neg (by decide), hring]
  simp only [State.countFault, hlog]

end

/-! ### Registers of a session -/

section
variable {s u : State} {n : SessId}

theorem exec_codecSessionEnable (hu : s.wakeSlack = u) :
    exec (.codecSessionEnable n) s = .next (if u.answers then u.enableSession n else u) := by
  show (if s.wakeSlack.answers then _ else _) = _
  rw [hu]
  split <;> rfl

theorem exec_codecSessionDisable (hu : s.wakeSlack = u) :
    exec (.codecSessionDisable n) s = .next (if u.answers then u.disableSession n else u) := by
  show (if s.wakeSlack.answers then _ else _) = _
  rw [hu]
  split <;> rfl

theorem exec_forceKey (hu : s.wakeSlack = u) :
    exec (.forceKey n) s = .next (if u.answers then u.writeForceKey n else u) := by
  show (if s.wakeSlack.answers then _ else _) = _
  rw [hu]
  split <;> rfl

theorem exec_codecFeedGo (hu : s.wakeSlack = u) :
    exec (.codecFeedGo n) s = .next (if u.answers then u.writeCodecGo n else u) := by
  show (if s.wakeSlack.answers then _ else _) = _
  rw [hu]
  split <;> rfl

theorem enableSession_unnegotiated (h : u.fwif.feat.getLsbD 6 = false) :
    u.enableSession n = u.note 0x5002 .information 0 := by
  rw [State.enableSession, h]
  rfl

theorem enableSession_enabled (h : u.fwif.feat.getLsbD 6 = true) (he : u.sessions[n].en = true) :
    u.enableSession n = u := by
  rw [State.enableSession, h, if_neg (by decide), if_pos he]

/-- The descriptor that an enable of a session reads, and whether it and what it names are sound (R380–R387). -/
def enableDesc (u : State) (n : SessId) : SessDesc := u.readDesc (u.sessions[n].descAddr.toNat / 64 * 64)

def soundDesc (u : State) (n : SessId) : Bool :=
  u.descBytesOk (u.sessions[n].descAddr.toNat / 64 * 64) && State.formatOk (enableDesc u n) &&
    State.modeOk (enableDesc u n) && u.areasOk (enableDesc u n) && u.streamOk (enableDesc u n)

/-- A session as an enable begins it. -/
def begunSession (shed : Bool) (d : SessDesc) (x : Session) : Session :=
  { x with
    en := true, active := true, suspended := shed, desc := some d, dataHead := 0, recHead := 0
    recTail := 0, feedBusy := false, forceKey := false, keyOwed := false, queue := [], coding := none, chunk := 0
    offset := 0, frameNo := 0, skipToAccess := false, written := 0, history := [], decoded := [], shown := 0
    gaps := [] }

theorem enableSession_judged (h : u.fwif.feat.getLsbD 6 = true) (he : u.sessions[n].en = false) :
    ∃ shed, u.enableSession n = if !soundDesc u n then u.refuseSession n 0xB001
      else if !u.capacityOk (enableDesc u n) then u.refuseSession n 0xB002
      else u.updSession n (begunSession shed (enableDesc u n)) := by
  refine ⟨match u.codecs[(enableDesc u n).unit]? with | some u => u.shed | none => false, ?_⟩
  rw [State.enableSession, h, if_neg (by decide), if_neg (Bool.eq_false_iff.1 he)]
  rfl

theorem writeForceKey_active (h : u.sessions[n].active = true) :
    u.writeForceKey n = u.updSession n ({ · with forceKey := true }) :=
  if_pos h

theorem writeForceKey_idle (h : u.sessions[n].active = false) : u.writeForceKey n = u :=
  if_neg (Bool.eq_false_iff.1 h)

theorem writeCodecGo_replay (h : u.replaying = true) : u.writeCodecGo n = u.replayDrop :=
  if_pos h

theorem writeCodecGo_idle (h : u.replaying = false) (hi : u.sessions[n].active = false ∨ u.sessions[n].desc = none) :
    u.writeCodecGo n = u := by
  refine (if_neg (Bool.eq_false_iff.1 h)).trans ?_
  dsimp only
  cases hd : u.sessions[n].desc with
  | none => simp only
  | some d =>
    have ha : u.sessions[n].active = false := hi.resolve_right (by rw [hd]; exact Option.some_ne_none d)
    simp only [ha, Bool.not_false, if_true]

theorem writeCodecGo_active {d : SessDesc} (h : u.replaying = false) (ha : u.sessions[n].active = true)
    (hd : u.sessions[n].desc = some d) : u.writeCodecGo n =
      if u.sessions[n].feedBusy || d.source = 1 then u.note 0xB001 .information 0
      else u.updSession n fun y => { y with
        feedBusy := true
        queue := if d.unit = 2 then y.queue else y.queue ++ [{
          tideSrc := u.now, blankFrom := none, torn := false
          buffer := u.sessions[n].feedAddr.toNat / 256 * 256 }] } := by
  refine (if_neg (Bool.eq_false_iff.1 h)).trans ?_
  dsimp only
  simp only [hd, ha, Bool.not_true, Bool.false_eq_true, if_false]

/-- A session that ends. -/
def stoppedSession (y : Session) : Session :=
  { y with
    en := false, active := false, suspended := false, feedBusy := false, coding := none, queue := [], decoded := [] }

theorem stopSession_sessions (s : State) (n : SessId) :
    (s.stopSession n).sessions = (s.updSession n stoppedSession).sessions := by
  unfold State.stopSession
  dsimp only
  split
  · split <;> rfl
  · rfl

end

/-! ### What a unit serves, and a frame's start -/

section
variable {s : State} {n : SessId} {d : SessDesc}

/-- What the model says of a session that its unit serves (R393). -/
structure Served (s : State) (n : SessId) (d : SessDesc) : Prop where
  desc : s.sessions[n].desc = some d
  unit : d.unit < 3
  lost : s.lost = false
  frozen : s.frozen = false

theorem served_of_serves (h : s.serves n = some d) : Served s n d := by
  unfold State.serves at h
  cases hd : s.sessions[n].desc with
  | none => simp only [hd, reduceCtorEq] at h
  | some d' =>
    simp only [hd] at h
    have hon := (Option.ite_none_right_eq_some.1 h).1
    obtain rfl := Option.some.inj (Option.ite_none_right_eq_some.1 h).2
    rw [Bool.and_eq_true_iff, Bool.and_eq_true_iff, Bool.and_eq_true_iff] at hon
    obtain ⟨⟨⟨hup, -⟩, -⟩, hunit⟩ := hon
    unfold State.pipesUp State.alive at hup
    simp only [Bool.and_eq_true_iff, Bool.not_eq_true'] at hup
    obtain ⟨⟨⟨⟨⟨⟨-, hlost⟩, -⟩, -⟩, -⟩, -⟩, hfrozen⟩ := hup
    refine ⟨hd, ?_, hlost, hfrozen⟩
    by_contra hge
    rw [Vector.getElem?_eq_none (Nat.le_of_not_lt hge)] at hunit
    exact absurd hunit (by decide)

theorem frameStart_unserved (h : s.serves n = none) (found : CodecStart) :
    exec (.codecFrameStart n found) s = .next s := by
  simp only [exec, execCodecFrameStart, h]

theorem frameStart_busy (h : s.serves n = some d) (hb : s.unitBusy d.unit = true ∨ s.sessions[n].coding ≠ none)
    (found : CodecStart) : exec (.codecFrameStart n found) s = .next s := by
  simp only [exec, execCodecFrameStart, h]
  refine if_pos ?_
  rcases hb with hb | hb
  · rw [hb, Bool.true_or]
  · rw [Option.isSome_iff_ne_none.2 hb, Bool.or_true]

theorem keyDue_forced {x : Session} (h : x.forceKey = true ∨ x.keyOwed = true ∨ x.frameNo = 0) (d : SessDesc) :
    x.keyDue d = true ∧ x.codesNext d = 0 := by
  have hkey : x.keyDue d = true := by
    unfold Session.keyDue
    rcases h with h | h | h <;> simp [h]
  exact ⟨hkey, if_pos hkey⟩

theorem keyDue_never {x : Session} (hk : d.keyint = 0) (hf : x.forceKey = false) (ho : x.keyOwed = false)
    (hn : x.frameNo ≠ 0) : x.keyDue d = false := by
  simp [Session.keyDue, hk, hf, ho, hn]

theorem bDue_spec {x : Session} (h : x.bDue d = true) : x.keyDue d = false ∧ bRun x.history < d.bframes := by
  unfold Session.bDue at h
  simp only [Bool.and_eq_true_iff, Bool.not_eq_true', decide_eq_true_eq] at h
  exact ⟨h.1.1, h.1.2⟩

/-- An encoder's session as it takes a frame. -/
def takenFrame (d : SessDesc) (src : SrcFrame) (x : Session) : Session :=
  { x with
    coding := some src, queue := x.queue.eraseIdx (x.codesNext d), chunk := 0, written := 0
    keyFrame := x.keyDue d, bFrame := x.bDue d, forceKey := false, keyOwed := false }

theorem frameStart_encodes (h : s.serves n = some d) (hb : s.unitBusy d.unit = false)
    (hc : s.sessions[n].coding = none) (hu : d.unit ≠ 2) {src : SrcFrame}
    (hq : s.sessions[n].queue[s.sessions[n].codesNext d]? = some src) (found : CodecStart) :
    exec (.codecFrameStart n found) s = .next ((s.updSession n (takenFrame d src)).setBusy d.unit true) := by
  simp only [exec, execCodecFrameStart, h, hb, hc, hu, hq, Option.isSome_none, Bool.or_self, Bool.false_eq_true, if_false]
  rfl

theorem frameStart_empty (h : s.serves n = some d) (hb : s.unitBusy d.unit = false)
    (hc : s.sessions[n].coding = none) (hu : d.unit ≠ 2)
    (hq : s.sessions[n].queue[s.sessions[n].codesNext d]? = none) (found : CodecStart) :
    exec (.codecFrameStart n found) s = .next s := by
  simp only [exec, execCodecFrameStart, h, hb, hc, hu, hq, Option.isSome_none, Bool.or_self, Bool.false_eq_true, if_false]

theorem frameStart_noInput (h : s.serves n = some d) (hb : s.unitBusy 2 = false)
    (hc : s.sessions[n].coding = none) (hu : d.unit = 2)
    (hq : s.sessions[n].queue = [] ∨ s.sessions[n].full d = true) (found : CodecStart) :
    exec (.codecFrameStart n found) s = .next s := by
  simp only [exec, execCodecFrameStart, h, hb, hc, hu, Option.isSome_none, Bool.or_self, Bool.false_eq_true, if_false,
    if_true]
  cases hqueue : s.sessions[n].queue with
  | nil => rfl
  | cons src rest => exact if_pos (hq.resolve_left (by rw [hqueue]; exact List.cons_ne_nil _ _))

/-- A decoder's session that has left an access unit behind, or has taken it. -/
def unitLeft (x : Session) : Session :=
  { x with history := x.history ++ [.unit false], queue := x.queue.tail }

def unitTaken (src : SrcFrame) (x : Session) : Session :=
  { x with
    history := x.history ++ [.unit true], coding := some src, queue := x.queue.tail, chunk := 0, written := 0
    skipToAccess := false }

theorem dropUnit_eq (s : State) (n : SessId) : s.dropUnit n = s.updSession n unitLeft :=
  updSession_updSession s n _ _

theorem takeUnitOf_eq (s : State) (n : SessId) (src : SrcFrame) :
    s.takeUnitOf n src = (s.updSession n (unitTaken src)).setBusy 2 true :=
  congrArg (State.setBusy · 2 true) (updSession_updSession s n _ _)

/-- What a decoder does at the start of an access unit. -/
def State.decodes (s : State) (n : SessId) (src : SrcFrame) : CodecStart → State
  | .bitstreamError => ((s.updSession n unitLeft).updSession n ({ · with skipToAccess := true })).report
      { reason := 0xB004, severity := .contained }
  | .ready => if s.sessions[n].skipToAccess then s.updSession n unitLeft
      else (s.updSession n (unitTaken src)).setBusy 2 true
  | .randomAccessPoint => (s.updSession n (unitTaken src)).setBusy 2 true

theorem frameStart_decodes (h : s.serves n = some d) (hb : s.unitBusy 2 = false)
    (hc : s.sessions[n].coding = none) (hu : d.unit = 2) {src : SrcFrame} {rest : List SrcFrame}
    (hq : s.sessions[n].queue = src :: rest) (hf : s.sessions[n].full d = false) (found : CodecStart) :
    exec (.codecFrameStart n found) s = .next (s.decodes n src found) := by
  simp only [exec, execCodecFrameStart, h, hb, hc, hu, hq, hf, Option.isSome_none, Bool.or_self, Bool.false_eq_true,
    if_false, if_true]
  cases found with
  | bitstreamError => simp only [dropUnit_eq, State.decodes]
  | ready => simp only [dropUnit_eq, takeUnitOf_eq, State.decodes]
  | randomAccessPoint => simp only [takeUnitOf_eq, State.decodes]

theorem decodes_error (h : Served s n d) (src : SrcFrame) :
    (s.decodes n src .bitstreamError).sessions[n] = { unitLeft s.sessions[n] with skipToAccess := true } ∧
      (s.decodes n src .bitstreamError).faults.contained = satInc s.faults.contained := by
  unfold State.decodes
  dsimp only
  constructor
  · rw [report_sessions, updSession_self, updSession_self]
  · rw [report_contained (by exact h.lost) (by exact h.frozen) rfl]
    rfl

theorem decodes_taken {src : SrcFrame} {found : CodecStart}
    (h : found = .ready ∧ s.sessions[n].skipToAccess = false ∨ found = .randomAccessPoint) :
    (s.decodes n src found).sessions[n] = unitTaken src s.sessions[n] ∧
      (s.decodes n src found).unitBusy 2 = true := by
  have heq : s.decodes n src found = (s.updSession n (unitTaken src)).setBusy 2 true := by
    rcases h with ⟨rfl, hskip⟩ | rfl
    · exact if_neg (Bool.eq_false_iff.1 hskip)
    · rfl
  rw [heq, setBusy_sessions]
  exact ⟨updSession_self .., setBusy_unitBusy (by decide) true⟩

theorem decodes_skipped {src : SrcFrame} (h : s.sessions[n].skipToAccess = true) :
    (s.decodes n src .ready).sessions[n] = unitLeft s.sessions[n] := by
  have heq : s.decodes n src .ready = s.updSession n unitLeft := if_pos h
  rw [heq, updSession_self]

end

/-! ### Records and abandoned frames -/

section
variable {s : State} {n : SessId} {d : SessDesc} {src : SrcFrame}

/-- What a record's store, its session's new tail and its FLAG leave, whatever bytes are stored. -/
theorem recorded_spec (s : State) (n : SessId) (g : Memory → Memory) (f : Session → Session) (point arg frame : Nat)
    (flag : FlagId) :
    (((((s.updMem g).updSession n f).trace point arg frame).addFlag flag 1).sessions = (s.updSession n f).sessions) ∧
      ((((s.updMem g).updSession n f).trace point arg frame).addFlag flag 1).flags =
        s.flags.set flag.val (s.flag flag + 1) := by
  have hadd (t : State) : (t.addFlag flag 1).sessions = t.sessions :=
    (keeps_addFlag (L := 0x220800cf2d0) rfl (.refl _ t) flag 1).same .sessions rfl
  have hflags (t : State) : (t.addFlag flag 1).flags = t.flags.set flag.val (t.flag flag + 1) :=
    setFlag_flags ..
  constructor
  · rw [hadd, trace_sessions, State.updSession_sessions, State.updSession_sessions, State.updMem_sessions]
  · rw [hflags, State.flag, trace_flags, State.updSession_flags, State.updMem_flags]
    rfl

/-- A record of a session moves its tail on and adds to its FLAG (R388). -/
theorem codecRecord_spec (h : s.sessions[n].desc = some d) (offset length : Nat) (src : SrcFrame) (frame : Nat)
    (slice qp : Byte) (flags : Nat) (blanked : Bool) :
    (s.codecRecord n offset length src frame slice qp flags blanked).sessions =
        (s.updSession n ({ · with recTail := s.sessions[n].recTail + 1 })).sessions ∧
      (s.codecRecord n offset length src frame slice qp flags blanked).flags =
        s.flags.set d.flag.val (s.flag d.flag + 1) := by
  unfold State.codecRecord
  simp only [h]
  exact recorded_spec ..

theorem codecRecord_session (h : s.sessions[n].desc = some d) (offset length : Nat) (src : SrcFrame) (frame : Nat)
    (slice qp : Byte) (flags : Nat) (blanked : Bool) :
    (s.codecRecord n offset length src frame slice qp flags blanked).sessions[n] =
      { s.sessions[n] with recTail := s.sessions[n].recTail + 1 } := by
  have hs := (codecRecord_spec h offset length src frame slice qp flags blanked).1
  generalize s.codecRecord n offset length src frame slice qp flags blanked = t at hs
  have hn : t.sessions[n] = (s.updSession n ({ · with recTail := s.sessions[n].recTail + 1 })).sessions[n] := by rw [hs]
  rw [hn, updSession_self]

/-- The end of a frame enters the history of its session and changes nothing else. -/
theorem noteCoded_session (s : State) (n : SessId) (d : SessDesc) (src : SrcFrame) (abandoned : Bool) :
    ∃ h, (s.noteCoded n d src abandoned).sessions[n] = { s.sessions[n] with history := h } := by
  unfold State.noteCoded
  split
  · exact ⟨_, rfl⟩
  · exact ⟨_, updSession_self ..⟩

theorem abandonRecord_spec (h : s.sessions[n].desc = some d) (src : SrcFrame) :
    (s.abandonRecord n d src).sessions[n] = { s.sessions[n] with
        recTail := s.sessions[n].recTail + 1, frameNo := s.sessions[n].frameNo + 1
        gaps := if d.unit = 2 then s.sessions[n].recTail :: s.sessions[n].gaps else s.sessions[n].gaps
        keyOwed := s.sessions[n].keyOwed || d.unit ≠ 2
        skipToAccess := s.sessions[n].skipToAccess || d.unit = 2 } ∧
      (s.abandonRecord n d src).flags = s.flags.set d.flag.val (s.flag d.flag + 1) := by
  unfold State.abandonRecord
  dsimp only
  constructor
  · rw [updSession_self, codecRecord_session h]
  · exact (codecRecord_spec h ..).2

/-- A frame that is abandoned has its record, and what follows it is owed or skipped (R389, R390). -/
theorem abandonFrame_spec (hd : s.sessions[n].desc = some d) (hc : s.sessions[n].coding = some src) :
    (s.abandonFrame n).sessions[n].coding = none ∧
      (s.abandonFrame n).sessions[n].frameNo = s.sessions[n].frameNo + 1 ∧
      (d.unit ≠ 2 → (s.abandonFrame n).sessions[n].keyOwed = true) ∧
      (d.unit = 2 → (s.abandonFrame n).sessions[n].skipToAccess = true) ∧
      (s.abandonFrame n).sessions[n].recTail = s.sessions[n].recTail + 1 := by
  have hsess : (s.abandonFrame n).sessions = (((s.abandonRecord n d src).noteCoded n d src true).updSession n fun x =>
      { x with coding := none, chunk := 0, written := 0 }).sessions := by
    unfold State.abandonFrame
    simp only [hc, hd]
    split <;> rfl
  generalize s.abandonFrame n = t at hsess
  obtain ⟨h, hnote⟩ := noteCoded_session (s.abandonRecord n d src) n d src true
  have hrec := (abandonRecord_spec hd src).1
  have ht : t.sessions[n] = { s.sessions[n] with
      recTail := s.sessions[n].recTail + 1, frameNo := s.sessions[n].frameNo + 1
      gaps := if d.unit = 2 then s.sessions[n].recTail :: s.sessions[n].gaps else s.sessions[n].gaps
      keyOwed := s.sessions[n].keyOwed || d.unit ≠ 2
      skipToAccess := s.sessions[n].skipToAccess || d.unit = 2
      history := h, coding := none, chunk := 0, written := 0 } := by
    have hn : t.sessions[n] = (((s.abandonRecord n d src).noteCoded n d src true).updSession n fun x =>
      { x with coding := none, chunk := 0, written := 0 }).sessions[n] := by rw [hsess]
    rw [hn, updSession_self, hnote, hrec]
  rw [ht]
  exact ⟨rfl, rfl, fun hu => by simp [hu], fun hu => by simp [hu], rfl⟩

/-! ### A chunk of an encoder's frame -/

/-- The chunk that a session codes, its bytes and their place in the ring (R383, R388, R389). -/
def codedChunk (s : State) (n : SessId) (d : SessDesc) (src : SrcFrame) : CodecChunk :=
  if s.skipsFrame n d src then Config.codecSkip d s.sessions[n].history s.sessions[n].chunk
  else s.chunkOf n d src s.sessions[n].chunk

def codedBytes (s : State) (n : SessId) (d : SessDesc) (src : SrcFrame) : List Byte :=
  chunkData d s.sessions[n].history
    (chunkBytes d (codedChunk s n d src) s.sessions[n].keyFrame s.sessions[n].chunk) s.sessions[n].written

def codedOffset (s : State) (n : SessId) (d : SessDesc) (src : SrcFrame) : Nat :=
  chunkOffset d s.sessions[n].offset (codedBytes s n d src).length

def codedFree (s : State) (n : SessId) (d : SessDesc) (src : SrcFrame) : Nat :=
  2 ^ d.dataLog2 - (BitVec.ofNat 32 (codedOffset s n d src) - s.sessions[n].dataHead).toNat

/-- The chunk's data and its record are stored. -/
def State.chunkStored (s : State) (n : SessId) (d : SessDesc) (src : SrcFrame) : State :=
  (((s.updMem (·.store (d.data + codedOffset s n d src % 2 ^ d.dataLog2) (codedBytes s n d src))).updSession n fun x =>
    { x with
      offset := codedOffset s n d src + (codedBytes s n d src).length
      written := x.written + (codedBytes s n d src).length }).codecRecord n (codedOffset s n d src)
    (codedBytes s n d src).length src s.sessions[n].frameNo (BitVec.ofNat 8 s.sessions[n].chunk)
    (chunkQp d (codedChunk s n d src) s.sessions[n].keyFrame s.sessions[n].bFrame)
    (chunkFlags d (codedChunk s n d src) s.sessions[n].keyFrame (lastChunk d s.sessions[n].chunk)
      (s.skipsFrame n d src)) (chunkBlanked d src s.sessions[n].chunk)).endCoding n d src
    (lastChunk d s.sessions[n].chunk)

theorem chunkCoded_eq (s : State) (n : SessId) (d : SessDesc) (src : SrcFrame) : s.chunkCoded n d src =
    if codedFree s n d src < (codedBytes s n d src).length || State.recordsFree s.sessions[n] = 0 then
      (s.abandonFrame n).note 0xB003 .information 0
    else s.chunkStored n d src := rfl

theorem chunkDone_unserved (h : s.serves n = none) : exec (.codecChunkDone n) s = .next s := by
  simp only [exec, execCodecChunkDone, h]

theorem chunkDone_idle (h : s.serves n = some d) (hc : s.sessions[n].coding = none) (hu : d.unit ≠ 2) :
    exec (.codecChunkDone n) s = .next s := by
  simp only [exec, execCodecChunkDone, h, hc, hu, if_false]

theorem chunkDone_encoder (h : s.serves n = some d) (hc : s.sessions[n].coding = some src) (hu : d.unit ≠ 2) :
    exec (.codecChunkDone n) s = .next (s.chunkCoded n d src) := by
  simp only [exec, execCodecChunkDone, h, hc, hu, if_false]

theorem chunkDone_decoder (h : s.serves n = some d) (hu : d.unit = 2) :
    exec (.codecChunkDone n) s = .next ((s.unitDecoded n d).frameShown n d) := by
  simp only [exec, execCodecChunkDone, h, hu, if_true]

/-- What the end of a chunk leaves of its session. -/
structure ChunkEnds (x y : Session) (src : SrcFrame) (last : Bool) : Prop where
  offset : y.offset = x.offset
  recTail : y.recTail = x.recTail
  ended : last = true → y.coding = none ∧ y.frameNo = x.frameNo + 1
  goes : last = false → y.coding = x.coding ∧ y.chunk = x.chunk + 1 ∧ y.frameNo = x.frameNo

theorem endCoding_ends (s : State) (n : SessId) (d : SessDesc) (src : SrcFrame) (last : Bool) :
    ChunkEnds s.sessions[n] (s.endCoding n d src last).sessions[n] src last := by
  cases last with
  | true =>
    obtain ⟨h, hnote⟩ := noteCoded_session s n d src false
    have hend : (s.endCoding n d src true).sessions = ((s.noteCoded n d src false).updSession n fun x =>
        { x with coding := none, chunk := 0, written := 0, frameNo := x.frameNo + 1 }).sessions := setBusy_sessions ..
    generalize s.endCoding n d src true = t at hend
    have ht : t.sessions[n] = ((s.noteCoded n d src false).updSession n fun x =>
        { x with coding := none, chunk := 0, written := 0, frameNo := x.frameNo + 1 }).sessions[n] := by rw [hend]
    rw [updSession_self, hnote] at ht
    rw [ht]
    exact ⟨rfl, rfl, fun _ => ⟨rfl, rfl⟩, nofun⟩
  | false =>
    have ht : (s.endCoding n d src false).sessions[n] = { s.sessions[n] with chunk := s.sessions[n].chunk + 1 } :=
      updSession_self ..
    rw [ht]
    exact ⟨rfl, rfl, nofun, fun _ => ⟨rfl, rfl, rfl⟩⟩

theorem chunkStored_spec (hd : s.sessions[n].desc = some d) (hc : s.sessions[n].coding = some src) :
    (s.chunkStored n d src).sessions[n].offset = codedOffset s n d src + (codedBytes s n d src).length ∧
      (s.chunkStored n d src).sessions[n].recTail = s.sessions[n].recTail + 1 ∧
      (s.chunkStored n d src).flags = s.flags.set d.flag.val (s.flag d.flag + 1) ∧
      (lastChunk d s.sessions[n].chunk = true → (s.chunkStored n d src).sessions[n].coding = none ∧
        (s.chunkStored n d src).sessions[n].frameNo = s.sessions[n].frameNo + 1) ∧
      (lastChunk d s.sessions[n].chunk = false → (s.chunkStored n d src).sessions[n].coding = some src ∧
        (s.chunkStored n d src).sessions[n].chunk = s.sessions[n].chunk + 1 ∧
        (s.chunkStored n d src).sessions[n].frameNo = s.sessions[n].frameNo) := by
  unfold State.chunkStored
  generalize lastChunk d s.sessions[n].chunk = last
  generalize codedOffset s n d src = off
  generalize codedBytes s n d src = bytes
  have hself := updSession_self (s.updMem (·.store (d.data + off % 2 ^ d.dataLog2) bytes)) n fun x => { x with
    offset := off + bytes.length, written := x.written + bytes.length }
  have hflags : ((s.updMem (·.store (d.data + off % 2 ^ d.dataLog2) bytes)).updSession n fun x => { x with
    offset := off + bytes.length, written := x.written + bytes.length }).flags = s.flags := rfl
  generalize (s.updMem (·.store (d.data + off % 2 ^ d.dataLog2) bytes)).updSession n (fun x => { x with
    offset := off + bytes.length, written := x.written + bytes.length }) = u at *
  have hud : u.sessions[n].desc = some d := by rw [hself]; exact hd
  generalize chunkQp d (codedChunk s n d src) s.sessions[n].keyFrame s.sessions[n].bFrame = qp
  generalize chunkFlags d (codedChunk s n d src) s.sessions[n].keyFrame last (s.skipsFrame n d src) = fl
  have hrec := codecRecord_session hud off bytes.length src s.sessions[n].frameNo (BitVec.ofNat 8 s.sessions[n].chunk)
    qp fl (chunkBlanked d src s.sessions[n].chunk)
  have hrecFlags := (codecRecord_spec hud off bytes.length src s.sessions[n].frameNo
    (BitVec.ofNat 8 s.sessions[n].chunk) qp fl (chunkBlanked d src s.sessions[n].chunk)).2
  generalize u.codecRecord n off bytes.length src s.sessions[n].frameNo (BitVec.ofNat 8 s.sessions[n].chunk)
    qp fl (chunkBlanked d src s.sessions[n].chunk) = v at *
  obtain ⟨hoffset, htail, hended, hgoes⟩ := endCoding_ends v n d src last
  have hend : (v.endCoding n d src last).flags = v.flags :=
    (keeps_endCoding (L := 0x30000000) rfl (.refl _ v) n d src last).same .flags rfl
  rw [hself] at hrec
  rw [hrec] at hoffset htail hended hgoes
  refine ⟨hoffset, htail, ?_, hended, fun h => ?_⟩
  · rw [hend, hrecFlags, State.flag, hflags]
    rfl
  · obtain ⟨hcoding, hchunk, hframe⟩ := hgoes h
    exact ⟨hcoding.trans hc, hchunk, hframe⟩

theorem chunkData_bound {most : Nat} {history : List CodecEvent} (h : frameBound d history = some most)
    (bytes : List Byte) {written : Nat} (hw : written ≤ most) :
    written + (chunkData d history bytes written).length ≤ most := by
  unfold chunkData
  simp only [h]
  have hlen := List.length_take_le (most - written) bytes
  omega

theorem chunkData_unbound {history : List CodecEvent} (h : frameBound d history = none) (bytes : List Byte)
    (written : Nat) : chunkData d history bytes written = bytes := by
  unfold chunkData
  simp only [h]

/-- Each coded unit of a byte stream begins with a start code (R382). -/
theorem chunkBytes_start {c : CodecChunk} (hcodec : d.codec ≠ 2) (hunits : c.units ≠ []) (key : Bool) (k : Nat) :
    (chunkBytes d c key k).take 4 = [0, 0, 0, 1] := by
  unfold chunkBytes unitBytes
  rw [if_neg hcodec]
  have hne : (if key && k = 0 then headUnits d else []) ++ c.units ≠ [] := List.append_ne_nil_of_right_ne_nil _ hunits
  obtain ⟨u, us, hl⟩ := List.exists_cons_of_ne_nil hne
  rw [hl]
  rfl

/-! ### A decoder's access unit and the frame that it shows -/

theorem unitDecoded_none (hc : s.sessions[n].coding = none) : s.unitDecoded n d = s := by
  simp only [State.unitDecoded, hc]

/-- The frame of an access unit joins those that wait for their turn in display order, and the decoder is free. -/
theorem unitDecoded_spec (hc : s.sessions[n].coding = some src) :
    (s.unitDecoded n d).sessions[n] = { s.sessions[n] with
        coding := none, chunk := 0
        decoded := s.sessions[n].decoded ++ [⟨src.tideSrc, decodedImage d (s.chunkOf n d src 0).bytes,
          (s.chunkOf n d src 0).key, (s.chunkOf n d src 0).grainOmitted⟩] } ∧
      (s.unitDecoded n d).unitBusy 2 = false := by
  generalize hframe : (⟨src.tideSrc, decodedImage d (s.chunkOf n d src 0).bytes, (s.chunkOf n d src 0).key,
    (s.chunkOf n d src 0).grainOmitted⟩ : Decoded) = frame
  have heq : s.unitDecoded n d = (s.updSession n fun x =>
      { x with coding := none, chunk := 0, decoded := x.decoded ++ [frame] }).setBusy 2 false := by
    simp only [State.unitDecoded, hc, hframe]
  rw [heq, setBusy_sessions]
  exact ⟨updSession_self .., setBusy_unitBusy (by decide) false⟩

theorem frameShown_idle (h : s.sessions[n].full d = true ∨
    Config.codecShown d s.sessions[n].history s.sessions[n].decoded.length = none) : s.frameShown n d = s := by
  unfold State.frameShown
  dsimp only
  rcases h with h | h
  · exact if_pos h
  · simp only [h, Option.bind_none, ite_self]

/-- The state without the frame that comes next in display order, and the source that its record names. -/
def State.withoutShown (s : State) (n : SessId) (k : Nat) : State :=
  s.updSession n fun x => { x with decoded := x.decoded.eraseIdx k }

def shownSource (f : Decoded) : SrcFrame := { tideSrc := f.tideSrc, blankFrom := none, torn := false, buffer := 0 }

theorem frameShown_eq (hf : s.sessions[n].full d = false) {k : Nat} {f : Decoded}
    (hk : Config.codecShown d s.sessions[n].history s.sessions[n].decoded.length = some k)
    (hget : s.sessions[n].decoded[k]? = some f) :
    s.frameShown n d = if State.recordsFree s.sessions[n] = 0 then
        ((s.withoutShown n k).abandonRecord n d (shownSource f)).note 0xB003 .information 0
      else (((s.withoutShown n k).updMem (·.store
          (d.data + s.sessions[n].shown % 2 ^ d.dataLog2 * bufferStep d) f.bytes)).codecRecord n
            (s.sessions[n].shown % 2 ^ d.dataLog2) 0 (shownSource f) s.sessions[n].frameNo 0 0
            (chunkFlags d { grainOmitted := f.grainOmitted } f.key true false) false).updSession n fun x =>
          { x with frameNo := x.frameNo + 1, shown := x.shown + 1 } := by
  unfold State.frameShown
  dsimp only
  rw [if_neg (Bool.eq_false_iff.1 hf)]
  simp only [hk, hget, Option.bind_some, Option.map_some]
  rfl

theorem withoutShown_session (s : State) (n : SessId) (k : Nat) :
    (s.withoutShown n k).sessions[n] = { s.sessions[n] with decoded := s.sessions[n].decoded.eraseIdx k } :=
  updSession_self ..

/-- A frame shown where no record is free is abandoned: its record names no frame buffer (R389). -/
theorem frameShown_abandoned (hd : s.sessions[n].desc = some d) (hf : s.sessions[n].full d = false) {k : Nat} {f : Decoded}
    (hk : Config.codecShown d s.sessions[n].history s.sessions[n].decoded.length = some k)
    (hget : s.sessions[n].decoded[k]? = some f) (hu : d.unit = 2) (hr : State.recordsFree s.sessions[n] = 0) :
    (s.frameShown n d).sessions[n] = { s.sessions[n] with
        decoded := s.sessions[n].decoded.eraseIdx k, recTail := s.sessions[n].recTail + 1
        frameNo := s.sessions[n].frameNo + 1, gaps := s.sessions[n].recTail :: s.sessions[n].gaps
        keyOwed := s.sessions[n].keyOwed, skipToAccess := true } ∧
      (s.frameShown n d).flags = s.flags.set d.flag.val (s.flag d.flag + 1) := by
  have hw := withoutShown_session s n k
  have hwd : (s.withoutShown n k).sessions[n].desc = some d := by rw [hw]; exact hd
  obtain ⟨hsess, hflags⟩ := abandonRecord_spec hwd (shownSource f)
  rw [frameShown_eq hf hk hget, if_pos hr]
  constructor
  · rw [note_sessions, hsess, hw, if_pos hu]
    simp only [hu, ne_eq, not_true, decide_false, decide_true, Bool.or_false, Bool.or_true]
  · rw [note_flags]
    exact hflags

/-- A frame shown where a record is free is stored in the next buffer and has its record (R388). -/
theorem frameShown_stored (hd : s.sessions[n].desc = some d) (hf : s.sessions[n].full d = false) {k : Nat} {f : Decoded}
    (hk : Config.codecShown d s.sessions[n].history s.sessions[n].decoded.length = some k)
    (hget : s.sessions[n].decoded[k]? = some f) (hr : State.recordsFree s.sessions[n] ≠ 0) :
    (s.frameShown n d).sessions[n] = { s.sessions[n] with
        decoded := s.sessions[n].decoded.eraseIdx k, recTail := s.sessions[n].recTail + 1
        frameNo := s.sessions[n].frameNo + 1, shown := s.sessions[n].shown + 1 } ∧
      (s.frameShown n d).flags = s.flags.set d.flag.val (s.flag d.flag + 1) := by
  rw [frameShown_eq hf hk hget, if_neg hr]
  generalize d.data + s.sessions[n].shown % 2 ^ d.dataLog2 * bufferStep d = place
  have hw : ((s.withoutShown n k).updMem (·.store place f.bytes)).sessions[n] =
      { s.sessions[n] with decoded := s.sessions[n].decoded.eraseIdx k } := withoutShown_session s n k
  have hwf : ((s.withoutShown n k).updMem (·.store place f.bytes)).flags = s.flags := rfl
  generalize (s.withoutShown n k).updMem (·.store place f.bytes) = u at *
  have hud : u.sessions[n].desc = some d := by rw [hw]; exact hd
  generalize s.sessions[n].shown % 2 ^ d.dataLog2 = slot
  generalize chunkFlags d { grainOmitted := f.grainOmitted } f.key true false = fl
  constructor
  · rw [updSession_self, codecRecord_session hud, hw]
  · rw [State.updSession_flags, (codecRecord_spec hud ..).2, State.flag, hwf]
    rfl

theorem decodedImage_length (d : SessDesc) (bytes : List Byte) : (decodedImage d bytes).length = sessFrame d := by
  have himage : ((bytes ++ List.replicate (sessFrame d - bytes.length) 0).take (sessFrame d)).length = sessFrame d := by
    rw [List.length_take, List.length_append, List.length_replicate]
    omega
  unfold decodedImage
  dsimp only
  split
  · rw [List.length_mapIdx, himage]
  · exact himage

/-- The low six bits of a P010 sample are clear (R386). -/
theorem decodedImage_low {d : SessDesc} (hd : d.depth = 10) (bytes : List Byte) {k : Nat} {b : Byte} (hk : k % 2 = 0)
    (hb : (decodedImage d bytes)[k]? = some b) : b &&& 0x3F = 0 := by
  unfold decodedImage at hb
  dsimp only at hb
  rw [if_pos hd, List.getElem?_mapIdx, Option.map_eq_some_iff] at hb
  obtain ⟨a, -, rfl⟩ := hb
  rw [if_pos hk, BitVec.and_assoc]
  exact BitVec.and_zero

end

/-! ### A feed -/

section
variable {s : State} {n : SessId} {d : SessDesc}

theorem codecFeedDone_idle (h : s.sessions[n].desc = none ∨ s.pipesUp = false ∨ s.sessions[n].feedBusy = false) :
    exec (.codecFeedDone n) s = .next s := by
  simp only [exec, execCodecFeedDone]
  cases hd : s.sessions[n].desc with
  | none => rfl
  | some d =>
    refine if_pos ?_
    rcases h with h | h | h
    · rw [hd] at h
      exact absurd h (Option.some_ne_none d)
    · rw [h]; rfl
    · rw [h, Bool.not_false, Bool.or_true]

/-- A feed that has been read ends: its session has the bytes, and FEED_BUSY clears (R387). -/
theorem codecFeedDone_read (hd : s.sessions[n].desc = some d) (hup : s.pipesUp = true)
    (hb : s.sessions[n].feedBusy = true) : ∃ t, exec (.codecFeedDone n) s = .next t ∧
      t.sessions[n] = { s.sessions[n].feedRead d (s.codecFeedBytes n d) s.now with feedBusy := false } ∧
      ∀ m : SessId, m ≠ n → t.sessions[m] = s.sessions[m] := by
  refine ⟨((s.record 0x09 0 ([BitVec.ofNat 8 (32 + n.val), 0, 0, 0] ++ leBytes 4 s.sessions[n].frameNo)
    (s.codecFeedBytes n d)).updSession n fun x => { x.feedRead d (s.codecFeedBytes n d) (s.record 0x09 0
      ([BitVec.ofNat 8 (32 + n.val), 0, 0, 0] ++ leBytes 4 s.sessions[n].frameNo) (s.codecFeedBytes n d)).now with
        feedBusy := false }), ?_, ?_, fun m hm => ?_⟩
  · simp only [exec, execCodecFeedDone, hd, hup, hb, Bool.not_true, Bool.or_self, Bool.false_eq_true, if_false]
  · rw [updSession_self, record_sessions, State.now, record_tide]
    rfl
  · rw [updSession_other _ hm, record_sessions]

theorem feedRead_decoder (hu : d.unit = 2) (x : Session) (bytes : List Byte) (now : Tick) :
    ∃ new : Nat, (x.feedRead d bytes now).queue = x.queue ++ List.replicate new
      { tideSrc := now, blankFrom := none, torn := false, buffer := 0 } := by
  unfold Session.feedRead
  rw [if_pos hu]
  exact ⟨_, rfl⟩

theorem feedRead_encoder (hu : d.unit ≠ 2) (x : Session) (bytes : List Byte) (now : Tick) :
    (∀ f ∈ (x.feedRead d bytes now).queue, f.image ≠ none) ∧
      (x.feedRead d bytes now).queue.length = x.queue.length := by
  unfold Session.feedRead
  rw [if_neg hu]
  dsimp only
  refine ⟨fun f hf => ?_, List.length_map _⟩
  obtain ⟨g, -, rfl⟩ := List.mem_map.1 hf
  split
  · exact Option.some_ne_none bytes
  next hsome => exact fun hnone => hsome (by rw [hnone]; rfl)

end

/-! ### The clauses -/

section
variable {s u : State} {n : SessId} {d : SessDesc} {src : SrcFrame}

/-- A sound session for which its unit has room is begun by its enable. -/
theorem exec_codecSessionEnable_begins (hu : s.wakeSlack = u) (ha : u.answers = true)
    (hfeat : u.fwif.feat.getLsbD 6 = true) (he : u.sessions[n].en = false) (hsound : soundDesc u n = true)
    (hcap : u.capacityOk (enableDesc u n) = true) :
    ∃ shed, exec (.codecSessionEnable n) s = .next (u.updSession n (begunSession shed (enableDesc u n))) := by
  obtain ⟨shed, hjudged⟩ := enableSession_judged (n := n) hfeat he
  refine ⟨shed, ?_⟩
  rw [exec_codecSessionEnable hu, if_pos ha, hjudged, hsound, hcap]
  rfl

theorem exec_codecSessionEnable_refused (hu : s.wakeSlack = u) (ha : u.answers = true)
    (hfeat : u.fwif.feat.getLsbD 6 = true) (he : u.sessions[n].en = false) :
    (soundDesc u n = false → exec (.codecSessionEnable n) s = .next (u.refuseSession n 0xB001)) ∧
      (soundDesc u n = true → u.capacityOk (enableDesc u n) = false →
        exec (.codecSessionEnable n) s = .next (u.refuseSession n 0xB002)) := by
  obtain ⟨shed, hjudged⟩ := enableSession_judged (n := n) hfeat he
  rw [exec_codecSessionEnable hu, if_pos ha, hjudged]
  constructor
  · intro hsound
    rw [hsound]
    rfl
  · intro hsound hcap
    rw [hsound, hcap]
    rfl

/-- A session that is disabled ends, and no other does (R393). -/
theorem disableSession_session (he : u.sessions[n].en = true) :
    (u.disableSession n).sessions[n] = stoppedSession u.sessions[n] ∧
      ∀ m : SessId, m ≠ n → (u.disableSession n).sessions[m] = u.sessions[m] := by
  have hsess : (u.disableSession n).sessions = (u.updSession n stoppedSession).sessions := by
    rw [State.disableSession, if_pos he, stopSession_sessions]
  generalize u.disableSession n = t at hsess
  constructor
  · rw [hsess, updSession_self]
  · intro m hm
    rw [hsess, updSession_other _ hm]

theorem exec_codecFeedGo_active (hu : s.wakeSlack = u) (ha : u.answers = true) (hr : u.replaying = false)
    (hx : u.sessions[n].active = true) (hd : u.sessions[n].desc = some d) :
    (u.sessions[n].feedBusy = true ∨ d.source = 1 →
        exec (.codecFeedGo n) s = .next (u.note 0xB001 .information 0)) ∧
      (u.sessions[n].feedBusy = false → d.source ≠ 1 →
        exec (.codecFeedGo n) s = .next (u.updSession n fun y => { y with
          feedBusy := true
          queue := if d.unit = 2 then y.queue else y.queue ++ [{
            tideSrc := u.now, blankFrom := none, torn := false
            buffer := u.sessions[n].feedAddr.toNat / 256 * 256 }] })) := by
  rw [exec_codecFeedGo hu, if_pos ha, writeCodecGo_active hr hx hd]
  constructor
  · intro h
    exact congrArg Host.Outcome.next (if_pos (by rwa [Bool.or_eq_true, decide_eq_true_eq]))
  · intro hb hs
    exact congrArg Host.Outcome.next (if_neg (by rw [hb, Bool.false_or, decide_eq_true_eq]; exact hs))

/-- A frame that an encoder takes. -/
theorem frameStart_taken (h : s.serves n = some d) (hb : s.unitBusy d.unit = false)
    (hc : s.sessions[n].coding = none) (hu : d.unit ≠ 2)
    (hq : s.sessions[n].queue[s.sessions[n].codesNext d]? = some src) (found : CodecStart) :
    ∃ t, exec (.codecFrameStart n found) s = .next t ∧ t.sessions[n] = takenFrame d src s.sessions[n] ∧
      (d.unit < 2 → t.unitBusy d.unit = true) ∧ (∀ m : SessId, m ≠ n → t.sessions[m] = s.sessions[m]) ∧
      s.sameBut [.sessions, .codecs] t := by
  refine ⟨_, frameStart_encodes h hb hc hu hq found, ?_, fun hlt => setBusy_unitBusy (by omega) true, fun m hm => ?_, ?_⟩
  · rw [setBusy_sessions, updSession_self]
  · rw [setBusy_sessions, updSession_other _ hm]
  · exact (keeps_setBusy (L := 0x30000000) rfl (keeps_updSession (L := 0x30000000) rfl (.refl _ s) n _) d.unit
      true).sameBut rfl

/-- A decoder's access unit is left behind or taken, by what was found (R390). -/
theorem frameStart_unit (h : s.serves n = some d) (hb : s.unitBusy 2 = false)
    (hc : s.sessions[n].coding = none) (hu : d.unit = 2) {rest : List SrcFrame}
    (hq : s.sessions[n].queue = src :: rest) (hf : s.sessions[n].full d = false) (found : CodecStart) :
    ∃ t, exec (.codecFrameStart n found) s = .next t ∧ t.sessions[n].queue = rest ∧
      s.sameBut (mayChange (.codecFrameStart n found)) t ∧
      (found = .bitstreamError → t.sessions[n].skipToAccess = true ∧ t.sessions[n].coding = none ∧
        t.faults.contained = satInc s.faults.contained) ∧
      (found = .ready → s.sessions[n].skipToAccess = true → t.sessions[n].coding = none ∧
        t.sessions[n].skipToAccess = true) ∧
      (found = .ready ∧ s.sessions[n].skipToAccess = false ∨ found = .randomAccessPoint →
        t.sessions[n].coding = some src ∧ t.sessions[n].skipToAccess = false ∧ t.unitBusy 2 = true) := by
  have hrun := frameStart_decodes h hb hc hu hq hf found
  have hrest : s.sessions[n].queue.tail = rest := by rw [hq]; rfl
  refine ⟨_, hrun, ?_, exec_frame hrun, ?_, ?_, ?_⟩
  · cases found with
    | bitstreamError => rw [(decodes_error (served_of_serves h) src).1]; exact hrest
    | randomAccessPoint => rw [(decodes_taken (.inr rfl)).1]; exact hrest
    | ready =>
      cases hskip : s.sessions[n].skipToAccess with
      | true => rw [decodes_skipped hskip]; exact hrest
      | false => rw [(decodes_taken (.inl ⟨rfl, hskip⟩)).1]; exact hrest
  · rintro rfl
    obtain ⟨hsess, hcount⟩ := decodes_error (served_of_serves h) src
    exact ⟨by rw [hsess], by rw [hsess]; exact hc, hcount⟩
  · rintro rfl hskip
    rw [decodes_skipped hskip]
    exact ⟨hc, hskip⟩
  · intro hfound
    obtain ⟨hsess, hbusy⟩ := decodes_taken (src := src) hfound
    exact ⟨by rw [hsess]; rfl, by rw [hsess]; rfl, hbusy⟩

/-- A chunk of an encoder's frame for which the ring has no room, or has it. -/
theorem chunkDone_coded (h : s.serves n = some d) (hc : s.sessions[n].coding = some src) (hu : d.unit ≠ 2) :
    (codedFree s n d src < (codedBytes s n d src).length ∨ State.recordsFree s.sessions[n] = 0 →
        exec (.codecChunkDone n) s = .next ((s.abandonFrame n).note 0xB003 .information 0)) ∧
      ((codedBytes s n d src).length ≤ codedFree s n d src → State.recordsFree s.sessions[n] ≠ 0 →
        exec (.codecChunkDone n) s = .next (s.chunkStored n d src)) := by
  rw [chunkDone_encoder h hc hu, chunkCoded_eq]
  constructor
  · intro hfull
    exact congrArg Host.Outcome.next (if_pos (by rwa [Bool.or_eq_true, decide_eq_true_eq, decide_eq_true_eq]))
  · intro hroom hrec
    refine congrArg Host.Outcome.next (if_neg ?_)
    rw [Bool.or_eq_true, decide_eq_true_eq, decide_eq_true_eq, not_or]
    exact ⟨Nat.not_lt.2 hroom, hrec⟩

/-- The frame that comes next in display order is shown, in a buffer where a record is free (R388, R389). -/
theorem frameShown_spec {k : Nat} {f : Decoded} (hd : s.sessions[n].desc = some d) (hf : s.sessions[n].full d = false)
    (hk : Config.codecShown d s.sessions[n].history s.sessions[n].decoded.length = some k)
    (hget : s.sessions[n].decoded[k]? = some f) (hu : d.unit = 2) :
    (s.frameShown n d).sessions[n].decoded = s.sessions[n].decoded.eraseIdx k ∧
      (s.frameShown n d).sessions[n].frameNo = s.sessions[n].frameNo + 1 ∧
      (s.frameShown n d).sessions[n].recTail = s.sessions[n].recTail + 1 ∧
      (s.frameShown n d).flags = s.flags.set d.flag.val (s.flag d.flag + 1) ∧
      (State.recordsFree s.sessions[n] ≠ 0 → (s.frameShown n d).sessions[n].shown = s.sessions[n].shown + 1 ∧
        (s.frameShown n d).sessions[n].gaps = s.sessions[n].gaps) ∧
      (State.recordsFree s.sessions[n] = 0 → (s.frameShown n d).sessions[n].shown = s.sessions[n].shown ∧
        (s.frameShown n d).sessions[n].gaps = s.sessions[n].recTail :: s.sessions[n].gaps) := by
  by_cases hr : State.recordsFree s.sessions[n] = 0
  · obtain ⟨hsess, hflags⟩ := frameShown_abandoned hd hf hk hget hu hr
    rw [hsess]
    exact ⟨rfl, rfl, rfl, hflags, fun hne => absurd hr hne, fun _ => ⟨rfl, rfl⟩⟩
  · obtain ⟨hsess, hflags⟩ := frameShown_stored hd hf hk hget hr
    rw [hsess]
    exact ⟨rfl, rfl, rfl, hflags, fun _ => ⟨rfl, rfl⟩, fun heq => absurd heq hr⟩

end

/-- Settles O53, by the end of each of a session's commands: what its enable begins, the frame it takes, the chunk it
stores or abandons, and the frame it shows. -/
theorem sessionsCodeFrames : Obligations.SessionsCodeFrames := by
  unfold Obligations.SessionsCodeFrames
  intro s n
  dsimp only
  refine ⟨⟨fun ha => ⟨?_, ?_, ?_, ?_, ?_, ?_, ?_, ?_, ?_, ?_⟩, fun ha => ?_⟩, ?_, ?_, ?_, ?_, ?_, ?_, ?_, ?_, ?_⟩
  · intro hfeat
    rw [exec_codecSessionEnable rfl, if_pos ha, enableSession_unnegotiated hfeat]
  · intro hfeat he
    rw [exec_codecSessionEnable rfl, if_pos ha, enableSession_enabled hfeat he]
  · intro he hfeat
    obtain ⟨hunsound, hsmall⟩ := exec_codecSessionEnable_refused rfl ha hfeat he
    refine ⟨hunsound, hsmall, fun hsound hcap => ?_⟩
    obtain ⟨shed, hrun⟩ := exec_codecSessionEnable_begins rfl ha hfeat he hsound hcap
    have hself := updSession_self s.wakeSlack n (begunSession shed (enableDesc s.wakeSlack n))
    have hother {m : SessId} (hm : m ≠ n) :=
      updSession_other s.wakeSlack hm (begunSession shed (enableDesc s.wakeSlack n))
    generalize s.wakeSlack.updSession n (begunSession shed (enableDesc s.wakeSlack n)) = t at hrun hself hother
    refine ⟨t, hrun, ?_⟩
    rw [hself]
    exact ⟨rfl, rfl, rfl, rfl, rfl, rfl, rfl, rfl, rfl, rfl, rfl,
      fun m hm => (hother hm).trans (by rw [wakeSlack_sessions]), exec_frame hrun⟩
  · intro he
    have hrun := exec_codecSessionDisable (n := n) (s := s) rfl
    rw [if_pos ha] at hrun
    obtain ⟨hself, hother⟩ := disableSession_session he
    refine ⟨_, hrun, ?_⟩
    rw [hself]
    exact ⟨rfl, rfl, rfl, rfl, fun m hm => (hother m hm).trans (by rw [wakeSlack_sessions]), exec_frame hrun⟩
  · intro he
    rw [exec_codecSessionDisable rfl, if_pos ha, State.disableSession, if_neg (Bool.eq_false_iff.1 he)]
  · intro hx
    rw [exec_forceKey rfl, if_pos ha, writeForceKey_active hx]
  · intro hx
    rw [exec_forceKey rfl, if_pos ha, writeForceKey_idle hx]
  · intro hr
    rw [exec_codecFeedGo rfl, if_pos ha, writeCodecGo_replay hr]
  · intro hr hi
    rw [exec_codecFeedGo rfl, if_pos ha, writeCodecGo_idle hr hi]
  · intro d hr hx hd
    exact exec_codecFeedGo_active rfl ha hr hx hd
  · rw [exec_codecSessionEnable rfl, exec_codecSessionDisable rfl, exec_forceKey rfl, exec_codecFeedGo rfl,
      if_neg (Bool.eq_false_iff.1 ha), if_neg (Bool.eq_false_iff.1 ha), if_neg (Bool.eq_false_iff.1 ha),
      if_neg (Bool.eq_false_iff.1 ha)]
    exact ⟨rfl, rfl, rfl, rfl⟩
  · exact fun h => ⟨frameStart_unserved h, chunkDone_unserved h⟩
  · exact fun d h hc hu => chunkDone_idle h hc hu
  · intro d found h
    refine ⟨fun hb => frameStart_busy h hb found, fun hb hc hu => ?_, fun hb hc hu => ?_⟩
    · refine ⟨(keyDue_forced · d), keyDue_never, bDue_spec, fun hq => frameStart_empty h hb hc hu hq found,
        fun src hq => ?_⟩
      obtain ⟨t, hrun, hself, hbusy, hother, hframe⟩ := frameStart_taken h hb hc hu hq found
      refine ⟨t, hrun, ?_⟩
      rw [hself]
      exact ⟨rfl, rfl, rfl, rfl, rfl, rfl, hbusy, hother, hframe⟩
    · exact ⟨fun hq => frameStart_noInput h hb hc hu hq found,
        fun src rest hq hf => frameStart_unit h hb hc hu hq hf found⟩
  · intro d src h hc hu
    obtain ⟨hfull, hroom⟩ := chunkDone_coded h hc hu
    refine ⟨hfull, fun hlen hrec => ?_, fun most hmost hw => chunkData_bound hmost _ hw, fun hrc => if_pos hrc,
      fun hbound hcodec hunits => ?_⟩
    · have hrun := hroom hlen hrec
      obtain ⟨hoffset, htail, hflags, hended, hgoes⟩ := chunkStored_spec (served_of_serves h).desc hc
      exact ⟨_, hrun, hoffset, htail, hflags, hended, hgoes, exec_frame hrun⟩
    · rw [chunkData_unbound hbound]
      exact chunkBytes_start hcodec hunits _ _
  · intro d h hu
    have hrun := chunkDone_decoder h hu
    refine ⟨hrun, exec_frame hrun, unitDecoded_none, fun src hc => ?_, frameShown_idle,
      fun k f hf hk hget hd => frameShown_spec hd hf hk hget hu⟩
    obtain ⟨hself, hbusy⟩ := unitDecoded_spec (d := d) hc
    exact ⟨hself, hbusy, (keeps_unitDecoded (L := 0x30000000) rfl (.refl _ s) n d).sameBut rfl⟩
  · exact fun d bytes => ⟨decodedImage_length d bytes, fun hd k b hk hb => decodedImage_low hd bytes hk hb⟩
  · exact fun d src hd hc => abandonFrame_spec hd hc
  · intro d hd hup hb
    obtain ⟨t, hrun, hself, hother⟩ := codecFeedDone_read hd hup hb
    refine ⟨t, hrun, ?_⟩
    rw [hself]
    exact ⟨rfl, fun hu => feedRead_decoder hu .., fun hu => feedRead_encoder hu .., hother, exec_frame hrun⟩
  · exact codecFeedDone_idle

end Sys2Proof.Machine
end
